-- ==== Sys2Proof/Word.lean ====
section
/-! DEFINITION. The word types of the Zelior Rharon (spec/00_scope.md, R7: little-endian bytes, 64-bit scalars). -/

namespace Sys2Proof

/-- One byte. -/
abbrev Byte := BitVec 8
/-- A scalar of w0, a shape word, a memory word (R64, R112). -/
abbrev Word := BitVec 64
/-- A run of bytes, lowest address first. -/
abbrev Bytes := List (BitVec 8)

end Sys2Proof
end

