-- ==== Sys2Proof/Config.lean ====
section
/-! DEFINITION. What one implementation fixes and what the spec leaves open. Every constant without a body is a
free value: nothing in Lean can see what it is. -/

namespace Sys2Proof.Config

/-- FREE VALUE (log 4): the n-th free number of a run, drawn from State's counter: an amount of device time, an outside sensor's reading, a choice the spec leaves to the Gaffer. -/
opaque freeNat : Nat → Nat
/-- FREE VALUE (log 4): the n-th free bit of a run: old or new byte of unjoined engine data (R196, R249, R267). -/
opaque freeBit : Nat → Bool
/-- FREE VALUE (log 4): the n-th free byte of a run: what a peer's memory holds (R263), a body the spec keeps private. -/
opaque freeByte : Nat → Byte
/-- FREE VALUE (log 4): the code that a trap record gives an access kind (R137 names the item and no coding): 0 read, 1 write. -/
opaque accessKind : Nat → Nat
/-- FREE VALUE (log 12): a correctly rounded exp2 or log2 whose interval of 2^-200 relative width still straddles a rounding boundary; the argument is the operand's bits and the rounding mode. -/
opaque freeRound : Nat → Nat → Nat → Bool
/-- IMPLEMENTATION VALUE (log 13): the SHA-384 of the boot ROM (R421). -/
opaque bootRom : Nat → Byte
/-- IMPLEMENTATION VALUE (log 13): silicon revision (R348). -/
opaque siliconRev : Nat → BitVec 8
/-- IMPLEMENTATION VALUE (log 13): process code and fused VTH of each die (R412). -/
opaque processCode : Nat → BitVec 16
/-- IMPLEMENTATION VALUE (log 13): SRAM threshold in mV of each die (R412). -/
opaque vth : Nat → Nat
/-- IMPLEMENTATION VALUE (log 13): the firmware trust list programmed at manufacture: slot to digest (R420). -/
opaque fwKey : Nat → Bytes
/-- IMPLEMENTATION VALUE (log 13): which module-flash frames the storage controller assigns to a storage unit (R281): storage unit number of a managed frame. -/
opaque flashUnit : Nat → Nat
/-- IMPLEMENTATION VALUE (log 13): the bank unit beside the board-tier bank group where a managed frame lies while its home is the board tier (R281, R377): bank unit number of a managed frame. -/
opaque boardUnit : Nat → Nat
/-- IMPLEMENTATION VALUE (log 13): revoke bits of the firmware trust list (R412, R420). -/
opaque fwRevoked : Nat → Bool
/-- IMPLEMENTATION VALUE (log 13): the boot entry in the private body of a firmware image (R398, R400): a code pointer. -/
opaque bootEntry : Bytes → Nat
/-- IMPLEMENTATION VALUE (log 13): the update routine in the private body of a firmware image (R396): a code pointer. -/
opaque updateEntry : Bytes → Nat
/-- IMPLEMENTATION VALUE (log 13): device-physical base of the firmware store that control cores reach (R394). -/
opaque fwStore : Nat → Nat
/-- IMPLEMENTATION VALUE (log 13): the order of the bytes that SPDM measurement block 3 or 4 is taken over (R421). -/
opaque measured : Nat → List Nat → List Bytes → Bytes

/-- IMPLEMENTATION VALUE (log 13): the translator (R321, R322): an image whose sections 2 to 7 are the native code that it makes of an object's Sylvote form. -/
opaque translated : Bytes → Bytes

/-- FREE VALUE (log 75): the pages that hold the tiles of one band iteration of a kernel: kernel id, parameter block, iteration. -/
opaque tiles : Nat → Nat → Nat → List Nat

/-- IMPLEMENTATION VALUE (log 77): HBM stacks that stand beside a bare compute die, which comes without any (R1). -/
opaque cdStacks : Nat → Nat

/-- The die of a near-data board window (R373): bytes of one bank group. -/
def bankBytes : Nat := 4 * 10 ^ 9
/-- Device-physical base of the board tier (R373). -/
def boardBase : Nat := 2 ^ 40
/-- HBM bytes (R373). -/
def hbmBytes : Nat := 640 * 10 ^ 9
/-- Board-tier bytes (R373). -/
def boardBytes : Nat := 2048 * 10 ^ 9

end Sys2Proof.Config
end

