-- ==== Sys2Proof/Syntax.lean ====
section
/-! DEFINITION. The instructions and steps of the device: one constructor per row of spec/opcode_table.json. Core slot
words carry typed operand fields (R67, R81, R90), near-data words typed register numbers (R284);
the steps that no word encodes are bare names: the agent
they belong to, and what arrives from outside, is the Turn that State holds. -/

namespace Sys2Proof

/-- A 7-bit operand field (R67, R86): element N of the view, a queue pair, or a rotating operand with its base (even or odd) and N[4:0]. -/
inductive Opnd where
  | elem (n : Fin 60)
  | queue (q : Fin 4)
  | rot (odd : Bool) (n : Fin 32)
  deriving DecidableEq, Repr

/-- The number formats of R36, R38 and R87, codes 0 to 14. -/
inductive Fmt where
  | f64 | f32 | bf16 | f16 | e4m3 | e5m2 | e3m2 | e2m3 | i8 | u8 | i4 | zq4 | i16 | i32 | i64
  deriving DecidableEq, Repr

/-- What an asynchronous request asks for (R24, R370, R392). -/
inductive ReqKind where
  | preempt | park | stop
  deriving DecidableEq, Repr

/-- A record of a command stream (R354): its eight-byte words, header first. -/
structure Rec where
  words : List Word
  deriving DecidableEq, Repr

/-- An access that a peer sends through one of its stripe windows (R263, R264, R382). -/
inductive PeerOp where
  | read (n : Nat)
  | write (data : Bytes)
  /-- scope 0 .cl, 1 .dv, 2 .sy; `part` 1: only its read arrives, 2: the write of such a one (R128, R264) -/
  | atomic (op : Nat) (wide : Bool) (y y2 : Word) (sc : Nat := 2) (part : Nat := 0)
  deriving DecidableEq, Repr

/-- A peer's answer to this device's write (R191, R202, R211, R264). -/
inductive PeerAns where
  | ok | unreachable | refused | badBlock
  deriving DecidableEq, Repr

/-- What an ATS completion says (R375): mapped with permissions to a result address, not mapped, or refused (a size below 16 KiB, an
Unsupported Request, a Completer Abort). -/
inductive AtsRes where
  | mapped (r w : Bool) (page : Nat)
  | unmapped
  | refused
  deriving DecidableEq, Repr

/-- A PRI page response (R378). -/
inductive PriAns where
  | success | invalid | failure
  deriving DecidableEq, Repr

/-- A host access over CXL.mem (R265): a read of n bytes or a write. -/
inductive HostAcc where
  | read (n : Nat)
  | write (data : Bytes)
  deriving DecidableEq, Repr

/-- A hand-over request (R332). -/
structure HandReq where
  pa : Word
  cw : Word
  seq : Word
  rmin : BitVec 32
  rgen : Word
  dest : BitVec 2
  deriving DecidableEq, Repr

/-- One 100 µs reading of the package (R409, R412): package and module power in mW, each die's power in mW, hottest sensor in 0.125 °C, SRAM and core rail in mV. -/
structure Sensors where
  pkg : Nat
  mod : Nat
  diePower : List Nat
  temp : List Nat
  sram : List Nat
  coreRail : List Nat
  deriving DecidableEq, Repr

/-- What comes with a step that no word encodes: the agent it belongs to (a sequencer, engine, unit, launch, tenant, frame,
port or die by number, with a second number where the step needs one), a record taken from a stream, or what arrives
from outside. -/
inductive Turn where
  | none
  | agent (q c : Nat)
  | request (q : Nat) (k : ReqKind)
  | record (ten strm : Nat) (r : Rec)
  | block (port ten : Nat) (dst hdr : Word) (payload : Bytes)
  | peer (dev ten : Nat) (addr : Word) (op : PeerOp)
  | ack (dev : Nat) (ans : PeerAns)
  /-- the translation of a region of 16 KiB × 2^size -/
  | ats (die ten : Nat) (va : Word) (res : AtsRes) (size : Nat := 0)
  | inval (ten : Nat) (lo hi : Word)
  | pri (ten : Nat) (va : Word) (ans : PriAns)
  | pull (frame : Nat) (data : Bytes)
  | hand (l : Nat) (rq : HandReq)
  | hostWrite (fn off : Nat) (data : Bytes)
  | hostRead (fn off n : Nat)
  | cxl (addr : Nat) (acc : HostAcc)
  | sensors (x : Sensors)
  deriving DecidableEq, Repr

/-- Every instruction and step of the device. Instructions that a word encodes carry their operands; a step that no word
encodes belongs to the agent that State's `turn` names. -/
inductive Instr where
  /-- NOP (R92). -/
  | nop (n : BitVec 14)
  /-- BKPT (R94). -/
  | bkpt (c : BitVec 14) (m : Bool)
  /-- TRAP (R94). -/
  | trap (c : BitVec 14) (m : Bool)
  /-- SAFE (R95). -/
  | safe (k : BitVec 7)
  /-- HOPT (R95). -/
  | hopt (k : BitVec 7)
  /-- BR_T (R96). -/
  | brT (p : BitVec 4) (l : BitVec 6) (t : BitVec 7)
  /-- BR_F (R96). -/
  | brF (p : BitVec 4) (l : BitVec 6) (t : BitVec 7)
  /-- BR_ANY (R96). -/
  | brAny (p : BitVec 4) (t : BitVec 7)
  /-- BR_NONE (R96). -/
  | brNone (p : BitVec 4) (t : BitVec 7)
  /-- BR_ALL (R96). -/
  | brAll (p : BitVec 4) (t : BitVec 7)
  /-- BR_NALL (R96). -/
  | brNall (p : BitVec 4) (t : BitVec 7)
  /-- JMP (R97). -/
  | jmp (a : Opnd) (m : Bool)
  /-- CALL (R97). -/
  | call (d : Opnd) (a : Opnd) (m : Bool)
  /-- RET (R97). -/
  | ret (a : Opnd) (m : Bool)
  /-- JTAB (R97). -/
  | jtab (d : Opnd) (n : BitVec 14) (m : Bool)
  /-- LOOP (R100). -/
  | loop (a : Opnd) (n : BitVec 4) (t : BitVec 7)
  /-- LOOPI (R100). -/
  | loopi (c : BitVec 11) (n : BitVec 4) (t : BitVec 7)
  /-- ENDL (R100). -/
  | endl (n : BitVec 4)
  /-- MVI (R100). -/
  | mvi (d : Opnd) (n : BitVec 3)
  /-- MVTC (R100). -/
  | mvtc (d : Opnd) (n : BitVec 3)
  /-- PAND (R102). -/
  | pand (d : BitVec 4) (a : BitVec 4) (b : BitVec 4) (m : Bool)
  /-- POR (R102). -/
  | por (d : BitVec 4) (a : BitVec 4) (b : BitVec 4) (m : Bool)
  /-- PXOR (R102). -/
  | pxor (d : BitVec 4) (a : BitVec 4) (b : BitVec 4) (m : Bool)
  /-- PANDN (R102). -/
  | pandn (d : BitVec 4) (a : BitVec 4) (b : BitVec 4) (m : Bool)
  /-- PNOT (R102). -/
  | pnot (d : BitVec 4) (a : BitVec 4) (m : Bool)
  /-- PFIRST (R102). -/
  | pfirst (d : BitVec 4) (a : Opnd) (m : Bool)
  /-- PST (R102). -/
  | pst (d : BitVec 4) (a : BitVec 4) (m : Bool)
  /-- PFS (R102). -/
  | pfs (d : BitVec 4) (a : Opnd) (m : Bool)
  /-- SPF (R102). -/
  | spf (d : Opnd) (a : BitVec 4) (m : Bool)
  /-- STW (R102). -/
  | stw (a : Opnd) (m : Bool)
  /-- STR (R102). -/
  | str (d : Opnd) (m : Bool)
  /-- CEQ (R103). -/
  | ceq (d : BitVec 4) (a : Opnd) (b : Opnd) (m : Bool)
  /-- CNE (R103). -/
  | cne (d : BitVec 4) (a : Opnd) (b : Opnd) (m : Bool)
  /-- CLT (R103). -/
  | clt (d : BitVec 4) (a : Opnd) (b : Opnd) (m : Bool)
  /-- CLE (R103). -/
  | cle (d : BitVec 4) (a : Opnd) (b : Opnd) (m : Bool)
  /-- CLTU (R103). -/
  | cltu (d : BitVec 4) (a : Opnd) (b : Opnd) (m : Bool)
  /-- CLEU (R103). -/
  | cleu (d : BitVec 4) (a : Opnd) (b : Opnd) (m : Bool)
  /-- CTST (R103). -/
  | ctst (d : BitVec 4) (a : Opnd) (b : Opnd) (m : Bool)
  /-- ADD (R104). -/
  | add (d : Opnd) (a : Opnd) (b : Opnd) (m : Bool)
  /-- SUB (R104). -/
  | sub (d : Opnd) (a : Opnd) (b : Opnd) (m : Bool)
  /-- MUL (R104). -/
  | mul (d : Opnd) (a : Opnd) (b : Opnd) (m : Bool)
  /-- MULH (R104). -/
  | mulh (d : Opnd) (a : Opnd) (b : Opnd) (m : Bool)
  /-- MULHU (R104). -/
  | mulhu (d : Opnd) (a : Opnd) (b : Opnd) (m : Bool)
  /-- AND (R104). -/
  | and (d : Opnd) (a : Opnd) (b : Opnd) (m : Bool)
  /-- OR (R104). -/
  | or (d : Opnd) (a : Opnd) (b : Opnd) (m : Bool)
  /-- XOR (R104). -/
  | xor (d : Opnd) (a : Opnd) (b : Opnd) (m : Bool)
  /-- ANDN (R104). -/
  | andn (d : Opnd) (a : Opnd) (b : Opnd) (m : Bool)
  /-- SHL (R104). -/
  | shl (d : Opnd) (a : Opnd) (b : Opnd) (m : Bool)
  /-- SHR (R104). -/
  | shr (d : Opnd) (a : Opnd) (b : Opnd) (m : Bool)
  /-- SAR (R104). -/
  | sar (d : Opnd) (a : Opnd) (b : Opnd) (m : Bool)
  /-- MIN (R104). -/
  | min (d : Opnd) (a : Opnd) (b : Opnd) (m : Bool)
  /-- MAX (R104). -/
  | max (d : Opnd) (a : Opnd) (b : Opnd) (m : Bool)
  /-- MINU (R104). -/
  | minu (d : Opnd) (a : Opnd) (b : Opnd) (m : Bool)
  /-- MAXU (R104). -/
  | maxu (d : Opnd) (a : Opnd) (b : Opnd) (m : Bool)
  /-- ADDI (R105). -/
  | addi (d : Opnd) (a : Opnd) (i : BitVec 10)
  /-- ANDI (R105). -/
  | andi (d : Opnd) (a : Opnd) (i : BitVec 10)
  /-- ORI (R105). -/
  | ori (d : Opnd) (a : Opnd) (i : BitVec 10)
  /-- SHLI (R105). -/
  | shli (d : Opnd) (a : Opnd) (n : BitVec 6)
  /-- SHRI (R105). -/
  | shri (d : Opnd) (a : Opnd) (n : BitVec 6)
  /-- SARI (R105). -/
  | sari (d : Opnd) (a : Opnd) (n : BitVec 6)
  /-- MOVI (R106). -/
  | movi (d : Opnd) (i : BitVec 18)
  /-- LUI (R106). -/
  | lui (d : Opnd) (h : BitVec 2) (c : BitVec 16)
  /-- CLZ (R107). -/
  | clz (d : Opnd) (a : Opnd) (m : Bool)
  /-- POPC (R107). -/
  | popc (d : Opnd) (a : Opnd) (m : Bool)
  /-- CTZ (R107). -/
  | ctz (d : Opnd) (a : Opnd) (m : Bool)
  /-- DIV (R107). -/
  | div (d : Opnd) (a : Opnd) (b : Opnd) (m : Bool)
  /-- DIVU (R107). -/
  | divu (d : Opnd) (a : Opnd) (b : Opnd) (m : Bool)
  /-- REM (R107). -/
  | rem (d : Opnd) (a : Opnd) (b : Opnd) (m : Bool)
  /-- REMU (R107). -/
  | remu (d : Opnd) (a : Opnd) (b : Opnd) (m : Bool)
  /-- SETB (R108). -/
  | setb (d : BitVec 3) (a : Opnd) (m : Bool)
  /-- SETBI (R108). -/
  | setbi (d : BitVec 3) (i : BitVec 14) (m : Bool)
  /-- SETV (R108). -/
  | setv (d : BitVec 2) (a : Opnd) (m : Bool)
  /-- RDSR (R109). -/
  | rdsr (d : Opnd) (r : BitVec 7) (m : Bool)
  /-- WRSR (R109). -/
  | wrsr (a : Opnd) (r : BitVec 7) (m : Bool)
  /-- LD (R116). -/
  | ld (e : BitVec 3) (p : BitVec 4) (a : Opnd) (b : Opnd)
  /-- LD_CNT (R124). -/
  | ldCnt (e : BitVec 3) (p : BitVec 4) (a : Opnd) (b : Opnd)
  /-- LD_FE (R126). -/
  | ldFe (e : BitVec 3) (p : BitVec 4) (a : Opnd) (b : Opnd)
  /-- LD_FEC (R126). -/
  | ldFec (e : BitVec 3) (p : BitVec 4) (a : Opnd) (b : Opnd)
  /-- ST (R120). -/
  | st (e : BitVec 3) (a : Opnd) (b : Opnd)
  /-- ST_CF (R124). -/
  | stCf (e : BitVec 3) (a : Opnd) (b : Opnd)
  /-- ST_FF (R126). -/
  | stFf (e : BitVec 3) (a : Opnd) (b : Opnd)
  /-- ST_FS (R126). -/
  | stFs (e : BitVec 3) (a : Opnd) (b : Opnd)
  /-- ASWAP (R128). -/
  | aswap (d : Opnd) (a : Opnd) (s : BitVec 2) (w : Bool) (n : Bool)
  /-- AADD (R128). -/
  | aadd (d : Opnd) (a : Opnd) (s : BitVec 2) (w : Bool) (n : Bool)
  /-- AAND (R128). -/
  | aand (d : Opnd) (a : Opnd) (s : BitVec 2) (w : Bool) (n : Bool)
  /-- AOR (R128). -/
  | aor (d : Opnd) (a : Opnd) (s : BitVec 2) (w : Bool) (n : Bool)
  /-- AXOR (R128). -/
  | axor (d : Opnd) (a : Opnd) (s : BitVec 2) (w : Bool) (n : Bool)
  /-- AMIN (R128). -/
  | amin (d : Opnd) (a : Opnd) (s : BitVec 2) (w : Bool) (n : Bool)
  /-- AMAX (R128). -/
  | amax (d : Opnd) (a : Opnd) (s : BitVec 2) (w : Bool) (n : Bool)
  /-- AMINU (R128). -/
  | aminu (d : Opnd) (a : Opnd) (s : BitVec 2) (w : Bool) (n : Bool)
  /-- AMAXU (R128). -/
  | amaxu (d : Opnd) (a : Opnd) (s : BitVec 2) (w : Bool) (n : Bool)
  /-- ACAS (R128). -/
  | acas (d : Opnd) (a : Opnd) (s : BitVec 2) (w : Bool) (n : Bool)
  /-- FENCE (R130). -/
  | fence (s : BitVec 2) (m : Bool)
  /-- MWAIT_NE (R131). -/
  | mwaitNe (d : BitVec 4) (a : Opnd) (b : Opnd) (m : Bool)
  /-- MWAIT_GEU (R131). -/
  | mwaitGeu (d : BitVec 4) (a : Opnd) (b : Opnd) (m : Bool)
  /-- PREQ (R131). -/
  | preq (a : Opnd) (b : Opnd) (m : Bool)
  /-- SMAP (R132). -/
  | smap (d : BitVec 3) (a : Opnd) (b : Opnd) (m : Bool)
  /-- SMAPE (R132). -/
  | smape (d : BitVec 3) (a : Opnd) (b : Opnd) (m : Bool)
  /-- CINC (R134). -/
  | cinc (a : Opnd) (b : Opnd) (m : Bool)
  /-- CSNAP (R134). -/
  | csnap (a : Opnd) (m : Bool)
  /-- LDK_S (R161). -/
  | ldkS (d : BitVec 3) (a : Opnd)
  /-- LDK_H (R161). -/
  | ldkH (d : BitVec 3) (a : Opnd)
  /-- LDKT (R161). -/
  | ldkt (a : Opnd)
  /-- RBEGIN (R234). -/
  | rbegin (n : BitVec 4)
  /-- RKEEP (R235). -/
  | rkeep (a : Opnd)
  /-- CHK (R239). -/
  | chk (a : Opnd) (b : Opnd) (m : Bool)
  /-- CHKV (R239). -/
  | chkv (a : Opnd) (b : Opnd) (m : Bool)
  /-- BINIT (R193). -/
  | binit (a : Opnd) (b : Opnd) (m : Bool)
  /-- BARR (R193). -/
  | barr (a : Opnd) (b : Opnd) (m : Bool)
  /-- BWAIT (R194). -/
  | bwait (d : BitVec 4) (a : Opnd) (b : Opnd) (m : Bool)
  /-- ECOPY (R197). -/
  | ecopy (d : BitVec 1) (a : Opnd) (b : Opnd) (m : Bool)
  /-- EXFORM (R197). -/
  | exform (d : Opnd) (a : Opnd) (b : Opnd) (m : Bool)
  /-- PLD (R338). -/
  | pld (d : Opnd) (a : Opnd)
  /-- PCUR (R338). -/
  | pcur (d : Opnd) (n : BitVec 4)
  /-- VADD (R141). -/
  | vadd (f : Fmt) (d : Opnd) (a : Opnd) (b : Opnd) (m : Bool)
  /-- VSUB (R141). -/
  | vsub (f : Fmt) (d : Opnd) (a : Opnd) (b : Opnd) (m : Bool)
  /-- VADDS (R141). -/
  | vadds (f : Fmt) (d : Opnd) (a : Opnd) (b : Opnd) (m : Bool)
  /-- VSUBS (R141). -/
  | vsubs (f : Fmt) (d : Opnd) (a : Opnd) (b : Opnd) (m : Bool)
  /-- VMUL (R141). -/
  | vmul (f : Fmt) (d : Opnd) (a : Opnd) (b : Opnd) (m : Bool)
  /-- VMIN (R141). -/
  | vmin (f : Fmt) (d : Opnd) (a : Opnd) (b : Opnd) (m : Bool)
  /-- VMAX (R141). -/
  | vmax (f : Fmt) (d : Opnd) (a : Opnd) (b : Opnd) (m : Bool)
  /-- VAND (R142). -/
  | vand (d : Opnd) (a : Opnd) (b : Opnd) (m : Bool)
  /-- VOR (R142). -/
  | vor (d : Opnd) (a : Opnd) (b : Opnd) (m : Bool)
  /-- VXOR (R142). -/
  | vxor (d : Opnd) (a : Opnd) (b : Opnd) (m : Bool)
  /-- VANDN (R142). -/
  | vandn (d : Opnd) (a : Opnd) (b : Opnd) (m : Bool)
  /-- VSHL (R142). -/
  | vshl (l : BitVec 2) (d : Opnd) (a : Opnd) (b : Opnd) (m : Bool)
  /-- VSHR (R142). -/
  | vshr (l : BitVec 2) (d : Opnd) (a : Opnd) (b : Opnd) (m : Bool)
  /-- VSAR (R142). -/
  | vsar (l : BitVec 2) (d : Opnd) (a : Opnd) (b : Opnd) (m : Bool)
  /-- VFADD (R143). -/
  | vfadd (f : Fmt) (d : Opnd) (a : Opnd) (b : Opnd) (m : Bool)
  /-- VFSUB (R143). -/
  | vfsub (f : Fmt) (d : Opnd) (a : Opnd) (b : Opnd) (m : Bool)
  /-- VFMUL (R143). -/
  | vfmul (f : Fmt) (d : Opnd) (a : Opnd) (b : Opnd) (m : Bool)
  /-- VFMA (R143). -/
  | vfma (f : Fmt) (d : Opnd) (a : Opnd) (b : Opnd) (m : Bool)
  /-- VFNMS (R143). -/
  | vfnms (f : Fmt) (d : Opnd) (a : Opnd) (b : Opnd) (m : Bool)
  /-- VFMIN (R143). -/
  | vfmin (f : Fmt) (d : Opnd) (a : Opnd) (b : Opnd) (m : Bool)
  /-- VFMAX (R143). -/
  | vfmax (f : Fmt) (d : Opnd) (a : Opnd) (b : Opnd) (m : Bool)
  /-- VRCP (R144). -/
  | vrcp (d : Opnd) (a : Opnd) (m : Bool)
  /-- VRSQRT (R144). -/
  | vrsqrt (d : Opnd) (a : Opnd) (m : Bool)
  /-- VEXP2 (R144). -/
  | vexp2 (d : Opnd) (a : Opnd) (m : Bool)
  /-- VLOG2 (R144). -/
  | vlog2 (d : Opnd) (a : Opnd) (m : Bool)
  /-- VFABS_F64 (R144). -/
  | vfabsF64 (d : Opnd) (a : Opnd) (m : Bool)
  /-- VFABS_F32 (R144). -/
  | vfabsF32 (d : Opnd) (a : Opnd) (m : Bool)
  /-- VFABS_F16 (R144). -/
  | vfabsF16 (d : Opnd) (a : Opnd) (m : Bool)
  /-- VFNEG_F64 (R144). -/
  | vfnegF64 (d : Opnd) (a : Opnd) (m : Bool)
  /-- VFNEG_F32 (R144). -/
  | vfnegF32 (d : Opnd) (a : Opnd) (m : Bool)
  /-- VFNEG_F16 (R144). -/
  | vfnegF16 (d : Opnd) (a : Opnd) (m : Bool)
  /-- VCVT (R145). -/
  | vcvt (f : Fmt) (d : Opnd) (a : Opnd) (s : Fmt) (p : BitVec 2) (m : Bool)
  /-- VZQE (R148). -/
  | vzqe (d : Opnd) (a : Opnd) (b : Opnd) (m : Bool)
  /-- VZQD (R147). -/
  | vzqd (d : Opnd) (a : Opnd) (b : Opnd) (m : Bool)
  /-- VPERM (R149). -/
  | vperm (l : BitVec 2) (d : Opnd) (a : Opnd) (b : Opnd) (m : Bool)
  /-- VBCAST (R149). -/
  | vbcast (l : BitVec 2) (d : Opnd) (a : Opnd) (m : Bool)
  /-- VILO (R149). -/
  | vilo (l : BitVec 2) (d : Opnd) (a : Opnd) (b : Opnd) (m : Bool)
  /-- VIHI (R149). -/
  | vihi (l : BitVec 2) (d : Opnd) (a : Opnd) (b : Opnd) (m : Bool)
  /-- VRSUM (R151). -/
  | vrsum (f : Fmt) (d : Opnd) (a : Opnd) (m : Bool)
  /-- VRMAX (R151). -/
  | vrmax (f : Fmt) (d : Opnd) (a : Opnd) (m : Bool)
  /-- VRMIN (R151). -/
  | vrmin (f : Fmt) (d : Opnd) (a : Opnd) (m : Bool)
  /-- VCMP (R152). -/
  | vcmp (f : Fmt) (c : BitVec 3) (p : BitVec 4) (a : Opnd) (b : Opnd) (m : Bool)
  /-- VSEL (R153). -/
  | vsel (f : Fmt) (d : Opnd) (a : Opnd) (b : Opnd)
  /-- VPMASK (R154). -/
  | vpmask (l : BitVec 2) (d : Opnd) (a : BitVec 4) (m : Bool)
  /-- VPMSB (R154). -/
  | vpmsb (l : BitVec 2) (d : BitVec 4) (a : Opnd) (m : Bool)
  /-- VPNZ (R154). -/
  | vpnz (l : BitVec 2) (d : BitVec 4) (a : Opnd) (m : Bool)
  /-- MCALL (R164). -/
  | mcall (n : BitVec 6) (m : Bool)
  /-- MSET (R163). -/
  | mset (d : BitVec 3) (a : Opnd) (m : Bool)
  /-- MGET (R163). -/
  | mget (d : Opnd) (a : BitVec 3) (m : Bool)
  /-- MLD (R171). -/
  | mld (a : Opnd) (b : Opnd)
  /-- MGAT (R172). -/
  | mgat (d : BitVec 1) (a : Opnd)
  /-- EPI (R179). -/
  | epi (a : Opnd) (m : Bool)
  /-- RFREE (R178). -/
  | rfree (m : Bool)
  /-- RWAIT (R178). -/
  | rwait (n : BitVec 6)
  /-- BLOAD (R219). -/
  | bload (a : Opnd) (b : Opnd)
  /-- BMODE (R220). -/
  | bmode (n : BitVec 1)
  /-- BTWIN (R220). -/
  | btwin (i : BitVec 14)
  /-- BLNCH (R221). -/
  | blnch (a : Opnd)
  /-- BCAP (R223). -/
  | bcap (d : Opnd) (g : BitVec 6)
  /-- BRANK (R224). -/
  | brank (d : Opnd) (g : BitVec 3) (k : BitVec 4)
  /-- BSTAT (R226). -/
  | bstat (d : Opnd)
  /-- GADD (R287). -/
  | gadd (d : BitVec 4) (a : BitVec 4) (b : BitVec 4)
  /-- GSUB (R287). -/
  | gsub (d : BitVec 4) (a : BitVec 4) (b : BitVec 4)
  /-- GMUL (R287). -/
  | gmul (d : BitVec 4) (a : BitVec 4) (b : BitVec 4)
  /-- GAND (R287). -/
  | gand (d : BitVec 4) (a : BitVec 4) (b : BitVec 4)
  /-- GOR (R287). -/
  | gor (d : BitVec 4) (a : BitVec 4) (b : BitVec 4)
  /-- GXOR (R287). -/
  | gxor (d : BitVec 4) (a : BitVec 4) (b : BitVec 4)
  /-- GSHL (R287). -/
  | gshl (d : BitVec 4) (a : BitVec 4) (b : BitVec 4)
  /-- GSHR (R287). -/
  | gshr (d : BitVec 4) (a : BitVec 4) (b : BitVec 4)
  /-- GSAR (R287). -/
  | gsar (d : BitVec 4) (a : BitVec 4) (b : BitVec 4)
  /-- GMIN (R287). -/
  | gmin (d : BitVec 4) (a : BitVec 4) (b : BitVec 4)
  /-- GMAX (R287). -/
  | gmax (d : BitVec 4) (a : BitVec 4) (b : BitVec 4)
  /-- GMINU (R287). -/
  | gminu (d : BitVec 4) (a : BitVec 4) (b : BitVec 4)
  /-- GMAXU (R287). -/
  | gmaxu (d : BitVec 4) (a : BitVec 4) (b : BitVec 4)
  /-- GADDI (R288). -/
  | gaddi (d : BitVec 4) (a : BitVec 4) (i : BitVec 18)
  /-- GMOVI (R288). -/
  | gmovi (d : BitVec 4) (i : BitVec 18)
  /-- GLUI (R288). -/
  | glui (d : BitVec 4) (h : BitVec 2) (c : BitVec 16)
  /-- BEQ (R289). -/
  | beq (a : BitVec 4) (b : BitVec 4) (o : BitVec 15)
  /-- BNE (R289). -/
  | bne (a : BitVec 4) (b : BitVec 4) (o : BitVec 15)
  /-- BLT (R289). -/
  | blt (a : BitVec 4) (b : BitVec 4) (o : BitVec 15)
  /-- BGE (R289). -/
  | bge (a : BitVec 4) (b : BitVec 4) (o : BitVec 15)
  /-- BLTU (R289). -/
  | bltu (a : BitVec 4) (b : BitVec 4) (o : BitVec 15)
  /-- BGEU (R289). -/
  | bgeu (a : BitVec 4) (b : BitVec 4) (o : BitVec 15)
  /-- B (R289). -/
  | b (o : BitVec 15)
  /-- GMVI (R290). -/
  | gmvi (d : BitVec 4) (n : BitVec 3)
  /-- NLOOP (R290). -/
  | nloop (a : BitVec 4) (o : BitVec 15)
  /-- NADD (R292). -/
  | nadd (d : BitVec 4) (a : BitVec 4) (b : BitVec 4) (f : BitVec 3)
  /-- NSUB (R292). -/
  | nsub (d : BitVec 4) (a : BitVec 4) (b : BitVec 4) (f : BitVec 3)
  /-- NMUL (R292). -/
  | nmul (d : BitVec 4) (a : BitVec 4) (b : BitVec 4) (f : BitVec 3)
  /-- NMIN (R292). -/
  | nmin (d : BitVec 4) (a : BitVec 4) (b : BitVec 4) (f : BitVec 3)
  /-- NMAX (R292). -/
  | nmax (d : BitVec 4) (a : BitVec 4) (b : BitVec 4) (f : BitVec 3)
  /-- NMINU (R292). -/
  | nminu (d : BitVec 4) (a : BitVec 4) (b : BitVec 4) (f : BitVec 3)
  /-- NMAXU (R292). -/
  | nmaxu (d : BitVec 4) (a : BitVec 4) (b : BitVec 4) (f : BitVec 3)
  /-- NAND (R292). -/
  | nand (d : BitVec 4) (a : BitVec 4) (b : BitVec 4) (f : BitVec 3)
  /-- NOR (R292). -/
  | nor (d : BitVec 4) (a : BitVec 4) (b : BitVec 4) (f : BitVec 3)
  /-- NXOR (R292). -/
  | nxor (d : BitVec 4) (a : BitVec 4) (b : BitVec 4) (f : BitVec 3)
  /-- NSHL (R292). -/
  | nshl (d : BitVec 4) (a : BitVec 4) (b : BitVec 4) (f : BitVec 3)
  /-- NSHR (R292). -/
  | nshr (d : BitVec 4) (a : BitVec 4) (b : BitVec 4) (f : BitVec 3)
  /-- NSAR (R292). -/
  | nsar (d : BitVec 4) (a : BitVec 4) (b : BitVec 4) (f : BitVec 3)
  /-- NFADD (R292). -/
  | nfadd (d : BitVec 4) (a : BitVec 4) (b : BitVec 4) (f : BitVec 3)
  /-- NFSUB (R292). -/
  | nfsub (d : BitVec 4) (a : BitVec 4) (b : BitVec 4) (f : BitVec 3)
  /-- NFMUL (R292). -/
  | nfmul (d : BitVec 4) (a : BitVec 4) (b : BitVec 4) (f : BitVec 3)
  /-- NFMA (R292). -/
  | nfma (d : BitVec 4) (a : BitVec 4) (b : BitVec 4) (f : BitVec 3)
  /-- NFMIN (R292). -/
  | nfmin (d : BitVec 4) (a : BitVec 4) (b : BitVec 4) (f : BitVec 3)
  /-- NFMAX (R292). -/
  | nfmax (d : BitVec 4) (a : BitVec 4) (b : BitVec 4) (f : BitVec 3)
  /-- NCVT_I32_F32 (R293). -/
  | ncvtI32F32 (d : BitVec 4) (a : BitVec 4) (f : BitVec 3) (r : BitVec 2)
  /-- NCVT_F32_I32 (R293). -/
  | ncvtF32I32 (d : BitVec 4) (a : BitVec 4) (f : BitVec 3) (r : BitVec 2)
  /-- NCMP_I32 (R294). -/
  | ncmpI32 (c : BitVec 3) (d : BitVec 3) (a : BitVec 4) (b : BitVec 4) (f : BitVec 3)
  /-- NCMP_F32 (R294). -/
  | ncmpF32 (c : BitVec 3) (d : BitVec 3) (a : BitVec 4) (b : BitVec 4) (f : BitVec 3)
  /-- FAND (R294). -/
  | fAnd (d : BitVec 3) (a : BitVec 3) (b : BitVec 3)
  /-- FOR (R294). -/
  | fOr (d : BitVec 3) (a : BitVec 3) (b : BitVec 3)
  /-- FXOR (R294). -/
  | fXor (d : BitVec 3) (a : BitVec 3) (b : BitVec 3)
  /-- FANDN (R294). -/
  | fAndn (d : BitVec 3) (a : BitVec 3) (b : BitVec 3)
  /-- FNOT (R294). -/
  | fNot (d : BitVec 3) (a : BitVec 3)
  /-- FSET (R294). -/
  | fSet (d : BitVec 3) (a : BitVec 4)
  /-- FGET (R294). -/
  | fGet (d : BitVec 4) (a : BitVec 3)
  /-- NBCAST (R295). -/
  | nbcast (d : BitVec 4) (a : BitVec 4) (f : BitVec 3)
  /-- NGET (R295). -/
  | nget (d : BitVec 4) (a : BitVec 4) (l : BitVec 4)
  /-- NINS (R295). -/
  | nins (d : BitVec 4) (a : BitVec 4) (l : BitVec 4)
  /-- NMOV (R295). -/
  | nmov (d : BitVec 4) (a : BitVec 4) (f : BitVec 3)
  /-- NRSUM_I32 (R296). -/
  | nrsumI32 (d : BitVec 4) (a : BitVec 4) (f : BitVec 3)
  /-- NRSUM_F32 (R296). -/
  | nrsumF32 (d : BitVec 4) (a : BitVec 4) (f : BitVec 3)
  /-- NRMAX_I32 (R296). -/
  | nrmaxI32 (d : BitVec 4) (a : BitVec 4) (f : BitVec 3)
  /-- NRMIN_I32 (R296). -/
  | nrminI32 (d : BitVec 4) (a : BitVec 4) (f : BitVec 3)
  /-- NRMAX_F32 (R296). -/
  | nrmaxF32 (d : BitVec 4) (a : BitVec 4) (f : BitVec 3)
  /-- NMAC (R299). -/
  | nmac (t : Fmt) (d : BitVec 4) (a : BitVec 2) (b : BitVec 4) (f : BitVec 3) (j : BitVec 3) (z : Bool)
  /-- NSOPEN (R297). -/
  | nsopen (d : BitVec 2) (a : BitVec 4) (b : BitVec 4)
  /-- NLD (R298). -/
  | nld (d : BitVec 4) (a : BitVec 2)
  /-- NST (R298). -/
  | nst (d : BitVec 2) (a : BitVec 4) (f : BitVec 3)
  /-- GRSR (R306). -/
  | grsr (d : BitVec 4) (r : BitVec 8)
  /-- HALT (R93). -/
  | halt
  /-- LPOP (R100). -/
  | lpop
  /-- REND (R236). -/
  | rend
  /-- RWAIT_IDLE (R178). -/
  | rwaitIdle
  /-- BRST (R225). -/
  | brst
  /-- NHALT (R290). -/
  | nhalt
  /-- NENDL (R290). -/
  | nendl
  /-- NLPOP (R290). -/
  | nlpop
  /-- NSAFE (R291); its operand fields are in the unit's instruction register (log 10). -/
  | nsafe
  /-- NHOPT (R305); its operand fields are in the unit's instruction register (log 10). -/
  | nhopt
  /-- NTRAP (R290); its operand fields are in the unit's instruction register (log 10). -/
  | ntrap
  /-- NTAB (R295); its operand fields are in the unit's instruction register (log 10). -/
  | ntab
  /-- NBCP (R302); its operand fields are in the unit's instruction register (log 10). -/
  | nbcp
  /-- CWR (R303); its operand fields are in the unit's instruction register (log 10). -/
  | cwr
  /-- NPSAVE (R304); its operand fields are in the unit's instruction register (log 10). -/
  | npsave
  /-- NPLOAD (R304); its operand fields are in the unit's instruction register (log 10). -/
  | npload
  /-- GWSR (R306); its operand fields are in the unit's instruction register (log 10). -/
  | gwsr
  /-- MEND (R169); its fields are in the running call's micro-word. -/
  | mend
  /-- MMAC (R168); its fields are in the running call's micro-word. -/
  | mmac
  /-- MPUB (R175); its fields are in the running call's micro-word. -/
  | mpub
  /-- MLOOP (R169); its fields are in the running call's micro-word. -/
  | mloop
  /-- MNEXT (R169); its fields are in the running call's micro-word. -/
  | mnext
  /-- MADD (R169); its fields are in the running call's micro-word. -/
  | madd
  /-- BUNDLE_ISSUE (R71). -/
  | bundleIssue
  /-- SEGMENT_EXPANSION_COMPLETE (R78). -/
  | segmentExpansionComplete
  /-- ASYNC_REQUEST (R24). -/
  | asyncRequest
  /-- CONTEXT_SAVE (R387). -/
  | contextSave
  /-- CONTEXT_RESUME (R31). -/
  | contextResume
  /-- GANG_START (R13). -/
  | gangStart
  /-- TICK_10US (R365). -/
  | tick10us
  /-- CANDIDATE_BLOCK_TIMEOUT (R363). -/
  | candidateBlockTimeout
  /-- LOAD_ELEMENT_PERFORM (R249). -/
  | loadElementPerform
  /-- LOAD_ENTRY_DELIVER (R116). -/
  | loadEntryDeliver
  /-- STORE_ELEMENT_PERFORM (R250). -/
  | storeElementPerform
  /-- STORE_STREAM_RESUME (R121). -/
  | storeStreamResume
  /-- FULL_EMPTY_WAIT_END (R251). -/
  | fullEmptyWaitEnd
  /-- ATOMIC_PERFORM (R128). -/
  | atomicPerform
  /-- MWAIT_WAKE (R131). -/
  | mwaitWake
  /-- HOST_BIAS_MWAIT_POLL (R265). -/
  | hostBiasMwaitPoll
  /-- BWAIT_WAKE (R194). -/
  | bwaitWake
  /-- MATRIX_CALL_START (R164). -/
  | matrixCallStart
  /-- MLD_PERFORM (R171). -/
  | mldPerform
  /-- MGAT_PERFORM (R172). -/
  | mgatPerform
  /-- EPI_PERFORM (R181). -/
  | epiPerform
  /-- RFREE_PERFORM (R181). -/
  | rfreePerform
  /-- ENGINE_COMMAND_START (R195). -/
  | engineCommandStart
  /-- COPY_ROW (R199). -/
  | copyRow
  /-- XFORM_PASS (R205). -/
  | xformPass
  /-- ENGINE_COMMAND_COMPLETE (R190). -/
  | engineCommandComplete
  /-- PORT_BLOCK_RECEIVE (R211). -/
  | portBlockReceive
  /-- PEER_ACCESS_ARRIVAL (R263). -/
  | peerAccessArrival
  /-- PEER_WRITE_ACK (R264). -/
  | peerWriteAck
  /-- BEAD_WAVE_COMPLETE (R222). -/
  | beadWaveComplete
  /-- SEQUENCER_END_REPORT (R93). -/
  | sequencerEndReport
  /-- CLUSTER_NODE_ZERO (R366). -/
  | clusterNodeZero
  /-- LAUNCH_END (R366). -/
  | launchEnd
  /-- ACTION_KILL (R370). -/
  | actionKill
  /-- ACTION_REPLAY (R370). -/
  | actionReplay
  /-- ACTION_PARK (R370). -/
  | actionPark
  /-- STREAM_RESET (R353). -/
  | streamReset
  /-- WIX_WRITE (R353). -/
  | wixWrite
  /-- PAD (R354). -/
  | padRec
  /-- LAUNCH (R357). -/
  | launch
  /-- WAIT (R358). -/
  | waitRec
  /-- WAIT_SATISFIED (R358). -/
  | waitSatisfied
  /-- REGISTER (R359). -/
  | register
  /-- GDEF (R360). -/
  | gdef
  /-- GRAPH (R361). -/
  | graph
  /-- GRAPH_NODE_START (R361). -/
  | graphNodeStart
  /-- GPATCH (R361). -/
  | gpatch
  /-- GPATCH_UNBLOCK (R361). -/
  | gpatchUnblock
  /-- RELEASE_REPLAY (R362). -/
  | releaseReplay
  /-- RELEASE_KILL (R362). -/
  | releaseKill
  /-- KILL (R362). -/
  | killRec
  /-- ACTION_SET (R362). -/
  | actionSet
  /-- ATTACH (R392). -/
  | attach
  /-- DETACH (R392). -/
  | detach
  /-- STEP (R393). -/
  | stepRec
  /-- CONTINUE (R392). -/
  | continueRec
  /-- TSET (R351). -/
  | tset
  /-- TKILL (R351). -/
  | tkill
  /-- CTXW (R374). -/
  | ctxw
  /-- PWIN (R374). -/
  | pwin
  /-- BIAS (R381). -/
  | bias
  /-- BIAS_FLIP (R266). -/
  | biasFlip
  /-- FREE (R374). -/
  | free
  /-- WMARK (R374). -/
  | wmark
  /-- ATS_COMPLETION (R375). -/
  | atsCompletion
  /-- ATS_INVALIDATE (R376). -/
  | atsInvalidate
  /-- PAGE_REQUEST (R378). -/
  | pageRequest
  /-- PRI_RESPONSE (R378). -/
  | priResponse
  /-- FRAME_AGE_TICK (R380). -/
  | frameAgeTick
  /-- FRAME_MOVE (R381). -/
  | frameMove
  /-- PROMOTION_BATCH_COMPLETE (R343). -/
  | promotionBatchComplete
  /-- PULL_COMPLETE (R383). -/
  | pullComplete
  /-- PULL_FAIL (R383). -/
  | pullFail
  /-- FRAME_SCRUB (R384). -/
  | frameScrub
  /-- HANDOVER_REQUEST_POST (R332). -/
  | handoverRequestPost
  /-- HANDOVER_RESUME (R334). -/
  | handoverResume
  /-- PORT_ENTRY_DELIVER (R298). -/
  | portEntryDeliver
  /-- NBCP_ENTRY_COPY (R302). -/
  | nbcpEntryCopy
  /-- ECC_CORRECTED_RESUME (R307). -/
  | eccCorrectedResume
  /-- UNIT_END (R290). -/
  | unitEnd
  /-- HOST_WINDOW_WRITE (R349). -/
  | hostWindowWrite
  /-- HOST_WINDOW_READ (R349). -/
  | hostWindowRead
  /-- HOST_CXL_MEM_ACCESS (R265). -/
  | hostCxlMemAccess
  /-- BAR0_WRITE (R348). -/
  | bar0Write
  /-- SPDM_GET_MEASUREMENTS (R421). -/
  | spdmGetMeasurements
  /-- FWUP (R396). -/
  | fwup
  /-- FCHK_WRITE (R398). -/
  | fchkWrite
  /-- FIRMWARE_CHECK_COMPLETE (R398). -/
  | firmwareCheckComplete
  /-- FSW_WRITE (R400). -/
  | fswWrite
  /-- SLOT_SWITCH (R400). -/
  | slotSwitch
  /-- FHB_WRITE (R401). -/
  | fhbWrite
  /-- HEARTBEAT_TIMEOUT (R402). -/
  | heartbeatTimeout
  /-- POWER (R411). -/
  | power
  /-- RAS (R416). -/
  | ras
  /-- ADVANCE (R419). -/
  | advance
  /-- KEYADD (R420). -/
  | keyadd
  /-- KEYREV (R420). -/
  | keyrev
  /-- POWER_ARBITER_STEP (R409). -/
  | powerArbiterStep
  /-- DROOP_STRETCH (R410). -/
  | droopStretch
  /-- THERMAL_SHUTDOWN (R411). -/
  | thermalShutdown
  /-- SRAM_RAIL_BELOW_VTH (R415). -/
  | sramRailBelowVth
  /-- RAIL_RECOVERY_TIMEOUT (R415). -/
  | railRecoveryTimeout
  /-- LOCKSTEP_MISMATCH (R417). -/
  | lockstepMismatch
  /-- PORT_LANE_LOSS (R418). -/
  | portLaneLoss
  /-- PORT_DOWN (R418). -/
  | portDown
  /-- RESET (R416). -/
  | reset
  /-- PRI_RESET (R378). -/
  | priReset
  /-- TCRIT_REACHED (R409). -/
  | tcritReached
  /-- DROOP_END (R410). -/
  | droopEnd
  /-- PORT_UP (R418). -/
  | portUp
  /-- PORT_WRITE_PERFORM (R290). -/
  | portWritePerform
  /-- ILLEGAL_INSTRUCTION (R284). -/
  | illegalInstruction
  /-- END_OF_CODE (R308). -/
  | endOfCode
  /-- RESERVED_MICRO_WORD (R167). -/
  | reservedMicroWord
  deriving DecidableEq, Repr

end Sys2Proof
end

