-- ==== Sys2Proof/Decode.lean ====
section
/-! DEFINITION. The decoder, total on every word, and the encoder written from the same encoding tables: core slot words
(R81 to R83 and the minor tables of the majors), near-data words (R284 to R306), micro-words (R167). -/

namespace Sys2Proof

/-! ### Bit fields and the types of operand fields -/

/-- Bits lo + n - 1 to lo of a word. -/
def fld (w lo n : Nat) : Nat := w / 2 ^ lo % 2 ^ n
/-- Bit lo of a word. -/
def flag (w lo : Nat) : Bool := decide (fld w lo 1 = 1)

/-- The operand field X, N (R67, R86): X in bit 6, N in bits 5 to 0. -/
def Opnd.ofField (f : Nat) : Opnd :=
  if h : f < 60 then .elem ⟨f, h⟩
  else if f < 64 then .queue ⟨(f - 60) % 4, Nat.mod_lt _ (by decide)⟩
  else .rot (decide (32 ≤ f % 64)) ⟨f % 32, Nat.mod_lt _ (by decide)⟩

/-- The field of an operand. -/
def Opnd.toField : Opnd → Nat
  | .elem n => n
  | .queue q => 60 + q
  | .rot odd n => 64 + 32 * odd.toNat + n

/-- A queue operand (R68). -/
def Opnd.isQueue : Opnd → Bool
  | .queue _ => true
  | _ => false

/-- A run s(A) to s(A + k) starts at X = 0, N at most 59 - k (R430). -/
def Opnd.isRun (k : Nat) : Opnd → Bool
  | .elem n => decide (n.val + k ≤ 59)
  | _ => false

/-- The code of a format (R36, R38). -/
def Fmt.toField : Fmt → Nat
  | .f64 => 0 | .f32 => 1 | .bf16 => 2 | .f16 => 3 | .e4m3 => 4 | .e5m2 => 5 | .e3m2 => 6 | .e2m3 => 7
  | .i8 => 8 | .u8 => 9 | .i4 => 10 | .zq4 => 11 | .i16 => 12 | .i32 => 13 | .i64 => 14

/-- The format of a code; code 15 is reserved (R41) and never reaches here. -/
def Fmt.ofField : Nat → Fmt
  | 0 => .f64 | 1 => .f32 | 2 => .bf16 | 3 => .f16 | 4 => .e4m3 | 5 => .e5m2 | 6 => .e3m2 | 7 => .e2m3
  | 8 => .i8 | 9 => .u8 | 10 => .i4 | 11 => .zq4 | 12 => .i16 | 13 => .i32 | _ => .i64

/-- A FMT code that an instruction accepts. -/
def Fmt.accepts (l : List Fmt) (f : Nat) : Bool := decide (f < 15) && l.contains (Fmt.ofField f)

/-- Lane width in bits of the lane formats (R35, R37). -/
def Fmt.laneBits : Fmt → Nat
  | .f64 | .i64 => 64
  | .f32 | .i32 => 32
  | .bf16 | .f16 | .i16 => 16
  | .e4m3 | .e5m2 | .e3m2 | .e2m3 | .i8 | .u8 => 8
  | .i4 | .zq4 => 4

/-- A floating-point lane format. -/
def Fmt.isFloat : Fmt → Bool
  | .f64 | .f32 | .bf16 | .f16 | .e4m3 | .e5m2 | .e3m2 | .e2m3 => true
  | _ => false

/-- Lanes of a 256-bit element (R35). -/
def Fmt.lanes (f : Fmt) : Nat := 256 / f.laneBits

/-- The ratio of R145: r is 1, 2 or 4 and PART is below it. -/
def cvtOk (f s : Fmt) (p : BitVec 2) : Bool :=
  let r := if s.lanes ≤ f.lanes then f.lanes / s.lanes else s.lanes / f.lanes
  decide (r ≤ 4) && decide (p.toNat < r)

/-- Condition 6 (unordered) needs a float format (R152). -/
def cmpOk (f : Fmt) (c : BitVec 3) : Bool := decide (c.toNat < 6) || f.isFloat

/-- An nmac.zq4 may not name n15 as D or B (R300). -/
def nmacOk (t : Fmt) (d b : BitVec 4) : Bool := decide (t ≠ .zq4) || (decide (d ≠ 15) && decide (b ≠ 15))

/-- An instruction when its checks hold. -/
def need (c : Bool) (i : Instr) : Option Instr := if c then some i else none

/-! ### Core slot words -/

/-- Major 0x00. -/
def decCore00 (w : Nat) : Option Instr :=
  match fld w 22 4 with
  | 0 => need (decide (fld w 0 8 = 0)) (.nop (BitVec.ofNat 14 (fld w 8 14)))
  | 1 => need (decide (fld w 0 22 = 0)) (.halt)
  | 2 => need (decide (fld w 1 7 = 0)) (.bkpt (BitVec.ofNat 14 (fld w 8 14)) (flag w 0))
  | 3 => need (decide (fld w 1 7 = 0)) (.trap (BitVec.ofNat 14 (fld w 8 14)) (flag w 0))
  | 4 => need (decide (fld w 0 8 = 0) && decide (fld w 15 7 = 0)) (.safe (BitVec.ofNat 7 (fld w 8 7)))
  | 5 => need (decide (fld w 0 8 = 0) && decide (fld w 15 7 = 0)) (.hopt (BitVec.ofNat 7 (fld w 8 7)))
  | _ => none

/-- Major 0x01. -/
def decCore01 (w : Nat) : Option Instr :=
  if decide (fld w 7 6 = 0) && decide (fld w 19 3 = 4) then some (.brT (BitVec.ofNat 4 (fld w 22 4)) (BitVec.ofNat 6 (fld w 13 6)) (BitVec.ofNat 7 (fld w 0 7)))
  else if decide (fld w 7 6 = 0) && decide (fld w 19 3 = 0) then some (.brF (BitVec.ofNat 4 (fld w 22 4)) (BitVec.ofNat 6 (fld w 13 6)) (BitVec.ofNat 7 (fld w 0 7)))
  else if decide (fld w 7 15 = 20480) then some (.brAny (BitVec.ofNat 4 (fld w 22 4)) (BitVec.ofNat 7 (fld w 0 7)))
  else if decide (fld w 7 15 = 4096) then some (.brNone (BitVec.ofNat 4 (fld w 22 4)) (BitVec.ofNat 7 (fld w 0 7)))
  else if decide (fld w 7 15 = 24576) then some (.brAll (BitVec.ofNat 4 (fld w 22 4)) (BitVec.ofNat 7 (fld w 0 7)))
  else if decide (fld w 7 15 = 8192) then some (.brNall (BitVec.ofNat 4 (fld w 22 4)) (BitVec.ofNat 7 (fld w 0 7)))
  else none

/-- Major 0x02. -/
def decCore02 (w : Nat) : Option Instr :=
  match fld w 22 4 with
  | 0 => need (decide (fld w 1 7 = 0) && decide (fld w 15 7 = 0)) (.jmp (Opnd.ofField (fld w 8 7)) (flag w 0))
  | 1 => need (decide (fld w 1 7 = 0)) (.call (Opnd.ofField (fld w 15 7)) (Opnd.ofField (fld w 8 7)) (flag w 0))
  | 2 => need (decide (fld w 1 7 = 0) && decide (fld w 15 7 = 0)) (.ret (Opnd.ofField (fld w 8 7)) (flag w 0))
  | 3 => some (.jtab (Opnd.ofField (fld w 15 7)) (BitVec.ofNat 14 (fld w 1 14)) (flag w 0))
  | _ => none

/-- Major 0x03. -/
def decCore03 (w : Nat) : Option Instr :=
  match fld w 22 4 with
  | 0 => need (decide (fld w 11 4 = 0)) (.loop (Opnd.ofField (fld w 15 7)) (BitVec.ofNat 4 (fld w 7 4)) (BitVec.ofNat 7 (fld w 0 7)))
  | 1 => some (.loopi (BitVec.ofNat 11 (fld w 11 11)) (BitVec.ofNat 4 (fld w 7 4)) (BitVec.ofNat 7 (fld w 0 7)))
  | 2 => need (decide (fld w 0 7 = 0) && decide (fld w 11 11 = 0)) (.endl (BitVec.ofNat 4 (fld w 7 4)))
  | 3 => need (decide (fld w 0 7 = 0) && decide (fld w 10 5 = 0) && decide (fld w 7 3 < 6)) (.mvi (Opnd.ofField (fld w 15 7)) (BitVec.ofNat 3 (fld w 7 3)))
  | 4 => need (decide (fld w 0 7 = 0) && decide (fld w 10 5 = 0) && decide (fld w 7 3 < 6)) (.mvtc (Opnd.ofField (fld w 15 7)) (BitVec.ofNat 3 (fld w 7 3)))
  | 5 => need (decide (fld w 0 22 = 0)) (.lpop)
  | _ => none

/-- Major 0x04. -/
def decCore04 (w : Nat) : Option Instr :=
  match fld w 22 4 with
  | 0 => need (decide (fld w 15 7 < 16) && decide (fld w 8 7 < 16) && decide (fld w 1 7 < 16)) (.pand (BitVec.ofNat 4 (fld w 15 7)) (BitVec.ofNat 4 (fld w 8 7)) (BitVec.ofNat 4 (fld w 1 7)) (flag w 0))
  | 1 => need (decide (fld w 15 7 < 16) && decide (fld w 8 7 < 16) && decide (fld w 1 7 < 16)) (.por (BitVec.ofNat 4 (fld w 15 7)) (BitVec.ofNat 4 (fld w 8 7)) (BitVec.ofNat 4 (fld w 1 7)) (flag w 0))
  | 2 => need (decide (fld w 15 7 < 16) && decide (fld w 8 7 < 16) && decide (fld w 1 7 < 16)) (.pxor (BitVec.ofNat 4 (fld w 15 7)) (BitVec.ofNat 4 (fld w 8 7)) (BitVec.ofNat 4 (fld w 1 7)) (flag w 0))
  | 3 => need (decide (fld w 15 7 < 16) && decide (fld w 8 7 < 16) && decide (fld w 1 7 < 16)) (.pandn (BitVec.ofNat 4 (fld w 15 7)) (BitVec.ofNat 4 (fld w 8 7)) (BitVec.ofNat 4 (fld w 1 7)) (flag w 0))
  | 4 => need (decide (fld w 1 7 = 0) && decide (fld w 15 7 < 16) && decide (fld w 8 7 < 16)) (.pnot (BitVec.ofNat 4 (fld w 15 7)) (BitVec.ofNat 4 (fld w 8 7)) (flag w 0))
  | 5 => need (decide (fld w 1 7 = 0) && decide (fld w 15 7 < 16)) (.pfirst (BitVec.ofNat 4 (fld w 15 7)) (Opnd.ofField (fld w 8 7)) (flag w 0))
  | 6 => need (decide (fld w 1 7 = 0) && decide (fld w 15 7 < 16) && decide (fld w 8 7 < 16)) (.pst (BitVec.ofNat 4 (fld w 15 7)) (BitVec.ofNat 4 (fld w 8 7)) (flag w 0))
  | 7 => need (decide (fld w 1 7 = 0) && decide (fld w 15 7 < 16)) (.pfs (BitVec.ofNat 4 (fld w 15 7)) (Opnd.ofField (fld w 8 7)) (flag w 0))
  | 8 => need (decide (fld w 1 7 = 0) && decide (fld w 8 7 < 16)) (.spf (Opnd.ofField (fld w 15 7)) (BitVec.ofNat 4 (fld w 8 7)) (flag w 0))
  | 9 => need (decide (fld w 1 7 = 0) && decide (fld w 15 7 = 0)) (.stw (Opnd.ofField (fld w 8 7)) (flag w 0))
  | 10 => need (decide (fld w 1 14 = 0)) (.str (Opnd.ofField (fld w 15 7)) (flag w 0))
  | _ => none

/-- Major 0x05. -/
def decCore05 (w : Nat) : Option Instr :=
  match fld w 22 4 with
  | 0 => need (decide (fld w 15 7 < 16)) (.ceq (BitVec.ofNat 4 (fld w 15 7)) (Opnd.ofField (fld w 8 7)) (Opnd.ofField (fld w 1 7)) (flag w 0))
  | 1 => need (decide (fld w 15 7 < 16)) (.cne (BitVec.ofNat 4 (fld w 15 7)) (Opnd.ofField (fld w 8 7)) (Opnd.ofField (fld w 1 7)) (flag w 0))
  | 2 => need (decide (fld w 15 7 < 16)) (.clt (BitVec.ofNat 4 (fld w 15 7)) (Opnd.ofField (fld w 8 7)) (Opnd.ofField (fld w 1 7)) (flag w 0))
  | 3 => need (decide (fld w 15 7 < 16)) (.cle (BitVec.ofNat 4 (fld w 15 7)) (Opnd.ofField (fld w 8 7)) (Opnd.ofField (fld w 1 7)) (flag w 0))
  | 4 => need (decide (fld w 15 7 < 16)) (.cltu (BitVec.ofNat 4 (fld w 15 7)) (Opnd.ofField (fld w 8 7)) (Opnd.ofField (fld w 1 7)) (flag w 0))
  | 5 => need (decide (fld w 15 7 < 16)) (.cleu (BitVec.ofNat 4 (fld w 15 7)) (Opnd.ofField (fld w 8 7)) (Opnd.ofField (fld w 1 7)) (flag w 0))
  | 6 => need (decide (fld w 15 7 < 16)) (.ctst (BitVec.ofNat 4 (fld w 15 7)) (Opnd.ofField (fld w 8 7)) (Opnd.ofField (fld w 1 7)) (flag w 0))
  | _ => none

/-- Major 0x06. -/
def decCore06 (w : Nat) : Option Instr :=
  match fld w 22 4 with
  | 0 => some (.add (Opnd.ofField (fld w 15 7)) (Opnd.ofField (fld w 8 7)) (Opnd.ofField (fld w 1 7)) (flag w 0))
  | 1 => some (.sub (Opnd.ofField (fld w 15 7)) (Opnd.ofField (fld w 8 7)) (Opnd.ofField (fld w 1 7)) (flag w 0))
  | 2 => some (.mul (Opnd.ofField (fld w 15 7)) (Opnd.ofField (fld w 8 7)) (Opnd.ofField (fld w 1 7)) (flag w 0))
  | 3 => some (.mulh (Opnd.ofField (fld w 15 7)) (Opnd.ofField (fld w 8 7)) (Opnd.ofField (fld w 1 7)) (flag w 0))
  | 4 => some (.mulhu (Opnd.ofField (fld w 15 7)) (Opnd.ofField (fld w 8 7)) (Opnd.ofField (fld w 1 7)) (flag w 0))
  | 5 => some (.and (Opnd.ofField (fld w 15 7)) (Opnd.ofField (fld w 8 7)) (Opnd.ofField (fld w 1 7)) (flag w 0))
  | 6 => some (.or (Opnd.ofField (fld w 15 7)) (Opnd.ofField (fld w 8 7)) (Opnd.ofField (fld w 1 7)) (flag w 0))
  | 7 => some (.xor (Opnd.ofField (fld w 15 7)) (Opnd.ofField (fld w 8 7)) (Opnd.ofField (fld w 1 7)) (flag w 0))
  | 8 => some (.andn (Opnd.ofField (fld w 15 7)) (Opnd.ofField (fld w 8 7)) (Opnd.ofField (fld w 1 7)) (flag w 0))
  | 9 => some (.shl (Opnd.ofField (fld w 15 7)) (Opnd.ofField (fld w 8 7)) (Opnd.ofField (fld w 1 7)) (flag w 0))
  | 10 => some (.shr (Opnd.ofField (fld w 15 7)) (Opnd.ofField (fld w 8 7)) (Opnd.ofField (fld w 1 7)) (flag w 0))
  | 11 => some (.sar (Opnd.ofField (fld w 15 7)) (Opnd.ofField (fld w 8 7)) (Opnd.ofField (fld w 1 7)) (flag w 0))
  | 12 => some (.min (Opnd.ofField (fld w 15 7)) (Opnd.ofField (fld w 8 7)) (Opnd.ofField (fld w 1 7)) (flag w 0))
  | 13 => some (.max (Opnd.ofField (fld w 15 7)) (Opnd.ofField (fld w 8 7)) (Opnd.ofField (fld w 1 7)) (flag w 0))
  | 14 => some (.minu (Opnd.ofField (fld w 15 7)) (Opnd.ofField (fld w 8 7)) (Opnd.ofField (fld w 1 7)) (flag w 0))
  | 15 => some (.maxu (Opnd.ofField (fld w 15 7)) (Opnd.ofField (fld w 8 7)) (Opnd.ofField (fld w 1 7)) (flag w 0))
  | _ => none

/-- Major 0x07. -/
def decCore07 (w : Nat) : Option Instr :=
  match fld w 24 2 with
  | 0 => some (.addi (Opnd.ofField (fld w 17 7)) (Opnd.ofField (fld w 10 7)) (BitVec.ofNat 10 (fld w 0 10)))
  | 1 => some (.andi (Opnd.ofField (fld w 17 7)) (Opnd.ofField (fld w 10 7)) (BitVec.ofNat 10 (fld w 0 10)))
  | 2 => some (.ori (Opnd.ofField (fld w 17 7)) (Opnd.ofField (fld w 10 7)) (BitVec.ofNat 10 (fld w 0 10)))
  | 3 => if decide (fld w 6 4 = 0) then some (.shli (Opnd.ofField (fld w 17 7)) (Opnd.ofField (fld w 10 7)) (BitVec.ofNat 6 (fld w 0 6))) else if decide (fld w 6 4 = 4) then some (.shri (Opnd.ofField (fld w 17 7)) (Opnd.ofField (fld w 10 7)) (BitVec.ofNat 6 (fld w 0 6))) else if decide (fld w 6 4 = 8) then some (.sari (Opnd.ofField (fld w 17 7)) (Opnd.ofField (fld w 10 7)) (BitVec.ofNat 6 (fld w 0 6))) else none
  | _ => none

/-- Major 0x08. -/
def decCore08 (w : Nat) : Option Instr :=
  if decide (fld w 18 1 = 0) then some (.movi (Opnd.ofField (fld w 19 7)) (BitVec.ofNat 18 (fld w 0 18)))
  else if decide (fld w 18 1 = 1) then some (.lui (Opnd.ofField (fld w 19 7)) (BitVec.ofNat 2 (fld w 16 2)) (BitVec.ofNat 16 (fld w 0 16)))
  else none

/-- Major 0x09. -/
def decCore09 (w : Nat) : Option Instr :=
  match fld w 22 4 with
  | 0 => need (decide (fld w 1 7 = 0)) (.clz (Opnd.ofField (fld w 15 7)) (Opnd.ofField (fld w 8 7)) (flag w 0))
  | 1 => need (decide (fld w 1 7 = 0)) (.popc (Opnd.ofField (fld w 15 7)) (Opnd.ofField (fld w 8 7)) (flag w 0))
  | 2 => need (decide (fld w 1 7 = 0)) (.ctz (Opnd.ofField (fld w 15 7)) (Opnd.ofField (fld w 8 7)) (flag w 0))
  | 3 => some (.div (Opnd.ofField (fld w 15 7)) (Opnd.ofField (fld w 8 7)) (Opnd.ofField (fld w 1 7)) (flag w 0))
  | 4 => some (.divu (Opnd.ofField (fld w 15 7)) (Opnd.ofField (fld w 8 7)) (Opnd.ofField (fld w 1 7)) (flag w 0))
  | 5 => some (.rem (Opnd.ofField (fld w 15 7)) (Opnd.ofField (fld w 8 7)) (Opnd.ofField (fld w 1 7)) (flag w 0))
  | 6 => some (.remu (Opnd.ofField (fld w 15 7)) (Opnd.ofField (fld w 8 7)) (Opnd.ofField (fld w 1 7)) (flag w 0))
  | _ => none

/-- Major 0x0A. -/
def decCore0A (w : Nat) : Option Instr :=
  match fld w 22 4 with
  | 0 => need (decide (fld w 1 7 = 0) && decide (fld w 15 7 < 8)) (.setb (BitVec.ofNat 3 (fld w 15 7)) (Opnd.ofField (fld w 8 7)) (flag w 0))
  | 1 => need (decide (fld w 15 7 < 8)) (.setbi (BitVec.ofNat 3 (fld w 15 7)) (BitVec.ofNat 14 (fld w 1 14)) (flag w 0))
  | 2 => need (decide (fld w 1 7 = 0) && decide (fld w 15 7 < 4)) (.setv (BitVec.ofNat 2 (fld w 15 7)) (Opnd.ofField (fld w 8 7)) (flag w 0))
  | 3 => need (decide (fld w 8 7 = 0)) (.rdsr (Opnd.ofField (fld w 15 7)) (BitVec.ofNat 7 (fld w 1 7)) (flag w 0))
  | 4 => need (decide (fld w 15 7 = 0)) (.wrsr (Opnd.ofField (fld w 8 7)) (BitVec.ofNat 7 (fld w 1 7)) (flag w 0))
  | _ => none

/-- Major 0x0B. -/
def decCore0B (w : Nat) : Option Instr :=
  match fld w 22 4 with
  | 0 => need (decide (fld w 0 1 = 0) && decide (fld w 19 3 < 6)) (.ld (BitVec.ofNat 3 (fld w 19 3)) (BitVec.ofNat 4 (fld w 15 4)) (Opnd.ofField (fld w 8 7)) (Opnd.ofField (fld w 1 7)))
  | 1 => need (decide (fld w 0 1 = 0) && decide (fld w 19 3 < 6)) (.ldCnt (BitVec.ofNat 3 (fld w 19 3)) (BitVec.ofNat 4 (fld w 15 4)) (Opnd.ofField (fld w 8 7)) (Opnd.ofField (fld w 1 7)))
  | 2 => need (decide (fld w 0 1 = 0) && decide (fld w 19 3 < 6)) (.ldFe (BitVec.ofNat 3 (fld w 19 3)) (BitVec.ofNat 4 (fld w 15 4)) (Opnd.ofField (fld w 8 7)) (Opnd.ofField (fld w 1 7)))
  | 3 => need (decide (fld w 0 1 = 0) && decide (fld w 19 3 < 6)) (.ldFec (BitVec.ofNat 3 (fld w 19 3)) (BitVec.ofNat 4 (fld w 15 4)) (Opnd.ofField (fld w 8 7)) (Opnd.ofField (fld w 1 7)))
  | _ => none

/-- Major 0x0C. -/
def decCore0C (w : Nat) : Option Instr :=
  match fld w 22 4 with
  | 0 => need (decide (fld w 0 1 = 0) && decide (fld w 15 4 = 0) && decide (fld w 19 3 < 6)) (.st (BitVec.ofNat 3 (fld w 19 3)) (Opnd.ofField (fld w 8 7)) (Opnd.ofField (fld w 1 7)))
  | 1 => need (decide (fld w 0 1 = 0) && decide (fld w 15 4 = 0) && decide (fld w 19 3 < 6)) (.stCf (BitVec.ofNat 3 (fld w 19 3)) (Opnd.ofField (fld w 8 7)) (Opnd.ofField (fld w 1 7)))
  | 2 => need (decide (fld w 0 1 = 0) && decide (fld w 15 4 = 0) && decide (fld w 19 3 < 6)) (.stFf (BitVec.ofNat 3 (fld w 19 3)) (Opnd.ofField (fld w 8 7)) (Opnd.ofField (fld w 1 7)))
  | 3 => need (decide (fld w 0 1 = 0) && decide (fld w 15 4 = 0) && decide (fld w 19 3 < 6)) (.stFs (BitVec.ofNat 3 (fld w 19 3)) (Opnd.ofField (fld w 8 7)) (Opnd.ofField (fld w 1 7)))
  | _ => none

/-- Major 0x0D. -/
def decCore0D (w : Nat) : Option Instr :=
  match fld w 22 4 with
  | 0 => need (decide (fld w 0 4 = 0) && decide (fld w 6 2 < 3)) (.aswap (Opnd.ofField (fld w 15 7)) (Opnd.ofField (fld w 8 7)) (BitVec.ofNat 2 (fld w 6 2)) (flag w 5) (flag w 4))
  | 1 => need (decide (fld w 0 4 = 0) && decide (fld w 6 2 < 3)) (.aadd (Opnd.ofField (fld w 15 7)) (Opnd.ofField (fld w 8 7)) (BitVec.ofNat 2 (fld w 6 2)) (flag w 5) (flag w 4))
  | 2 => need (decide (fld w 0 4 = 0) && decide (fld w 6 2 < 3)) (.aand (Opnd.ofField (fld w 15 7)) (Opnd.ofField (fld w 8 7)) (BitVec.ofNat 2 (fld w 6 2)) (flag w 5) (flag w 4))
  | 3 => need (decide (fld w 0 4 = 0) && decide (fld w 6 2 < 3)) (.aor (Opnd.ofField (fld w 15 7)) (Opnd.ofField (fld w 8 7)) (BitVec.ofNat 2 (fld w 6 2)) (flag w 5) (flag w 4))
  | 4 => need (decide (fld w 0 4 = 0) && decide (fld w 6 2 < 3)) (.axor (Opnd.ofField (fld w 15 7)) (Opnd.ofField (fld w 8 7)) (BitVec.ofNat 2 (fld w 6 2)) (flag w 5) (flag w 4))
  | 5 => need (decide (fld w 0 4 = 0) && decide (fld w 6 2 < 3)) (.amin (Opnd.ofField (fld w 15 7)) (Opnd.ofField (fld w 8 7)) (BitVec.ofNat 2 (fld w 6 2)) (flag w 5) (flag w 4))
  | 6 => need (decide (fld w 0 4 = 0) && decide (fld w 6 2 < 3)) (.amax (Opnd.ofField (fld w 15 7)) (Opnd.ofField (fld w 8 7)) (BitVec.ofNat 2 (fld w 6 2)) (flag w 5) (flag w 4))
  | 7 => need (decide (fld w 0 4 = 0) && decide (fld w 6 2 < 3)) (.aminu (Opnd.ofField (fld w 15 7)) (Opnd.ofField (fld w 8 7)) (BitVec.ofNat 2 (fld w 6 2)) (flag w 5) (flag w 4))
  | 8 => need (decide (fld w 0 4 = 0) && decide (fld w 6 2 < 3)) (.amaxu (Opnd.ofField (fld w 15 7)) (Opnd.ofField (fld w 8 7)) (BitVec.ofNat 2 (fld w 6 2)) (flag w 5) (flag w 4))
  | 9 => need (decide (fld w 0 4 = 0) && (Opnd.ofField (fld w 15 7)).isRun 1 && decide (fld w 6 2 < 3)) (.acas (Opnd.ofField (fld w 15 7)) (Opnd.ofField (fld w 8 7)) (BitVec.ofNat 2 (fld w 6 2)) (flag w 5) (flag w 4))
  | _ => none

/-- Major 0x0E. -/
def decCore0E (w : Nat) : Option Instr :=
  match fld w 22 4 with
  | 0 => need (decide (fld w 1 5 = 0) && decide (fld w 8 14 = 0) && decide (fld w 6 2 < 3)) (.fence (BitVec.ofNat 2 (fld w 6 2)) (flag w 0))
  | 1 => need (decide (fld w 15 7 < 16)) (.mwaitNe (BitVec.ofNat 4 (fld w 15 7)) (Opnd.ofField (fld w 8 7)) (Opnd.ofField (fld w 1 7)) (flag w 0))
  | 2 => need (decide (fld w 15 7 < 16)) (.mwaitGeu (BitVec.ofNat 4 (fld w 15 7)) (Opnd.ofField (fld w 8 7)) (Opnd.ofField (fld w 1 7)) (flag w 0))
  | 3 => need (decide (fld w 15 7 = 0)) (.preq (Opnd.ofField (fld w 8 7)) (Opnd.ofField (fld w 1 7)) (flag w 0))
  | 4 => need (decide (fld w 15 7 < 8)) (.smap (BitVec.ofNat 3 (fld w 15 7)) (Opnd.ofField (fld w 8 7)) (Opnd.ofField (fld w 1 7)) (flag w 0))
  | 5 => need (decide (fld w 15 7 < 8)) (.smape (BitVec.ofNat 3 (fld w 15 7)) (Opnd.ofField (fld w 8 7)) (Opnd.ofField (fld w 1 7)) (flag w 0))
  | _ => none

/-- Major 0x0F. -/
def decCore0F (w : Nat) : Option Instr :=
  match fld w 22 4 with
  | 0 => need (decide (fld w 15 7 = 0)) (.cinc (Opnd.ofField (fld w 8 7)) (Opnd.ofField (fld w 1 7)) (flag w 0))
  | 1 => need (decide (fld w 1 7 = 0) && decide (fld w 15 7 = 0)) (.csnap (Opnd.ofField (fld w 8 7)) (flag w 0))
  | _ => none

/-- Major 0x10. -/
def decCore10 (w : Nat) : Option Instr :=
  match fld w 22 4 with
  | 0 => need (decide (fld w 0 8 = 0) && decide (fld w 15 7 < 8)) (.ldkS (BitVec.ofNat 3 (fld w 15 7)) (Opnd.ofField (fld w 8 7)))
  | 1 => need (decide (fld w 0 8 = 0) && decide (fld w 15 7 < 8)) (.ldkH (BitVec.ofNat 3 (fld w 15 7)) (Opnd.ofField (fld w 8 7)))
  | 2 => need (decide (fld w 0 8 = 0) && decide (fld w 15 7 = 0)) (.ldkt (Opnd.ofField (fld w 8 7)))
  | _ => none

/-- Major 0x11. -/
def decCore11 (w : Nat) : Option Instr :=
  match fld w 22 4 with
  | 0 => need (decide (fld w 0 8 = 0) && decide (fld w 15 7 = 0) && decide (fld w 8 7 < 16)) (.rbegin (BitVec.ofNat 4 (fld w 8 7)))
  | 1 => need (decide (fld w 0 8 = 0) && decide (fld w 15 7 = 0)) (.rkeep (Opnd.ofField (fld w 8 7)))
  | 2 => need (decide (fld w 0 22 = 0)) (.rend)
  | 3 => need (decide (fld w 15 7 = 0)) (.chk (Opnd.ofField (fld w 8 7)) (Opnd.ofField (fld w 1 7)) (flag w 0))
  | 4 => need (decide (fld w 15 7 = 0)) (.chkv (Opnd.ofField (fld w 8 7)) (Opnd.ofField (fld w 1 7)) (flag w 0))
  | _ => none

/-- Major 0x12. -/
def decCore12 (w : Nat) : Option Instr :=
  match fld w 22 4 with
  | 0 => need (decide (fld w 15 7 = 0)) (.binit (Opnd.ofField (fld w 8 7)) (Opnd.ofField (fld w 1 7)) (flag w 0))
  | 1 => need (decide (fld w 15 7 = 0)) (.barr (Opnd.ofField (fld w 8 7)) (Opnd.ofField (fld w 1 7)) (flag w 0))
  | 2 => need (decide (fld w 15 7 < 16)) (.bwait (BitVec.ofNat 4 (fld w 15 7)) (Opnd.ofField (fld w 8 7)) (Opnd.ofField (fld w 1 7)) (flag w 0))
  | _ => none

/-- Major 0x13. -/
def decCore13 (w : Nat) : Option Instr :=
  match fld w 22 4 with
  | 0 => need (decide (fld w 15 7 < 2)) (.ecopy (BitVec.ofNat 1 (fld w 15 7)) (Opnd.ofField (fld w 8 7)) (Opnd.ofField (fld w 1 7)) (flag w 0))
  | 1 => some (.exform (Opnd.ofField (fld w 15 7)) (Opnd.ofField (fld w 8 7)) (Opnd.ofField (fld w 1 7)) (flag w 0))
  | _ => none

/-- Major 0x14. -/
def decCore14 (w : Nat) : Option Instr :=
  match fld w 22 4 with
  | 0 => need (decide (fld w 0 8 = 0) && (Opnd.ofField (fld w 8 7)).isRun 1) (.pld (Opnd.ofField (fld w 15 7)) (Opnd.ofField (fld w 8 7)))
  | 1 => need (decide (fld w 0 8 = 0) && decide (fld w 8 7 < 10)) (.pcur (Opnd.ofField (fld w 15 7)) (BitVec.ofNat 4 (fld w 8 7)))
  | _ => none

/-- Major 0x18. -/
def decCore18 (w : Nat) : Option Instr :=
  need (Fmt.accepts [.i8, .u8, .i16, .i32, .i64] (fld w 22 4)) (.vadd (Fmt.ofField (fld w 22 4)) (Opnd.ofField (fld w 15 7)) (Opnd.ofField (fld w 8 7)) (Opnd.ofField (fld w 1 7)) (flag w 0))

/-- Major 0x19. -/
def decCore19 (w : Nat) : Option Instr :=
  need (Fmt.accepts [.i8, .u8, .i16, .i32, .i64] (fld w 22 4)) (.vsub (Fmt.ofField (fld w 22 4)) (Opnd.ofField (fld w 15 7)) (Opnd.ofField (fld w 8 7)) (Opnd.ofField (fld w 1 7)) (flag w 0))

/-- Major 0x1A. -/
def decCore1A (w : Nat) : Option Instr :=
  need (Fmt.accepts [.i8, .u8, .i16, .i32, .i64] (fld w 22 4)) (.vadds (Fmt.ofField (fld w 22 4)) (Opnd.ofField (fld w 15 7)) (Opnd.ofField (fld w 8 7)) (Opnd.ofField (fld w 1 7)) (flag w 0))

/-- Major 0x1B. -/
def decCore1B (w : Nat) : Option Instr :=
  need (Fmt.accepts [.i8, .u8, .i16, .i32, .i64] (fld w 22 4)) (.vsubs (Fmt.ofField (fld w 22 4)) (Opnd.ofField (fld w 15 7)) (Opnd.ofField (fld w 8 7)) (Opnd.ofField (fld w 1 7)) (flag w 0))

/-- Major 0x1C. -/
def decCore1C (w : Nat) : Option Instr :=
  need (Fmt.accepts [.i8, .u8, .i16, .i32, .i64] (fld w 22 4)) (.vmul (Fmt.ofField (fld w 22 4)) (Opnd.ofField (fld w 15 7)) (Opnd.ofField (fld w 8 7)) (Opnd.ofField (fld w 1 7)) (flag w 0))

/-- Major 0x1D. -/
def decCore1D (w : Nat) : Option Instr :=
  need (Fmt.accepts [.i8, .u8, .i16, .i32, .i64] (fld w 22 4)) (.vmin (Fmt.ofField (fld w 22 4)) (Opnd.ofField (fld w 15 7)) (Opnd.ofField (fld w 8 7)) (Opnd.ofField (fld w 1 7)) (flag w 0))

/-- Major 0x1E. -/
def decCore1E (w : Nat) : Option Instr :=
  need (Fmt.accepts [.i8, .u8, .i16, .i32, .i64] (fld w 22 4)) (.vmax (Fmt.ofField (fld w 22 4)) (Opnd.ofField (fld w 15 7)) (Opnd.ofField (fld w 8 7)) (Opnd.ofField (fld w 1 7)) (flag w 0))

/-- Major 0x1F. -/
def decCore1F (w : Nat) : Option Instr :=
  match fld w 24 2 with
  | 0 => if decide (fld w 22 2 = 0) then some (.vand (Opnd.ofField (fld w 15 7)) (Opnd.ofField (fld w 8 7)) (Opnd.ofField (fld w 1 7)) (flag w 0)) else if decide (fld w 22 2 = 1) then some (.vor (Opnd.ofField (fld w 15 7)) (Opnd.ofField (fld w 8 7)) (Opnd.ofField (fld w 1 7)) (flag w 0)) else if decide (fld w 22 2 = 2) then some (.vxor (Opnd.ofField (fld w 15 7)) (Opnd.ofField (fld w 8 7)) (Opnd.ofField (fld w 1 7)) (flag w 0)) else if decide (fld w 22 2 = 3) then some (.vandn (Opnd.ofField (fld w 15 7)) (Opnd.ofField (fld w 8 7)) (Opnd.ofField (fld w 1 7)) (flag w 0)) else none
  | 1 => some (.vshl (BitVec.ofNat 2 (fld w 22 2)) (Opnd.ofField (fld w 15 7)) (Opnd.ofField (fld w 8 7)) (Opnd.ofField (fld w 1 7)) (flag w 0))
  | 2 => some (.vshr (BitVec.ofNat 2 (fld w 22 2)) (Opnd.ofField (fld w 15 7)) (Opnd.ofField (fld w 8 7)) (Opnd.ofField (fld w 1 7)) (flag w 0))
  | 3 => some (.vsar (BitVec.ofNat 2 (fld w 22 2)) (Opnd.ofField (fld w 15 7)) (Opnd.ofField (fld w 8 7)) (Opnd.ofField (fld w 1 7)) (flag w 0))
  | _ => none

/-- Major 0x20. -/
def decCore20 (w : Nat) : Option Instr :=
  need (Fmt.accepts [.f64, .f32, .bf16, .f16] (fld w 22 4)) (.vfadd (Fmt.ofField (fld w 22 4)) (Opnd.ofField (fld w 15 7)) (Opnd.ofField (fld w 8 7)) (Opnd.ofField (fld w 1 7)) (flag w 0))

/-- Major 0x21. -/
def decCore21 (w : Nat) : Option Instr :=
  need (Fmt.accepts [.f64, .f32, .bf16, .f16] (fld w 22 4)) (.vfsub (Fmt.ofField (fld w 22 4)) (Opnd.ofField (fld w 15 7)) (Opnd.ofField (fld w 8 7)) (Opnd.ofField (fld w 1 7)) (flag w 0))

/-- Major 0x22. -/
def decCore22 (w : Nat) : Option Instr :=
  need (Fmt.accepts [.f64, .f32, .bf16, .f16] (fld w 22 4)) (.vfmul (Fmt.ofField (fld w 22 4)) (Opnd.ofField (fld w 15 7)) (Opnd.ofField (fld w 8 7)) (Opnd.ofField (fld w 1 7)) (flag w 0))

/-- Major 0x23. -/
def decCore23 (w : Nat) : Option Instr :=
  need (Fmt.accepts [.f64, .f32, .bf16, .f16] (fld w 22 4) && !(Opnd.ofField (fld w 15 7)).isQueue) (.vfma (Fmt.ofField (fld w 22 4)) (Opnd.ofField (fld w 15 7)) (Opnd.ofField (fld w 8 7)) (Opnd.ofField (fld w 1 7)) (flag w 0))

/-- Major 0x24. -/
def decCore24 (w : Nat) : Option Instr :=
  need (Fmt.accepts [.f64, .f32, .bf16, .f16] (fld w 22 4) && !(Opnd.ofField (fld w 15 7)).isQueue) (.vfnms (Fmt.ofField (fld w 22 4)) (Opnd.ofField (fld w 15 7)) (Opnd.ofField (fld w 8 7)) (Opnd.ofField (fld w 1 7)) (flag w 0))

/-- Major 0x25. -/
def decCore25 (w : Nat) : Option Instr :=
  need (Fmt.accepts [.f64, .f32, .bf16, .f16] (fld w 22 4)) (.vfmin (Fmt.ofField (fld w 22 4)) (Opnd.ofField (fld w 15 7)) (Opnd.ofField (fld w 8 7)) (Opnd.ofField (fld w 1 7)) (flag w 0))

/-- Major 0x26. -/
def decCore26 (w : Nat) : Option Instr :=
  need (Fmt.accepts [.f64, .f32, .bf16, .f16] (fld w 22 4)) (.vfmax (Fmt.ofField (fld w 22 4)) (Opnd.ofField (fld w 15 7)) (Opnd.ofField (fld w 8 7)) (Opnd.ofField (fld w 1 7)) (flag w 0))

/-- Major 0x27. -/
def decCore27 (w : Nat) : Option Instr :=
  match fld w 22 4 with
  | 0 => need (decide (fld w 1 7 = 0)) (.vrcp (Opnd.ofField (fld w 15 7)) (Opnd.ofField (fld w 8 7)) (flag w 0))
  | 1 => need (decide (fld w 1 7 = 0)) (.vrsqrt (Opnd.ofField (fld w 15 7)) (Opnd.ofField (fld w 8 7)) (flag w 0))
  | 2 => need (decide (fld w 1 7 = 0)) (.vexp2 (Opnd.ofField (fld w 15 7)) (Opnd.ofField (fld w 8 7)) (flag w 0))
  | 3 => need (decide (fld w 1 7 = 0)) (.vlog2 (Opnd.ofField (fld w 15 7)) (Opnd.ofField (fld w 8 7)) (flag w 0))
  | 4 => need (decide (fld w 1 7 = 0)) (.vfabsF64 (Opnd.ofField (fld w 15 7)) (Opnd.ofField (fld w 8 7)) (flag w 0))
  | 5 => need (decide (fld w 1 7 = 0)) (.vfabsF32 (Opnd.ofField (fld w 15 7)) (Opnd.ofField (fld w 8 7)) (flag w 0))
  | 6 => need (decide (fld w 1 7 = 0)) (.vfabsF16 (Opnd.ofField (fld w 15 7)) (Opnd.ofField (fld w 8 7)) (flag w 0))
  | 7 => need (decide (fld w 1 7 = 0)) (.vfnegF64 (Opnd.ofField (fld w 15 7)) (Opnd.ofField (fld w 8 7)) (flag w 0))
  | 8 => need (decide (fld w 1 7 = 0)) (.vfnegF32 (Opnd.ofField (fld w 15 7)) (Opnd.ofField (fld w 8 7)) (flag w 0))
  | 9 => need (decide (fld w 1 7 = 0)) (.vfnegF16 (Opnd.ofField (fld w 15 7)) (Opnd.ofField (fld w 8 7)) (flag w 0))
  | _ => none

/-- Major 0x28. -/
def decCore28 (w : Nat) : Option Instr :=
  need (decide (fld w 1 1 = 0) && Fmt.accepts [.f64, .f32, .bf16, .f16, .e4m3, .e5m2, .e3m2, .e2m3, .i8, .u8, .i4, .i16, .i32, .i64] (fld w 22 4) && Fmt.accepts [.f64, .f32, .bf16, .f16, .e4m3, .e5m2, .e3m2, .e2m3, .i8, .u8, .i4, .i16, .i32, .i64] (fld w 4 4) && cvtOk (Fmt.ofField (fld w 22 4)) (Fmt.ofField (fld w 4 4)) (BitVec.ofNat 2 (fld w 2 2))) (.vcvt (Fmt.ofField (fld w 22 4)) (Opnd.ofField (fld w 15 7)) (Opnd.ofField (fld w 8 7)) (Fmt.ofField (fld w 4 4)) (BitVec.ofNat 2 (fld w 2 2)) (flag w 0))

/-- Major 0x29. -/
def decCore29 (w : Nat) : Option Instr :=
  match fld w 22 4 with
  | 0 => some (.vzqe (Opnd.ofField (fld w 15 7)) (Opnd.ofField (fld w 8 7)) (Opnd.ofField (fld w 1 7)) (flag w 0))
  | 1 => some (.vzqd (Opnd.ofField (fld w 15 7)) (Opnd.ofField (fld w 8 7)) (Opnd.ofField (fld w 1 7)) (flag w 0))
  | _ => none

/-- Major 0x2A. -/
def decCore2A (w : Nat) : Option Instr :=
  match fld w 24 2 with
  | 0 => some (.vperm (BitVec.ofNat 2 (fld w 22 2)) (Opnd.ofField (fld w 15 7)) (Opnd.ofField (fld w 8 7)) (Opnd.ofField (fld w 1 7)) (flag w 0))
  | 1 => need (decide (fld w 1 7 = 0)) (.vbcast (BitVec.ofNat 2 (fld w 22 2)) (Opnd.ofField (fld w 15 7)) (Opnd.ofField (fld w 8 7)) (flag w 0))
  | 2 => some (.vilo (BitVec.ofNat 2 (fld w 22 2)) (Opnd.ofField (fld w 15 7)) (Opnd.ofField (fld w 8 7)) (Opnd.ofField (fld w 1 7)) (flag w 0))
  | 3 => some (.vihi (BitVec.ofNat 2 (fld w 22 2)) (Opnd.ofField (fld w 15 7)) (Opnd.ofField (fld w 8 7)) (Opnd.ofField (fld w 1 7)) (flag w 0))
  | _ => none

/-- Major 0x2B. -/
def decCore2B (w : Nat) : Option Instr :=
  if decide (fld w 1 7 = 0) && Fmt.accepts [.f64, .f32, .bf16, .f16, .i8, .u8, .i16, .i32, .i64] (fld w 22 4) then some (.vrsum (Fmt.ofField (fld w 22 4)) (Opnd.ofField (fld w 15 7)) (Opnd.ofField (fld w 8 7)) (flag w 0))
  else if decide (fld w 1 7 = 32) && Fmt.accepts [.f64, .f32, .bf16, .f16, .i8, .u8, .i16, .i32, .i64] (fld w 22 4) then some (.vrmax (Fmt.ofField (fld w 22 4)) (Opnd.ofField (fld w 15 7)) (Opnd.ofField (fld w 8 7)) (flag w 0))
  else if decide (fld w 1 7 = 64) && Fmt.accepts [.f64, .f32, .bf16, .f16, .i8, .u8, .i16, .i32, .i64] (fld w 22 4) then some (.vrmin (Fmt.ofField (fld w 22 4)) (Opnd.ofField (fld w 15 7)) (Opnd.ofField (fld w 8 7)) (flag w 0))
  else none

/-- Major 0x2C. -/
def decCore2C (w : Nat) : Option Instr :=
  need (Fmt.accepts [.f64, .f32, .bf16, .f16, .i8, .u8, .i16, .i32, .i64] (fld w 22 4) && decide (fld w 19 3 < 7) && cmpOk (Fmt.ofField (fld w 22 4)) (BitVec.ofNat 3 (fld w 19 3))) (.vcmp (Fmt.ofField (fld w 22 4)) (BitVec.ofNat 3 (fld w 19 3)) (BitVec.ofNat 4 (fld w 15 4)) (Opnd.ofField (fld w 8 7)) (Opnd.ofField (fld w 1 7)) (flag w 0))

/-- Major 0x2D. -/
def decCore2D (w : Nat) : Option Instr :=
  need (decide (fld w 0 1 = 1) && Fmt.accepts [.f64, .f32, .bf16, .f16, .e4m3, .e5m2, .e3m2, .e2m3, .i8, .u8, .i4, .i16, .i32, .i64] (fld w 22 4)) (.vsel (Fmt.ofField (fld w 22 4)) (Opnd.ofField (fld w 15 7)) (Opnd.ofField (fld w 8 7)) (Opnd.ofField (fld w 1 7)))

/-- Major 0x2E. -/
def decCore2E (w : Nat) : Option Instr :=
  match fld w 24 2 with
  | 0 => need (decide (fld w 1 7 = 0) && decide (fld w 8 7 < 16)) (.vpmask (BitVec.ofNat 2 (fld w 22 2)) (Opnd.ofField (fld w 15 7)) (BitVec.ofNat 4 (fld w 8 7)) (flag w 0))
  | 1 => need (decide (fld w 1 7 = 0) && decide (fld w 15 7 < 16)) (.vpmsb (BitVec.ofNat 2 (fld w 22 2)) (BitVec.ofNat 4 (fld w 15 7)) (Opnd.ofField (fld w 8 7)) (flag w 0))
  | 2 => need (decide (fld w 1 7 = 0) && decide (fld w 15 7 < 16)) (.vpnz (BitVec.ofNat 2 (fld w 22 2)) (BitVec.ofNat 4 (fld w 15 7)) (Opnd.ofField (fld w 8 7)) (flag w 0))
  | _ => none

/-- Major 0x30. -/
def decCore30 (w : Nat) : Option Instr :=
  match fld w 22 4 with
  | 0 => need (decide (fld w 1 7 = 0) && decide (fld w 15 7 = 0) && decide (fld w 8 7 < 64)) (.mcall (BitVec.ofNat 6 (fld w 8 7)) (flag w 0))
  | 1 => need (decide (fld w 1 7 = 0) && decide (fld w 15 7 < 8)) (.mset (BitVec.ofNat 3 (fld w 15 7)) (Opnd.ofField (fld w 8 7)) (flag w 0))
  | 2 => need (decide (fld w 1 7 = 0) && decide (fld w 8 7 < 8)) (.mget (Opnd.ofField (fld w 15 7)) (BitVec.ofNat 3 (fld w 8 7)) (flag w 0))
  | _ => none

/-- Major 0x31. -/
def decCore31 (w : Nat) : Option Instr :=
  match fld w 22 4 with
  | 0 => need (decide (fld w 0 1 = 0) && decide (fld w 15 7 = 0)) (.mld (Opnd.ofField (fld w 8 7)) (Opnd.ofField (fld w 1 7)))
  | 1 => need (decide (fld w 0 8 = 0) && decide (fld w 15 7 < 2) && (Opnd.ofField (fld w 8 7)).isRun 2) (.mgat (BitVec.ofNat 1 (fld w 15 7)) (Opnd.ofField (fld w 8 7)))
  | _ => none

/-- Major 0x32. -/
def decCore32 (w : Nat) : Option Instr :=
  match fld w 22 4 with
  | 0 => need (decide (fld w 1 7 = 0) && decide (fld w 15 7 = 0) && (Opnd.ofField (fld w 8 7)).isRun 3) (.epi (Opnd.ofField (fld w 8 7)) (flag w 0))
  | 1 => need (decide (fld w 1 21 = 0)) (.rfree (flag w 0))
  | 2 => need (decide (fld w 0 8 = 0) && decide (fld w 15 7 = 0) && decide (fld w 8 7 < 64)) (.rwait (BitVec.ofNat 6 (fld w 8 7)))
  | 3 => need (decide (fld w 0 22 = 0)) (.rwaitIdle)
  | _ => none

/-- Major 0x33. -/
def decCore33 (w : Nat) : Option Instr :=
  match fld w 22 4 with
  | 0 => need (decide (fld w 0 1 = 0) && decide (fld w 15 7 = 0) && (Opnd.ofField (fld w 8 7)).isRun 0) (.bload (Opnd.ofField (fld w 8 7)) (Opnd.ofField (fld w 1 7)))
  | 1 => need (decide (fld w 0 8 = 0) && decide (fld w 15 7 = 0) && decide (fld w 8 7 < 2)) (.bmode (BitVec.ofNat 1 (fld w 8 7)))
  | 2 => need (decide (fld w 0 1 = 0) && decide (fld w 15 7 = 0)) (.btwin (BitVec.ofNat 14 (fld w 1 14)))
  | 3 => need (decide (fld w 0 8 = 0) && decide (fld w 15 7 = 0) && (Opnd.ofField (fld w 8 7)).isRun 0) (.blnch (Opnd.ofField (fld w 8 7)))
  | 4 => need (decide (fld w 0 8 = 0) && decide (fld w 8 7 < 64)) (.bcap (Opnd.ofField (fld w 15 7)) (BitVec.ofNat 6 (fld w 8 7)))
  | 5 => need (decide (fld w 0 8 = 0)) (.brank (Opnd.ofField (fld w 15 7)) (BitVec.ofNat 3 (fld w 12 3)) (BitVec.ofNat 4 (fld w 8 4)))
  | 6 => need (decide (fld w 0 22 = 0)) (.brst)
  | 7 => need (decide (fld w 0 15 = 0)) (.bstat (Opnd.ofField (fld w 15 7)))
  | _ => none

/-- Why a core word is refused (R83, R84). -/
inductive DecErr where
  | reservedMajor | illegal
  deriving DecidableEq, Repr

/-- The groups of the major map (R83). -/
def decCoreMajor (w : Nat) : Option Instr :=
  match fld w 26 6 with
  | 0 => decCore00 w
  | 1 => decCore01 w
  | 2 => decCore02 w
  | 3 => decCore03 w
  | 4 => decCore04 w
  | 5 => decCore05 w
  | 6 => decCore06 w
  | 7 => decCore07 w
  | 8 => decCore08 w
  | 9 => decCore09 w
  | 10 => decCore0A w
  | 11 => decCore0B w
  | 12 => decCore0C w
  | 13 => decCore0D w
  | 14 => decCore0E w
  | 15 => decCore0F w
  | 16 => decCore10 w
  | 17 => decCore11 w
  | 18 => decCore12 w
  | 19 => decCore13 w
  | 20 => decCore14 w
  | 24 => decCore18 w
  | 25 => decCore19 w
  | 26 => decCore1A w
  | 27 => decCore1B w
  | 28 => decCore1C w
  | 29 => decCore1D w
  | 30 => decCore1E w
  | 31 => decCore1F w
  | 32 => decCore20 w
  | 33 => decCore21 w
  | 34 => decCore22 w
  | 35 => decCore23 w
  | 36 => decCore24 w
  | 37 => decCore25 w
  | 38 => decCore26 w
  | 39 => decCore27 w
  | 40 => decCore28 w
  | 41 => decCore29 w
  | 42 => decCore2A w
  | 43 => decCore2B w
  | 44 => decCore2C w
  | 45 => decCore2D w
  | 46 => decCore2E w
  | 48 => decCore30 w
  | 49 => decCore31 w
  | 50 => decCore32 w
  | 51 => decCore33 w
  | _ => none

/-- The decoder of core slot words: majors 0x38 to 0x3F are reserved, everything unassigned is illegal (R83). -/
def decodeCore (w : Nat) : Except DecErr Instr :=
  if 0x38 ≤ fld w 26 6 then .error .reservedMajor
  else match decCoreMajor w with
    | some i => .ok i
    | none => .error .illegal

/-! ### Near-data words -/

/-- Opcode 0x01. -/
def decNear01 (w : Nat) : Option Instr :=
  match fld w 22 4 with
  | 0 => need (decide (fld w 0 10 = 0)) (.gadd (BitVec.ofNat 4 (fld w 18 4)) (BitVec.ofNat 4 (fld w 14 4)) (BitVec.ofNat 4 (fld w 10 4)))
  | 1 => need (decide (fld w 0 10 = 0)) (.gsub (BitVec.ofNat 4 (fld w 18 4)) (BitVec.ofNat 4 (fld w 14 4)) (BitVec.ofNat 4 (fld w 10 4)))
  | 2 => need (decide (fld w 0 10 = 0)) (.gmul (BitVec.ofNat 4 (fld w 18 4)) (BitVec.ofNat 4 (fld w 14 4)) (BitVec.ofNat 4 (fld w 10 4)))
  | 3 => need (decide (fld w 0 10 = 0)) (.gand (BitVec.ofNat 4 (fld w 18 4)) (BitVec.ofNat 4 (fld w 14 4)) (BitVec.ofNat 4 (fld w 10 4)))
  | 4 => need (decide (fld w 0 10 = 0)) (.gor (BitVec.ofNat 4 (fld w 18 4)) (BitVec.ofNat 4 (fld w 14 4)) (BitVec.ofNat 4 (fld w 10 4)))
  | 5 => need (decide (fld w 0 10 = 0)) (.gxor (BitVec.ofNat 4 (fld w 18 4)) (BitVec.ofNat 4 (fld w 14 4)) (BitVec.ofNat 4 (fld w 10 4)))
  | 6 => need (decide (fld w 0 10 = 0)) (.gshl (BitVec.ofNat 4 (fld w 18 4)) (BitVec.ofNat 4 (fld w 14 4)) (BitVec.ofNat 4 (fld w 10 4)))
  | 7 => need (decide (fld w 0 10 = 0)) (.gshr (BitVec.ofNat 4 (fld w 18 4)) (BitVec.ofNat 4 (fld w 14 4)) (BitVec.ofNat 4 (fld w 10 4)))
  | 8 => need (decide (fld w 0 10 = 0)) (.gsar (BitVec.ofNat 4 (fld w 18 4)) (BitVec.ofNat 4 (fld w 14 4)) (BitVec.ofNat 4 (fld w 10 4)))
  | 9 => need (decide (fld w 0 10 = 0)) (.gmin (BitVec.ofNat 4 (fld w 18 4)) (BitVec.ofNat 4 (fld w 14 4)) (BitVec.ofNat 4 (fld w 10 4)))
  | 10 => need (decide (fld w 0 10 = 0)) (.gmax (BitVec.ofNat 4 (fld w 18 4)) (BitVec.ofNat 4 (fld w 14 4)) (BitVec.ofNat 4 (fld w 10 4)))
  | 11 => need (decide (fld w 0 10 = 0)) (.gminu (BitVec.ofNat 4 (fld w 18 4)) (BitVec.ofNat 4 (fld w 14 4)) (BitVec.ofNat 4 (fld w 10 4)))
  | 12 => need (decide (fld w 0 10 = 0)) (.gmaxu (BitVec.ofNat 4 (fld w 18 4)) (BitVec.ofNat 4 (fld w 14 4)) (BitVec.ofNat 4 (fld w 10 4)))
  | _ => none

/-- Opcode 0x02. -/
def decNear02 (w : Nat) : Option Instr :=
  some (.gaddi (BitVec.ofNat 4 (fld w 22 4)) (BitVec.ofNat 4 (fld w 18 4)) (BitVec.ofNat 18 (fld w 0 18)))

/-- Opcode 0x03. -/
def decNear03 (w : Nat) : Option Instr :=
  need (decide (fld w 18 4 = 0)) (.gmovi (BitVec.ofNat 4 (fld w 22 4)) (BitVec.ofNat 18 (fld w 0 18)))

/-- Opcode 0x04. -/
def decNear04 (w : Nat) : Option Instr :=
  need (decide (fld w 16 2 = 0) && decide (fld w 18 4 < 4)) (.glui (BitVec.ofNat 4 (fld w 22 4)) (BitVec.ofNat 2 (fld w 18 4)) (BitVec.ofNat 16 (fld w 0 16)))

/-- Opcode 0x05. -/
def decNear05 (w : Nat) : Option Instr :=
  if decide (fld w 15 3 = 0) then some (.beq (BitVec.ofNat 4 (fld w 22 4)) (BitVec.ofNat 4 (fld w 18 4)) (BitVec.ofNat 15 (fld w 0 15)))
  else if decide (fld w 15 3 = 1) then some (.bne (BitVec.ofNat 4 (fld w 22 4)) (BitVec.ofNat 4 (fld w 18 4)) (BitVec.ofNat 15 (fld w 0 15)))
  else if decide (fld w 15 3 = 2) then some (.blt (BitVec.ofNat 4 (fld w 22 4)) (BitVec.ofNat 4 (fld w 18 4)) (BitVec.ofNat 15 (fld w 0 15)))
  else if decide (fld w 15 3 = 3) then some (.bge (BitVec.ofNat 4 (fld w 22 4)) (BitVec.ofNat 4 (fld w 18 4)) (BitVec.ofNat 15 (fld w 0 15)))
  else if decide (fld w 15 3 = 4) then some (.bltu (BitVec.ofNat 4 (fld w 22 4)) (BitVec.ofNat 4 (fld w 18 4)) (BitVec.ofNat 15 (fld w 0 15)))
  else if decide (fld w 15 3 = 5) then some (.bgeu (BitVec.ofNat 4 (fld w 22 4)) (BitVec.ofNat 4 (fld w 18 4)) (BitVec.ofNat 15 (fld w 0 15)))
  else if decide (fld w 15 11 = 6) then some (.b (BitVec.ofNat 15 (fld w 0 15)))
  else none

/-- Opcode 0x06. -/
def decNear06 (w : Nat) : Option Instr :=
  match fld w 22 4 with
  | 0 => need (decide (fld w 0 22 = 0)) (.nhalt)
  | 1 => need (decide (fld w 0 6 = 0)) (.nsafe)
  | 2 => need (decide (fld w 0 6 = 0)) (.nhopt)
  | 3 => need (decide (fld w 0 22 = 0)) (.nendl)
  | 4 => need (decide (fld w 0 22 = 0)) (.nlpop)
  | 5 => need (decide (fld w 0 6 = 0)) (.ntrap)
  | 6 => need (decide (fld w 0 10 = 0) && decide (fld w 14 4 = 0) && decide (fld w 10 4 < 6)) (.gmvi (BitVec.ofNat 4 (fld w 18 4)) (BitVec.ofNat 3 (fld w 10 4)))
  | _ => none

/-- Opcode 0x07. -/
def decNear07 (w : Nat) : Option Instr :=
  need (decide (fld w 15 7 = 0)) (.nloop (BitVec.ofNat 4 (fld w 22 4)) (BitVec.ofNat 15 (fld w 0 15)))

/-- Opcode 0x08. -/
def decNear08 (w : Nat) : Option Instr :=
  match fld w 22 4 with
  | 0 => need (decide (fld w 0 7 = 0)) (.nadd (BitVec.ofNat 4 (fld w 18 4)) (BitVec.ofNat 4 (fld w 14 4)) (BitVec.ofNat 4 (fld w 10 4)) (BitVec.ofNat 3 (fld w 7 3)))
  | 1 => need (decide (fld w 0 7 = 0)) (.nsub (BitVec.ofNat 4 (fld w 18 4)) (BitVec.ofNat 4 (fld w 14 4)) (BitVec.ofNat 4 (fld w 10 4)) (BitVec.ofNat 3 (fld w 7 3)))
  | 2 => need (decide (fld w 0 7 = 0)) (.nmul (BitVec.ofNat 4 (fld w 18 4)) (BitVec.ofNat 4 (fld w 14 4)) (BitVec.ofNat 4 (fld w 10 4)) (BitVec.ofNat 3 (fld w 7 3)))
  | 3 => need (decide (fld w 0 7 = 0)) (.nmin (BitVec.ofNat 4 (fld w 18 4)) (BitVec.ofNat 4 (fld w 14 4)) (BitVec.ofNat 4 (fld w 10 4)) (BitVec.ofNat 3 (fld w 7 3)))
  | 4 => need (decide (fld w 0 7 = 0)) (.nmax (BitVec.ofNat 4 (fld w 18 4)) (BitVec.ofNat 4 (fld w 14 4)) (BitVec.ofNat 4 (fld w 10 4)) (BitVec.ofNat 3 (fld w 7 3)))
  | 5 => need (decide (fld w 0 7 = 0)) (.nminu (BitVec.ofNat 4 (fld w 18 4)) (BitVec.ofNat 4 (fld w 14 4)) (BitVec.ofNat 4 (fld w 10 4)) (BitVec.ofNat 3 (fld w 7 3)))
  | 6 => need (decide (fld w 0 7 = 0)) (.nmaxu (BitVec.ofNat 4 (fld w 18 4)) (BitVec.ofNat 4 (fld w 14 4)) (BitVec.ofNat 4 (fld w 10 4)) (BitVec.ofNat 3 (fld w 7 3)))
  | 7 => need (decide (fld w 0 7 = 0)) (.nand (BitVec.ofNat 4 (fld w 18 4)) (BitVec.ofNat 4 (fld w 14 4)) (BitVec.ofNat 4 (fld w 10 4)) (BitVec.ofNat 3 (fld w 7 3)))
  | 8 => need (decide (fld w 0 7 = 0)) (.nor (BitVec.ofNat 4 (fld w 18 4)) (BitVec.ofNat 4 (fld w 14 4)) (BitVec.ofNat 4 (fld w 10 4)) (BitVec.ofNat 3 (fld w 7 3)))
  | 9 => need (decide (fld w 0 7 = 0)) (.nxor (BitVec.ofNat 4 (fld w 18 4)) (BitVec.ofNat 4 (fld w 14 4)) (BitVec.ofNat 4 (fld w 10 4)) (BitVec.ofNat 3 (fld w 7 3)))
  | 10 => need (decide (fld w 0 7 = 0)) (.nshl (BitVec.ofNat 4 (fld w 18 4)) (BitVec.ofNat 4 (fld w 14 4)) (BitVec.ofNat 4 (fld w 10 4)) (BitVec.ofNat 3 (fld w 7 3)))
  | 11 => need (decide (fld w 0 7 = 0)) (.nshr (BitVec.ofNat 4 (fld w 18 4)) (BitVec.ofNat 4 (fld w 14 4)) (BitVec.ofNat 4 (fld w 10 4)) (BitVec.ofNat 3 (fld w 7 3)))
  | 12 => need (decide (fld w 0 7 = 0)) (.nsar (BitVec.ofNat 4 (fld w 18 4)) (BitVec.ofNat 4 (fld w 14 4)) (BitVec.ofNat 4 (fld w 10 4)) (BitVec.ofNat 3 (fld w 7 3)))
  | _ => none

/-- Opcode 0x09. -/
def decNear09 (w : Nat) : Option Instr :=
  match fld w 22 4 with
  | 0 => need (decide (fld w 0 7 = 0)) (.nfadd (BitVec.ofNat 4 (fld w 18 4)) (BitVec.ofNat 4 (fld w 14 4)) (BitVec.ofNat 4 (fld w 10 4)) (BitVec.ofNat 3 (fld w 7 3)))
  | 1 => need (decide (fld w 0 7 = 0)) (.nfsub (BitVec.ofNat 4 (fld w 18 4)) (BitVec.ofNat 4 (fld w 14 4)) (BitVec.ofNat 4 (fld w 10 4)) (BitVec.ofNat 3 (fld w 7 3)))
  | 2 => need (decide (fld w 0 7 = 0)) (.nfmul (BitVec.ofNat 4 (fld w 18 4)) (BitVec.ofNat 4 (fld w 14 4)) (BitVec.ofNat 4 (fld w 10 4)) (BitVec.ofNat 3 (fld w 7 3)))
  | 3 => need (decide (fld w 0 7 = 0)) (.nfma (BitVec.ofNat 4 (fld w 18 4)) (BitVec.ofNat 4 (fld w 14 4)) (BitVec.ofNat 4 (fld w 10 4)) (BitVec.ofNat 3 (fld w 7 3)))
  | 4 => need (decide (fld w 0 7 = 0)) (.nfmin (BitVec.ofNat 4 (fld w 18 4)) (BitVec.ofNat 4 (fld w 14 4)) (BitVec.ofNat 4 (fld w 10 4)) (BitVec.ofNat 3 (fld w 7 3)))
  | 5 => need (decide (fld w 0 7 = 0)) (.nfmax (BitVec.ofNat 4 (fld w 18 4)) (BitVec.ofNat 4 (fld w 14 4)) (BitVec.ofNat 4 (fld w 10 4)) (BitVec.ofNat 3 (fld w 7 3)))
  | _ => none

/-- Opcode 0x0A. -/
def decNear0A (w : Nat) : Option Instr :=
  match fld w 22 4 with
  | 0 => need (decide (fld w 0 5 = 0) && decide (fld w 10 4 = 0)) (.ncvtI32F32 (BitVec.ofNat 4 (fld w 18 4)) (BitVec.ofNat 4 (fld w 14 4)) (BitVec.ofNat 3 (fld w 7 3)) (BitVec.ofNat 2 (fld w 5 2)))
  | 1 => need (decide (fld w 0 5 = 0) && decide (fld w 10 4 = 0)) (.ncvtF32I32 (BitVec.ofNat 4 (fld w 18 4)) (BitVec.ofNat 4 (fld w 14 4)) (BitVec.ofNat 3 (fld w 7 3)) (BitVec.ofNat 2 (fld w 5 2)))
  | _ => none

/-- Opcode 0x0B. -/
def decNear0B (w : Nat) : Option Instr :=
  match fld w 25 1 with
  | 0 => need (decide (fld w 0 7 = 0) && decide (fld w 22 3 < 6) && decide (fld w 18 4 < 8)) (.ncmpI32 (BitVec.ofNat 3 (fld w 22 3)) (BitVec.ofNat 3 (fld w 18 4)) (BitVec.ofNat 4 (fld w 14 4)) (BitVec.ofNat 4 (fld w 10 4)) (BitVec.ofNat 3 (fld w 7 3)))
  | 1 => need (decide (fld w 0 7 = 0) && decide (fld w 22 3 < 4) && decide (fld w 18 4 < 8)) (.ncmpF32 (BitVec.ofNat 3 (fld w 22 3)) (BitVec.ofNat 3 (fld w 18 4)) (BitVec.ofNat 4 (fld w 14 4)) (BitVec.ofNat 4 (fld w 10 4)) (BitVec.ofNat 3 (fld w 7 3)))
  | _ => none

/-- Opcode 0x0C. -/
def decNear0C (w : Nat) : Option Instr :=
  match fld w 22 4 with
  | 0 => need (decide (fld w 0 10 = 0) && decide (fld w 18 4 < 8) && decide (fld w 14 4 < 8) && decide (fld w 10 4 < 8)) (.fAnd (BitVec.ofNat 3 (fld w 18 4)) (BitVec.ofNat 3 (fld w 14 4)) (BitVec.ofNat 3 (fld w 10 4)))
  | 1 => need (decide (fld w 0 10 = 0) && decide (fld w 18 4 < 8) && decide (fld w 14 4 < 8) && decide (fld w 10 4 < 8)) (.fOr (BitVec.ofNat 3 (fld w 18 4)) (BitVec.ofNat 3 (fld w 14 4)) (BitVec.ofNat 3 (fld w 10 4)))
  | 2 => need (decide (fld w 0 10 = 0) && decide (fld w 18 4 < 8) && decide (fld w 14 4 < 8) && decide (fld w 10 4 < 8)) (.fXor (BitVec.ofNat 3 (fld w 18 4)) (BitVec.ofNat 3 (fld w 14 4)) (BitVec.ofNat 3 (fld w 10 4)))
  | 3 => need (decide (fld w 0 10 = 0) && decide (fld w 18 4 < 8) && decide (fld w 14 4 < 8) && decide (fld w 10 4 < 8)) (.fAndn (BitVec.ofNat 3 (fld w 18 4)) (BitVec.ofNat 3 (fld w 14 4)) (BitVec.ofNat 3 (fld w 10 4)))
  | 4 => need (decide (fld w 0 14 = 0) && decide (fld w 18 4 < 8) && decide (fld w 14 4 < 8)) (.fNot (BitVec.ofNat 3 (fld w 18 4)) (BitVec.ofNat 3 (fld w 14 4)))
  | 5 => need (decide (fld w 0 14 = 0) && decide (fld w 18 4 < 8)) (.fSet (BitVec.ofNat 3 (fld w 18 4)) (BitVec.ofNat 4 (fld w 14 4)))
  | 6 => need (decide (fld w 0 14 = 0) && decide (fld w 14 4 < 8)) (.fGet (BitVec.ofNat 4 (fld w 18 4)) (BitVec.ofNat 3 (fld w 14 4)))
  | _ => none

/-- Opcode 0x0D. -/
def decNear0D (w : Nat) : Option Instr :=
  match fld w 22 4 with
  | 0 => need (decide (fld w 0 7 = 0) && decide (fld w 10 4 = 0)) (.nbcast (BitVec.ofNat 4 (fld w 18 4)) (BitVec.ofNat 4 (fld w 14 4)) (BitVec.ofNat 3 (fld w 7 3)))
  | 1 => need (decide (fld w 4 10 = 0)) (.nget (BitVec.ofNat 4 (fld w 18 4)) (BitVec.ofNat 4 (fld w 14 4)) (BitVec.ofNat 4 (fld w 0 4)))
  | 2 => need (decide (fld w 4 10 = 0)) (.nins (BitVec.ofNat 4 (fld w 18 4)) (BitVec.ofNat 4 (fld w 14 4)) (BitVec.ofNat 4 (fld w 0 4)))
  | 3 => need (decide (fld w 0 7 = 0) && decide (fld w 10 4 = 0)) (.nmov (BitVec.ofNat 4 (fld w 18 4)) (BitVec.ofNat 4 (fld w 14 4)) (BitVec.ofNat 3 (fld w 7 3)))
  | 4 => need (decide (fld w 0 14 = 0) && decide (fld w 18 4 = 0) && decide (fld w 14 4 < 4)) (.ntab)
  | _ => none

/-- Opcode 0x0E. -/
def decNear0E (w : Nat) : Option Instr :=
  match fld w 22 4 with
  | 0 => need (decide (fld w 0 7 = 0) && decide (fld w 10 4 = 0)) (.nrsumI32 (BitVec.ofNat 4 (fld w 18 4)) (BitVec.ofNat 4 (fld w 14 4)) (BitVec.ofNat 3 (fld w 7 3)))
  | 1 => need (decide (fld w 0 7 = 0) && decide (fld w 10 4 = 0)) (.nrsumF32 (BitVec.ofNat 4 (fld w 18 4)) (BitVec.ofNat 4 (fld w 14 4)) (BitVec.ofNat 3 (fld w 7 3)))
  | 2 => need (decide (fld w 0 7 = 0) && decide (fld w 10 4 = 0)) (.nrmaxI32 (BitVec.ofNat 4 (fld w 18 4)) (BitVec.ofNat 4 (fld w 14 4)) (BitVec.ofNat 3 (fld w 7 3)))
  | 3 => need (decide (fld w 0 7 = 0) && decide (fld w 10 4 = 0)) (.nrminI32 (BitVec.ofNat 4 (fld w 18 4)) (BitVec.ofNat 4 (fld w 14 4)) (BitVec.ofNat 3 (fld w 7 3)))
  | 4 => need (decide (fld w 0 7 = 0) && decide (fld w 10 4 = 0)) (.nrmaxF32 (BitVec.ofNat 4 (fld w 18 4)) (BitVec.ofNat 4 (fld w 14 4)) (BitVec.ofNat 3 (fld w 7 3)))
  | _ => none

/-- Opcode 0x0F. -/
def decNear0F (w : Nat) : Option Instr :=
  need (decide (fld w 0 3 = 0) && Fmt.accepts [.f32, .bf16, .f16, .e4m3, .e5m2, .i8, .u8, .i4, .zq4] (fld w 22 4) && decide (fld w 14 4 < 4) && nmacOk (Fmt.ofField (fld w 22 4)) (BitVec.ofNat 4 (fld w 18 4)) (BitVec.ofNat 4 (fld w 10 4))) (.nmac (Fmt.ofField (fld w 22 4)) (BitVec.ofNat 4 (fld w 18 4)) (BitVec.ofNat 2 (fld w 14 4)) (BitVec.ofNat 4 (fld w 10 4)) (BitVec.ofNat 3 (fld w 7 3)) (BitVec.ofNat 3 (fld w 4 3)) (flag w 3))

/-- Opcode 0x10. -/
def decNear10 (w : Nat) : Option Instr :=
  match fld w 22 4 with
  | 0 => need (decide (fld w 0 10 = 0) && decide (fld w 18 4 < 4)) (.nsopen (BitVec.ofNat 2 (fld w 18 4)) (BitVec.ofNat 4 (fld w 14 4)) (BitVec.ofNat 4 (fld w 10 4)))
  | 1 => need (decide (fld w 0 14 = 0) && decide (fld w 14 4 < 4)) (.nld (BitVec.ofNat 4 (fld w 18 4)) (BitVec.ofNat 2 (fld w 14 4)))
  | 2 => need (decide (fld w 0 7 = 0) && decide (fld w 10 4 = 0) && decide (fld w 18 4 < 4)) (.nst (BitVec.ofNat 2 (fld w 18 4)) (BitVec.ofNat 4 (fld w 14 4)) (BitVec.ofNat 3 (fld w 7 3)))
  | _ => none

/-- Opcode 0x11. -/
def decNear11 (w : Nat) : Option Instr :=
  need (decide (fld w 0 10 = 0) && decide (fld w 22 4 = 0)) (.nbcp)

/-- Opcode 0x12. -/
def decNear12 (w : Nat) : Option Instr :=
  need (decide (fld w 0 10 = 0) && decide (fld w 18 8 = 0)) (.cwr)

/-- Opcode 0x13. -/
def decNear13 (w : Nat) : Option Instr :=
  match fld w 22 4 with
  | 0 => need (decide (fld w 18 4 = 0)) (.npsave)
  | 1 => need (decide (fld w 0 14 = 0)) (.npload)
  | _ => none

/-- Opcode 0x14. -/
def decNear14 (w : Nat) : Option Instr :=
  match fld w 22 4 with
  | 0 => need (decide (fld w 0 6 = 0) && decide (fld w 14 4 = 0)) (.grsr (BitVec.ofNat 4 (fld w 18 4)) (BitVec.ofNat 8 (fld w 6 8)))
  | 1 => need (decide (fld w 0 6 = 0) && decide (fld w 18 4 = 0)) (.gwsr)
  | _ => none

/-- The decoder of near-data words: every unassigned word is illegal (R284, R285). -/
def decodeNear (w : Nat) : Option Instr :=
  match fld w 26 6 with
  | 1 => decNear01 w
  | 2 => decNear02 w
  | 3 => decNear03 w
  | 4 => decNear04 w
  | 5 => decNear05 w
  | 6 => decNear06 w
  | 7 => decNear07 w
  | 8 => decNear08 w
  | 9 => decNear09 w
  | 10 => decNear0A w
  | 11 => decNear0B w
  | 12 => decNear0C w
  | 13 => decNear0D w
  | 14 => decNear0E w
  | 15 => decNear0F w
  | 16 => decNear10 w
  | 17 => decNear11 w
  | 18 => decNear12 w
  | 19 => decNear13 w
  | 20 => decNear14 w
  | _ => none

/-! ### Micro-words -/

/-- The decoder of micro-words: a reserved field that is not zero, or a UOP of 0x06 to 0x3F, is refused (R167). -/
def decodeMicro (w : Nat) : Option Instr :=
  match fld w 58 6 with
  | 0 => need (decide (fld w 0 58 = 0)) (.mend)
  | 1 => need (decide (fld w 0 23 = 0)) (.mmac)
  | 2 => need (decide (fld w 0 58 = 0)) (.mpub)
  | 3 => need (decide (fld w 0 30 = 0)) (.mloop)
  | 4 => need (decide (fld w 0 46 = 0)) (.mnext)
  | 5 => need (decide (fld w 32 23 = 0)) (.madd)
  | _ => none

/-! ### The encoder -/

/-- A word from its fixed bits and its fields, each with the place of its lowest bit. -/
def pack : Nat → List (Nat × Nat) → Nat
  | base, [] => base
  | base, (v, lo) :: l => pack (base + v * 2 ^ lo) l

/-- The word of a core slot instruction (R81). -/
def encodeCore : Instr → Option Nat
  | .nop n => some (pack 0x00000000 [(n.toNat, 8)])
  | .halt => some (pack 0x00400000 [])
  | .bkpt c m => some (pack 0x00800000 [(c.toNat, 8), (m.toNat, 0)])
  | .trap c m => some (pack 0x00C00000 [(c.toNat, 8), (m.toNat, 0)])
  | .safe k => some (pack 0x01000000 [(k.toNat, 8)])
  | .hopt k => some (pack 0x01400000 [(k.toNat, 8)])
  | .brT p l t => some (pack 0x04200000 [(p.toNat, 22), (l.toNat, 13), (t.toNat, 0)])
  | .brF p l t => some (pack 0x04000000 [(p.toNat, 22), (l.toNat, 13), (t.toNat, 0)])
  | .brAny p t => some (pack 0x04280000 [(p.toNat, 22), (t.toNat, 0)])
  | .brNone p t => some (pack 0x04080000 [(p.toNat, 22), (t.toNat, 0)])
  | .brAll p t => some (pack 0x04300000 [(p.toNat, 22), (t.toNat, 0)])
  | .brNall p t => some (pack 0x04100000 [(p.toNat, 22), (t.toNat, 0)])
  | .jmp a m => some (pack 0x08000000 [(a.toField, 8), (m.toNat, 0)])
  | .call d a m => some (pack 0x08400000 [(d.toField, 15), (a.toField, 8), (m.toNat, 0)])
  | .ret a m => some (pack 0x08800000 [(a.toField, 8), (m.toNat, 0)])
  | .jtab d n m => some (pack 0x08C00000 [(d.toField, 15), (n.toNat, 1), (m.toNat, 0)])
  | .loop a n t => some (pack 0x0C000000 [(a.toField, 15), (n.toNat, 7), (t.toNat, 0)])
  | .loopi c n t => some (pack 0x0C400000 [(c.toNat, 11), (n.toNat, 7), (t.toNat, 0)])
  | .endl n => some (pack 0x0C800000 [(n.toNat, 7)])
  | .mvi d n => some (pack 0x0CC00000 [(d.toField, 15), (n.toNat, 7)])
  | .mvtc d n => some (pack 0x0D000000 [(d.toField, 15), (n.toNat, 7)])
  | .lpop => some (pack 0x0D400000 [])
  | .pand d a b m => some (pack 0x10000000 [(d.toNat, 15), (a.toNat, 8), (b.toNat, 1), (m.toNat, 0)])
  | .por d a b m => some (pack 0x10400000 [(d.toNat, 15), (a.toNat, 8), (b.toNat, 1), (m.toNat, 0)])
  | .pxor d a b m => some (pack 0x10800000 [(d.toNat, 15), (a.toNat, 8), (b.toNat, 1), (m.toNat, 0)])
  | .pandn d a b m => some (pack 0x10C00000 [(d.toNat, 15), (a.toNat, 8), (b.toNat, 1), (m.toNat, 0)])
  | .pnot d a m => some (pack 0x11000000 [(d.toNat, 15), (a.toNat, 8), (m.toNat, 0)])
  | .pfirst d a m => some (pack 0x11400000 [(d.toNat, 15), (a.toField, 8), (m.toNat, 0)])
  | .pst d a m => some (pack 0x11800000 [(d.toNat, 15), (a.toNat, 8), (m.toNat, 0)])
  | .pfs d a m => some (pack 0x11C00000 [(d.toNat, 15), (a.toField, 8), (m.toNat, 0)])
  | .spf d a m => some (pack 0x12000000 [(d.toField, 15), (a.toNat, 8), (m.toNat, 0)])
  | .stw a m => some (pack 0x12400000 [(a.toField, 8), (m.toNat, 0)])
  | .str d m => some (pack 0x12800000 [(d.toField, 15), (m.toNat, 0)])
  | .ceq d a b m => some (pack 0x14000000 [(d.toNat, 15), (a.toField, 8), (b.toField, 1), (m.toNat, 0)])
  | .cne d a b m => some (pack 0x14400000 [(d.toNat, 15), (a.toField, 8), (b.toField, 1), (m.toNat, 0)])
  | .clt d a b m => some (pack 0x14800000 [(d.toNat, 15), (a.toField, 8), (b.toField, 1), (m.toNat, 0)])
  | .cle d a b m => some (pack 0x14C00000 [(d.toNat, 15), (a.toField, 8), (b.toField, 1), (m.toNat, 0)])
  | .cltu d a b m => some (pack 0x15000000 [(d.toNat, 15), (a.toField, 8), (b.toField, 1), (m.toNat, 0)])
  | .cleu d a b m => some (pack 0x15400000 [(d.toNat, 15), (a.toField, 8), (b.toField, 1), (m.toNat, 0)])
  | .ctst d a b m => some (pack 0x15800000 [(d.toNat, 15), (a.toField, 8), (b.toField, 1), (m.toNat, 0)])
  | .add d a b m => some (pack 0x18000000 [(d.toField, 15), (a.toField, 8), (b.toField, 1), (m.toNat, 0)])
  | .sub d a b m => some (pack 0x18400000 [(d.toField, 15), (a.toField, 8), (b.toField, 1), (m.toNat, 0)])
  | .mul d a b m => some (pack 0x18800000 [(d.toField, 15), (a.toField, 8), (b.toField, 1), (m.toNat, 0)])
  | .mulh d a b m => some (pack 0x18C00000 [(d.toField, 15), (a.toField, 8), (b.toField, 1), (m.toNat, 0)])
  | .mulhu d a b m => some (pack 0x19000000 [(d.toField, 15), (a.toField, 8), (b.toField, 1), (m.toNat, 0)])
  | .and d a b m => some (pack 0x19400000 [(d.toField, 15), (a.toField, 8), (b.toField, 1), (m.toNat, 0)])
  | .or d a b m => some (pack 0x19800000 [(d.toField, 15), (a.toField, 8), (b.toField, 1), (m.toNat, 0)])
  | .xor d a b m => some (pack 0x19C00000 [(d.toField, 15), (a.toField, 8), (b.toField, 1), (m.toNat, 0)])
  | .andn d a b m => some (pack 0x1A000000 [(d.toField, 15), (a.toField, 8), (b.toField, 1), (m.toNat, 0)])
  | .shl d a b m => some (pack 0x1A400000 [(d.toField, 15), (a.toField, 8), (b.toField, 1), (m.toNat, 0)])
  | .shr d a b m => some (pack 0x1A800000 [(d.toField, 15), (a.toField, 8), (b.toField, 1), (m.toNat, 0)])
  | .sar d a b m => some (pack 0x1AC00000 [(d.toField, 15), (a.toField, 8), (b.toField, 1), (m.toNat, 0)])
  | .min d a b m => some (pack 0x1B000000 [(d.toField, 15), (a.toField, 8), (b.toField, 1), (m.toNat, 0)])
  | .max d a b m => some (pack 0x1B400000 [(d.toField, 15), (a.toField, 8), (b.toField, 1), (m.toNat, 0)])
  | .minu d a b m => some (pack 0x1B800000 [(d.toField, 15), (a.toField, 8), (b.toField, 1), (m.toNat, 0)])
  | .maxu d a b m => some (pack 0x1BC00000 [(d.toField, 15), (a.toField, 8), (b.toField, 1), (m.toNat, 0)])
  | .addi d a i => some (pack 0x1C000000 [(d.toField, 17), (a.toField, 10), (i.toNat, 0)])
  | .andi d a i => some (pack 0x1D000000 [(d.toField, 17), (a.toField, 10), (i.toNat, 0)])
  | .ori d a i => some (pack 0x1E000000 [(d.toField, 17), (a.toField, 10), (i.toNat, 0)])
  | .shli d a n => some (pack 0x1F000000 [(d.toField, 17), (a.toField, 10), (n.toNat, 0)])
  | .shri d a n => some (pack 0x1F000100 [(d.toField, 17), (a.toField, 10), (n.toNat, 0)])
  | .sari d a n => some (pack 0x1F000200 [(d.toField, 17), (a.toField, 10), (n.toNat, 0)])
  | .movi d i => some (pack 0x20000000 [(d.toField, 19), (i.toNat, 0)])
  | .lui d h c => some (pack 0x20040000 [(d.toField, 19), (h.toNat, 16), (c.toNat, 0)])
  | .clz d a m => some (pack 0x24000000 [(d.toField, 15), (a.toField, 8), (m.toNat, 0)])
  | .popc d a m => some (pack 0x24400000 [(d.toField, 15), (a.toField, 8), (m.toNat, 0)])
  | .ctz d a m => some (pack 0x24800000 [(d.toField, 15), (a.toField, 8), (m.toNat, 0)])
  | .div d a b m => some (pack 0x24C00000 [(d.toField, 15), (a.toField, 8), (b.toField, 1), (m.toNat, 0)])
  | .divu d a b m => some (pack 0x25000000 [(d.toField, 15), (a.toField, 8), (b.toField, 1), (m.toNat, 0)])
  | .rem d a b m => some (pack 0x25400000 [(d.toField, 15), (a.toField, 8), (b.toField, 1), (m.toNat, 0)])
  | .remu d a b m => some (pack 0x25800000 [(d.toField, 15), (a.toField, 8), (b.toField, 1), (m.toNat, 0)])
  | .setb d a m => some (pack 0x28000000 [(d.toNat, 15), (a.toField, 8), (m.toNat, 0)])
  | .setbi d i m => some (pack 0x28400000 [(d.toNat, 15), (i.toNat, 1), (m.toNat, 0)])
  | .setv d a m => some (pack 0x28800000 [(d.toNat, 15), (a.toField, 8), (m.toNat, 0)])
  | .rdsr d r m => some (pack 0x28C00000 [(d.toField, 15), (r.toNat, 1), (m.toNat, 0)])
  | .wrsr a r m => some (pack 0x29000000 [(a.toField, 8), (r.toNat, 1), (m.toNat, 0)])
  | .ld e p a b => some (pack 0x2C000000 [(e.toNat, 19), (p.toNat, 15), (a.toField, 8), (b.toField, 1)])
  | .ldCnt e p a b => some (pack 0x2C400000 [(e.toNat, 19), (p.toNat, 15), (a.toField, 8), (b.toField, 1)])
  | .ldFe e p a b => some (pack 0x2C800000 [(e.toNat, 19), (p.toNat, 15), (a.toField, 8), (b.toField, 1)])
  | .ldFec e p a b => some (pack 0x2CC00000 [(e.toNat, 19), (p.toNat, 15), (a.toField, 8), (b.toField, 1)])
  | .st e a b => some (pack 0x30000000 [(e.toNat, 19), (a.toField, 8), (b.toField, 1)])
  | .stCf e a b => some (pack 0x30400000 [(e.toNat, 19), (a.toField, 8), (b.toField, 1)])
  | .stFf e a b => some (pack 0x30800000 [(e.toNat, 19), (a.toField, 8), (b.toField, 1)])
  | .stFs e a b => some (pack 0x30C00000 [(e.toNat, 19), (a.toField, 8), (b.toField, 1)])
  | .aswap d a s w n => some (pack 0x34000000 [(d.toField, 15), (a.toField, 8), (s.toNat, 6), (w.toNat, 5), (n.toNat, 4)])
  | .aadd d a s w n => some (pack 0x34400000 [(d.toField, 15), (a.toField, 8), (s.toNat, 6), (w.toNat, 5), (n.toNat, 4)])
  | .aand d a s w n => some (pack 0x34800000 [(d.toField, 15), (a.toField, 8), (s.toNat, 6), (w.toNat, 5), (n.toNat, 4)])
  | .aor d a s w n => some (pack 0x34C00000 [(d.toField, 15), (a.toField, 8), (s.toNat, 6), (w.toNat, 5), (n.toNat, 4)])
  | .axor d a s w n => some (pack 0x35000000 [(d.toField, 15), (a.toField, 8), (s.toNat, 6), (w.toNat, 5), (n.toNat, 4)])
  | .amin d a s w n => some (pack 0x35400000 [(d.toField, 15), (a.toField, 8), (s.toNat, 6), (w.toNat, 5), (n.toNat, 4)])
  | .amax d a s w n => some (pack 0x35800000 [(d.toField, 15), (a.toField, 8), (s.toNat, 6), (w.toNat, 5), (n.toNat, 4)])
  | .aminu d a s w n => some (pack 0x35C00000 [(d.toField, 15), (a.toField, 8), (s.toNat, 6), (w.toNat, 5), (n.toNat, 4)])
  | .amaxu d a s w n => some (pack 0x36000000 [(d.toField, 15), (a.toField, 8), (s.toNat, 6), (w.toNat, 5), (n.toNat, 4)])
  | .acas d a s w n => some (pack 0x36400000 [(d.toField, 15), (a.toField, 8), (s.toNat, 6), (w.toNat, 5), (n.toNat, 4)])
  | .fence s m => some (pack 0x38000000 [(s.toNat, 6), (m.toNat, 0)])
  | .mwaitNe d a b m => some (pack 0x38400000 [(d.toNat, 15), (a.toField, 8), (b.toField, 1), (m.toNat, 0)])
  | .mwaitGeu d a b m => some (pack 0x38800000 [(d.toNat, 15), (a.toField, 8), (b.toField, 1), (m.toNat, 0)])
  | .preq a b m => some (pack 0x38C00000 [(a.toField, 8), (b.toField, 1), (m.toNat, 0)])
  | .smap d a b m => some (pack 0x39000000 [(d.toNat, 15), (a.toField, 8), (b.toField, 1), (m.toNat, 0)])
  | .smape d a b m => some (pack 0x39400000 [(d.toNat, 15), (a.toField, 8), (b.toField, 1), (m.toNat, 0)])
  | .cinc a b m => some (pack 0x3C000000 [(a.toField, 8), (b.toField, 1), (m.toNat, 0)])
  | .csnap a m => some (pack 0x3C400000 [(a.toField, 8), (m.toNat, 0)])
  | .ldkS d a => some (pack 0x40000000 [(d.toNat, 15), (a.toField, 8)])
  | .ldkH d a => some (pack 0x40400000 [(d.toNat, 15), (a.toField, 8)])
  | .ldkt a => some (pack 0x40800000 [(a.toField, 8)])
  | .rbegin n => some (pack 0x44000000 [(n.toNat, 8)])
  | .rkeep a => some (pack 0x44400000 [(a.toField, 8)])
  | .rend => some (pack 0x44800000 [])
  | .chk a b m => some (pack 0x44C00000 [(a.toField, 8), (b.toField, 1), (m.toNat, 0)])
  | .chkv a b m => some (pack 0x45000000 [(a.toField, 8), (b.toField, 1), (m.toNat, 0)])
  | .binit a b m => some (pack 0x48000000 [(a.toField, 8), (b.toField, 1), (m.toNat, 0)])
  | .barr a b m => some (pack 0x48400000 [(a.toField, 8), (b.toField, 1), (m.toNat, 0)])
  | .bwait d a b m => some (pack 0x48800000 [(d.toNat, 15), (a.toField, 8), (b.toField, 1), (m.toNat, 0)])
  | .ecopy d a b m => some (pack 0x4C000000 [(d.toNat, 15), (a.toField, 8), (b.toField, 1), (m.toNat, 0)])
  | .exform d a b m => some (pack 0x4C400000 [(d.toField, 15), (a.toField, 8), (b.toField, 1), (m.toNat, 0)])
  | .pld d a => some (pack 0x50000000 [(d.toField, 15), (a.toField, 8)])
  | .pcur d n => some (pack 0x50400000 [(d.toField, 15), (n.toNat, 8)])
  | .vadd f d a b m => some (pack 0x60000000 [(f.toField, 22), (d.toField, 15), (a.toField, 8), (b.toField, 1), (m.toNat, 0)])
  | .vsub f d a b m => some (pack 0x64000000 [(f.toField, 22), (d.toField, 15), (a.toField, 8), (b.toField, 1), (m.toNat, 0)])
  | .vadds f d a b m => some (pack 0x68000000 [(f.toField, 22), (d.toField, 15), (a.toField, 8), (b.toField, 1), (m.toNat, 0)])
  | .vsubs f d a b m => some (pack 0x6C000000 [(f.toField, 22), (d.toField, 15), (a.toField, 8), (b.toField, 1), (m.toNat, 0)])
  | .vmul f d a b m => some (pack 0x70000000 [(f.toField, 22), (d.toField, 15), (a.toField, 8), (b.toField, 1), (m.toNat, 0)])
  | .vmin f d a b m => some (pack 0x74000000 [(f.toField, 22), (d.toField, 15), (a.toField, 8), (b.toField, 1), (m.toNat, 0)])
  | .vmax f d a b m => some (pack 0x78000000 [(f.toField, 22), (d.toField, 15), (a.toField, 8), (b.toField, 1), (m.toNat, 0)])
  | .vand d a b m => some (pack 0x7C000000 [(d.toField, 15), (a.toField, 8), (b.toField, 1), (m.toNat, 0)])
  | .vor d a b m => some (pack 0x7C400000 [(d.toField, 15), (a.toField, 8), (b.toField, 1), (m.toNat, 0)])
  | .vxor d a b m => some (pack 0x7C800000 [(d.toField, 15), (a.toField, 8), (b.toField, 1), (m.toNat, 0)])
  | .vandn d a b m => some (pack 0x7CC00000 [(d.toField, 15), (a.toField, 8), (b.toField, 1), (m.toNat, 0)])
  | .vshl l d a b m => some (pack 0x7D000000 [(l.toNat, 22), (d.toField, 15), (a.toField, 8), (b.toField, 1), (m.toNat, 0)])
  | .vshr l d a b m => some (pack 0x7E000000 [(l.toNat, 22), (d.toField, 15), (a.toField, 8), (b.toField, 1), (m.toNat, 0)])
  | .vsar l d a b m => some (pack 0x7F000000 [(l.toNat, 22), (d.toField, 15), (a.toField, 8), (b.toField, 1), (m.toNat, 0)])
  | .vfadd f d a b m => some (pack 0x80000000 [(f.toField, 22), (d.toField, 15), (a.toField, 8), (b.toField, 1), (m.toNat, 0)])
  | .vfsub f d a b m => some (pack 0x84000000 [(f.toField, 22), (d.toField, 15), (a.toField, 8), (b.toField, 1), (m.toNat, 0)])
  | .vfmul f d a b m => some (pack 0x88000000 [(f.toField, 22), (d.toField, 15), (a.toField, 8), (b.toField, 1), (m.toNat, 0)])
  | .vfma f d a b m => some (pack 0x8C000000 [(f.toField, 22), (d.toField, 15), (a.toField, 8), (b.toField, 1), (m.toNat, 0)])
  | .vfnms f d a b m => some (pack 0x90000000 [(f.toField, 22), (d.toField, 15), (a.toField, 8), (b.toField, 1), (m.toNat, 0)])
  | .vfmin f d a b m => some (pack 0x94000000 [(f.toField, 22), (d.toField, 15), (a.toField, 8), (b.toField, 1), (m.toNat, 0)])
  | .vfmax f d a b m => some (pack 0x98000000 [(f.toField, 22), (d.toField, 15), (a.toField, 8), (b.toField, 1), (m.toNat, 0)])
  | .vrcp d a m => some (pack 0x9C000000 [(d.toField, 15), (a.toField, 8), (m.toNat, 0)])
  | .vrsqrt d a m => some (pack 0x9C400000 [(d.toField, 15), (a.toField, 8), (m.toNat, 0)])
  | .vexp2 d a m => some (pack 0x9C800000 [(d.toField, 15), (a.toField, 8), (m.toNat, 0)])
  | .vlog2 d a m => some (pack 0x9CC00000 [(d.toField, 15), (a.toField, 8), (m.toNat, 0)])
  | .vfabsF64 d a m => some (pack 0x9D000000 [(d.toField, 15), (a.toField, 8), (m.toNat, 0)])
  | .vfabsF32 d a m => some (pack 0x9D400000 [(d.toField, 15), (a.toField, 8), (m.toNat, 0)])
  | .vfabsF16 d a m => some (pack 0x9D800000 [(d.toField, 15), (a.toField, 8), (m.toNat, 0)])
  | .vfnegF64 d a m => some (pack 0x9DC00000 [(d.toField, 15), (a.toField, 8), (m.toNat, 0)])
  | .vfnegF32 d a m => some (pack 0x9E000000 [(d.toField, 15), (a.toField, 8), (m.toNat, 0)])
  | .vfnegF16 d a m => some (pack 0x9E400000 [(d.toField, 15), (a.toField, 8), (m.toNat, 0)])
  | .vcvt f d a s p m => some (pack 0xA0000000 [(f.toField, 22), (d.toField, 15), (a.toField, 8), (s.toField, 4), (p.toNat, 2), (m.toNat, 0)])
  | .vzqe d a b m => some (pack 0xA4000000 [(d.toField, 15), (a.toField, 8), (b.toField, 1), (m.toNat, 0)])
  | .vzqd d a b m => some (pack 0xA4400000 [(d.toField, 15), (a.toField, 8), (b.toField, 1), (m.toNat, 0)])
  | .vperm l d a b m => some (pack 0xA8000000 [(l.toNat, 22), (d.toField, 15), (a.toField, 8), (b.toField, 1), (m.toNat, 0)])
  | .vbcast l d a m => some (pack 0xA9000000 [(l.toNat, 22), (d.toField, 15), (a.toField, 8), (m.toNat, 0)])
  | .vilo l d a b m => some (pack 0xAA000000 [(l.toNat, 22), (d.toField, 15), (a.toField, 8), (b.toField, 1), (m.toNat, 0)])
  | .vihi l d a b m => some (pack 0xAB000000 [(l.toNat, 22), (d.toField, 15), (a.toField, 8), (b.toField, 1), (m.toNat, 0)])
  | .vrsum f d a m => some (pack 0xAC000000 [(f.toField, 22), (d.toField, 15), (a.toField, 8), (m.toNat, 0)])
  | .vrmax f d a m => some (pack 0xAC000040 [(f.toField, 22), (d.toField, 15), (a.toField, 8), (m.toNat, 0)])
  | .vrmin f d a m => some (pack 0xAC000080 [(f.toField, 22), (d.toField, 15), (a.toField, 8), (m.toNat, 0)])
  | .vcmp f c p a b m => some (pack 0xB0000000 [(f.toField, 22), (c.toNat, 19), (p.toNat, 15), (a.toField, 8), (b.toField, 1), (m.toNat, 0)])
  | .vsel f d a b => some (pack 0xB4000001 [(f.toField, 22), (d.toField, 15), (a.toField, 8), (b.toField, 1)])
  | .vpmask l d a m => some (pack 0xB8000000 [(l.toNat, 22), (d.toField, 15), (a.toNat, 8), (m.toNat, 0)])
  | .vpmsb l d a m => some (pack 0xB9000000 [(l.toNat, 22), (d.toNat, 15), (a.toField, 8), (m.toNat, 0)])
  | .vpnz l d a m => some (pack 0xBA000000 [(l.toNat, 22), (d.toNat, 15), (a.toField, 8), (m.toNat, 0)])
  | .mcall n m => some (pack 0xC0000000 [(n.toNat, 8), (m.toNat, 0)])
  | .mset d a m => some (pack 0xC0400000 [(d.toNat, 15), (a.toField, 8), (m.toNat, 0)])
  | .mget d a m => some (pack 0xC0800000 [(d.toField, 15), (a.toNat, 8), (m.toNat, 0)])
  | .mld a b => some (pack 0xC4000000 [(a.toField, 8), (b.toField, 1)])
  | .mgat d a => some (pack 0xC4400000 [(d.toNat, 15), (a.toField, 8)])
  | .epi a m => some (pack 0xC8000000 [(a.toField, 8), (m.toNat, 0)])
  | .rfree m => some (pack 0xC8400000 [(m.toNat, 0)])
  | .rwait n => some (pack 0xC8800000 [(n.toNat, 8)])
  | .rwaitIdle => some (pack 0xC8C00000 [])
  | .bload a b => some (pack 0xCC000000 [(a.toField, 8), (b.toField, 1)])
  | .bmode n => some (pack 0xCC400000 [(n.toNat, 8)])
  | .btwin i => some (pack 0xCC800000 [(i.toNat, 1)])
  | .blnch a => some (pack 0xCCC00000 [(a.toField, 8)])
  | .bcap d g => some (pack 0xCD000000 [(d.toField, 15), (g.toNat, 8)])
  | .brank d g k => some (pack 0xCD400000 [(d.toField, 15), (g.toNat, 12), (k.toNat, 8)])
  | .brst => some (pack 0xCD800000 [])
  | .bstat d => some (pack 0xCDC00000 [(d.toField, 15)])
  | _ => none

/-- The word of a near-data instruction whose operands its constructor carries (R284). -/
def encodeNear : Instr → Option Nat
  | .gadd d a b => some (pack 0x04000000 [(d.toNat, 18), (a.toNat, 14), (b.toNat, 10)])
  | .gsub d a b => some (pack 0x04400000 [(d.toNat, 18), (a.toNat, 14), (b.toNat, 10)])
  | .gmul d a b => some (pack 0x04800000 [(d.toNat, 18), (a.toNat, 14), (b.toNat, 10)])
  | .gand d a b => some (pack 0x04C00000 [(d.toNat, 18), (a.toNat, 14), (b.toNat, 10)])
  | .gor d a b => some (pack 0x05000000 [(d.toNat, 18), (a.toNat, 14), (b.toNat, 10)])
  | .gxor d a b => some (pack 0x05400000 [(d.toNat, 18), (a.toNat, 14), (b.toNat, 10)])
  | .gshl d a b => some (pack 0x05800000 [(d.toNat, 18), (a.toNat, 14), (b.toNat, 10)])
  | .gshr d a b => some (pack 0x05C00000 [(d.toNat, 18), (a.toNat, 14), (b.toNat, 10)])
  | .gsar d a b => some (pack 0x06000000 [(d.toNat, 18), (a.toNat, 14), (b.toNat, 10)])
  | .gmin d a b => some (pack 0x06400000 [(d.toNat, 18), (a.toNat, 14), (b.toNat, 10)])
  | .gmax d a b => some (pack 0x06800000 [(d.toNat, 18), (a.toNat, 14), (b.toNat, 10)])
  | .gminu d a b => some (pack 0x06C00000 [(d.toNat, 18), (a.toNat, 14), (b.toNat, 10)])
  | .gmaxu d a b => some (pack 0x07000000 [(d.toNat, 18), (a.toNat, 14), (b.toNat, 10)])
  | .gaddi d a i => some (pack 0x08000000 [(d.toNat, 22), (a.toNat, 18), (i.toNat, 0)])
  | .gmovi d i => some (pack 0x0C000000 [(d.toNat, 22), (i.toNat, 0)])
  | .glui d h c => some (pack 0x10000000 [(d.toNat, 22), (h.toNat, 18), (c.toNat, 0)])
  | .beq a b o => some (pack 0x14000000 [(a.toNat, 22), (b.toNat, 18), (o.toNat, 0)])
  | .bne a b o => some (pack 0x14008000 [(a.toNat, 22), (b.toNat, 18), (o.toNat, 0)])
  | .blt a b o => some (pack 0x14010000 [(a.toNat, 22), (b.toNat, 18), (o.toNat, 0)])
  | .bge a b o => some (pack 0x14018000 [(a.toNat, 22), (b.toNat, 18), (o.toNat, 0)])
  | .bltu a b o => some (pack 0x14020000 [(a.toNat, 22), (b.toNat, 18), (o.toNat, 0)])
  | .bgeu a b o => some (pack 0x14028000 [(a.toNat, 22), (b.toNat, 18), (o.toNat, 0)])
  | .b o => some (pack 0x14030000 [(o.toNat, 0)])
  | .nhalt => some (pack 0x18000000 [])
  | .nendl => some (pack 0x18C00000 [])
  | .nlpop => some (pack 0x19000000 [])
  | .gmvi d n => some (pack 0x19800000 [(d.toNat, 18), (n.toNat, 10)])
  | .nloop a o => some (pack 0x1C000000 [(a.toNat, 22), (o.toNat, 0)])
  | .nadd d a b f => some (pack 0x20000000 [(d.toNat, 18), (a.toNat, 14), (b.toNat, 10), (f.toNat, 7)])
  | .nsub d a b f => some (pack 0x20400000 [(d.toNat, 18), (a.toNat, 14), (b.toNat, 10), (f.toNat, 7)])
  | .nmul d a b f => some (pack 0x20800000 [(d.toNat, 18), (a.toNat, 14), (b.toNat, 10), (f.toNat, 7)])
  | .nmin d a b f => some (pack 0x20C00000 [(d.toNat, 18), (a.toNat, 14), (b.toNat, 10), (f.toNat, 7)])
  | .nmax d a b f => some (pack 0x21000000 [(d.toNat, 18), (a.toNat, 14), (b.toNat, 10), (f.toNat, 7)])
  | .nminu d a b f => some (pack 0x21400000 [(d.toNat, 18), (a.toNat, 14), (b.toNat, 10), (f.toNat, 7)])
  | .nmaxu d a b f => some (pack 0x21800000 [(d.toNat, 18), (a.toNat, 14), (b.toNat, 10), (f.toNat, 7)])
  | .nand d a b f => some (pack 0x21C00000 [(d.toNat, 18), (a.toNat, 14), (b.toNat, 10), (f.toNat, 7)])
  | .nor d a b f => some (pack 0x22000000 [(d.toNat, 18), (a.toNat, 14), (b.toNat, 10), (f.toNat, 7)])
  | .nxor d a b f => some (pack 0x22400000 [(d.toNat, 18), (a.toNat, 14), (b.toNat, 10), (f.toNat, 7)])
  | .nshl d a b f => some (pack 0x22800000 [(d.toNat, 18), (a.toNat, 14), (b.toNat, 10), (f.toNat, 7)])
  | .nshr d a b f => some (pack 0x22C00000 [(d.toNat, 18), (a.toNat, 14), (b.toNat, 10), (f.toNat, 7)])
  | .nsar d a b f => some (pack 0x23000000 [(d.toNat, 18), (a.toNat, 14), (b.toNat, 10), (f.toNat, 7)])
  | .nfadd d a b f => some (pack 0x24000000 [(d.toNat, 18), (a.toNat, 14), (b.toNat, 10), (f.toNat, 7)])
  | .nfsub d a b f => some (pack 0x24400000 [(d.toNat, 18), (a.toNat, 14), (b.toNat, 10), (f.toNat, 7)])
  | .nfmul d a b f => some (pack 0x24800000 [(d.toNat, 18), (a.toNat, 14), (b.toNat, 10), (f.toNat, 7)])
  | .nfma d a b f => some (pack 0x24C00000 [(d.toNat, 18), (a.toNat, 14), (b.toNat, 10), (f.toNat, 7)])
  | .nfmin d a b f => some (pack 0x25000000 [(d.toNat, 18), (a.toNat, 14), (b.toNat, 10), (f.toNat, 7)])
  | .nfmax d a b f => some (pack 0x25400000 [(d.toNat, 18), (a.toNat, 14), (b.toNat, 10), (f.toNat, 7)])
  | .ncvtI32F32 d a f r => some (pack 0x28000000 [(d.toNat, 18), (a.toNat, 14), (f.toNat, 7), (r.toNat, 5)])
  | .ncvtF32I32 d a f r => some (pack 0x28400000 [(d.toNat, 18), (a.toNat, 14), (f.toNat, 7), (r.toNat, 5)])
  | .ncmpI32 c d a b f => some (pack 0x2C000000 [(c.toNat, 22), (d.toNat, 18), (a.toNat, 14), (b.toNat, 10), (f.toNat, 7)])
  | .ncmpF32 c d a b f => some (pack 0x2E000000 [(c.toNat, 22), (d.toNat, 18), (a.toNat, 14), (b.toNat, 10), (f.toNat, 7)])
  | .fAnd d a b => some (pack 0x30000000 [(d.toNat, 18), (a.toNat, 14), (b.toNat, 10)])
  | .fOr d a b => some (pack 0x30400000 [(d.toNat, 18), (a.toNat, 14), (b.toNat, 10)])
  | .fXor d a b => some (pack 0x30800000 [(d.toNat, 18), (a.toNat, 14), (b.toNat, 10)])
  | .fAndn d a b => some (pack 0x30C00000 [(d.toNat, 18), (a.toNat, 14), (b.toNat, 10)])
  | .fNot d a => some (pack 0x31000000 [(d.toNat, 18), (a.toNat, 14)])
  | .fSet d a => some (pack 0x31400000 [(d.toNat, 18), (a.toNat, 14)])
  | .fGet d a => some (pack 0x31800000 [(d.toNat, 18), (a.toNat, 14)])
  | .nbcast d a f => some (pack 0x34000000 [(d.toNat, 18), (a.toNat, 14), (f.toNat, 7)])
  | .nget d a l => some (pack 0x34400000 [(d.toNat, 18), (a.toNat, 14), (l.toNat, 0)])
  | .nins d a l => some (pack 0x34800000 [(d.toNat, 18), (a.toNat, 14), (l.toNat, 0)])
  | .nmov d a f => some (pack 0x34C00000 [(d.toNat, 18), (a.toNat, 14), (f.toNat, 7)])
  | .nrsumI32 d a f => some (pack 0x38000000 [(d.toNat, 18), (a.toNat, 14), (f.toNat, 7)])
  | .nrsumF32 d a f => some (pack 0x38400000 [(d.toNat, 18), (a.toNat, 14), (f.toNat, 7)])
  | .nrmaxI32 d a f => some (pack 0x38800000 [(d.toNat, 18), (a.toNat, 14), (f.toNat, 7)])
  | .nrminI32 d a f => some (pack 0x38C00000 [(d.toNat, 18), (a.toNat, 14), (f.toNat, 7)])
  | .nrmaxF32 d a f => some (pack 0x39000000 [(d.toNat, 18), (a.toNat, 14), (f.toNat, 7)])
  | .nmac t d a b f j z => some (pack 0x3C000000 [(t.toField, 22), (d.toNat, 18), (a.toNat, 14), (b.toNat, 10), (f.toNat, 7), (j.toNat, 4), (z.toNat, 3)])
  | .nsopen d a b => some (pack 0x40000000 [(d.toNat, 18), (a.toNat, 14), (b.toNat, 10)])
  | .nld d a => some (pack 0x40400000 [(d.toNat, 18), (a.toNat, 14)])
  | .nst d a f => some (pack 0x40800000 [(d.toNat, 18), (a.toNat, 14), (f.toNat, 7)])
  | .grsr d r => some (pack 0x50000000 [(d.toNat, 18), (r.toNat, 6)])
  | _ => none

/-- The word of an instruction: a core slot word or a near-data word. -/
def encode (i : Instr) : Option Nat :=
  match encodeCore i with
  | some w => some w
  | none => encodeNear i

/-- The instruction that a core sequencer (near = false) or a near-data unit (near = true) reads from a word: which of
the two sets a word is read in depends on the agent that fetches it (R32). -/
def decodeAs (near : Bool) (w : Nat) : Option Instr :=
  if near then decodeNear w
  else match decodeCore w with
    | .ok i => some i
    | .error _ => none

/-- The instruction that the decoder reads from the bits of an opcode-table row (log 11): 64 bits are a micro-word; 32 bits
are read as a near-data word first and else as a core slot word, since the two sets overlap and the table does not say
which agent fetches the word. -/
def decodeTableWord (nbits w : Nat) : Option Instr :=
  if nbits = 64 then decodeMicro w
  else if nbits = 32 then
    match decodeNear w with
    | some i => some i
    | none => match decodeCore w with
      | .ok i => some i
      | .error _ => none
  else none

end Sys2Proof
end

