-- ==== Sys2Proof/Machine/State.lean ====
section
/-! DEFINITION. The state of a Zelior Rharon device as plain data: everything the spec gives the machine (INVENTORY.md,
'## State', names each item's rule and reset value), and the model's own few fields, which are marked as such. -/

namespace Sys2Proof.Machine

/-- A sparse byte memory in canonical form: addresses strictly rising, no entry equal to zero, which is what an unlisted
address reads as (log 2 for memory; R63 for register space). -/
abbrev Mem := List Host.Cell
/-- A sparse table keyed by a number, ascending; an absent key is the default entry. -/
abbrev Tab (α : Type) := List (Nat × α)

/-- Why the machine stops. -/
inductive Fault where
  /-- A core slot instruction was executed although no bundle is in progress; raised by the slot meanings only when exec
  is called outside step. Safe: step never does so. -/
  | noBundle
  /-- A near-data instruction was executed although no unit has its turn; raised by the near-data meanings only when
  exec is called outside step. Safe. -/
  | noUnit
  /-- A micro-operation was executed although no matrix call has its turn; raised by the micro-word meanings only when
  exec is called outside step. Safe. -/
  | noCall
  deriving DecidableEq, Repr

/-- Why an instruction has no meaning. -/
inductive Refusal where
  /-- The instruction has no meaning yet; raised by exec's refused arms only. Safe. -/
  | notModelled (mnemonic : String)
  deriving DecidableEq, Repr

/-! ### One sequencer -/

/-- The program counter of a core sequencer: segment address and bundle index (R23, R77). -/
structure Pc where
  seg : Nat := 0
  idx : Nat := 0
  deriving DecidableEq, Repr

/-- A loop-index stack entry (R23). -/
structure LoopEnt where
  index : BitVec 32 := 0
  remaining : BitVec 32 := 0
  first : BitVec 7 := 0
  deriving DecidableEq, Repr

/-- What a pending exposed write writes when it lands (R71, R73, R385). -/
inductive Tgt where
  | reg (addr : Nat)
  | pred (n : Nat)
  | view (n : Nat)
  | base (n : Nat)
  | mreg (n : Nat)
  | stage
  | loopPush
  | loopSet
  | loopPop
  | scaleS (k : Nat)
  | scaleH (k : Nat)
  | scaleTab
  | storeData (col idx : Nat)
  | sysreg (n : Nat)
  deriving DecidableEq, Repr

/-- A pending exposed write: data and byte enables of a trap record's entry, the fstat bits it sets, and the bundles that
still issue before it lands (R71, R385). -/
structure PWrite where
  tgt : Tgt
  data : BitVec 256 := 0
  en : BitVec 32 := 0
  flags : BitVec 6 := 0
  rdly : Nat := 0
  /-- half bytes of enabled bytes that keep their contents: disabled 4-bit lanes (R139) -/
  keep : Word := 0
  deriving DecidableEq, Repr

/-- What a trap puts in its record (R368, R385): cause, slot (255 for none), content items, and the flags of FL. -/
structure TrapInfo where
  cause : Nat
  slot : Nat := 255
  cont : List Nat := []
  retries : Bool := false
  after : Bool := false
  falloff : Bool := false
  stalled : Bool := false
  upc : Nat := 0xFFFF
  /-- the action-table entry of its cause when it was taken (R362, R369) -/
  act : Nat := 0
  deriving DecidableEq, Repr

/-- The kinds of address streams (R115, R120). -/
inductive StrKind where
  | ld | ldCnt | ldFe | ldFec | st | stCf | stFf | stFs
  deriving DecidableEq, Repr

/-- An address stream with the element that is next in its order (R112, R114). -/
structure Strm where
  kind : StrKind
  col : Nat
  slot : Nat := 0
  base : Nat
  stride : Int
  esz : Nat
  cnt : Nat
  pk : Bool
  rc : Nat := 0
  rp : Nat := 0
  next : Nat := 0
  /-- first store-data entry that the stream consumes, by reservation number -/
  ent0 : Nat := 0
  /-- the unit that the last ld.cnt element visited: its number, 0 for none, with its base and size (R124) -/
  unit : Nat := 0
  ubase : Nat := 0
  usize : Nat := 0
  deriving DecidableEq, Repr

/-- An atomic (R127) with its scope: 0 .cl, 1 .dv, 2 .sy (R128). -/
structure Atom where
  op : Nat
  sc : Nat := 2
  col : Nat
  slot : Nat := 0
  addr : Nat
  wide : Bool
  ret : Bool
  y : Nat
  y2 : Nat := 0
  /-- its read has a place of its own and its write has none yet (R128, R249) -/
  half : Bool := false
  deriving DecidableEq, Repr

/-- An epilogue descriptor (R179). -/
structure EpiDesc where
  id : Nat
  dst : Nat
  rst : Int
  ofmt : Nat
  rm : Nat
  sat : Bool
  act : Nat
  scv : List Nat
  bsv : List Nat
  hasScale : Bool
  hasBias : Bool
  lo : Nat
  hi : Nat
  col : Nat := 0
  deriving DecidableEq, Repr

/-- Bytes of a command bound for one granule of a peer (R202, R210): device, context and granule address there, the bytes by offset, and
how many destination bytes they count for. -/
structure Block where
  dev : Nat
  ten : Nat
  gran : Nat
  bytes : List (Nat × Byte) := []
  count : Nat := 0
  deriving DecidableEq, Repr

/-- A counted block that a command fills (R201): address, bytes and their poison. -/
structure Fill where
  va : Nat
  bytes : List (Byte × Bool)
  deriving DecidableEq, Repr

/-- A copy or transform command (R195, R198, R203). -/
structure Cmd where
  id : Nat := 0
  owner : Nat := 0
  launch : Nat := 0
  ten : Nat := 0
  fork : Nat := 0
  xform : Bool := false
  desc : List Nat := []
  prog : List Nat := []
  table : List Nat := []
  bar : Nat := 0
  row : Nat := 0
  bytes : Nat := 0
  err : Nat := 0
  flags : BitVec 6 := 0
  stopped : Bool := false
  unacked : Nat := 0
  /-- its writes, latest last, and the poisoned locations among them: not joined yet (R196, R267) -/
  writes : List (Nat × Byte) := []
  poisoned : List Nat := []
  /-- bytes bound for peers -/
  blocks : List Block := []
  /-- counted blocks that it fills, in nest order: they take their places at its arrival (R201, R267) -/
  fills : List Fill := []
  deriving DecidableEq, Repr

/-- A memory operation of a sequencer in its program order (R247, R248); `col` is the column of its slot. -/
inductive MOp where
  | stream (s : Strm)
  | atom (a : Atom)
  | fence (sy : Bool)
  | map (empty : Bool) (k va len ofs : Nat)
  | cinc (incs : List (Nat × Nat))
  | csnap (addr col : Nat)
  | binit (addr exp na col : Nat)
  | barr (addr bytes code : Nat) (flags : BitVec 6) (col : Nat)
  | mld (id : Nat)
  | mgat (id : Nat)
  | epi (e : EpiDesc) (next : Nat)
  | engine (slotEngine : Nat) (c : Cmd)
  | rfree (id : Nat)
  /-- the arrival of a call that was issued inside a region, with its code once the call has ended (R238, R241) -/
  | mbarr (id bar : Nat) (code : Option Nat)
  deriving DecidableEq, Repr

/-- An operation with its number in program order and its region level (0: none). -/
structure OrdOp where
  id : Nat
  level : Nat := 0
  waits : Bool := false
  op : MOp
  deriving DecidableEq, Repr

/-- A load-data entry (R113, R118, R124, R243). -/
structure LdEnt where
  id : Nat
  data : BitVec 256 := 0
  elems : Nat := 0
  filled : Nat := 0
  rp : Nat := 0
  pk : Bool := false
  res : BitVec 32 := 0
  overRead : Option Nat := none
  poison : Option Nat := none
  l1unc : Option Nat := none
  level : Nat := 0
  last : Bool := false
  deriving DecidableEq, Repr

/-- A store-data entry: its reservation number, and its data and byte enables once landed (R68, R113). -/
structure SdEnt where
  idx : Nat
  data : Option (BitVec 256 × BitVec 32) := none
  deriving DecidableEq, Repr

/-- One column's queue pairs (R113, R114). -/
structure Col where
  /-- load streams and atomics whose entries are not all delivered -/
  laq : Nat := 0
  /-- entries being filled, oldest first -/
  fill : List LdEnt := []
  ldq : List LdEnt := []
  /-- store streams not yet ended -/
  saq : Nat := 0
  sdq : List SdEnt := []
  sdRes : Nat := 0
  sdAsg : Nat := 0
  /-- streams that may still take entries: first entry and number of entries (R122) -/
  asgs : List (Nat × Nat) := []
  /-- entries below this number have given all their elements a place -/
  sdUsed : Nat := 0
  /-- entries taken by deferred streams (R238) -/
  held : List SdEnt := []
  deriving DecidableEq, Repr

/-- An expanded segment in a loop-buffer half: header words and bundles as slot words (R74, R75, R78). -/
structure Half where
  seg : Nat
  next : Nat
  spidx : Nat
  hb : Bool
  jt : Bool
  jtAddr : Nat
  bundles : List (List (Nat × Nat))
  bad : Bool := false
  /-- the words of its jump-target table as the expansion read them (R312) -/
  table : List Nat := []
  deriving DecidableEq, Repr

/-- An open region level (R231). -/
structure Level where
  restart : Pc
  retries : Nat := 0
  limit : Nat
  loops : List LoopEnt
  stage : BitVec 16
  head : Nat
  tail : Nat
  np : Nat
  tags : List Nat
  /-- per column: store-data entries reserved and assigned at the rbegin -/
  sdRes : List (Nat × Nat × Nat)
  deriving DecidableEq, Repr

/-- An operation that has its place in the single order while data of it or of an earlier one is outstanding (R249, R250).
`own` is the agent. -/
inductive Placed where
  /-- a store element: without data it waits for store-data entry `idx` of column `col` -/
  | store (own col idx off elem loc n : Nat) (data : Option (BitVec 256 × BitVec 32))
  | load (own col ent elem va loc n : Nat)
  | rmw (own col ent va : Nat) (ret : Bool) (op loc n y y2 : Nat)
  /-- bytes that stand, with their poison -/
  | row (own loc : Nat) (data : Bytes) (psn : Bool)
  /-- bytes that an atomic or an arrival leaves: poison marks stay (R243) -/
  | kept (own loc : Nat) (data : Bytes)
  /-- bytes `off` on of row r of an epi whose tile has not been converted (R181) -/
  | epi (own id r off loc n : Nat)
  /-- an arrival at a barrier object (R190) -/
  | arrive (own loc bytes code : Nat) (flags : BitVec 6)
  /-- piece k of an mld or mgat (R171, R172) -/
  | part (own id k loc n : Nat)
  /-- an engine command of a sequencer forks here: reads that have their places before it see none of its bytes (R196, R250) -/
  | fork (own id : Nat)
  deriving DecidableEq, Repr

/-- The region state of a sequencer (R231). -/
structure Region where
  levels : List Level := []
  undo : List (Nat × Nat × Bytes) := []
  deferred : List OrdOp := []
  /-- counted-unit decrements: level, unit number, whether the unit's cluster is its home -/
  decs : List (Nat × Nat) := []
  owedWatch : Option (Nat × Nat) := none
  /-- the rbegin about to issue is a retry of its level (R242) -/
  retrying : Bool := false
  /-- the outermost rend waits until its sequencer's operations below this number have their places (R236) -/
  rend : Option Nat := none
  deriving DecidableEq, Repr

/-- A number before it is rounded (R39, R57): a NaN (with the mark that making it was invalid), an infinity, or
(-1)^neg m 2^e, which includes both zeros. -/
inductive Num where
  | nan (invalid : Bool)
  | inf (neg : Bool)
  | fin (neg : Bool) (m : Nat) (e : Int)
  deriving DecidableEq, Repr

/-- The open accumulation of a head tile (R168, R176). -/
structure Acc where
  fa : Nat
  fb : Nat
  /-- accumulator elements, row-major -/
  elems : List Nat
  /-- exact partial sums of the open K-group, row-major -/
  part : List Num
  partK : Nat := 0
  ovf : Bool := false
  psn : Bool := false
  deriving DecidableEq, Repr

/-- A matrix call, queued or running (R164, R166). -/
structure Call where
  id : Nat := 0
  wp : List Word := []
  k : List Bytes := []
  table : List Nat := []
  bar : Nat := 0
  pc : Pc := {}
  slot : Nat := 0
  fork : Nat := 0
  upc : Nat := 0
  lc : List Nat := [0, 0, 0, 0]
  act : List Bool := [false, false, false, false]
  acc : Option Acc := none
  err : Nat := 0
  deriving DecidableEq, Repr

/-- A matrix-unit command (R164, R170); an mld or mgat holds the pieces that it has read, by number: 8-byte words, or 32-byte
pieces of its rows, each with the places of its poisoned bytes. -/
inductive MCmd where
  | call (c : Call)
  | mld (id addr first count : Nat) (got : Tab (Bytes × List Nat))
  | mgat (id latch base : Nat) (stride : Int) (rb : Nat) (idx : List Nat) (got : Tab (Bytes × List Nat))
  deriving DecidableEq, Repr

/-- A gathered latch: rows of its row bytes, with the poisoned bytes by row and place (R172, R185). -/
structure Latch where
  rows : List Bytes
  psn : List (Nat × Nat) := []
  deriving DecidableEq, Repr

/-- A command of the epilogue (R178, R181): an epi, with its next row, or an rfree. -/
inductive EpiCmd where
  | epi (e : EpiDesc) (row : Nat)
  | rfree
  deriving DecidableEq, Repr

/-- The matrix unit, the ring and the epilogue of a sequencer (R164 to R183). -/
structure Matrix where
  queue : List MCmd := []
  /-- epi and rfree commands that are not served, in issue order (R181) -/
  epq : List EpiCmd := []
  running : Option Call := none
  store : Tab (BitVec 64) := []
  poisoned : List Nat := []
  latch0 : Option Latch := none
  latch1 : Option Latch := none
  head : Nat := 0
  tail : Nat := 0
  np : Nat := 0
  /-- per-tile tags: AF (0 INT32, 1 FP32, 2 FP64), bit 2 PUB, bit 3 OVF, bit 4 PSN -/
  tags : List Nat := []
  fault : Option TrapInfo := none
  deriving DecidableEq, Repr

/-- A bead wave (R216, R221). -/
structure Wave where
  inputs : List Nat
  mode : Nat
  twin : Nat
  elapsed : Nat := 0
  psn : Bool := false
  prow : Nat := 0
  deriving DecidableEq, Repr

/-- STATE of the bead array (R216). -/
inductive BeadSt where
  | idle | run | done
  deriving DecidableEq, Repr

/-- The bead array of a sequencer: cells that are not 63, rows whose parity is inconsistent (R216). -/
structure Bead where
  cells : Tab Nat := []
  badRows : List Nat := []
  mode : Nat := 0
  twin : Nat := 1023
  st : BeadSt := .idle
  wave : Option Wave := none
  deriving DecidableEq, Repr

/-- A counted unit (R124): base address, size, count; its data lie at its own location. -/
structure CUnit where
  id : Nat
  va : Nat
  size : Nat
  count : Nat
  /-- location of the memory that it covers, where that was translated when it was filled (R384) -/
  back : Option Nat := none
  deriving DecidableEq, Repr

/-- Where a sequencer stands (R24, R93, R370, R392). -/
inductive Run where
  | absent | running | trapped | parked | stopped | halting | done | saved
  deriving DecidableEq, Repr

/-- The registers of a sequencer that a context save keeps whole (R17, R69, R109). -/
structure Regs where
  preds : Vector Word 16 := .replicate 16 0
  stage : BitVec 16 := 0
  views : Vector Word 4
  bases : Vector (BitVec 16) 8 := .replicate 8 0
  mregs : Vector Word 8 := .replicate 8 0
  scaleK : Vector (BitVec 512) 8 := .replicate 8 0
  scaleTab : BitVec 256 := 0
  fctl : Word := 0
  fstat : Word := 0
  est : Word := 0
  rmc : Word := 0
  rmv : Word := 0
  cur : Word := 0
  rlc : Word := 0
  rbk : Word := 0
  dinj : Word := 0
  dfir : Word := 0
  wpa : Vector Word 4 := .replicate 4 0
  wpc : Vector Word 4 := .replicate 4 0
  cyc : Word := 0
  bun : Word := 0
  hpa : Word := 0
  cursor : Vector Word 10 := .replicate 10 0
  loops : List LoopEnt := []
  deriving DecidableEq, Repr

/-- The view registers at a launch's start (R66): w0 (0, 0, 60), w1 (2, 2, 60), w2 and w3 (0, 5, 0). -/
def startViews : Vector Word 4 := #v[0x00000000003C0000#64, 0x00000000003C0202#64, 0x0000000000000500#64, 0x0000000000000500#64]

/-- Where a sequencer is placed and for which launch (R11, R12, R109). -/
structure Place where
  launch : Nat := 0
  ten : Nat := 0
  lcl : Nat := 0
  lco : Nat := 0
  mode : Nat := 0
  seqNo : Nat := 0
  ncl : Nat := 0
  parm : Word := 0
  lsn : Word := 0
  granules : Nat := 0
  errm : Word := 0
  diag : Bool := false
  tier : Bool := false
  kid : Word := 0
  control : Bool := false
  deriving DecidableEq, Repr

/-- A core sequencer, named by the physical global column of its lowest column (R385); what the control cores run are the sequencers from
1024 up, the leader's the first, whichever pair runs it (R394, R395, R417). -/
structure Seq where
  run : Run := .absent
  place : Place := {}
  pc : Pc := {}
  falloff : Bool := false
  nopLeft : Nat := 0
  half : Option Half := none
  other : Option Half := none
  /-- a transfer whose target segment is being expanded (R78) -/
  want : Option Pc := none
  regs : Regs := { views := startViews }
  space : Mem := []
  pend : List PWrite := []
  cols : Vector Col 4 := .replicate 4 {}
  ord : List OrdOp := []
  /-- st.cf streams that wait for a counted line to be given up (R125) -/
  side : List OrdOp := []
  /-- accesses on their way to host-bias pages, in program order (R265) -/
  far : List Placed := []
  /-- lines of its L1 with an uncorrectable error that no load has met: line of 128 bytes, and whether it is dirty (R243) -/
  l1bad : List (Nat × Bool) := []
  opCtr : Nat := 0
  entCtr : Nat := 0
  /-- writes to peers and host memory not yet acknowledged (R130) -/
  unacked : Nat := 0
  region : Region := {}
  mx : Matrix := {}
  bead : Bead := {}
  lines : List CUnit := []
  reqs : List ReqKind := []
  /-- a waiting mwait or bwait saw its condition (R131, R194) -/
  woke : Option Bool := none
  /-- the address, value and comparison that the held mwait or bwait waits on: location, value, kind 0 ne, 1 geu, 2 phase -/
  waitOn : Option (Nat × Nat × Nat) := none
  owner : Bool := false
  owedForeign : Nat := 0
  owedWatch : Option (Nat × Nat) := none
  trapCount : Nat := 0
  trapLast : Nat × Pc := (0, {})
  trap : Option TrapInfo := none
  /-- store-miss raised to the action table: page address and column (R121) -/
  storeMiss : Option (Nat × Nat) := none
  /-- the action-table entry of store-miss when it was raised (R362) -/
  missAct : Nat := 0
  missWait : Bool := false
  stepMode : Bool := false
  /-- the safe-point table entry at which a request has stopped it (R24, R26) -/
  sp : Option Nat := none
  /-- halt has issued: no bundle follows (R93) -/
  halted : Bool := false
  /-- the pieces that the plds at issue have read, by slot × 65536 + number (R338) -/
  pld : Tab Bytes := []
  /-- an owed foreign-write trap gave way to a request: it is taken before the first bundle that follows (R391) -/
  foreignDue : Bool := false
  /-- requests wait for the slots of a safe bundle to complete: its safe-point table entry (R24) -/
  safeDue : Option Nat := none
  /-- a debugger's step ended in a request: its trap is taken before the first bundle that follows (R393) -/
  stepDue : Bool := false
  /-- what the check of the push at issue has found so far, by slot × 2^60 + page: 0 allowed, 1 refused, 2 denied (R116) -/
  checks : Tab Nat := []
  deriving DecidableEq, Repr

/-! ### Clusters -/

/-- A copy or transform engine: its queue in issue order, its running command and its round-robin place (R195). -/
structure Engine where
  queue : List Cmd := []
  running : Option Cmd := none
  rr : Nat := 0
  deriving DecidableEq, Repr

/-- A physical cluster (R195, R133): two copy engines, a transform engine, the routing counters and the launch that holds
them. -/
structure Cluster where
  copy0 : Engine := {}
  copy1 : Engine := {}
  xform : Engine := {}
  counters : Vector (BitVec 32) 64 := .replicate 64 0
  grant : Option Nat := none
  deriving DecidableEq, Repr

/-- A stash map entry (R132). -/
structure MapEnt where
  va : Nat
  len : Nat
  ofs : Nat
  deriving DecidableEq, Repr

/-- A logical cluster of a launch (R132, R124, R366): where it is placed, its stash map, the granules that are full, the
counted blocks and its end counter. -/
structure LCl where
  phys : Nat := 0
  share : Nat := 0
  maps : Vector (Option MapEnt) 8 := .replicate 8 none
  full : List Nat := []
  blocks : List CUnit := []
  /-- its sequencers by number -/
  seqs : List Nat := []
  reported : Bool := false
  /-- its context is saved: it holds no columns (R387) -/
  away : Bool := false
  ctr : Bool := false
  savedCtr : Option (Vector (BitVec 32) 64) := none
  deriving DecidableEq, Repr

/-! ### Near-data units -/

/-- A near-data loop-stack entry (R282, R290). -/
structure NLoop where
  index : BitVec 32 := 0
  remaining : BitVec 32 := 0
  first : Nat := 0
  deriving DecidableEq, Repr

/-- An entry that an nst has pushed (R298): its number in program order, its address, and its enabled lanes with their place, bytes and
poison. -/
structure NPush where
  num : Nat
  addr : Nat
  lanes : List (Nat × Bytes × Bool)
  deriving DecidableEq, Repr

/-- A write that a unit has performed and not published (R269). -/
structure NWrite where
  num : Nat
  loc : Nat
  bytes : Bytes
  psn : Bool
  deriving DecidableEq, Repr

/-- A near-data stream port (R297). -/
structure Port where
  /-- 0 read, 1 write, 2 sparse read; an idle port has no mode (R298) -/
  mode : Option Nat := none
  base : Nat := 0
  stride : Int := 0
  cnt : Nat := 0
  /-- the bitmap of a sparse port, one bit per pair -/
  bits : List Bool := []
  /-- entries delivered but not popped: bytes and poisoned 32-byte granules -/
  buf : List (Bytes × List Nat) := []
  /-- stored entries delivered so far -/
  got : Nat := 0
  /-- entries or bitmap bits consumed so far; for a write port entries taken -/
  used : Nat := 0
  /-- pushed entries not yet performed -/
  out : List NPush := []
  /-- a page that the port needs has been refused (R298) -/
  refused : Option Nat := none
  /-- the base of a bitmap that a refused page has kept from being read (R298) -/
  bitmap : Option Nat := none
  /-- what that bitmap or its entries turned out to hold once read: a poisoned byte (true), or a denied address, which the next pop takes
  (R297, R307) -/
  owed : Option (Bool × Nat) := none
  deriving DecidableEq, Repr

/-- A bank-to-bank copy in flight (R302): its number in program order, destination, source, entries, and entries copied so far. -/
structure BankCopy where
  num : Nat := 0
  dst : Nat
  src : Nat
  n : Nat
  k : Nat := 0
  deriving DecidableEq, Repr

/-- A near-data unit (R281, R282): bank units 0 to 511, storage units 512 to 543. -/
structure Near where
  run : Run := .absent
  launch : Nat := 0
  ten : Nat := 0
  part : Nat := 0
  /-- unit number within its tier's part of the launch (R306) -/
  uid : Nat := 0
  n : Vector (BitVec 512) 16 := .replicate 16 0
  nPsn : Vector (BitVec 16) 16 := .replicate 16 0
  g : Vector Word 16 := .replicate 16 0
  gPsn : BitVec 16 := 0
  f : Vector (BitVec 16) 8 := .replicate 8 0
  ports : Vector Port 4 := .replicate 4 {}
  loops : List NLoop := []
  pc : Nat := 0
  /-- instruction register: the word being executed -/
  iw : Nat := 0
  table : BitVec 256 := 0
  cix : Vector (BitVec 32) 6 := .replicate 6 0
  cixd : BitVec 3 := 0
  nst : BitVec 24 := 0
  ncor : Word := 0
  ncyc : Word := 0
  code : List Nat := []
  copies : List BankCopy := []
  reqs : List ReqKind := []
  /-- the pending hand-over request (R332) -/
  hand : Option HandReq := none
  /-- the request that was pending when an nhopt's drain began (R305, R333) -/
  handDrain : Option (Option HandReq) := none
  /-- writes in program order so far -/
  writes : Nat := 0
  /-- performed writes not yet published, in program order -/
  unjoined : List NWrite := []
  /-- the parison that the unit is loaded from before its first instruction (R336) -/
  start : Option Nat := none
  /-- band base, passes that the band loop has begun, and its word (R329, R331) -/
  band : Nat := 0
  passes : Nat := 0
  ndloop : Option Nat := none
  parm : Word := 0
  plan : Word := 0
  kid : Word := 0
  trap : Option TrapInfo := none
  trapCount : Nat := 0
  trapLast : Nat × Nat := (0, 0)
  /-- the safe-point table entry at which a request has stopped it (R291) -/
  sp : Option Nat := none
  deriving DecidableEq, Repr

/-! ### Tenants, streams, objects, launches -/

/-- A peer window (R374, R382, R383). -/
structure Win where
  np : Nat
  pull : Bool
  rd : Bool
  wr : Bool
  rctx : Nat
  vbase : Nat
  vlen : Nat
  rbase : Nat
  peers : List Nat
  deriving DecidableEq, Repr

/-- An event waiting for room in a tenant's event queue (R371). -/
structure Event where
  kind : Nat
  strm : Nat
  cause : Nat
  tag : Nat
  seq : Nat
  rc : Nat
  sqid : Nat
  deriving DecidableEq, Repr

/-- A tenant (R351, R369, R371, R374). -/
structure Tenant where
  active : Bool := false
  pcap : Nat := 0
  wgt : Nat := 0
  diagOk : Bool := false
  ctrOk : Bool := false
  pasid : Nat := 0
  part : Nat := 0
  sarea : Nat := 0
  eqa : Nat := 0
  eqn : Nat := 0
  eqpi : Nat := 0
  sava : Nat := 0
  actions : Vector (BitVec 8) 256 := .replicate 256 0
  deficit : Int := 0
  evseq : Nat := 0
  held : List Event := []
  lost : Nat := 0
  hbase : Nat := 0
  hlim : Nat := 0
  hofs : Nat := 0
  hperm : BitVec 2 := 0
  svpa : Nat := 0
  svlen : Nat := 0
  csva : Nat := 0
  wins : Vector (Option Win) 16 := .replicate 16 none
  msi : Vector Nat 4 := .replicate 4 0
  deriving DecidableEq, Repr

/-- The Gaffer's copy of a stream (R352, R353); the control block itself is memory. -/
structure Strm8 where
  base : Nat := 0
  size : Nat := 0
  rix : Nat := 0
  wix : Nat := 0
  state : Nat := 0
  fcode : Nat := 0
  nseq : Nat := 0
  cseq : Nat := 0
  /-- the WAIT record held at RIX: address, value, kind (R358) -/
  wait : Option (Nat × Nat × Nat) := none
  /-- the GPATCH record held at RIX (R361) -/
  patch : Option Rec := none
  /-- items that have ended above CSEQ (R367) -/
  ended : List Nat := []
  /-- writes of WIX that the Gaffer has not looked at, oldest first (R353) -/
  news : List Nat := []
  /-- a REGISTER, GDEF, MEM or TSET at RIX has been begun and awaits its status (R396) -/
  due : Bool := false
  deriving DecidableEq, Repr

/-- A cluster map core entry (R311). -/
structure CoreMap where
  mode : Nat
  seqm : Nat
  entries : List (Nat × Nat)
  deriving DecidableEq, Repr

/-- A cluster map record (R311). -/
structure ClMap where
  ctr : Bool
  same : Bool
  stash : Nat
  cores : List CoreMap
  deriving DecidableEq, Repr

/-- A safe-point table entry (R313): ranges as start and length in bytes. -/
structure SafePt where
  seg : Nat
  loc : Nat
  hand : Bool
  ranges : List (Nat × Nat)
  deriving DecidableEq, Repr

/-- A registered object: the copied image's parts that later launches use (R309 to R317, R324). -/
structure Obj where
  kid : Nat
  svn : Nat
  errm : Nat
  cov : Nat
  defparm : Nat
  keyid : Bytes
  tier : Bool
  maps : List ClMap
  /-- its core segments, by address (R74, R76) -/
  segs : List Nat := []
  loadva : Nat
  sps : List SafePt
  nearSps : List SafePt
  nearEntry : Nat
  nearCode : List Nat
  band : List Nat
  /-- the core segment image in the protected copy, which each launch loads at LOADVA (R310, R315) -/
  code : Bytes := []
  deriving DecidableEq, Repr

/-- A graph node (R360). -/
structure GNode where
  obj : Nat
  prio : Nat
  lfl : Nat
  plen : Nat
  dep : Nat
  pofs : Nat
  deriving DecidableEq, Repr

/-- A generation of a graph: its nodes' parameter bytes, which stand in the Gaffer's memory at an address each (R361). -/
structure GGen where
  parms : List Bytes
  addrs : List Nat
  deriving DecidableEq, Repr

/-- A defined graph (R360). -/
structure Graph where
  nodes : List GNode
  /-- the generations that it holds, by number -/
  gens : Tab GGen
  cur : Nat := 1
  deriving DecidableEq, Repr

/-- Where a launch stands (R355 to R370). -/
inductive LSt where
  | waiting | placed | running | parked | saving | draining
  deriving DecidableEq, Repr

/-- A launch: an item, or one node of a replay (R357, R361, R366, R367). -/
structure Launch where
  ten : Nat
  strm : Nat
  seq : Nat
  tag : Nat := 0
  obj : Nat
  prio : Nat
  diag : Bool := false
  notify : Bool := false
  parm : Nat := 0
  stat : Nat := 0
  st : LSt := .waiting
  age : Nat := 0
  /-- the replay it belongs to, and its node (R361) -/
  node : Option (Nat × Nat) := none
  clusters : List LCl := []
  units : List Nat := []
  cov : Nat := 0
  status : Nat := 0
  cause : Nat := 0
  tstart : Nat := 0
  qimb : Nat := 0
  ovrd : Nat := 0
  undr : Nat := 0
  rbk : Nat := 0
  pre : Nat := 0
  traps : Nat := 0
  /-- it blocks later candidates (R363) -/
  blocks : Bool := false
  /-- the saved contexts of its sequencers and units (R387); empty before a first save -/
  ctx : List Seq := []
  nctx : List (Nat × Near) := []
  /-- its context has been saved and not yet restored -/
  saved : Bool := false
  /-- its context records, allocated at placement: offset in the context region and size, sequencers first, then logical clusters, then
  near-data units (R387) -/
  recs : List (Nat × Nat) := []
  /-- a tiered launch: the unit that runs the climbing part, the plan, the residency generation, hand-over requests posted
  and not consumed, the highest request number (that of a standing request counts when it is consumed), and the parison that the
  top gang starts from (R324 to R334) -/
  climb : Option Nat := none
  plan : Nat := 0
  gen : Nat := 0
  posts : List HandReq := []
  handSeq : Nat := 0
  hpa : Nat := 0
  handStatus : List Nat := []
  deriving DecidableEq, Repr

/-- Where a node of a replay stands (R361): not started, a launch, or ended with a status. -/
inductive NodeSt where
  | idle
  | runs (launch : Nat)
  | ended (status : Nat)
  deriving DecidableEq, Repr

/-- A graph replay: an item whose nodes are launches (R361); counts are summed over its nodes. -/
structure Replay where
  ten : Nat
  strm : Nat
  seq : Nat
  tag : Nat := 0
  stat : Nat := 0
  gid : Nat
  gen : Nat
  nodes : List NodeSt := []
  age : Nat := 0
  tstart : Nat := 0
  ended : Bool := false
  cov : Nat := 0
  cause : Nat := 0
  counts : List Nat := [0, 0, 0, 0, 0, 0]
  /-- the security fuse counter when the record was taken (R316) -/
  secc : Nat := 0
  deriving DecidableEq, Repr

/-! ### Translation, frames, firmware, fleet -/

/-- A translation-cache entry (R375): die, tenant context, first page of its region, the region's pages as a power of two, outcome. -/
structure Tlb where
  die : Nat
  ten : Nat
  page : Nat
  res : AtsRes
  size : Nat := 0
  deriving DecidableEq, Repr

/-- A managed frame's table entry (R377, R265). -/
structure Frame where
  owner : Option Nat := none
  /-- the tiered launches that it is pinned for (R342) -/
  pins : List Nat := []
  age : Nat := 0
  home : Nat := 5
  devBias : Bool := true
  accessed : Bool := false
  /-- a request has started the pull of a HOME 6 frame (R378, R383) -/
  pull : Bool := false
  deriving DecidableEq, Repr

/-- A page request (R378). -/
structure PageReq where
  ten : Nat
  page : Nat
  write : Bool
  sent : Bool := false
  deriving DecidableEq, Repr

/-- A scrub that is still to be made, with the status it writes last (R384). -/
structure Scrub where
  base : Nat
  len : Nat
  frame : Option Nat
  stat : Option (Nat × Nat) := none
  deriving DecidableEq, Repr

/-- Translation and residency (R373 to R384). -/
structure Mmu where
  tlb : List Tlb := []
  /-- refused pages by tenant: a refusal is no entry of a cache (R379) -/
  refused : List (Nat × Nat) := []
  frames : Tab Frame := []
  reqs : List PageReq := []
  dead : List Nat := []
  low : Vector Nat 4 := .replicate 4 0
  high : Vector Nat 4 := .replicate 4 0
  pools : Vector (Nat × Nat) 4 := .replicate 4 (0, 0)
  scrubs : List Scrub := []
  /-- the BIAS record under way: next frame, frames left, status address, device bias (R381) -/
  flips : Option (Nat × Nat × Nat × Bool) := none
  /-- demotion steps that have begun and not reached HIGH (R380) -/
  demoting : Vector Bool 4 := .replicate 4 false
  /-- foreign-watched ranges: sequencer, watchpoint, location, length (R391) -/
  watches : List (Nat × Nat × Nat × Nat) := []
  deriving DecidableEq, Repr

/-- The firmware control registers, the check unit, the slots and the switch (R396 to R404). -/
structure Fw where
  act : Nat := 0
  ucnt : Nat := 0
  chk : Bool := false
  rbkFlag : Bool := false
  fhsa : Word := 0
  frbp : Word := 0
  checking : Option Nat := none
  /-- a landed write of fchk: the core, the record's address, and its operations and store-data entries before it (R398) -/
  pendChk : Option (Nat × Nat × Nat × List Nat) := none
  pendFsw : Option (Nat × Word) := none
  pendFhb : Option Word := none
  slots : Vector Bytes 2 := .replicate 2 []
  meas : Vector Bytes 2 := .replicate 2 []
  /-- a switch awaiting its heartbeat: the old slot and the saved control cores -/
  switching : Option (Nat × List (Nat × Seq)) := none
  /-- the protection mode that was in force before that switch (R402, R416) -/
  oldUnprot : Bool := false
  /-- ends and traps held while the Gaffer does not run, in the order in which they were held: launches by launchAgent, traps by the agent
  of their action (R403) -/
  held : List Nat := []
  /-- a FWUP has been taken and the leader's routine may be running; STAT of its record (R396) -/
  updating : Bool := false
  stat : Nat := 0
  gstat : Nat := 0
  deriving DecidableEq, Repr

/-- A fabric port (R418). -/
structure FPort where
  lanes : Nat := 0
  st : Nat := 0
  peer : Nat := 0
  txf : Word := 0
  rxf : Word := 0
  err : Word := 0
  bin : Word := 0
  bout : Word := 0
  btot : Word := 0
  braw : Word := 0
  deriving DecidableEq, Repr

/-- One die's power, temperature and protection state (R409 to R415). -/
structure Die where
  grant : Nat := 1000
  reasons : BitVec 5 := 0
  temp : Int := 0
  sram : Nat := 0
  coreRail : Nat := 0
  decTed : Bool := false
  corrected : Nat := 0
  tcrit : Bool := false
  deriving DecidableEq, Repr

/-- A trust-list slot (R420). -/
structure Key where
  digest : Option Bytes := none
  revoked : Bool := false
  deriving DecidableEq, Repr

/-- Fleet state (R405 to R421). -/
structure Fleet where
  plim : Nat := 1500
  mlim : Nat := 2000
  twarn : Nat := 95
  pkg : Nat := 0
  mod : Nat := 0
  dies : Vector Die 4 := .replicate 4 {}
  failed : BitVec 16 := 0
  retried : BitVec 16 := 0
  unprot : Bool := false
  unprotNext : Bool := false
  lowv : Bool := false
  secc : List Nat := []
  fwsc : List Nat := []
  keys : Vector Key 8 := .replicate 8 {}
  events : Vector Nat 8 := .replicate 8 0
  msi : Nat := 0
  ports : Vector FPort 48 := .replicate 48 {}
  off : Bool := false
  deriving DecidableEq, Repr

/-- The form of the part (R1, R348). -/
inductive Form where
  | p640 | m640 | cd
  deriving DecidableEq, Repr

/-- A write bound for a peer that is not acknowledged (R130, R202, R263, R264): the peer, the context and address there, and the
agent that it counts for. Its bytes, by enable, stand once `data` is there; until then they are those of a store-data entry
(`entry`: column, number, first byte) or of a row of an epi (`row`: id, row, first byte). Bytes of an engine's block travel with the
block's header (R210). -/
structure PeerOut where
  dev : Nat
  agent : Nat
  ten : Nat := 0
  addr : Nat := 0
  n : Nat := 0
  data : Option (List (Option Byte)) := none
  entry : Option (Nat × Nat × Nat) := none
  row : Option (Nat × Nat × Nat) := none
  /-- number of the store element in its stream (R252) -/
  elem : Nat := 0
  hdr : Word := 0
  deriving DecidableEq, Repr

/-- An atomic of scope .cl or .dv between its read and its write (R128, R249): the agent, the scope, the bytes it acts on, and the
value that its write will leave. -/
structure Split where
  own : Nat
  sc : Nat
  loc : Nat
  n : Nat
  val : Nat
  deriving DecidableEq, Repr

/-- The device. `peerOut` holds the writes to peers that are not acknowledged, oldest first. -/
structure Dev where
  form : Form := .m640
  mem : Mem := []
  poison : List Nat := []
  placed : List Placed := []
  splits : List Split := []
  peerOut : List PeerOut := []
  seqs : Tab Seq := []
  clusters : Tab Cluster := []
  near : Tab Near := []
  tenants : Vector Tenant 17 := .replicate 17 {}
  streams : Tab Strm8 := []
  objs : Tab Obj := []
  graphs : Tab Graph := []
  launches : Tab Launch := []
  replays : Tab Replay := []
  nextReplay : Nat := 1
  nextLaunch : Nat := 1
  nextUnit : Nat := 1
  mmu : Mmu := {}
  fw : Fw := {}
  fleet : Fleet := {}
  adma : Nat := 0
  /-- MSI-X table bytes that have been written, by function × 65536 + offset, and pending vectors, function × 256 + vector (R347) -/
  msix : Tab Byte := []
  msixPend : List Nat := []
  /-- host address and size of PF0's BAR2 and of the two HDM decoders, which the host's configuration fixes (R347, R373) -/
  bar2 : Nat × Nat := (2 ^ 44, 2 ^ 40)
  hdm0 : Nat × Nat := (2 ^ 45, 640 * 10 ^ 9)
  hdm1 : Nat × Nat := (2 ^ 46, 2 ^ 42)
  dtime : Nat := 0
  /-- the model's own: how many free values have been drawn (log 4) -/
  drawn : Nat := 0
  /-- the model's own: what the host's last read returned -/
  hostRead : Bytes := []
  deriving DecidableEq, Repr

/-! ### The bundle in progress and the schedule (the model's own, log 1) -/

/-- A bundle that is being executed slot by slot; the device state it started from is kept beside it in State. -/
structure Issue where
  q : Nat
  rest : List (Nat × Nat)
  pc : Pc
  next : Option Pc := none
  /-- the slot of the jump, call or return that set it; 255 for none -/
  nslot : Nat := 255
  /-- st as this bundle's loop instruction writes it (R101) -/
  loopSt : Option (BitVec 16) := none
  after : Option TrapInfo := none
  safe : Option (Bool × Nat) := none
  halt : Bool := false
  nop : Nat := 1
  retry : Bool := false
  watch : Option (Nat × Nat) := none
  /-- register bytes and cursor that each accepted pld writes at the end of its bundle, by slot (R338) -/
  block : List (Nat × Bytes × List Nat) := []
  /-- how many pieces held plds have read before this issue (R338) -/
  pld : Nat := 0
  deriving DecidableEq, Repr

/-- What moves next: a step with what comes with it, the matrix unit of a sequencer (its next micro-word), a near-data unit
(its next word), or the Gaffer taking the record at a stream's RIX. -/
inductive Pick where
  | ev (i : Instr) (t : Turn)
  | matrix (q : Nat)
  | unit (u : Nat)
  | take (ten strm : Nat)
  /-- n bytes at a location of a memory go bad beyond correction (R243) -/
  | upset (loc n : Nat)
  /-- so many bits of n bytes that a die's L2 holds of a location go bad (R414) -/
  | upsetL2 (die loc n bits : Nat)
  /-- a line of a sequencer's L1 does (R243) -/
  | upsetL1 (q line : Nat) (dirty : Bool)
  /-- a bit of a row of a bead array flips (R227) -/
  | upsetRow (q row : Nat)
  deriving DecidableEq, Repr

/-- The state of the machine. -/
structure State where
  dev : Dev := {}
  issue : Option Issue := none
  base : Dev := {}
  turn : Turn := .none
  /-- the model's own schedule of agents and outside inputs (log 1) -/
  agenda : List Pick := []
  rr : Nat := 0
  deriving DecidableEq, Repr

/-- The machine right after reset: every field at the value INVENTORY.md names (logs 2, 4, 5, 6). -/
def State.reset : State := {}

end Sys2Proof.Machine
end

