-- ==== Sys2Proof/Machine/Bits.lean ====
section
/-! DEFINITION. Bytes, bit fields, sparse memories and tables: the helpers that the shared operations stand on. -/

namespace Sys2Proof.Machine

/-! ### Numbers and bytes -/

/-- The number that bytes hold, little-endian (R7). -/
def leNat : Bytes → Nat
  | [] => 0
  | b :: l => b.toNat + 256 * leNat l

/-- The low n bytes of a number, lowest first (R7). -/
def toLe : Nat → Nat → Bytes
  | 0, _ => []
  | n + 1, v => BitVec.ofNat 8 v :: toLe n (v / 256)

/-- Bits lo + n - 1 to lo. -/
def bits (v lo n : Nat) : Nat := v / 2 ^ lo % 2 ^ n
/-- Bit i. -/
def bit (v i : Nat) : Bool := decide (v / 2 ^ i % 2 = 1)
/-- v with bits lo + n - 1 to lo replaced by x. -/
def setBits (v lo n x : Nat) : Nat := v - bits v lo n * 2 ^ lo + x % 2 ^ n * 2 ^ lo
/-- The value of n bits read as two's complement. -/
def sx (n v : Nat) : Int := if v % 2 ^ n < 2 ^ (n - 1) then (v % 2 ^ n : Nat) else (v % 2 ^ n : Nat) - (2 ^ n : Nat)
/-- An integer modulo 2^n. -/
def wrap (n : Nat) (v : Int) : Nat := (v % (2 ^ n : Nat)).toNat
/-- A base plus a signed offset, modulo 2^64. -/
def addr64 (b : Nat) (o : Int) : Nat := wrap 64 ((b : Int) + o)
/-- v rounded down to a multiple of n. -/
def alignDown (v n : Nat) : Nat := v - v % n
/-- The quotient rounded up. -/
def ceilDiv (a b : Nat) : Nat := (a + b - 1) / b
/-- Whether [a, a + n) and [b, b + m) share a number. -/
def overlap (a n b m : Nat) : Bool := decide (a < b + m) && decide (b < a + n) && decide (0 < n) && decide (0 < m)
/-- The numbers of l, ascending and without repeats, with x put in. -/
def insertNat (x : Nat) : List Nat → List Nat
  | [] => [x]
  | y :: l => if x < y then x :: y :: l else if x = y then y :: l else y :: insertNat x l
/-- Puts several numbers in. -/
def insertNats (l : List Nat) (xs : List Nat) : List Nat := xs.foldl (fun s x => insertNat x s) l
/-- Consecutive numbers from a. -/
def span (a n : Nat) : List Nat := (List.range n).map (a + ·)
/-- A list cut into runs of n, with fuel. -/
def chunks {α : Type} (n : Nat) : Nat → List α → List (List α)
  | 0, _ => []
  | k + 1, l => l.take n :: chunks n k (l.drop n)
/-- The value of n lanes of w bits in a number, lane 0 lowest. -/
def lanesOf (w n v : Nat) : List Nat := (List.range n).map fun i => bits v (i * w) w
/-- Lanes of w bits put together, lane 0 lowest. -/
def packLanes (w : Nat) : List Nat → Nat
  | [] => 0
  | x :: l => x % 2 ^ w + 2 ^ w * packLanes w l

/-! ### Sparse byte memories -/

namespace Mem

/-- The byte at an address. -/
def get : Mem → Nat → Byte
  | [], _ => 0
  | (b, v) :: m, a => if a = b then v else if a < b then 0 else get m a

/-- The memory with one byte written; writing zero removes the entry. -/
def set : Mem → Nat → Byte → Mem
  | [], a, v => if v = 0 then [] else [(a, v)]
  | (b, x) :: m, a, v =>
    if a < b then (if v = 0 then (b, x) :: m else (a, v) :: (b, x) :: m)
    else if a = b then (if v = 0 then m else (a, v) :: m)
    else (b, x) :: set m a v

/-- Every address is above lo, strictly rising, and no entry is zero. -/
def wfFrom : Option Nat → Mem → Bool
  | _, [] => true
  | lo, (b, v) :: m => (match lo with | none => true | some l => decide (l < b)) && decide (v ≠ 0) && wfFrom (some b) m

/-- The canonical form. -/
def wf (m : Mem) : Bool := wfFrom none m

/-- n bytes from an address. -/
def read (m : Mem) (a n : Nat) : Bytes := (List.range n).map fun i => get m (a + i)

/-- Bytes written from an address on. -/
def write : Mem → Nat → Bytes → Mem
  | m, _, [] => m
  | m, a, b :: l => write (set m a b) (a + 1) l

/-- n zero bytes written from an address on. -/
def clear : Mem → Nat → Nat → Mem
  | m, _, 0 => m
  | m, a, n + 1 => clear (set m a 0) (a + 1) n

/-- The entries outside [a, a + n): the memory with that range zero, whatever its length. -/
def drop (m : Mem) (a n : Nat) : Mem := m.filter fun c => !(decide (a ≤ c.1) && decide (c.1 < a + n))

/-- The little-endian number in n bytes at an address. -/
def num (m : Mem) (a n : Nat) : Nat := leNat (read m a n)

end Mem

/-! ### Sparse tables -/

namespace Tab

/-- The entry of a key, if it has one. -/
def find? {α : Type} : Tab α → Nat → Option α
  | [], _ => none
  | (k, v) :: t, a => if a = k then some v else find? t a

/-- The entry of a key, or a default. -/
def find {α : Type} (t : Tab α) (a : Nat) (dflt : α) : α := (find? t a).getD dflt

/-- The table with one entry put in, keys ascending. -/
def put {α : Type} : Tab α → Nat → α → Tab α
  | [], a, v => [(a, v)]
  | (k, x) :: t, a, v => if a < k then (a, v) :: (k, x) :: t else if a = k then (a, v) :: t else (k, x) :: put t a v

/-- The table without a key. -/
def erase {α : Type} (t : Tab α) (a : Nat) : Tab α := t.filter fun e => decide (e.1 ≠ a)

end Tab

/-- A file of n registers read at any number; past its end it reads the default. -/
def vget {α : Type} {n : Nat} (v : Vector α n) (i : Nat) (dflt : α) : α := (v[i]?).getD dflt
/-- A file of n registers written at any number; past its end nothing happens. -/
def vset {α : Type} {n : Nat} (v : Vector α n) (i : Nat) (x : α) : Vector α n := v.setIfInBounds i x

/-! ### The parts of the device -/

namespace Dev

/-- Sequencer q. -/
def seq (d : Dev) (q : Nat) : Seq := d.seqs.find q {}
/-- The device with sequencer q replaced. -/
def setSeq (d : Dev) (q : Nat) (s : Seq) : Dev := { d with seqs := d.seqs.put q s }
/-- The device with sequencer q changed. -/
def modSeq (d : Dev) (q : Nat) (f : Seq → Seq) : Dev := d.setSeq q (f (d.seq q))
/-- Physical cluster c. -/
def cluster (d : Dev) (c : Nat) : Cluster := d.clusters.find c {}
/-- The device with cluster c changed. -/
def modCluster (d : Dev) (c : Nat) (f : Cluster → Cluster) : Dev := { d with clusters := d.clusters.put c (f (d.cluster c)) }
/-- Near-data unit u. -/
def unit (d : Dev) (u : Nat) : Near := d.near.find u {}
/-- The device with unit u changed. -/
def modUnit (d : Dev) (u : Nat) (f : Near → Near) : Dev := { d with near := d.near.put u (f (d.unit u)) }
/-- Tenant t; 16 stands for the administrator. -/
def tenant (d : Dev) (t : Nat) : Tenant := vget d.tenants t {}
/-- The device with tenant t changed. -/
def modTenant (d : Dev) (t : Nat) (f : Tenant → Tenant) : Dev := { d with tenants := vset d.tenants t (f (d.tenant t)) }
/-- Launch l. -/
def launch? (d : Dev) (l : Nat) : Option Launch := d.launches.find? l
/-- The device with launch l changed, if there is one. -/
def modLaunch (d : Dev) (l : Nat) (f : Launch → Launch) : Dev :=
  match d.launches.find? l with
  | some x => { d with launches := d.launches.put l (f x) }
  | none => d
/-- Managed frame f. -/
def frame (d : Dev) (f : Nat) : Frame := d.mmu.frames.find f {}
/-- The device with frame f changed. -/
def modFrame (d : Dev) (f : Nat) (g : Frame → Frame) : Dev :=
  { d with mmu := { d.mmu with frames := d.mmu.frames.put f (g (d.frame f)) } }
/-- Key of stream m of tenant t (16 for the administrator) in the table of streams. -/
def streamKey (t m : Nat) : Nat := t * 8 + m
/-- Stream m of tenant t. -/
def stream (d : Dev) (t m : Nat) : Strm8 := d.streams.find (streamKey t m) {}
/-- The device with stream m of tenant t changed. -/
def modStream (d : Dev) (t m : Nat) (f : Strm8 → Strm8) : Dev :=
  { d with streams := d.streams.put (streamKey t m) (f (d.stream t m)) }
/-- A free number and the device that has drawn it (log 4). -/
def draw (d : Dev) : Nat × Dev := (Config.freeNat d.drawn, { d with drawn := d.drawn + 1 })
/-- n free bytes and the device that has drawn them (log 4). -/
def drawBytes (d : Dev) (n : Nat) : Bytes × Dev :=
  ((List.range n).map fun i => Config.freeByte (d.drawn + i), { d with drawn := d.drawn + n })

end Dev

/-- Elements in an entry of a stream (R113). -/
def Strm.per (s : Strm) : Nat := if s.pk then 32 / s.esz else 1
/-- Entries of a stream (R113). -/
def Strm.entries (s : Strm) : Nat := ceilDiv s.cnt s.per
/-- Address of element j of a stream (R112). -/
def Strm.addr (s : Strm) (j : Nat) : Nat := addr64 s.base ((j : Int) * s.stride)

/-- Whether an operation of a sequencer's order is a store stream. -/
def MOp.isStore : MOp → Bool
  | .stream s => match s.kind with | .st | .stCf | .stFf | .stFs => true | _ => false
  | _ => false
namespace Seq

/-- Column c of a sequencer. -/
def col (s : Seq) (c : Nat) : Col := vget s.cols c {}
/-- The sequencer with column c changed. -/
def modCol (s : Seq) (c : Nat) (f : Col → Col) : Seq := { s with cols := vset s.cols c (f (s.col c)) }
/-- Columns a sequencer owns: 4, 2 or 1 by the mode (R16). -/
def ncols (s : Seq) : Nat := if s.place.mode = 0 then 4 else if s.place.mode = 1 then 2 else 1
/-- Its lowest column within the core (R16). -/
def col0 (s : Seq) : Nat := s.place.seqNo * s.ncols
/-- Whether it owns a column of its core. -/
def owns (s : Seq) (c : Nat) : Bool := decide (s.col0 ≤ c) && decide (c < s.col0 + s.ncols)
/-- Bytes of its physical share (R63). -/
def share (s : Seq) : Nat := 16384 * s.ncols
/-- Bytes it owns (R22). -/
def owned (s : Seq) : Nat := 4096 * s.place.granules
/-- Words of its microprogram share (R17). -/
def microWords (s : Seq) : Nat := 256 * s.ncols
/-- The byte at a share-relative address; past the owned bytes it reads zero (R22). -/
def byteAt (s : Seq) (a : Nat) : Byte := if a < s.owned then s.space.get a else 0
/-- n bytes as a little-endian number (R22, R63). -/
def spaceNum (s : Seq) (a n : Nat) : Nat := leNat ((List.range n).map fun i => s.byteAt (a + i))
/-- n bytes of register space. -/
def spaceBytes (s : Seq) (a n : Nat) : Bytes := (List.range n).map fun i => s.byteAt (a + i)
/-- A write of bytes with their enables; bytes past the owned ones are ignored (R22). -/
def putSpace (s : Seq) (a : Nat) (l : List (Byte × Bool)) : Seq :=
  { s with space := (l.zipIdx).foldl (fun m e => if e.1.2 && decide (a + e.2 < s.owned) then m.set (a + e.2) e.1.1 else m) s.space }
/-- Predicate n: p0 reads as all ones (R69). -/
def pred (s : Seq) (n : Nat) : Word := if n = 0 then BitVec.allOnes 64 else vget s.regs.preds n 0

end Seq

end Sys2Proof.Machine
end

