-- ==== Sys2Proof/Machine/Order.lean ====
section
/-! DEFINITION. Addresses, translation, residency and the single order (R247 to R262, R373 to R384): where an address leads,
what a byte holds at a place in the order, and how an operation takes its place. -/

namespace Sys2Proof.Machine

/-! ### Locations (log 3) -/

/-- Location of the first byte of managed frame f: its contents stay there whatever its home (R377, R381). -/
def frameLoc (f : Nat) : Nat := 2 ^ 56 + f * 16384
/-- Location of host address 0 (R373). -/
def hostLoc : Nat := 2 ^ 80
/-- Location of the Gaffer's own memory: graph copies and object images (R315, R360). -/
def gafferLoc : Nat := 2 ^ 84
/-- Location of the first byte of a counted unit's data (R124). -/
def unitLoc (id : Nat) : Nat := 2 ^ 90 + id * 256
/-- Device virtual address from which what the Gaffer keeps for a tenant is mapped into the tenant's context: copies of graph
parameters read-only, and from 2^39 on the plans and parisons of tiered launches (R325, R332, R361, log 14). -/
def gafferVa (ten : Nat) : Nat := 2 ^ 55 + ten * 2 ^ 40
/-- The managed frame of a location. -/
def frameOf (loc : Nat) : Option Nat := if 2 ^ 56 ≤ loc && loc < 2 ^ 56 + 2 ^ 28 * 16384 then some ((loc - 2 ^ 56) / 16384) else none

/-- Bytes of HBM: 640 GB, but for a ZLH-CD, which has the stacks that stand beside its one die (R1, R373, log 77). -/
def hbmSize (d : Dev) : Nat := if d.form = .cd then 80 * 10 ^ 9 * (Config.cdStacks 0 % 3) else Config.hbmBytes

/-- Agents that are no sequencers, by number: units, engines, the host, peers, the Gaffer. -/
def unitAgent (u : Nat) : Nat := 2048 + u
/-- Engine e of cluster c: 0 and 1 copy, 2 transform. -/
def engineAgent (e : Nat) : Nat := 4096 + e
/-- The host. -/
def hostAgent : Nat := 8192
/-- Peers. -/
def peerAgent : Nat := 8193
/-- The Gaffer. -/
def gafferAgent : Nat := 8194

/-- Where an address leads (R135, R373 to R383). -/
inductive Way where
  | here (loc : Nat) (rd wr : Bool)
  | peer (dev ten addr : Nat) (rd wr : Bool)
  | absent (frame : Option Nat) (rd wr : Bool)
  | refused
  | miss
  | bad
  deriving DecidableEq, Repr

/-- Read permission of a way; what is not translated or not mapped denies nothing (R375). -/
def Way.reads : Way → Bool
  | .here _ r _ => r
  | .peer _ _ _ r _ => r
  | .absent _ r _ => r
  | .bad => false
  | _ => true

/-- Write permission of a way. -/
def Way.writes : Way → Bool
  | .here _ _ w => w
  | .peer _ _ _ _ w => w
  | .absent _ _ w => w
  | .bad => false
  | _ => true

/-- Whether a translation-cache entry holds a tenant's page (R375). -/
def Tlb.covers (e : Tlb) (ten page : Nat) : Bool := decide (e.ten = ten) && decide (e.page ≤ page) && decide (page < e.page + 2 ^ e.size)

/-- An address in an entry's region, by its offset there (R375), with its frame's home (R377). -/
def pageWay (d : Dev) (off : Nat) : AtsRes → Way
  | .refused => .refused
  | .unmapped => .absent none true true
  | .mapped r w page =>
    match frameOf (page + off) with
    | some f =>
      let h := (d.frame f).home
      if h ≤ 3 then .here (page + off) r w else if h = 7 then .refused else .absent (some f) r w
    | none => .here (page + off) r w

/-- The stripe window of an address, if one covers it (R382). -/
def stripeOf (t : Tenant) (va : Nat) : Option Win :=
  (t.wins.toList.filterMap id).find? fun w => !w.pull && decide (w.vbase ≤ va) && decide (va < w.vbase + w.vlen)

/-- Translation of a tenant's address at a die (R135, R350, R373 to R375, R382). -/
def translate (d : Dev) (die ten va : Nat) : Way :=
  let t := d.tenant ten
  if 2 ^ 56 ≤ va then .bad
  else if t.hbase ≤ va && va < t.hlim then .here (va - t.hbase + t.hofs) (t.hperm.getLsbD 0) (t.hperm.getLsbD 1)
  else match stripeOf t va with
    | some w =>
      let g := (va - w.vbase) / 4096
      .peer (w.peers.getD (g % w.np) 0) w.rctx (w.rbase + g / w.np * 4096 + va % 4096) w.rd w.wr
    | none =>
      if t.active && t.sava ≤ va && va < t.sava + 2 ^ 28 then .here (t.sarea + (va - t.sava)) true false
      else if t.csva ≤ va && va < t.csva + t.svlen then .here (t.svpa + (va - t.csva)) true false
      else if gafferVa ten ≤ va && va < gafferVa ten + 2 ^ 40 then .here (gafferLoc + va) true (decide (gafferVa ten + 2 ^ 39 ≤ va))
      else if d.mmu.refused.contains (ten, va / 16384) then .refused
      else match d.mmu.tlb.find? fun e => decide (e.die = die) && e.covers ten (va / 16384) with
        | some e => pageWay d (va - e.page * 16384) e.res
        | none => .miss

/-- Bytes of the firmware store that control cores reach (log 13). -/
def storeBytes16 : Nat := 2 ^ 24
/-- A control core's device-physical address: HBM and the firmware store (R394). -/
def physWay (d : Dev) (a : Nat) : Way :=
  if a < hbmSize d then .here a true true
  else if Config.fwStore 0 ≤ a && a < Config.fwStore 0 + storeBytes16 then .here (gafferLoc + 2 ^ 60 + a) true true else .bad

/-- Die of a sequencer or unit: sequencers by column (R4), units and the Gaffer at die 0. -/
def dieOf (q : Nat) : Nat := if q < 1024 then q / 256 else 0

/-- The location that an address names, resident or not. -/
def Way.loc? (va : Nat) : Way → Option Nat
  | .here loc _ _ => some loc
  | .absent (some f) _ _ => some (frameLoc f + va % 16384)
  | _ => none

/-- Translation of a sequencer's address. -/
def seqWay (d : Dev) (q va : Nat) : Way :=
  let s := d.seq q
  if s.place.control then physWay d va else translate d (dieOf q) s.place.ten va

/-- A residency request of a tenant for a page, merged with one that stands: one that has not been sent takes the access that it asks
for too, and one sent for less does not stand for it (R131, R378). -/
def requestPage (d : Dev) (ten va : Nat) (write : Bool) : Dev :=
  let page := va / 16384
  let same (r : PageReq) : Bool := decide (r.ten = ten) && decide (r.page = page)
  if d.mmu.reqs.any fun r => same r && (r.write || !write) then d
  else if d.mmu.reqs.any fun r => same r && !r.sent then
    { d with mmu := { d.mmu with reqs := d.mmu.reqs.map fun r => if same r && !r.sent then { r with write := true } else r } }
  else { d with mmu := { d.mmu with reqs := d.mmu.reqs ++ [{ ten := ten, page := page, write := write }] } }

/-- The frame of a location is marked accessed for the age tick (R380). -/
def touch (d : Dev) (loc : Nat) : Dev :=
  match frameOf loc with
  | some f => d.modFrame f fun x => { x with accessed := true }
  | none => d

/-! ### Stash mappings and counted units -/

/-- The logical cluster of a launch by index. -/
def lclOf (d : Dev) (l i : Nat) : LCl :=
  match d.launch? l with
  | some x => x.clusters.getD i {}
  | none => {}

/-- The device with a logical cluster of a launch changed. -/
def modLcl (d : Dev) (l i : Nat) (f : LCl → LCl) : Dev :=
  d.modLaunch l fun x => { x with clusters := x.clusters.mapIdx fun k c => if k = i then f c else c }

/-- Whether n bytes at va lie inside one entry of a stash map (R132). -/
def inMaps (c : LCl) (va n : Nat) : Bool :=
  c.maps.toList.any fun
    | some e => decide (e.va ≤ va) && decide (va + n ≤ e.va + e.len)
    | none => false

/-- Whether n bytes at va lie inside a stash mapping of the sequencer's cluster. -/
def inStash (d : Dev) (q va n : Nat) : Bool :=
  let s := d.seq q
  inMaps (lclOf d s.place.launch s.place.lcl) va n

/-- Whether n bytes at va lie inside a stash mapping of some cluster of the sequencer's launch (R189, R193). -/
def inAnyStash (d : Dev) (q va n : Nat) : Bool :=
  match d.launch? (d.seq q).place.launch with
  | some x => x.clusters.any fun c => inMaps c va n
  | none => false

/-- The counted unit that a sequencer's access at va meets, with a count above zero: a block inside the cluster's
mappings, a line of its own elsewhere (R124). -/
def unitAt (d : Dev) (q va : Nat) : Option CUnit :=
  let s := d.seq q
  let us := if inStash d q va 1 then (lclOf d s.place.launch s.place.lcl).blocks else s.lines
  us.find? fun u => decide (u.va ≤ va) && decide (va < u.va + u.size) && decide (0 < u.count)

/-- Changes the counted units that a sequencer's addresses at va belong to. -/
def modUnits (d : Dev) (q va : Nat) (f : List CUnit → List CUnit) : Dev :=
  let s := d.seq q
  if inStash d q va 1 then modLcl d s.place.launch s.place.lcl fun c => { c with blocks := f c.blocks }
  else d.setSeq q { s with lines := f s.lines }

/-- Where an ordinary access of a sequencer goes: the data of a counted unit in its scope, or memory (R124). -/
def accessWay (d : Dev) (q va : Nat) : Way :=
  match unitAt d q va with
  | some u => .here (unitLoc u.id + (va - u.va)) true true
  | none => seqWay d q va

/-- An under-read: counted in the sequencer's cur and in its launch's end status (R124, R136). -/
def underRead (d : Dev) (q : Nat) (inCur : Bool) : Dev :=
  let s := d.seq q
  let d := if inCur then d.setSeq q { s with regs := { s.regs with cur := s.regs.cur + 1 } } else d
  d.modLaunch s.place.launch fun l => { l with undr := l.undr + 1 }

/-- All bytes of an address range full (R123). -/
def granulesFull (c : LCl) (va n : Nat) : Bool := (span (va / 16) (ceilDiv n 16)).all fun g => c.full.contains g

/-- Some granule of an address range is full. -/
def granulesSome (c : LCl) (va n : Nat) : Bool := (span (va / 16) (ceilDiv n 16)).any fun g => c.full.contains g

/-- The granules of a range set full or empty. -/
def setGranules (full : Bool) (va n : Nat) (c : LCl) : LCl :=
  let gs := span (va / 16) (ceilDiv n 16)
  { c with full := if full then insertNats c.full gs else c.full.filter fun g => !gs.contains g }

/-! ### Barrier objects (R190) -/

/-- The two words of a barrier object after an arrival of b bytes, error code c and status f (R190). -/
def arrival (w0 w1 b c : Nat) (f : BitVec 6) : Nat × Nat :=
  let exp := bits w0 32 32
  let arr := (bits w0 0 32 + b) % 2 ^ 32
  let err := if bits w1 48 8 = 0 then c % 256 else bits w1 48 8
  let flg := (BitVec.ofNat 6 w1 ||| f).toNat
  let na := bits w1 32 16
  let acnt := bits w1 16 16
  let ph := bits w1 63 1
  if acnt ≤ 1 then
    let err := if arr ≠ exp && err = 0 then 0x10 else err
    (exp * 2 ^ 32, (1 - ph) * 2 ^ 63 + err * 2 ^ 48 + na * 2 ^ 32 + na * 2 ^ 16 + flg)
  else (exp * 2 ^ 32 + arr, ph * 2 ^ 63 + err * 2 ^ 48 + na * 2 ^ 32 + (acnt - 1) * 2 ^ 16 + flg)

/-! ### The suffix of the order that is not yet fixed in memory (R249, R250) -/

/-- The agent of a placed operation, and the bytes that it acts on. -/
def Placed.range : Placed → Nat × Nat × Nat
  | .store o _ _ _ _ b n _ => (o, b, n)
  | .load o _ _ _ _ b n => (o, b, n)
  | .rmw o _ _ _ _ _ b n _ _ => (o, b, n)
  | .row o b l _ => (o, b, l.length)
  | .kept o b l => (o, b, l.length)
  | .epi o _ _ _ b n => (o, b, n)
  | .arrive o b _ _ _ => (o, b, 16)
  | .part o _ _ b n => (o, b, n)
  | .fork o _ => (o, 0, 0)

/-- Whether a placed operation only reads. -/
def Placed.isRead : Placed → Bool
  | .load .. => true
  | .part .. => true
  | _ => false

/-- Whether a placed operation is a write whose data are outstanding: those of an agent's store-data entry or epilogue row. -/
def Placed.awaits (own : Nat) : Placed → Bool
  | .store o _ _ _ _ _ _ none => decide (o = own)
  | .epi o .. => decide (o = own)
  | _ => false

/-- The byte that one placed operation gives a location: not its business, unknown, or known. -/
def placedByte (loc : Nat) (p : Placed) : Option (Option Byte) :=
  let (_, b, n) := p.range
  if !(decide (b ≤ loc) && decide (loc < b + n)) then none
  else match p with
    | .store _ _ _ off _ _ _ (some (v, en)) =>
      if en.getLsbD (off + (loc - b)) then some (some (v.extractLsb' (8 * (off + (loc - b))) 8)) else none
    | .row _ _ l _ => some l[loc - b]?
    | .kept _ _ l => some l[loc - b]?
    | .load .. => none
    | .part .. => none
    | _ => some none

/-- Whether a write is held back from agents other than its own by an epi of that agent which waits for its tile, among the operations
before it (R181). -/
def heldBack (me : Nat) (p : Placed) (before : List Placed) : Bool :=
  decide (p.range.1 ≠ me) && before.any fun | .epi o .. => decide (o = p.range.1) | _ => false

/-- The byte at a location after some placed operations, newest first, as agent `me` reads it. -/
def byteIn (me : Nat) (m : Mem) (loc : Nat) : List Placed → Option Byte
  | [] => some (m.get loc)
  | p :: l =>
    match placedByte loc p with
    | some r => if heldBack me p l then none else r
    | none => byteIn me m loc l

/-- The bytes at n locations after placed operations (newest first) as an agent reads them, if all are known. -/
def bytesIn (me : Nat) (m : Mem) (l : List Placed) (loc n : Nat) : Option Bytes := (span loc n).mapM fun a => byteIn me m a l

/-- The bytes that an access whose place comes now reads, if all are known; the agent is the Gaffer unless one is named. -/
def nowBytes (d : Dev) (loc n : Nat) (me : Nat := gafferAgent) : Option Bytes := bytesIn me d.mem d.placed.reverse loc n
/-- Whether a byte is poisoned after some placed operations, newest first: an ordinary store or a fill clears a mark, an atomic or
an arrival leaves it (R243). -/
def poisonIn (d : Dev) (a : Nat) : List Placed → Bool
  | [] => d.poison.contains a
  | p :: l =>
    if (placedByte a p).isNone then poisonIn d a l
    else match p with
      | .row _ _ _ psn => psn
      | .store .. => false
      | .epi .. => false
      | _ => poisonIn d a l
/-- Whether a byte is poisoned for an access whose place comes now. -/
def nowPoison (d : Dev) (loc n : Nat) : Bool := (span loc n).any fun a => poisonIn d a d.placed.reverse

/-- The new value of an atomic from the old value x (R127). -/
def atomNew (op n x y y2 : Nat) : Nat :=
  let b := 8 * n
  match op with
  | 0 => y
  | 1 => (x + y) % 2 ^ b
  | 2 => x &&& y
  | 3 => x ||| y
  | 4 => x ^^^ y
  | 5 => if sx b x ≤ sx b y then x else y
  | 6 => if sx b y ≤ sx b x then x else y
  | 7 => if x ≤ y then x else y
  | 8 => if y ≤ x then x else y
  | _ => if x = y then y2 else x

/-! ### Bytes of forked agents (R196, R249, R267, R269) -/

/-- The byte and poison that a unit's own performed but unpublished writes give a location: the latest of them. -/
def ownByte (l : List NWrite) (a : Nat) : Option (Byte × Bool) :=
  (l.reverse.find? fun w => decide (w.loc ≤ a) && decide (a < w.loc + w.bytes.length)).map fun w => (w.bytes.getD (a - w.loc) 0, w.psn)

/-- The writes of engine commands and near-data units that have not been joined, at a location, each with its poison: one for each
writer, its latest. A unit whose context is saved has not published what it wrote (R269, R291). Commands in `later` have forked after
the access (R196, R250). -/
def unjoined (d : Dev) (later : List Placed) (loc : Nat) : List (Byte × Bool) :=
  let find (x : Cmd) : Option (Byte × Bool) := (x.writes.reverse.find? fun w => decide (w.1 = loc)).map fun w => (w.2, x.poisoned.contains loc)
  let ofCmd (c : Option Cmd) : Option (Byte × Bool) :=
    c.bind fun x => if later.any fun | .fork o i => decide (o = x.owner) && decide (i = x.id) | _ => false then none else find x
  (d.clusters.flatMap fun c => [c.2.copy0.running, c.2.copy1.running, c.2.xform.running].filterMap ofCmd)
    ++ (d.near.filterMap fun u => ownByte u.2.unjoined loc)
    ++ (d.launches.flatMap fun l => l.2.nctx.filterMap fun u => ownByte u.2.unjoined loc)

/-- The byte that an access sees of an old one and of the writes that forked agents have made and not joined: old or new as a free
value chooses (R196, R267, log 4). -/
def oldOrNew (d : Dev) (k : Nat) (old : Byte × Bool) (l : List (Byte × Bool)) : Byte × Bool :=
  l.getD ((Config.freeByte (d.drawn + k)).toNat % (l.length + 1)) old

/-- The bytes with their poison that an agent's access reads whose place follows some placed operations (newest first) and comes before
`later`; none while an old byte is unknown. -/
def readIn (me : Nat) (d : Dev) (done later : List Placed) (loc n : Nat) : Option (List (Byte × Bool)) × Dev :=
  match bytesIn me d.mem done loc n with
  | none => (none, d)
  | some l =>
    let old := l.zipIdx.map fun e => (e.1, poisonIn d (loc + e.2) done)
    if (span loc n).any fun a => !(unjoined d later a).isEmpty then
      (some (old.zipIdx.map fun e => oldOrNew d e.2 e.1 (unjoined d later (loc + e.2))), { d with drawn := d.drawn + n })
    else (some old, d)

/-! ### The order goes forward -/

/-- Some bytes written to memory; the poison marks of the bytes go (R243). -/
def landBytes (d : Dev) (loc : Nat) (l : List (Option Byte)) : Dev :=
  l.zipIdx.foldl (fun d e =>
    match e.1 with
    | some b => { d with mem := d.mem.set (loc + e.2) b, poison := d.poison.filter fun a => decide (a ≠ loc + e.2) }
    | none => d) d

/-- The bytes of a store's data with their enables. -/
def storeBytes (off n : Nat) (v : BitVec 256) (en : BitVec 32) : List (Option Byte) :=
  (List.range n).map fun i => if en.getLsbD (off + i) then some (v.extractLsb' (8 * (off + i)) 8) else none

/-- Puts the value of a load element into the entry being filled (R113, R116). -/
def fillElem (own col ent elem n : Nat) (v : Nat) (psn : Option Nat) (d : Dev) : Dev :=
  d.modSeq own fun s => s.modCol col fun c => { c with fill := c.fill.map fun e =>
    if e.id = ent then
      { e with data := e.data ||| BitVec.ofNat 256 (v * 2 ^ (8 * n * elem)), filled := e.filled + 1,
               poison := if e.poison.isSome then e.poison else psn }
    else e }

/-- Puts piece k of what a matrix command reads into it (R171, R172). -/
def fillPart (own id k : Nat) (b : Bytes) (psn : List Nat) (d : Dev) : Dev :=
  d.modSeq own fun s => { s with mx := { s.mx with queue := s.mx.queue.map fun
    | .mld i a f n got => .mld i a f n (if i = id then got.put k (b, psn) else got)
    | .mgat i l b0 st rb ix got => .mgat i l b0 st rb ix (if i = id then got.put k (b, psn) else got)
    | c => c } }

/-- The plain bytes of what a read returns. -/
def plain (l : List (Byte × Bool)) : Bytes := l.map (·.1)
/-- Whether some byte of what a read returns is poisoned. -/
def anyBad (l : List (Byte × Bool)) : Bool := l.any (·.2)
/-- The places of the poisoned bytes of what a read returns. -/
def badBytes (l : List (Byte × Bool)) : List Nat := (l.zipIdx.filter (·.1.2)).map (·.2)

/-- Resolves the reads, atomics and arrivals whose bytes are known, front to back; the operations before are newest first. -/
def resolve (done : List Placed) (d : Dev) : List Placed → List Placed × Dev
  | [] => (done.reverse, d)
  | p :: l =>
    match p with
    | .load own col ent elem va loc n =>
      match readIn own d done l loc n with
      | (some b, d) => resolve done (fillElem own col ent elem n (leNat (plain b)) (if anyBad b then some va else none) d) l
      | (none, d) => resolve (p :: done) d l
    | .rmw own col ent va ret op loc n y y2 =>
      match readIn own d done l loc n with
      | (some b, d) =>
        let x := leNat (plain b)
        let d := if ret then fillElem own col ent 0 n x (if anyBad b then some va else none) d else d
        resolve (.kept own loc (toLe n (atomNew op n x y y2)) :: done) d l
      | (none, d) => resolve (p :: done) d l
    | .arrive own loc bytes code fl =>
      match readIn own d done l loc 16 with
      | (some b, d) =>
        let w := arrival (leNat (plain (b.take 8))) (leNat (plain (b.drop 8))) bytes code fl
        resolve (.kept own loc (toLe 8 w.1 ++ toLe 8 w.2) :: done) d l
      | (none, d) => resolve (p :: done) d l
    | .part own id k loc n =>
      match readIn own d done l loc n with
      | (some b, d) => resolve done (fillPart own id k (plain b) (badBytes b) d) l
      | (none, d) => resolve (p :: done) d l
    | _ => resolve (p :: done) d l

/-- Location of a stream's control block; tenant 16 is the administrator (R350, R352). -/
def blockLoc (d : Dev) (ten m : Nat) : Nat := (if ten = 16 then d.adma else (d.tenant ten).sarea) + 64 * m

/-- The Gaffer monitors every WIX word: it sees the value that a write by any agent leaves there (R353). -/
def wixSeen (loc n : Nat) (d : Dev) : Dev :=
  (List.range 17).foldl (fun d ten =>
    if (decide (ten = 16) || (d.tenant ten).active) && overlap loc n (blockLoc d ten 0) 512 then
      (List.range (if ten = 16 then 1 else 8)).foldl (fun d m =>
        if overlap loc n (blockLoc d ten m) 8 then d.modStream ten m fun s => { s with news := s.news ++ [d.mem.num (blockLoc d ten m) 8] } else d) d
    else d) d

/-- A placed write whose bytes are known goes to memory; none for any other operation. -/
def land (d : Dev) : Placed → Option Dev
  | .store _ _ _ off _ loc n (some (v, en)) => some (wixSeen loc n (landBytes d loc (storeBytes off n v en)))
  | .row _ loc b psn =>
    let d := landBytes d loc (b.map some)
    some (wixSeen loc b.length (if psn then { d with poison := insertNats d.poison (span loc b.length) } else d))
  | .kept _ loc b => some (wixSeen loc b.length { d with mem := d.mem.write loc b })
  | .fork .. => some d
  | _ => none

/-- Whether two placed operations share a byte. -/
def Placed.meets (p q : Placed) : Bool := overlap p.range.2.1 p.range.2.2 q.range.2.1 q.range.2.2

/-- Whether an operation stays behind those before it that stay: a write on their bytes or behind a waiting epi of its agent (R181), and
a command's fork behind any (R250). -/
def staysBehind (p : Placed) (held : List Placed) : Bool :=
  match p with
  | .fork .. => !held.isEmpty
  | _ => held.any fun h => p.meets h || (match h with | .epi o .. => decide (o = p.range.1) | _ => false)

/-- Writes the stores whose data stand into memory, but for those that stay behind an operation that stays; `held` are these, newest
first. -/
def drain (held : List Placed) (d : Dev) : List Placed → List Placed × Dev
  | [] => (held.reverse, d)
  | p :: l =>
    match if staysBehind p held then none else land d p with
    | some d => drain held d l
    | none => drain (p :: held) d l

/-- Brings the order forward as far as data allow. -/
def settle (d : Dev) : Dev :=
  let (l, d) := resolve [] d d.placed
  let (l, d) := drain [] d l
  { d with placed := l }

/-- A write by an agent takes its place on some bytes: another sequencer's foreign watch on them sees it (R391). -/
def noteWrite (d : Dev) (own loc n : Nat) : Dev :=
  (touch d loc).mmu.watches.foldl (fun d w =>
    let (q, j, b, m) := w
    let s := d.seq q
    let c := vget s.regs.wpc j 0
    if q ≠ own && overlap loc n b m && c.getLsbD 1 then
      d.setSeq q { s with regs := { s.regs with wpc := vset s.regs.wpc j (c ||| 0x200#64) },
                          owedForeign := if c.getLsbD 9 then s.owedForeign else s.owedForeign ||| 2 ^ j }
    else d) (touch d loc)

/-! ### Atomics that other agents may divide (R128, R249) -/

/-- Whether a location is a host page in host bias (R265). -/
def hostBias (d : Dev) (loc : Nat) : Bool :=
  match frameOf loc with
  | some f => decide ((d.frame f).home = 3) && !(d.frame f).devBias
  | none => decide (hostLoc ≤ loc) && decide (loc < gafferLoc)

/-- The cluster of a sequencer or an engine. -/
def agentCluster (a : Nat) : Option Nat :=
  if a < 1024 then some (a / 16) else if 4096 ≤ a && a < hostAgent then some ((a - 4096) / 3) else none

/-- Whether an agent finds an atomic of scope .cl or .dv indivisible (R128). -/
def Split.covers (d : Dev) (x : Split) (a : Nat) : Bool :=
  -- a peer's agents of its scope are on the peer (R264)
  if x.own = peerAgent then false
  else if x.sc = 0 then decide (agentCluster a = agentCluster x.own)
  else decide (a ≠ peerAgent) && (decide (a ≠ hostAgent) || !hostBias d x.loc)

/-- The write of a divided atomic takes its place, and the atomic leaves its sequencer's order. -/
def closeSplit (d : Dev) (x : Split) : Dev :=
  let d := if x.own = peerAgent then d else d.modSeq x.own fun s => { s with ord := s.ord.drop 1, missWait := false }
  noteWrite (settle { d with splits := d.splits.erase x, placed := d.placed ++ [.kept x.own x.loc (toLe x.n x.val)] }) x.own x.loc x.n

/-- An access by an agent takes its place on some bytes: the divided atomics on them that are indivisible against the agent take
their writes' places first. -/
def closeSplits (a loc n : Nat) (d : Dev) : Dev :=
  (d.splits.filter fun x => decide (x.own ≠ a) && overlap loc n x.loc x.n && x.covers d a).foldl closeSplit d

/-- An operation takes the next place in the order. -/
def place (d : Dev) (p : Placed) : Dev :=
  let d := closeSplits p.range.1 p.range.2.1 p.range.2.2 d
  settle { d with placed := d.placed ++ [p] }

/-- An operation takes the next place in the order, and what sees accesses sees it. -/
def perform (d : Dev) (p : Placed) : Dev :=
  let (own, loc, n) := p.range
  if p.isRead then place (touch d loc) p else noteWrite (place d p) own loc n

/-- Whether an access of a sequencer at an address with a location goes to the host: a page in host bias, but for the ranges that its
launch maps to a stash, which are the stash's (R132, R265). -/
def goesFar (d : Dev) (q va loc : Nat) : Bool := hostBias d loc && !inAnyStash d q va 1

/-- Whether an access on its way to the host touches a range. -/
def farIn (d : Dev) (base len : Nat) : Bool := d.seqs.any fun e => e.2.far.any fun p => overlap p.range.2.1 p.range.2.2 base len

/-- An operation of a sequencer at an address takes its place; one that goes to the host leaves, and takes its place there (R265). -/
def putOut (d : Dev) (va : Nat) (p : Placed) : Dev :=
  if goesFar d p.range.1 va p.range.2.1 then d.modSeq p.range.1 fun s => { s with far := s.far ++ [p] } else perform d p

/-- A write whose bytes stand takes the next place in the order; it may carry poison (R185, R243). -/
def placeBytes (d : Dev) (own loc : Nat) (l : Bytes) (psn : Bool := false) : Dev := perform d (.row own loc l psn)

/-- The bytes that a load of an agent returns whose place comes now; none while an old byte is unknown. -/
def loadBytes (d : Dev) (own loc n : Nat) : Option (List (Byte × Bool)) × Dev :=
  let d := closeSplits own loc n (touch d loc)
  readIn own d d.placed.reverse [] loc n

/-- The n bytes at a location read by an agent that waits for outstanding data: none while a byte is unknown. -/
def readNow (d : Dev) (loc n : Nat) (me : Nat := gafferAgent) : Option Nat := (nowBytes d loc n me).map leNat

/-- Bytes of memory marked poisoned (R243). -/
def markPoison (d : Dev) (loc n : Nat) : Dev := { d with poison := insertNats d.poison (span loc n) }

/-! ### The Gaffer's own accesses -/

/-- The Gaffer writes a number of n bytes. -/
def gput (d : Dev) (loc n v : Nat) : Dev := placeBytes d gafferAgent loc (toLe n v)
/-- The Gaffer reads a number of n bytes; bytes whose data is outstanding read as memory stands. -/
def gget (d : Dev) (loc n : Nat) : Nat := ((readNow d loc n).getD (d.mem.num loc n))
/-- The Gaffer reads bytes. -/
def ggetBytes (d : Dev) (loc n : Nat) : Bytes := (nowBytes d loc n).getD (d.mem.read loc n)
/-- The Gaffer reads n bytes at a tenant's address; a byte that leads to no memory of the device reads zero (R117). -/
def tget (d : Dev) (ten va n : Nat) : Nat :=
  match translate d 0 ten va with
  | .here loc _ _ => gget d loc n
  | _ => 0
/-- The fabric port that leads to a peer: one that is up, or retrains after a loss of lanes (R418). -/
def portTo (d : Dev) (dev : Nat) : Option Nat :=
  d.fleet.ports.toList.findIdx? fun x => (decide (2 ≤ x.st) || (decide (x.st = 1) && decide (0 < x.lanes))) && decide (x.peer = dev)

/-- The device with fabric port p changed. -/
def modPortOf (p : Nat) (f : FPort → FPort) (d : Dev) : Dev :=
  { d with fleet := { d.fleet with ports := vset d.fleet.ports p (f (vget d.fleet.ports p {})) } }

/-- An access from or to a peer crosses the port that leads to it: how many flits it takes each way is free (R418, log 4). -/
def traffic (dev : Nat) (d : Dev) : Dev :=
  match portTo d dev with
  | none => d
  | some k =>
    let (x, d) := d.draw
    let (y, d) := d.draw
    modPortOf k (fun p => { p with txf := p.txf + BitVec.ofNat 64 x, rxf := p.rxf + BitVec.ofNat 64 y }) d

/-- A write leaves for a peer (R263). -/
def sendOut (o : PeerOut) (d : Dev) : Dev := traffic o.dev { d with peerOut := d.peerOut ++ [o] }

/-- The Gaffer reads bytes at a tenant's address in 4 KiB pieces, with fuel for them: those of a peer are free, and a frame that is read
is accessed (R263, R380, log 4). -/
def tgetBytes (ten : Nat) : Nat → Nat → Nat → Dev → Bytes × Dev
  | 0, _, _, d => ([], d)
  | k + 1, va, n, d =>
    if n = 0 then ([], d)
    else
      let m := min n (4096 - va % 4096)
      let (b, d) := match translate d 0 ten va with
        | .here loc _ _ => (((span loc m).map fun a => (byteIn gafferAgent d.mem a d.placed.reverse).getD (d.mem.get a)), touch d loc)
        | .peer dev .. => (traffic dev d).drawBytes m
        | _ => (toLe m 0, d)
      let (r, d) := tgetBytes ten k (va + m) (n - m) d
      (b ++ r, d)

/-- Bytes of the Gaffer go where a way leads: to memory, or to a peer (R263, R366). -/
def putWay (w : Way) (l : Bytes) (d : Dev) : Dev :=
  match w with
  | .here loc _ _ => placeBytes d gafferAgent loc l
  | .peer dev ten a _ _ =>
    sendOut { dev := dev, agent := gafferAgent, ten := ten, addr := a, n := l.length, data := some (l.map some) } d
  | _ => d

/-- The Gaffer writes a number at a tenant's address, if it leads to memory or to a peer. -/
def tput (d : Dev) (ten va n v : Nat) : Dev := putWay (translate d 0 ten va) (toLe n v) d
/-- The Gaffer writes bytes at a tenant's address, page by page, with fuel for the pages. -/
def tputPages (ten : Nat) : Nat → Dev → Nat → Bytes → Dev
  | 0, d, _, _ => d
  | k + 1, d, va, l =>
    if l.isEmpty then d
    else
      let n := 16384 - va % 16384
      tputPages ten k (putWay (translate d 0 ten va) (l.take n) d) (va + n) (l.drop n)

/-- The Gaffer writes bytes at a tenant's address. -/
def tputBytes (d : Dev) (ten va : Nat) (l : Bytes) : Dev := tputPages ten (l.length / 16384 + 2) d va l

end Sys2Proof.Machine
end

