-- ==== Sys2Proof/Machine/Operands.lean ====
section
/-! DEFINITION. Operands: the views, operand resolution, queue pops and pushes, guards, and the pending writes of results
(R63 to R73), as operations of a slot that is being executed. -/

namespace Sys2Proof.Machine

/-! ### Causes (R368) -/

/-- Cause codes of traps and action events (R368). -/
inductive Cause where
  | illegal | reservedMajor | wrongSlot | columnBound | viewRange | viewFormat | badSegment | endOfChain | badTarget
  | loopStack | loopCount | safeBusy | selfWait | regionOpen | breakpoint | software | watchpoint | singleStep | foreignWrite
  | permission | streamShape | overRead | stashMap | counterIndex | counterDenied | storeMiss | pageRefused
  | matrixConfig | matrixFault | ringBusy | engineConfig | beadConfig | beadState | beadParity
  | regionOverflow | regionBusy | regionState | regionConfig | regionCapacity | regionOp | chkMismatch | poison
  | l1Unc | diagDenied | parisonBusy | parisonCheck | endOfCode | portBusy | portEmpty | portOverrun | portMode | localRange
  deriving DecidableEq, Repr

/-- The code of a cause (R368). -/
def Cause.code : Cause → Nat
  | .illegal => 0x01 | .reservedMajor => 0x02 | .wrongSlot => 0x03 | .columnBound => 0x04 | .viewRange => 0x05
  | .viewFormat => 0x06 | .badSegment => 0x07 | .endOfChain => 0x08 | .badTarget => 0x09 | .loopStack => 0x0A
  | .loopCount => 0x0B | .safeBusy => 0x0C | .selfWait => 0x0D | .regionOpen => 0x0E | .breakpoint => 0x10
  | .software => 0x11 | .watchpoint => 0x12 | .singleStep => 0x13 | .foreignWrite => 0x14 | .permission => 0x20
  | .streamShape => 0x21 | .overRead => 0x22 | .stashMap => 0x23 | .counterIndex => 0x24 | .counterDenied => 0x25
  | .storeMiss => 0x26 | .pageRefused => 0x27 | .matrixConfig => 0x30 | .matrixFault => 0x31 | .ringBusy => 0x32
  | .engineConfig => 0x33 | .beadConfig => 0x38 | .beadState => 0x39 | .beadParity => 0x3A | .regionOverflow => 0x40
  | .regionBusy => 0x41 | .regionState => 0x42 | .regionConfig => 0x43 | .regionCapacity => 0x44 | .regionOp => 0x45
  | .chkMismatch => 0x46 | .poison => 0x47 | .l1Unc => 0x48 | .diagDenied => 0x49 | .parisonBusy => 0x50
  | .parisonCheck => 0x51 | .endOfCode => 0x58 | .portBusy => 0x59 | .portEmpty => 0x5A | .portOverrun => 0x5B
  | .portMode => 0x5C | .localRange => 0x5D

/-! ### Roles of slots and uses of operands -/

/-- The roles of R79 and R80. -/
inductive Role where
  | lead | branch | scale | work | matrix | bead
  deriving DecidableEq, Repr

/-- One operand of an instruction: its view (0 to 3), whether it is read, whether it is written, and how many further
elements of a run follow it (R430). -/
structure Use where
  view : Nat
  op : Opnd
  src : Bool
  dst : Bool
  run : Nat
  deriving DecidableEq, Repr

/-- The view operands of a core instruction, in the order D, A, B in which queue sources pop (R67, R68, R89, R138). -/
def uses : Instr → List Use
  | .jmp a _ => [⟨0, a, true, false, 0⟩]
  | .call d a _ => [⟨0, d, false, true, 0⟩, ⟨0, a, true, false, 0⟩]
  | .ret a _ => [⟨0, a, true, false, 0⟩]
  | .jtab d _ _ => [⟨0, d, false, true, 0⟩]
  | .loop a _ _ => [⟨0, a, true, false, 0⟩]
  | .mvi d _ => [⟨0, d, false, true, 0⟩]
  | .mvtc d _ => [⟨0, d, false, true, 0⟩]
  | .pfirst _ a _ => [⟨0, a, true, false, 0⟩]
  | .pfs _ a _ => [⟨0, a, true, false, 0⟩]
  | .spf d _ _ => [⟨0, d, false, true, 0⟩]
  | .stw a _ => [⟨0, a, true, false, 0⟩]
  | .str d _ => [⟨0, d, false, true, 0⟩]
  | .ceq _ a b _ => [⟨0, a, true, false, 0⟩, ⟨0, b, true, false, 0⟩]
  | .cne _ a b _ => [⟨0, a, true, false, 0⟩, ⟨0, b, true, false, 0⟩]
  | .clt _ a b _ => [⟨0, a, true, false, 0⟩, ⟨0, b, true, false, 0⟩]
  | .cle _ a b _ => [⟨0, a, true, false, 0⟩, ⟨0, b, true, false, 0⟩]
  | .cltu _ a b _ => [⟨0, a, true, false, 0⟩, ⟨0, b, true, false, 0⟩]
  | .cleu _ a b _ => [⟨0, a, true, false, 0⟩, ⟨0, b, true, false, 0⟩]
  | .ctst _ a b _ => [⟨0, a, true, false, 0⟩, ⟨0, b, true, false, 0⟩]
  | .add d a b _ => [⟨0, d, false, true, 0⟩, ⟨0, a, true, false, 0⟩, ⟨0, b, true, false, 0⟩]
  | .sub d a b _ => [⟨0, d, false, true, 0⟩, ⟨0, a, true, false, 0⟩, ⟨0, b, true, false, 0⟩]
  | .mul d a b _ => [⟨0, d, false, true, 0⟩, ⟨0, a, true, false, 0⟩, ⟨0, b, true, false, 0⟩]
  | .mulh d a b _ => [⟨0, d, false, true, 0⟩, ⟨0, a, true, false, 0⟩, ⟨0, b, true, false, 0⟩]
  | .mulhu d a b _ => [⟨0, d, false, true, 0⟩, ⟨0, a, true, false, 0⟩, ⟨0, b, true, false, 0⟩]
  | .and d a b _ => [⟨0, d, false, true, 0⟩, ⟨0, a, true, false, 0⟩, ⟨0, b, true, false, 0⟩]
  | .or d a b _ => [⟨0, d, false, true, 0⟩, ⟨0, a, true, false, 0⟩, ⟨0, b, true, false, 0⟩]
  | .xor d a b _ => [⟨0, d, false, true, 0⟩, ⟨0, a, true, false, 0⟩, ⟨0, b, true, false, 0⟩]
  | .andn d a b _ => [⟨0, d, false, true, 0⟩, ⟨0, a, true, false, 0⟩, ⟨0, b, true, false, 0⟩]
  | .shl d a b _ => [⟨0, d, false, true, 0⟩, ⟨0, a, true, false, 0⟩, ⟨0, b, true, false, 0⟩]
  | .shr d a b _ => [⟨0, d, false, true, 0⟩, ⟨0, a, true, false, 0⟩, ⟨0, b, true, false, 0⟩]
  | .sar d a b _ => [⟨0, d, false, true, 0⟩, ⟨0, a, true, false, 0⟩, ⟨0, b, true, false, 0⟩]
  | .min d a b _ => [⟨0, d, false, true, 0⟩, ⟨0, a, true, false, 0⟩, ⟨0, b, true, false, 0⟩]
  | .max d a b _ => [⟨0, d, false, true, 0⟩, ⟨0, a, true, false, 0⟩, ⟨0, b, true, false, 0⟩]
  | .minu d a b _ => [⟨0, d, false, true, 0⟩, ⟨0, a, true, false, 0⟩, ⟨0, b, true, false, 0⟩]
  | .maxu d a b _ => [⟨0, d, false, true, 0⟩, ⟨0, a, true, false, 0⟩, ⟨0, b, true, false, 0⟩]
  | .addi d a _ => [⟨0, d, false, true, 0⟩, ⟨0, a, true, false, 0⟩]
  | .andi d a _ => [⟨0, d, false, true, 0⟩, ⟨0, a, true, false, 0⟩]
  | .ori d a _ => [⟨0, d, false, true, 0⟩, ⟨0, a, true, false, 0⟩]
  | .shli d a _ => [⟨0, d, false, true, 0⟩, ⟨0, a, true, false, 0⟩]
  | .shri d a _ => [⟨0, d, false, true, 0⟩, ⟨0, a, true, false, 0⟩]
  | .sari d a _ => [⟨0, d, false, true, 0⟩, ⟨0, a, true, false, 0⟩]
  | .movi d _ => [⟨0, d, false, true, 0⟩]
  | .lui d _ _ => [⟨0, d, true, true, 0⟩]
  | .clz d a _ => [⟨0, d, false, true, 0⟩, ⟨0, a, true, false, 0⟩]
  | .popc d a _ => [⟨0, d, false, true, 0⟩, ⟨0, a, true, false, 0⟩]
  | .ctz d a _ => [⟨0, d, false, true, 0⟩, ⟨0, a, true, false, 0⟩]
  | .div d a b _ => [⟨0, d, false, true, 0⟩, ⟨0, a, true, false, 0⟩, ⟨0, b, true, false, 0⟩]
  | .divu d a b _ => [⟨0, d, false, true, 0⟩, ⟨0, a, true, false, 0⟩, ⟨0, b, true, false, 0⟩]
  | .rem d a b _ => [⟨0, d, false, true, 0⟩, ⟨0, a, true, false, 0⟩, ⟨0, b, true, false, 0⟩]
  | .remu d a b _ => [⟨0, d, false, true, 0⟩, ⟨0, a, true, false, 0⟩, ⟨0, b, true, false, 0⟩]
  | .setb _ a _ => [⟨0, a, true, false, 0⟩]
  | .setv _ a _ => [⟨0, a, true, false, 0⟩]
  | .rdsr d _ _ => [⟨0, d, false, true, 0⟩]
  | .wrsr a _ _ => [⟨0, a, true, false, 0⟩]
  | .ld _ _ a b => [⟨0, a, true, false, 0⟩, ⟨0, b, true, false, 0⟩]
  | .ldCnt _ _ a b => [⟨0, a, true, false, 0⟩, ⟨0, b, true, false, 0⟩]
  | .ldFe _ _ a b => [⟨0, a, true, false, 0⟩, ⟨0, b, true, false, 0⟩]
  | .ldFec _ _ a b => [⟨0, a, true, false, 0⟩, ⟨0, b, true, false, 0⟩]
  | .st _ a b => [⟨0, a, true, false, 0⟩, ⟨0, b, true, false, 0⟩]
  | .stCf _ a b => [⟨0, a, true, false, 0⟩, ⟨0, b, true, false, 0⟩]
  | .stFf _ a b => [⟨0, a, true, false, 0⟩, ⟨0, b, true, false, 0⟩]
  | .stFs _ a b => [⟨0, a, true, false, 0⟩, ⟨0, b, true, false, 0⟩]
  | .aswap d a _ _ _ => [⟨0, d, true, false, 0⟩, ⟨0, a, true, false, 0⟩]
  | .aadd d a _ _ _ => [⟨0, d, true, false, 0⟩, ⟨0, a, true, false, 0⟩]
  | .aand d a _ _ _ => [⟨0, d, true, false, 0⟩, ⟨0, a, true, false, 0⟩]
  | .aor d a _ _ _ => [⟨0, d, true, false, 0⟩, ⟨0, a, true, false, 0⟩]
  | .axor d a _ _ _ => [⟨0, d, true, false, 0⟩, ⟨0, a, true, false, 0⟩]
  | .amin d a _ _ _ => [⟨0, d, true, false, 0⟩, ⟨0, a, true, false, 0⟩]
  | .amax d a _ _ _ => [⟨0, d, true, false, 0⟩, ⟨0, a, true, false, 0⟩]
  | .aminu d a _ _ _ => [⟨0, d, true, false, 0⟩, ⟨0, a, true, false, 0⟩]
  | .amaxu d a _ _ _ => [⟨0, d, true, false, 0⟩, ⟨0, a, true, false, 0⟩]
  | .acas d a _ _ _ => [⟨0, d, true, false, 1⟩, ⟨0, a, true, false, 0⟩]
  | .mwaitNe _ a b _ => [⟨0, a, true, false, 0⟩, ⟨0, b, true, false, 0⟩]
  | .mwaitGeu _ a b _ => [⟨0, a, true, false, 0⟩, ⟨0, b, true, false, 0⟩]
  | .preq a b _ => [⟨0, a, true, false, 0⟩, ⟨0, b, true, false, 0⟩]
  | .smap _ a b _ => [⟨0, a, true, false, 0⟩, ⟨0, b, true, false, 0⟩]
  | .smape _ a b _ => [⟨0, a, true, false, 0⟩, ⟨0, b, true, false, 0⟩]
  | .cinc a b _ => [⟨1, a, true, false, 0⟩, ⟨0, b, true, false, 0⟩]
  | .csnap a _ => [⟨0, a, true, false, 0⟩]
  | .ldkS _ a => [⟨0, a, true, false, 0⟩]
  | .ldkH _ a => [⟨0, a, true, false, 0⟩]
  | .ldkt a => [⟨0, a, true, false, 0⟩]
  | .rkeep a => [⟨0, a, true, false, 0⟩]
  | .chk a b _ => [⟨0, a, true, false, 0⟩, ⟨0, b, true, false, 0⟩]
  | .chkv a b _ => [⟨1, a, true, false, 0⟩, ⟨1, b, true, false, 0⟩]
  | .binit a b _ => [⟨0, a, true, false, 0⟩, ⟨0, b, true, false, 0⟩]
  | .barr a b _ => [⟨0, a, true, false, 0⟩, ⟨0, b, true, false, 0⟩]
  | .bwait _ a b _ => [⟨0, a, true, false, 0⟩, ⟨0, b, true, false, 0⟩]
  | .ecopy _ a b _ => [⟨0, a, true, false, 0⟩, ⟨0, b, true, false, 0⟩]
  | .exform d a b _ => [⟨0, d, true, false, 0⟩, ⟨0, a, true, false, 0⟩, ⟨0, b, true, false, 0⟩]
  | .pld d a => [⟨0, d, false, true, 0⟩, ⟨0, a, true, false, 1⟩]
  | .pcur d _ => [⟨0, d, false, true, 0⟩]
  | .vadd _ d a b _ => [⟨1, d, false, true, 0⟩, ⟨1, a, true, false, 0⟩, ⟨1, b, true, false, 0⟩]
  | .vsub _ d a b _ => [⟨1, d, false, true, 0⟩, ⟨1, a, true, false, 0⟩, ⟨1, b, true, false, 0⟩]
  | .vadds _ d a b _ => [⟨1, d, false, true, 0⟩, ⟨1, a, true, false, 0⟩, ⟨1, b, true, false, 0⟩]
  | .vsubs _ d a b _ => [⟨1, d, false, true, 0⟩, ⟨1, a, true, false, 0⟩, ⟨1, b, true, false, 0⟩]
  | .vmul _ d a b _ => [⟨1, d, false, true, 0⟩, ⟨1, a, true, false, 0⟩, ⟨1, b, true, false, 0⟩]
  | .vmin _ d a b _ => [⟨1, d, false, true, 0⟩, ⟨1, a, true, false, 0⟩, ⟨1, b, true, false, 0⟩]
  | .vmax _ d a b _ => [⟨1, d, false, true, 0⟩, ⟨1, a, true, false, 0⟩, ⟨1, b, true, false, 0⟩]
  | .vand d a b _ => [⟨1, d, false, true, 0⟩, ⟨1, a, true, false, 0⟩, ⟨1, b, true, false, 0⟩]
  | .vor d a b _ => [⟨1, d, false, true, 0⟩, ⟨1, a, true, false, 0⟩, ⟨1, b, true, false, 0⟩]
  | .vxor d a b _ => [⟨1, d, false, true, 0⟩, ⟨1, a, true, false, 0⟩, ⟨1, b, true, false, 0⟩]
  | .vandn d a b _ => [⟨1, d, false, true, 0⟩, ⟨1, a, true, false, 0⟩, ⟨1, b, true, false, 0⟩]
  | .vshl _ d a b _ => [⟨1, d, false, true, 0⟩, ⟨1, a, true, false, 0⟩, ⟨1, b, true, false, 0⟩]
  | .vshr _ d a b _ => [⟨1, d, false, true, 0⟩, ⟨1, a, true, false, 0⟩, ⟨1, b, true, false, 0⟩]
  | .vsar _ d a b _ => [⟨1, d, false, true, 0⟩, ⟨1, a, true, false, 0⟩, ⟨1, b, true, false, 0⟩]
  | .vfadd _ d a b _ => [⟨1, d, false, true, 0⟩, ⟨1, a, true, false, 0⟩, ⟨1, b, true, false, 0⟩]
  | .vfsub _ d a b _ => [⟨1, d, false, true, 0⟩, ⟨1, a, true, false, 0⟩, ⟨1, b, true, false, 0⟩]
  | .vfmul _ d a b _ => [⟨1, d, false, true, 0⟩, ⟨1, a, true, false, 0⟩, ⟨1, b, true, false, 0⟩]
  | .vfma _ d a b _ => [⟨1, d, true, true, 0⟩, ⟨1, a, true, false, 0⟩, ⟨1, b, true, false, 0⟩]
  | .vfnms _ d a b _ => [⟨1, d, true, true, 0⟩, ⟨1, a, true, false, 0⟩, ⟨1, b, true, false, 0⟩]
  | .vfmin _ d a b _ => [⟨1, d, false, true, 0⟩, ⟨1, a, true, false, 0⟩, ⟨1, b, true, false, 0⟩]
  | .vfmax _ d a b _ => [⟨1, d, false, true, 0⟩, ⟨1, a, true, false, 0⟩, ⟨1, b, true, false, 0⟩]
  | .vrcp d a _ => [⟨1, d, false, true, 0⟩, ⟨1, a, true, false, 0⟩]
  | .vrsqrt d a _ => [⟨1, d, false, true, 0⟩, ⟨1, a, true, false, 0⟩]
  | .vexp2 d a _ => [⟨1, d, false, true, 0⟩, ⟨1, a, true, false, 0⟩]
  | .vlog2 d a _ => [⟨1, d, false, true, 0⟩, ⟨1, a, true, false, 0⟩]
  | .vfabsF64 d a _ => [⟨1, d, false, true, 0⟩, ⟨1, a, true, false, 0⟩]
  | .vfabsF32 d a _ => [⟨1, d, false, true, 0⟩, ⟨1, a, true, false, 0⟩]
  | .vfabsF16 d a _ => [⟨1, d, false, true, 0⟩, ⟨1, a, true, false, 0⟩]
  | .vfnegF64 d a _ => [⟨1, d, false, true, 0⟩, ⟨1, a, true, false, 0⟩]
  | .vfnegF32 d a _ => [⟨1, d, false, true, 0⟩, ⟨1, a, true, false, 0⟩]
  | .vfnegF16 d a _ => [⟨1, d, false, true, 0⟩, ⟨1, a, true, false, 0⟩]
  | .vcvt _ d a _ _ _ => [⟨1, d, false, true, 0⟩, ⟨1, a, true, false, 0⟩]
  | .vzqe d a b _ => [⟨1, d, false, true, 0⟩, ⟨1, a, true, false, 0⟩, ⟨0, b, true, false, 0⟩]
  | .vzqd d a b _ => [⟨1, d, false, true, 0⟩, ⟨1, a, true, false, 0⟩, ⟨0, b, true, false, 0⟩]
  | .vperm _ d a b _ => [⟨1, d, false, true, 0⟩, ⟨1, a, true, false, 0⟩, ⟨1, b, true, false, 0⟩]
  | .vbcast _ d a _ => [⟨1, d, false, true, 0⟩, ⟨0, a, true, false, 0⟩]
  | .vilo _ d a b _ => [⟨1, d, false, true, 0⟩, ⟨1, a, true, false, 0⟩, ⟨1, b, true, false, 0⟩]
  | .vihi _ d a b _ => [⟨1, d, false, true, 0⟩, ⟨1, a, true, false, 0⟩, ⟨1, b, true, false, 0⟩]
  | .vrsum _ d a _ => [⟨1, d, false, true, 0⟩, ⟨1, a, true, false, 0⟩]
  | .vrmax _ d a _ => [⟨1, d, false, true, 0⟩, ⟨1, a, true, false, 0⟩]
  | .vrmin _ d a _ => [⟨1, d, false, true, 0⟩, ⟨1, a, true, false, 0⟩]
  | .vcmp _ _ _ a b _ => [⟨1, a, true, false, 0⟩, ⟨1, b, true, false, 0⟩]
  | .vsel _ d a b => [⟨1, d, false, true, 0⟩, ⟨1, a, true, false, 0⟩, ⟨1, b, true, false, 0⟩]
  | .vpmask _ d _ _ => [⟨1, d, false, true, 0⟩]
  | .vpmsb _ _ a _ => [⟨1, a, true, false, 0⟩]
  | .vpnz _ _ a _ => [⟨1, a, true, false, 0⟩]
  | .mset _ a _ => [⟨0, a, true, false, 0⟩]
  | .mget d _ _ => [⟨0, d, false, true, 0⟩]
  | .mld a b => [⟨0, a, true, false, 0⟩, ⟨0, b, true, false, 0⟩]
  | .mgat _ a => [⟨0, a, true, false, 2⟩]
  | .epi a _ => [⟨0, a, true, false, 3⟩]
  | .bload _ b => [⟨0, b, true, false, 0⟩]
  | .bcap d _ => [⟨1, d, false, true, 0⟩]
  | .brank d _ _ => [⟨1, d, false, true, 0⟩]
  | .bstat d => [⟨0, d, false, true, 0⟩]
  | _ => []

/-- The slots that may carry an instruction (R80): by its major. -/
def roleOf (major : Nat) : Role :=
  if major = 0 then .lead else if major ≤ 3 then .branch else if major ≤ 0x0F then .lead else if major = 0x10 then .scale
  else if major ≤ 0x14 then .lead else if major ≤ 0x2F then .work else if major ≤ 0x31 then .matrix
  else if major = 0x32 then .work else .bead

/-- Whether slot i of a sequencer has a role (R79): even slots lead, odd slots work; the branch slot is its lowest lead
slot, the scale slot its highest, the matrix slot its lowest work slot, the bead slot its highest. -/
def hasRole (s : Seq) (i : Nat) : Role → Bool
  | .lead => i % 2 = 0
  | .work => i % 2 = 1
  | .branch => i = 2 * s.col0
  | .scale => i = 2 * (s.col0 + s.ncols - 1)
  | .matrix => i = 2 * s.col0 + 1
  | .bead => i = 2 * (s.col0 + s.ncols - 1) + 1

/-! ### Views and operand resolution -/

/-- BASE of a view in bytes (R64). -/
def viewBase (v : Word) : Nat := bits v.toNat 0 8 * 256
/-- Element bytes of a view (R64). -/
def viewSize (v : Word) : Nat := 2 ^ (bits v.toNat 8 4 + 3)
/-- COUNT of a view (R64). -/
def viewCount (v : Word) : Nat := bits v.toNat 16 14

/-- Where an operand lies: a queue pair, or an element's first byte and size. -/
inductive OpLoc where
  | queue (c : Nat)
  | elem (addr size : Nat)
  deriving DecidableEq, Repr

/-- Resolution of an operand in a slot of column c, with j further elements for runs (R67, R430). -/
def resolveOp (s : Seq) (c view : Nat) (o : Opnd) (j : Nat) : Except Cause OpLoc :=
  let w := vget s.regs.views view 0
  match o with
  | .queue q => if s.owns q then .ok (.queue q) else .error .columnBound
  | .elem n =>
    if n.val + j < viewCount w then .ok (.elem (viewBase w + (n.val + j) * viewSize w) (viewSize w)) else .error .viewRange
  | .rot odd n =>
    let p := viewCount w / s.ncols
    if p = 0 then .error .viewRange
    else
      let b := vget s.regs.bases (2 * c + odd.toNat) 0
      let e := (c - s.col0) * p + (n.val + b.toNat) % p
      .ok (.elem (viewBase w + e * viewSize w) (viewSize w))

/-- Every operand of an instruction resolves (R84, step 2); of several that fail the first of D, A, B gives the cause (the model's choice,
log 82). -/
def checkUses (s : Seq) (c : Nat) (us : List Use) : Except Cause Unit :=
  us.forM fun u => (List.range (u.run + 1)).forM fun j => (resolveOp s c u.view u.op j).map fun _ => ()

/-- Queues that an instruction pops, in order (R68). -/
def popsOf (i : Instr) : List Nat := (uses i).filterMap fun u => match u.op with | .queue q => if u.src then some q.val else none | _ => none
/-- Queues that an instruction pushes. -/
def pushesOf (i : Instr) : List Nat := (uses i).filterMap fun u => match u.op with | .queue q => if u.dst then some q.val else none | _ => none

/-! ### A slot in execution -/

/-- Why a bundle takes no effect: a precise trap, a hold at issue with what it waits on, or a rollback event (R240) with
its rlc cause and whether an injection fired in it (R245). -/
inductive Abort where
  | trap (t : TrapInfo)
  | stall (wait : Option (Nat × Nat × Nat))
  /-- held with what a pld has read so far (R338): the device that stays -/
  | more (d : Dev)
  /-- held until the segment at an address is expanded (R78) -/
  | expand (seg : Nat)
  | event (kind : Nat) (t : TrapInfo) (fired : Bool)
  deriving DecidableEq, Repr

/-- The device and the bundle in progress, as a slot sees them, and the device before the bundle. -/
structure Slot where
  dev : Dev
  iss : Issue
  base : Dev := {}
  deriving DecidableEq, Repr

/-- An operation of a slot: it may read and change the device and the bundle, or end the bundle. -/
abbrev SlotM := StateT Slot (Except Abort)

namespace Op

/-- Ends the bundle with an abort. -/
def abort {α : Type} (a : Abort) : SlotM α := fun _ => .error a
/-- The number of the slot in execution. -/
def slotNo : SlotM Nat := do return ((← get).iss.rest.headD (0, 0)).1
/-- The word of the slot in execution. -/
def word : SlotM Nat := do return ((← get).iss.rest.headD (0, 0)).2
/-- The sequencer's number. -/
def sqid : SlotM Nat := do return (← get).iss.q
/-- The sequencer. -/
def me : SlotM Seq := do let x ← get; return x.dev.seq x.iss.q
/-- The device. -/
def dev : SlotM Dev := do return (← get).dev
/-- Changes the device. -/
def modDev (f : Dev → Dev) : SlotM Unit := modify fun x => { x with dev := f x.dev }
/-- Changes the sequencer. -/
def modMe (f : Seq → Seq) : SlotM Unit := modify fun x => { x with dev := x.dev.modSeq x.iss.q f }
/-- Changes the bundle in progress. -/
def modIss (f : Issue → Issue) : SlotM Unit := modify fun x => { x with iss := f x.iss }
/-- A precise trap of the slot, with its record content (R84, R385). -/
def trap {α : Type} (c : Cause) (cont : List Nat := []) : SlotM α := do
  let i ← slotNo
  abort (.trap { cause := c.code, slot := i, cont := cont })
/-- A trap unless a condition holds. -/
def check (ok : Bool) (c : Cause) (cont : List Nat := []) : SlotM Unit := if ok then pure () else trap c cont
/-- The illegal-instruction trap: its record holds the slot word (R110). -/
def illegal {α : Type} : SlotM α := do trap .illegal [← word]
/-- Holds the bundle. -/
def stall {α : Type} : SlotM α := abort (.stall none)
/-- Holds the bundle unless a condition holds. -/
def holdUnless (ok : Bool) : SlotM Unit := if ok then pure () else stall

/-- The guard of the slot: p(8 + i), or all lanes when M = 0 (R70). -/
def guard (m : Bool) : SlotM Word := do
  if m then return (← me).pred (8 + (← slotNo)) else return BitVec.allOnes 64

/-- Whether a guarded instruction as a whole is enabled (R70). -/
def enabled (m : Bool) : SlotM Bool := do return (← guard m).getLsbD 0

/-- Adds a pending write that lands n bundles after this one (R71). -/
def pend (t : Tgt) (n : Nat) (data : BitVec 256) (en : BitVec 32) (flags : BitVec 6 := 0) (keep : Word := 0) : SlotM Unit :=
  modMe fun s => { s with pend := s.pend ++ [{ tgt := t, data := data, en := en, flags := flags, rdly := n, keep := keep }] }

/-- A predicate write under a lane mask: the mask travels in data bits 127:64 (log 15); p0 ignores it (R69). -/
def putPred (n : Nat) (lat : Nat) (v mask : Word) (flags : BitVec 6 := 0) : SlotM Unit :=
  pend (.pred n) lat ((mask ++ v).setWidth 256) 0xFFFF#32 flags

/-- Pops one load-data entry (R68): an empty queue holds the bundle, a marked entry traps or starts a rollback, and the
entry of a .res stream writes its predicate (R118, R125, R240). A slot that writes one predicate twice, by the entries that it pops and by its
own result, leaves what it writes last: entries of D, A, B in turn, then the result (the model's choice, log 82). -/
def pop (q : Nat) : SlotM (BitVec 256) := do
  let s ← me
  match (s.col q).ldq with
  | [] => stall
  | e :: l =>
    match e.overRead with
    | some a => trap .overRead [a]
    | none =>
      let i ← slotNo
      -- an L1 error also poisons what is written back, so its mark is the one that was found first (R243)
      match e.l1unc with
      | some a => abort (.event 3 { cause := Cause.l1Unc.code, slot := i, cont := [i, a] } false)
      | none =>
        match e.poison with
        | some a => abort (.event 2 { cause := Cause.poison.code, slot := i, cont := [i, a] } false)
        | none =>
          modMe fun s => s.modCol q fun c => { c with ldq := l }
          if e.rp ≠ 0 then
            let v : Word := if e.pk then e.res.setWidth 64 else if e.res.getLsbD 0 then BitVec.allOnes 64 else 0
            putPred e.rp 1 v (BitVec.allOnes 64)
          return e.data

/-- Reserves a store-data entry; a full queue holds the bundle (R68, R114). -/
def reserve (q : Nat) : SlotM Nat := do
  let s ← me
  let c := s.col q
  if 64 ≤ c.sdq.length then stall
  else
    modMe fun s => s.modCol q fun c => { c with sdq := c.sdq ++ [{ idx := c.sdRes }], sdRes := c.sdRes + 1 }
    return c.sdRes

/-- Where an operand of the slot lies (R67). -/
def locate (view : Nat) (o : Opnd) (j : Nat := 0) : SlotM OpLoc := do
  let i ← slotNo
  match resolveOp (← me) (i / 2) view o j with
  | .ok l => return l
  | .error c => trap c

/-- Reads a scalar: element of w0, or the low 8 bytes of a popped entry (R113, R138). -/
def rdS (o : Opnd) : SlotM Word := do
  match ← locate 0 o with
  | .queue q => return (← pop q).setWidth 64
  | .elem a _ => return BitVec.ofNat 64 ((← me).spaceNum a 8)

/-- Reads scalar j of a run (R430). -/
def rdRun (o : Opnd) (j : Nat) : SlotM Word := do
  match ← locate 0 o j with
  | .queue q => return (← pop q).setWidth 64
  | .elem a _ => return BitVec.ofNat 64 ((← me).spaceNum a 8)

/-- Reads a vector element: element of w1, or a whole popped entry. -/
def rdV (o : Opnd) : SlotM (BitVec 256) := do
  match ← locate 1 o with
  | .queue q => pop q
  | .elem a _ => return BitVec.ofNat 256 ((← me).spaceNum a 32)

/-- Where a result goes, resolved and reserved at issue (R67, R68). -/
def target (view : Nat) (o : Opnd) : SlotM Tgt := do
  match ← locate view o with
  | .queue q => return .storeData q (← reserve q)
  | .elem a _ => return .reg a

/-- Writes a result with its byte enables; a squashed register result writes nothing, a squashed push still lands with
no byte enabled (R70). -/
def put (t : Tgt) (lat : Nat) (v : BitVec 256) (en : BitVec 32) (flags : BitVec 6 := 0) (keep : Word := 0) : SlotM Unit :=
  match t with
  | .storeData .. => pend t lat v en flags
  | _ => if en = 0 && flags = 0 then pure () else pend t lat v en flags keep

/-- Writes a scalar result: 8 bytes of a register element, or an entry whose bytes 31:8 are zero and all enabled (R113). -/
def putS (t : Tgt) (lat : Nat) (v : Word) (on : Bool) : SlotM Unit :=
  match t with
  | .storeData .. => put t lat (v.setWidth 256) (if on then BitVec.allOnes 32 else 0)
  | _ => put t lat (v.setWidth 256) (if on then 0xFF#32 else 0)

end Op

end Sys2Proof.Machine
end

