-- ==== Sys2Proof/Machine/Flags.lean ====
section
/-! DEFINITION. Status flags (R44, R45): IS, NX, UF, OF, DZ and NV as the six low bits of fstat, and how a set of flags is
formed. -/

namespace Sys2Proof.Machine

/-- Invalid (R40, R44). -/
def flagNV : BitVec 6 := 0x01#6
/-- Division by zero (R44). -/
def flagDZ : BitVec 6 := 0x02#6
/-- Overflow (R44). -/
def flagOF : BitVec 6 := 0x04#6
/-- Underflow (R44). -/
def flagUF : BitVec 6 := 0x08#6
/-- Inexact (R44). -/
def flagNX : BitVec 6 := 0x10#6
/-- Integer saturation (R44). -/
def flagIS : BitVec 6 := 0x20#6

/-- A flag when a condition holds. -/
def flagIf (c : Bool) (f : BitVec 6) : BitVec 6 := if c then f else 0

/-- The flags of all lanes together (R45). -/
def flagsOr (l : List (BitVec 6)) : BitVec 6 := l.foldl (· ||| ·) 0

/-- fstat with flags that land in this bundle ORed in (R45). -/
def landFlags (fstat : Word) (f : BitVec 6) : Word := fstat ||| f.setWidth 64

/-- What fstat keeps of a value written to it (R44). -/
def fstatOf (v : Word) : Word := v &&& 0x3F#64
/-- What fctl keeps of a value written to it (R43). -/
def fctlOf (v : Word) : Word := v &&& 0x7#64
/-- Rounding mode of fctl (R43). -/
def rmOf (fctl : Word) : Nat := bits fctl.toNat 0 2
/-- SAT of fctl (R43). -/
def satOf (fctl : Word) : Bool := fctl.getLsbD 2

end Sys2Proof.Machine
end

