-- ==== Sys2Proof/Machine/Num.lean ====
section
/-! DEFINITION. Number formats and arithmetic (R35 to R62): decoding a format's bits to an exact number, exact operations,
and one rounding with its flags. -/

namespace Sys2Proof.Machine

/-! ### Formats -/

/-- A floating-point format (R38): exponent bits, mantissa bits, bias; special 0 has infinity and NaN, 1 is E4M3 with one
NaN and no infinity, 2 has neither. -/
structure FloatFmt where
  ebits : Nat
  mbits : Nat
  bias : Nat
  special : Nat
  deriving DecidableEq, Repr

/-- The parameters of a format (R38); integer formats have none. -/
def floatFmt : Fmt → Option FloatFmt
  | .f64 => some ⟨11, 52, 1023, 0⟩
  | .f32 => some ⟨8, 23, 127, 0⟩
  | .bf16 => some ⟨8, 7, 127, 0⟩
  | .f16 => some ⟨5, 10, 15, 0⟩
  | .e4m3 => some ⟨4, 3, 7, 1⟩
  | .e5m2 => some ⟨5, 2, 15, 0⟩
  | .e3m2 => some ⟨3, 2, 3, 2⟩
  | .e2m3 => some ⟨2, 3, 1, 2⟩
  | .i8 | .u8 | .i4 | .zq4 | .i16 | .i32 | .i64 => none

/-- Range of an integer format (R36). -/
def intRange : Fmt → Option (Int × Int)
  | .i4 => some (-8, 7)
  | .i8 => some (-128, 127)
  | .u8 => some (0, 255)
  | .i16 => some (-2 ^ 15, 2 ^ 15 - 1)
  | .i32 => some (-2 ^ 31, 2 ^ 31 - 1)
  | .i64 => some (-2 ^ 63, 2 ^ 63 - 1)
  | .f64 | .f32 | .bf16 | .f16 | .e4m3 | .e5m2 | .e3m2 | .e2m3 | .zq4 => none

/-- Largest finite value of a format: mantissa and exponent of its last bit (R38). -/
def FloatFmt.largest (f : FloatFmt) : Nat × Int :=
  if f.special = 0 then (2 ^ (f.mbits + 1) - 1, (2 ^ f.ebits - 2 : Nat) - (f.bias : Int) - f.mbits)
  else if f.special = 1 then (2 ^ (f.mbits + 1) - 2, (2 ^ f.ebits - 1 : Nat) - (f.bias : Int) - f.mbits)
  else (2 ^ (f.mbits + 1) - 1, (2 ^ f.ebits - 1 : Nat) - (f.bias : Int) - f.mbits)

/-- Bits of the largest finite value, without sign (R38). -/
def FloatFmt.largestBits (f : FloatFmt) : Nat :=
  if f.special = 0 then (2 ^ f.ebits - 2) * 2 ^ f.mbits + (2 ^ f.mbits - 1)
  else if f.special = 1 then (2 ^ f.ebits - 1) * 2 ^ f.mbits + (2 ^ f.mbits - 2)
  else (2 ^ f.ebits - 1) * 2 ^ f.mbits + (2 ^ f.mbits - 1)

/-- The canonical NaN (R40); the FP6 formats give +0 (R46). -/
def FloatFmt.nanBits (f : FloatFmt) : Nat :=
  if f.special = 0 then (2 ^ f.ebits - 1) * 2 ^ f.mbits + 2 ^ (f.mbits - 1)
  else if f.special = 1 then (2 ^ f.ebits - 1) * 2 ^ f.mbits + (2 ^ f.mbits - 1)
  else 0

/-- The infinity of a format with infinity, without sign. -/
def FloatFmt.infBits (f : FloatFmt) : Nat := (2 ^ f.ebits - 1) * 2 ^ f.mbits

/-- The sign bit in place. -/
def FloatFmt.signed (f : FloatFmt) (neg : Bool) (b : Nat) : Nat := if neg then b + 2 ^ (f.ebits + f.mbits) else b

/-- The number that bits of a floating-point format encode (R38, R39); a NaN is invalid when it is signalling (R40). -/
def FloatFmt.decode (f : FloatFmt) (b : Nat) : Num :=
  let m := bits b 0 f.mbits
  let e := bits b f.mbits f.ebits
  let s := bit b (f.ebits + f.mbits)
  if f.special = 0 && e = 2 ^ f.ebits - 1 then (if m = 0 then .inf s else .nan (!bit m (f.mbits - 1)))
  else if f.special = 1 && e = 2 ^ f.ebits - 1 && m = 2 ^ f.mbits - 1 then .nan false
  else if e = 0 then .fin s m (1 - (f.bias : Int) - f.mbits)
  else .fin s (2 ^ f.mbits + m) ((e : Int) - f.bias - f.mbits)

/-- The number of an integer (R36). -/
def Num.ofInt (v : Int) : Num := .fin (decide (v < 0)) v.natAbs 0

/-- The integer that bits of an integer format hold (R36). -/
def intOf (f : Fmt) (b : Nat) : Int :=
  match f with
  | .u8 => (b % 256 : Nat)
  | f => sx f.laneBits b

/-- The number that bits of a lane format encode, ZQ4 apart (R36, R38). -/
def numOf (f : Fmt) (b : Nat) : Num :=
  match floatFmt f with
  | some g => g.decode b
  | none => Num.ofInt (intOf f b)

/-! ### Exact operations -/

/-- Negation. -/
def Num.neg : Num → Num
  | .nan i => .nan i
  | .inf s => .inf (!s)
  | .fin s m e => .fin (!s) m e

/-- The signed integer of a finite number scaled to exponent k, where k is no higher than its own. -/
def scaled (s : Bool) (m : Nat) (e k : Int) : Int :=
  let v : Nat := m * 2 ^ (e - k).toNat
  if s then -(v : Int) else v

/-- The exact sum (R40, R42, R57): `down` says that the rounding mode is 2, which gives an exact zero its sign. -/
def Num.add (down : Bool) : Num → Num → Num
  | .nan i, .nan j => .nan (i || j)
  | .nan i, _ => .nan i
  | _, .nan j => .nan j
  | .inf s, .inf t => if s = t then .inf s else .nan true
  | .inf s, .fin .. => .inf s
  | .fin .., .inf t => .inf t
  | .fin s m e, .fin t n f =>
    if m = 0 && n = 0 then .fin (if s = t then s else down) 0 0
    else
      let k := if e ≤ f then e else f
      let v := scaled s m e k + scaled t n f k
      if v = 0 then .fin down 0 0 else .fin (decide (v < 0)) v.natAbs k

/-- The exact product (R40). -/
def Num.mul : Num → Num → Num
  | .nan i, .nan j => .nan (i || j)
  | .nan i, _ => .nan i
  | _, .nan j => .nan j
  | .inf s, .inf t => .inf (s != t)
  | .inf s, .fin t n _ => if n = 0 then .nan true else .inf (s != t)
  | .fin s m _, .inf t => if m = 0 then .nan true else .inf (s != t)
  | .fin s m e, .fin t n f => .fin (s != t) (m * n) (e + f)

/-- Comparison of two numbers that are no NaN: their order, with both zeros equal. -/
def Num.cmp : Num → Num → Ordering
  | .inf s, .inf t => if s = t then .eq else if s then .lt else .gt
  | .inf s, _ => if s then .lt else .gt
  | _, .inf t => if t then .gt else .lt
  | .fin s m e, .fin t n f =>
    let k := if e ≤ f then e else f
    compare (scaled s m e k) (scaled t n f k)
  | _, _ => .eq

/-- Whether a number is a NaN. -/
def Num.isNan : Num → Bool
  | .nan _ => true
  | _ => false
/-- Whether making a NaN was invalid. -/
def Num.invalid : Num → Bool
  | .nan i => i
  | _ => false
/-- Whether a number is a zero. -/
def Num.isZero : Num → Bool
  | .fin _ m _ => decide (m = 0)
  | _ => false
/-- The sign of a number. -/
def Num.isNeg : Num → Bool
  | .nan _ => false
  | .inf s => s
  | .fin s _ _ => s

/-- The sum of a K-group as it starts: adding −0 changes nothing (R57). -/
def Num.start : Num := .fin true 0 0

/-- The exact sum of a K-group (R57). -/
def groupSum (l : List Num) : Num := l.foldl (Num.add false) Num.start

/-! ### Rounding -/

/-- Number of bits of a number. -/
def bitLen (n : Nat) : Nat := if n = 0 then 0 else Nat.log2 n + 1

/-- m 2^e, with `sticky` telling of a rest below its last bit, cut at exponent q: quotient, and the rest against one half:
0 none, 1 below, 2 half, 3 above. -/
def cutAt (m : Nat) (e : Int) (sticky : Bool) (q : Int) : Nat × Nat :=
  if q ≤ e then (m * 2 ^ (e - q).toNat, if sticky then 1 else 0)
  else
    let s := (q - e).toNat
    if bitLen m + 2 < s then (0, if m = 0 && !sticky then 0 else 1)
    else
      let r := m % 2 ^ s
      let h := 2 ^ (s - 1)
      (m / 2 ^ s, if r = 0 then (if sticky then 1 else 0) else if r < h then 1 else if r = h then (if sticky then 3 else 2) else 3)

/-- Whether a magnitude is rounded up (R42). -/
def roundsUp (mode : Nat) (neg : Bool) (n rest : Nat) : Bool :=
  match mode with
  | 0 => decide (rest = 3) || (decide (rest = 2) && n % 2 = 1)
  | 1 => false
  | 2 => decide (rest ≠ 0) && neg
  | _ => decide (rest ≠ 0) && !neg

/-- What an overflow gives (R46). -/
def FloatFmt.overflow (f : FloatFmt) (mode : Nat) (sat neg : Bool) : Nat :=
  if sat || f.special = 2 then f.signed neg f.largestBits
  else if f.special = 1 then f.nanBits
  else
    let stays := decide (mode = 1) || (decide (mode = 2) && !neg) || (decide (mode = 3) && neg)
    f.signed neg (if stays then f.largestBits else f.infBits)

/-- Rounds (-1)^neg m 2^e (with a rest when sticky) once (R42, R44, R46). -/
def FloatFmt.roundFin (f : FloatFmt) (mode : Nat) (sat neg : Bool) (m : Nat) (e : Int) (sticky : Bool) : Nat × BitVec 6 :=
  if m = 0 then (f.signed neg 0, 0)
  else
    let top : Int := (bitLen m : Int) - 1 + e
    let emin : Int := 1 - (f.bias : Int)
    let (lm, le) := f.largest
    if le + f.mbits + 1 < top then (f.overflow mode sat neg, flagOF ||| flagNX)
    else
      let qu : Int := top - f.mbits
      let q : Int := if qu < emin - f.mbits then emin - f.mbits else qu
      let (n, rest) := cutAt m e sticky q
      let n := if roundsUp mode neg n rest then n + 1 else n
      let (nu, ru) := cutAt m e sticky qu
      let nu := if roundsUp mode neg nu ru then nu + 1 else nu
      let tiny := decide ((bitLen nu : Int) - 1 + qu < emin)
      let inexact := decide (rest ≠ 0)
      let beyond := decide (le ≤ q) && decide (lm < n * 2 ^ (q - le).toNat)
      if beyond then (f.overflow mode sat neg, flagOF ||| flagNX)
      else
        let fl := flagIf inexact flagNX ||| flagIf (inexact && tiny) flagUF
        if n < 2 ^ f.mbits then (f.signed neg n, fl)
        else if n < 2 ^ (f.mbits + 1) then
          (f.signed neg ((q + f.mbits + f.bias).toNat * 2 ^ f.mbits + (n - 2 ^ f.mbits)), fl)
        else (f.signed neg ((q + 1 + f.mbits + f.bias).toNat * 2 ^ f.mbits), fl)

/-- Rounds a number to a floating-point format once, with its flags (R40, R42, R44, R46). -/
def FloatFmt.round (f : FloatFmt) (mode : Nat) (sat : Bool) (x : Num) (sticky : Bool := false) : Nat × BitVec 6 :=
  match x with
  | .nan i => (f.nanBits, flagIf (i || f.special = 2) flagNV)
  | .inf s =>
    if sat || f.special = 2 then (f.signed s f.largestBits, flagOF)
    else if f.special = 1 then (f.nanBits, flagOF)
    else (f.signed s f.infBits, 0)
  | .fin s m e => f.roundFin mode sat s m e sticky

/-- The result of an arithmetic operation rounded to its format (R143): an exact infinite result stays, saturation clamps
only overflow. -/
def FloatFmt.arith (f : FloatFmt) (mode : Nat) (sat : Bool) (x : Num) (sticky : Bool := false) : Nat × BitVec 6 :=
  match x with
  | .inf s => (f.signed s f.infBits, 0)
  | x => f.round mode sat x sticky

/-- A number rounded to an integer (R42). -/
def roundInt (mode : Nat) (neg : Bool) (m : Nat) (e : Int) : Int × Bool :=
  let (n, rest) := cutAt m e false 0
  let n : Nat := if roundsUp mode neg n rest then n + 1 else n
  (if neg then -(n : Int) else n, decide (rest ≠ 0))

/-- An integer clamped to a range, and whether that changed it. -/
def clampInt (lo hi v : Int) : Int × Bool := if v < lo then (lo, true) else if hi < v then (hi, true) else (v, false)

/-- Conversion of a number to an integer format with saturation (R47); inexact results set NX. -/
def toIntFmt (f : Fmt) (mode : Nat) (x : Num) : Nat × BitVec 6 :=
  let (lo, hi) := (intRange f).getD (0, 0)
  let w := f.laneBits
  match x with
  | .nan _ => (0, flagNV)
  | .inf s => (wrap w (if s then lo else hi), flagIS)
  | .fin s m e =>
    let (v, nx) := roundInt mode s m e
    let (c, is) := clampInt lo hi v
    (wrap w c, flagIf is flagIS ||| flagIf nx flagNX)

/-- Conversion of an integer to an integer format (R48). -/
def intToInt (f : Fmt) (sat : Bool) (v : Int) : Nat × BitVec 6 :=
  if sat then
    let (lo, hi) := (intRange f).getD (0, 0)
    let (c, is) := clampInt lo hi v
    (wrap f.laneBits c, flagIf is flagIS)
  else (wrap f.laneBits v, 0)

/-- Lane width of a format in a vector element (R35). -/
def laneW (f : Fmt) : Nat := f.laneBits

/-- Whether a conversion between floating-point formats widens, and so is exact for infinities too (R46, R145). Formats of
one width follow the narrowing table (log 70). -/
def widens (dst src : Fmt) : Bool := (floatFmt dst).isSome && (floatFmt src).isSome && decide (laneW src < laneW dst)

/-- Conversion of a number of a source format to any format but ZQ4 (R46 to R48); the number of a ZQ4 element is any
number (R53). -/
def convert (dst src : Fmt) (mode : Nat) (sat : Bool) (x : Num) : Nat × BitVec 6 :=
  match floatFmt dst with
  | some g => g.round mode (sat && !widens dst src) x
  | none =>
    match (intRange src).isSome, x with
    | true, .fin s m _ => intToInt dst sat (if s then -(m : Int) else m)
    | _, x => toIntFmt dst mode x

/-! ### Reciprocals, exponential, logarithm (R59) -/

/-- The largest r below 2^k with r^2 ≤ n: bit by bit from the top. -/
def isqrtBits (n : Nat) : Nat → Nat → Nat
  | 0, r => r
  | k + 1, r => isqrtBits n k (if (r + 2 ^ k) ^ 2 ≤ n then r + 2 ^ k else r)

/-- The integer square root. -/
def isqrt (n : Nat) : Nat := isqrtBits n (bitLen n / 2 + 1) 0

/-- 1 / x for a finite x that is no zero, with its rest. -/
def rcpFin (s : Bool) (m : Nat) (e : Int) : Num × Bool :=
  let k := bitLen m + 200
  (.fin s (2 ^ k / m) (-(k : Int) - e), decide (2 ^ k % m ≠ 0))

/-- 1 / √x for a finite x above zero, with its rest. -/
def rsqrtFin (m : Nat) (e : Int) : Num × Bool :=
  let odd := decide (e % 2 ≠ 0)
  let m' := if odd then 2 * m else m
  let e' := if odd then e - 1 else e
  let k := bitLen m' + 200
  let r := isqrt (2 ^ (2 * k) / m')
  (.fin false r (-(k : Int) - e' / 2), decide (r * r * m' ≠ 2 ^ (2 * k)))

/-- Fixed-point bits of the exponential and the logarithm. -/
def fix : Nat := 420

/-- Σ num^(2k+1) / (den^(2k+1) (2k+1)) in fixed point, as atanh (num / den): fuel, k, the power so far. -/
def atanhSeries (num den : Nat) : Nat → Nat → Nat → Nat
  | 0, _, _ => 0
  | n + 1, k, p => p / (2 * k + 1) + atanhSeries num den n (k + 1) (p * (num * num) / (den * den))

/-- ln 2 in fixed point: 2 atanh (1/3). -/
def ln2Fix : Nat := 2 * atanhSeries 1 3 140 0 (2 ^ fix / 3)

/-- Σ t^k / k! in fixed point: fuel, k, the term so far. -/
def expSeries (t : Nat) : Nat → Nat → Nat → Nat
  | 0, _, _ => 0
  | n + 1, k, p => p + expSeries t n (k + 1) (p * t / 2 ^ fix / (k + 1))

/-- Rounds a value that lies within 2^-392 of a fixed-point number v, exponent x: where the ends of that interval do not
round alike, the free value chooses (log 12). -/
def roundNear (f : FloatFmt) (mode : Nat) (sat neg : Bool) (v : Nat) (x : Int) (op arg : Nat) : Nat × BitVec 6 :=
  let lo := f.roundFin mode sat neg (v - 2 ^ 28) (x - fix) true
  let hi := f.roundFin mode sat neg (v + 2 ^ 28) (x - fix) true
  if lo = hi then lo else if Config.freeRound op arg mode then hi else lo

/-- 2^x of a finite number, rounded once (R59): exact for an integer x. -/
def exp2Fin (f : FloatFmt) (mode : Nat) (sat : Bool) (arg : Nat) (s : Bool) (m : Nat) (e : Int) : Nat × BitVec 6 :=
  if m ≠ 0 && (40 : Int) < (bitLen m : Int) + e then
    -- |x| ≥ 2^40: the result is beyond every format
    f.roundFin mode sat false 1 (if s then -2 ^ 40 else 2 ^ 40) true
  else
    let v : Int := if 0 ≤ e then scaled s m e 0 else (if s then -(m : Int) else m)
    let d : Nat := if 0 ≤ e then 0 else (-e).toNat
    let n := v / (2 ^ d : Nat)
    let r := (v % (2 ^ d : Nat)).toNat
    if r = 0 then f.roundFin mode sat false 1 n false
    else
      let t := r * ln2Fix / 2 ^ d
      roundNear f mode sat false (expSeries t 110 0 (2 ^ fix)) n 0 arg

/-- log2 x of a finite x above zero, rounded once (R59): exact for a power of two. -/
def log2Fin (f : FloatFmt) (mode arg : Nat) (m : Nat) (e : Int) : Nat × BitVec 6 :=
  let l := bitLen m - 1
  let n : Int := l + e
  if m = 2 ^ l then f.round mode false (if n = 0 then .fin false 0 0 else Num.ofInt n)
  else
    let z := m - 2 ^ l
    let w := m + 2 ^ l
    let y : Nat := 2 * atanhSeries z w 140 0 (2 ^ fix * z / w) * 2 ^ fix / ln2Fix
    let v : Int := n * (2 ^ fix : Nat) + y
    roundNear f mode false (decide (v < 0)) v.natAbs 0 1 arg

/-! ### ZQ4 (R49 to R53) -/

/-- The decode of a code by TYPE: sign, mantissa, exponent (R51). -/
def zqCode (ty c : Nat) : Bool × Nat × Int :=
  match ty with
  | 0 => (decide (8 ≤ c), if 8 ≤ c then 16 - c else c, 0)
  | 1 => (bit c 3, [0, 1, 2, 3, 4, 6, 8, 12].getD (c % 8) 0, -1)
  | 2 => (bit c 3, if c % 8 = 0 then 0 else 1, (c % 8 : Nat) - (4 : Int))
  | _ => (bit c 3, [0, 1, 2, 3, 4, 8, 16, 32].getD (c % 8) 0, 0)

/-- Entry i of a scale table (R53). -/
def tableEntry (table : Nat) (i : Nat) : Num := FloatFmt.decode ⟨8, 7, 127, 0⟩ (bits table (16 * i) 16)

/-- The value of a ZQ4 element from its shift byte, scale byte and code (R50 to R52). -/
def zqValue (table shift sb code : Nat) : Num :=
  if sx 8 shift = -128 then .fin false 0 0
  else if bits sb 0 2 ≠ 0 then .nan false
  else
    let (s, m, e) := zqCode (bits sb 6 2) (code % 16)
    match tableEntry table (bits sb 2 4) with
    | .nan i => .nan i
    | .inf t => if m = 0 then .nan true else .inf (s != t)
    | .fin t n f => if m = 0 || n = 0 then (if m = 0 then .fin false 0 0 else .fin (s != t) 0 0) else .fin (s != t) (m * n) (e + f + sx 8 shift)

/-! ### Lanes of a vector element (R35, R37) -/

/-- Lane i of a vector element; an FP6 lane reads bits 5:0 (R37). -/
def laneOf (f : Fmt) (v : BitVec 256) (i : Nat) : Nat :=
  let x := bits v.toNat (i * laneW f) (laneW f)
  match f with
  | .e3m2 | .e2m3 => x % 64
  | _ => x

/-- The number in a lane. -/
def laneNum (f : Fmt) (v : BitVec 256) (i : Nat) : Num := numOf f (laneOf f v i)

/-- A vector element of lanes. -/
def ofLanes (f : Fmt) (l : List Nat) : BitVec 256 := BitVec.ofNat 256 (packLanes (laneW f) l)

/-- The byte enables of the lanes of a format that a mask enables; the byte of two 4-bit lanes is enabled when either
lane is. -/
def laneBytes (w n : Nat) (mask : Word) : BitVec 32 :=
  BitVec.ofNat 32 (packLanes 1 ((List.range 32).map fun j =>
    if w = 4 then (if mask.getLsbD (2 * j) || mask.getLsbD (2 * j + 1) then 1 else 0)
    else if mask.getLsbD (8 * j / w) && decide (8 * j / w < n) then 1 else 0))

/-- The number of the FP32 bits of a word's low half. -/
def f32Num (v : Nat) : Num := FloatFmt.decode ⟨8, 23, 127, 0⟩ (v % 2 ^ 32)
/-- Rounding to FP32. -/
def f32Round (mode : Nat) (x : Num) : Nat × BitVec 6 := FloatFmt.round ⟨8, 23, 127, 0⟩ mode false x

end Sys2Proof.Machine
end

