-- ==== Sys2Proof/Machine/Ops.lean ====
section
/-! DEFINITION. The named operations over a sequencer and its tenant: pending writes landing (R71, R73), the bead array's
and the ring's resets, events (R371), taking a trap (R385) and returning from one (R386), and a region's rollback
(R241, R242). -/

namespace Sys2Proof.Machine

/-! ### Code pointers and time -/

/-- The code pointer of a program counter (R77). -/
def Pc.ptr (p : Pc) : Nat := p.idx % 128 * 2 ^ 56 + bits p.seg 6 50 * 64
/-- The program counter that a code pointer names (R77). -/
def Pc.ofPtr (v : Nat) : Pc := { seg := bits v 6 50 * 64, idx := bits v 56 7 }
/-- A code pointer with a reserved bit set (R77). -/
def badPtr (v : Nat) : Bool := bit v 63 || decide (bits v 0 6 ≠ 0)

/-- Device time: it has run on by a free amount since it was last read (log 4). -/
def now (d : Dev) : Nat × Dev :=
  let (x, d) := d.draw
  let t := d.dtime + x
  (t, { d with dtime := t })

/-! ### Watchpoints of foreign writes (R391) -/

/-- The range of watchpoint j: base and length (R389). -/
def watchRange (s : Seq) (j : Nat) : Nat × Nat :=
  let n := 2 ^ bits (vget s.regs.wpc j 0).toNat 2 6
  (alignDown (bits (vget s.regs.wpa j 0).toNat 5 51 * 32) n, n)

/-- A range cut at page boundaries. -/
def pageRuns (a n : Nat) : List (Nat × Nat) :=
  (List.range (ceilDiv (a % 16384 + n) 16384)).map fun k =>
    let lo := max a (alignDown a 16384 + 16384 * k)
    (lo, min (a + n) (alignDown a 16384 + 16384 * (k + 1)) - lo)

/-- Where the range of watchpoint j of a sequencer lies, page by page, as far as it is translated, resident or not (R391). -/
def watchFound (d : Dev) (q j : Nat) : List (Nat × Nat × Nat × Nat) :=
  let (a, n) := watchRange (d.seq q) j
  if (vget (d.seq q).regs.wpc j 0).getLsbD 1 then
    (pageRuns a n).filterMap fun r => ((seqWay d q r.1).loc? r.1).map fun loc => (q, j, loc, r.2)
  else []

/-- Starts or ends the watching of watchpoint j of a sequencer (R391). -/
def watchSet (q j : Nat) (d : Dev) : Dev :=
  let ws := d.mmu.watches.filter fun w => !(decide (w.1 = q) && decide (w.2.1 = j))
  { d with mmu := { d.mmu with watches := ws ++ watchFound d q j } }

/-- Ranges that had no translation start being watched when there is one; what is watched stays watched (R391). -/
def watchScan (d : Dev) : Dev :=
  d.seqs.foldl (fun d e => (List.range 4).foldl (fun d j =>
    let new := (watchFound d e.1 j).filter fun w => !d.mmu.watches.contains w
    { d with mmu := { d.mmu with watches := d.mmu.watches ++ new } }) d) d

/-! ### Pending writes (R71, R73) -/

/-- The ring as a write of w3 leaves it (R174). -/
def ringClear (w3 : Word) (m : Matrix) : Matrix :=
  { m with head := 0, tail := 0, np := 0, tags := List.replicate (viewCount w3) 0 }

/-- The effect of a system-register write at its landing (R109, R136, R183, R244, R245, R389, R397). -/
def landSysreg (q n : Nat) (v : Word) (d : Dev) : Dev :=
  let s := d.seq q
  let put (f : Regs → Regs) : Dev := d.setSeq q { s with regs := f s.regs }
  if n = 0x0C then put fun r => { r with rmc := v }
  else if n = 0x0D then put fun r => { r with rmv := v &&& 0x00FFFFFFFFFFC001#64 }
  else if n = 0x10 then put fun r => { r with fctl := fctlOf v }
  else if n = 0x11 then put fun r => { r with fstat := fstatOf v }
  else if n = 0x12 then put fun r => { r with est := v &&& 0xFF#64 }
  else if n = 0x17 then put fun r => { r with rbk := v }
  else if n = 0x40 then put fun r => { r with dinj := v &&& 0xFFFF00FF0000001F#64 }
  else if n = 0x41 then put fun r => { r with dfir := v }
  else if 0x48 ≤ n && n ≤ 0x4B then
    watchSet q (n - 0x48) (put fun r => { r with wpa := vset r.wpa (n - 0x48) (v &&& 0x00FFFFFFFFFFFFE0#64) })
  else if 0x4C ≤ n && n ≤ 0x4F then
    watchSet q (n - 0x4C) (put fun r => { r with wpc := vset r.wpc (n - 0x4C) (v &&& 0x3FF#64) })
  else if n = 0x61 then { d with fw := { d.fw with fhsa := v } }
  else if n = 0x62 then { d with fw := { d.fw with frbp := v } }
  else if n = 0x63 then { d with fw := { d.fw with pendFsw := some (q, v) } }
  else if n = 0x64 then
    -- any value but the right one, and any write without a switch, is ignored (R401)
    if d.fw.switching.isSome && decide (bits v.toNat 0 32 = d.fw.ucnt % 2 ^ 32) then { d with fw := { d.fw with pendFhb := some v } } else d
  else if n = 0x65 then
    let mine := (q, v.toNat, s.opCtr, s.cols.toList.map (·.sdAsg))
    { d with fw := { d.fw with pendChk := if d.fw.checking.isSome || d.fw.pendChk.isSome then d.fw.pendChk else some mine } }
  else d

/-- The data of a store-data entry, once it has landed. -/
def entryData (s : Seq) (c i : Nat) : Option (BitVec 256 × BitVec 32) :=
  (((s.col c).sdq ++ (s.col c).held).find? fun e => decide (e.idx = i)).bind (·.data)

/-- Whether the data of a stream's next element have landed. -/
def served (s : Seq) (t : Strm) : Bool := (entryData s t.col (t.ent0 + t.next / t.per)).isSome

/-- Whether a st.cf that stands aside has still to take entry i of column c (R125). -/
def asideEntry (s : Seq) (c i : Nat) : Bool :=
  s.side.any fun o =>
    match o.op with
    | .stream t => decide (t.col = c) && decide (t.ent0 + t.next / t.per ≤ i) && decide (i < t.ent0 + t.entries)
    | _ => false

/-- Whether a deferred store stream takes entry i of column c (R238). -/
def deferredEntry (s : Seq) (c i : Nat) : Bool :=
  s.region.deferred.any fun o =>
    match o.op with
    | .stream t => o.op.isStore && decide (t.col = c) && decide (t.ent0 ≤ i) && decide (i < t.ent0 + t.entries)
    | _ => false

/-- A column without the entries whose data have landed and whose elements all have their place; landed entries of deferred
streams stand in the deferral buffer (R68, R238). -/
def trimCol (s : Seq) (c : Nat) : Seq :=
  s.modCol c fun x =>
    let done (e : SdEnt) : Bool := e.data.isSome && decide (e.idx < x.sdUsed) && !asideEntry s c e.idx
    let moves (e : SdEnt) : Bool := e.data.isSome && deferredEntry s c e.idx
    { x with sdq := x.sdq.filter fun e => !done e && !moves e,
             held := (x.held ++ x.sdq.filter moves).filter fun e => !done e,
             asgs := x.asgs.filter fun a => decide (x.sdUsed < a.1 + a.2) || decide (x.sdRes < a.1 + a.2)
               || (x.sdq ++ x.held).any fun e => decide (a.1 ≤ e.idx) && decide (e.idx < a.1 + a.2) }

/-- Store streams in a column's store-address queue: those with elements that have no place, and those whose data are outstanding (R68,
R114). -/
def storesHeld (s : Seq) (c : Nat) : Nat :=
  let x := s.col c
  x.saq + (x.asgs.filter fun a => decide (a.1 + a.2 ≤ x.sdUsed) && !asideEntry s c (a.1 + a.2 - 1)).length

/-- A store element with the data of its entry, if it is the entry that has landed. -/
def Placed.landed (q c i : Nat) (v : BitVec 256) (en : BitVec 32) : Placed → Placed
  | .store o cc ii off k loc n none => .store o cc ii off k loc n (if o = q && cc = c && ii = i then some (v, en) else none)
  | p => p

/-- Store data lands: the entry has its data, and so have the store elements that already have their place, those on their way to
the host, and those bound for peers (R68, R250, R263, R265). -/
def landData (q c i : Nat) (v : BitVec 256) (en : BitVec 32) (d : Dev) : Dev :=
  let fill (e : SdEnt) : SdEnt := if e.idx = i then { e with data := some (v, en) } else e
  let d := d.modSeq q fun s =>
    let s := s.modCol c fun x => { x with sdq := x.sdq.map fill, held := x.held.map fill }
    trimCol { s with far := s.far.map (Placed.landed q c i v en) } c
  let send (o : PeerOut) : PeerOut := match o.entry with
    | some (cc, ii, off) => if o.agent = q && cc = c && ii = i && o.data.isNone then { o with data := some (storeBytes off o.n v en) } else o
    | none => o
  settle { d with placed := d.placed.map (Placed.landed q c i v en), peerOut := d.peerOut.map send }

/-- The bytes that a register write leaves, with their enables: half bytes that it keeps stay as they are (R139). -/
def regBytes (s : Seq) (a : Nat) (w : PWrite) : List (Byte × Bool) :=
  let keep (k : Nat) : Byte := (if w.keep.getLsbD (2 * k) then 0x0F else 0) ||| (if w.keep.getLsbD (2 * k + 1) then 0xF0 else 0)
  ((toLe 32 w.data.toNat).zip (s.spaceBytes a 32)).zipIdx.map fun e =>
    ((e.1.1 &&& ~~~keep e.2) ||| (e.1.2 &&& keep e.2), w.en.getLsbD e.2)

/-- One pending write lands; its fstat bits follow when all of the bundle have landed (R45). -/
def landOne (q : Nat) (d : Dev) (w : PWrite) : Dev :=
  let s := d.seq q
  let v := w.data.toNat
  match w.tgt with
  | .reg a => d.setSeq q (s.putSpace a (if w.keep = 0 then (toLe 32 v).zipIdx.map fun e => (e.1, w.en.getLsbD e.2) else regBytes s a w))
  | .pred n =>
    if n = 0 then d
    else
      let mask : Word := BitVec.ofNat 64 (bits v 64 64)
      let x : Word := BitVec.ofNat 64 v
      d.setSeq q { s with regs := { s.regs with preds := vset s.regs.preds n ((s.pred n &&& ~~~mask) ||| (x &&& mask)) } }
  | .view n =>
    let x : Word := BitVec.ofNat 64 v
    d.setSeq q { s with regs := { s.regs with views := vset s.regs.views n x }, mx := if n = 3 then ringClear x s.mx else s.mx }
  | .base n => d.setSeq q { s with regs := { s.regs with bases := vset s.regs.bases n (BitVec.ofNat 16 v) } }
  | .mreg n => d.setSeq q { s with regs := { s.regs with mregs := vset s.regs.mregs n (BitVec.ofNat 64 v) } }
  | .stage => d.setSeq q { s with regs := { s.regs with stage := BitVec.ofNat 16 v } }
  | .loopPush =>
    d.setSeq q { s with regs := { s.regs with loops :=
      { index := BitVec.ofNat 32 v, remaining := BitVec.ofNat 32 (bits v 32 32), first := BitVec.ofNat 7 (bits v 64 7) } :: s.regs.loops } }
  | .loopSet =>
    d.setSeq q { s with regs := { s.regs with loops :=
      match s.regs.loops with
      | e :: l => { e with index := BitVec.ofNat 32 v, remaining := BitVec.ofNat 32 (bits v 32 32) } :: l
      | [] => [] } }
  | .loopPop => d.setSeq q { s with regs := { s.regs with loops := s.regs.loops.drop 1 } }
  | .scaleS k =>
    d.setSeq q { s with regs := { s.regs with scaleK := vset s.regs.scaleK k (BitVec.ofNat 512 (setBits (vget s.regs.scaleK k 0).toNat 0 256 v)) } }
  | .scaleH k =>
    d.setSeq q { s with regs := { s.regs with scaleK := vset s.regs.scaleK k (BitVec.ofNat 512 (setBits (vget s.regs.scaleK k 0).toNat 256 256 v)) } }
  | .scaleTab => d.setSeq q { s with regs := { s.regs with scaleTab := w.data } }
  | .storeData c i => landData q c i w.data w.en d
  | .sysreg n => landSysreg q n (BitVec.ofNat 64 v) d

/-- Several pending writes land in one bundle, in record order, and then their flags (R45, R73). -/
def landList (q : Nat) (l : List PWrite) (d : Dev) : Dev :=
  let d := l.foldl (landOne q) d
  let f := flagsOr (l.map (·.flags))
  if f = 0 then d
  else
    let s := d.seq q
    d.setSeq q { s with regs := { s.regs with fstat := landFlags s.regs.fstat f } }

/-- The writes due at the start of the bundle about to issue land (R71). -/
def landDue (q : Nat) (d : Dev) : Dev :=
  let s := d.seq q
  landList q (s.pend.filter fun w => decide (w.rdly = 0))
    (d.setSeq q { s with pend := s.pend.filter fun w => decide (w.rdly ≠ 0) })

/-- A bundle has issued: every pending write comes one bundle nearer. -/
def ageWrites (s : Seq) : Seq := { s with pend := s.pend.map fun w => { w with rdly := w.rdly - 1 } }

/-- Every pending write lands, as if empty bundles were issued (R93). -/
def landAll (q : Nat) : Nat → Dev → Dev
  | 0, d => d
  | n + 1, d => if (d.seq q).pend.isEmpty then d else landAll q n ((landDue q d).modSeq q ageWrites)

/-! ### Events (R371) -/

/-- Offset of a function's MSI-X table in its BAR0 (R347); function 16 is PF0. -/
def msixBase (fn : Nat) : Nat := if fn = 16 then 0x8000 else 0x1000
/-- A byte of a function's MSI-X table: until it is written a vector is masked, and everything else is zero (log 78). -/
def msixByte (d : Dev) (fn off : Nat) : Byte := d.msix.find (fn * 65536 + off) (if off % 16 = 12 then 1 else 0)
/-- Whether a vector is masked. -/
def masks (d : Dev) (fn v : Nat) : Bool := (msixByte d fn (msixBase fn + 16 * v + 12)).getLsbD 0

/-- A message is sent on a vector. -/
def sendMsi (fn v : Nat) (d : Dev) : Dev :=
  if fn < 16 then d.modTenant fn fun t => { t with msi := vset t.msi v (vget t.msi v 0 + 1) }
  else { d with fleet := { d.fleet with msi := d.fleet.msi + 1 } }

/-- A vector is signalled: a masked one is pending until it is unmasked (R347, log 78). -/
def signalMsi (fn v : Nat) (d : Dev) : Dev :=
  if masks d fn v then { d with msixPend := insertNat (fn * 256 + v) d.msixPend } else sendMsi fn v d

/-- The Gaffer writes one event record, its number at EQPI, and sends a message (R371). -/
def writeEvent (d : Dev) (ten : Nat) (e : Event) : Dev :=
  let t := d.tenant ten
  let n := t.evseq + 1
  let at_ := hostLoc + t.eqa + 64 * (n % 2 ^ t.eqn)
  let body := toLe 8 n ++ toLe 1 e.kind ++ toLe 1 e.strm ++ toLe 2 e.cause ++ toLe 4 e.tag ++ toLe 8 e.seq ++ toLe 8 e.rc
    ++ toLe 4 e.sqid ++ toLe 4 t.lost ++ toLe 24 0
  let d := gput (placeBytes d gafferAgent at_ body) (hostLoc + t.eqpi) 8 n
  let v := if e.kind = 3 then 0 else if e.kind = 4 then 2 else 1
  signalMsi ten v (d.modTenant ten fun t => { t with evseq := n, lost := 0 })

/-- Whether the tenant's event queue has room for one more record; events wait while the Gaffer does not run (R371, R403). -/
def eventRoom (d : Dev) (ten : Nat) : Bool :=
  let t := d.tenant ten
  decide (d.fw.gstat = 1) && decide ((t.evseq + 1) - gget d (t.sarea + 0x200) 8 ≤ 2 ^ t.eqn)

/-- Held events leave for the queue while it has room (R371). -/
def flushEvents (ten : Nat) : Nat → Dev → Dev
  | 0, d => d
  | n + 1, d =>
    match (d.tenant ten).held with
    | [] => d
    | e :: l =>
      if eventRoom d ten then flushEvents ten n (writeEvent (d.modTenant ten fun t => { t with held := l }) ten e) else d

/-- An event enters its tenant's arbiter (R371, R372). -/
def postEvent (d : Dev) (ten : Nat) (e : Event) : Dev :=
  let d := flushEvents ten 256 d
  let t := d.tenant ten
  if t.held.isEmpty && eventRoom d ten then writeEvent d ten e
  else if t.held.length < 256 then d.modTenant ten fun t => { t with held := t.held ++ [e] }
  else d.modTenant ten fun t => { t with lost := t.lost + 1 }

/-- The event of a launch. -/
def launchEvent (d : Dev) (l kind cause rc sqid : Nat) : Dev :=
  match d.launch? l with
  | some x => postEvent d x.ten { kind := kind, strm := x.strm, cause := cause, tag := x.tag, seq := x.seq, rc := rc, sqid := sqid }
  | none => d

/-! ### Taking a trap (R385) -/

/-- KIND and TGT of a pending write (R385; the numbers of other registers are log 15's). -/
def Tgt.code : Tgt → Nat × Nat
  | .reg a => (0, a)
  | .pred n => (1, n)
  | .view n => (2, n)
  | .base n => (2, 8 + n)
  | .mreg n => (2, 16 + n)
  | .stage => (2, 24)
  | .loopPush => (2, 25)
  | .loopSet => (2, 26)
  | .loopPop => (2, 27)
  | .scaleS k => (2, 32 + k)
  | .scaleH k => (2, 40 + k)
  | .scaleTab => (2, 48)
  | .storeData c i => (3, c * 256 + i % 256)
  | .sysreg n => (4, n)

/-- One pending-write entry of a record (R385). -/
def PWrite.bytes (w : PWrite) : Bytes :=
  toLe 32 w.data.toNat ++ toLe 1 w.tgt.code.1 ++ toLe 1 w.rdly ++ toLe 1 w.flags.toNat ++ [0] ++ toLe 4 w.en.toNat
    ++ toLe 4 w.tgt.code.2 ++ toLe 4 0

/-- Bytes 112 to 511 of a record: the frozen bead wave (R228, R385). -/
def waveBytes (b : Bead) : Bytes :=
  match b.wave with
  | none => toLe 400 0
  | some w =>
    [1] ++ toLe 1 w.mode ++ toLe 2 w.twin ++ toLe 2 w.elapsed ++ [if w.psn then 1 else 0] ++ toLe 1 w.prow ++ toLe 8 0
      ++ ((List.range 128).map fun i => toLe 2 (w.inputs.getD i 0x3FF)).flatten ++ toLe 128 0

/-- FL of a record (R385). -/
def TrapInfo.fl (t : TrapInfo) (owner near : Bool) : Nat :=
  t.retries.toNat + 2 * t.after.toNat + 4 * owner.toNat + 8 * near.toNat + 16 * t.stalled.toNat + 32 * t.falloff.toNat

/-- The header of a record up to CONT (R385). -/
def recordHead (t : TrapInfo) (fl sqid pc npw time lsn seq : Nat) : Bytes :=
  toLe 2 t.cause ++ toLe 1 t.slot ++ toLe 1 fl ++ toLe 4 sqid ++ toLe 8 pc ++ toLe 2 t.upc ++ toLe 2 npw ++ toLe 4 0
    ++ toLe 8 time ++ toLe 8 lsn ++ toLe 8 seq ++ ((List.range 8).map fun i => toLe 8 (t.cont.getD i 0)).flatten

/-- Location of a sequencer's trap record (R385). -/
def recordLoc (d : Dev) (q : Nat) : Nat := (d.tenant (d.seq q).place.ten).svpa + 10240 * q
/-- Device virtual address of a sequencer's trap record, as events name it. -/
def recordVa (d : Dev) (q : Nat) : Nat := (d.tenant (d.seq q).place.ten).csva + 10240 * q

/-- The trap record of a sequencer is written (R385). -/
def writeRecord (d : Dev) (q : Nat) (t : TrapInfo) : Dev :=
  let (time, d) := now d
  let s := d.seq q
  let seq := match d.launch? s.place.launch with | some l => l.seq | none => 0
  let ws := s.pend.take 192
  placeBytes d gafferAgent (recordLoc d q)
    (recordHead t (t.fl s.owner false) q s.pc.ptr ws.length time s.place.lsn.toNat seq ++ waveBytes s.bead ++ (ws.map PWrite.bytes).flatten)

/-- A tenant's action-table entry for a cause as it stands (R369). -/
def actionEntry (d : Dev) (ten cause : Nat) : Nat := (vget (d.tenant ten).actions cause 0).toNat

/-- A trap or an end that comes while the Gaffer does not run is held, in order (R403). -/
def holdItem (a : Nat) (d : Dev) : Dev := if d.fw.gstat = 1 then d else { d with fw := { d.fw with held := d.fw.held ++ [a] } }

/-- Taking a trap: the sequencer stops, its record is written, its frozen units wait (R386), and its debugger holds it if
it has one (R94, R392). The action of the table is a step of its own. A control core's trap keeps its state without a
record (R404). -/
def takeTrap (d : Dev) (q : Nat) (t : TrapInfo) : Dev :=
  let s := d.seq q
  let same := decide (s.trapLast = (t.cause, s.pc))
  let d := d.setSeq q { s with trap := some { t with act := actionEntry d s.place.ten t.cause }, run := if s.owner then .stopped else .trapped, trapCount := if same then s.trapCount + 1 else 1,
                               trapLast := (t.cause, s.pc), woke := none, waitOn := none, pld := [], checks := [],
                               -- a debugger's stop is met by any stop (R392)
                               reqs := if s.owner then s.reqs.filter (· ≠ .stop) else s.reqs }
  if s.place.control then d
  else
    let d := d.modLaunch s.place.launch fun l => { l with traps := l.traps + 1 }
    let d := writeRecord d q t
    if s.owner then launchEvent d s.place.launch 1 t.cause (recordVa d q) q else holdItem q d

/-! ### Returning from a trap (R386) -/

/-- The target of a KIND and TGT; a store-data entry is found among those that the sequencer holds. -/
def Tgt.ofCode (s : Seq) (kind n : Nat) : Option Tgt :=
  match kind with
  | 0 => some (.reg n)
  | 1 => some (.pred (n % 16))
  | 2 =>
    if n < 4 then some (.view n) else if 8 ≤ n && n < 16 then some (.base (n - 8)) else if 16 ≤ n && n < 24 then some (.mreg (n - 16))
    else if n = 24 then some .stage else if n = 25 then some .loopPush else if n = 26 then some .loopSet else if n = 27 then some .loopPop
    else if 32 ≤ n && n < 40 then some (.scaleS (n - 32)) else if 40 ≤ n && n < 48 then some (.scaleH (n - 40))
    else if n = 48 then some .scaleTab else none
  | 3 =>
    let c := n / 256 % 4
    ((s.col c).sdq ++ (s.col c).held).findSome? fun e => if e.idx % 256 = n % 256 then some (.storeData c e.idx) else none
  | _ => some (.sysreg n)

/-- One entry of a record in memory: its target, and whether KIND and RDLY are within range (R386). An entry names whole bytes: the half
bytes that it keeps are those of the write that the sequencer has pending at its place, if that has its target (R139, log 61). -/
def entryAt (d : Dev) (s : Seq) (k loc : Nat) : Option PWrite × Bool :=
  let b := ggetBytes d loc 48
  let f (lo n : Nat) : Nat := leNat ((b.drop lo).take n)
  let w := (Tgt.ofCode s (f 32 1) (f 40 4)).map fun t =>
    ({ tgt := t, data := BitVec.ofNat 256 (f 0 32), en := BitVec.ofNat 32 (f 36 4), flags := BitVec.ofNat 6 (f 34 1), rdly := f 33 1,
       keep := ((s.pend[k]?).filter fun w => decide (w.tgt = t)).elim 0 (·.keep) } : PWrite)
  (w, decide (f 32 1 ≤ 4) && decide (f 33 1 ≤ 19))

/-- The bead wave that a record holds (R228, R385). -/
def waveAt (d : Dev) (loc : Nat) : Option Wave :=
  if gget d (loc + 112) 1 % 2 = 0 then none
  else some { inputs := (List.range 128).map fun i => gget d (loc + 128 + 2 * i) 2, mode := gget d (loc + 113) 1, twin := gget d (loc + 114) 2,
              elapsed := gget d (loc + 116) 2, psn := decide (gget d (loc + 118) 1 % 2 = 1), prow := gget d (loc + 119) 1 }

/-- Return from a trap (replay): the sequencer resumes from its record as it stands in memory; none when the record breaks
R386, which kills the launch with status 0x18. -/
def replaySeq (d : Dev) (q : Nat) : Option Dev :=
  let s := d.seq q
  if s.place.control then some (d.setSeq q { s with trap := none, run := .running })
  else
    let loc := recordLoc d q
    let npw := gget d (loc + 18) 2
    if 192 < npw then none
    else
      let es := (List.range npw).map fun k => entryAt d s k (loc + 512 + 48 * k)
      if es.any fun e => !e.2 then none
      else
        let fl := gget d (loc + 3) 1
        let w := waveAt d loc
        let pc := Pc.ofPtr (gget d (loc + 8) 8)
        some (d.setSeq q { s with trap := none, run := .running, pc := pc, nopLeft := if pc = s.pc then s.nopLeft else 0, falloff := bit fl 5,
                                  pend := es.filterMap (·.1),
                                  bead := if s.bead.wave.isSome || w.isSome then { s.bead with wave := w } else s.bead })

/-! ### The bead array's reset (R225, R229) -/

/-- STATE := IDLE and any wave discarded. -/
def beadReset (b : Bead) : Bead := { b with st := .idle, wave := none }

/-! ### Rollback (R241, R242) -/

/-- Cycles that a rollback takes: 8, and one for every 256 bytes that it restores (R241, log 8). -/
def rollbackCycles (s : Seq) (l : Nat) : Nat :=
  8 + ceilDiv (((s.region.undo.filter fun u => decide (l ≤ u.1)).map fun u => u.2.2.length).sum) 256

/-- Undo data of the levels from l on written back, latest rkeep first (R241). -/
def undoBytes (s : Seq) (l : Nat) : Seq :=
  (s.region.undo.reverse.filter fun u => decide (l ≤ u.1)).foldl (fun s u => s.putSpace u.2.1 (u.2.2.map fun b => (b, true))) s

/-- The counted-unit decrements of the levels from l on undone (R241). -/
def undoDecs (d : Dev) (q l : Nat) : Dev :=
  let s := d.seq q
  let up (n : Nat) (us : List CUnit) : List CUnit := us.map fun u => if u.id = n then { u with count := u.count + 1 } else u
  let d := (s.region.decs.filter fun e => decide (l ≤ e.1)).foldl (fun d e =>
    let d := d.modSeq q fun s => { s with lines := up e.2 s.lines }
    modLcl d s.place.launch s.place.lcl fun c => { c with blocks := up e.2 c.blocks }) d
  d.modSeq q fun s => { s with region := { s.region with decs := s.region.decs.filter fun e => decide (e.1 < l) } }

/-- Whether a memory operation is a load of any kind, which a rollback cancels. -/
def MOp.isLoad : MOp → Bool
  | .stream s => match s.kind with | .ld | .ldCnt | .ldFe | .ldFec => true | _ => false
  | _ => false

/-- Steps 1 to 8 of a rollback of the innermost level (R241). -/
def rollbackLevel (d : Dev) (q : Nat) : Dev :=
  let s := d.seq q
  match s.region.levels.getLast? with
  | none => d
  | some lv =>
    let l := s.region.levels.length
    let d := undoDecs d q l
    let keeps (p : Placed) : Bool := match p with | .load o .. => decide (o ≠ q) | _ => true
    let d := { d with placed := d.placed.filter keeps }.modSeq q fun s => { s with far := s.far.filter keeps }
    let d := d.modLaunch s.place.launch fun x => { x with rbk := x.rbk + 1 }
    let s := undoBytes (d.seq q) l
    let cols := (List.range 4).foldl (fun v c =>
      let x := s.col c
      let (r, a) := (lv.sdRes.find? fun e => decide (e.1 = c)).elim (x.sdRes, x.sdAsg) (·.2)
      let back := x.held.filter fun e => decide (e.idx < r) && decide (a ≤ e.idx)
      -- the places of atomics without a value that were issued before the rbegin stay taken
      let atoms := (s.ord.filter fun o => match o.op with | .atom a => decide (a.col = c) && !a.half | _ => false).length
      vset v c { x with laq := atoms, fill := [], ldq := [], sdq := back ++ x.sdq.filter fun e => decide (e.idx < r), sdRes := r,
                        sdAsg := a, sdUsed := min x.sdUsed a, held := x.held.filter fun e => decide (e.idx < a),
                        asgs := x.asgs.filter fun e => decide (e.1 < a) }) s.cols
    d.setSeq q { s with pend := [], cols := cols, ord := s.ord.filter fun o => !o.op.isLoad, bead := beadReset s.bead,
                        regs := { s.regs with loops := lv.loops, stage := lv.stage, rbk := s.regs.rbk + 1,
                                              cyc := s.regs.cyc + BitVec.ofNat 64 (rollbackCycles s l) },
                        mx := { s.mx with head := lv.head, tail := lv.tail, np := lv.np, tags := lv.tags },
                        region := { s.region with deferred := s.region.deferred.filter fun o => decide (o.level < l),
                                                  undo := s.region.undo.filter fun u => decide (u.1 < l), owedWatch := none } }

/-- rlc of a rollback (R244). -/
def rlcWord (kind level : Nat) (esc : Bool) (idx : Nat) : Word :=
  BitVec.ofNat 64 (kind * 4096 + level * 256 + esc.toNat * 128 + idx % 128)

/-- A rollback event at bundle pc with open levels (R240 to R242): rollback, retry, escalation, or the exhausted trap. -/
def rollback (q : Nat) (pc : Pc) (kind : Nat) (t : TrapInfo) : Nat → Bool → Dev → Dev
  | 0, _, d => d
  | n + 1, esc, d =>
    let l := (d.seq q).region.levels.length
    match (d.seq q).region.levels.getLast? with
    | none => d
    | some lv =>
      let d := (rollbackLevel d q).modSeq q fun s => { s with regs := { s.regs with rlc := rlcWord kind l esc pc.idx }, pc := lv.restart }
      if lv.retries < lv.limit then
        d.modSeq q fun s => { s with region := { s.region with levels := s.region.levels.dropLast ++ [{ lv with retries := lv.retries + 1 }], retrying := true } }
      else
        let d := d.modSeq q fun s => { s with region := { s.region with levels := s.region.levels.dropLast } }
        if 1 < l then rollback q pc kind t n true d
        else takeTrap d q { t with cont := pc.ptr :: t.cont ++ [1], retries := true }

end Sys2Proof.Machine
end

