-- ==== Sys2Proof/Machine/Parison.lean ====
section
/-! DEFINITION. The parison (R326, R327, R429): its header, its live block, its check code, and how a reader checks it. -/

namespace Sys2Proof.Machine

/-- One bit of the reflected CRC-32C (R327), eight times. -/
def crcBits : Nat → Nat → Nat
  | 0, c => c
  | n + 1, c => crcBits n (if c % 2 = 1 then (c / 2) ^^^ 0x82F63B78 else c / 2)

/-- CRC-32C of bytes (R327). -/
def crc32c (l : Bytes) : Nat := (l.foldl (fun c b => crcBits 8 (c ^^^ b.toNat)) 0xFFFFFFFF) ^^^ 0xFFFFFFFF

/-- The header with its CRC bytes zero. -/
def headZero (h : Bytes) : Bytes := h.take 72 ++ toLe 4 0 ++ h.drop 76

/-- A field of a header. -/
def headField (h : Bytes) (lo n : Nat) : Nat := leNat ((h.drop lo).take n)

/-- Range m of a header: start and length in bytes (R326, R313). -/
def headRange (h : Bytes) (m : Nat) : Nat × Nat := (headField h (80 + 4 * m) 2 * 32, headField h (82 + 4 * m) 2 * 32)

/-- The live ranges of a header. -/
def headRanges (h : Bytes) : List (Nat × Nat) := (List.range (headField h 42 1)).map (headRange h)

/-- Ranges that do not meet one another. -/
def disjoint : List (Nat × Nat) → Bool
  | [] => true
  | r :: l => (l.all fun x => !overlap r.1 r.2 x.1 x.2) && disjoint l

/-- Check 1 of R429: the header is well formed; `nd` says that the reader is a near-data unit. -/
def headOk (nd : Bool) (h : Bytes) : Bool :=
  let f := headField h
  let fl := f 6 2
  let nr := f 42 1
  let cdep := f 40 1
  -- what R326 has zero in a parison of the Gaffer, of a hand-over (whose SEQ is above zero, R332) and of an npsave
  let gaffer := decide (bits fl 0 2 = 0)
  let hand := !gaffer && (bit fl 4 || decide (f 64 8 ≠ 0))
  let first := if gaffer || hand then 1 else cdep
  decide (f 0 4 = 0x5A504152) && decide (f 4 2 = 1) && decide (bits fl 0 2 ≠ 3) && decide (bits fl 2 2 ≠ 3)
    && (nd || decide (bits fl 2 2 ≤ 1)) && decide (fl < 32) && decide (cdep ≤ 6) && decide (nr ≤ 8)
    && (decide (f 41 1 ≠ 0) || decide (nr = 0))
    && ((List.range 8).all fun m => decide (m < nr) || decide (f (80 + 4 * m) 4 = 0))
    && ((List.range 6).all fun k => decide (k < first) || decide (f (16 + 4 * k) 4 = 0))
    && decide (f 44 4 % 32 = 0) && decide (f 43 1 = 0) && decide (f 76 4 = 0) && decide (f 120 136 = 0)
    && (!gaffer || (decide (f 64 8 = 0) && decide (cdep = 0))) && (!hand || decide (cdep ≤ 1)) && (!bit fl 4 || decide (cdep = 0))

/-- Check 2 of R429: the live block is acceptable, judged from the header; `dest` is where pld puts it and the bytes that
the sequencer owns. -/
def liveOk (dest : Option (Nat × Nat)) (h : Bytes) : Bool :=
  let lfmt := headField h 41 1
  let llen := headField h 44 4
  let rs := headRanges h
  (match dest with
    | some (a, own) => decide (lfmt ≤ 1) && decide (llen ≤ 16384) && decide (a + llen ≤ own)
    | none => decide (lfmt = 1))
  && (decide (lfmt ≠ 1) ||
      (decide (llen ≤ 1280) && (rs.all fun r => decide (32 ≤ r.2) && decide (r.1 + r.2 ≤ 1280)) && disjoint rs
        && decide (llen = (rs.map (·.2)).sum)))

/-- Checks 1 and 2: status 0 when the live block is to be read. -/
def headStatus (nd : Bool) (dest : Option (Nat × Nat)) (h : Bytes) : Nat :=
  if !headOk nd h then 1 else if !liveOk dest h then 4 else 0

/-- Checks 3 and 4 (R429): the check code, and the kernel. -/
def liveStatus (kid : Nat) (h live : Bytes) : Nat :=
  if crc32c (headZero h ++ live) ≠ headField h 72 4 then 2 else if headField h 8 8 ≠ kid then 3 else 0

/-- The ten items of the parison cursor (R338). -/
def headCursor (h : Bytes) : List Nat :=
  (List.range 6).map (fun k => headField h (16 + 4 * k) 4) ++ [headField h 40 1, headField h 112 8, headField h 6 2, headField h 56 8]

/-- What a parison's writer states (R326). -/
structure Head where
  flags : Nat
  kid : Nat
  cur : List Nat
  cdep : Nat
  lfmt : Nat
  ranges : List (Nat × Nat)
  llen : Nat
  parm : Nat
  rgen : Nat
  seq : Nat
  plan : Nat
  deriving DecidableEq, Repr

/-- The header bytes with CRC zero. -/
def Head.raw (p : Head) : Bytes :=
  toLe 4 0x5A504152 ++ toLe 2 1 ++ toLe 2 p.flags ++ toLe 8 p.kid ++ ((List.range 6).map fun k => toLe 4 (p.cur.getD k 0)).flatten
    ++ toLe 1 p.cdep ++ toLe 1 p.lfmt ++ toLe 1 p.ranges.length ++ [0] ++ toLe 4 p.llen ++ toLe 8 p.parm ++ toLe 8 p.rgen ++ toLe 8 p.seq
    ++ toLe 8 0
    ++ ((List.range 8).map fun m => let r := p.ranges.getD m (0, 0); toLe 2 (r.1 / 32) ++ toLe 2 (r.2 / 32)).flatten
    ++ toLe 8 p.plan ++ toLe 136 0

/-- The header and its live block as bytes (R326, R327). -/
def Head.bytes (p : Head) (live : Bytes) : Bytes :=
  let h := p.raw
  h.take 72 ++ toLe 4 (crc32c (h ++ live)) ++ h.drop 76 ++ live

end Sys2Proof.Machine
end

