-- ==== Sys2Proof/Machine/Bundle.lean ====
section
/-! DEFINITION. A bundle from its issue to its end: the checks of R84, the safe-point gate of R25, the interlocks of R68, R72
and R252, the slots one by one, and what the bundle's end does (R71, R76, R78, R92 to R94, R24, R390 to R393). -/

namespace Sys2Proof.Machine

/-- What exec answers. -/
abbrev Out := Host.Outcome State Fault Refusal

/-! ### The checks of a bundle (R84) -/

/-- Majors that a control core does not have (R394). -/
def controlBars (major : Nat) : Bool :=
  decide (major = 0x10) || (decide (0x12 ≤ major) && decide (major ≤ 0x14)) || (decide (0x30 ≤ major) && decide (major ≤ 0x33))

/-- Whether slot i may carry a word (R80, R91). -/
def mayCarry (s : Seq) (i w : Nat) : Bool :=
  (decide (fld w 26 6 = 0) && decide (fld w 22 4 = 0)) || hasRole s i (roleOf (fld w 26 6))

/-- A precise trap of a slot. -/
def slotTrap (c : Cause) (i : Nat) (cont : List Nat := []) : TrapInfo := { cause := c.code, slot := i, cont := cont }

/-- The run of w1 elements that bload or blnch names, as first element and length, where it does not fit (R215, R218). -/
def beadRun (s : Seq) (ins : Instr) : Option (Nat × Nat) :=
  let fits (a : Opnd) (m : Nat) : Option (Nat × Nat) :=
    match a with
    | .elem n => if n.val + m - 1 ≤ 59 && n.val + m - 1 < viewCount (vget s.regs.views 1 0) then none else some (n.val, m)
    | _ => none
  match ins with
  | .bload a _ => fits a (if s.place.mode = 2 then 2 else 4)
  | .blnch a => fits a (if s.place.mode = 0 then 8 else 4)
  | _ => none

/-- How a system register may be used. -/
inductive SrAccess where
  | unassigned | read | readWrite | writeOnly
  deriving DecidableEq, Repr

/-- Access of a system register on a sequencer (R109, R136, R183, R244, R245, R337, R389, R397). -/
def srAccess (control : Bool) (n : Nat) : SrAccess :=
  if n ≤ 0x0B then .read
  else if n = 0x0C || n = 0x0D then .readWrite
  else if n = 0x0E || n = 0x0F then .read
  else if n = 0x10 || n = 0x11 || n = 0x12 then .readWrite
  else if n = 0x13 || n = 0x14 || n = 0x15 || n = 0x16 then .read
  else if n = 0x17 then .readWrite
  else if 0x18 ≤ n && n ≤ 0x1B then .read
  else if 0x20 ≤ n && n ≤ 0x27 then .read
  else if n = 0x40 || n = 0x41 then .readWrite
  else if 0x48 ≤ n && n ≤ 0x4F then .readWrite
  else if control && n = 0x60 then .read
  else if control && (n = 0x61 || n = 0x62 || n = 0x65) then .readWrite
  else if control && (n = 0x63 || n = 0x64) then .writeOnly
  else .unassigned

/-- The system register that a word names, where nothing is assigned to its number (R84, R109, log 18). -/
def noRegister (s : Seq) : Instr → Bool
  | .rdsr _ r _ => decide (srAccess s.place.control r.toNat = .unassigned)
  | .wrsr _ r _ => decide (srAccess s.place.control r.toNat = .unassigned)
  | _ => false

/-- The checks of one slot, in the order of R84: reserved major, encoding, slot, operands. `only` says that the word stands
alone in its bundle (R91). -/
def checkSlot (s : Seq) (only : Bool) (i w : Nat) : Except TrapInfo Instr :=
  match decodeCore w with
  | .error .reservedMajor => .error (slotTrap .reservedMajor i [w])
  | .error .illegal => .error (slotTrap .illegal i [w])
  | .ok ins =>
    let longNop := match ins with | .nop n => decide (n ≠ 0) | _ => false
    if longNop && !(only && i % 2 = 0) then .error (slotTrap .illegal i [w])
    else if s.place.control && controlBars (fld w 26 6) || noRegister s ins then .error (slotTrap .illegal i [w])
    else if !mayCarry s i w then .error (slotTrap .wrongSlot i)
    else
      match checkUses s (i / 2) (uses ins), beadRun s ins with
      | .error c, _ => .error (slotTrap c i)
      | .ok _, some (n, m) => .error (slotTrap .viewRange i [n, m])
      | .ok _, none => .ok ins

/-- Steps 1 and 2 of R84. -/
def checkBundle (s : Seq) (b : List (Nat × Nat)) : Except TrapInfo (List (Nat × Instr)) :=
  match b.find? fun e => !s.owns (e.1 / 2) with
  | some e => .error (slotTrap .wrongSlot e.1)
  | none => b.mapM fun e => do return (e.1, ← checkSlot s (decide (b.length = 1)) e.1 e.2)

/-! ### The safe-point gate (R25, R186) -/

/-- Whether it is an epi or rfree command. -/
def MOp.isEpi : MOp → Bool
  | .epi .. => true
  | .rfree _ => true
  | _ => false

/-- Whether the matrix unit has commands queued or running (R25, R182). -/
def Matrix.busy (m : Matrix) : Bool := m.running.isSome || !m.queue.isEmpty

/-- The store element, by column and number, that the sequencer has given a place, sent to a peer or to the host, and whose data no landed
entry supplies: a pending write of it or an unreserved entry has to (R122, R252). `far` names those alone whose writes another agent
acknowledges (R130). -/
def dryStore (d : Dev) (q : Nat) (far : Bool) : Option (Nat × Nat) :=
  let host (loc : Nat) : Bool := decide (hostLoc ≤ loc) && decide (loc < gafferLoc) || (frameOf loc).any fun f => decide ((d.frame f).home = 3)
  ((d.placed ++ (d.seq q).far).findSome? fun
    | .store o c _ _ k loc _ none => if o = q && (!far || host loc) then some (c, k) else none
    | _ => none).or
  (d.peerOut.findSome? fun o => match o.entry with
    | some (c, _, _) => if o.agent = q && o.data.isNone then some (c, o.elem) else none
    | none => none)

/-- Whether the sequencer has given store elements places whose data no landed entry supplies (R122). -/
def starved (d : Dev) (q : Nat) : Bool := (dryStore d q false).isSome

/-- The store of the sequencer that keeps the head of its order waiting for data that only it can supply: the head is a fence.sy or a .sy
atomic, which wait for earlier writes to be acknowledged (R130, R135, R265). -/
def headDry (d : Dev) (q : Nat) : Option (Nat × Nat) :=
  match (d.seq q).ord.head?.map OrdOp.op with
  | some (.fence true) => dryStore d q true
  | some (.atom a) => if a.sc = 2 && !a.half then dryStore d q true else none
  | _ => none

/-- Whether a store of the sequencer can still drain (R25): a stream whose next data have landed, or an epilogue command whose tile is
published or can still be (R186). What only a pending write or an unreserved entry can supply drains nothing, nor does what stands behind
it in the order. -/
def liveStore (d : Dev) (q : Nat) : Bool :=
  let s := d.seq q
  let stuck := (headDry d q).isSome
  let live (o : OrdOp) : Bool := match o.op with | .stream t => o.op.isStore && served s t | op => op.isEpi
  let tile := decide (0 < s.mx.np) || s.mx.running.isSome || (!s.mx.queue.isEmpty && !stuck)
  (!stuck && s.ord.any live) || s.side.any live || (s.far.any fun p => !p.isRead && !p.awaits q)
    || (match s.mx.epq with
        | [] => false
        | .rfree :: _ => tile
        | .epi e _ :: _ => tile && !(stuck && s.ord.any fun o => match o.op with | .epi x _ => decide (x.id = e.id) | _ => false))

/-- The gate of a safe point in slot i: held while stores drain, then busy or open (R25, R186). -/
def safeGate (d : Dev) (q i : Nat) : Except Abort Unit :=
  let s := d.seq q
  if liveStore d q then .error (.stall none)
  else
    let loads := s.cols.toList.any fun c => !c.ldq.isEmpty || !c.fill.isEmpty || decide (c.laq ≠ 0)
    -- a starved stream or an orphaned entry (R122)
    let stores := starved d q || (s.ord.any fun o => o.op.isStore || o.op.isEpi) || !s.side.isEmpty || (s.far.any fun p => !p.isRead)
      || s.cols.toList.any fun c => !c.sdq.isEmpty
    if stores || !s.pend.isEmpty || loads || s.mx.busy || !s.mx.epq.isEmpty || decide (s.bead.st ≠ .idle) then
      .error (.trap (slotTrap .safeBusy i))
    else .ok ()

/-! ### Interlocks (R68, R72, R252) -/

/-- The store element of sequencer q, by column and number in its stream, that keeps the byte at a location from being known, if its
entry is one that q's own pending write or an unreserved entry must supply (R252); operations newest first. -/
def selfBlock (s : Seq) (q a : Nat) : List Placed → Option (Nat × Nat)
  | [] => none
  | p :: l =>
    let (_, b, n) := p.range
    if !(decide (b ≤ a) && decide (a < b + n)) then selfBlock s q a l
    else match p with
      | .store o c i off k _ _ data =>
        match data with
        | none => if o = q && ((s.pend.any fun w => w.tgt = .storeData c i) || decide ((s.col c).sdRes ≤ i)) then some (c, k) else none
        | some (_, en) => if en.getLsbD (off + (a - b)) then none else selfBlock s q a l
      | .rmw .. => (span b n).findSome? fun x => selfBlock s q x l
      | .arrive .. => (span b n).findSome? fun x => selfBlock s q x l
      | .load .. => selfBlock s q a l
      | .part .. => selfBlock s q a l
      | .fork .. => selfBlock s q a l
      | _ => none

/-- The blocking store of an entry that is being filled (R252). -/
def entryBlock (d : Dev) (q c ent : Nat) : Option (Nat × Nat) :=
  let s := d.seq q
  let block (loc n k : Nat) : Option (Nat × Nat) := (span loc n).findSome? fun a => selfBlock s q a (d.placed.take k).reverse
  (d.placed.zipIdx).findSome? fun e =>
    match e.1 with
    | .load o cc en _ _ loc n => if o = q && cc = c && en = ent then block loc n e.2 else none
    | .rmw o cc en _ true _ loc n _ _ => if o = q && cc = c && en = ent then block loc n e.2 else none
    | _ => none

/-- The first slot whose pop of queue c exceeds what is there. -/
def shortSlot (c : Nat) : List (Nat × Instr) → Nat → Nat
  | [], _ => 255
  | (i, ins) :: l, have_ =>
    let k := ((popsOf ins).filter (· = c)).length
    if have_ < k then i else shortSlot c l (have_ - k)

/-- The interlocks of a bundle: every pop can be served and every push has an entry, or the bundle is held, or it waits for
itself (R68, R72, R252). The device is the one before the bundle's writes land: data that would land only as this bundle issues
cannot serve its pops (R252). -/
def interlocks (d : Dev) (q : Nat) (is : List (Nat × Instr)) : Except Abort Unit :=
  let s := d.seq q
  let pops (c : Nat) : Nat := ((is.map fun e => popsOf e.2).flatten.filter (· = c)).length
  let pushes (c : Nat) : Nat := ((is.map fun e => pushesOf e.2).flatten.filter (· = c)).length
  let short := (List.range 4).filter fun c => decide ((s.col c).ldq.length < pops c)
  -- a load that has no place yet waits with the head of the order
  let unplaced (c : Nat) : Bool := decide ((s.col c).ldq.length + (s.col c).fill.length < pops c) && s.ord.any fun o => match o.op with
    | .stream t => o.op.isLoad && decide (t.col = c)
    | .atom a => a.ret && decide (a.col = c)
    | _ => false
  let block (c : Nat) : Option (Nat × Nat) :=
    (((s.col c).fill.take (pops c - (s.col c).ldq.length)).findSome? fun e => entryBlock d q c e.id).or (if unplaced c then headDry d q else none)
  let waits := short.filterMap fun c => (block c).map fun b => (shortSlot c is (s.col c).ldq.length, c, b)
  -- the lowest slot that waits for its own sequencer
  match waits.find? fun w => waits.all fun x => decide (w.1 ≤ x.1) with
  | some (i, c, b) => .error (.trap (slotTrap .selfWait i [i, c, b.1, b.2]))
  | none =>
    if !short.isEmpty || ((List.range 4).any fun c => decide (64 < (s.col c).sdq.length + pushes c)) then .error (.stall none)
    else .ok ()

/-! ### Cycles -/

/-- A wave whose results are all valid is done (R216, R222). -/
def waveDone (b : Bead) : Bead :=
  match b.st, b.wave with
  | .run, some w => if 4 + ceilDiv w.twin 4 ≤ w.elapsed then { b with st := .done } else b
  | _, _ => b

/-- A cycle of a resident sequencer passes (R109, R222). The elapsed cycles of a wave stop at what a record's 16 bits hold, which is
past the end of every window. -/
def cycle (s : Seq) : Seq :=
  { s with regs := { s.regs with cyc := s.regs.cyc + 1 },
           bead := waveDone { s.bead with wave := s.bead.wave.map fun w => { w with elapsed := min (w.elapsed + 1) 0xFFFF } } }

/-- A bundle has issued (R71, R109, R370). -/
def issued (s : Seq) : Seq :=
  let s := cycle (ageWrites s)
  { s with regs := { s.regs with bun := s.regs.bun + 1 }, trapCount := 0, trapLast := (0, {}) }

/-- A cycle in which the bundle is held; a debugger's step ends in it with the stalled flag (R393), and a launch that is parked
stops at its current stall (R370). -/
def held (q : Nat) (d : Dev) : Dev :=
  let d := d.modSeq q cycle
  if (d.seq q).stepMode then
    takeTrap (d.modSeq q fun s => { s with stepMode := false }) q { cause := Cause.singleStep.code, stalled := true }
  else if (d.seq q).reqs.contains .park then d.modSeq q fun s => { s with reqs := s.reqs.filter (· ≠ .park), run := .parked }
  else d

/-! ### Ending a bundle that takes no effect -/

/-- A debugger's step that ends in another trap has still given its cycle (R228, R393). -/
def stepCycle (s : Seq) : Seq := if s.stepMode then { cycle s with stepMode := false } else s

/-- An injection fired in a bundle that takes no effect otherwise (R245): ARM and SKIP are zero, dfir has risen. -/
def firedInjection (s : Seq) : Seq :=
  let x := s.regs.dinj.toNat
  { s with regs := { s.regs with dinj := BitVec.ofNat 64 (setBits (setBits x 48 16 0) 4 1 0), dfir := s.regs.dfir + 1 } }

/-- A rollback that a debugger steps ends the step: the bundle that follows is the level's rbegin (R241, R393, log 71). -/
def afterRollback (q : Nat) (d : Dev) : Dev :=
  if (d.seq q).stepMode && decide ((d.seq q).run = .running) then
    takeTrap (d.modSeq q stepCycle) q { cause := Cause.singleStep.code, after := true }
  else d.modSeq q stepCycle

/-- A bundle ends in a trap, a hold or an event: nothing of it has taken effect (R84, R240). -/
def endBundle (s : State) (q : Nat) (a : Abort) : State :=
  let d := s.base
  let pc := (d.seq q).pc
  let d' := match a with
    | .trap t => takeTrap (d.modSeq q stepCycle) q t
    | .stall w => held q (d.modSeq q fun s => { s with waitOn := w })
    | .more d => held q d
    | .expand seg => held q (d.modSeq q fun s => { s with want := some { seg := seg } })
    | .event k t fired =>
      let fire (d : Dev) : Dev := if fired then d.modSeq q firedInjection else d
      if (d.seq q).region.levels.isEmpty then
        -- R230 lists a poisoned wave's row and group, R246 the other events' slot, operands or address, and flag
        let u : TrapInfo := { t with cont := if k = 4 then t.cont.drop 1 else t.cont ++ [0] }
        takeTrap ((fire d).modSeq q stepCycle) q u
      -- calls issued since the rbegin run to their end first (R241, step 2): the bundle meets its event again
      else if (d.seq q).mx.busy then held q d
        -- what was due at the event bundle's start has landed (R71, the example of R242)
      else afterRollback q (rollback q pc k t 5 false (landDue q (fire d)))
  { s with dev := d', base := {}, issue := none }

/-! ### Requests at safe points (R24, R370, R392) -/

/-- Whether every slot of a safe bundle has completed, its writes landed (R24): its memory operations have their places and their data,
its entries have come and gone, and its matrix unit and bead array are at rest. -/
def slotsComplete (d : Dev) (q : Nat) : Bool :=
  let s := d.seq q
  s.ord.isEmpty && s.side.isEmpty && s.far.isEmpty && !starved d q && !s.mx.busy && s.mx.fault.isNone && s.mx.epq.isEmpty
    && decide (s.bead.st = .idle)
    && s.cols.toList.all fun c => c.sdq.isEmpty && c.ldq.isEmpty && c.fill.isEmpty && decide (c.laq = 0) && decide (c.sdAsg ≤ c.sdRes)

/-- Whether the slots of a safe bundle can still complete while no bundle issues (log 71): no entry waits for a pop or for data, no wave
for a capture, no call for a tile that nothing frees. -/
def canComplete (d : Dev) (q : Nat) : Bool :=
  let s := d.seq q
  s.mx.fault.isNone && !starved d q && decide (s.bead.st = .idle) && (headDry d q).isNone
    && (s.ord.all fun o => match o.op with | .stream t => !o.op.isStore || served s t | _ => true)
    && (s.cols.toList.all fun c => c.ldq.isEmpty && c.fill.isEmpty && decide (c.laq = 0) && decide (c.sdAsg ≤ c.sdRes)
          && c.sdq.all fun e => decide (e.idx < c.sdAsg))
    && (s.mx.epq.isEmpty || decide (0 < s.mx.np) || s.mx.busy)
    && !(s.mx.busy && s.mx.epq.isEmpty && decide (viewCount (vget s.regs.views 3 0) ≤ s.mx.np))

/-- The sequencer takes the requests that wait at a safe point, once the bundle's own writes have landed as if empty bundles were issued
(R24): a pre-emption leaves it ready to be saved, a park leaves it parked, a debugger's stop writes a record. An owed foreign-write
trap gives way to them (R391). The cause of a stop's record is a free value: the spec names none (log 4). -/
def takeRequests (d : Dev) (q entry : Nat) : Dev :=
  let e := landAll q 32 d
  let s := e.seq q
  let due (s : Seq) : Seq := { s with sp := some entry, safeDue := none, foreignDue := s.foreignDue || decide (s.owedForeign ≠ 0) }
  if s.reqs.contains .preempt then e.setSeq q (due { s with reqs := s.reqs.filter (· ≠ .preempt), run := .saved })
  else
    let e := e.setSeq q (due { s with reqs := [], run := .parked })
    if s.reqs.contains .stop && s.owner then
      let (x, e) := e.draw
      takeTrap e q ({ cause := x % 65536, after := true } : TrapInfo)
    else e

/-- A safe bundle with requests has issued: they are taken now, or when its slots have completed (R24). -/
def atSafe (d : Dev) (q entry : Nat) : Dev :=
  if slotsComplete (landAll q 32 d) q then takeRequests d q entry else d.modSeq q fun s => { s with safeDue := some entry }

/-! ### The bundle's end -/

/-- Where control goes when a bundle has no transfer of its own: the next bundle, bundle 0 of NEXT, or nowhere (R78). -/
def fallThrough (h : Half) (pc : Pc) : Option Pc :=
  if pc.idx + 1 < h.bundles.length then some { pc with idx := pc.idx + 1 }
  else if h.next ≠ 0 then some { seg := h.next } else none

/-- The queue that a released operation takes a place of (R114, R128, R181). -/
def countOp (s : Seq) (o : OrdOp) : Seq :=
  match o.op with
  | .stream t => if o.op.isStore then s.modCol t.col fun c => { c with saq := c.saq + 1 } else s
  | .atom a => s.modCol a.col fun c => { c with laq := c.laq + 1 }
  | .epi e _ => s.modCol e.col fun c => { c with saq := c.saq + 1 }
  | _ => s

/-- An operation enters the sequencer's order after all that is there, and an epilogue command its epilogue too (R114, R181). -/
def enterOrder (s : Seq) (op : MOp) : Seq :=
  let s := match op with
    | .epi e r => { s with mx := { s.mx with epq := s.mx.epq ++ [.epi e r] } }
    | .rfree _ => { s with mx := { s.mx with epq := s.mx.epq ++ [.rfree] } }
    | _ => s
  match op with
  | .rfree _ => s
  | op => { s with ord := s.ord ++ [{ id := s.opCtr, op := op }], opCtr := s.opCtr + 1 }

/-- The region ends: its deferred operations enter the sequencer's order at the rend's slot, in issue order, after what lower slots have
ordered and before what higher slots will (R236, R238, R270). No further bundle issues before they have their places. -/
def releaseOps (s : Seq) : Seq :=
  let x := s.region.deferred.foldl (fun s o => enterOrder (countOp s o) o.op) s
  { x with region := { rend := some x.opCtr } }

/-- Whether an outermost rend waits for the places of what it has released (R236). -/
def rendWaits (s : Seq) : Bool :=
  match s.region.rend with
  | some n => (s.ord ++ s.side).any fun o => decide (o.id < n)
  | none => false

/-- Two owed watchpoint traps as one (R390). -/
def joinWatch : Option (Nat × Nat) → Option (Nat × Nat) → Option (Nat × Nat)
  | none, y => y
  | x, none => x
  | some (m, a), some (k, b) => some (m ||| k, min a b)

/-- What follows the last slot of a bundle: all of it takes effect, or its transfer fails before it (R76, R78). PC stays on a nop n until
its last bundle has issued (R92). A trap after a bundle that no bundle follows leaves PC on it (log 71); a watchpoint trap that a bkpt or trap of the bundle precedes stays owed and is
taken before the next bundle. An endl whose first lies beyond its segment falls through the last bundle (log 71). -/
def finish (s : State) (iss : Issue) : State :=
  let d := s.dev
  let q := iss.q
  let x := d.seq q
  let h := x.half.getD { seg := 0, next := 0, spidx := 0, hb := false, jt := false, jtAddr := 0, bundles := [] }
  let target : Option Pc := match iss.next with
    | some p => if p.seg = h.seg && h.bundles.length ≤ p.idx then fallThrough h { p with idx := h.bundles.length - 1 } else some p
    | none => fallThrough h iss.pc
  -- the half that will execute, unless the segment is bad or not expanded
  let place : Except Abort Seq :=
    if iss.halt || 1 < iss.nop then .ok x
    else match target with
      | none => .ok { x with falloff := true }
      | some p =>
        if p.seg = h.seg then .ok { x with pc := p }
        else match x.other with
          | some o =>
            if o.seg ≠ p.seg then .error (.expand p.seg)
            else if o.bad then .error (.trap (slotTrap .badSegment iss.nslot))
            else .ok { x with pc := p, half := some o, other := x.half }
          | none => .error (.expand p.seg)
  match place with
  | .error (.trap t) =>
    let s := { s with base := s.base.modSeq q fun x => { x with other := none } }
    endBundle s q (.trap t)
  | .error a => endBundle s q a
  | .ok x0 =>
    let x : Seq := { issued x0 with nopLeft := iss.nop - 1, want := none, woke := none, waitOn := none, pld := [], checks := [] }
    let x := iss.block.foldl (fun (x : Seq) e =>
      let x := x.putSpace e.1 (e.2.1.map fun b => (b, true))
      { x with regs := { x.regs with cursor := e.2.2.zipIdx.foldl (fun v c => vset v c.2 (BitVec.ofNat 64 c.1)) x.regs.cursor } }) x
    let x := if iss.halt then { x with halted := true, regs := { x.regs with loops := [] } } else x
    let d := d.setSeq q x
    let s := { s with issue := none, base := {} }
    let fell := x.falloff
    let entry := h.spidx + ((iss.safe.map (·.2)).getD 0)
    let done (t : TrapInfo) : State :=
      let u : TrapInfo := { t with after := true, falloff := fell }
      { s with dev := takeTrap (d.modSeq q fun x => { x with stepMode := false }) q u }
    -- a halt without such a trap ends the sequencer now, one with it once the trap is replayed
    let rest : State :=
      if iss.halt then { s with dev := landAll q 32 (d.modSeq q fun x => { x with run := .halting }) }
      else if iss.safe.isSome then
        if !x.reqs.isEmpty then { s with dev := atSafe d q entry }
        else if x.owedForeign ≠ 0 then
          let u : TrapInfo := { cause := Cause.foreignWrite.code, cont := [x.owedForeign], after := true, falloff := fell }
          { s with dev := takeTrap (d.modSeq q fun x => { x with owedForeign := 0 }) q u }
        else { s with dev := d }
      else { s with dev := d }
    match iss.after, iss.watch with
    | some t, w => let r := done t; { r with dev := r.dev.modSeq q fun x => { x with owedWatch := joinWatch x.owedWatch w } }
    | none, some (mask, a) => done { cause := Cause.watchpoint.code, cont := [mask, a] }
    | none, none =>
      if x.stepMode then
        let r := if iss.halt then { s with dev := d } else rest
        let run := (r.dev.seq q).run
        -- a request took effect: the step's trap follows when the sequencer runs again
        if run ≠ .running then { r with dev := r.dev.modSeq q fun x => { x with stepMode := false, stepDue := decide (run = .saved) || decide (run = .parked) } }
        else done { cause := Cause.singleStep.code, cont := if 1 < iss.nop then [iss.nop - 1] else [] }
      else rest

/-- After a slot: the next one, or the bundle's end. -/
def nextSlot (s : State) (iss : Issue) : State :=
  let iss := { iss with rest := iss.rest.drop 1 }
  if iss.rest.isEmpty then finish s iss else { s with issue := some iss }

/-- A slot instruction runs: its meaning on the device and the bundle in progress (R84: no slot of a bundle takes effect
when one of them ends it). -/
def runSlot (f : SlotM Unit) (s : State) : Out :=
  match s.issue with
  | none => .fault .noBundle
  | some iss =>
    match f { dev := s.dev, iss := iss, base := s.base } with
    | .ok (_, x) => .next (nextSlot { s with dev := x.dev } x.iss)
    | .error a => .next (endBundle s iss.q a)

/-! ### Steps that no word encodes -/

/-- A step of the device that is not a slot: what it does where it can happen; elsewhere nothing happens (log 1). -/
def runEvent (s : State) (f : Turn → Dev → Option Dev) : Out := .next { s with dev := (f s.turn s.dev).getD s.dev }

/-- Whether a sequencer's matrix unit, gather, epilogue and bead wave run: not while a trap waits (R386). -/
def unitsRun (d : Dev) (q : Nat) : Bool := (d.seq q).trap.isNone

/-! ### Issue -/

/-- The executing half for the sequencer's pc, with the halves swapped where the segment lies in the other one (R78). -/
def bring (x : Seq) : Except Abort Seq :=
  match x.half with
  | some h =>
    if h.seg = x.pc.seg then .ok x
    else match x.other with
      | some o => if o.seg = x.pc.seg then (if o.bad then .error (.trap { cause := Cause.badSegment.code }) else .ok { x with half := some o, other := x.half })
                  else .error (.expand x.pc.seg)
      | none => .error (.expand x.pc.seg)
  | none =>
    match x.other with
    | some o => if o.seg = x.pc.seg then (if o.bad then .error (.trap { cause := Cause.badSegment.code }) else .ok { x with half := some o, other := none })
                else .error (.expand x.pc.seg)
    | none => .error (.expand x.pc.seg)

/-- One of the further bundles of a nop n; the last ends as any bundle does (R92). -/
def nopBundle (q : Nat) (s : State) : State :=
  let d := landDue q s.dev
  let x := d.seq q
  finish { s with base := s.dev, dev := d } { q := q, rest := [], pc := x.pc, nop := x.nopLeft }

/-- Whether a leader's switch of firmware slots is under way: the fsw bundle is its last (R400). -/
def switching (d : Dev) (q : Nat) : Bool :=
  (d.seq q).place.control &&
    (((d.seq q).pend.any fun w => w.tgt = .sysreg 0x63) || (match d.fw.pendFsw with | some (p, _) => decide (p = q) | none => false))

/-- A sequencer issues its next bundle, as far as the first slot (R71, R78, R84, R184). -/
def issueBundle (q : Nat) (s : State) : State :=
  let d := s.dev
  let x := d.seq q
  let waits (y : Seq) : Seq := { y with regs := { y.regs with cyc := y.regs.cyc + 1 } }
  let e := landAll q 32 d
  -- a parked sequencer without a trap of its own is resident: its wave runs on (R222)
  if x.run = .parked && x.trap.isNone then { s with dev := d.modSeq q cycle }
  -- so is one whose trap waits, and its cycles count (R72, R109)
  else if x.run = .trapped || x.run = .stopped || x.run = .parked || x.run = .saved then { s with dev := d.modSeq q waits }
  else if x.run ≠ .running || s.issue.isSome || switching d q then s
  else if x.stepDue then
    { s with dev := if x.owner then takeTrap (d.modSeq q fun y => { y with stepDue := false }) q { cause := Cause.singleStep.code, after := true, falloff := x.falloff }
                    else d.modSeq q fun y => { y with stepDue := false } }
  else if x.safeDue.isSome && !x.reqs.isEmpty && slotsComplete e q then
    { s with dev := (takeRequests d q (x.safeDue.getD 0)).modSeq q fun y => { y with stepMode := false, stepDue := y.stepMode && decide (y.run ≠ .stopped) } }
  else if x.safeDue.isSome && !x.reqs.isEmpty && canComplete e q then { s with dev := held q d }
  else if x.safeDue.isSome then { s with dev := d.modSeq q fun y => { y with safeDue := none } }
  else if rendWaits x then { s with dev := held q d }
  else if x.foreignDue && x.owedForeign ≠ 0 then
    { s with dev := takeTrap (d.modSeq q fun y => { stepCycle y with foreignDue := false, owedForeign := 0 }) q
               { cause := Cause.foreignWrite.code, cont := [x.owedForeign], after := true, falloff := x.falloff } }
  else if let some (mask, a) := x.owedWatch then
    { s with dev := takeTrap (d.modSeq q fun y => { stepCycle y with owedWatch := none }) q
               { cause := Cause.watchpoint.code, cont := [mask, a], after := true, falloff := x.falloff } }
  else if let some t := x.mx.fault then
    endBundle { s with base := d.modSeq q fun x => { x with mx := { x.mx with fault := none } } } q (.trap { t with falloff := x.falloff })
  else if x.halted then { s with dev := landAll q 32 (d.modSeq q fun x => { x with run := .halting, stepMode := false }) }
  else if 0 < x.nopLeft then nopBundle q s
  else if x.falloff then
    { s with dev := takeTrap (d.modSeq q stepCycle) q { cause := Cause.endOfChain.code, falloff := true } }
  else
    let s := { s with base := d }
    match bring x with
    | .error (.trap t) => endBundle { s with base := d.modSeq q fun x => { x with other := none } } q (.trap t)
    | .error a => endBundle s q a
    | .ok y =>
      let d0 := d.setSeq q y
      let s := { s with base := d0 }
      match (y.half.map (·.bundles)).bind fun l => l[y.pc.idx]? with
      | none => endBundle s q (.trap { cause := Cause.badTarget.code, cont := [y.pc.ptr] })
      | some b =>
        let d1 := landDue q d0
        match checkBundle (d1.seq q) b with
        | .error t => endBundle s q (.trap t)
        | .ok is =>
          let safe := is.find? fun e => match e.2 with | .safe _ => true | .hopt _ => true | _ => false
          match (match safe with | some e => safeGate d1 q e.1 | none => .ok ()) with
          | .error a => endBundle s q a
          | .ok _ =>
            match interlocks d0 q is with
            | .error a => endBundle s q a
            | .ok _ =>
              let iss : Issue := { q := q, rest := b, pc := y.pc, retry := y.region.retrying, pld := y.pld.length }
              let d1 := d1.modSeq q fun x => { x with region := { x.region with retrying := false } }
              if b.isEmpty then finish { s with dev := d1 } iss else { s with dev := d1, issue := some iss }

end Sys2Proof.Machine
end

