-- ==== Sys2Proof/Machine/Access.lean ====
section
/-! DEFINITION. Elements of streams and atomics as they take their places in the single order (R112 to R128, R136, R243, R245,
R249 to R251, R258, R263, R264, R267). -/

namespace Sys2Proof.Machine

/-! ### Fault injection (R245) -/

/-- A qualifying event of dinj: whether it is injected, and the sequencer after it. -/
def dinjEvent (s : Seq) (types : List Nat) : Bool × Seq :=
  let x := s.regs.dinj.toNat
  if bit x 4 && types.contains (bits x 0 4) then
    if bits x 48 16 ≠ 0 then
      (false, { s with regs := { s.regs with dinj := BitVec.ofNat 64 (setBits x 48 16 (bits x 48 16 - 1)) } })
    else (true, { s with regs := { s.regs with dinj := BitVec.ofNat 64 (setBits x 4 1 0), dfir := s.regs.dfir + 1 } })
  else (false, s)

/-! ### Load elements -/

/-- Changes the load entry with a number. -/
def modEnt (q c ent : Nat) (f : LdEnt → LdEnt) (d : Dev) : Dev :=
  d.modSeq q fun s => s.modCol c fun x => { x with fill := x.fill.map fun e => if e.id = ent then f e else e }

/-- A new entry of a column for n elements. -/
def newEnt (q c n : Nat) (s : Strm) (last : Bool) (d : Dev) : Dev :=
  d.modSeq q fun x =>
    let e : LdEnt := { id := x.entCtr, elems := n, rp := s.rp, pk := s.pk, level := x.region.levels.length, last := last }
    { x.modCol c fun y => { y with fill := y.fill ++ [e] } with entCtr := x.entCtr + 1 }

/-- A load element returned as zero for non-residency: counted in rmc, its page in rmv (R117, R136). -/
def missElem (va : Nat) (s : Seq) : Seq :=
  { s with regs := { s.regs with rmc := if s.regs.rmc = BitVec.allOnes 64 then s.regs.rmc else s.regs.rmc + 1,
                                 rmv := BitVec.ofNat 64 (bits va 14 42 * 16384 + 1) } }

/-- The element of an entry is resident (R118). -/
def markRes (k : Nat) (e : LdEnt) : LdEnt := { e with res := e.res ||| BitVec.ofNat 32 (2 ^ k) }

/-- A qualifying element of a load may have its entry marked by an injection (R245). -/
def inject (q c ent va : Nat) (d : Dev) : Dev :=
  let ty := bits (d.seq q).regs.dinj.toNat 0 4
  let (hit, s) := dinjEvent (d.seq q) [2, 3]
  let d := d.setSeq q s
  if !hit then d
  else modEnt q c ent (fun e => if ty = 2 then { e with poison := e.poison.or (some va) } else { e with l1unc := e.l1unc.or (some va) }) d

/-- A load that meets an uncorrectable error of its line in the sequencer's L1: the entry is marked, the L1 copy is dropped, and a dirty
line goes to memory with its bytes poisoned (R243). -/
def meetL1 (q c ent va loc : Nat) (d : Dev) : Dev :=
  match (d.seq q).l1bad.find? fun e => decide (e.1 = loc / 128) with
  | none => d
  | some e =>
    let d := modEnt q c ent (fun x => { x with l1unc := x.l1unc.or (some va) }) (d.modSeq q fun s => { s with l1bad := s.l1bad.erase e })
    if e.2 then markPoison d (e.1 * 128) 128 else d

/-- A load element with data at a location takes its place (R243, R245, R250). -/
def loadAt (q c ent k va loc n : Nat) (inj : Bool) (d : Dev) : Dev :=
  let d := meetL1 q c ent va loc (modEnt q c ent (markRes k) d)
  putOut (if inj then inject q c ent va d else d) va (.load q c ent k va loc n)

/-- A load element that returns zero. -/
def loadZero (q c ent k n : Nat) (d : Dev) : Dev := fillElem q c ent k n 0 none d

/-- What a peer answers to a read of n bytes: bytes that are free, or none where it refuses, which is free too, or where no port leads to it
(R263, R264, R382, R418, log 4). -/
def askPeer (dev n : Nat) (d : Dev) : Option Bytes × Dev :=
  let up := (portTo d dev).isSome
  let (x, d) := (traffic dev d).draw
  let (l, d) := d.drawBytes n
  (if up && x % 2 = 0 then some l else none, d)

/-- A load from a peer: its value is what the peer's memory holds, or a refusal or an unreachable peer poisons the entry
(R263, R264, R382). -/
def loadPeer (dev q c ent k va n : Nat) (inj : Bool) (d : Dev) : Dev :=
  let (r, d) := askPeer dev n (modEnt q c ent (markRes k) d)
  match r with
  | some l => fillElem q c ent k n (leNat l) none (if inj then inject q c ent va d else d)
  | none => fillElem q c ent k n 0 (some va) d

/-- An access that the answer "not mapped" has been given to is over: the next one asks again (R375). -/
def askAgain (q va : Nat) (d : Dev) : Dev :=
  { d with mmu := { d.mmu with tlb := d.mmu.tlb.filter fun e =>
      !(decide (e.die = dieOf q) && e.covers (d.seq q).place.ten (va / 16384) && decide (e.res = .unmapped)) } }

/-- A load element that reads memory: resident, non-resident, at a peer, or still waiting for its translation (R117, R376). -/
def loadMem (q c ent k va n : Nat) (inj : Bool) (d : Dev) : Option Dev :=
  match accessWay d q va with
  | .here loc true _ => some (loadAt q c ent k va loc n inj d)
  | .peer dev _ _ true _ => some (loadPeer dev q c ent k va n inj d)
  | .miss => none
  | _ => some (loadZero q c ent k n (askAgain q va (d.modSeq q (missElem va))))

/-- An element of a ld.cnt stream at an address: it goes on with the visit of the element before it, whose data it reads even where the
unit has been filled anew (R258), or visits the unit there and takes one from its count, which an open region logs, or over-reads,
or meets a non-resident page (R117, R124, R125, R241). The stream comes back with the unit that it visits. -/
def loadCounted (q c ent k va n : Nat) (t : Strm) (d : Dev) : Option (Strm × Dev) :=
  if t.next ≠ 0 && t.unit ≠ 0 && t.ubase ≤ va && va < t.ubase + t.usize then
    some (t, loadAt q c ent k va (unitLoc t.unit + (va - t.ubase)) n true d)
  else match unitAt d q va with
    | some u =>
      let d := modUnits d q va fun l => l.map fun x => if x.id = u.id then { x with count := x.count - 1 } else x
      let lv := (d.seq q).region.levels.length
      let d := if lv = 0 then d else d.modSeq q fun s => { s with region := { s.region with decs := s.region.decs ++ [(lv, u.id)] } }
      some ({ t with unit := u.id, ubase := u.va, usize := u.size }, loadAt q c ent k va (unitLoc u.id + (va - u.va)) n true d)
    | none =>
      let marked : Dev := modEnt q c ent (fun e => { markRes k e with overRead := e.overRead.or (some va) }) (loadZero q c ent k n d)
      match seqWay d q va with
      | .here _ true _ => some ({ t with unit := 0 }, marked)
      | .peer _ _ _ true _ => some ({ t with unit := 0 }, marked)
      | .miss => none
      | _ => some ({ t with unit := 0 }, loadZero q c ent k n (askAgain q va (d.modSeq q (missElem va))))

/-- The head of a sequencer's order has done its work. -/
def popHead (q : Nat) (d : Dev) : Dev := d.modSeq q fun s => { s with ord := s.ord.drop 1, missWait := false }

/-- The stream at the head of a sequencer's order. -/
def putHead (q : Nat) (t : Strm) (d : Dev) : Dev :=
  d.modSeq q fun s => { s with ord := match s.ord with
    | o :: l => { o with op := .stream t, waits := false } :: l
    | [] => [] }

/-- The stream goes on to its next element, or has ended. -/
def nextElem (q : Nat) (t : Strm) (d : Dev) : Dev :=
  if t.next + 1 < t.cnt then putHead q { t with next := t.next + 1 } d
  else
    let d := popHead q d
    match t.kind with
    | .ld | .ldCnt | .ldFe | .ldFec => d
    | _ => d.modSeq q fun s => s.modCol t.col fun c => { c with saq := c.saq - 1 }

/-- The head of the order waits (R251). -/
def waitHead (q : Nat) (d : Dev) : Dev :=
  d.modSeq q fun s => { s with ord := match s.ord with
    | o :: l => { o with waits := true } :: l
    | [] => [] }

/-- Full/empty state of an element's granules as a load or store of its kind needs it (R126). -/
def feReady (d : Dev) (q va n : Nat) (k : StrKind) : Bool :=
  let s := d.seq q
  let c := lclOf d s.place.launch s.place.lcl
  match k with
  | .ldFe | .ldFec => granulesFull c va n
  | .stFf => !granulesSome c va n
  | _ => true

/-- Sets the granules of an element of a sequencer's cluster. -/
def feSet (q va n : Nat) (full : Bool) (d : Dev) : Dev :=
  let s := d.seq q
  modLcl d s.place.launch s.place.lcl (setGranules full va n)

/-- The next load element of the stream at the head of a sequencer's order takes its place; none when it has to wait. -/
def loadElem (q : Nat) (t : Strm) (d : Dev) : Option Dev :=
  let va := t.addr t.next
  let k := t.next % t.per
  let d1 := if k = 0 then newEnt q t.col (min t.per (t.cnt - t.next)) t (decide (t.cnt ≤ t.next + t.per)) d else d
  let ent := (d1.seq q).entCtr - 1
  match t.kind with
  | .ldCnt => (loadCounted q t.col ent k va t.esz t d1).map fun r => nextElem q r.1 r.2
  | .ldFe =>
    match seqWay d q va with
    | .here _ true _ => if feReady d q va t.esz .ldFe then (loadMem q t.col ent k va t.esz true d1).map (nextElem q t) else none
    | _ => (loadMem q t.col ent k va t.esz false d1).map (nextElem q t)
  | .ldFec =>
    match seqWay d q va with
    | .here _ true _ =>
      if feReady d q va t.esz .ldFec then (loadMem q t.col ent k va t.esz false d1).map fun d => nextElem q t (feSet q va t.esz false d) else none
    | _ => (loadMem q t.col ent k va t.esz false d1).map (nextElem q t)
  | _ => (loadMem q t.col ent k va t.esz true d1).map (nextElem q t)

/-! ### Store elements -/

/-- A store or atomic on a non-resident page: it waits and raises store-miss to the action table (R121). -/
def storeMissed (q c va : Nat) (d : Dev) : Dev :=
  holdItem (4096 + q) (waitHead q (d.modSeq q fun s => { s with storeMiss := some (alignDown va 16384, c), missWait := true,
                                                                missAct := actionEntry d s.place.ten Cause.storeMiss.code }))

/-- A write leaves a sequencer for a peer: its bytes may follow, and its acknowledgement is awaited (R130, R263, R264). -/
def toPeer (q : Nat) (o : PeerOut) (d : Dev) : Dev :=
  sendOut { o with agent := q } (d.modSeq q fun s => { s with unacked := s.unacked + 1 })

/-- Lines that a sequencer may hold counted (R19, R125). -/
def lineLimit (s : Seq) : Nat := 1536 * s.ncols

/-- A counted fill takes a unit, with the stream's count: a count above zero that it replaces is an under-read; bytes that the fill
leaves disabled hold free values (R124, log 4). -/
def fillUnit (q va rc : Nat) (d : Dev) : Dev :=
  let size := if inStash d q va 1 then 256 else 128
  let base := alignDown va size
  let s := d.seq q
  let us := if inStash d q va 1 then (lclOf d s.place.launch s.place.lcl).blocks else s.lines
  let d := if us.any fun u => decide (u.va = base) && decide (0 < u.count) then underRead d q true else d
  let id := d.nextUnit
  let (l, d) := { d with nextUnit := id + 1 }.drawBytes size
  let d := placeBytes d q (unitLoc id) l
  modUnits d q va fun us => (us.filter fun u => decide (u.va ≠ base)) ++ [{ id := id, va := base, size := size, count := rc, back := (seqWay d q base).loc? base }]

/-- The element's entry is used up when its last element has its place (R68). -/
def useEntry (q : Nat) (t : Strm) (d : Dev) : Dev :=
  let e := t.ent0 + t.next / t.per
  if (t.next + 1) % t.per = 0 || t.cnt ≤ t.next + 1 then
    d.modSeq q fun s => trimCol (s.modCol t.col fun c => { c with sdUsed := max c.sdUsed (e + 1) }) t.col
  else d

/-- A store element takes its place on a location: its data may land later (R114, R250). -/
def storeAt (q : Nat) (t : Strm) (loc : Nat) (d : Dev) : Dev :=
  let e := t.ent0 + t.next / t.per
  let off := t.next % t.per * t.esz
  useEntry q t (putOut d (t.addr t.next) (.store q t.col e off t.next loc t.esz (entryData (d.seq q) t.col e)))

/-- n successive elements of a stream take their places from a location on. -/
def storeRun (q : Nat) : Nat → Strm → Nat → Dev → Dev
  | 0, _, _, d => d
  | n + 1, t, loc, d => storeRun q n { t with next := t.next + 1 } (loc + t.esz) (storeAt q t loc d)

/-- A store element that writes memory, or a counted unit in scope: none while its translation is outstanding; a non-resident page
raises store-miss (R121, R376). An element for a peer leaves whether or not its data are there (R114, R263). -/
def storeMem (q : Nat) (t : Strm) (va : Nat) (d : Dev) : Option Dev :=
  match accessWay d q va with
  | .here loc _ true => some (nextElem q t (storeAt q t loc d))
  | .peer dev ten a _ true =>
    let e := t.ent0 + t.next / t.per
    let off := t.next % t.per * t.esz
    let o : PeerOut := { dev := dev, agent := q, ten := ten, addr := a, n := t.esz, entry := some (t.col, e, off), elem := t.next,
                         data := (entryData (d.seq q) t.col e).map fun x => storeBytes off t.esz x.1 x.2 }
    some (nextElem q t (useEntry q t (toPeer q o d)))
  | .miss => none
  | _ => some (storeMissed q t.col va d)

/-- Whether the L1 has no room for one more counted line at an address (R19, R125). -/
def linesFull (d : Dev) (q va : Nat) : Bool :=
  !inStash d q va 1
    && decide (lineLimit (d.seq q) ≤ ((d.seq q).lines.filter fun u => decide (0 < u.count) && decide (u.va ≠ alignDown va 128)).length)

/-- A st.cf stream fills the unit that its next element begins, whole and at one place (R124, R258). -/
def fillNext (q : Nat) (t : Strm) (d : Dev) : Option (Strm × Dev) :=
  let va := t.addr t.next
  let n := (if inStash d q va 1 then 256 else 128) / t.esz
  let d := fillUnit q va t.rc d
  match accessWay d q va with
  | .here loc _ _ => some ({ t with next := t.next + (n - 1) }, storeRun q n t loc d)
  | _ => none

/-- The next store element of the stream at the head of a sequencer's order takes its place; none when it has to wait. A st.cf that finds
no room for its line stands aside: it alone waits (R125). As any store it waits for its page (R121, R376). -/
def storeElem (q : Nat) (t : Strm) (d : Dev) : Option Dev :=
  let va := t.addr t.next
  match t.kind with
  | .stCf =>
    let fill : Option Dev :=
      if linesFull d q va then some (popHead q (d.modSeq q fun s => { s with side := s.side ++ (s.ord.take 1) }))
      else (fillNext q t d).map fun r => nextElem q r.1 r.2
    match seqWay d q va with
    | .here _ _ true => fill
    | .peer _ _ _ _ true => fill
    | .miss => none
    | _ => some (storeMissed q t.col va d)
  | .stFf =>
    match seqWay d q va with
    | .here _ _ true => if feReady d q va t.esz .stFf then (storeMem q t va d).map (feSet q va t.esz true) else none
    | _ => storeMem q t va d
  | .stFs =>
    match seqWay d q va with
    | .here _ _ true => (storeMem q t va d).map (feSet q va t.esz true)
    | _ => storeMem q t va d
  | _ => storeMem q t va d

/-- The first st.cf stream that stands aside comes back to the head of the order where a counted line has been given up (R125), unless the
head waits for its page or granule. -/
def sideStep (q : Nat) (d : Dev) : Option Dev :=
  let s := d.seq q
  match s.side with
  | [] => none
  | o :: l =>
    let full := match o.op with | .stream t => linesFull d q (t.addr t.next) | _ => false
    if full || s.missWait || s.ord.head?.any (·.waits) then none
    else some (d.setSeq q { s with side := l, ord := o :: s.ord })

/-- Whether bytes are those of a line that a st.cf standing aside has still to fill: an access to them has its place after it (R114, R125). -/
def awaitsSide (s : Seq) (l : List (Nat × Nat)) : Bool :=
  s.side.any fun o =>
    match o.op with
    | .stream t => l.any fun a => overlap (alignDown a.1 128) (a.1 % 128 + a.2) (t.addr t.next) ((t.cnt - t.next) * t.esz)
    | _ => false

/-! ### Atomics (R127, R128) -/

/-- An atomic without a returned value leaves the load-address queue when it has its place (R128). -/
def leaveQueue (q : Nat) (a : Atom) (d : Dev) : Dev :=
  if a.ret then d else d.modSeq q fun s => s.modCol a.col fun c => { c with laq := c.laq - 1 }

/-- The atomic at the head of a sequencer's order takes its place as one indivisible read and write; none when it waits. A .sy atomic
waits until earlier accesses to the host and to peers have performed (R265, R135). -/
def atomPerform (q : Nat) (a : Atom) (d : Dev) : Option Dev :=
  let n := if a.wide then 8 else 4
  let t : Strm := { kind := .ld, col := a.col, base := a.addr, stride := 0, esz := n, cnt := 1, pk := false }
  let ready (d : Dev) : Dev := if a.ret then newEnt q a.col 1 t true d else d
  let ent (d : Dev) : Nat := (d.seq q).entCtr - 1
  if a.sc = 2 && (!(d.seq q).far.isEmpty || decide ((d.seq q).unacked ≠ 0)) then none
  else match accessWay d q a.addr with
    | .here loc true true =>
      let d := leaveQueue q a (popHead q (ready d))
      let p : Placed := .rmw q a.col (ent d) a.addr a.ret a.op loc n a.y a.y2
      let d := if a.sc = 2 then perform d p else putOut d a.addr p
      some (if a.ret then modEnt q a.col (ent d) (markRes 0) d else d)
    | .peer dev ten x true true =>
      let d := leaveQueue q a (popHead q (ready (toPeer q { dev := dev, agent := q, ten := ten, addr := x, n := n, data := some [] } d)))
      some (if a.ret then loadPeer dev q a.col (ent d) 0 a.addr n false d else d)
    | .miss => none
    | _ => if (d.seq q).missWait then none else some (storeMissed q a.col a.addr d)

/-- The read of an atomic of scope .cl or .dv takes a place of its own: an agent outside the scope may come between it and the write
(R128, R249). One whose bytes are not known yet, or lie at the host, stays whole (log 20). -/
def atomRead (q : Nat) (a : Atom) (d : Dev) : Option Dev :=
  let n := if a.wide then 8 else 4
  let t : Strm := { kind := .ld, col := a.col, base := a.addr, stride := 0, esz := n, cnt := 1, pk := false }
  if 2 ≤ a.sc || a.half then none
  else match accessWay d q a.addr with
    | .here loc true true =>
      if goesFar d q a.addr loc then none
      else match loadBytes d q loc n with
        | (none, _) => none
        | (some r, d) =>
          let b := plain r
          let psn := anyBad r
          let d := touch (leaveQueue q a (if a.ret then newEnt q a.col 1 t true d else d)) loc
          let e := (d.seq q).entCtr - 1
          let d := if a.ret then fillElem q a.col e 0 n (leNat b) (if psn then some a.addr else none) (modEnt q a.col e (markRes 0) d) else d
          let x : Split := { own := q, sc := a.sc, loc := loc, n := n, val := atomNew a.op n (leNat b) a.y a.y2 }
          some { d.modSeq q fun s => { s with ord := match s.ord with
            | o :: l => { o with op := .atom { a with half := true } } :: l
            | [] => [] } with splits := d.splits ++ [x] }
    | _ => none

/-- The write of an atomic whose read has its place (R128, R249). -/
def atomWrite (q : Nat) (d : Dev) : Option Dev := (d.splits.find? fun x => decide (x.own = q)).map (closeSplit d)

end Sys2Proof.Machine
end

