-- ==== Sys2Proof/Machine/Perform.lean ====
section
/-! DEFINITION. The other operations of a sequencer's order at their places: barrier objects, stash maps, counters, fences
(R123, R130, R132, R134, R189, R190, R193), and how an order goes forward. -/

namespace Sys2Proof.Machine

/-! ### Barrier objects (R189, R190) -/

/-- The words that binit writes (R193). -/
def initWords (v : Nat) : Nat × Nat := (bits v 32 32 * 2 ^ 32, bits v 0 16 * 2 ^ 32 + bits v 0 16 * 2 ^ 16)

/-- An arrival at a tenant's address, as one indivisible read and write; address 0 is no barrier, an object that leads nowhere receives
nothing, and one whose page is not there holds the arrival. -/
def arrive (own die ten va b c : Nat) (f : BitVec 6) (d : Dev) : Option Dev :=
  if va = 0 then some d
  else match translate d die ten va with
    | .here loc _ _ => some (perform d (.arrive own loc b c f))
    | .miss => none
    | .absent .. => none
    | _ => some d

/-- The page of a held arrival's object is asked for (R378). -/
def arriveRequest (die ten va : Nat) (d : Dev) : Option Dev :=
  match translate d die ten va with
  | .absent .. => some (requestPage d ten va true)
  | _ => none

/-- The arrival of a matrix call: zero bytes and its code (R165). It joins after every operation that the sequencer ordered before the
mcall has its place (R268). -/
def callArrive (q : Nat) (c : Call) (code : Nat) (d : Dev) : Option Dev :=
  let s := d.seq q
  if c.bar = 0 then some d
  else if s.ord.any fun o => decide (o.id < c.fork) then none
  else arrive q (dieOf q) s.place.ten c.bar 0 code 0 d

/-! ### Stash maps (R132) -/

/-- The counted blocks of a range go; those with a count are under-reads of the issuer (R124, R132). -/
def dropBlocks (q va len : Nat) (d : Dev) : Dev :=
  let s := d.seq q
  let c := lclOf d s.place.launch s.place.lcl
  let n := (c.blocks.filter fun u => overlap u.va u.size va len && decide (0 < u.count)).length
  let d := (List.range n).foldl (fun d _ => underRead d q true) d
  modLcl d s.place.launch s.place.lcl fun c => { c with blocks := c.blocks.filter fun u => !overlap u.va u.size va len }

/-- smap or smape performs (R132). -/
def mapPerform (q : Nat) (empty : Bool) (k va len ofs : Nat) (d : Dev) : Dev :=
  let s := d.seq q
  if len = 0 then
    match vget (lclOf d s.place.launch s.place.lcl).maps k none with
    | none => d
    | some e =>
      modLcl (dropBlocks q e.va e.len d) s.place.launch s.place.lcl fun c =>
        { setGranules false e.va e.len c with maps := vset c.maps k none }
  else
    modLcl d s.place.launch s.place.lcl fun c =>
      { setGranules (!empty) va len c with maps := vset c.maps k (some { va := va, len := len, ofs := ofs }) }

/-! ### Routing counters (R133, R134) -/

/-- The physical cluster of a sequencer. -/
def clusterOf (d : Dev) (q : Nat) : Nat := (lclOf d (d.seq q).place.launch (d.seq q).place.lcl).phys

/-- cinc performs: lanes with equal indices add once each (R134). -/
def cincPerform (q : Nat) (incs : List (Nat × Nat)) (d : Dev) : Dev :=
  d.modCluster (clusterOf d q) fun c =>
    { c with counters := incs.foldl (fun v e => vset v e.1 (vget v e.1 0 + BitVec.ofNat 32 e.2)) c.counters }

/-- The 256 bytes of a counter bank (R134). -/
def counterBytes (c : Cluster) : Bytes := (c.counters.toList.map fun x => toLe 4 x.toNat).flatten

/-! ### Engine queues (R195) -/

/-- An engine's queue has room for one more command of a sequencer (R195). -/
def engineRoom (e : Engine) (q most each : Nat) : Bool :=
  let all := e.queue ++ e.running.toList
  decide (all.length < most) && decide ((all.filter fun c => decide (c.owner = q)).length < each)

/-- Engine e of a cluster: 0 and 1 copy, 2 transform. -/
def engineOf (c : Cluster) (e : Nat) : Engine := if e = 0 then c.copy0 else if e = 1 then c.copy1 else c.xform

/-- The cluster with engine e changed. -/
def setEngine (c : Cluster) (e : Nat) (x : Engine) : Cluster :=
  if e = 0 then { c with copy0 := x } else if e = 1 then { c with copy1 := x } else { c with xform := x }

/-- Whether engine e of a sequencer's cluster has room for a command of it. -/
def hasRoom (d : Dev) (q e : Nat) : Bool :=
  engineRoom (engineOf (d.cluster (clusterOf d q)) e) q (if e = 2 then 8 else 16) (if e = 2 then 2 else 4)

/-- A command forks and enters its engine's queue (R195, R196); accesses whose data are still outstanding, or that are on their way to the
host, came before it. -/
def enqueue (q e : Nat) (c : Cmd) (d : Dev) : Dev :=
  let d := if d.placed.isEmpty then d else { d with placed := d.placed ++ [.fork c.owner c.id] }
  let d := d.modSeq c.owner fun s => if s.far.isEmpty then s else { s with far := s.far ++ [.fork c.owner c.id] }
  d.modCluster (clusterOf d q) fun x => let y := engineOf x e; setEngine x e { y with queue := y.queue ++ [c] }

/-! ### An order goes forward -/

/-- A range as runs that stay inside one 128-byte line, and so inside one page, granule and counted unit, with fuel (R124, R135, R181). -/
def pieces : Nat → Nat → Nat → List (Nat × Nat)
  | 0, _, _ => []
  | k + 1, a, n =>
    if n = 0 then []
    else
      let m := min n (128 - a % 128)
      (a, m) :: pieces k (addr64 a m) (n - m)

/-- The runs of n bytes at an address. -/
def rowPieces (a n : Nat) : List (Nat × Nat) := pieces (n / 128 + 2) a n

/-- Whether a write of some runs at the head of an order may take its place: none while a translation is outstanding; a page that is not
there raises store-miss (R121). -/
def writeWays (q col : Nat) (runs : List (Nat × Nat)) (d : Dev) : Option (Except Dev (List (Nat × Nat × Way))) :=
  let ways := runs.map fun r => (r.1, r.2, accessWay d q r.1)
  if ways.any fun w => decide (w.2.2 = .miss) then none
  else match ways.find? fun w => match w.2.2 with | .here _ _ true => false | .peer _ _ _ _ true => false | _ => true with
    | some w => if (d.seq q).missWait then none else some (.error (storeMissed q col w.1 d))
    | none => some (.ok ways)

/-- Bytes that stand go where their runs lead. -/
def writeRuns (q : Nat) (psn : Bool) : List (Nat × Nat × Way) → Bytes → Dev → Dev
  | [], _, d => d
  | (va, n, w) :: l, b, d =>
    let d := match w with
      | .here loc _ _ => putOut d va (.row q loc (b.take n) psn)
      | .peer dev ten a _ _ => toPeer q { dev := dev, agent := q, ten := ten, addr := a, n := n, data := some ((b.take n).map some) } d
      | _ => d
    writeRuns q psn l (b.drop n) d

/-- A whole write of bytes at the head of the order, and whether it is made. -/
def writePerform (q col va : Nat) (l : Bytes) (d : Dev) : Option (Dev × Bool) :=
  (writeWays q col (rowPieces va l.length) d).map fun
    | .error d => (d, false)
    | .ok ws => (writeRuns q false ws l d, true)

/-- Row r of an epi takes its places: its bytes follow when its tile is converted (R181, R268). -/
def placeRow (q id r : Nat) : List (Nat × Nat × Way) → Nat → Dev → Dev
  | [], _, d => d
  | (va, n, w) :: l, off, d =>
    let d := match w with
      | .here loc _ _ => putOut d va (.epi q id r off loc n)
      | .peer dev ten a _ _ => toPeer q { dev := dev, agent := q, ten := ten, addr := a, n := n, row := some (id, r, off) } d
      | _ => d
    placeRow q id r l (off + n) d

/-- Rows and columns of an accumulator tile (R158). -/
def tileDims (s : Seq) : Nat × Nat := if s.place.mode = 0 then (32, 32) else if s.place.mode = 1 then (32, 16) else (16, 16)

/-- Bits of an element of an output format (R37, R179). -/
def Op.outBits (f : Nat) : Nat :=
  match f with
  | 0 | 14 => 64
  | 1 | 13 => 32
  | 2 | 3 | 12 => 16
  | 10 => 4
  | _ => 8

/-- The runs of row r of an epi (R181). -/
def EpiDesc.runs (s : Seq) (e : EpiDesc) (r : Nat) : List (Nat × Nat) :=
  rowPieces (addr64 e.dst ((r : Int) * e.rst)) ((tileDims s).2 * Op.outBits e.ofmt / 8)

/-- Whether writes of a sequencer to host memory wait for their data: the host has not acknowledged them (R130). -/
def hostDue (d : Dev) (q : Nat) : Bool :=
  let host (loc : Nat) : Bool := match frameOf loc with
    | some f => decide ((d.frame f).home = 3)
    | none => decide (hostLoc ≤ loc) && decide (loc < gafferLoc)
  !(d.seq q).far.isEmpty || d.placed.any fun p => p.awaits q && host p.range.2.1

/-- The operation at the head of a sequencer's order performs, if it is one that needs no step of its own and does not
wait (R130, R132, R134, R181, R190, R193). A binit inside a counted block writes the block's data, and a barr there acts on memory (the
model's choice, log 73). -/
def autoHead (q : Nat) (d : Dev) : Option Dev :=
  match (d.seq q).ord with
  | [] => none
  | o :: l =>
    match o.op with
    | .fence sy => if sy && (decide ((d.seq q).unacked ≠ 0) || hostDue d q) then none else some (popHead q d)
    | .map empty k va len ofs => some (popHead q (mapPerform q empty k va len ofs d))
    | .cinc incs => some (popHead q (cincPerform q incs d))
    | .csnap va col =>
      let c := clusterOf d q
      (writePerform q col va (counterBytes (d.cluster c)) d).map fun r =>
        if !r.2 then r.1
        -- ZLH-E1 leaves the counters (R317)
        else if (d.seq q).place.errm.getLsbD 1 then popHead q r.1
        else popHead q (r.1.modCluster c fun x => { x with counters := .replicate 64 0 })
    | .binit va exp na col =>
      let w := initWords (exp * 2 ^ 32 + na)
      (writePerform q col va (toLe 8 w.1 ++ toLe 8 w.2) d).map fun r => if r.2 then popHead q r.1 else r.1
    | .barr va b c f col =>
      match seqWay d q va with
      | .here loc _ true => some (popHead q (perform d (.arrive q loc b c f)))
      | .miss => none
      | _ => if (d.seq q).missWait then none else some (storeMissed q col va d)
    | .epi e r =>
      (writeWays q e.col (e.runs (d.seq q) r) d).map fun
        | .error d => d
        | .ok ws =>
          let d := placeRow q e.id r ws 0 d
          if (tileDims (d.seq q)).1 ≤ r + 1 then popHead q d
          else d.modSeq q fun s => { s with ord := { o with op := .epi e (r + 1) } :: l }
    | .mbarr _ bar code =>
      match code with
      | none => some (popHead q d)
      | some c => (arrive q (dieOf q) (d.seq q).place.ten bar 0 c 0 d).map (popHead q)
    | .engine e c => if hasRoom d q e then some (enqueue q e c (popHead q d)) else none
    | _ => none

/-- The bytes that the head of an order acts on next, where a counted line can hold them. -/
def headFoot (s : Seq) : List (Nat × Nat) :=
  match s.ord.head?.map OrdOp.op with
  | some (.stream t) => [(t.addr t.next, t.esz)]
  | some (.atom a) => [(a.addr, 8)]
  | some (.csnap a _) => [(a, 256)]
  | some (.epi e r) => e.runs s r
  | some (.mld id) => (s.mx.queue.findSome? fun | .mld i a _ n _ => if i = id then some [(a, 8 * n)] else none | _ => none).getD []
  | _ => []

/-! ### The reads of the matrix unit (R171, R172) -/

/-- Piece k of what a command reads takes its place: bytes of memory with their poison, a peer's, or zero where nothing is resident,
which counts as one missing element (R117, log 73). -/
def placePart (q id va n k : Nat) (w : Way) (d : Dev) : Dev :=
  match w with
  | .here loc true _ => putOut d va (.part q id k loc n)
  | .peer dev _ _ true _ =>
    let (r, d) := askPeer dev n d
    fillPart q id k (r.getD (toLe n 0)) (if r.isNone then List.range n else []) d
  | _ => fillPart q id k (toLe n 0) [] (askAgain q va (d.modSeq q (missElem va)))

/-- The addresses of an mld's words or an mgat's pieces of rows, and the bytes of each (R171, R172). -/
def MCmd.reads : MCmd → List Nat × Nat
  | .mld _ a _ n _ => ((List.range n).map fun k => a + 8 * k, 8)
  | .mgat _ _ b st rb ix _ => ((ix.map fun (k : Nat) => (List.range (rb / 32)).map fun (j : Nat) => addr64 b ((k : Int) * st + 32 * j)).flatten, 32)
  | .call _ => ([], 0)

/-- The number of a matrix-unit command. -/
def MCmd.id : MCmd → Nat
  | .mld i .. => i
  | .mgat i .. => i
  | .call c => c.id

/-- The mld or mgat at the head of the order takes the places of its reads, once all its addresses are translated (R171, R172, R247). -/
def placeReads (q : Nat) (isMld : Bool) (d : Dev) : Option Dev :=
  let go (id : Nat) : Option Dev :=
    match (d.seq q).mx.queue.find? fun c => decide (c.id = id) with
    | some c =>
      let (l, n) := c.reads
      let ways := l.map fun a => (a, accessWay d q a)
      if ways.any fun w => decide (w.2 = .miss) then none
      else some (popHead q (ways.zipIdx.foldl (fun d w => placePart q id w.1.1 n w.2 w.1.2 d) d))
    | none => some (popHead q d)
  match (d.seq q).ord.head?.map OrdOp.op with
  | some (.mld id) => if isMld then go id else none
  | some (.mgat id) => if isMld then none else go id
  | _ => none

/-- Addresses that the head of an order waits to reach. -/
def MOp.nextAddrs (s : Seq) : MOp → List Nat
  | .stream x => [x.addr x.next]
  | .atom a => [a.addr]
  | .csnap a _ => (rowPieces a 256).map (·.1)
  | .binit a .. => [a]
  | .barr a .. => [a]
  | .epi e r => (e.runs s r).map (·.1)
  | _ => []

/-- Whether the next write of a control core is one that the new image may not make before its heartbeat: outside the hand-over area and
the firmware store (R401). -/
def headForbidden (d : Dev) (q : Nat) : Bool :=
  let s := d.seq q
  let barred (va : Nat) : Bool := decide (va < hbmSize d) && !(decide (d.fw.fhsa.toNat ≤ va) && decide (va < d.fw.fhsa.toNat + 4096))
  s.place.control && d.fw.switching.isSome && d.fw.pendFhb.isNone
    && s.ord.head?.any fun o => !o.op.isLoad && (o.op.nextAddrs s).any barred

/-- Whether the head of an order comes after a counted line that has still to be filled, or is a write that is not allowed. -/
def headHeld (d : Dev) (q : Nat) : Bool := awaitsSide (d.seq q) (headFoot (d.seq q)) || headForbidden d q

/-- Operations that need no step of their own perform, as far as they reach. -/
def advance (q : Nat) : Nat → Dev → Dev
  | 0, d => d
  | n + 1, d =>
    if headHeld d q then d
    else match autoHead q d with
      | some d => advance q n d
      | none => d

/-- The head of the order as any step of its own would perform it: streams, atomics and the operations above. -/
def headStep (q : Nat) (d : Dev) : Option Dev :=
  match (d.seq q).ord with
  | [] => none
  | o :: _ =>
    if headHeld d q then none
    else match o.op with
      | .stream t => if o.op.isLoad then loadElem q t d else if o.waits then none else storeElem q t d
      | .atom a => if a.half then atomWrite q d else atomPerform q a d
      | .mld _ => placeReads q true d
      | .mgat _ => placeReads q false d
      | _ => autoHead q d

/-- Steps that an order still needs at most. -/
def ordFuel (l : List OrdOp) : Nat :=
  (l.map fun o => match o.op with | .stream t => t.cnt + 2 | .epi .. => 34 | _ => 2).sum

/-- Everything of an order takes its place that can. -/
def performAll (q : Nat) : Nat → Dev → Dev
  | 0, d => d
  | n + 1, d =>
    match headStep q d with
    | some d => performAll q n d
    | none => d

namespace Op

/-- The operation that the slot is in has its place in the order now: the bundle is held until every operation ordered
before it has taken its place (R131, R162, R194, R251). -/
def atPlace : SlotM Unit := do
  let x ← get
  holdUnless (x.base.seq x.iss.q).ord.isEmpty
  let q := x.iss.q
  modDev fun d => performAll q (ordFuel (d.seq q).ord) d
  holdUnless (← me).ord.isEmpty

/-- An operation enters the sequencer's order, or the deferral buffer of an open region (R238). -/
def order (op : MOp) : SlotM Unit := do
  let q ← sqid
  let s ← me
  let lv := s.region.levels.length
  if lv = 0 then
    modMe fun s => enterOrder s op
    modDev (advance q 64)
  else
    modMe fun s => { s with opCtr := s.opCtr + 1,
                            region := { s.region with deferred := s.region.deferred ++ [{ id := s.opCtr, level := lv, op := op }] } }

/-- An operation that even an open region performs at its issue (R238). -/
def orderNow (op : MOp) : SlotM Unit := do
  let q ← sqid
  modMe fun s => { s with ord := s.ord ++ [{ id := s.opCtr, level := s.region.levels.length, op := op }], opCtr := s.opCtr + 1 }
  modDev (advance q 64)

end Op

end Sys2Proof.Machine
end

