-- ==== Sys2Proof/Machine/System.lean ====
section
/-! DEFINITION. Major 0x0A: index bases, views and system registers (R64, R65, R108, R109, R136, R183, R182, R244, R245, R337,
R389, R397). -/

namespace Sys2Proof.Machine

/-- What R65 says of a value written to view register n: accepted, or the cause; one that breaks a row of each cause takes view-format (the
model's choice, log 82). -/
def viewCheck (s : Seq) (n : Nat) (v : Word) : Option Cause :=
  let x := v.toNat
  let esz := bits x 8 4
  let base := bits x 0 8
  let count := viewCount v
  if bits x 30 34 ≠ 0 || bits x 12 4 ≠ 0 || 8192 < count || 12 ≤ esz then some .viewFormat
  else if n = 0 && (esz ≠ 0 || base ≠ 0 || count = 0) then some .viewFormat
  else if n = 1 && esz ≠ 2 then some .viewFormat
  else if 2 ≤ n && (esz < 5 || 11 < esz) then some .viewFormat
  else if s.share < base * 256 + count * 2 ^ (esz + 3) then some .columnBound
  else none

/-- Whether the ring is idle (R182). -/
def ringIdle (s : Seq) : Bool := !s.mx.busy && s.mx.epq.isEmpty && !(s.region.deferred.any fun o => o.op.isEpi) && decide (s.mx.np = 0)

/-- rgs (R244). -/
def rgsWord (s : Seq) : Nat :=
  let ls := s.region.levels
  let used := (s.region.undo.map fun u => u.2.2.length).sum
  used * 2 ^ 48 + s.region.deferred.length % 128 * 2 ^ 40 + ls.length * 2 ^ 32
    + packLanes 4 (ls.map (·.retries)) * 2 ^ 16 + packLanes 4 (ls.map (·.limit))

/-- The value of a system register (R109 and its extensions). -/
def srRead (d : Dev) (q n : Nat) : Nat :=
  let s := d.seq q
  let p := s.place
  if n ≤ 0x0B && p.control then 0
  else match n with
    | 0x00 => p.lcl
    | 0x01 => p.lco
    | 0x02 => (2 ^ s.ncols - 1) * 2 ^ (4 + s.col0) + p.mode * 4 + p.seqNo
    | 0x03 => q / 16
    | 0x04 => q / 4
    | 0x05 => p.ncl
    | 0x06 => p.parm.toNat
    | 0x07 => p.lsn.toNat
    | 0x08 => p.ten
    | 0x09 => p.granules
    | 0x0A => s.regs.cyc.toNat
    | 0x0B => s.regs.bun.toNat
    | 0x0C => s.regs.rmc.toNat
    | 0x0D => s.regs.rmv.toNat
    | 0x0E => s.regs.cur.toNat
    | 0x0F => s.regs.hpa.toNat
    | 0x10 => s.regs.fctl.toNat
    | 0x11 => s.regs.fstat.toNat
    | 0x12 => s.regs.est.toNat
    | 0x13 => s.regs.rlc.toNat
    | 0x14 => s.mx.np * 2 ^ 16 + s.mx.tail * 2 ^ 8 + s.mx.head
    | 0x15 => packLanes 1 ((s.mx.tags.take (viewCount (vget s.regs.views 3 0))).take 64 |>.map fun t => bits t 3 1)
    | 0x16 => rgsWord s
    | 0x17 => s.regs.rbk.toNat
    | 0x40 => s.regs.dinj.toNat
    | 0x41 => s.regs.dfir.toNat
    | 0x60 => d.fw.ucnt % 2 ^ 32 * 2 ^ 32 + d.fw.chk.toNat * 4 + d.fw.rbkFlag.toNat * 2 + d.fw.act
    | 0x61 => d.fw.fhsa.toNat
    | 0x62 => d.fw.frbp.toNat
    | 0x65 => if d.fw.checking.isSome || d.fw.pendChk.isSome then 1 else 0
    | n =>
      if 0x18 ≤ n && n ≤ 0x1B then (vget s.regs.views (n - 0x18) 0).toNat
      else if 0x20 ≤ n && n ≤ 0x27 then (vget s.regs.bases (n - 0x20) 0).toNat
      else if 0x48 ≤ n && n ≤ 0x4B then (vget s.regs.wpa (n - 0x48) 0).toNat
      else if 0x4C ≤ n && n ≤ 0x4F then (vget s.regs.wpc (n - 0x4C) 0).toNat
      else 0

/-- A value that a register's own rule refuses (R245, R389, R397, R400). -/
def srRefuses (d : Dev) (n : Nat) (v : Word) : Bool :=
  let x := v.toNat
  if n = 0x40 then decide (5 ≤ bits x 0 4)
  else if 0x48 ≤ n && n ≤ 0x4B then decide (bits x 56 8 ≠ 0)
  else if 0x4C ≤ n && n ≤ 0x4F then decide (bits x 0 2 ≠ 0) && !(decide (5 ≤ bits x 2 6) && decide (bits x 2 6 ≤ 30))
  else if n = 0x61 then decide (bits x 56 8 ≠ 0) || decide (bits x 0 12 ≠ 0)
  else if n = 0x62 then badPtr x
  else if n = 0x63 then
    decide (bits x 0 14 = 0) || decide (10000 < bits x 0 14) || decide (bits x 14 2 ≠ 0) || decide (bits x 17 47 ≠ 0)
      || decide (bits x 16 1 = d.fw.act) || !d.fw.chk
  else false

namespace Op

/-- A write of an index base lands at +2; an unowned column traps (R108). -/
def setBase (k : Nat) (v : BitVec 16) (on : Bool) : SlotM Unit := do
  if on then
    check ((← me).owns (k / 2)) .columnBound [k]
    pend (.base k) 2 (v.setWidth 256) 3

end Op

/-- SETB (R108). -/
def execSetb (k : BitVec 3) (a : Opnd) (m : Bool) (s : State) : Out := runSlot (do
  let x ← Op.rdS a
  Op.setBase k.toNat (x.setWidth 16) (← Op.enabled m)) s
/-- SETBI (R108). -/
def execSetbi (k : BitVec 3) (i : BitVec 14) (m : Bool) (s : State) : Out :=
  runSlot (do Op.setBase k.toNat (i.setWidth 16) (← Op.enabled m)) s
/-- SETV (R65, R108, R182). -/
def execSetv (k : BitVec 2) (a : Opnd) (m : Bool) (s : State) : Out := runSlot (do
  let x ← Op.rdS a
  if ← Op.enabled m then
    let y ← Op.me
    match viewCheck y k.toNat x with
    | some .columnBound => Op.trap .columnBound [k.toNat]
    | some c => Op.trap c [x.toNat]
    | none =>
      Op.check (decide (k.toNat ≠ 3) || ringIdle y) .ringBusy [x.toNat]
      Op.pend (.view k.toNat) 4 (x.setWidth 256) 0xFF#32) s
/-- RDSR (R109): an unassigned number traps whether or not the instruction is squashed; the other checks are made when it
is enabled (log 18). -/
def execRdsr (d : Opnd) (r : BitVec 7) (m : Bool) (s : State) : Out := runSlot (do
  let y ← Op.me
  let n := r.toNat
  if srAccess y.place.control n = .unassigned then Op.illegal
  let on ← Op.enabled m
  if on then
    Op.check (!(decide (0x20 ≤ n) && decide (n ≤ 0x27)) || y.owns ((n - 0x20) / 2)) .columnBound [n]
    Op.check (!(decide (n = 0x40) || decide (n = 0x41)) || y.place.diag) .diagDenied [n]
  let t ← Op.target 0 d
  let q ← Op.sqid
  Op.putS t 1 (BitVec.ofNat 64 (srRead (← Op.dev) q n)) on) s
/-- WRSR (R109): checked at issue, lands at +1. -/
def execWrsr (a : Opnd) (r : BitVec 7) (m : Bool) (s : State) : Out := runSlot (do
  let y ← Op.me
  let n := r.toNat
  match srAccess y.place.control n with
  | .unassigned => Op.illegal
  | .read => Op.illegal
  | _ =>
    let x ← Op.rdS a
    if ← Op.enabled m then
      Op.check (!(decide (n = 0x40) || decide (n = 0x41)) || y.place.diag) .diagDenied [n]
      if srRefuses (← Op.dev) n x then Op.illegal
      Op.pend (.sysreg n) 1 (x.setWidth 256) 0xFF#32) s

end Sys2Proof.Machine
end

