-- ==== Sys2Proof/Machine/Stream.lean ====
section
/-! DEFINITION. Majors 0x0B to 0x0F: streams, atomics, fences, waits, page requests, stash maps and routing counters as they
issue (R111 to R134), with the checks of footprints (R116, R379) and own-write watchpoints (R390). -/

namespace Sys2Proof.Machine

/-- A stream of a shape word (R112). -/
def Strm.ofShape (k : StrKind) (col slot esz rp base w : Nat) : Strm :=
  { kind := k, col := col, slot := slot, base := base, stride := sx 32 (bits w 32 32), esz := 2 ^ esz, cnt := bits w 0 23,
    pk := bit w 23, rc := bits w 24 8, rp := rp }

/-- The bytes of a stream's elements: address and length of each (R112). -/
def Strm.foot (t : Strm) : List (Nat × Nat) := (List.range t.cnt).map fun j => (t.addr j, t.esz)

/-- Whether a counted fill's shape is one of R124: every unit that it touches is covered whole, each with the size of its address. -/
def Strm.countedOk (t : Strm) (unit : Nat → Nat) : Bool :=
  decide (t.stride = t.esz) && t.pk && decide (0 < t.rc) && decide (t.base % unit t.base = 0)
    && t.foot.all fun a => let b := alignDown a.1 (unit a.1); decide (t.base ≤ b) && decide (b + unit a.1 ≤ t.base + t.cnt * t.esz)

/-- Whether a shape is one that R112 accepts. -/
def Strm.shapeOk (t : Strm) : Bool :=
  decide (t.base % t.esz = 0) && decide (t.stride % t.esz = 0) && (decide (t.kind = .stCf) || decide (t.rc = 0))

/-- Whether a stream tests or sets full/empty bits (R126). -/
def StrKind.fullEmpty : StrKind → Bool
  | .ldFe | .ldFec | .stFf | .stFs => true
  | .ld | .ldCnt | .st | .stCf => false

/-- Whether a stream stores. -/
def StrKind.store : StrKind → Bool
  | .st | .stCf | .stFf | .stFs => true
  | .ld | .ldCnt | .ldFe | .ldFec => false

/-- The pages of a range, each as the first address of the range that lies in it (R131). -/
def rangePages (a n : Nat) : List (Nat × Nat) :=
  if n = 0 then [] else (span (a / 16384) ((a + n - 1) / 16384 - a / 16384 + 1)).map fun p => (max a (p * 16384), 1)

namespace Op

/-- What the check of a footprint finds for a page: 0 allowed, 1 refused, 2 denied; none while its translation is not known. -/
def verdict (rd wr : Bool) : Way → Option Nat
  | .miss => none
  | .refused => some 1
  | w => some (if (rd && !w.reads) || (wr && !w.writes) then 2 else 0)

/-- The footprint of an access (R116, R135, R376, R379): an address beyond 56 bits is denied, an untranslated page holds the
bundle, a refused page traps, and so does the first address that the context may not read or write. A page is checked once: what was found
for it stands while the bundle is held for the others. `named`: the record names the access kind too (R137, R187). -/
def footprint (l : List (Nat × Nat)) (rd wr : Bool) (named : Bool := true) : SlotM Unit := do
  let x ← get
  let q := x.iss.q
  let i ← slotNo
  let kind := if named then [Config.accessKind (if wr then 1 else 0)] else []
  match l.find? fun a => decide (2 ^ 56 ≤ a.1) with
  | some a => trap .permission (a.1 :: kind)
  | none =>
    let key (a : Nat) : Nat := i * 2 ^ 60 + a / 16384
    let found := l.map fun a => (a.1, (verdict rd wr (seqWay x.dev q a.1)).or ((x.dev.seq q).checks.find? (key a.1)))
    if found.any fun w => w.2.isNone then
      abort (.more (x.base.modSeq q fun s => { s with checks := found.foldl (fun t w => match w.2 with | some v => t.put (key w.1) v | none => t) s.checks }))
    else if found.any fun w => decide (w.2 = some 1) then trap .pageRefused
    else match found.find? fun w => decide (w.2 = some 2) with
      | some w => trap .permission (w.1 :: kind)
      | none => return

/-- An own write of the sequencer is compared with its watchpoints (R390): HIT is set, and a trap is owed after the bundle,
or after the outermost rend. -/
def watch (l : List (Nat × Nat)) : SlotM Unit := do
  let s ← me
  let fires := (List.range 4).filterMap fun j =>
    if (vget s.regs.wpc j 0).getLsbD 0 then
      let (b, m) := watchRange s j
      match (l.filter fun a => overlap a.1 a.2 b m).map fun a => max a.1 b with
      | [] => none
      | x :: xs => some (j, xs.foldl min x)
    else none
  match fires with
  | [] => return
  | (_, a) :: _ =>
    let mask := (fires.map fun f => 2 ^ f.1).sum
    let low := (fires.map (·.2)).foldl min a
    let join (o : Option (Nat × Nat)) : Option (Nat × Nat) := some (match o with
      | none => (mask, low)
      | some (m, b) => (m ||| mask, min b low))
    modMe fun s => { s with regs := { s.regs with wpc := fires.foldl (fun v f => vset v f.1 (vget v f.1 0 ||| 0x100#64)) s.regs.wpc } }
    if s.region.levels.isEmpty then modIss fun x => { x with watch := join x.watch }
    else modMe fun s => { s with region := { s.region with owedWatch := join s.region.owedWatch } }

/-- Whether a region is open. -/
def inRegion : SlotM Bool := do return !(← me).region.levels.isEmpty

/-- rgs as the bundle finds it (R244). -/
def rgs : SlotM Nat := do
  let x ← get
  return rgsWord (x.base.seq x.iss.q)

/-- A deferred operation needs one entry of the deferral buffer (R238). -/
def deferRoom : SlotM Unit := do
  let s ← me
  if !s.region.levels.isEmpty then check (decide (s.region.deferred.length < 64)) .regionCapacity [← rgs]

/-- What no region lets happen (R238). -/
def notInRegion : SlotM Unit := do
  if ← inRegion then trap .regionOp [← word]

/-- The slot's device with the sequencer's own smap and smape that have no place yet in its stash map: the map by which checks at issue are
made (R126, R132, log 68). -/
def mapped : SlotM Dev := do
  let d ← dev
  let s ← me
  return s.ord.foldl (fun d o => match o.op with
    | .map _ k va len ofs =>
      modLcl d s.place.launch s.place.lcl fun c => { c with maps := vset c.maps k (if len = 0 then none else some { va := va, len := len, ofs := ofs }) }
    | _ => d) d

/-- A control core has no stash, and no counted or full/empty accesses (R394). -/
def notControl (w : List Nat) : SlotM Unit := do
  if (← me).place.control then trap .streamShape ((← slotNo) :: w)

/-- The checks of a stream's push (R112, R116, R120, R124, R126), with the shape word for a record. -/
def checkStream (t : Strm) (w : Nat) : SlotM Unit := do
  let q ← sqid
  check t.shapeOk .streamShape [t.slot, w]
  if t.kind = .stCf || t.kind = .ldCnt || t.kind.fullEmpty then notControl [w]
  let d ← mapped
  if t.kind = .stCf then
    check (t.countedOk fun a => if inStash d q a 1 then 256 else 128) .streamShape [t.slot, w]
  if t.kind.fullEmpty then
    check (decide (16 ≤ t.esz) && t.foot.all fun a => inStash d q a.1 a.2) .streamShape [t.slot, w]
  footprint t.foot (!t.kind.store) t.kind.store

/-- A load push (R114 to R116): a full load-address queue holds the bundle; a stream of no elements does nothing more. -/
def pushLoad (k : StrKind) (e : BitVec 3) (rp : BitVec 4) (a b : Opnd) : SlotM Unit := do
  let base ← rdS a
  let w ← rdS b
  let i ← slotNo
  let t := Strm.ofShape k (i / 2) i e.toNat rp.toNat base.toNat w.toNat
  if k = .ldFec then notInRegion
  checkStream t w.toNat
  holdUnless (decide (((← me).col t.col).laq < 64))
  if 0 < t.cnt then
    modMe fun s => s.modCol t.col fun c => { c with laq := c.laq + 1 }
    orderNow (.stream t)

/-- A store push (R114, R120, R238): its data entries are the next ones of the column in reservation order. -/
def pushStore (k : StrKind) (e : BitVec 3) (a b : Opnd) : SlotM Unit := do
  let base ← rdS a
  let w ← rdS b
  let i ← slotNo
  let t := Strm.ofShape k (i / 2) i e.toNat 0 base.toNat w.toNat
  checkStream t w.toNat
  let inside ← inRegion
  if inside then check (decide (t.entries ≤ 32)) .regionCapacity [← rgs]
  deferRoom
  let c := (← me).col t.col
  if !inside then holdUnless (decide (storesHeld (← me) t.col < 64))
  watch t.foot
  if 0 < t.cnt then
    modMe fun s => trimCol (s.modCol t.col fun c =>
      { c with saq := if inside then c.saq else c.saq + 1, sdAsg := c.sdAsg + t.entries,
               asgs := c.asgs ++ [(c.sdAsg, t.entries)] }) t.col
    order (.stream { t with ent0 := c.sdAsg })
    modMe fun s => trimCol s t.col

/-- An atomic (R127, R128, R238), with its scope. The shape-word item of its stream-shape record is left out (log 72). -/
def atomic (op : Nat) (sc : BitVec 2) (d a : Opnd) (wide ret : Bool) : SlotM Unit := do
  let mask : Nat := if wide then 2 ^ 64 else 2 ^ 32
  let y ← rdS d
  let y2 ← if op = 9 then rdRun d 1 else pure 0
  let addr := (← rdS a).toNat
  let i ← slotNo
  if ret then notInRegion
  check (decide (addr % (if wide then 8 else 4) = 0)) .streamShape [i]
  footprint [(addr, if wide then 8 else 4)] true true
  deferRoom
  let inside ← inRegion
  if !inside then holdUnless (decide (((← me).col (i / 2)).laq < 64))
  watch [(addr, if wide then 8 else 4)]
  if !inside then modMe fun s => s.modCol (i / 2) fun c => { c with laq := c.laq + 1 }
  order (.atom { op := op, sc := sc.toNat, col := i / 2, slot := i, addr := addr, wide := wide, ret := ret, y := y.toNat % mask, y2 := y2.toNat % mask })

/-- A wait on memory (R131, R194): it ends with a value for its predicate, or holds the bundle. `met` is the condition on
the bytes read; `wait` says what is waited on. -/
def waitOn (d : BitVec 4) (va n : Nat) (met : Nat → Bool) (kind value : Nat) : SlotM Unit := do
  let q ← sqid
  let finish (v : Word) : SlotM Unit := putPred d.toNat 1 v (BitVec.allOnes 64)
  let halfMet (v : Nat) (loc : Option Nat) : SlotM Unit := do
    let s ← me
    if met v || s.woke.isSome then finish (BitVec.allOnes 64)
    else if !s.reqs.isEmpty then finish 0
    else abort (.stall (loc.map fun l => (l, value, kind)))
  holdUnless (!awaitsSide (← me) [(va, n)])
  match accessWay (← dev) q va with
  | .here loc true _ =>
    -- accesses of its page that left for the host before it perform before it (R265)
    holdUnless (!goesFar (← dev) q va loc || (← me).far.all fun p => decide (p.range.2.1 / 16384 ≠ loc / 16384))
    let (r, d') := loadBytes (← dev) q loc n
    modDev fun _ => touch d' loc
    match r with
    | some l => halfMet (leNat (plain l)) (some loc)
    | none => stall
  | .peer p _ _ true _ =>
    let (l, d') := (traffic p (← dev)).drawBytes n
    modDev fun _ => d'
    halfMet (leNat l) none
  | .miss => stall
  | _ =>
    modMe (missElem va)
    finish 0

/-- mwait (R131); its stream-shape record has no shape word (log 72). -/
def mwait (d : BitVec 4) (a b : Opnd) (m : Bool) (met : Nat → Nat → Bool) (kind : Nat) : SlotM Unit := do
  let va := (← rdS a).toNat
  let v := (← rdS b).toNat
  if ← enabled m then
    let i ← slotNo
    check (decide (va % 8 = 0)) .streamShape [i]
    footprint [(va, 8)] true false
    atPlace
    waitOn d va 8 (fun x => met x v) kind v

/-- smap and smape (R132). What an smape block that nothing has written holds is what memory holds (log 73). -/
def stashMap (empty : Bool) (k : Nat) (a b : Opnd) (m : Bool) : SlotM Unit := do
  let va := (← rdS a).toNat
  let w := (← rdS b).toNat
  if ← enabled m then
    notInRegion
    notControl [w]
    let s ← me
    let c := lclOf (← mapped) s.place.launch s.place.lcl
    let len := bits w 32 32
    let ofs := bits w 0 32
    let others := (c.maps.toList.zipIdx.filterMap fun e => if e.2 = k then none else e.1)
    let free := others.all fun e => !overlap va len e.va e.len && !overlap ofs len e.ofs e.len
    let mapped := (vget c.maps k none).isSome
    let ok := decide (va % 16384 = 0) && decide (ofs % 16384 = 0) && decide (len % 16384 = 0)
      && (if len = 0 then mapped else !mapped && free && decide (ofs + len ≤ c.share * 2 ^ 18))
    check ok .stashMap [k, w]
    footprint (rangePages va len) true true
    order (.map empty k va len ofs)

/-- The launch holds its cluster's counters (R133). -/
def counterGrant : SlotM Unit := do
  let d ← dev
  let q ← sqid
  let s ← me
  check (!s.place.control && decide ((d.cluster (clusterOf d q)).grant = some s.place.launch)) .counterDenied

end Op

/-! ### Major 0x0B (R115 to R126) -/

/-- LD (R116). -/
def execLd (e : BitVec 3) (p : BitVec 4) (a b : Opnd) (s : State) : Out := runSlot (Op.pushLoad .ld e p a b) s
/-- LD_CNT (R124, R125). -/
def execLdCnt (e : BitVec 3) (p : BitVec 4) (a b : Opnd) (s : State) : Out := runSlot (Op.pushLoad .ldCnt e p a b) s
/-- LD_FE (R126). -/
def execLdFe (e : BitVec 3) (p : BitVec 4) (a b : Opnd) (s : State) : Out := runSlot (Op.pushLoad .ldFe e p a b) s
/-- LD_FEC (R126). -/
def execLdFec (e : BitVec 3) (p : BitVec 4) (a b : Opnd) (s : State) : Out := runSlot (Op.pushLoad .ldFec e p a b) s

/-! ### Major 0x0C (R120 to R126) -/

/-- ST (R120). -/
def execSt (e : BitVec 3) (a b : Opnd) (s : State) : Out := runSlot (Op.pushStore .st e a b) s
/-- ST_CF (R124). -/
def execStCf (e : BitVec 3) (a b : Opnd) (s : State) : Out := runSlot (Op.pushStore .stCf e a b) s
/-- ST_FF (R126). -/
def execStFf (e : BitVec 3) (a b : Opnd) (s : State) : Out := runSlot (Op.pushStore .stFf e a b) s
/-- ST_FS (R126). -/
def execStFs (e : BitVec 3) (a b : Opnd) (s : State) : Out := runSlot (Op.pushStore .stFs e a b) s

/-! ### Major 0x0D (R127, R128) -/

/-- ASWAP. -/
def execAswap (d a : Opnd) (sc : BitVec 2) (w n : Bool) (s : State) : Out := runSlot (Op.atomic 0 sc d a (!w) (!n)) s
/-- AADD. -/
def execAadd (d a : Opnd) (sc : BitVec 2) (w n : Bool) (s : State) : Out := runSlot (Op.atomic 1 sc d a (!w) (!n)) s
/-- AAND. -/
def execAand (d a : Opnd) (sc : BitVec 2) (w n : Bool) (s : State) : Out := runSlot (Op.atomic 2 sc d a (!w) (!n)) s
/-- AOR. -/
def execAor (d a : Opnd) (sc : BitVec 2) (w n : Bool) (s : State) : Out := runSlot (Op.atomic 3 sc d a (!w) (!n)) s
/-- AXOR. -/
def execAxor (d a : Opnd) (sc : BitVec 2) (w n : Bool) (s : State) : Out := runSlot (Op.atomic 4 sc d a (!w) (!n)) s
/-- AMIN. -/
def execAmin (d a : Opnd) (sc : BitVec 2) (w n : Bool) (s : State) : Out := runSlot (Op.atomic 5 sc d a (!w) (!n)) s
/-- AMAX. -/
def execAmax (d a : Opnd) (sc : BitVec 2) (w n : Bool) (s : State) : Out := runSlot (Op.atomic 6 sc d a (!w) (!n)) s
/-- AMINU. -/
def execAminu (d a : Opnd) (sc : BitVec 2) (w n : Bool) (s : State) : Out := runSlot (Op.atomic 7 sc d a (!w) (!n)) s
/-- AMAXU. -/
def execAmaxu (d a : Opnd) (sc : BitVec 2) (w n : Bool) (s : State) : Out := runSlot (Op.atomic 8 sc d a (!w) (!n)) s
/-- ACAS: sD is the comparand, the element after it the new value. -/
def execAcas (d a : Opnd) (sc : BitVec 2) (w n : Bool) (s : State) : Out := runSlot (Op.atomic 9 sc d a (!w) (!n)) s

/-! ### Major 0x0E (R129 to R132) -/

/-- FENCE (R130, R238). -/
def execFence (sc : BitVec 2) (m : Bool) (s : State) : Out := runSlot (do
  if ← Op.enabled m then Op.orderNow (.fence (decide (sc = 2)))) s
/-- MWAIT_NE (R131). -/
def execMwaitNe (d : BitVec 4) (a b : Opnd) (m : Bool) (s : State) : Out :=
  runSlot (Op.mwait d a b m (fun x v => decide (x ≠ v)) 0) s
/-- MWAIT_GEU (R131). -/
def execMwaitGeu (d : BitVec 4) (a b : Opnd) (m : Bool) (s : State) : Out :=
  runSlot (Op.mwait d a b m (fun x v => decide (v ≤ x)) 1) s
/-- PREQ (R131): every page of the range that is not resident is requested; its stream-shape record has no shape word (log 72). -/
def execPreq (a b : Opnd) (m : Bool) (s : State) : Out := runSlot (do
  let va := (← Op.rdS a).toNat
  let n := (← Op.rdS b).toNat
  if ← Op.enabled m then
    let i ← Op.slotNo
    Op.check (decide (n ≤ 2 ^ 30)) .streamShape [i]
    let pages := rangePages va n
    Op.footprint pages true false
    let q ← Op.sqid
    let ten := (← Op.me).place.ten
    Op.modDev fun d => pages.foldl (fun d p => match seqWay d q p.1 with
      | .absent .. => requestPage d ten p.1 false
      | _ => d) d) s
/-- SMAP (R132). -/
def execSmap (k : BitVec 3) (a b : Opnd) (m : Bool) (s : State) : Out := runSlot (Op.stashMap false k.toNat a b m) s
/-- SMAPE (R132). -/
def execSmape (k : BitVec 3) (a b : Opnd) (m : Bool) (s : State) : Out := runSlot (Op.stashMap true k.toNat a b m) s

/-! ### Major 0x0F (R133, R134) -/

/-- CINC (R134): every lane is checked before any increment; a squashed one is not checked for its grant (log 73). -/
def execCinc (a b : Opnd) (m : Bool) (s : State) : Out := runSlot (do
  let v ← Op.rdV a
  let y ← Op.rdS b
  let g ← Op.guard m
  let lanes := (List.range 32).filter fun l => g.getLsbD l
  if !lanes.isEmpty then
    Op.counterGrant
    let idx := (lanes.map fun l => (l, bits v.toNat (8 * l) 8)).filter fun e => decide (e.2 ≠ 0xFF)
    match idx.find? fun e => decide (64 ≤ e.2) with
    | some e => Op.trap .counterIndex [e.1, e.2]
    | none =>
      Op.deferRoom
      Op.order (.cinc (idx.map fun e => (e.2, bits y.toNat 0 32)))) s
/-- CSNAP (R134); a squashed one is not checked for its grant (log 73), and its stream-shape record has no shape word (log 72). -/
def execCsnap (a : Opnd) (m : Bool) (s : State) : Out := runSlot (do
  let va := (← Op.rdS a).toNat
  if ← Op.enabled m then
    Op.counterGrant
    Op.check (decide (va % 256 = 0)) .streamShape [← Op.slotNo]
    Op.footprint [(va, 256)] false true
    Op.deferRoom
    Op.watch [(va, 256)]
    Op.order (.csnap va ((← Op.slotNo) / 2))) s

end Sys2Proof.Machine
end

