-- ==== Sys2Proof/Machine/Commands.lean ====
section
/-! DEFINITION. Majors 0x10 to 0x14: scale loads, regions and checks, barriers, engine commands, the parison (R161, R162, R192 to
R209, R232 to R246, R338). -/

namespace Sys2Proof.Machine

namespace Op

/-! ### Reads at their place -/

/-- The store-data entry that only the sequencer itself can supply for some bytes (R162, R252). -/
def selfSupplied (d : Dev) (q loc n : Nat) : Option (Nat × Nat) :=
  (span loc n).findSome? fun a => selfBlock (d.seq q) q a d.placed.reverse

/-- 32 bytes as one load at its place in the order (R117, R162, R338): held while bytes are outstanding, an event when they
are poisoned. What the load does beside is a change of the device. -/
def load32 (va : Nat) : SlotM (Bytes × (Dev → Dev)) := do
  let q ← sqid
  let i ← slotNo
  holdUnless (!awaitsSide (← me) [(va, 32)])
  let none_ := 255 -- the popped queue of a scale load's record (log 72)
  let bad : Abort := .event 2 { cause := Cause.poison.code, slot := i, cont := [i, va] } false
  match accessWay (← dev) q va with
  | .here loc true _ =>
    let d0 ← dev
    -- accesses of its page that left for the host before it perform before it (R265)
    holdUnless (!goesFar d0 q va loc || (← me).far.all fun p => decide (p.range.2.1 / 16384 ≠ loc / 16384))
    -- data that lands only as this bundle issues cannot serve it (R252)
    match selfSupplied (← get).base q loc 32 with
    | some (c, e) => trap .selfWait [i, none_, c, e]
    | none => pure ()
    match (loadBytes d0 q loc 32).1 with
    | some l =>
      if anyBad l then abort bad
      return (plain l, fun d => touch (loadBytes d q loc 32).2 loc)
    | none =>
      match selfSupplied d0 q loc 32 with
      | some (c, e) => trap .selfWait [i, none_, c, e]
      | none => stall
  | .peer p _ _ true _ =>
    match (askPeer p 32 (← dev)).1 with
    | some l => return (l, fun d => (askPeer p 32 d).2)
    | none => abort bad
  | .miss => stall
  | _ => return (toLe 32 0, fun d => d.modSeq q (missElem va))

/-- 32 bytes as one load of the slot. -/
def read32 (va : Nat) : SlotM Bytes := do
  let (l, f) ← load32 va
  modDev f
  return l

/-- Where piece k of the pld in slot i stands. -/
def pieceKey (i k : Nat) : Nat := i * 65536 + k

/-- Pieces of 32 bytes from piece k of a pld's load stream on, of which each takes a place of its own (R247, R248, R338): the bundle holds with
those it has whenever a free bit says that other agents come between (log 4). -/
def readRun (va : Nat) : Nat → Nat → SlotM Bytes
  | 0, _ => return []
  | n + 1, k => do
    let x ← get
    let i ← slotNo
    let both (f : Dev → Dev) : SlotM Unit := modify fun x => { x with dev := f x.dev, base := f x.base }
    let l ← match (← me).pld.find? (pieceKey i k) with
      | some l => pure l
      | none =>
        if (x.base.seq x.iss.q).pld.length ≠ x.iss.pld && Config.freeBit x.base.drawn then abort (.more { x.base with drawn := x.base.drawn + 1 })
        let (l, f) ← load32 (va + 32 * k)
        both fun d => { (f d).modSeq x.iss.q fun s => { s with pld := s.pld.put (pieceKey i k) l } with drawn := d.drawn + 64 }
        pure l
    return l ++ (← readRun va n (k + 1))

/-- The writes issued before, in earlier bundles or lower slots, that land with a block on some register bytes lose to it there (R73). -/
def hideWrites (a n : Nat) (s : Seq) : Seq :=
  let hide (w : PWrite) : PWrite :=
    match w.tgt with
    | .reg b => if w.rdly = 1 then { w with en := BitVec.ofNat 32 (packLanes 1 ((List.range 32).map fun k =>
        if w.en.getLsbD k && !(decide (a ≤ b + k) && decide (b + k < a + n)) then 1 else 0)) } else w
    | _ => w
  { s with pend := s.pend.map hide }

/-- A scale load (R161, R162): lands at +6. -/
def scaleLoad (t : Tgt) (a : Opnd) : SlotM Unit := do
  let va := (← rdS a).toNat
  let i ← slotNo
  check (decide (va % 32 = 0) && inStash (← mapped) (← sqid) va 32) .streamShape [i, va]
  -- it cannot reach its place while an operation before it waits for data that only the sequencer can supply (R162, R252)
  match headDry (← get).base (← sqid) with
  | some (c, e) => trap .selfWait [i, 255, c, e]
  | none => pure ()
  atPlace
  let l ← read32 va
  pend t 6 (BitVec.ofNat 256 (leNat l)) (BitVec.allOnes 32)

/-! ### Regions (R231 to R239) -/

/-- What the bundle found unmet of R233, numbered as its table lists the conditions, with the column (log 15). -/
def regionBusy (s : Seq) : Option (Nat × Nat) :=
  let cols := List.range 4
  let open_ (c : Nat) : Bool :=
    let x := s.col c
    let quiet := (s.ord.filter fun o => match o.op with | .atom a => !a.ret && !a.half && decide (a.col = c) | _ => false).length
    !x.ldq.isEmpty || !x.fill.isEmpty || decide (quiet < x.laq)
  if !s.pend.isEmpty then some (2, 0)
  else match cols.find? open_ with
    | some c => some (3, c)
    | none => match cols.find? fun c => decide ((s.col c).sdRes < (s.col c).sdAsg) with
      | some c => some (4, c)
      | none => if s.bead.st ≠ .idle then some (5, 0) else none

/-- A level's record as an rbegin fills it (R234). -/
def levelRecord (s : Seq) (pc : Pc) (limit : Nat) : Level :=
  { restart := pc, limit := limit, loops := s.regs.loops, stage := s.regs.stage, head := s.mx.head, tail := s.mx.tail, np := s.mx.np,
    tags := s.mx.tags, sdRes := (List.range 4).map fun c => (c, (s.col c).sdRes, (s.col c).sdAsg) }

/-- Level l's operations pass to the level outside it (R236). -/
def lowerLevel (l : Nat) (s : Seq) : Seq :=
  let down (n : Nat) : Nat := if n = l then l - 1 else n
  { s with region := { s.region with levels := s.region.levels.dropLast,
                                     undo := s.region.undo.filter fun u => decide (u.1 < l),
                                     deferred := s.region.deferred.map fun o => { o with level := down o.level },
                                     decs := s.region.decs.map fun e => (down e.1, e.2) } }

/-- The counted units that a region has brought to zero drop their data (R236). -/
def dropSpent (q : Nat) (d : Dev) : Dev :=
  let s := d.seq q
  let keep (us : List CUnit) : List CUnit := us.filter fun u => !(decide (u.count = 0) && s.region.decs.any fun e => decide (e.2 = u.id))
  let d := d.modSeq q fun s => { s with lines := keep s.lines, region := { s.region with decs := [] } }
  modLcl d s.place.launch s.place.lcl fun c => { c with blocks := keep c.blocks }

/-- A check (R239, R245): a mismatch, or an injected one, is a rollback event. -/
def compareCheck (same : Bool) (cont : List Nat) : SlotM Unit := do
  let i ← slotNo
  let (hit, s) := dinjEvent (← me) [4]
  modMe fun _ => s
  if hit || !same then
    abort (.event 1 { cause := Cause.chkMismatch.code, slot := i, cont := i :: cont } hit)

/-! ### Barriers (R192 to R194) -/

/-- The address check of a barrier object (R193). -/
def barrierAddr (va : Nat) : SlotM Unit := do
  check (decide (va % 16 = 0) && inAnyStash (← mapped) (← sqid) va 16) .streamShape [← slotNo]

/-! ### Engine commands (R197 to R209) -/

/-- Bytes of n elements of a format in memory (R37). -/
def memBytes (f n : Nat) : Nat :=
  match f with
  | 0 | 14 => 8 * n
  | 1 | 13 => 4 * n
  | 2 | 3 | 12 => 2 * n
  | 6 | 7 => 24 * n / 32
  | 10 | 11 => n / 2
  | _ => n

/-- The multiple that a row's elements must be of for a format (R207). -/
def rowMultiple (f : Nat) : Nat :=
  match f with
  | 10 => 2
  | 6 | 7 => 32
  | 11 => 512
  | _ => 1

/-- The bound of dimension k from 1 to 5 of a descriptor (R198). -/
def descBound (w : List Nat) (k : Nat) : Nat :=
  if k = 5 then bits (w.getD 7 0) 0 16 else bits (w.getD 6 0) (16 * (k - 1)) 16

/-- The word that holds the bound of dimension k. -/
def boundWord (k : Nat) : Nat := if k = 5 then 7 else 6

/-- The nest's fields (R198): the index of a word that breaks them. -/
def nestFault (w : List Nat) : Option Nat :=
  let nd := bits (w.getD 2 0) 50 3
  if 5 < nd then some 2
  else (List.range 5).findSome? fun j =>
    let k := j + 1
    if k ≤ nd then (if descBound w k = 0 then some (boundWord k) else none)
    else if descBound w k ≠ 0 then some (boundWord k) else if w.getD (7 + k) 0 ≠ 0 then some (7 + k) else none

/-- The checks of an ecopy descriptor (R198, R207): the index of a word that breaks them. -/
def copyFault (w : List Nat) : Option Nat :=
  let x (k : Nat) : Nat := w.getD k 0
  let nd := bits (x 2) 50 3
  let sf := bits (x 2) 60 4
  let df := bits (x 2) 56 4
  let rc := bits (x 2) 42 8
  let l0 := bits (x 5) 0 32
  let dims := (List.range nd).map (8 + ·)
  if bits (x 2) 0 40 ≠ 0 || sf = 15 || df = 15 || df = 11 || bits (x 2) 40 2 = 3 then some 2
  else match nestFault w with
    | some k => some k
    | none =>
      if sf = 11 && x 0 % 256 ≠ 0 then some 0
      else if rc ≠ 0 && x 1 % 256 ≠ 0 then some 1
      else if (sf = 11 && x 3 = 0) || (sf ≠ 11 && x 3 ≠ 0) then some 3
      else if (sf = 11 && x 4 = 0) || (sf ≠ 11 && x 4 ≠ 0) then some 4
      else if bits (x 5) 32 32 ≠ 0 || l0 = 0 || 16777216 < l0 || l0 % rowMultiple sf ≠ 0 || l0 % rowMultiple df ≠ 0
          || (rc ≠ 0 && memBytes df l0 % 256 ≠ 0) then some 5
      else if bits (x 7) 16 48 ≠ 0 then some 7
      else match dims.find? fun k => (sf = 11 && bits (x k) 32 32 % 256 ≠ 0) || (rc ≠ 0 && bits (x k) 0 32 % 256 ≠ 0) with
        | some k => some k
        | none => [13, 14, 15].find? fun k => decide (x k ≠ 0)

/-- The checks of an exform descriptor (R203, R207). -/
def xformFault (w : List Nat) : Option Nat :=
  let x (k : Nat) : Nat := w.getD k 0
  let nd := bits (x 2) 50 3
  let dims := (List.range nd).map (8 + ·)
  if bits (x 2) 53 11 ≠ 0 || bits (x 2) 42 8 ≠ 0 || 1 < bits (x 2) 40 2 || bits (x 2) 4 36 ≠ 0 then some 2
  else match nestFault w with
    | some k => some k
    | none =>
      if x 0 % 32 ≠ 0 then some 0 else if x 1 % 32 ≠ 0 then some 1
      else if bits (x 3) 32 32 % 32 ≠ 0 || bits (x 3) 0 32 % 32 ≠ 0 then some 3
      else if x 4 ≠ 0 then some 4 else if x 5 ≠ 0 then some 5
      else if bits (x 7) 16 48 ≠ 0 then some 7
      else match dims.find? fun k => bits (x k) 32 32 % 32 ≠ 0 || bits (x k) 0 32 % 32 ≠ 0 with
        | some k => some k
        | none => [13, 14, 15].find? fun k => decide (x k ≠ 0)

/-- Whether a transform instruction is one of R204. -/
def xformInsOk (v : Nat) : Bool :=
  let op := bits v 12 4
  let xr := bits v 9 3
  let y := bits v 6 3
  let imm := bits v 0 6
  match op with
  | 0 => decide (y = 0) && decide (imm = 0)
  | 1 | 2 => decide (y = 0) && (!bit imm 5 || decide (imm % 32 = 0))
  | 3 => decide (imm = 0)
  | 4 | 5 | 6 => decide (imm ≤ 4) && decide (xr ≠ y)
  | _ => false

/-- The descriptor words at a register address, checked for alignment and share (R207). No descriptor word is at fault in a misaligned
address: the record holds the slot alone (log 72). -/
def areaWords (a n : Nat) : SlotM (List Nat) := do
  let i ← slotNo
  let s ← me
  check (decide (a % 32 = 0)) .engineConfig [i]
  check (decide (a + 8 * n ≤ s.owned)) .columnBound
  return (List.range n).map fun k => s.spaceNum (a + 8 * k) 8

/-- An engine command after its checks: into its queue, or into the deferral buffer (R209, R238). -/
def command (e : Nat) (xf : Bool) (w prog : List Nat) (bar : Nat) : SlotM Unit := do
  if bar ≠ 0 then barrierAddr bar
  deferRoom
  let s ← me
  let c : Cmd := { id := s.opCtr, owner := ← sqid, launch := s.place.launch, ten := s.place.ten, fork := s.opCtr, xform := xf, desc := w,
                   prog := prog, table := (List.range 16).map fun k => bits s.regs.scaleTab.toNat (16 * k) 16, bar := bar }
  if ← inRegion then order (.engine e c)
  else
    let q ← sqid
    holdUnless (hasRoom (← dev) q e)
    modMe fun s => { s with opCtr := s.opCtr + 1 }
    modDev (enqueue q e c)

end Op

/-! ### Major 0x10 (R161, R162) -/

/-- LDK_S. -/
def execLdkS (d : BitVec 3) (a : Opnd) (s : State) : Out := runSlot (Op.scaleLoad (.scaleS d.toNat) a) s
/-- LDK_H. -/
def execLdkH (d : BitVec 3) (a : Opnd) (s : State) : Out := runSlot (Op.scaleLoad (.scaleH d.toNat) a) s
/-- LDKT. -/
def execLdkt (a : Opnd) (s : State) : Out := runSlot (Op.scaleLoad .scaleTab a) s

/-! ### Major 0x11 (R232 to R239) -/

/-- RBEGIN (R233, R234). -/
def execRbegin (n : BitVec 4) (s : State) : Out := runSlot (do
  let x ← Op.me
  let iss := (← get).iss
  let depth := x.region.levels.length
  Op.check (iss.retry || decide (depth ≠ 4)) .regionOverflow [depth]
  match Op.regionBusy x with
  | some (k, c) => Op.trap .regionBusy [k, c]
  | none =>
    let r := Op.levelRecord x iss.pc n.toNat
    Op.modMe fun x => { x with region := { x.region with levels :=
      if iss.retry then
        match x.region.levels.getLast? with
        | some l => x.region.levels.dropLast ++ [{ r with retries := l.retries, limit := l.limit }]
        | none => [r]
      else x.region.levels ++ [r] } }) s
/-- RKEEP (R235). -/
def execRkeep (a : Opnd) (s : State) : Out := runSlot (do
  let w := (← Op.rdS a).toNat
  let x ← Op.me
  let len := bits w 16 16
  let start := bits w 0 16
  Op.check (!x.region.levels.isEmpty) .regionState
  Op.check (decide (bits w 32 32 = 0) && decide (len % 32 = 0) && decide (start % 32 = 0) && decide (0 < len) && decide (len ≤ 16384)) .regionConfig [w]
  Op.check (decide (start + len ≤ x.owned)) .columnBound
  Op.check (decide ((x.region.undo.map fun u => u.2.2.length).sum + len ≤ 16384)) .regionCapacity [← Op.rgs]
  Op.modMe fun x => { x with region := { x.region with undo := x.region.undo ++ [(x.region.levels.length, start, x.spaceBytes start len)] } }) s
/-- REND (R236): an inner level passes to the one outside it; the outermost releases what was deferred. -/
def execRend (s : State) : Out := runSlot (do
  let x ← Op.me
  let depth := x.region.levels.length
  Op.check (decide (depth ≠ 0)) .regionState
  Op.modMe (Op.lowerLevel depth)
  if depth = 1 then
    let q ← Op.sqid
    Op.modDev (Op.dropSpent q)
    Op.modIss fun i => { i with watch := joinWatch x.region.owedWatch i.watch }
    Op.modMe releaseOps) s
/-- CHK (R239). -/
def execChk (a b : Opnd) (m : Bool) (s : State) : Out := runSlot (do
  let x ← Op.rdS a
  let y ← Op.rdS b
  if ← Op.enabled m then Op.compareCheck (decide (x = y)) [x.toNat, y.toNat]) s
/-- CHKV (R239). -/
def execChkv (a b : Opnd) (m : Bool) (s : State) : Out := runSlot (do
  let x ← Op.rdV a
  let y ← Op.rdV b
  if ← Op.enabled m then Op.compareCheck (decide (x = y)) (lanesOf 64 4 x.toNat ++ lanesOf 64 4 y.toNat)) s

/-! ### Major 0x12 (R192 to R194) -/

/-- BINIT (R193). -/
def execBinit (a b : Opnd) (m : Bool) (s : State) : Out := runSlot (do
  let va := (← Op.rdS a).toNat
  let w := (← Op.rdS b).toNat
  if ← Op.enabled m then
    Op.barrierAddr va
    Op.check (decide (bits w 0 16 ≠ 0) && decide (bits w 16 16 = 0)) .engineConfig [← Op.slotNo, 0, w]
    Op.deferRoom
    Op.watch [(va, 16)]
    Op.order (.binit va (bits w 32 32) (bits w 0 16) ((← Op.slotNo) / 2))) s
/-- BARR (R193). -/
def execBarr (a b : Opnd) (m : Bool) (s : State) : Out := runSlot (do
  let va := (← Op.rdS a).toNat
  let n := (← Op.rdS b).toNat
  if ← Op.enabled m then
    Op.barrierAddr va
    Op.deferRoom
    Op.watch [(va, 16)]
    Op.order (.barr va (bits n 0 32) 0 0 ((← Op.slotNo) / 2))) s
/-- BWAIT (R194). -/
def execBwait (d : BitVec 4) (a b : Opnd) (m : Bool) (s : State) : Out := runSlot (do
  let va := (← Op.rdS a).toNat
  let v := (← Op.rdS b).toNat
  if ← Op.enabled m then
    Op.barrierAddr va
    Op.atPlace
    Op.waitOn d (va + 8) 8 (fun x => bit x 63 != bit v 0) 2 v) s

/-! ### Major 0x13 (R197, R207) -/

/-- ECOPY. -/
def execEcopy (e : BitVec 1) (a b : Opnd) (m : Bool) (s : State) : Out := runSlot (do
  let x := (← Op.rdS a).toNat
  let bar := (← Op.rdS b).toNat
  if ← Op.enabled m then
    let w ← Op.areaWords x 16
    match Op.copyFault w with
    | some k => Op.trap .engineConfig [← Op.slotNo, k, w.getD k 0]
    | none => Op.command e.toNat false w [] bar) s
/-- EXFORM. The record of a bad transform instruction holds 16 + its number and the instruction as index and word (log 72). -/
def execExform (d a b : Opnd) (m : Bool) (s : State) : Out := runSlot (do
  let p := (← Op.rdS d).toNat
  let x := (← Op.rdS a).toNat
  let bar := (← Op.rdS b).toNat
  if ← Op.enabled m then
    let w ← Op.areaWords x 16
    let pw ← Op.areaWords p 4
    match Op.xformFault w with
    | some k => Op.trap .engineConfig [← Op.slotNo, k, w.getD k 0]
    | none =>
      let n := bits (w.getD 2 0) 0 4 + 1
      let prog := ((List.range 16).map fun i => bits (pw.getD (i / 4) 0) (16 * (i % 4)) 16).take n
      match prog.zipIdx.find? fun e => !Op.xformInsOk e.1 with
      | some e => Op.trap .engineConfig [← Op.slotNo, 16 + e.2, e.1]
      | none => Op.command 2 true w prog bar) s

/-! ### Major 0x14 (R338) -/

/-- PLD: checks, the header, the live block only when the header allows it, status at +1. -/
def execPld (d a : Opnd) (s : State) : Out := runSlot (do
  let pa := (← Op.rdRun a 0).toNat
  let dest := (← Op.rdRun a 1).toNat
  let i ← Op.slotNo
  let y := (← get)
  let c := (y.base.seq y.iss.q).col (i / 2)
  Op.check (decide (pa % 64 = 0) && decide (dest % 32 = 0)) .streamShape [i]
  Op.notInRegion
  Op.check (decide (c.laq = 0) && c.fill.isEmpty && c.ldq.isEmpty) .parisonBusy [i / 2]
  Op.footprint ((List.range 8).map fun k => (pa + 32 * k, 32)) true false
  let t ← Op.target 0 d
  Op.atPlace
  let h ← Op.readRun pa 8 0
  let x ← Op.me
  match headStatus false (some (dest, x.owned)) h with
  | 0 =>
    let n := headField h 44 4
    Op.footprint ((List.range (n / 32)).map fun k => (pa + 256 + 32 * k, 32)) true false
    let live ← Op.readRun pa (n / 32) 8
    let st := liveStatus x.place.kid.toNat h live
    if st = 0 then
      Op.modIss fun z => { z with block := z.block ++ [(dest, live, headCursor h)] }
      Op.modMe (Op.hideWrites dest live.length)
    Op.putS t 1 (BitVec.ofNat 64 st) true
  | st => Op.putS t 1 (BitVec.ofNat 64 st) true) s
/-- PCUR. -/
def execPcur (d : Opnd) (n : BitVec 4) (s : State) : Out := runSlot (do
  let t ← Op.target 0 d
  Op.putS t 1 (vget (← Op.me).regs.cursor n.toNat 0) true) s

end Sys2Proof.Machine
end

