-- ==== Sys2Proof/Machine/OrderEvents.lean ====
section
/-! DEFINITION. The steps of a sequencer that no word encodes: issuing a bundle, expanding a segment, taking a request, its elements'
places, the delivery of entries, and the ends of waits (R24, R74 to R78, R112 to R131, R194, R249 to R251, R265). -/

namespace Sys2Proof.Machine

/-- The sequencer of the leader: pair 0's at first, and whichever pair runs it after failures (R394, R395, R417). -/
def leaderSeq : Nat := 1024

/-- Whether the leader's update routine has trapped (R404): a new image before its heartbeat runs no routine. -/
def leaderTrapped (d : Dev) (q : Nat) : Bool :=
  decide (q = leaderSeq) && (d.seq q).place.control && d.fw.updating && d.fw.switching.isNone && decide ((d.seq q).run = .trapped)

/-- The update is abandoned: the leader writes 0x30 to STAT and takes records again; stores of it that no data will come for end (R404). -/
def abandon (q : Nat) (d : Dev) : Dev :=
  let d := settle { d with placed := d.placed.filter fun p => decide (p.range.1 ≠ q) || !(p.isRead || p.awaits q),
                           splits := d.splits.filter fun x => decide (x.own ≠ q) }
  (gput d d.fw.stat 8 0x30).modSeq q fun x => { x with run := .done, trap := none, pend := [], ord := [], far := [], cols := .replicate 4 {} }

/-- A trapped leader goes on with what it has issued: its due writes land, its operations perform as far as they can, and once no check
runs any more the update is abandoned (R404, log 51). -/
def leaderStep (q : Nat) (d : Dev) : Dev :=
  let d := performAll q (ordFuel (d.seq q).ord) (landAll q 32 d)
  if d.fw.checking.isNone && d.fw.pendChk.isNone then abandon q d else d

/-! ### A firmware switch that fails (R401, R402) -/

/-- The control cores stop, with the reads and the writes without data that they have placed. -/
def stopCores (d : Dev) : Dev :=
  let mine (a : Nat) : Bool := decide (1024 ≤ a) && decide (a < 2048)
  let seqs : Tab Seq := d.seqs.filter fun e => decide (e.1 < 1024)
  settle { d with seqs := seqs, placed := d.placed.filter fun p => !mine p.range.1 || !(p.isRead || p.awaits p.range.1),
                  splits := d.splits.filter fun x => !mine x.own }

/-- The switch rolls back (R402): the new image's cores stop; the old slot and every control core's state come back, in the protection mode
that they had, and the leader resumes at frbp, or after its fsw bundle. The Gaffer runs again. -/
def switchBack (d : Dev) : Dev :=
  match d.fw.switching with
  | none => d
  | some (old, saved) =>
    let d := stopCores d
    let d : Dev := { d with seqs := saved.foldl (fun (t : Tab Seq) e => t.put e.1 e.2) d.seqs, fleet := { d.fleet with unprot := d.fw.oldUnprot },
                            fw := { d.fw with act := old, rbkFlag := true, switching := none, gstat := 1, pendFhb := none, pendFsw := none, pendChk := none } }
    if d.fw.frbp = 0 then d else d.modSeq leaderSeq fun x => { x with pc := Pc.ofPtr d.fw.frbp.toNat, falloff := false, nopLeft := 0 }

/-- BUNDLE_ISSUE (R71): the operations that need no step of their own go first as far as they can, then the bundle's checks. A leader whose
routine has trapped gives the update up (R404), and a new image's write that is not allowed rolls its switch back (R401). -/
def execBundleIssue (s : State) : Out :=
  match s.turn with
  | .agent q _ =>
    if leaderTrapped s.dev q then .next { s with dev := leaderStep q s.dev }
    else
      let d := advance q (ordFuel (s.dev.seq q).ord) s.dev
      if headForbidden d q then .next { s with dev := switchBack d } else .next (issueBundle q { s with dev := d })
  | _ => .next s

/-! ### Expansion of segments (R74 to R76, R78) -/

/-- The bundles of one line from its bytes, at most `left` of them; none when one crosses the line (R75). -/
def lineBundles : Nat → Nat → Bytes → Option (List (List (Nat × Nat)))
  | 0, _, _ => some []
  | _, 0, _ => some []
  | _, _, [] => some []
  | n + 1, left + 1, p :: l =>
    if p = 0 then some []
    else
      let slots := (List.range 8).filter fun i => p.getLsbD i
      if l.length < 4 * slots.length then none
      else
        let b := slots.zipIdx.map fun e => (e.1, leNat ((l.drop (4 * e.2)).take 4))
        (lineBundles n left (l.drop (4 * slots.length))).map fun r => b :: r

/-- What an expansion finds: a line is not there yet, the segment breaks a rule, or its bundles and the lines they take. -/
inductive Expansion where
  | wait
  | bad
  | ok (bundles : List (List (Nat × Nat))) (lines : Nat)
  deriving DecidableEq, Repr

/-- The lines of a segment from line k on, with fuel for the lines. -/
def expandLines (line : Nat → Option Bytes) : Nat → Nat → Nat → List (List (Nat × Nat)) → Expansion
  | 0, _, _, _ => .bad
  | n + 1, k, left, acc =>
    if left = 0 then .ok acc k
    else match line k with
      | none => .wait
      | some l =>
        match lineBundles 128 left (if k = 0 then l.drop 16 else l) with
        | none => .bad
        | some bs => expandLines line n (k + 1) (left - bs.length) (acc ++ bs)

/-- The 64 bytes of a code line: a page that is not here holds the expansion, one that may not be read fails it. -/
def codeLine (d : Dev) (q va : Nat) : Option (Option Bytes) :=
  match seqWay d q va with
  | .here loc true _ => (nowBytes d loc 64 q).map some
  | .miss => none
  | .absent .. => none
  | _ => some none

/-- The segments that the sequencer's object holds, where it has one (R76). -/
def objSegs (d : Dev) (q : Nat) : Option (List Nat) :=
  match d.launch? (d.seq q).place.launch with
  | some l => (d.objs.find? l.obj).map (·.segs)
  | none => none

/-- A segment expanded into a half (R74 to R76): none while a line is not there. -/
def expandSeg (d : Dev) (q seg : Nat) : Option Half :=
  let failed : Half := { seg := seg, next := 0, spidx := 0, hb := false, jt := false, jtAddr := 0, bundles := [], bad := true }
  match codeLine d q seg with
  | none => none
  | some none => some failed
  | some (some h) =>
    let w0 := leNat (h.take 8)
    let w1 := leNat ((h.drop 8).take 8)
    let next := alignDown w0 64
    let n := bits w1 0 8
    let nextOk := next = 0 || (match objSegs d q with | some l => l.contains next | none => true)
    if bits w0 56 8 ≠ 0 || bits w0 0 6 ≠ 0 || bits w1 34 14 ≠ 0 || bits w1 8 24 ≠ 0 || n = 0 || 128 < n || !nextOk then some failed
    else
      let line (k : Nat) : Option Bytes := (codeLine d q (seg + 64 * k)).map fun r => r.getD (toLe 64 0)
      match expandLines line (2 ^ 50) 0 n [] with
      | .wait => none
      | .bad => some failed
      | .ok bs lines =>
        -- with the lines of its jump-target table, which follow those of its bundles (R312)
        ((List.range (if bit w1 32 then 16 else 0)).mapM fun k => line (lines + k)).map fun l =>
          let words := chunks 8 128 l.flatten
          { seg := seg, next := next, spidx := bits w1 48 16, hb := bit w1 33, jt := bit w1 32, jtAddr := seg + 64 * lines, bundles := bs,
            table := words.map leNat }

/-- The frames that an expanded segment's lines were fetched from are accessed (R380). -/
def touchCode (q : Nat) (h : Half) (d : Dev) : Dev :=
  let lines := (h.jtAddr - h.seg) / 64 + if h.jt then 16 else 0
  (List.range (max 1 lines)).foldl (fun d k => match seqWay d q (h.seg + 64 * k) with
    | .here loc _ _ => touch d loc
    | _ => d) d

/-- SEGMENT_EXPANSION_COMPLETE (R78): the segment that a transfer waits for, else NEXT of the executing one, comes into the other
half. -/
def execSegmentExpansionComplete (s : State) : Out := runEvent s fun t d =>
  match t with
  | .agent q _ =>
    let x := d.seq q
    let goal : Option Nat := match x.want with
      | some p => some p.seg
      | none => match x.half with
        | some h => if h.next = 0 || x.other.any (fun o => decide (o.seg = h.next)) then none else some h.next
        | none => none
    if x.run = .absent then none
    else goal.bind fun seg => (expandSeg d q seg).map fun h => touchCode q h (d.setSeq q { x with other := some h, want := none })
  | _ => none

/-! ### Requests (R24, R370, R392) -/

/-- Sequencers of a launch that hold columns. -/
def seqsOf (x : Launch) : List Nat := x.clusters.flatMap fun c => if c.reported || c.away then [] else c.seqs

/-- A pre-emption request to every sequencer and unit of a launch (R14, R364). -/
def preempt (d : Dev) (l : Nat) : Dev :=
  match d.launch? l with
  | none => d
  | some x =>
    let d := (seqsOf x).foldl (fun d q => d.modSeq q fun s => if s.reqs.contains .preempt then s else { s with reqs := s.reqs ++ [.preempt] }) d
    let d := x.units.foldl (fun d u => d.modUnit u fun s => if s.reqs.contains .preempt then s else { s with reqs := s.reqs ++ [.preempt] }) d
    d.modLaunch l fun x => { x with st := .saving }

/-- ASYNC_REQUEST (R24): a request comes to a sequencer, or to a near-data unit (from number 2048 up), and waits for its next safe
point. A pre-emption is for the launch as a whole (R14), a park comes to an agent of a launch that is being parked (R370), and a stop
from the debugger that owns the sequencer (R392). -/
def execAsyncRequest (s : State) : Out := runEvent s fun t d =>
  match t with
  | .request q k =>
    let u := q - 2048
    let near := decide (2048 ≤ q)
    let l := if near then (d.unit u).launch else (d.seq q).place.launch
    let runs := if near then (d.unit u).run = .running else (d.seq q).run = .running
    let st (x : LSt) : Bool := (d.launch? l).any fun y => decide (y.st = x)
    if !runs then none
    else match k with
      | .preempt => if st .running then some (preempt d l) else none
      | .park =>
        if !st .parked then none
        else if near then (if (d.unit u).reqs.contains .park then none else some (d.modUnit u fun x => { x with reqs := x.reqs ++ [.park] }))
        else if (d.seq q).reqs.contains .park then none else some (d.modSeq q fun x => { x with reqs := x.reqs ++ [.park] })
      | .stop =>
        if near || !(d.seq q).owner || (d.seq q).reqs.contains .stop then none else some (d.modSeq q fun x => { x with reqs := x.reqs ++ [.stop] })
  | _ => none

/-! ### Elements and entries (R113, R116, R249 to R251) -/

/-- A step of a sequencer's order: what needs no step of its own before it and after it goes with it. -/
def orderStep (q : Nat) (f : Dev → Option Dev) (d : Dev) : Option Dev :=
  let n := ordFuel (d.seq q).ord
  let d := advance q n d
  if headForbidden d q then some (switchBack d) else if headHeld d q then none else (f d).map (advance q n)

/-- An access on its way to the host takes its place there, once those that left before it for its page have theirs (R265); a command that
forked behind such accesses waits for them (R196). -/
def farStep (q k : Nat) (fits : Placed → Bool) (d : Dev) : Option Dev :=
  let l := (d.seq q).far
  let page (p : Placed) : Nat := p.range.2.1 / 16384
  match l[k]? with
  | none => none
  | some p =>
    if !fits p || ((l.take k).any fun o => decide (page o = page p)) then none
    else some (perform (d.modSeq q fun s => { s with far := (s.far.eraseIdx k).dropWhile fun | .fork .. => true | _ => false }) p)

/-- Turn's second number: 0 the head of the order, 1 the first st.cf that stands aside or the read alone of an atomic, from 2 up an
access on its way to the host. -/
def farTurn (k : Nat) : Option Nat := if 2 ≤ k then some (k - 2) else none

/-- The head of a sequencer's order. -/
def headOp (d : Dev) (q : Nat) : Option OrdOp := (d.seq q).ord.head?

/-- LOAD_ELEMENT_PERFORM (R117, R249): the next load element takes its place; one whose granule is empty waits (R126, R251). -/
def execLoadElementPerform (s : State) : Out := runEvent s fun t d =>
  match t with
  | .agent q k =>
    match farTurn k with
    | some k => farStep q k Placed.isRead d
    | none => orderStep q (fun d =>
      match headOp d q with
      | some o => match OrdOp.op o with
        | .stream x =>
          if !o.op.isLoad || o.waits then none
          else match loadElem q x d with
            | some d => some d
            | none =>
              let fe := x.kind = .ldFe || x.kind = .ldFec
              (match seqWay d q (x.addr x.next) with
                | .here _ true _ => if fe && !feReady d q (x.addr x.next) x.esz x.kind then some (waitHead q d) else none
                | _ => none)
        | _ => none
      | none => none) d
  | _ => none

/-- LOAD_ENTRY_DELIVER (R113, R114, R116): the oldest entry whose elements are all there enters the load-data queue. -/
def execLoadEntryDeliver (s : State) : Out := runEvent s fun t d =>
  match t with
  | .agent q c =>
    let x := (d.seq q).col c
    match x.fill with
    | [] => none
    | e :: l =>
      if e.filled < e.elems || 64 ≤ x.ldq.length then none
      else some (d.modSeq q fun s => s.modCol c fun y =>
        { y with fill := l, ldq := y.ldq ++ [e], laq := if e.last then y.laq - 1 else y.laq })
  | _ => none

/-- STORE_ELEMENT_PERFORM (R121, R125, R250): the next store element takes its place; one whose granule is full waits (R126, R251). -/
def execStoreElementPerform (s : State) : Out := runEvent s fun t d =>
  match t with
  | .agent q k =>
    if k = 1 then sideStep q d
    else match farTurn k with
    | some k => farStep q k (fun | .rmw .. => false | .fork .. => false | p => !p.isRead) d
    | none => orderStep q (fun d =>
      match headOp d q with
      | some o => match OrdOp.op o with
        | .stream x =>
          if o.op.isLoad || o.waits then none
          else match storeElem q x d with
            | some d => some d
            | none =>
              (match seqWay d q (x.addr x.next) with
                | .here .. => if x.kind = .stFf && !feReady d q (x.addr x.next) x.esz .stFf then some (waitHead q d) else none
                | _ => none)
        | _ => none
      | none => none) d
  | _ => none

/-- STORE_STREAM_RESUME (R121): the page of a waiting store or atomic is resident. -/
def execStoreStreamResume (s : State) : Out := runEvent s fun t d =>
  match t with
  | .agent q _ =>
    let x := d.seq q
    match x.ord with
    | [] => none
    | o :: l =>
      if !x.missWait || x.storeMiss.isSome then none
      else if (OrdOp.op o).nextAddrs x |>.all fun a => match accessWay d q a with | .here _ _ true => true | .peer _ _ _ _ true => true | _ => false then
        orderStep q (headStep q) (d.setSeq q { x with missWait := false, ord := { o with waits := false } :: l })
      else none
  | _ => none

/-- FULL_EMPTY_WAIT_END (R126, R251): the granule that an element waits for has the state that it needs. -/
def execFullEmptyWaitEnd (s : State) : Out := runEvent s fun t d =>
  match t with
  | .agent q _ =>
    match (d.seq q).ord with
    | [] => none
    | o :: l =>
      match OrdOp.op o with
      | .stream x =>
        let fe := x.kind = .ldFe || x.kind = .ldFec || x.kind = .stFf
        if !o.waits || (d.seq q).missWait || !fe || !feReady d q (x.addr x.next) x.esz x.kind then none
        else
          let d := d.modSeq q fun y => { y with ord := { o with waits := false } :: l }
          orderStep q (headStep q) d
      | _ => none
  | _ => none

/-- ATOMIC_PERFORM (R127, R128, R249): the atomic takes its place, its read alone, or the write that is left of it. -/
def execAtomicPerform (s : State) : Out := runEvent s fun t d =>
  match t with
  | .agent q k =>
    match farTurn k with
    | some k => farStep q k (fun | .rmw .. => true | _ => false) d
    | none => orderStep q (fun d =>
      match headOp d q with
      | some o => match OrdOp.op o with
        | .atom a =>
          if o.waits then none
          else if a.half then atomWrite q d
          else if k = 1 then atomRead q a d
          else atomPerform q a d
        | _ => none
      | none => none) d
  | _ => none

/-! ### Ends of waits (R131, R194, R265) -/

/-- The condition of a waiting mwait (0 ne, 1 geu) or bwait (2) on the value that stands. -/
def waitMet (kind value v : Nat) : Bool :=
  match kind with
  | 0 => decide (v ≠ value)
  | 1 => decide (value ≤ v)
  | _ => bit v 63 != bit value 0

/-- The wait of a sequencer ends when its condition holds now. -/
def wake (q : Nat) (fits : Nat → Nat → Bool) (d : Dev) : Option Dev :=
  let x := d.seq q
  match x.waitOn with
  | none => none
  | some (loc, value, kind) =>
    if !fits loc kind then none
    else match readNow d loc 8 q with
      | some v => if waitMet kind value v then some (d.setSeq q { x with woke := some true }) else none
      | none => none

/-- MWAIT_WAKE (R131, R256). -/
def execMwaitWake (s : State) : Out := runEvent s fun t d =>
  match t with
  | .agent q _ => wake q (fun loc kind => decide (kind < 2) && !hostBias d loc) d
  | _ => none
/-- HOST_BIAS_MWAIT_POLL (R265): the word is read again. -/
def execHostBiasMwaitPoll (s : State) : Out := runEvent s fun t d =>
  match t with
  | .agent q _ => wake q (fun loc kind => decide (kind < 2) && hostBias d loc) d
  | _ => none
/-- BWAIT_WAKE (R194). -/
def execBwaitWake (s : State) : Out := runEvent s fun t d =>
  match t with
  | .agent q _ => wake q (fun _ kind => decide (kind = 2)) d
  | _ => none

end Sys2Proof.Machine
end

