-- ==== Sys2Proof/Machine/Matrix.lean ====
section
/-! DEFINITION. Majors 0x30 to 0x32 and the steps of the gather and the epilogue (R158, R163 to R165, R170 to R187). -/

namespace Sys2Proof.Machine

/-- Bytes of each latch (R158). -/
def latchBytes (s : Seq) : Nat := 4096 * s.ncols
/-- Entries of the command queue in use: a running call still holds its own (R164). -/
def Matrix.used (m : Matrix) : Nat := m.queue.length + m.running.toList.length

namespace Op

/-- A matrix-config trap (R187). -/
def matrixConfig {α : Type} (v : Nat) : SlotM α := do trap .matrixConfig [← slotNo, v]

/-- A command enters the matrix unit's queue of four (R164). -/
def matrixQueue (c : MCmd) : SlotM Unit := do
  holdUnless (decide ((← me).mx.used < 4))
  modMe fun s => { s with mx := { s.mx with queue := s.mx.queue ++ [c] } }

/-- N FP32 values at a register address / 32 of an epi descriptor, as every write issued before the epi's bundle leaves them
(R179, R180); 0xFFFF is none. -/
def epiVector (v n : Nat) : SlotM (List Nat) := do
  if v = 0xFFFF then return []
  let x ← get
  let q := x.iss.q
  check (decide (v * 32 + 4 * n ≤ (← me).share)) .columnBound [v * 32]
  let s := (landAll q 32 x.base).seq q
  return (List.range n).map fun j => s.spaceNum (v * 32 + 4 * j) 4

end Op

/-! ### Major 0x30 (R163 to R165) -/

/-- MCALL (R164, R165, R238). -/
def execMcall (n : BitVec 6) (m : Bool) (s : State) : Out := runSlot (do
  if ← Op.enabled m then
    let x ← Op.me
    let w3 := vget x.regs.views 3 0
    let m7 := (vget x.regs.mregs 7 0).toNat
    Op.check (decide (16 * n.toNat + 15 < x.microWords)) .columnBound [16 * n.toNat]
    if viewCount w3 = 0 || 64 < viewCount w3 then Op.matrixConfig w3.toNat
    if bits m7 56 8 ≠ 0 || bits m7 0 4 ≠ 0 then Op.matrixConfig m7
    let inside ← Op.inRegion
    if inside && m7 ≠ 0 then Op.deferRoom
    Op.matrixQueue (.call { id := x.opCtr, wp := x.regs.mregs.toList, k := x.regs.scaleK.toList.map fun k => toLe 64 k.toNat,
                            table := (List.range 16).map fun i => bits x.regs.scaleTab.toNat (16 * i) 16, bar := m7,
                            pc := (← get).iss.pc, slot := ← Op.slotNo, fork := x.opCtr, upc := 16 * n.toNat })
    if inside && m7 ≠ 0 then Op.order (.mbarr x.opCtr m7 none)
    else Op.modMe fun x => { x with opCtr := x.opCtr + 1 }) s
/-- MSET (R163). -/
def execMset (d : BitVec 3) (a : Opnd) (m : Bool) (s : State) : Out := runSlot (do
  let x ← Op.rdS a
  if ← Op.enabled m then Op.pend (.mreg d.toNat) 1 (x.setWidth 256) 0xFF#32) s
/-- MGET (R163). -/
def execMget (d : Opnd) (a : BitVec 3) (m : Bool) (s : State) : Out := runSlot (do
  let t ← Op.target 0 d
  Op.putS t 1 (vget (← Op.me).regs.mregs a.toNat 0) (← Op.enabled m)) s

/-! ### Major 0x31 (R170 to R172) -/

/-- MLD (R171). -/
def execMld (a b : Opnd) (s : State) : Out := runSlot (do
  let va := (← Op.rdS a).toNat
  let w := (← Op.rdS b).toNat
  let i ← Op.slotNo
  let x ← Op.me
  let first := bits w 0 10
  let count := bits w 16 11
  if bits w 10 6 ≠ 0 || bits w 27 37 ≠ 0 || count = 0 then Op.matrixConfig w
  Op.check (decide (first + count ≤ x.microWords)) .columnBound [first + count - 1]
  Op.check (decide (va % 8 = 0)) .streamShape [i, va]
  Op.footprint ((List.range count).map fun k => (va + 8 * k, 8)) true false false
  Op.matrixQueue (.mld x.opCtr va first count [])
  Op.orderNow (.mld x.opCtr)) s
/-- MGAT (R172). -/
def execMgat (j : BitVec 1) (a : Opnd) (s : State) : Out := runSlot (do
  let base := (← Op.rdRun a 0).toNat
  let w := (← Op.rdRun a 1).toNat
  let ix := (← Op.rdRun a 2).toNat
  let i ← Op.slotNo
  let x ← Op.me
  let rows := bits w 16 6 + 1
  let rb := bits w 0 10
  let stride := sx 32 (bits w 32 32)
  if bits w 22 10 ≠ 0 || bits w 10 6 ≠ 0 || rb % 32 ≠ 0 || rb < 32 || 512 < rb || latchBytes x < rows * rb then Op.matrixConfig w
  if bits ix 16 48 ≠ 0 || ix % 4 ≠ 0 then Op.matrixConfig ix
  Op.check (decide (ix + 4 * rows ≤ x.share)) .columnBound [ix]
  let idx := (List.range rows).map fun r => x.spaceNum (ix + 4 * r) 4
  let d ← Op.mapped
  let q ← Op.sqid
  let addrs := idx.map fun (k : Nat) => addr64 base ((k : Int) * stride)
  match addrs.find? fun p => !(decide (p % 32 = 0) && inStash d q p rb) with
  | some p => Op.trap .streamShape [i, p]
  | none =>
    Op.matrixQueue (.mgat x.opCtr j.toNat base stride rb idx [])
    Op.orderNow (.mgat x.opCtr)) s

/-! ### Major 0x32 (R178 to R181) -/

/-- EPI (R179, R181); of several checks that fail the first gives the cause: matrix-config, stream-shape, column-bound, then the
footprint's (the model's choice, log 82). -/
def execEpi (a : Opnd) (m : Bool) (s : State) : Out := runSlot (do
  let dst := (← Op.rdRun a 0).toNat
  let w := (← Op.rdRun a 1).toNat
  let v := (← Op.rdRun a 2).toNat
  let c := (← Op.rdRun a 3).toNat
  if ← Op.enabled m then
    let i ← Op.slotNo
    let x ← Op.me
    let (mm, n) := tileDims x
    let ofmt := bits w 28 4
    let rst := sx 32 (bits w 32 32)
    let act := bits w 23 2
    if ofmt = 6 || ofmt = 7 || ofmt = 11 || ofmt = 15 || act = 3 || bits w 0 23 ≠ 0 then Op.matrixConfig w
    if bits v 32 32 ≠ 0 then Op.matrixConfig v
    if act = 2 && ((f32Num (bits c 32 32)).isNan || (f32Num (bits c 0 32)).isNan) then Op.matrixConfig c
    let es := max 1 (Op.outBits ofmt / 8)
    Op.check (decide (dst % es = 0) && decide (rst % es = 0)) .streamShape [i, dst]
    let scv ← Op.epiVector (bits v 16 16) n
    let bsv ← Op.epiVector (bits v 0 16) n
    let e : EpiDesc := { id := x.opCtr, dst := dst, rst := rst, ofmt := ofmt, rm := bits w 26 2, sat := bit w 25, act := act, scv := scv, bsv := bsv,
                         hasScale := decide (bits v 16 16 ≠ 0xFFFF), hasBias := decide (bits v 0 16 ≠ 0xFFFF), lo := bits c 0 32, hi := bits c 32 32,
                         col := i / 2 }
    let foot := ((List.range mm).map fun r => e.runs x r).flatten
    Op.footprint foot false true false
    Op.deferRoom
    let inside ← Op.inRegion
    if !inside then
      Op.holdUnless (decide (storesHeld (← Op.me) (i / 2) < 64))
      Op.modMe fun s => s.modCol (i / 2) fun c => { c with saq := c.saq + 1 }
    Op.watch foot
    Op.order (.epi e 0)) s
/-- RFREE (R178, R181). -/
def execRfree (m : Bool) (s : State) : Out := runSlot (do
  if ← Op.enabled m then
    Op.deferRoom
    Op.order (.rfree (← Op.me).opCtr)) s
/-- RWAIT (R178): n = 0 encodes 64. It names no scalar: its matrix-config record holds n (log 72). -/
def execRwait (n : BitVec 6) (s : State) : Out := runSlot (do
  let x ← Op.me
  let k := if n.toNat = 0 then 64 else n.toNat
  if viewCount (vget x.regs.views 3 0) < k then Op.matrixConfig k
  Op.holdUnless (decide (k ≤ x.mx.np))) s
/-- RWAIT_IDLE (R178). -/
def execRwaitIdle (s : State) : Out := runSlot (do Op.holdUnless (!(← Op.me).mx.busy)) s

/-! ### Reading at the place in the order (R171, R172) -/

/-- An mld at its turn writes the micro store (R171, R243). -/
def mldWrite (q : Nat) (d : Dev) : Option Dev :=
  let s := d.seq q
  match s.mx.running, s.mx.queue with
  | none, .mld _ _ f n got :: l =>
    if got.length < n then none
    else
      let put (m : Matrix) (e : Nat × Bytes × List Nat) : Matrix :=
        let w := f + e.1
        { m with store := m.store.put w (BitVec.ofNat 64 (leNat e.2.1)),
                 poisoned := if !e.2.2.isEmpty then insertNat w m.poisoned else m.poisoned.filter fun x => decide (x ≠ w) }
      some (d.setSeq q { s with mx := got.foldl put { s.mx with queue := l } })
  | _, _ => none

/-- An mgat at its turn fills its latch (R172, R173, R185). -/
def mgatFill (q : Nat) (d : Dev) : Option Dev :=
  let s := d.seq q
  match s.mx.running, s.mx.queue with
  | none, .mgat _ j _ _ rb ix got :: l =>
    let n := rb / 32
    if got.length < n * ix.length then none
    else
      let row (r : Nat) : Bytes := ((List.range n).map fun c => (got.find (n * r + c) ([], [])).1).flatten
      let psn := got.flatMap fun e => e.2.2.map fun c => (e.1 / n, 32 * (e.1 % n) + c)
      let x : Latch := { rows := (List.range ix.length).map row, psn := psn }
      some (d.setSeq q { s with mx := if j = 0 then { s.mx with queue := l, latch0 := some x } else { s.mx with queue := l, latch1 := some x } })
  | _, _ => none

/-- Both parts of a step, as far as each can happen. -/
def bothOf (f g : Dev → Option Dev) (d : Dev) : Option Dev :=
  match f d with
  | some e => some ((g e).getD e)
  | none => g d

/-- MLD_PERFORM (R164, R171). -/
def execMldPerform (s : State) : Out := runEvent s fun t d =>
  match t with
  | .agent q _ => if unitsRun d q then bothOf (orderStep q (placeReads q true)) (mldWrite q) d else none
  | _ => none
/-- MGAT_PERFORM (R164, R172). -/
def execMgatPerform (s : State) : Out := runEvent s fun t d =>
  match t with
  | .agent q _ => if unitsRun d q then bothOf (orderStep q (placeReads q false)) (mgatFill q) d else none
  | _ => none
/-- MATRIX_CALL_START (R164, R166). -/
def execMatrixCallStart (s : State) : Out := runEvent s fun t d =>
  match t with
  | .agent q _ =>
    let x := d.seq q
    match x.mx.running, x.mx.queue with
    | none, .call c :: l => if unitsRun d q && x.mx.fault.isNone then some (d.setSeq q { x with mx := { x.mx with queue := l, running := some c } }) else none
    | _, _ => none
  | _ => none

/-! ### The epilogue (R180, R181) -/

/-- The larger or smaller of two numbers that are no NaN, −0 below +0 (R180). -/
def numPick (larger : Bool) (x y : Num) : Num :=
  let below := match Num.cmp x y with
    | .lt => true
    | .gt => false
    | .eq => x.isNeg
  if below == larger then y else x

/-- The format number of a tile's accumulators (R174): INT32, FP32, FP64. -/
def accNum (af v : Nat) : Num :=
  match af with
  | 0 => Num.ofInt (sx 32 v)
  | 1 => FloatFmt.decode ⟨8, 23, 127, 0⟩ v
  | _ => FloatFmt.decode ⟨11, 52, 1023, 0⟩ v

/-- The format with a code of R87. -/
def fmtCode (c : Nat) : Fmt :=
  [Fmt.f64, .f32, .bf16, .f16, .e4m3, .e5m2, .e3m2, .e2m3, .i8, .u8, .i4, .zq4, .i16, .i32, .i64].getD c .i8

/-- One output of an epilogue from an accumulator value (R180, R317). -/
def epiOut (e : EpiDesc) (erratum : Bool) (af j v : Nat) : Nat × BitVec 6 :=
  let f := fmtCode e.ofmt
  let isF := (floatFmt f).isSome
  let a := accNum af v
  let x : Num := if a.isNan then a
    else
      let y := if e.hasScale then Num.mul a (f32Num (e.scv.getD j 0)) else a
      Num.add false y (if e.hasBias then f32Num (e.bsv.getD j 0) else .fin false 0 0)
  let nv := flagIf x.invalid flagNV
  let y : Num := if x.isNan then .nan false
    else match e.act with
      | 1 => if Num.cmp x (.fin false 0 0) = .gt then x
             else .fin (erratum && isF && decide (Num.cmp x (.fin false 0 0) = .lt)) 0 0
      | 2 => numPick false (numPick true x (f32Num e.lo)) (f32Num e.hi)
      | _ => x
  let r : Nat × BitVec 6 :=
    match floatFmt f with
    | some g => if af ≠ 0 && Op.outBits 1 * af ≤ Op.outBits e.ofmt then g.arith e.rm e.sat y else g.round e.rm e.sat y
    | none =>
      match af, y with
      | 0, .fin s m ex =>
        let k := (-ex).toNat
        if 0 ≤ ex then intToInt f e.sat (scaled s m ex 0)
        else if m % 2 ^ k = 0 then intToInt f e.sat (if s then -((m / 2 ^ k : Nat) : Int) else (m / 2 ^ k : Nat))
        else toIntFmt f e.rm y
      | _, _ => toIntFmt f e.rm y
  (r.1, r.2 ||| nv)

/-- The tail tile is freed (R175, R177). -/
def freeTile (s : Seq) : Seq :=
  let n := viewCount (vget s.regs.views 3 0)
  { s with mx := { s.mx with tags := s.mx.tags.set s.mx.tail 0, np := s.mx.np - 1, tail := if n = 0 then 0 else (s.mx.tail + 1) % n } }

/-- Bytes of row i of the tail tile's outputs, and their flags. -/
def epiRow (s : Seq) (e : EpiDesc) (i : Nat) : Bytes × BitVec 6 :=
  let (_, n) := tileDims s
  let tag := s.mx.tags.getD s.mx.tail 0
  let af := tag % 4
  let z := if af = 2 then 8 else 4
  let w3 := vget s.regs.views 3 0
  let a := viewBase w3 + s.mx.tail * viewSize w3
  let outs := (List.range n).map fun j => epiOut e (s.place.errm.getLsbD 0) af j (s.spaceNum (a + (i * n + j) * z) z)
  let w := Op.outBits e.ofmt
  (toLe (n * w / 8) (packLanes w (outs.map (·.1))), flagsOr (outs.map (·.2)))

/-- Flags and marks of a tile that go to est as it is converted (R177, R183, R185). -/
def epiStatus (s : Seq) (fl : BitVec 6) : Seq :=
  let tag := s.mx.tags.getD s.mx.tail 0
  { s with regs := { s.regs with est := s.regs.est ||| fl.setWidth 64 ||| (if bit tag 3 then 0x40#64 else 0) ||| (if bit tag 4 then 0x80#64 else 0) } }

/-- A write of row r of an epi whose bytes stand now. -/
def Placed.converted (q id r : Nat) (b : Bytes) (psn : Bool) : Placed → Placed
  | .epi o i rr off loc n => if o = q && i = id && rr = r then .row o loc ((b.drop off).take n) psn else .epi o i rr off loc n
  | p => p

/-- A row's bytes stand: in memory's order, on their way to the host, and at peers (R181, R265). -/
def fillRow (q id r : Nat) (b : Bytes) (psn : Bool) (d : Dev) : Dev :=
  let send (o : PeerOut) : PeerOut := match o.row with
    | some (i, rr, off) => if o.agent = q && i = id && rr = r then { o with data := some (((b.drop off).take o.n).map some) } else o
    | none => o
  let d := d.modSeq q fun s => { s with far := s.far.map (Placed.converted q id r b psn) }
  settle { d with placed := d.placed.map (Placed.converted q id r b psn), peerOut := d.peerOut.map send }

/-- The next row of the epi whose turn it is (R181): its tile is published, and the row has its place. -/
def epiStep (q : Nat) (d : Dev) : Option Dev :=
  let s := d.seq q
  match s.mx.epq with
  | .epi e r :: l =>
    let ahead (o : OrdOp) : Bool := match o.op with | .epi x k => decide (x.id = e.id) && decide (k ≤ r) | _ => false
    if s.mx.np = 0 || s.ord.any ahead then none
    else
      let (b, fl) := epiRow s e r
      let d := (fillRow q e.id r b (bit (s.mx.tags.getD s.mx.tail 0) 4) d).modSeq q fun s => epiStatus s fl
      if r + 1 < (tileDims s).1 then some (d.modSeq q fun s => { s with mx := { s.mx with epq := .epi e (r + 1) :: l } })
      else some (d.modSeq q fun s => freeTile ({ s with mx := { s.mx with epq := l } }.modCol e.col fun c => { c with saq := c.saq - 1 }))
  | _ => none

/-- EPI_PERFORM (R181). -/
def execEpiPerform (s : State) : Out := runEvent s fun t d =>
  match t with
  | .agent q _ => if unitsRun d q then epiStep q d else none
  | _ => none
/-- RFREE_PERFORM (R178, R181). -/
def execRfreePerform (s : State) : Out := runEvent s fun t d =>
  match t with
  | .agent q _ =>
    let x := d.seq q
    match x.mx.epq with
    | .rfree :: l => if unitsRun d q && x.mx.np ≠ 0 then some (d.setSeq q (freeTile { x with mx := { x.mx with epq := l } })) else none
    | _ => none
  | _ => none

end Sys2Proof.Machine
end

