-- ==== Sys2Proof/Machine/Micro.lean ====
section
/-! DEFINITION. The microprogram: micro-words of a running matrix call (R56 to R58, R159, R166 to R169, R174 to R176, R184, R185). -/

namespace Sys2Proof.Machine

/-! ### Operands (R159, R168) -/

/-- Bits of an element in packed form (R37). -/
def elemBits (f : Fmt) : Nat :=
  match f with
  | .e3m2 | .e2m3 => 6
  | f => laneW f

/-- Operand pairs (R159), by format codes. -/
def pairOk (a b : Nat) : Bool :=
  (decide (a = b) && decide (a ≤ 3)) || (decide (4 ≤ a) && decide (a ≤ 7) && decide (4 ≤ b) && decide (b ≤ 7))
    || (decide (8 ≤ a) && decide (a ≤ 10) && decide (8 ≤ b) && decide (b ≤ 10))
    || (decide (a = 11) && [11, 4, 5, 2, 3].contains b) || (decide (b = 11) && [4, 5, 2, 3].contains a)

/-- K-group width of a format (R54). -/
def groupW (f : Nat) : Nat := [1, 2, 4, 4, 8, 8, 8, 8, 8, 8, 16, 16].getD f 1

/-- Accumulator of a pair (R55): 0 INT32, 1 FP32, 2 FP64. -/
def accOf (a b : Nat) : Nat :=
  if 8 ≤ a && a ≤ 10 && 8 ≤ b && b ≤ 10 then 0 else if a = 0 && b = 0 then 2 else 1

/-- A row of an operand source with its poisoned bytes: a latch row, or an element of w2 (R168, R173). -/
def sourceRow (s : Seq) (src r : Nat) : Option (Bytes × List Nat) :=
  let latch (l : Option Latch) : Option (Bytes × List Nat) :=
    l.bind fun x => (x.rows[r]?).map fun b => (b, (x.psn.filter fun e => decide (e.1 = r)).map (·.2))
  match src with
  | 0 => latch s.mx.latch0
  | 1 => latch s.mx.latch1
  | 2 =>
    let w2 := vget s.regs.views 2 0
    if r < viewCount w2 then some (s.spaceBytes (viewBase w2 + r * viewSize w2) (viewSize w2), []) else none
  | _ => none

/-- Element k of a packed row, with whether it is poisoned; none past the row's end (R168). -/
def rowElem (f : Fmt) (row : Bytes × List Nat) (k : Nat) : Option (Nat × Bool) :=
  let w := elemBits f
  let lo := w * k / 8
  let hi := (w * k + w - 1) / 8
  if hi < row.1.length then
    some (bits (leNat ((row.1.drop lo).take (hi + 1 - lo))) (w * k % 8) w, row.2.any fun b => decide (lo ≤ b) && decide (b ≤ hi))
  else none

/-- The exact value of an operand element at position p and reduction index k (R52, R168). -/
def operandNum (c : Call) (f : Fmt) (kx p k v : Nat) : Num :=
  match f with
  | .zq4 =>
    let r := c.k.getD (kx + k / 32) []
    let byte (i : Nat) : Nat := (r.getD i 0).toNat
    zqValue (packLanes 16 c.table) (byte (32 + p)) (byte p) v
  | f => numOf f v

/-- Operand A or B as rows of values over k, for n positions: A(p, k) or B(k, p). -/
def operand (s : Seq) (c : Call) (isA : Bool) (f : Fmt) (src wp kx n k : Nat) : Option (List (List (Num × Bool))) :=
  (List.range n).mapM fun p => (List.range k).mapM fun j => do
    let (r, e) := if isA then (if src = 2 then (wp + p, j) else (p, wp + j)) else (wp + j, p)
    let row ← sourceRow s src r
    let (v, psn) ← rowElem f row e
    return (operandNum c f kx p j v, psn)

/-! ### Accumulation (R56 to R58) -/

/-- A group's exact sum added to an accumulator with one rounding; INT32 wraps and tells of overflow. -/
def accAdd (af c : Nat) (sum : Num) : Nat × Bool :=
  match af with
  | 0 =>
    let v := sx 32 c + (match sum with | .fin s m e => scaled s m e 0 | _ => 0)
    (wrap 32 v, decide (v < -2 ^ 31) || decide (2 ^ 31 ≤ v))
  | 1 => ((FloatFmt.round ⟨8, 23, 127, 0⟩ 0 false (Num.add false (accNum 1 c) sum)).1, false)
  | _ => ((FloatFmt.round ⟨11, 52, 1023, 0⟩ 0 false (Num.add false (accNum 2 c) sum)).1, false)

/-- One accumulator through a list of products: value, open group sum and overflow. -/
def accRun (af w : Nat) : Nat → Num → Nat → Bool → List Num → Nat × Num × Bool
  | c, part, _, o, [] => (c, part, o)
  | c, part, n, o, x :: l =>
    let part := Num.add false part x
    if n + 1 = w then
      let (c, v) := accAdd af c part
      accRun af w c Num.start 0 (o || v) l
    else accRun af w c part (n + 1) o l

/-- The open short group is closed (R56, R168). -/
def Acc.close (a : Acc) : Acc :=
  if a.partK = 0 then a
  else
    let r := a.elems.zipWith (accAdd (accOf a.fa a.fb)) a.part
    { a with elems := r.map (·.1), part := a.part.map fun _ => Num.start, partK := 0, ovf := a.ovf || r.any (·.2) }

/-- Bytes of an accumulator. -/
def accBytes (af : Nat) : Nat := if af = 2 then 8 else 4

/-- Register address of ring tile t. -/
def tileAddr (s : Seq) (t : Nat) : Nat := let w3 := vget s.regs.views 3 0; viewBase w3 + t * viewSize w3

/-- An accumulation of the head tile as it starts (R168, R176). -/
def Acc.open (s : Seq) (fa fb : Nat) (zero : Bool) : Acc :=
  let (m, n) := tileDims s
  let z := accBytes (accOf fa fb)
  let a := tileAddr s s.mx.head
  let tag := s.mx.tags.getD s.mx.head 0
  { fa := fa, fb := fb, elems := (List.range (m * n)).map fun e => if zero then 0 else s.spaceNum (a + e * z) z,
    part := (List.range (m * n)).map fun _ => Num.start, ovf := bit tag 3, psn := bit tag 4 }

/-- The head tile's bytes and its OVF and PSN marks as an accumulation leaves them (R176, R177, R185). -/
def writeTile (s : Seq) (a : Acc) (published : Bool) : Seq :=
  let af := accOf a.fa a.fb
  let s := s.putSpace (tileAddr s s.mx.head) ((a.elems.map fun v => (toLe (accBytes af) v).map fun b => (b, true)).flatten)
  let tag := (if published then af + 4 else 0) + 8 * a.ovf.toNat + 16 * a.psn.toNat
  { s with mx := { s.mx with tags := s.mx.tags.set s.mx.head tag } }

/-! ### How a call ends (R165, R184, R238) -/

/-- A call makes its arrival, or leaves its code for the rend to which the arrival is deferred. -/
def callEnd (q : Nat) (c : Call) (code : Nat) (d : Dev) : Option Dev :=
  let s := d.seq q
  let mine (o : OrdOp) : Bool := match o.op with | .mbarr i _ _ => decide (i = c.id) | _ => false
  let fill (o : OrdOp) : OrdOp := match o.op with | .mbarr i b _ => if i = c.id then { o with op := .mbarr i b (some code) } else o | _ => o
  if s.region.deferred.any mine || s.ord.any mine then
    some (d.setSeq q { s with ord := s.ord.map fill, region := { s.region with deferred := s.region.deferred.map fill } })
  else callArrive q c code d

/-- A call's arrival has to wait for a page of its barrier: the page is asked for. -/
def callWaits (q : Nat) (l : List MCmd) (d : Dev) : Option Dev :=
  l.findSome? fun
    | .call c => arriveRequest (dieOf q) (d.seq q).place.ten c.bar d
    | _ => none

/-- The later entries of the queue are discarded, each call with code 0x42 (R184). -/
def discardQueue (q : Nat) : List MCmd → Dev → Option Dev
  | [], d => some d
  | .call c :: l, d => (callEnd q c 0x42 d).bind (discardQueue q l)
  | .mld i .. :: l, d => discardQueue q l (d.modSeq q fun s => { s with ord := s.ord.filter fun o => decide (o.op ≠ .mld i) })
  | .mgat i .. :: l, d => discardQueue q l (d.modSeq q fun s => { s with ord := s.ord.filter fun o => decide (o.op ≠ .mgat i) })

/-- An error inside the running call (R184): the call is abandoned, the queue discarded, and the fault waits for the next
bundle; an arrival that has to wait holds it. -/
def callFault (q : Nat) (cause : Cause) (code : Nat) (d : Dev) : Option Dev :=
  let s := d.seq q
  match s.mx.running with
  | none => none
  | some c =>
    let t : TrapInfo := { cause := cause.code, upc := c.upc, cont := [c.pc.ptr, c.upc, (s.mx.store.find c.upc 0).toNat] }
    (((callEnd q c code d).bind (discardQueue q s.mx.queue)).map fun d =>
      d.modSeq q fun s => { s with mx := { s.mx with running := none, queue := [], fault := some t } }).or (callWaits q (.call c :: s.mx.queue) d)

/-- The device with the running call changed. -/
def setCall (q : Nat) (c : Call) (d : Dev) : Dev := d.modSeq q fun s => { s with mx := { s.mx with running := some c } }

/-- A micro-word of the running call of the sequencer whose matrix unit moves: its fields and the call. -/
def runMicro (s : State) (f : Nat → Nat → Call → Dev → Option Dev) : Out :=
  match s.turn with
  | .agent q _ =>
    match (s.dev.seq q).mx.running with
    | none => .fault .noCall
    | some c => runEvent s fun _ d => if unitsRun d q then f q ((d.seq q).mx.store.find c.upc 0).toNat c d else none
  | _ => .fault .noCall

/-! ### The micro-operations (R168, R169) -/

/-- MMAC (R168): the head tile's OVF and PSN marks are set as it accumulates (R177, R185). FA and FB exchanged within one open tile are
another pair (the model's choice, log 64). -/
def execMmac (s : State) : Out := runMicro s fun q w c d =>
  let x := d.seq q
  let fa := bits w 54 4
  let fb := bits w 50 4
  let asrc := bits w 48 2
  let bsrc := bits w 46 2
  let ka := bits w 27 3
  let kb := bits w 24 3
  let k := bits w 30 10 + 1
  let wa := (c.wp.getD (bits w 43 3) 0).toNat
  let wb := (c.wp.getD (bits w 40 3) 0).toNat
  let w3 := vget x.regs.views 3 0
  let (m, n) := tileDims x
  let bad : Option Dev := callFault q .matrixFault 0x41 d
  let zqBad (f kx wp : Nat) : Bool := if f = 11 then decide (wp % 32 ≠ 0) || decide (7 < kx + (k - 1) / 32) else decide (kx ≠ 0)
  let change := match c.acc with | some a => decide (a.fa ≠ fa) || decide (a.fb ≠ fb) | none => false
  if !pairOk fa fb || asrc = 3 || bsrc = 3 || zqBad fa ka wa || zqBad fb kb wb || change || viewSize w3 < m * n * accBytes (accOf fa fb) then bad
  else if viewCount w3 ≤ x.mx.np then none
  else
    match operand x c true (fmtCode fa) asrc wa ka m k, operand x c false (fmtCode fb) bsrc wb kb n k with
    | some a, some b =>
      let acc := c.acc.getD (Acc.open x fa fb (bit w 23))
      let af := accOf fa fb
      let gw := min (groupW fa) (groupW fb)
      let cells := (a.map fun r => b.map fun u => (r.zip u).map fun e => Num.mul e.1.1 e.2.1).flatten
      let res := (cells.zip (acc.elems.zip acc.part)).map fun e => accRun af gw e.2.1 e.2.2 acc.partK false e.1
      let psn := (a.any fun r => r.any (·.2)) || (b.any fun r => r.any (·.2))
      let acc : Acc := { acc with elems := res.map (·.1), part := res.map (·.2.1), partK := (acc.partK + k) % gw,
                                  ovf := acc.ovf || res.any (·.2.2), psn := acc.psn || psn }
      let d := d.setSeq q { x with mx := { x.mx with tags := x.mx.tags.set x.mx.head (8 * acc.ovf.toNat + 16 * acc.psn.toNat) } }
      some (setCall q { c with acc := some acc, upc := c.upc + 1, err := if psn && c.err = 0 then 0x40 else c.err } d)
    | _, _ => bad

/-- MPUB (R175). -/
def execMpub (s : State) : Out := runMicro s fun q _ c d =>
  match c.acc with
  | none => callFault q .matrixFault 0x41 d
  | some a =>
    let x := writeTile (d.seq q) a.close true
    let n := viewCount (vget x.regs.views 3 0)
    some (setCall q { c with acc := none, upc := c.upc + 1 }
      (d.setSeq q { x with mx := { x.mx with np := x.mx.np + 1, head := if n = 0 then 0 else (x.mx.head + 1) % n } }))

/-- MEND (R165, R169, R176). -/
def execMend (s : State) : Out := runMicro s fun q _ c d =>
  ((callEnd q c c.err d).map fun d =>
    let x := d.seq q
    let x := match c.acc with
      | some a => writeTile x a.close false
      | none => x
    d.setSeq q { x with mx := { x.mx with running := none } }).or (callWaits q [.call c] d)

/-- MLOOP (R169). -/
def execMloop (s : State) : Out := runMicro s fun q w c d =>
  let i := bits w 56 2
  let stop := bits w 30 10
  if stop ≤ c.upc || c.act.getD i false then callFault q .matrixFault 0x41 d
  else if (d.seq q).microWords ≤ stop then callFault q .columnBound 0x41 d
  else
    let n := if bit w 55 then bits (c.wp.getD (bits w 52 3) 0).toNat 0 32 else bits w 40 12
    if n = 0 then some (setCall q { c with lc := c.lc.set i 0, upc := stop + 1 } d)
    else some (setCall q { c with lc := c.lc.set i n, act := c.act.set i true, upc := c.upc + 1 } d)

/-- MNEXT (R169). -/
def execMnext (s : State) : Out := runMicro s fun q w c d =>
  let i := bits w 56 2
  let target := bits w 46 10
  let n := c.lc.getD i 0 - 1
  if (d.seq q).microWords ≤ target then callFault q .columnBound 0x41 d
  else if n ≠ 0 then some (setCall q { c with lc := c.lc.set i n, upc := target } d)
  else some (setCall q { c with lc := c.lc.set i 0, act := c.act.set i false, upc := c.upc + 1 } d)

/-- MADD (R169). -/
def execMadd (s : State) : Out := runMicro s fun q w c d =>
  let i := bits w 55 3
  let v := BitVec.ofNat 64 (addr64 (c.wp.getD i 0).toNat (sx 32 (bits w 0 32)))
  some (setCall q { c with wp := c.wp.set i v, upc := c.upc + 1 } d)

/-- RESERVED_MICRO_WORD (R167, R184): a reserved micro-operation or field. -/
def execReservedMicroWord (s : State) : Out := runEvent s fun t d =>
  match t with
  | .agent q _ => if unitsRun d q then callFault q .matrixFault 0x41 d else none
  | _ => none

/-- A micro-PC beyond the share, or a poisoned micro-word (R169, R184, R243): what ends the call before its word is taken. -/
def microBlocked (q : Nat) (d : Dev) : Option (Option Dev) :=
  let s := d.seq q
  match s.mx.running with
  | none => some none
  | some c =>
    if !unitsRun d q then some none
    else if s.microWords ≤ c.upc then some (callFault q .columnBound 0x41 d)
    else if s.mx.poisoned.contains c.upc then some (callFault q .matrixFault 0x40 d)
    else none

end Sys2Proof.Machine
end

