-- ==== Sys2Proof/Machine/Vector.lean ====
section
/-! DEFINITION. Majors 0x18 to 0x2E: vector integer, floating point, conversions, ZQ4, permutes, reductions, compares and
selects (R138 to R157). -/

namespace Sys2Proof.Machine

/-! ### Lane results -/

/-- A lane result with its flags. -/
abbrev LaneRes := Nat × BitVec 6

/-- An integer lane operation modulo 2^w (R141). -/
def intWrap (f : Fmt) (g : Int → Int → Int) (a b : Nat) : LaneRes := (wrap (laneW f) (g (intOf f a) (intOf f b)), 0)
/-- An integer lane operation clamped to its format (R141). -/
def intClamp (f : Fmt) (g : Int → Int → Int) (a b : Nat) : LaneRes :=
  let (lo, hi) := (intRange f).getD (0, 0)
  (wrap (laneW f) (clampInt lo hi (g (intOf f a) (intOf f b))).1, 0)
/-- A shift of a lane of w bits (R142): left, right with zeros, right with the sign. -/
def laneShl (w a b : Nat) : LaneRes := (if w ≤ b then 0 else a * 2 ^ b % 2 ^ w, 0)
/-- Shift right with zeros. -/
def laneShr (w a b : Nat) : LaneRes := (if w ≤ b then 0 else a / 2 ^ b, 0)
/-- Shift right with the sign. -/
def laneSar (w a b : Nat) : LaneRes := (wrap w (sx w a / (2 ^ min b w : Nat)), 0)

/-- The parameters of a floating-point lane format; the callers' formats all have them (R143). -/
def fmtOf (f : Fmt) : FloatFmt := (floatFmt f).getD ⟨8, 23, 127, 0⟩

/-- The smaller or larger of two floating-point lanes (R143): NaN is canonical, −0 is below +0. -/
def floatPick (f : FloatFmt) (larger : Bool) (a b : Nat) : LaneRes :=
  let x := f.decode a
  let y := f.decode b
  if x.isNan || y.isNan then (f.nanBits, flagIf (x.invalid || y.invalid) flagNV)
  else
    let below := match Num.cmp x y with
      | .lt => true
      | .gt => false
      | .eq => x.isNeg
    (if below == larger then b else a, 0)

/-- |a| or −a (R144). -/
def floatSign (f : FloatFmt) (neg : Bool) (a : Nat) : LaneRes :=
  let x := f.decode a
  if x.isNan then (f.nanBits, flagIf x.invalid flagNV)
  else
    let m := bits a 0 (f.ebits + f.mbits)
    (f.signed (neg && !bit a (f.ebits + f.mbits)) m, 0)

/-- FP32's parameters. -/
def fp32 : FloatFmt := ⟨8, 23, 127, 0⟩

/-- 1 / a (R144). -/
def laneRcp (rm : Nat) (sat : Bool) (a : Nat) : LaneRes :=
  match fp32.decode a with
  | .nan i => (fp32.nanBits, flagIf i flagNV)
  | .inf s => (fp32.signed s 0, 0)
  | .fin s m e =>
    if m = 0 then (fp32.signed s fp32.infBits, flagDZ)
    else let (x, st) := rcpFin s m e; fp32.arith rm sat x st
/-- 1 / √a (R144). -/
def laneRsqrt (rm : Nat) (sat : Bool) (a : Nat) : LaneRes :=
  match fp32.decode a with
  | .nan i => (fp32.nanBits, flagIf i flagNV)
  | .inf s => if s then (fp32.nanBits, flagNV) else (0, 0)
  | .fin s m e =>
    if m = 0 then (fp32.signed s fp32.infBits, flagDZ)
    else if s then (fp32.nanBits, flagNV)
    else let (x, st) := rsqrtFin m e; fp32.arith rm sat x st
/-- 2^a (R144). -/
def laneExp2 (rm : Nat) (sat : Bool) (a : Nat) : LaneRes :=
  match fp32.decode a with
  | .nan i => (fp32.nanBits, flagIf i flagNV)
  | .inf s => if s then (0, 0) else (fp32.infBits, 0)
  | .fin s m e => exp2Fin fp32 rm sat a s m e
/-- log2 a (R144). -/
def laneLog2 (rm a : Nat) : LaneRes :=
  match fp32.decode a with
  | .nan i => (fp32.nanBits, flagIf i flagNV)
  | .inf s => if s then (fp32.nanBits, flagNV) else (fp32.infBits, 0)
  | .fin s m e =>
    if m = 0 then (fp32.signed true fp32.infBits, flagDZ)
    else if s then (fp32.nanBits, flagNV)
    else log2Fin fp32 rm a m e

/-- One converted lane (R145): between equal formats a copy with canonical NaN. -/
def laneCvt (dst src : Fmt) (rm : Nat) (sat : Bool) (a : Nat) : LaneRes :=
  if dst = src then
    match floatFmt src with
    | some g => let x := g.decode a; if x.isNan then (g.nanBits, flagIf x.invalid flagNV) else (a, 0)
    | none => (a, 0)
  else convert dst src rm sat (numOf src a)

/-- The codes of a ZQ4 type with their values, ascending (R148): zero only as code 0. -/
def zqCandidates (ty : Nat) : List (Nat × Num) :=
  let order := if ty = 0 then [8, 9, 10, 11, 12, 13, 14, 15, 0, 1, 2, 3, 4, 5, 6, 7] else [15, 14, 13, 12, 11, 10, 9, 0, 1, 2, 3, 4, 5, 6, 7]
  order.map fun c => let (s, m, e) := zqCode ty c; (c, .fin s m e)

/-- Of neighbouring codes the one for a number x against s × their values, s above zero (R42, R148). -/
def zqPick (rm : Nat) (x s : Num) : List (Nat × Num) → LaneRes
  | [] => (0, 0)
  | [(c, _)] => (c, flagOF ||| flagNX)
  | (c, v) :: (d, w) :: l =>
    match Num.cmp x (Num.mul v s) with
    | .lt => (c, flagOF ||| flagNX)
    | .eq => (c, 0)
    | .gt =>
      match Num.cmp x (Num.mul w s) with
      | .lt =>
        let pos := !x.isNeg
        let low := match rm with
          | 0 =>
            match Num.cmp (Num.mul (.fin false 2 0) x) (Num.mul (Num.add false v w) s) with
            | .lt => true
            | .gt => false
            | .eq => decide (c % 2 = 0)
          | 1 => pos
          | 2 => true
          | _ => false
        (if low then c else d, flagNX)
      | .eq => (d, 0)
      | .gt => zqPick rm x s ((d, w) :: l)

/-- One encoded ZQ4 lane (R148); with SHIFT -128 a NaN sets NV and does not count as non-zero (log 70). -/
def laneZqe (table shift sb rm a : Nat) : LaneRes :=
  let x := fp32.decode a
  if sx 8 shift = -128 then (0, if x.isNan then flagNV else flagIf (!x.isZero) flagNX)
  else if bits sb 0 2 ≠ 0 then (0, flagNV)
  else
    match tableEntry table (bits sb 2 4) with
    | .fin t n f =>
      if n = 0 || x.isNan then (0, flagNV)
      else if x.isZero then (0, 0)
      else zqPick rm (if t then x.neg else x) (.fin false n (f + sx 8 shift)) (zqCandidates (bits sb 6 2))
    | _ => (0, flagNV)

/-! ### Lane-wise instructions (R139) -/

namespace Op

/-- Lanes of w bits to a destination: the enabled lanes' bytes are written; the other half of a byte of which only one
4-bit lane is enabled keeps a register's contents at the landing (R139), and is zero in a queue entry (R113). The data of the write hold
its bits as they are at issue, which a trap record shows (log 61). -/
def putLanes (t : Tgt) (lat w : Nat) (on : Nat → Bool) (l : List LaneRes) : SlotM Unit := do
  let s ← me
  let kept := match t with
    | .reg a => if w = 4 then lanesOf 4 64 (s.spaceNum a 32) else []
    | _ => []
  let mask := BitVec.ofNat 64 (packLanes 1 (l.zipIdx.map fun e => (on e.2).toNat))
  let v := packLanes w (l.zipIdx.map fun e => if on e.2 then e.1.1 else kept.getD e.2 0)
  let fl := flagsOr (l.zipIdx.map fun e => if on e.2 then e.1.2 else 0)
  let half (i : Nat) : Bool := decide (w = 4) && !on i && on (if i % 2 = 0 then i + 1 else i - 1)
  put t lat (BitVec.ofNat 256 v) (laneBytes w l.length mask) fl (BitVec.ofNat 64 (packLanes 1 (l.zipIdx.map fun e => (half e.2).toNat)))

/-- D.lane := f(A.lane, B.lane) for every enabled lane of w bits, n of them. -/
def lanes2 (lat w : Nat) (d a b : Opnd) (m : Bool) (f : Nat → Nat → LaneRes) : SlotM Unit := do
  let x ← rdV a
  let y ← rdV b
  let t ← target 1 d
  let g ← guard m
  let n := 256 / w
  putLanes t lat w (fun i => g.getLsbD i) ((List.range n).map fun i => f (bits x.toNat (i * w) w) (bits y.toNat (i * w) w))

/-- D.lane := f(A.lane). -/
def lanes1 (lat w : Nat) (d a : Opnd) (m : Bool) (f : Nat → LaneRes) : SlotM Unit := do
  let x ← rdV a
  let t ← target 1 d
  let g ← guard m
  let n := 256 / w
  putLanes t lat w (fun i => g.getLsbD i) ((List.range n).map fun i => f (bits x.toNat (i * w) w))

/-- Rounding mode and saturation of fctl at issue (R43). -/
def mode : SlotM (Nat × Bool) := do
  let s ← me
  return (rmOf s.regs.fctl, satOf s.regs.fctl)

/-- A floating-point lane operation of exact numbers, rounded once at +4 (R143). -/
def float2 (f : Fmt) (d a b : Opnd) (m : Bool) (g : Bool → Num → Num → Num) : SlotM Unit := do
  let (rm, sat) ← mode
  let r := fmtOf f
  lanes2 4 (laneW f) d a b m fun x y => r.arith rm sat (g (decide (rm = 2)) (r.decode x) (r.decode y))

/-- A fused operation whose third operand is vD's lane at issue (R143). -/
def float3 (f : Fmt) (d a b : Opnd) (m : Bool) (g : Bool → Num → Num → Num → Num) : SlotM Unit := do
  let (rm, sat) ← mode
  let r := fmtOf f
  let z ← rdV d
  let x ← rdV a
  let y ← rdV b
  let t ← target 1 d
  let k ← guard m
  let n := 256 / laneW f
  let num (v : BitVec 256) (i : Nat) : Num := r.decode (bits v.toNat (i * laneW f) (laneW f))
  putLanes t 4 (laneW f) (fun i => k.getLsbD i) ((List.range n).map fun i => r.arith rm sat (g (decide (rm = 2)) (num x i) (num y i) (num z i)))

/-- The lanes of a ZQ4 instruction's block word (R146): part, shift byte, scale byte. -/
def blockWord (v : Nat) : Nat × Nat × Nat := (bits v 16 3, bits v 8 8, bits v 0 8)

/-! ### Reductions (R150, R151) -/

/-- The tree of R151 with fuel: the first half combined with the second until one value is left; flags are ORed. -/
def tree (f : Nat → Nat → LaneRes) : Nat → List Nat → BitVec 6 → LaneRes
  | 0, l, fl => (l.headD 0, fl)
  | k + 1, l, fl =>
    let m := l.length / 2
    let r := (l.take m).zipWith f (l.drop m)
    if m = 0 then (l.headD 0, fl) else tree f k (r.map (·.1)) (fl ||| flagsOr (r.map (·.2)))

/-- Result format of a sum, or of a maximum or minimum (R150). -/
def reduceFmt (f : Fmt) : Fmt :=
  match f with
  | .bf16 | .f16 => .f32
  | .i8 | .u8 | .i16 => .i32
  | .i32 => .i64
  | f => f

/-- A reduction (R151): `id` is the identity in the result format; a signalling NaN that widens sets NV (R46). -/
def reduce (f : Fmt) (lat : Nat) (d a : Opnd) (m : Bool) (id : Nat) (comb : Nat → Nat → LaneRes) : SlotM Unit := do
  let x ← rdV a
  let t ← target 1 d
  let g ← guard m
  let r := reduceFmt f
  let l := (List.range (256 / laneW f)).map fun i =>
    if !g.getLsbD i then (id, 0) else if f = r then (laneOf f x i, 0) else laneCvt r f 0 false (laneOf f x i)
  let (v, fl) := tree comb 7 (l.map (·.1)) (flagsOr (l.map (·.2)))
  put t lat (BitVec.ofNat 256 v) (BitVec.allOnes 32) fl

/-- A maximum or minimum reduction; the identity of an integer one is the end of the source format's range (the model's reading of "the
format's minimum" in R151, log 82). -/
def reducePick (f : Fmt) (d a : Opnd) (m larger : Bool) : SlotM Unit :=
  let r := reduceFmt f
  match floatFmt r with
  | some g => reduce f 8 d a m (g.signed larger g.infBits) (floatPick g larger)
  | none =>
    let (lo, hi) := (intRange f).getD (0, 0)
    reduce f 3 d a m (wrap (laneW r) (if larger then lo else hi))
      (intWrap r fun x y => if larger then (if x ≤ y then y else x) else (if x ≤ y then x else y))

/-! ### Predicate results (R152, R154) -/

/-- Lanes' bits to a predicate: only the enabled lanes below n are written. -/
def putBits (p : Nat) (m : Bool) (l : List (Bool × BitVec 6)) : SlotM Unit := do
  let g ← guard m
  let w (f : Nat → Bool) : Word := BitVec.ofNat 64 (packLanes 1 ((List.range l.length).map fun i => (f i).toNat))
  let mask := w fun i => g.getLsbD i
  let v := w fun i => (l.getD i (false, 0)).1
  let fl := flagsOr (l.zipIdx.map fun e => if g.getLsbD e.2 then e.1.2 else 0)
  if mask ≠ 0 then putPred p 2 v mask fl

/-- A compare of two lanes (R152). -/
def laneCmp (f : Fmt) (c a b : Nat) : Bool × BitVec 6 :=
  let x := numOf f a
  let y := numOf f b
  if x.isNan || y.isNan then (decide (c = 1) || decide (c = 6), flagIf (x.invalid || y.invalid) flagNV)
  else
    let o := Num.cmp x y
    (match c with
      | 0 => decide (o = .eq)
      | 1 => decide (o ≠ .eq)
      | 2 => decide (o = .lt)
      | 3 => decide (o ≠ .gt)
      | 4 => decide (o = .gt)
      | 5 => decide (o ≠ .lt)
      | _ => false, 0)

end Op

/-! ### Majors 0x18 to 0x1F (R141, R142) -/

/-- VADD. -/
def execVadd (f : Fmt) (d a b : Opnd) (m : Bool) (s : State) : Out := runSlot (Op.lanes2 2 (laneW f) d a b m (intWrap f (· + ·))) s
/-- VSUB. -/
def execVsub (f : Fmt) (d a b : Opnd) (m : Bool) (s : State) : Out := runSlot (Op.lanes2 2 (laneW f) d a b m (intWrap f (· - ·))) s
/-- VADDS. -/
def execVadds (f : Fmt) (d a b : Opnd) (m : Bool) (s : State) : Out := runSlot (Op.lanes2 2 (laneW f) d a b m (intClamp f (· + ·))) s
/-- VSUBS. -/
def execVsubs (f : Fmt) (d a b : Opnd) (m : Bool) (s : State) : Out := runSlot (Op.lanes2 2 (laneW f) d a b m (intClamp f (· - ·))) s
/-- VMUL. -/
def execVmul (f : Fmt) (d a b : Opnd) (m : Bool) (s : State) : Out := runSlot (Op.lanes2 2 (laneW f) d a b m (intWrap f (· * ·))) s
/-- VMIN. -/
def execVmin (f : Fmt) (d a b : Opnd) (m : Bool) (s : State) : Out :=
  runSlot (Op.lanes2 2 (laneW f) d a b m (intWrap f fun x y => if x ≤ y then x else y)) s
/-- VMAX. -/
def execVmax (f : Fmt) (d a b : Opnd) (m : Bool) (s : State) : Out :=
  runSlot (Op.lanes2 2 (laneW f) d a b m (intWrap f fun x y => if x ≤ y then y else x)) s
/-- VAND. -/
def execVand (d a b : Opnd) (m : Bool) (s : State) : Out := runSlot (Op.lanes2 2 8 d a b m fun x y => (x &&& y, 0)) s
/-- VOR. -/
def execVor (d a b : Opnd) (m : Bool) (s : State) : Out := runSlot (Op.lanes2 2 8 d a b m fun x y => (x ||| y, 0)) s
/-- VXOR. -/
def execVxor (d a b : Opnd) (m : Bool) (s : State) : Out := runSlot (Op.lanes2 2 8 d a b m fun x y => (x ^^^ y, 0)) s
/-- VANDN. -/
def execVandn (d a b : Opnd) (m : Bool) (s : State) : Out := runSlot (Op.lanes2 2 8 d a b m fun x y => (x &&& (255 - y), 0)) s
/-- VSHL. -/
def execVshl (l : BitVec 2) (d a b : Opnd) (m : Bool) (s : State) : Out :=
  runSlot (Op.lanes2 2 (8 * 2 ^ l.toNat) d a b m (laneShl (8 * 2 ^ l.toNat))) s
/-- VSHR. -/
def execVshr (l : BitVec 2) (d a b : Opnd) (m : Bool) (s : State) : Out :=
  runSlot (Op.lanes2 2 (8 * 2 ^ l.toNat) d a b m (laneShr (8 * 2 ^ l.toNat))) s
/-- VSAR. -/
def execVsar (l : BitVec 2) (d a b : Opnd) (m : Bool) (s : State) : Out :=
  runSlot (Op.lanes2 2 (8 * 2 ^ l.toNat) d a b m (laneSar (8 * 2 ^ l.toNat))) s

/-! ### Majors 0x20 to 0x27 (R143, R144) -/

/-- VFADD. -/
def execVfadd (f : Fmt) (d a b : Opnd) (m : Bool) (s : State) : Out := runSlot (Op.float2 f d a b m Num.add) s
/-- VFSUB. -/
def execVfsub (f : Fmt) (d a b : Opnd) (m : Bool) (s : State) : Out := runSlot (Op.float2 f d a b m fun dn x y => Num.add dn x y.neg) s
/-- VFMUL. -/
def execVfmul (f : Fmt) (d a b : Opnd) (m : Bool) (s : State) : Out := runSlot (Op.float2 f d a b m fun _ x y => Num.mul x y) s
/-- VFMA. -/
def execVfma (f : Fmt) (d a b : Opnd) (m : Bool) (s : State) : Out :=
  runSlot (Op.float3 f d a b m fun dn x y z => Num.add dn (Num.mul x y) z) s
/-- VFNMS. -/
def execVfnms (f : Fmt) (d a b : Opnd) (m : Bool) (s : State) : Out :=
  runSlot (Op.float3 f d a b m fun dn x y z => Num.add dn z (Num.mul x y).neg) s
/-- VFMIN. -/
def execVfmin (f : Fmt) (d a b : Opnd) (m : Bool) (s : State) : Out := runSlot (Op.lanes2 4 (laneW f) d a b m (floatPick (fmtOf f) false)) s
/-- VFMAX. -/
def execVfmax (f : Fmt) (d a b : Opnd) (m : Bool) (s : State) : Out := runSlot (Op.lanes2 4 (laneW f) d a b m (floatPick (fmtOf f) true)) s
/-- VRCP. -/
def execVrcp (d a : Opnd) (m : Bool) (s : State) : Out := runSlot (do let (rm, sat) ← Op.mode; Op.lanes1 8 32 d a m (laneRcp rm sat)) s
/-- VRSQRT. -/
def execVrsqrt (d a : Opnd) (m : Bool) (s : State) : Out := runSlot (do let (rm, sat) ← Op.mode; Op.lanes1 8 32 d a m (laneRsqrt rm sat)) s
/-- VEXP2. -/
def execVexp2 (d a : Opnd) (m : Bool) (s : State) : Out := runSlot (do let (rm, sat) ← Op.mode; Op.lanes1 8 32 d a m (laneExp2 rm sat)) s
/-- VLOG2. -/
def execVlog2 (d a : Opnd) (m : Bool) (s : State) : Out := runSlot (do let (rm, _) ← Op.mode; Op.lanes1 8 32 d a m (laneLog2 rm)) s
/-- VFABS_F64. -/
def execVfabsF64 (d a : Opnd) (m : Bool) (s : State) : Out := runSlot (Op.lanes1 4 64 d a m (floatSign (fmtOf .f64) false)) s
/-- VFABS_F32. -/
def execVfabsF32 (d a : Opnd) (m : Bool) (s : State) : Out := runSlot (Op.lanes1 4 32 d a m (floatSign (fmtOf .f32) false)) s
/-- VFABS_F16. -/
def execVfabsF16 (d a : Opnd) (m : Bool) (s : State) : Out := runSlot (Op.lanes1 4 16 d a m (floatSign (fmtOf .f16) false)) s
/-- VFNEG_F64. -/
def execVfnegF64 (d a : Opnd) (m : Bool) (s : State) : Out := runSlot (Op.lanes1 4 64 d a m (floatSign (fmtOf .f64) true)) s
/-- VFNEG_F32. -/
def execVfnegF32 (d a : Opnd) (m : Bool) (s : State) : Out := runSlot (Op.lanes1 4 32 d a m (floatSign (fmtOf .f32) true)) s
/-- VFNEG_F16. -/
def execVfnegF16 (d a : Opnd) (m : Bool) (s : State) : Out := runSlot (Op.lanes1 4 16 d a m (floatSign (fmtOf .f16) true)) s

/-! ### Majors 0x28 and 0x29 (R145 to R148) -/

/-- VCVT: narrowing writes one part of the destination's lanes, widening reads one part of the source's. -/
def execVcvt (f : Fmt) (d a : Opnd) (src : Fmt) (p : BitVec 2) (m : Bool) (s : State) : Out := runSlot (do
  let (rm, sat) ← Op.mode
  let x ← Op.rdV a
  let t ← Op.target 1 d
  let g ← Op.guard m
  let ns := 256 / laneW src
  let nd := 256 / laneW f
  let part := p.toNat
  if ns ≤ nd then
    let lo := part * ns
    Op.putLanes t 3 (laneW f) (fun i => g.getLsbD i && decide (lo ≤ i) && decide (i < lo + ns))
      ((List.range nd).map fun i => if lo ≤ i && i < lo + ns then laneCvt f src rm sat (laneOf src x (i - lo)) else (0, 0))
  else
    Op.putLanes t 3 (laneW f) (fun i => g.getLsbD i) ((List.range nd).map fun i => laneCvt f src rm sat (laneOf src x (part * nd + i)))) s
/-- VZQE. -/
def execVzqe (d a b : Opnd) (m : Bool) (s : State) : Out := runSlot (do
  let (rm, _) ← Op.mode
  let x ← Op.rdV a
  let (p, sh, sb) := Op.blockWord (← Op.rdS b).toNat
  let t ← Op.target 1 d
  let g ← Op.guard m
  let tab := (← Op.me).regs.scaleTab.toNat
  Op.putLanes t 3 4 (fun i => decide (8 * p ≤ i) && decide (i < 8 * p + 8) && g.getLsbD (i - 8 * p))
    ((List.range 64).map fun i => if 8 * p ≤ i && i < 8 * p + 8 then laneZqe tab sh sb rm (laneOf .f32 x (i - 8 * p)) else (0, 0))) s
/-- VZQD. -/
def execVzqd (d a b : Opnd) (m : Bool) (s : State) : Out := runSlot (do
  let (rm, sat) ← Op.mode
  let x ← Op.rdV a
  let (p, sh, sb) := Op.blockWord (← Op.rdS b).toNat
  let t ← Op.target 1 d
  let g ← Op.guard m
  let tab := (← Op.me).regs.scaleTab.toNat
  Op.putLanes t 3 32 (fun i => g.getLsbD i)
    ((List.range 8).map fun i => fp32.arith rm sat (zqValue tab sh sb (laneOf .zq4 x (8 * p + i))))) s

/-! ### Major 0x2A (R149) -/

namespace Op

/-- Lanes of w bits chosen from two elements. -/
def permute (w : Nat) (d a b : Opnd) (m : Bool) (f : List Nat → List Nat → Nat → Nat) : SlotM Unit := do
  let x ← rdV a
  let y ← rdV b
  let t ← target 1 d
  let g ← guard m
  let n := 256 / w
  let xs := lanesOf w n x.toNat
  let ys := lanesOf w n y.toNat
  putLanes t 2 w (fun i => g.getLsbD i) ((List.range n).map fun i => (f xs ys i, 0))

end Op

/-- VPERM. -/
def execVperm (l : BitVec 2) (d a b : Opnd) (m : Bool) (s : State) : Out :=
  runSlot (Op.permute (8 * 2 ^ l.toNat) d a b m fun x y i => x.getD (y.getD i 0 % x.length) 0) s
/-- VBCAST. -/
def execVbcast (l : BitVec 2) (d a : Opnd) (m : Bool) (s : State) : Out := runSlot (do
  let x ← Op.rdS a
  let t ← Op.target 1 d
  let g ← Op.guard m
  let w := 8 * 2 ^ l.toNat
  Op.putLanes t 2 w (fun i => g.getLsbD i) ((List.range (256 / w)).map fun _ => (bits x.toNat 0 w, 0))) s
/-- VILO. -/
def execVilo (l : BitVec 2) (d a b : Opnd) (m : Bool) (s : State) : Out :=
  runSlot (Op.permute (8 * 2 ^ l.toNat) d a b m fun x y i => if i % 2 = 0 then x.getD (i / 2) 0 else y.getD (i / 2) 0) s
/-- VIHI. -/
def execVihi (l : BitVec 2) (d a b : Opnd) (m : Bool) (s : State) : Out :=
  runSlot (Op.permute (8 * 2 ^ l.toNat) d a b m fun x y i =>
    if i % 2 = 0 then x.getD (x.length / 2 + i / 2) 0 else y.getD (x.length / 2 + i / 2) 0) s

/-! ### Major 0x2B (R150, R151) -/

/-- VRSUM. -/
def execVrsum (f : Fmt) (d a : Opnd) (m : Bool) (s : State) : Out := runSlot (do
  let (rm, sat) ← Op.mode
  let r := Op.reduceFmt f
  match floatFmt r with
  | some g => Op.reduce f 8 d a m (g.signed true 0) fun x y => g.arith rm sat (Num.add (decide (rm = 2)) (g.decode x) (g.decode y))
  | none => Op.reduce f 3 d a m 0 (intWrap r (· + ·))) s
/-- VRMAX. -/
def execVrmax (f : Fmt) (d a : Opnd) (m : Bool) (s : State) : Out := runSlot (Op.reducePick f d a m true) s
/-- VRMIN. -/
def execVrmin (f : Fmt) (d a : Opnd) (m : Bool) (s : State) : Out := runSlot (Op.reducePick f d a m false) s

/-! ### Majors 0x2C to 0x2E (R152 to R154) -/

/-- VCMP. -/
def execVcmp (f : Fmt) (c : BitVec 3) (p : BitVec 4) (a b : Opnd) (m : Bool) (s : State) : Out := runSlot (do
  let x ← Op.rdV a
  let y ← Op.rdV b
  Op.putBits p.toNat m ((List.range (256 / laneW f)).map fun i => Op.laneCmp f c.toNat (laneOf f x i) (laneOf f y i))) s
/-- VSEL: every lane is written; an FP6 lane is read and written as R37 says. -/
def execVsel (f : Fmt) (d a b : Opnd) (s : State) : Out := runSlot (do
  let g ← Op.guard true
  let x ← Op.rdV a
  let y ← Op.rdV b
  let t ← Op.target 1 d
  let w := laneW f
  Op.putLanes t 2 w (fun _ => true) ((List.range (256 / w)).map fun i =>
    (laneOf f (if g.getLsbD i then x else y) i, 0))) s
/-- VPMASK. -/
def execVpmask (l : BitVec 2) (d : Opnd) (a : BitVec 4) (m : Bool) (s : State) : Out := runSlot (do
  let p := (← Op.me).pred a.toNat
  let t ← Op.target 1 d
  let g ← Op.guard m
  let w := 8 * 2 ^ l.toNat
  Op.putLanes t 2 w (fun i => g.getLsbD i) ((List.range (256 / w)).map fun i => (if p.getLsbD i then 2 ^ w - 1 else 0, 0))) s
/-- VPMSB. -/
def execVpmsb (l : BitVec 2) (d : BitVec 4) (a : Opnd) (m : Bool) (s : State) : Out := runSlot (do
  let x ← Op.rdV a
  let w := 8 * 2 ^ l.toNat
  Op.putBits d.toNat m ((List.range (256 / w)).map fun i => (bit x.toNat (i * w + w - 1), 0))) s
/-- VPNZ. -/
def execVpnz (l : BitVec 2) (d : BitVec 4) (a : Opnd) (m : Bool) (s : State) : Out := runSlot (do
  let x ← Op.rdV a
  let w := 8 * 2 ^ l.toNat
  Op.putBits d.toNat m ((List.range (256 / w)).map fun i => (decide (bits x.toNat (i * w) w ≠ 0), 0))) s

end Sys2Proof.Machine
end

