-- ==== Sys2Proof/Machine/Engines.lean ====
section
/-! DEFINITION. Copy and layout-transform engines at work (R190, R195 to R206, R210, R211, R267): starting a command, its rows and
passes, and its arrival. -/

namespace Sys2Proof.Machine

/-! ### The nest (R198, R199) -/

/-- Dimensions in use (R198). -/
def nestDims (w : List Nat) : Nat := bits (w.getD 2 0) 50 3
/-- Points of the nest (R199). -/
def nestSize (w : List Nat) : Nat := ((List.range (nestDims w)).map fun j => Op.descBound w (j + 1)).prod
/-- Index of dimension k at point r: dimension 1 goes fastest. -/
def nestIndex (w : List Nat) (r k : Nat) : Nat :=
  r / ((List.range (k - 1)).map fun j => Op.descBound w (j + 1)).prod % Op.descBound w k
/-- Byte offset of point r: by the source strides (`src`) or the destination strides. -/
def nestOffset (w : List Nat) (src : Bool) (r : Nat) : Int :=
  ((List.range (nestDims w)).map fun j =>
    (nestIndex w r (j + 1) : Int) * sx 32 (bits (w.getD (8 + j) 0) (if src then 32 else 0) 32)).sum

/-! ### Accesses of a command (R135, R199, R202) -/

/-- Number of engine e of cluster c among the engines. -/
def engineNo (c e : Nat) : Nat := 3 * c + e

/-- What a read of a command finds: it waits (and may have asked for a page), it stops with a code, or bytes with poison. -/
inductive EngIn where
  | wait (d : Dev)
  | bad (code : Nat)
  | ok (l : List (Byte × Bool)) (d : Dev)
  deriving DecidableEq, Repr

/-- The bytes at a location as a command reads them: its own earlier writes, other forked agents' old or new bytes (R196, R267,
log 4), and memory; none while one is outstanding. -/
def engBytes (c : Cmd) (loc n : Nat) (d : Dev) : Option (List (Byte × Bool)) × Dev :=
  let own (a : Nat) : Option Byte := (c.writes.reverse.find? fun w => decide (w.1 = a)).map (·.2)
  let d := closeSplits (engineAgent (engineNo (c.owner / 16) 0)) loc n d
  match nowBytes d loc n with
  | none => (none, d)
  | some l =>
    let r := l.zipIdx.map fun e =>
      let a := loc + e.2
      match own a with
      | some b => (b, c.poisoned.contains a)
      | none => oldOrNew d e.2 (e.1, poisonIn d a d.placed.reverse) (unjoined d [] a)
    (some r, if (span loc n).any fun a => (own a).isNone && !(unjoined d [] a).isEmpty then { d with drawn := d.drawn + n } else d)

/-- A read of a command inside one granule (R199, R202): what a peer holds, and whether it is reached, are free values. -/
def engReadPiece (c : Cmd) (va n : Nat) (d : Dev) : EngIn :=
  if 2 ^ 56 ≤ va then .bad 0x03
  else match translate d (dieOf c.owner) c.ten va with
    | .here loc true _ =>
      match engBytes c loc n (touch d loc) with
      | (some l, d) => .ok l d
      | (none, _) => .wait d
    | .peer dev _ _ true _ =>
      let up := (portTo d dev).isSome
      let (x, d) := (traffic dev d).draw
      if !up || x % 3 = 1 then .bad 0x30 else if x % 3 = 2 then .bad 0x31
      else
        let (l, d) := d.drawBytes n
        .ok (l.map fun b => (b, false)) d
    | .miss => .wait d
    | .refused => .bad 0x04
    | .absent _ true _ => .wait (requestPage d c.ten va false)
    | _ => .bad 0x01

/-- A read of a command, granule by granule. -/
def engRead (c : Cmd) : List (Nat × Nat) → List (Byte × Bool) → Dev → EngIn
  | [], acc, d => .ok acc d
  | (va, n) :: ps, acc, d =>
    match engReadPiece c va n d with
    | .ok l d => engRead c ps (acc ++ l) d
    | x => x

/-- Where a command's writes go: they wait, or so many bytes may be written before the code (0: all of them). -/
inductive EngOut where
  | wait (d : Dev)
  | go (n code : Nat)
  deriving DecidableEq, Repr

/-- The destination of a row (R199). -/
def engDest (c : Cmd) : List (Nat × Nat) → Nat → Dev → EngOut
  | [], k, _ => .go k 0
  | (va, n) :: ps, k, d =>
    if 2 ^ 56 ≤ va then .go k 0x03
    else match translate d (dieOf c.owner) c.ten va with
      | .here _ _ true => engDest c ps (k + n) d
      | .peer _ _ _ _ true => engDest c ps (k + n) d
      | .miss => .wait d
      | .refused => .go k 0x04
      | .absent _ _ true => .wait (requestPage d c.ten va true)
      | _ => .go k 0x02

/-- A block's bytes with one more put at an offset. -/
def blockPut (l : List (Nat × Byte)) (o : Nat) (b : Byte) : List (Nat × Byte) :=
  match l with
  | [] => [(o, b)]
  | (p, x) :: r => if o < p then (o, b) :: (p, x) :: r else if o = p then (o, b) :: r else (p, x) :: blockPut r o b

/-- Bytes bound for a granule of a peer (R210). -/
def toBlock (dev ten gran : Nat) (l : List (Nat × Byte)) (bs : List Block) : List Block :=
  let put (b : Block) : Block := { b with bytes := l.foldl (fun r e => blockPut r e.1 e.2) b.bytes, count := b.count + l.length }
  let mine (b : Block) : Bool := decide (b.dev = dev) && decide (b.ten = ten) && decide (b.gran = gran)
  if bs.any mine then bs.map fun b => if mine b then put b else b
  else bs ++ [put { dev := dev, ten := ten, gran := gran }]

/-- A command writes bytes: they stay outside the order until its arrival (R196, R202, R267). -/
def engWrite (d : Dev) : List (Nat × Nat) → List (Byte × Bool) → Cmd → Cmd
  | [], _, c => c
  | (va, n) :: ps, l, c =>
    let now_ := l.take n
    let c := { c with bytes := c.bytes + now_.length }
    let c := match translate d (dieOf c.owner) c.ten va with
      | .here loc _ _ =>
        { c with writes := c.writes ++ now_.zipIdx.map fun e => (loc + e.2, e.1.1),
                 poisoned := insertNats (c.poisoned.filter fun a => !(decide (loc ≤ a) && decide (a < loc + now_.length)))
                   ((now_.zipIdx.filter fun e => e.1.2).map fun e => loc + e.2) }
      | .peer dev ten a _ _ => { c with blocks := toBlock dev ten (alignDown a 4096) (now_.zipIdx.map fun e => (a % 4096 + e.2, e.1.1)) c.blocks }
      | _ => c
    engWrite d ps (l.drop n) c

/-- The first error code of a command is kept (R190). -/
def Cmd.note (c : Cmd) (code : Nat) : Cmd := if c.err = 0 then { c with err := code } else c
/-- A command stops with a code (R191). -/
def Cmd.halt (c : Cmd) (code : Nat) : Cmd := { c.note code with stopped := true }

/-! ### Conversion of a row (R200) -/

/-- Elements of a packed row of w-bit elements with their poison marks (R37). -/
def unpackRow (w n : Nat) (l : List (Byte × Bool)) : List (Nat × Bool) :=
  let v := leNat (l.map (·.1))
  (List.range n).map fun e => (bits v (e * w) w, (((l.drop (e * w / 8)).take ((e * w + w - 1) / 8 - e * w / 8 + 1)).any (·.2)))

/-- A packed row of w-bit elements: bytes with poison. -/
def packRow (w : Nat) (l : List (Nat × Bool)) : List (Byte × Bool) :=
  let n := w * l.length / 8
  (toLe n (packLanes w (l.map (·.1)))).zipIdx.map fun e => (e.1, ((l.drop (8 * e.2 / w)).take ((8 * e.2 + 7) / w - 8 * e.2 / w + 1)).any (·.2))

/-- One super-block of a ZQ4 source (R49, R52, R200): its 512 elements converted, with status and poison. A super-block marked
-128 reads neither codes nor scale bytes. -/
def engZqBlock (c : Cmd) (dst : Fmt) (rm : Nat) (sat : Bool) (codes scales : Nat) (sh : Byte × Bool) (d : Dev) :
    Except EngIn (List (Nat × Bool × BitVec 6) × Dev) :=
  let table := packLanes 16 c.table
  let conv (code sb : Nat) (p : Bool) : Nat × Bool × BitVec 6 := let r := convert dst .zq4 rm sat (zqValue table sh.1.toNat sb code); (r.1, p || sh.2, r.2)
  if sh.1 = 0x80 then .ok ((List.range 512).map fun _ => conv 0 0 false, d)
  else match engRead c (rowPieces codes 256) [] d with
    | .ok cl d => match engRead c (rowPieces scales 16) [] d with
      | .ok sl d =>
        .ok ((List.range 512).map fun e =>
          let x := cl.getD (e / 2) (0, false)
          let s := sl.getD (e / 32) (0, false)
          conv (bits x.1.toNat (4 * (e % 2)) 4) s.1.toNat (x.2 || s.2), d)
      | x => .error x
    | x => .error x

/-- Several super-blocks in order. -/
def engZqRow (c : Cmd) (dst : Fmt) (rm : Nat) (sat : Bool) (codes scales : Nat) :
    List (Byte × Bool) → Nat → Dev → Except EngIn (List (Nat × Bool × BitVec 6) × Dev)
  | [], _, d => .ok ([], d)
  | sh :: l, k, d =>
    match engZqBlock c dst rm sat (addr64 codes (256 * k)) (addr64 scales (16 * k)) sh d with
    | .error x => .error x
    | .ok (r, d) => match engZqRow c dst rm sat codes scales l (k + 1) d with
      | .error x => .error x
      | .ok (r2, d) => .ok (r ++ r2, d)

/-- A row's elements as destination values with poison and status (R199, R200). -/
def engRow (c : Cmd) (d : Dev) : Except EngIn (List (Nat × Bool × BitVec 6) × Dev) :=
  let x (k : Nat) : Nat := c.desc.getD k 0
  let sf := bits (x 2) 60 4
  let df := bits (x 2) 56 4
  let rm := bits (x 2) 54 2
  let sat := bit (x 2) 53
  let n := bits (x 5) 0 32
  let off := nestOffset c.desc true c.row
  let s := addr64 (x 0) off
  if sf = 11 then
    match engRead c (rowPieces (addr64 (x 4) (off / 256)) (n / 512)) [] d with
    | .ok sh d => engZqRow c (fmtCode df) rm sat s (addr64 (x 3) (off / 16)) sh 0 d
    | e => .error e
  else match engRead c (rowPieces s (Op.memBytes sf n)) [] d with
    | .ok l d =>
      let es := unpackRow (elemBits (fmtCode sf)) n l
      .ok (es.map fun e => if sf = df then (e.1, e.2, 0) else let r := laneCvt (fmtCode df) (fmtCode sf) rm sat e.1; (r.1, e.2, r.2), d)
    | e => .error e

/-! ### Counted fills (R124, R201) -/

/-- The blocks of a counted row (R201). -/
def rowFills : Nat → Nat → List (Byte × Bool) → List Fill
  | 0, _, _ => []
  | k + 1, va, l => if l.isEmpty then [] else { va := va, bytes := l.take 256 } :: rowFills k (va + 256) (l.drop 256)

/-- A counted block takes its data and count; a non-zero count that is replaced is an under-read, recorded as code 0x11 (R124, R191). -/
def fillBlock (own : Nat) (c : Cmd) (f : Fill) (d : Dev) : Cmd × Dev :=
  let s := d.seq c.owner
  let under := (lclOf d s.place.launch s.place.lcl).blocks.any fun u => decide (u.va = f.va) && decide (0 < u.count)
  let d := if under then underRead d c.owner false else d
  let id := d.nextUnit
  let d := f.bytes.zipIdx.foldl (fun d e => placeBytes d own (unitLoc id + e.2) [e.1.1] e.1.2) { d with nextUnit := id + 1 }
  (if under then c.note 0x11 else c, modLcl d s.place.launch s.place.lcl fun cl =>
    { cl with blocks := (cl.blocks.filter fun u => decide (u.va ≠ f.va))
                ++ [{ id := id, va := f.va, size := 256, count := bits (c.desc.getD 2 0) 42 8,
                        back := (translate d ((own - 4096) / 48) s.place.ten f.va).loc? f.va }] })

/-! ### Starting, rows, passes -/

/-- A command's row is done. -/
def Cmd.nextRow (c : Cmd) : Cmd := { c with row := c.row + 1 }

/-- Whether a command has nothing left to do but its arrival. -/
def Cmd.over (c : Cmd) : Bool := c.stopped || decide (nestSize c.desc ≤ c.row)

/-- The running command of an engine replaced. -/
def putRunning (c e : Nat) (r : Option Cmd) (d : Dev) : Dev := d.modCluster c fun x => setEngine x e { engineOf x e with running := r }

/-- The running command of an engine, if it is of a kind and not over. -/
def workOf (d : Dev) (c e : Nat) (xf : Bool) : Option Cmd :=
  match (engineOf (d.cluster c) e).running with
  | some r => if r.xform = xf && !r.over then some r else none
  | none => none

/-- ENGINE_COMMAND_START (R195, R196): the next sequencer round-robin, its oldest entry, once all that it ordered before the fork has
its place. -/
def execEngineCommandStart (s : State) : Out := runEvent s fun t d =>
  match t with
  | .agent c e =>
    let g := engineOf (d.cluster c) e
    if g.running.isSome then none
    else
      let first (q : Nat) : Option Cmd := g.queue.find? fun x => decide (x.owner = q)
      let ready (x : Cmd) : Bool :=
        (d.seq x.owner).ord.all (fun o => decide (x.fork ≤ o.id)) && !(d.seq x.owner).far.contains (.fork x.owner x.id)
      let heads := (insertNats [] (g.queue.map (·.owner))).filterMap fun q => (first q).filter ready
      match (heads.find? fun x => decide (g.rr < x.owner)).or heads.head? with
      | none => none
      | some x => some (d.modCluster c fun y => setEngine y e { queue := g.queue.erase x, running := some x, rr := x.owner })
  | _ => none

/-- COPY_ROW (R199 to R202). -/
def execCopyRow (s : State) : Out := runEvent s fun t d =>
  match t with
  | .agent c e =>
    match workOf d c e false with
    | none => none
    | some r =>
      let df := bits (r.desc.getD 2 0) 56 4
      let n := bits (r.desc.getD 5 0) 0 32
      let w := elemBits (fmtCode df)
      let len := Op.memBytes df n
      let dst := addr64 (r.desc.getD 1 0) (nestOffset r.desc false r.row)
      let counted := decide (bits (r.desc.getD 2 0) 42 8 ≠ 0)
      if counted && !inStash d r.owner dst len then some (putRunning c e (some (r.halt 0x12)) d)
      else match engRow r d with
        | .error (.wait d) => some d
        | .error (.bad code) => some (putRunning c e (some (r.halt code)) d)
        | .error (.ok ..) => none
        | .ok (l, d) =>
          let poisoned := l.any fun x => x.2.1
          let all := flagsOr (l.map (·.2.2))
          let row := packRow w (l.map fun x => (x.1, x.2.1))
          let mark (r : Cmd) : Cmd := if poisoned then r.note 0x40 else r
          if counted then
            let r := mark { r with flags := r.flags ||| all, bytes := r.bytes + row.length, fills := r.fills ++ rowFills (len / 256 + 1) dst row }
            some (putRunning c e (some r.nextRow) d)
          else match engDest r (rowPieces dst len) 0 d with
            | .wait d => some d
            | .go k 0 => some (putRunning c e (some (engWrite d (rowPieces dst k) row (mark { r with flags := r.flags ||| all })).nextRow) d)
            | .go k code =>
              -- the elements before the first that may not be written
              let m := 8 * k / w
              let row := packRow w ((l.take m).map fun x => (x.1, x.2.1))
              let r := { r with flags := r.flags ||| flagsOr ((l.take m).map (·.2.2)) }
              let r := if (l.take m).any fun x => x.2.1 then r.note 0x40 else r
              some (putRunning c e (some ((engWrite d (rowPieces dst row.length) row r).halt code)) d)
  | _ => none

/-! ### Transform passes (R204, R205) -/

/-- The transform engine inside a pass: eight registers of 32 bytes with poison, and the two cursors. -/
structure Pass where
  cmd : Cmd
  dev : Dev
  x : List (List (Byte × Bool)) := List.replicate 8 (List.replicate 32 (0, false))
  ra : Int := 0
  wa : Int := 0
  deriving DecidableEq, Repr

/-- Bytes in lanes of w bytes put together again. -/
def byteLanes (w : Nat) (l : List (Byte × Bool)) : List (List (Byte × Bool)) := chunks w (l.length / w) l

/-- TRN, ZIP and UZP of two registers in lanes of w bytes (R204). -/
def passShuffle (op w : Nat) (x y : List (Byte × Bool)) : List (Byte × Bool) × List (Byte × Bool) :=
  let a := byteLanes w x
  let b := byteLanes w y
  let n := 32 / w
  let z := a ++ b
  let pick (l : List (List (Byte × Bool))) (f : Nat → Nat) : List (Byte × Bool) := ((List.range n).map fun j => l.getD (f j) []).flatten
  match op with
  | 4 =>
    (pick z fun j => if j % 2 = 1 then n + (j - 1) else j, pick z fun j => if j % 2 = 0 then j + 1 else n + j)
  | 5 => (pick z fun j => if j % 2 = 0 then j / 2 else n + j / 2, pick z fun j => if j % 2 = 0 then n / 2 + j / 2 else n + n / 2 + j / 2)
  | _ => (pick z fun j => 2 * j, pick z fun j => 2 * j + 1)

/-- One instruction of a pass; the error is a wait or a stop with what has been stored so far. -/
def passStep (s t p q : Int) (w : Nat) (a : Pass) : Except (Except Dev (Cmd × Dev)) Pass :=
  let op := bits w 12 4
  let i := bits w 9 3
  let j := bits w 6 3
  let imm := bits w 0 6
  let step (pitch : Int) : Int := if bit imm 5 then pitch else (imm % 32 * 32 : Nat)
  match op with
  | 0 => .ok { a with x := a.x.set i (List.replicate 32 (0, false)) }
  | 1 =>
    match engRead a.cmd [(wrap 64 (s + a.ra), 32)] [] a.dev with
    | .wait d => .error (.error d)
    | .bad code => .error (.ok (a.cmd.halt code, a.dev))
    | .ok l d => .ok { a with dev := d, x := a.x.set i l, ra := a.ra + step p, cmd := if l.any (·.2) then a.cmd.note 0x40 else a.cmd }
  | 2 =>
    let va := wrap 64 (t + a.wa)
    match engDest a.cmd [(va, 32)] 0 a.dev with
    | .wait d => .error (.error d)
    | .go _ 0 => .ok { a with cmd := engWrite a.dev [(va, 32)] (a.x.getD i []) a.cmd, wa := a.wa + step q }
    | .go _ code => .error (.ok (a.cmd.halt code, a.dev))
  | 3 => .ok { a with x := a.x.set i (a.x.getD j []) }
  | _ =>
    let r := passShuffle op (2 ^ imm) (a.x.getD i []) (a.x.getD j [])
    .ok { a with x := (a.x.set i r.1).set j r.2 }

/-- XFORM_PASS (R205). -/
def execXformPass (s : State) : Out := runEvent s fun t d =>
  match t with
  | .agent c _ =>
    match workOf d c 2 true with
    | none => none
    | some r =>
      let src := (r.desc.getD 0 0 : Int) + nestOffset r.desc true r.row
      let dst := (r.desc.getD 1 0 : Int) + nestOffset r.desc false r.row
      let p := sx 32 (bits (r.desc.getD 3 0) 32 32)
      let q := sx 32 (bits (r.desc.getD 3 0) 0 32)
      match r.prog.foldlM (fun a w => passStep src dst p q w a) ({ cmd := r, dev := d } : Pass) with
      | .error (.error d) => some d
      | .error (.ok (r, d)) => some (putRunning c 2 (some r) d)
      | .ok a => some (putRunning c 2 (some a.cmd.nextRow) a.dev)
  | _ => none

/-! ### Port compression (R210, R211, R418) -/

/-- Words of 8 bytes, padded with zeros. -/
def wordsOf (l : Bytes) : List Nat := (chunks 8 (ceilDiv l.length 8) l).map leNat

/-- Bytes regrouped into w planes (R211). -/
def planes (w : Nat) (l : Bytes) : Bytes := ((List.range w).map fun j => (l.zipIdx.filter fun e => decide (e.2 % w = j)).map (·.1)).flatten

/-- The class-1 payload of bytes (R211). -/
def elide (l : Bytes) : Bytes :=
  let ws := wordsOf l
  toLe (ceilDiv ws.length 8) (packLanes 1 (ws.map fun v => (decide (v ≠ 0)).toNat)) ++ ((ws.filter (· ≠ 0)).map (toLe 8)).flatten

/-- Class and payload of a block for a requested class CC and a destination format (R211). -/
def compress (cc df : Nat) (l : Bytes) : Nat × Bytes :=
  let cls := if cc = 0 then 0 else if cc = 1 then 1 else if [2, 3, 12].contains df then 2 else if [1, 13].contains df then 3 else 1
  let p := match cls with
    | 1 => some (elide l)
    | 2 => if l.length % 2 = 0 then some (elide (planes 2 l)) else none
    | 3 => if l.length % 4 = 0 then some (elide (planes 4 l)) else none
    | _ => none
  match p with
  | some p => if p.length < l.length then (cls, p) else (0, l)
  | none => (0, l)

/-- A block leaves by the port that leads to its peer: the port's counters (R418); how many flits it takes is a free value. -/
def countBlock (dev n cls p : Nat) (d : Dev) : Dev :=
  match portTo d dev with
  | none => d
  | some k =>
    let (x, d) := d.draw
    modPortOf k (fun y =>
      { y with txf := y.txf + BitVec.ofNat 64 x, bin := y.bin + BitVec.ofNat 64 n, bout := y.bout + BitVec.ofNat 64 (8 + p), btot := y.btot + 1,
               braw := if cls = 0 then y.braw + 1 else y.braw }) d

/-- The header of a block (R210). -/
def blockHeader (cls : Nat) (l payload : Bytes) : Word :=
  BitVec.ofNat 64 (cls * 2 ^ 62 + l.length * 2 ^ 49 + payload.length * 2 ^ 36 + crc32c l)

/-- The blocks of a command leave for their peers, each as its header and payload with an acknowledgement to come (R202, R210). The written
bytes of a granule follow each other in a block from the address of the first, whatever lies between (the model's choice, log 36). -/
def sendBlocks (no : Nat) (r : Cmd) (d : Dev) : Cmd × Dev :=
  let cc := if r.xform then bits (r.desc.getD 2 0) 40 2 % 2 else bits (r.desc.getD 2 0) 40 2
  let df := if r.xform then 8 else bits (r.desc.getD 2 0) 56 4
  let d := r.blocks.foldl (fun d b =>
    let l := b.bytes.map (·.2)
    let (cls, p) := compress cc df l
    countBlock b.dev l.length cls p.length { d with peerOut := d.peerOut ++
      [{ dev := b.dev, agent := engineAgent no, ten := b.ten, addr := b.gran + (b.bytes.headD (0, 0)).1, n := b.count, data := some (p.map some),
         hdr := blockHeader cls l p }] }) d
  ({ r with unacked := r.unacked + r.blocks.length, blocks := [] }, d)

/-! ### Completion (R190, R202, R267) -/

/-- Every write and fill of a command takes its place, in nest order (R267); an under-read is found as the fill has its place, after
the codes of the rows (log 35). -/
def joinCmd (no : Nat) (r : Cmd) (d : Dev) : Cmd × Dev :=
  r.fills.foldl (fun x f => fillBlock (engineAgent no) x.1 f x.2)
    (r, r.writes.foldl (fun d w => placeBytes d (engineAgent no) w.1 [w.2] (r.poisoned.contains w.1)) d)

/-- ENGINE_COMMAND_COMPLETE (R190, R202, R267): the blocks for peers leave, and once every acknowledgement is there the writes join
and the command makes its arrival, which waits for the page of its object. -/
def execEngineCommandComplete (s : State) : Out := runEvent s fun t d =>
  match t with
  | .agent c e =>
    match (engineOf (d.cluster c) e).running with
    | none => none
    | some r =>
      if !r.over then none
      else if !r.blocks.isEmpty then
        let (r, d) := sendBlocks (engineNo c e) r d
        some (putRunning c e (some r) d)
      else if r.unacked ≠ 0 then none
      else
        let (x, y) := joinCmd (engineNo c e) r (putRunning c e none d)
        (arrive (engineAgent (engineNo c e)) (dieOf r.owner) x.ten x.bar x.bytes x.err x.flags y).or (arriveRequest (dieOf r.owner) r.ten r.bar d)
  | _ => none

/-- The bytes that a received block holds: none when its header, its payload or its check code is wrong (R210, R211). -/
def openBlock (hdr : Nat) (p : Bytes) : Option Bytes :=
  let cls := bits hdr 62 2
  let n := bits hdr 49 13
  let words := ceilDiv n 8
  let mapLen := ceilDiv words 8
  let plain : Option Bytes :=
    if cls = 0 then (if p.length = n then some p else none)
    else
      let map := leNat (p.take mapLen)
      let ks := (List.range words).filter fun k => bit map k
      if p.length ≠ mapLen + 8 * ks.length || 2 ^ words ≤ map then none
      else
        let body := p.drop mapLen
        some ((((List.range words).map fun k =>
          match ks.findIdx? (· = k) with
          | some j => (body.drop (8 * j)).take 8
          | none => toLe 8 0).flatten).take n)
  let w := if cls = 2 then 2 else if cls = 3 then 4 else 1
  if n = 0 || 4096 < n || bits hdr 36 13 ≠ p.length || bits hdr 32 4 ≠ 0 || n % w ≠ 0 then none
  else plain.bind fun b =>
    let r := if w = 1 then b else (List.range n).map fun i => b.getD (i % w * (n / w) + i / w) 0
    if crc32c r = bits hdr 0 32 then some r else none

/-- PORT_BLOCK_RECEIVE (R210, R211, R263): a peer's block arrives by a port that is up; one that fails its check writes nothing and is
counted. -/
def execPortBlockReceive (s : State) : Out := runEvent s fun t d =>
  match t with
  | .block port ten dst hdr payload =>
    if (vget d.fleet.ports port {}).st < 2 then none
    else
      let (x, d) := d.draw
      let d := modPortOf port (fun y => { y with rxf := y.rxf + BitVec.ofNat 64 x }) d
      match openBlock hdr.toNat payload with
      | none => some (modPortOf port (fun y => { y with err := BitVec.ofNat 64 (setBits y.err.toNat 32 32 (bits y.err.toNat 32 32 + 1)) }) d)
      | some l =>
        match translate d 0 ten dst.toNat with
        | .here loc _ true => some (placeBytes d peerAgent loc l)
        | .absent _ _ true => some (requestPage d ten dst.toNat true)
        | _ => none
  | _ => none

/-- An atomic of a peer on n bytes at a location: one of scope .sy, or one that arrives whole, is one indivisible read and write; of one of
scope .cl or .dv the read may come alone (part 1), and its write later (part 2) (R128, R264). -/
def peerAtomic (op loc n y y2 sc part : Nat) (d : Dev) : Option Dev :=
  if 2 ≤ sc || part = 0 then some (perform d (.rmw peerAgent 0 0 0 false op loc n y y2))
  else if part = 1 then
    match loadBytes d peerAgent loc n with
    | (some r, d) => some { d with splits := d.splits ++ [{ own := peerAgent, sc := sc, loc := loc, n := n, val := atomNew op n (leNat (plain r)) y y2 }] }
    | (none, _) => none
  else (d.splits.find? fun x => decide (x.own = peerAgent) && decide (x.loc = loc) && decide (x.n = n) && decide (x.sc = sc)).map (closeSplit d)

/-- PEER_ACCESS_ARRIVAL (R263, R264, R382): a peer's access takes its place here, under the window's tenant, by a port that leads to it. -/
def execPeerAccessArrival (s : State) : Out := runEvent s fun t d =>
  match t with
  | .peer dev ten va op =>
    if (portTo d dev).isNone then none
    else
      let d := traffic dev d
      match translate d 0 ten va.toNat, op with
      | .here loc true _, .read n => some (closeSplits peerAgent loc n (touch d loc))
      | .here loc _ true, .write l => some (placeBytes d peerAgent loc l)
      | .here loc true true, .atomic op wide y y2 sc part =>
        let n := if wide then 8 else 4
        peerAtomic op loc n (y.toNat % 2 ^ (8 * n)) (y2.toNat % 2 ^ (8 * n)) sc part d
      | .absent _ _ true, .write _ => some (requestPage d ten va.toNat true)
      | .absent _ _ true, .atomic .. => some (requestPage d ten va.toNat true)
      | _, _ => none
  | _ => none

end Sys2Proof.Machine
end

