-- ==== Sys2Proof/Machine/NearOps.lean ====
section
/-! DEFINITION. The shared operations of near-data units (R281 to R308): their registers and register image, their memory
accesses, their ports, taking a trap, and how one of their instructions runs. -/

namespace Sys2Proof.Machine

/-! ### Taking a trap (R308, R385) -/

/-- Number of a unit within its tier. -/
def unitNo (u : Nat) : Nat := if u < 512 then u else u - 512
/-- Tier of a unit (R32): 1 board, 2 storage. -/
def unitTier (u : Nat) : Nat := if u < 512 then 1 else 2
/-- Location of a unit's trap record (R385). -/
def nearRecordLoc (d : Dev) (u : Nat) : Nat := (d.tenant (d.unit u).ten).svpa + 10 * 2 ^ 20 + 1024 * u
/-- Device virtual address of a unit's trap record. -/
def nearRecordVa (d : Dev) (u : Nat) : Nat := (d.tenant (d.unit u).ten).csva + 10 * 2 ^ 20 + 1024 * u

/-- A unit takes a trap: it stops and its record is written (R308, R385); the action of the table is a step of its own. -/
def takeNearTrap (d : Dev) (u : Nat) (t : TrapInfo) : Dev :=
  let x := d.unit u
  let same := decide (x.trapLast = (t.cause, x.pc))
  let d := d.modUnit u fun x => { x with trap := some { t with act := actionEntry d x.ten t.cause }, run := .trapped, trapCount := if same then x.trapCount + 1 else 1,
                                         trapLast := (t.cause, x.pc), handDrain := none }
  let d := holdItem (unitAgent u) (d.modLaunch x.launch fun l => { l with traps := l.traps + 1 })
  let (time, d) := now d
  let seq := match d.launch? x.launch with | some l => l.seq | none => 0
  placeBytes d gafferAgent (nearRecordLoc d u)
    (recordHead t (t.fl false true) (unitNo u) x.pc 0 time x.launch seq ++ toLe 400 0)

/-- Return from a trap (replay): the unit resumes at its record's PC as it stands in memory. -/
def replayNear (d : Dev) (u : Nat) : Dev :=
  let pc := gget d (nearRecordLoc d u + 8) 8
  d.modUnit u fun x => { x with trap := none, run := .running, pc := pc }

/-! ### Where a unit's addresses lead (R281, R298) -/

/-- Whether a location lies in a unit's local range (R281). -/
def unitLocal (d : Dev) (u loc : Nat) : Bool :=
  match frameOf loc with
  | some f =>
    let h := (d.frame f).home
    (decide (u < 512) && decide (h = 1) && decide (Config.boardUnit f = u)) || (decide (512 ≤ u) && decide (h = 4) && decide (Config.flashUnit f = u - 512))
  | none =>
    let a := Config.boardBase + u / 16 * (64 * 10 ^ 9) + u % 16 * Config.bankBytes
    decide (u < 512) && decide (a ≤ loc) && decide (loc < a + Config.bankBytes)

/-- Translation of a unit's address; a flash-homed page in a storage unit's own range counts as resident (R281). -/
def unitWay (d : Dev) (u va : Nat) : Way :=
  match translate d 0 (d.unit u).ten va with
  | .absent (some f) r w => if unitLocal d u (frameLoc f) then .here (frameLoc f + va % 16384) r w else .absent (some f) r w
  | x => x

/-- The bytes at a location as a unit reads them, with their poison marks: its own unpublished writes, other forked agents'
old or new bytes (R267, R269, log 4), and memory; none while a byte is outstanding. -/
def unitBytes (d : Dev) (u loc n : Nat) : Option (List (Byte × Bool)) × Dev :=
  let own := (d.unit u).unjoined
  let d := closeSplits (unitAgent u) loc n d
  match nowBytes d loc n with
  | none => (none, d)
  | some l =>
    let other (a : Nat) : List (Byte × Bool) := if (ownByte own a).isSome then [] else unjoined d [] a
    let r := l.zipIdx.map fun e =>
      let a := loc + e.2
      match ownByte own a with
      | some x => x
      | none => oldOrNew d e.2 (e.1, poisonIn d a d.placed.reverse) (other a)
    (some r, if (span loc n).any fun a => !(other a).isEmpty then { d with drawn := d.drawn + n } else d)

/-- A unit's write number k has performed: it waits for its publication, in its place in program order (R269). -/
def unitWrite (u k loc : Nat) (l : Bytes) (psn : Bool) (d : Dev) : Dev :=
  (touch d loc).modUnit u fun x =>
    { x with unjoined := (x.unjoined.filter fun w => decide (w.num ≤ k))
               ++ { num := k, loc := loc, bytes := l, psn := psn } :: x.unjoined.filter fun w => decide (k < w.num) }

/-- A unit's performed writes are published: each takes a place, in program order (R269). -/
def publish (u : Nat) (d : Dev) : Dev :=
  let l := (d.unit u).unjoined
  l.foldl (fun d w => placeBytes d (unitAgent u) w.loc w.bytes w.psn) (d.modUnit u fun x => { x with unjoined := [] })

/-! ### Running an instruction -/

/-- How an instruction of a unit ends without effect: a precise trap, or a stall that leaves the device as given. -/
inductive NearEnd where
  | trap (t : TrapInfo)
  | hold (d : Dev)
  deriving DecidableEq, Repr

/-- An instruction of a unit in progress: the device, the device that it started from, the unit, and the next word. -/
structure NearCtx where
  dev : Dev
  base : Dev
  u : Nat
  next : Nat
  deriving DecidableEq, Repr

/-- What the meaning of a near-data instruction is written in. -/
abbrev NearM := StateT NearCtx (Except NearEnd)

/-- A cycle of a unit passes (R306). -/
def nearCycle (u : Nat) (d : Dev) : Dev := d.modUnit u fun x => { x with ncyc := x.ncyc + 1 }

/-- The device after an instruction of unit u. -/
def nearRun (f : NearM Unit) (u : Nat) (d : Dev) : Dev :=
  match f { dev := d, base := d, u := u, next := (d.unit u).pc + 1 } with
  | .ok (_, x) =>
    let d := nearCycle u x.dev
    d.modUnit u fun y => { y with pc := x.next, trapCount := 0, trapLast := (0, 0) }
  | .error (.hold d) => nearCycle u d
  | .error (.trap t) => takeNearTrap (nearCycle u d) u t

/-- A near-data instruction runs in the unit whose turn it is; a unit that does not run issues nothing. -/
def runNear (f : NearM Unit) (s : State) : Out :=
  match s.turn with
  | .agent u _ => if (s.dev.unit u).run = .running then .next { s with dev := nearRun f u s.dev } else .next s
  | _ => .fault .noUnit

namespace NearOp

/-- The unit. -/
def me : NearM Near := do let x ← get; return x.dev.unit x.u
/-- Changes the unit. -/
def modMe (f : Near → Near) : NearM Unit := modify fun x => { x with dev := x.dev.modUnit x.u f }
/-- Changes the device. -/
def modDev (f : Dev → Dev) : NearM Unit := modify fun x => { x with dev := f x.dev }
/-- The unit's number. -/
def num : NearM Nat := do return (← get).u
/-- A precise trap (R308). -/
def trap {α : Type} (c : Cause) (cont : List Nat := []) : NearM α := throw (.trap { cause := c.code, cont := cont })
/-- The illegal-instruction trap holds the word (R308). -/
def illegal {α : Type} : NearM α := do trap .illegal [(← me).iw]
/-- The unit stalls. -/
def stall {α : Type} : NearM α := do throw (.hold (← get).base)
/-- The unit stalls unless a condition holds. -/
def stallUnless (c : Bool) : NearM Unit := if c then return else stall
/-- Where control goes (R289). -/
def jump (w : Nat) : NearM Unit := modify fun x => { x with next := w }

/-! ### Registers -/

/-- A g register with its poison bit (R282). -/
def g (r : BitVec 4) : NearM (Word × Bool) := do
  let x ← me
  return if r = 0 then (0, false) else (vget x.g r.toNat 0, x.gPsn.getLsbD r.toNat)
/-- A g register whose poison traps (R307). -/
def gClean (r : BitVec 4) : NearM Nat := do
  let (v, p) ← g r
  if p then trap .poison [r.toNat] else return v.toNat
/-- Writes a g register; g0 ignores it (R282). -/
def putG (r : BitVec 4) (v : Word) (p : Bool) : NearM Unit :=
  if r = 0 then return
  else modMe fun x => { x with g := vset x.g r.toNat v, gPsn := BitVec.ofNat 16 (setBits x.gPsn.toNat r.toNat 1 p.toNat) }
/-- A mask; f0 reads as all ones (R282). -/
def mask (r : BitVec 3) : NearM (BitVec 16) := do
  let x ← me
  return if r = 0 then BitVec.allOnes 16 else vget x.f r.toNat 0
/-- Writes a mask; f0 ignores it. -/
def putMask (r : BitVec 3) (v : BitVec 16) : NearM Unit := if r = 0 then return else modMe fun x => { x with f := vset x.f r.toNat v }
/-- The lanes of an n register with their poison bits. -/
def lanes (r : BitVec 4) : NearM (List (Nat × Bool)) := do
  let x ← me
  let p := vget x.nPsn r.toNat 0
  return (lanesOf 32 16 (vget x.n r.toNat 0).toNat).zipIdx.map fun e => (e.1, p.getLsbD e.2)
/-- Writes all lanes of an n register. -/
def putLanes (r : BitVec 4) (l : List (Nat × Bool)) : NearM Unit :=
  modMe fun x => { x with n := vset x.n r.toNat (BitVec.ofNat 512 (packLanes 32 (l.map (·.1)))),
                          nPsn := vset x.nPsn r.toNat (BitVec.ofNat 16 (packLanes 1 (l.map fun e => e.2.toNat))) }
/-- ORs flags into nst (R292, R306). -/
def flags (f : BitVec 24) : NearM Unit := modMe fun x => { x with nst := x.nst ||| f }
/-- Writes the lanes of an n register that a mask enables; the others keep their contents and poison (R292). -/
def guarded (d : BitVec 4) (f : BitVec 3) (l : List (Nat × Bool × BitVec 6)) : NearM Unit := do
  let m ← mask f
  let old ← lanes d
  putLanes d ((old.zip l).zipIdx.map fun e => if m.getLsbD e.2 then (e.1.2.1, e.1.2.2.1) else e.1.1)
  flags ((flagsOr (l.zipIdx.map fun e => if m.getLsbD e.2 then e.1.2.2 else 0)).setWidth 24)

/-- A scalar operation (R287): its result is poisoned when an operand is. -/
def scalar (d a b : BitVec 4) (op : Word → Word → Word) : NearM Unit := do
  let (x, p) ← g a
  let (y, r) ← g b
  putG d (op x y) (p || r)

/-- A lane operation of two registers (R292). -/
def lanes2 (d a b : BitVec 4) (f : BitVec 3) (op : Nat → Nat → LaneRes) : NearM Unit := do
  let x ← lanes a
  let y ← lanes b
  guarded d f ((x.zip y).map fun e => let r := op e.1.1 e.2.1; (r.1, e.1.2 || e.2.2, r.2))

/-- A lane operation of one register (R293, R295). -/
def lanes1 (d a : BitVec 4) (f : BitVec 3) (op : Nat → LaneRes) : NearM Unit := do
  let x ← lanes a
  guarded d f (x.map fun e => let r := op e.1; (r.1, e.2, r.2))

/-- A floating-point lane operation: exact, then rounded once to nearest even (R292). -/
def float2 (d a b : BitVec 4) (f : BitVec 3) (op : Num → Num → Num) : NearM Unit :=
  lanes2 d a b f fun x y => fp32.arith 0 false (op (f32Num x) (f32Num y))

/-- A compare writes the enabled bits of a mask; a poisoned lane that it reads traps (R294). -/
def compare (d : BitVec 3) (a b : BitVec 4) (f : BitVec 3) (op : Nat → Nat → Bool × BitVec 6) : NearM Unit := do
  let m ← mask f
  let x ← lanes a
  let y ← lanes b
  let bad (l : List (Nat × Bool)) : Bool := l.zipIdx.any fun e => m.getLsbD e.2 && e.1.2
  if bad x then trap .poison [a.toNat] else if bad y then trap .poison [b.toNat] else
  let old ← mask d
  let r := (x.zip y).map fun e => op e.1.1 e.2.1
  putMask d (BitVec.ofNat 16 (packLanes 1 (r.zipIdx.map fun e => (if m.getLsbD e.2 then e.1.1 else old.getLsbD e.2).toNat)))
  flags ((flagsOr (r.zipIdx.map fun e => if m.getLsbD e.2 then e.1.2 else 0)).setWidth 24)

/-- A mask operation (R294). -/
def mask2 (d a b : BitVec 3) (op : BitVec 16 → BitVec 16 → BitVec 16) : NearM Unit := do putMask d (op (← mask a) (← mask b))

/-- A reduction (R296) of the enabled lanes, with an identity for the others. -/
def reduce (d a : BitVec 4) (f : BitVec 3) (res : List (Option Nat) → Word × BitVec 6) : NearM Unit := do
  let m ← mask f
  let x ← lanes a
  let (v, fl) := res (x.zipIdx.map fun e => if m.getLsbD e.2 then some e.1.1 else none)
  putG d v (x.zipIdx.any fun e => m.getLsbD e.2 && e.1.2)
  flags (fl.setWidth 24)

/-! ### The register image (R283) -/

/-- The register image with its poison marks, byte by byte. -/
def imageOf (x : Near) : List (Byte × Bool) :=
  ((List.range 16).map fun r =>
    let p := vget x.nPsn r 0
    (toLe 64 (vget x.n r 0).toNat).zipIdx.map fun e => (e.1, p.getLsbD (e.2 / 4))).flatten
  ++ ((List.range 16).map fun r => (toLe 8 (if r = 0 then 0 else (vget x.g r 0).toNat)).map fun b => (b, r ≠ 0 && x.gPsn.getLsbD r)).flatten
  ++ ((List.range 8).map fun r => (toLe 2 (if r = 0 then 0xFFFF else (vget x.f r 0).toNat)).map fun b => (b, false)).flatten
  ++ (toLe 112 0).map fun b => (b, false)

/-- The unit with a register image restored; the bytes past f7 are ignored. -/
def withImage (x : Near) (img : List (Byte × Bool)) : Near :=
  let num (lo n : Nat) : Nat := leNat (((img.drop lo).take n).map (·.1))
  let psn (lo n : Nat) : Bool := ((img.drop lo).take n).any (·.2)
  { x with n := Vector.ofFn fun r => BitVec.ofNat 512 (num (64 * r.val) 64),
           nPsn := Vector.ofFn fun r => BitVec.ofNat 16 (packLanes 1 ((List.range 16).map fun l => (psn (64 * r.val + 4 * l) 4).toNat)),
           g := Vector.ofFn fun r => BitVec.ofNat 64 (if r.val = 0 then 0 else num (1024 + 8 * r.val) 8),
           gPsn := BitVec.ofNat 16 (packLanes 1 ((List.range 16).map fun r => (r ≠ 0 && psn (1024 + 8 * r) 8).toNat)),
           f := Vector.ofFn fun r => BitVec.ofNat 16 (num (1152 + 2 * r.val) 2) }

/-- The bytes of live ranges of an image, in range order (R327). -/
def liveOf (img : List (Byte × Bool)) (rs : List (Nat × Nat)) : List (Byte × Bool) := (rs.map fun r => (img.drop r.1).take r.2).flatten

/-- An image of zeros with live ranges put in from a live block. -/
def spread (rs : List (Nat × Nat)) (live : List (Byte × Bool)) : List (Byte × Bool) :=
  (rs.foldl (fun s r =>
    (s.1.take r.1 ++ s.2.take r.2 ++ s.1.drop (r.1 + r.2), s.2.drop r.2)) ((List.replicate 1280 ((0 : Byte), false)), live)).1

/-! ### Memory -/

/-- A range cut at multiples of 64: address and length of each piece. -/
def pieces (va n : Nat) : List (Nat × Nat) :=
  if n = 0 then []
  else (span (va / 64) ((va + n - 1) / 64 - va / 64 + 1)).map fun k => (max va (64 * k), min (va + n) (64 * k + 64) - max va (64 * k))

/-- Pushed entries of a unit that have not performed and meet a range. -/
def pendingOver (x : Near) (va n : Nat) : Bool := x.ports.toList.any fun p => p.out.any fun e => overlap e.addr 64 va n

/-- Entries of a unit's copies that have not been written and meet a range. -/
def copyOver (x : Near) (va n : Nat) : Bool := x.copies.any fun c => overlap (c.dst + 64 * c.k) (64 * (c.n - c.k)) va n

/-- The first address of a list that may not be read or written (true: beyond 56 bits, or denied), or that no translation is held for
(R297, R308). -/
def firstDenied (d : Dev) (u : Nat) (wr : Bool) (l : List Nat) : Option (Nat × Bool) :=
  l.findSome? fun a =>
    let w := if 2 ^ 56 ≤ a then Way.bad else unitWay d u a
    if w = .miss then some (a, false) else if if wr then w.writes else w.reads then none else some (a, true)

/-- Every address of a list may be read or written: the first that may not traps (R297, R303, R304, R308), an untranslated page before it
stalls. -/
def allowed (wr : Bool) (l : List Nat) : NearM Unit := do
  let x ← get
  match firstDenied x.dev x.u wr l with
  | some (a, true) => trap .permission [a]
  | some _ => stall
  | none => return

/-- The location of an address that no port reads: a non-resident page is requested as preq does and waited for, a refused one traps;
its record names no port (R298, R308, log 81). -/
def resident (va : Nat) (wr : Bool) : NearM Nat := do
  let x ← get
  match unitWay x.dev x.u va with
  | .here loc _ _ => return loc
  | .absent _ _ _ => throw (.hold (requestPage x.base (x.base.unit x.u).ten va wr))
  | .refused => trap .pageRefused [255, alignDown va 16384]
  | _ => stall

/-- Where an address leads at a peer: device, context, address. -/
def atPeer (va : Nat) : NearM (Option (Nat × Nat × Nat)) := do
  let x ← get
  return match unitWay x.dev x.u va with | .peer dev ten a .. => some (dev, ten, a) | _ => none

/-- A unit's write leaves for a peer (R263, R264). -/
def sendPeer (p : Nat × Nat × Nat) (l : List (Option Byte)) : NearM Unit := do
  let u ← num
  modDev (sendOut { dev := p.1, agent := unitAgent u, ten := p.2.1, addr := p.2.2, n := l.length, data := some l })

/-- The number of the unit's next write. -/
def nextWrite : NearM Nat := do
  let k := (← me).writes
  modMe fun x => { x with writes := k + 1 }
  return k

/-- Bytes that a unit reads with their poison marks: its earlier pushes and copies have performed on them (R281); a peer's are free
values, and poisoned when it refuses (R263, log 4). -/
def read (va n : Nat) : NearM (List (Byte × Bool)) := do
  stallUnless (!pendingOver (← me) va n && !copyOver (← me) va n)
  let l ← (pieces va n).mapM fun p => do
    match ← atPeer p.1 with
    | some q =>
      let (r, d) := askPeer q.1 p.2 (← get).dev
      modDev fun _ => d
      return (r.getD (toLe p.2 0)).map fun b => (b, r.isNone)
    | none =>
      let loc ← resident p.1 false
      let x ← get
      match unitBytes (touch x.dev loc) x.u loc p.2 with
      | (some l, d) => modDev fun _ => d; return l
      | (none, _) => stall
  return l.flatten

/-- Bytes that a unit writes, in 4-byte pieces, each with its poison mark. -/
def write (va : Nat) (l : List (Byte × Bool)) : NearM Unit :=
  (chunks 4 (ceilDiv l.length 4) l).zipIdx.forM fun e => do
    let a := va + 4 * e.2
    match ← atPeer a with
    | some p => sendPeer p (e.1.map fun b => some b.1)
    | none => do
      let loc ← resident a true
      modDev (unitWrite (← num) (← nextWrite) loc (e.1.map (·.1)) (e.1.any (·.2)))

/-- Every write-port entry pushed and every copy started has performed, at a peer once that has acknowledged it (R263, R264, R290, R291,
R303). -/
def drained : NearM Unit := do
  let x ← me
  let c ← get
  stallUnless (x.copies.isEmpty && (x.ports.toList.all fun p => p.out.isEmpty) && c.dev.peerOut.all fun o => decide (o.agent ≠ unitAgent c.u))

/-- Live ranges of entry k of the near-data safe-point table (R313). -/
def rangesOf (k : Nat) : NearM (List (Nat × Nat)) := do
  let x ← get
  let l := match x.dev.launch? (x.dev.unit x.u).launch with | some y => y.obj | none => 0
  match (x.dev.objs.find? l).bind fun o => o.nearSps[k]? with
  | some s => return s.ranges
  | none => illegal

/-- A parison is written (R304); the Gaffer has granted the bytes of a hand-over's (R333). -/
def saveParison (va k : Nat) (granted : Bool) (p : Head) : NearM Unit := do
  let rs ← rangesOf k
  let live := liveOf (imageOf (← me)) rs
  let p := { p with ranges := rs, llen := live.length, lfmt := 1 }
  let b := p.bytes (live.map (·.1))
  if !granted then allowed true ((pieces va b.length).map (·.1))
  write va ((b.take 256).map (fun x => (x, false)) ++ live)

/-- The unit's writes are published, and after them the status word and the sequence number, which clears PM (R269,
R303). -/
def complete (va seq : Nat) : NearM Unit := do
  drained
  let u ← num
  let st := (← me).nst.toNat
  match ← atPeer va with
  | some p =>
    modDev (publish u)
    sendPeer (p.1, p.2.1, p.2.2 + 8) ((toLe 8 st).map some)
    sendPeer p ((toLe 8 seq).map some)
  | none =>
    let loc ← resident va true
    modDev fun d => placeBytes (placeBytes (publish u d) (unitAgent u) (loc + 8) (toLe 8 st)) (unitAgent u) loc (toLe 8 seq)
  modMe fun x => { x with nst := x.nst &&& 0xFF#24 }

/-- A parison is read and checked, and loaded when it is accepted: its status (R304, R429). -/
def loadParison (va : Nat) : NearM Nat := do
  let poisoned (a : Nat) (l : List (Byte × Bool)) : Option Nat := (l.zipIdx.find? fun e => e.1.2).map fun e => a + e.2
  allowed false ((pieces va 256).map (·.1))
  let h ← read va 256
  match poisoned va h with
  | some a => trap .poison [a]
  | none =>
    let hb := h.map (·.1)
    let st := headStatus true none hb
    if st ≠ 0 then return st
    else
      let n := headField hb 44 4
      allowed false ((pieces (va + 256) n).map (·.1))
      let live ← read (va + 256) n
      let st := liveStatus (← me).kid.toNat hb (live.map (·.1))
      if st ≠ 0 then return st
      else
        let rs := headRanges hb
        let img := spread rs live
        -- the masks have no poison bits (R304)
        match (live.zip (rs.map fun r => span r.1 r.2).flatten).zipIdx.find? fun e => e.1.1.2 && decide (1152 ≤ e.1.2) && decide (e.1.2 < 1168) with
        | some e => trap .poison [va + 256 + e.2]
        | none =>
          let cur := headCursor hb
          modMe fun x =>
            { withImage x img with cix := Vector.ofFn fun k => BitVec.ofNat 32 (cur.getD k.val 0), cixd := BitVec.ofNat 3 (cur.getD 6 0) }
          return 0

/-- A unit is loaded from its parison before its first instruction; its band base is then cix0 (R331, R336). -/
def startLoad (va : Nat) : NearM Unit := do
  let st ← loadParison va
  if st ≠ 0 then trap .parisonCheck [st, va]
  else
    modMe fun x => { x with start := none, band := (vget x.cix 0 0).toNat }
    jump (← me).pc

/-! ### Ports (R297, R298) -/

/-- Port p. -/
def port (p : BitVec 2) : NearM Port := do return vget (← me).ports p.toNat {}
/-- Changes a port. -/
def modPort (p : BitVec 2) (f : Port → Port) : NearM Unit := modMe fun x => { x with ports := vset x.ports p.toNat (f (vget x.ports p.toNat {})) }

/-- A port still holds read entries that are undelivered or unpopped, or has not reached its write count (R291, R297). -/
def portOpen (p : Port) : Bool :=
  match p.mode with
  | none => false
  | some 2 => p.bitmap.isSome || (p.bits.drop p.used).any id
  | some _ => decide (p.used < p.cnt)

/-- Entries of a port that remain, in dense terms (R308, log 33). -/
def portRest (p : Port) : Nat := if p.mode = some 2 then p.cnt - 2 * p.used else p.cnt - p.used

/-- A trap on a port: its number, its MODE and its remaining count (R308); an idle port has no MODE: a free value (log 4). -/
def portTrap {α : Type} (c : Cause) (p : BitVec 2) : NearM α := do
  let x ← port p
  match x.mode with
  | some m => trap c [p.toNat, m, portRest x]
  | none => trap c [p.toNat, Config.freeNat (← get).dev.drawn, 0]

/-- A page of the port has been refused: the next instruction that pops or pushes it traps; one whose bitmap has not been read waits
(R298), and what it held is taken here. -/
def portOk (p : BitVec 2) : NearM Unit := do
  let x ← port p
  match x.refused, x.owed with
  | some a, _ => trap .pageRefused [p.toNat, a]
  | none, some (psn, a) => trap (if psn then .poison else .permission) [a]
  | none, none => stallUnless x.bitmap.isNone

/-- Pops n delivered entries; the unit stalls while they are not there (R298). -/
def pop (p : BitVec 2) (n : Nat) : NearM (List (Bytes × List Nat)) := do
  portOk p
  let x ← port p
  if x.buf.length < n then stall
  else
    modPort p fun x => { x with buf := x.buf.drop n }
    return x.buf.take n

/-- One entry of a read port (R298). -/
def popRead (p : BitVec 2) : NearM (Bytes × List Nat) := do
  let x ← port p
  match x.mode with
  | none => portTrap .portEmpty p
  | some 0 =>
    if x.cnt ≤ x.used then portTrap .portEmpty p
    else
      let l ← pop p 1
      modPort p fun x => { x with used := x.used + 1 }
      return l.headD ([], [])
  | some _ => portTrap .portMode p

end NearOp

end Sys2Proof.Machine
end

