-- ==== Sys2Proof/Machine/Launches.lean ====
section
/-! DEFINITION. The life of a launch: where it is placed and what it holds, its start as a gang, the scheduling pass, kills, and its
end (R11 to R16, R21, R93, R209, R324 to R328, R353 to R357, R361, R363 to R367, R370, R387, R407). -/

namespace Sys2Proof.Machine

/-! ### Streams (R352, R353) -/

/-- Location of the byte at stream index i (R352). -/
def streamByte (d : Dev) (ten m i : Nat) : Nat :=
  let s := d.stream ten m
  (if ten = 16 then d.adma else (d.tenant ten).sarea) + s.base + i % 2 ^ s.size

/-- The words of a control block that the device writes (R352). -/
def putBlock (ten m fofs : Nat) (d : Dev) : Dev :=
  let s := d.stream ten m
  let b := blockLoc d ten m
  gput (gput (gput d (b + 8) 8 s.rix) (b + 28) 4 (s.state + 256 * s.fcode)) (b + 40) 16 (s.nseq + 2 ^ 64 * fofs)

/-- The stream's RIX in its control block. -/
def putRix (ten m : Nat) (d : Dev) : Dev := gput d (blockLoc d ten m + 8) 8 (d.stream ten m).rix
/-- STATE and FCODE in the control block. -/
def putState (ten m : Nat) (d : Dev) : Dev :=
  let s := d.stream ten m
  gput d (blockLoc d ten m + 28) 2 (s.state + 256 * s.fcode)

/-- A stream fault (R356): STATE 3, FCODE, FOFS, and the event with the record's tag. -/
def streamFault (ten m code tag : Nat) (d : Dev) : Dev :=
  let rix := (d.stream ten m).rix
  let d := d.modStream ten m fun s => { s with state := 3, fcode := code, wait := none, patch := none, due := false }
  let d := putBlock ten m rix d
  if ten = 16 then d else postEvent d ten { kind := 4, strm := m, cause := code, tag := tag, seq := rix, rc := 0, sqid := 0x3FF }

/-- The next item number of a stream (R355). -/
def nextItem (ten m : Nat) (d : Dev) : Nat × Dev :=
  let n := (d.stream ten m).nseq + 1
  let d := d.modStream ten m fun s => { s with nseq := n }
  (n, gput d (blockLoc d ten m + 40) 8 n)

/-- CSEQ after the items above it that have ended (R367). -/
def seqReach (l : List Nat) : Nat → Nat → Nat
  | 0, c => c
  | n + 1, c => if l.contains (c + 1) then seqReach l n (c + 1) else c

/-- An item has ended: the completion word goes as far as it can (R367, R269). -/
def endItem (ten m n : Nat) (d : Dev) : Dev :=
  let s := d.stream ten m
  let l := insertNat n s.ended
  let c := seqReach l l.length s.cseq
  let d := d.modStream ten m fun s => { s with cseq := c, ended := l.filter fun k => decide (c < k) }
  if c = s.cseq then d else gput d (blockLoc d ten m + 32) 8 c

/-! ### What launches hold (R12, R15, R16, R364) -/

/-- Columns of a sequencer in a mode (R16). -/
def modeWidth (m : Nat) : Nat := if m = 0 then 4 else if m = 1 then 2 else 1

/-- What a placement must keep clear of: columns that are not free, the modes of cores in use, stash units in use and
counter banks held. -/
structure Room where
  held : List Nat := []
  modes : List (Nat × Nat) := []
  stash : List (Nat × Nat) := []
  banks : List Nat := []
  deriving DecidableEq, Repr

/-- What is in use together. -/
def Room.join (a b : Room) : Room := { held := a.held ++ b.held, modes := a.modes ++ b.modes, stash := a.stash ++ b.stash, banks := a.banks ++ b.banks }

/-- What the launches of a device hold, but for those in `out`. -/
def roomOf (d : Dev) (out : List Nat) : Room :=
  let ss := d.seqs.filter fun e => decide (e.2.run ≠ .absent) && decide (e.1 < 1024) && !out.contains e.2.place.launch
  let cs := (d.launches.filter fun e => !out.contains e.1).flatMap fun e => e.2.clusters.filter fun c => !c.reported && !c.away
  { held := ss.flatMap fun e => span e.1 e.2.ncols, modes := ss.map fun e => (e.1 / 4, e.2.place.mode),
    stash := cs.map fun c => (c.phys, c.share), banks := (cs.filter (·.ctr)).map (·.phys) }

/-- The masked sequencers of a core: number and first column within the core (R11, R16). -/
def masked (m : CoreMap) : List (Nat × Nat) := ((List.range 4).filter fun j => bit m.seqm j).map fun j => (j, j * modeWidth m.mode)

/-- Whether a physical core takes a logical core: its mode, and free columns of the partition (R16, R364, R407). -/
def coreFits (r : Room) (first count : Nat) (m : CoreMap) (core : Nat) : Bool :=
  (r.modes.all fun x => decide (x.1 ≠ core) || decide (x.2 = m.mode))
    && (masked m).all fun j => (span (4 * core + j.2) (modeWidth m.mode)).all fun c =>
      decide (first ≤ c) && decide (c < first + count) && !r.held.contains c

/-- Logical cores in ascending order, each on the lowest-numbered core of the cluster that takes it (R364). -/
def assignCores (r : Room) (first count : Nat) : List Nat → List CoreMap → Option (List Nat)
  | _, [] => some []
  | free, m :: ms =>
    match free.find? (coreFits r first count m) with
    | none => none
    | some p => (assignCores r first count (free.erase p) ms).map (p :: ·)

/-- A logical cluster on a physical one: stash share, counter bank, cores (R364). -/
def assignCluster (r : Room) (first count : Nat) (m : ClMap) (p : Nat) : Option (List Nat) :=
  let used := ((r.stash.filter fun x => decide (x.1 = p)).map (·.2)).sum
  if (m.stash ≠ 0 && 24 < used + m.stash) || (m.ctr && r.banks.contains p) then none else assignCores r first count (span (4 * p) 4) m.cores

/-- Logical clusters in ascending order, each on the lowest-numbered cluster of the pool that takes it (R12, R364). -/
def assignAll (r : Room) (first count : Nat) : List Nat → List ClMap → Option (List (Nat × List Nat))
  | _, [] => some []
  | pool, m :: ms =>
    match pool.findSome? fun p => (assignCluster r first count m p).map fun c => (p, c) with
    | none => none
    | some a => (assignAll r first count (pool.erase a.1) ms).map (a :: ·)

/-- Compute dies of the part (R1). -/
def dieCount (d : Dev) : Nat := if d.form = .cd then 1 else 4

/-- place (R364): with the same-die flag the dies are tried in turn. -/
def fit (dies : Nat) (r : Room) (first count : Nat) (ms : List ClMap) : Option (List (Nat × List Nat)) :=
  if ms.any (·.same) then (List.range dies).findSome? fun die => assignAll r first count (span (16 * die) 16) ms
  else assignAll r first count (List.range (16 * dies)) ms

/-- What an assignment keeps from later candidates while it blocks: columns, stash shares and counter banks (R364). -/
def roomFor (ms : List ClMap) (a : List (Nat × List Nat)) : Room :=
  let z := ms.zip a
  { held := z.flatMap fun e => (e.1.cores.zip e.2.2).flatMap fun c => (masked c.1).flatMap fun j => span (4 * c.2 + j.2) (modeWidth c.1.mode),
    stash := z.map fun e => (e.2.1, e.1.stash), banks := (z.filter fun e => e.1.ctr).map fun e => e.2.1 }

/-- First column and column count of a tenant's partition (R406). -/
def partition (d : Dev) (ten : Nat) : Nat × Nat := let p := (d.tenant ten).part; (bits p 0 10, bits p 10 11)

/-! ### Context records (R387) -/

/-- Sizes of the context records of an object's launch with so many near-data units: sequencers, logical clusters, units (R387). -/
def recordSizes (o : Obj) (units : Nat) : List Nat :=
  List.replicate (o.maps.flatMap fun m => m.cores.flatMap masked).length (2 ^ 20) ++ List.replicate o.maps.length (6272 * 1024)
    ++ List.replicate units 16384

/-- Bytes of a tenant's context region (R385, R387). -/
def contextRoom (d : Dev) (ten : Nat) : Nat := (d.tenant ten).svlen - 12 * 2 ^ 20
/-- Location of the first byte of a tenant's context region. -/
def contextLoc (d : Dev) (ten : Nat) : Nat := (d.tenant ten).svpa + 12 * 2 ^ 20

/-- The records that a tenant's placed launches hold: a saved launch keeps its own. -/
def recordsHeld (d : Dev) (ten : Nat) : List (Nat × Nat) := (d.launches.filter fun e => decide (e.2.ten = ten)).flatMap fun e => e.2.recs

/-- Records of the given sizes, each at the lowest place of the region that is free, as far as they fit. -/
def takeRecords (room : Nat) (held : List (Nat × Nat)) : List Nat → List (Nat × Nat)
  | [] => []
  | n :: l =>
    let ok (a : Nat) : Bool := decide (a + n ≤ room) && held.all fun h => !overlap a n h.1 h.2
    match (insertNats [] (0 :: held.map fun h => h.1 + h.2)).find? ok with
    | none => []
    | some a => (a, n) :: takeRecords room ((a, n) :: held) l

/-- The context records of a launch (R387): none where they do not fit beside those that stand. -/
def allot (d : Dev) (ten : Nat) (sizes : List Nat) : Option (List (Nat × Nat)) :=
  let l := takeRecords (contextRoom d ten) (recordsHeld d ten) sizes
  if l.length = sizes.length then some l else none

/-- Whether a sequencer asks for more register space than its mode can hold (R21). -/
def regsRefused (o : Obj) : Bool :=
  o.maps.any fun m => m.cores.any fun c => (masked c).any fun j => decide (16384 * modeWidth c.mode < (c.entries.getD j.1 (0, 0)).2)

/-- Placement refused for good: register space, a first fit of the clusters on the empty partition, context records (R21, R364, R387). -/
def neverFits (d : Dev) (ten : Nat) (o : Obj) (ms : List ClMap) : Bool :=
  let (a, n) := partition d ten
  regsRefused o || (fit (dieCount d) {} a n ms).isNone || (decide ((d.tenant ten).svlen ≠ 0) && decide (contextRoom d ten < (recordSizes o 0).sum))

/-! ### Ends of items (R366, R367) -/

/-- The parameter block of a launch. -/
def Launch.count (x : Launch) : List Nat := [x.qimb, x.ovrd, x.undr, x.rbk, x.pre, x.traps]

/-- An end record (R367). -/
def endRecord (seq tag status cov cause tstart tend : Nat) (counts : List Nat) : Bytes :=
  toLe 8 seq ++ toLe 4 tag ++ toLe 1 status ++ toLe 1 cov ++ toLe 2 cause ++ toLe 8 tstart ++ toLe 8 tend
    ++ ((List.range 6).map fun k => toLe 4 (counts.getD k 0)).flatten ++ toLe 8 0

/-- Where an end record goes: where its address leads; a page that is not here is requested and waited for. An address that is
misaligned or denied takes no record (log 43). -/
def statWay (d : Dev) (ten stat : Nat) : Except Dev Way :=
  if stat = 0 || stat % 64 ≠ 0 then .ok .bad
  else match translate d 0 ten stat with
    | .absent _ _ true => .error (requestPage d ten stat true)
    | .miss => .error d
    | w => .ok (if w.writes then w else .bad)

/-- Whether every node of a replay has ended. -/
def Replay.over (r : Replay) : Bool := r.nodes.all fun | .ended _ => true | _ => false

/-- Status of a replay: the first non-zero node status (R361). -/
def Replay.status (r : Replay) : Nat :=
  (r.nodes.findSome? fun | .ended s => if s ≠ 0 then some s else none | _ => none).getD 0

/-- A replay whose nodes have all ended ends as an item (R361, R366): none while its end record has to wait. -/
def endReplay (k : Nat) (d : Dev) : Option Dev :=
  match d.replays.find? k with
  | none => none
  | some r =>
    if r.ended || !r.over then none
    else match statWay d r.ten r.stat with
      | .error _ => none
      | .ok w =>
        let (t, d) := now d
        let d := putWay w (endRecord r.seq r.tag r.status r.cov r.cause r.tstart t r.counts) d
        some (endItem r.ten r.strm r.seq { d with replays := d.replays.erase k })

/-- A replay's end as far as it can go now; a page that its end record needs is requested. -/
def tryReplay (k : Nat) (d : Dev) : Dev :=
  match endReplay k d with
  | some d => d
  | none => match d.replays.find? k with
    | some r => if r.over then (match statWay d r.ten r.stat with | .error d => d | .ok _ => d) else d
    | none => d

/-- What was promoted for a launch is pinned for it until it ends (R342). -/
def unpin (l : Nat) (d : Dev) : Dev :=
  { d with mmu := { d.mmu with frames := d.mmu.frames.map fun e => (e.1, { e.2 with pins := e.2.pins.filter (· ≠ l) }) } }

/-- The last steps of a launch's end (R366): end record, completion word, event; a node reports to its replay. None while the
end record has to wait. -/
def endLaunch (l : Nat) (d : Dev) : Option Dev :=
  match d.launch? l with
  | none => none
  | some x =>
    match x.node with
    | some (k, j) =>
      let d := unpin l { d with launches := d.launches.erase l }
      let d := match d.replays.find? k with
        | some r =>
          let r : Replay := { r with nodes := r.nodes.set j (.ended x.status), cov := x.cov, cause := if r.cause = 0 then x.cause else r.cause,
                                     counts := (r.counts.zip x.count).map fun e => e.1 + e.2 }
          { d with replays := d.replays.put k r }
        | none => d
      let d := tryReplay k d
      some (if x.notify then postEvent d x.ten { kind := 3, strm := x.strm, cause := x.cause, tag := x.tag, seq := x.seq, rc := 0, sqid := 0x3FF } else d)
    | none =>
      match statWay d x.ten x.stat with
      | .error _ => none
      | .ok w =>
        let (t, d) := now d
        let d := putWay w (endRecord x.seq x.tag x.status x.cov x.cause x.tstart t x.count) d
        let d := endItem x.ten x.strm x.seq (unpin l { d with launches := d.launches.erase l })
        some (if x.notify then postEvent d x.ten { kind := 3, strm := x.strm, cause := x.cause, tag := x.tag, seq := x.seq, rc := 0, sqid := 0x3FF } else d)

/-- What is left of a launch's writes to peers once its sequencers, units and engine commands have gone (R366). -/
def launchAgent (l : Nat) : Nat := 2 ^ 20 + l
/-- Writes of an agent become their launch's. -/
def retag (a l : Nat) (d : Dev) : Dev :=
  { d with peerOut := d.peerOut.map fun o => if o.agent = a then { o with agent := launchAgent l } else o }
/-- Whether what is left of a launch's writes to peers has been acknowledged (R366). -/
def writesOver (l : Nat) (d : Dev) : Bool := d.peerOut.all fun o => decide (o.agent ≠ launchAgent l)

/-- A launch's end as far as it can go now, once its writes have performed; a page that its end record needs is requested. -/
def tryEnd (l : Nat) (d : Dev) : Dev :=
  if !writesOver l d then d
  else match endLaunch l d with
  | some d => d
  | none => match d.launch? l with
    | some x => (match statWay d x.ten x.stat with | .error d => d | .ok _ => d)
    | none => d

/-! ### Kill (R209, R231, R370) -/

/-- Writes without a place when their agent is stopped: each byte lands or does not, as a free bit chooses (R209, R269, log 4). -/
def strayWrites (own : Nat) (l : List (Nat × Byte × Bool)) (d : Dev) : Dev :=
  l.foldl (fun d w =>
    let b := Config.freeBit d.drawn
    let d := { d with drawn := d.drawn + 1 }
    if b then placeBytes d own w.1 [w.2.1] w.2.2 else d) d

/-- Whether what a killed sequencer has placed stands: its reads go, and its writes whose data have not come (R231, R370). -/
def Placed.standsWithout (q : Nat) (p : Placed) : Bool :=
  decide (p.range.1 ≠ q) || !(p.isRead || p.awaits q)

/-- A sequencer stops at once (R231, R370): what has no place yet is discarded, and writes whose data will not come end; writes on
their way to the host go on. A marked entry that is discarded is an over-read event (R125). -/
def stopSeq (d : Dev) (q : Nat) : Dev :=
  let s := d.seq q
  let marked := (s.cols.toList.map fun c => ((c.ldq ++ c.fill).filter fun e => e.overRead.isSome).length).sum
  let d := settle { d with placed := d.placed.filter (Placed.standsWithout q), splits := d.splits.filter fun x => decide (x.own ≠ q),
                           peerOut := d.peerOut.filter fun o => decide (o.agent ≠ q) || o.data.isSome }
  let d := ((s.far.filter (Placed.standsWithout q)).foldl perform d).modLaunch s.place.launch fun x => { x with ovrd := x.ovrd + marked }
  d.modSeq q fun s => { s with run := .done, pend := [], ord := [], side := [], far := [], region := {}, cols := .replicate 4 {}, mx := {},
                               bead := beadReset s.bead, trap := none, storeMiss := none, missWait := false, reqs := [], owner := false, woke := none,
                               waitOn := none, want := none, halted := false, pld := [], checks := [], foreignDue := false, safeDue := none, stepDue := false,
                               stepMode := false, owedForeign := 0, owedWatch := none }

/-- The commands of a launch in one engine: queued ones go, a running one stops, and its writes to peers are the launch's (R209, R366). -/
def stopEngine (l no : Nat) (e : Engine) (d : Dev) : Engine × Dev :=
  let q := e.queue.filter fun c => decide (c.launch ≠ l)
  match e.running with
  | some c =>
    if c.launch = l then
      ({ e with queue := q, running := none },
       retag (engineAgent no) l (strayWrites (engineAgent no) (c.writes.map fun w => (w.1, w.2, c.poisoned.contains w.1)) d))
    else ({ e with queue := q }, d)
  | none => ({ e with queue := q }, d)

/-- The engines of a cluster without the commands of a launch. -/
def stopEngines (l : Nat) (d : Dev) (c : Nat) : Dev :=
  [0, 1, 2].foldl (fun d e =>
    let (x, d) := stopEngine l (engineNo c e) (engineOf (d.cluster c) e) d
    d.modCluster c fun y => setEngine y e x) d

/-- The writes of a unit that have not been published, byte by byte. -/
def loose (l : List NWrite) : List (Nat × Byte × Bool) := l.flatMap fun w => w.bytes.zipIdx.map fun e => (w.loc + e.2, e.1, w.psn)

/-- A near-data unit stops at once (R370). -/
def stopUnit (d : Dev) (u : Nat) : Dev :=
  (strayWrites (unitAgent u) (loose (d.unit u).unjoined) d).modUnit u fun x =>
    { x with run := .done, unjoined := [], ports := .replicate 4 {}, copies := [], reqs := [], trap := none, hand := none, handDrain := none }

/-- Counted units with a count that a launch still holds (R124, R366). -/
def countedLeft (us : List CUnit) : Nat := (us.filter fun u => decide (0 < u.count)).length

/-- A launch is killed: everything of it stops at once and its end follows; a first kill's status stands (R370). -/
def killLaunch (l status cause : Nat) (d : Dev) : Dev :=
  match d.launch? l with
  | none => d
  | some x =>
    if x.st = .draining then d
    else if x.st = .waiting then
      let n := if x.saved then countedLeft (x.ctx.flatMap (·.lines)) + countedLeft (x.clusters.flatMap (·.blocks)) else 0
      let d := x.nctx.foldl (fun d u => strayWrites (launchAgent l) (loose u.2.unjoined) d) d
      tryEnd l (d.modLaunch l fun x =>
        { x with st := .draining, status := status, cause := cause, undr := x.undr + n, clusters := [], units := [], nctx := [], posts := [] })
    else
      let d := x.units.foldl stopUnit ((x.clusters.map (·.phys)).foldl (stopEngines l) ((seqsOf x).foldl stopSeq d))
      d.modLaunch l fun x => { x with st := .draining, status := status, cause := cause, posts := [] }

/-- An item, by tenant, stream and number: its launches, those of its replay among them. -/
def itemLaunches (d : Dev) (ten m n : Nat) : List Nat :=
  (d.launches.filter fun e => decide (e.2.ten = ten) && decide (e.2.strm = m) && decide (e.2.seq = n)).map (·.1)

/-- A replay's nodes that have not started end with a status (R362). -/
def killReplay (status : Nat) (k : Nat) (d : Dev) : Dev :=
  match d.replays.find? k with
  | none => d
  | some r =>
    let ns := r.nodes.map fun n => if n = .idle then .ended status else n
    let d := { d with replays := d.replays.put k { r with nodes := ns } }
    tryReplay k d

/-- An item is killed (R362): its launches, and the nodes of its replay that have not started. -/
def killItem (ten m n status : Nat) (d : Dev) : Dev :=
  let rs := (d.replays.filter fun e => decide (e.2.ten = ten) && decide (e.2.strm = m) && decide (e.2.seq = n)).map (·.1)
  let d := (itemLaunches d ten m n).foldl (fun d l => killLaunch l status 0 d) d
  rs.foldl (fun d k => killReplay status k d) d

/-- Every item of a tenant is killed (R351). -/
def killTenant (ten status : Nat) (d : Dev) : Dev :=
  let ls := (d.launches.filter fun e => decide (e.2.ten = ten)).map (·.1)
  let rs := (d.replays.filter fun e => decide (e.2.ten = ten)).map (·.1)
  let d := ls.foldl (fun d l => killLaunch l status 0 d) d
  rs.foldl (fun d k => killReplay status k d) d

/-- Stores that wait on a page that is now refused kill their launches with cause 0x26 (R370, R379): not before the Gaffer runs (R403). -/
def killRefused (d : Dev) : Dev :=
  if d.fw.gstat ≠ 1 then d
  else d.seqs.foldl (fun d e =>
    let x := d.seq e.1
    let next := x.ord.head?.elim [] fun o => o.op.nextAddrs x
    if x.missWait && x.storeMiss.isNone && next.any fun a => decide (seqWay d e.1 a = .refused) then killLaunch x.place.launch 0x11 0x26 d else d) d

/-! ### Starting (R13, R66, R109, R328) -/

/-- A sequencer as it starts (R13, R17, R66, R74). Its launch sequence number is the device's count of launches, from 1 (the model's choice,
log 5). -/
def freshSeq (o : Obj) (l : Nat) (x : Launch) (lcl lco seqNo mode : Nat) : Seq :=
  let m := (o.maps.getD lcl { ctr := false, same := false, stash := 0, cores := [] }).cores.getD lco { mode := 0, seqm := 0, entries := [] }
  let e := m.entries.getD seqNo (0, 0)
  { run := .parked, pc := { seg := o.loadva + e.1, idx := 0 }, regs := { views := startViews, hpa := BitVec.ofNat 64 x.hpa },
    place := { launch := l, ten := x.ten, lcl := lcl, lco := lco, mode := mode, seqNo := seqNo, ncl := o.maps.length, parm := BitVec.ofNat 64 x.parm,
               lsn := BitVec.ofNat 64 l, granules := e.2 / 4096, errm := BitVec.ofNat 64 o.errm, diag := x.diag, tier := o.tier,
               kid := BitVec.ofNat 64 o.kid } }

/-- The sequencers of one logical cluster on its cores: number, logical core, sequencer, mode. -/
def clusterSeqs (m : ClMap) (cores : List Nat) : List (Nat × Nat × Nat × Nat) :=
  ((m.cores.zip cores).zipIdx).flatMap fun e => (masked e.1.1).map fun j => (4 * e.1.2 + j.2, e.2, j.1, e.1.1.mode)

/-- The clusters of an object that a launch needs: all at its start, at a resume those that have not reported. -/
def neededMaps (o : Obj) (x : Launch) : List (Nat × ClMap) :=
  (o.maps.zipIdx.map fun e => (e.2, e.1)).filter fun e => !(x.saved && (x.clusters.getD e.1 {}).reported)

/-- The clusters of an assignment are taken: columns, stash shares, counter banks that read zero at the grant (R13, R133). -/
def takeClusters (l : Nat) (o : Obj) (a : List (Nat × List Nat)) (d : Dev) : Dev :=
  match d.launch? l with
  | none => d
  | some x =>
    let z := (neededMaps o x).zip a
    let d := z.foldl (fun d e =>
      let d := if e.1.2.ctr then d.modCluster e.2.1 fun c => { c with grant := some l, counters := .replicate 64 0 } else d
      (clusterSeqs e.1.2 e.2.2).foldl (fun d s => d.setSeq s.1 (freshSeq o l x e.1.1 s.2.1 s.2.2.1 s.2.2.2)) d) d
    let base : List LCl := if x.saved then x.clusters else o.maps.map fun m => { share := m.stash, ctr := m.ctr }
    let cs := z.foldl (fun (cs : List LCl) e =>
      cs.set e.1.1 { cs.getD e.1.1 {} with phys := e.2.1, seqs := (clusterSeqs e.1.2 e.2.2).map (·.1), away := false }) base
    d.modLaunch l fun x => { x with clusters := cs }

/-! ### Tiered launches (R324 to R328, R332) -/

/-- Where the Gaffer keeps what a tiered launch needs (log 14): plan, part table, part-completion array, start parisons,
hand-over parisons, completion record. -/
def tierBase (ten l : Nat) : Nat := gafferVa ten + 2 ^ 39 + l % 2 ^ 19 * 2 ^ 20
/-- Address of the part table. -/
def tierParts (b : Nat) : Nat := b + 0x1000
/-- Address of the part-completion array. -/
def tierDone (b : Nat) : Nat := b + 0x2000
/-- Address of the start parison of part p. -/
def tierStart (b p : Nat) : Nat := b + 0x5000 + 512 * p
/-- Address of the parison of request n. -/
def tierPa (b n : Nat) : Nat := b + 0x80000 + n % 16 * 0x5000
/-- Address of the completion record. -/
def tierCw (b : Nat) : Nat := b + 0xF0000

/-- Units of a tier that no launch holds (R407). -/
def freeUnits (d : Dev) (tier : Nat) : List Nat := (if tier = 1 then List.range 512 else span 512 32).filter fun u => decide ((d.unit u).run = .absent)

/-- HOME of the frame that a tenant's page is kept in, resident or not; none where no frame keeps it (R377). -/
def pageHome (d : Dev) (ten va : Nat) : Option Nat :=
  match translate d 0 ten va with
  | .here loc _ _ => (frameOf loc).map fun f => (d.frame f).home
  | .absent (some f) _ _ => some (d.frame f).home
  | _ => none

/-- The lowest tier that holds a tile of a band of nb iterations: 2 storage, 1 board, 0 top (R33). -/
def startTier (d : Dev) (o : Obj) (x : Launch) (nb : Nat) : Nat :=
  let homes := (List.range nb).flatMap fun i => (Config.tiles o.kid x.parm i).filterMap (pageHome d x.ten)
  if homes.contains 4 then 2 else if homes.contains 1 then 1 else 0

/-- Whether the tiles of a band are known to stand somewhere or nowhere: no translation of their pages is outstanding (R33, R375). -/
def tilesKnown (d : Dev) (o : Obj) (x : Launch) (nb : Nat) : Bool :=
  (List.range nb).all fun i => (Config.tiles o.kid x.parm i).all fun va => decide (translate d 0 x.ten va ≠ .miss)

/-- Whether the units of a part may have a share in a launch: near-data code on a part that has near-data units (R1, R324). -/
def nearRuns (d : Dev) (o : Obj) : Bool := decide (d.form = .m640) && decide (o.nearCode ≠ [])

/-- First iterations of n parts that cover [from, nb) in ascending order: the Gaffer's choice, free (R324, log 4). -/
def partStarts (nb : Nat) : Nat → Nat → Dev → List Nat × Dev
  | 0, _, d => ([], d)
  | n + 1, a, d =>
    let (x, d) := d.draw
    let (l, d) := partStarts nb n (a + x % (nb - a + 1)) d
    (a :: l, d)

/-- A standing request for the climbing unit (R332). -/
def standing (ten l n gen : Nat) : HandReq :=
  let b := tierBase ten l
  { pa := BitVec.ofNat 64 (tierPa b n), cw := BitVec.ofNat 64 (tierCw b), seq := BitVec.ofNat 64 n, rmin := BitVec.allOnes 32,
    rgen := BitVec.ofNat 64 gen, dest := 0 }

/-- The start parison of a part: header and live block (R328). -/
def startParison (o : Obj) (x : Launch) (plan tier first p : Nat) : Bytes :=
  let live := if tier = 0 then [] else toLe 8 0 ++ toLe 8 x.parm ++ toLe 8 plan ++ toLe 8 p ++ toLe 32 0
  let h : Head := { flags := 4 * tier, kid := o.kid, cur := [first], cdep := 0, lfmt := if tier = 0 then 0 else 1,
                    ranges := if tier = 0 then [] else [(1024, 64)], llen := live.length, parm := x.parm, rgen := 1, seq := 0, plan := plan }
  h.bytes live

/-- A unit is taken for a part of a launch; it waits for the gang's release (R13, R336). -/
def takeUnit (o : Obj) (l : Nat) (x : Launch) (u uid part pa plan : Nat) (hand : Option HandReq) (d : Dev) : Dev :=
  let y : Near := { run := .parked, launch := l, ten := x.ten, part := part, uid := uid, pc := o.nearEntry, code := o.nearCode,
                    start := some pa, ndloop := some (leNat ((o.band.map (BitVec.ofNat 8)).take 4)), parm := BitVec.ofNat 64 x.parm,
                    plan := BitVec.ofNat 64 plan, kid := BitVec.ofNat 64 o.kid, hand := hand }
  ({ d with near := d.near.put u y }).modLaunch l fun x => { x with units := x.units ++ [u] }

/-- The band plan and the start parisons of a tiered launch, with its units (R324, R325, R328). It starts at the lowest tier that holds
its tiles (R33), and waits where no unit of that tier is free; split and parts are the Gaffer's choice, free within the rules and the
room for context records (log 42). `nb` is the band's iteration count; the top gang is needed at once when the start tier is 0. -/
def planLaunch (o : Obj) (l : Nat) (x : Launch) (nb : Nat) (d : Dev) : Option (Bool × Dev) :=
  let m := nearRuns d o
  let clt := if m then startTier d o x nb else 0
  let climb := if clt = 0 then [] else (freeUnits d clt).take 1
  let most := (takeRecords (contextRoom d x.ten) (recordsHeld d x.ten) (recordSizes o 513)).length - (recordSizes o 0).length
  if clt ≠ 0 && (climb.isEmpty || most = 0) then none
  else
    let (p0, d) := d.draw
    let pnt := p0 % 2 + 1
    let room := (freeUnits d pnt).filter fun u => !climb.contains u
    let (n0, d) := d.draw
    let kind := o.band.getD 8 0
    let npart := if !m || kind = 0 then 0 else n0 % (min (min 512 room.length) (most - climb.length) + 1)
    let (s0, d) := d.draw
    let split := if npart = 0 then nb else s0 % (nb + 1)
    let (starts, d) := partStarts nb npart split d
    let b := tierBase x.ten l
    let plan := toLe 4 nb ++ toLe 4 split ++ toLe 4 npart ++ toLe 1 kind ++ toLe 1 clt ++ toLe 1 (if npart = 0 then 0 else pnt) ++ [0]
      ++ toLe 8 (tierDone b) ++ toLe 8 (tierParts b) ++ toLe 8 1 ++ toLe 24 0
    let d := tputBytes d x.ten b plan
    let d := tputBytes d x.ten (tierParts b) ((starts.map (toLe 4)).flatten)
    let d := tputBytes d x.ten (tierDone b) (toLe (16 * (npart + 1)) 0)
    let d := tputBytes d x.ten (tierCw b) (toLe 16 0)
    let d := tputBytes d x.ten (tierStart b 0) (startParison o x b clt 0 0)
    let d := starts.zipIdx.foldl (fun d e => tputBytes d x.ten (tierStart b (e.2 + 1)) (startParison o x b pnt e.1 (e.2 + 1))) d
    let rq := standing x.ten l 1 1
    let d := climb.foldl (fun d u => takeUnit o l x u 0 0 (tierStart b 0) b (some rq) d) d
    let base := if clt = pnt then climb.length else 0
    let d := (room.take npart).zipIdx.foldl (fun d e => takeUnit o l x e.1 (base + e.2) (e.2 + 1) (tierStart b (e.2 + 1)) b none d) d
    some (decide (clt = 0), d.modLaunch l fun x =>
      { x with plan := b, gen := 1, climb := climb.head?, posts := if climb.isEmpty then [] else [rq], handSeq := 0,
               hpa := if clt = 0 then tierStart b 0 else 0 })

/-- NB of a tiered launch (R325): it waits for the page, or is a number. -/
def bandCount (d : Dev) (o : Obj) (x : Launch) : Except Dev Nat :=
  let a := x.parm + leNat (((o.band.map (BitVec.ofNat 8)).drop 4).take 4)
  match translate d 0 x.ten a with
  | .here loc _ _ => .ok (gget d loc 8)
  | .absent _ _ _ => .error (requestPage d x.ten a false)
  | .miss => .error d
  | _ => .ok 0

/-! ### Candidates and the scheduling pass (R355, R363, R364) -/

/-- Whether a launch has started (R13). -/
def Launch.started (x : Launch) : Bool := x.saved || (decide (x.st ≠ .waiting) && decide (x.st ≠ .placed))

/-- Whether a replay has started: all of its nodes without predecessors have (R355). -/
def replayStarted (d : Dev) (r : Replay) : Bool :=
  match (d.graphs.find? (r.ten * 256 + r.gid)).map (·.nodes) with
  | none => true
  | some ns => ns.zipIdx.all fun e =>
    decide (e.1.dep ≠ 0) || (match r.nodes[e.2]? with
      | some (.runs l) => (match d.launch? l with | some x => x.started | none => true)
      | some .idle => false
      | _ => true)

/-- Whether every earlier item of the stream has started (R355). -/
def earlierStarted (d : Dev) (ten m n : Nat) : Bool :=
  (d.launches.all fun e => !(decide (e.2.ten = ten) && decide (e.2.strm = m) && decide (e.2.seq < n) && decide (e.2.node = none)) || e.2.started)
    && d.replays.all fun e => !(decide (e.2.ten = ten) && decide (e.2.strm = m) && decide (e.2.seq < n)) || replayStarted d e.2

/-- A launch that may be placed (R363). -/
def isCandidate (d : Dev) (x : Launch) : Bool := decide (x.st = .waiting) && (x.saved || earlierStarted d x.ten x.strm x.seq)

/-- The order of R363: priority, deficit, tenant, age. -/
def before (d : Dev) (a b : Nat × Launch) : Bool :=
  let da := (d.tenant a.2.ten).deficit
  let db := (d.tenant b.2.ten).deficit
  if a.2.prio ≠ b.2.prio then decide (b.2.prio < a.2.prio)
  else if da ≠ db then decide (db < da)
  else if a.2.ten ≠ b.2.ten then decide (a.2.ten < b.2.ten)
  else decide (a.2.age ≤ b.2.age)

/-- An element put into a sorted list, after those that it is not before. -/
def sortIn {α : Type} (lt : α → α → Bool) (a : α) : List α → List α
  | [] => [a]
  | b :: l => if lt a b then a :: b :: l else b :: sortIn lt a l

/-- A list sorted. -/
def sortBy {α : Type} (lt : α → α → Bool) (l : List α) : List α := l.foldr (sortIn lt) []

/-- The candidates in order. -/
def candidates (d : Dev) : List (Nat × Launch) := sortBy (before d) (d.launches.filter fun e => isCandidate d e.2)

/-- Whether a launch is parked or has a stopped sequencer (R364, R392). -/
def isParked (d : Dev) (x : Launch) : Bool := decide (x.st = .parked) || (seqsOf x).any fun q => decide ((d.seq q).run = .stopped)

/-- Launches that may be pre-empted for a priority, in victim order: lowest priority first, newest first (R364). -/
def victims (d : Dev) (prio : Nat) : List Nat :=
  (sortBy (fun a b : Nat × Launch => if a.2.prio ≠ b.2.prio then decide (a.2.prio < b.2.prio)
      else if a.2.age ≠ b.2.age then decide (b.2.age < a.2.age) else decide (b.1 ≤ a.1))
    (d.launches.filter fun e => decide (e.2.st = .running) && decide (e.2.prio < prio) && !isParked d e.2)).map (·.1)

/-- The shortest run of victims whose columns let a fit succeed. -/
def enough (d : Dev) (out : List Nat) (blocked : Room) (a n : Nat) (ms : List ClMap) : List Nat → List Nat → Option (List Nat)
  | chosen, [] => if (fit (dieCount d) ((roomOf d (out ++ chosen)).join blocked) a n ms).isSome then some chosen else none
  | chosen, v :: vs =>
    if (fit (dieCount d) ((roomOf d (out ++ chosen)).join blocked) a n ms).isSome then some chosen
    else enough d out blocked a n ms (chosen ++ [v]) vs

/-- Units of a saved launch on free units of their tiers, the same ones where they are free (R364). -/
def retakeUnits (l : Nat) (x : Launch) (d : Dev) : Option Dev :=
  x.nctx.foldlM (fun d e =>
    let free := freeUnits d (unitTier e.1)
    match (if free.contains e.1 then some e.1 else free.head?) with
    | none => none
    | some u => some (({ d with near := d.near.put u { e.2 with run := .parked } }).modLaunch l fun y =>
        { y with units := y.units ++ [u], climb := if x.climb = some e.1 then some u else y.climb }))
    (d.modLaunch l fun x => { x with units := [] })

/-- The pages of a range. -/
def pagesOf (va n : Nat) : List Nat := (List.range (ceilDiv (va % 16384 + n) 16384)).map fun k => alignDown va 16384 + 16384 * k

/-- The launch's core segment image is loaded at LOADVA from the protected copy (R310, R315); a page that is not there is requested, and
the launch waits for it. -/
def loadCode (o : Obj) (x : Launch) (d : Dev) : Except Dev Dev :=
  let ways := (pagesOf o.loadva o.code.length).map fun p => (p, translate d 0 x.ten p)
  match ways.find? fun w => match w.2 with | .absent .. => true | .miss => true | _ => false with
  | some (p, .absent ..) => .error (requestPage d x.ten p true)
  | some _ => .error d
  | none => .ok (tputBytes d x.ten o.loadva o.code)

/-- A first placement of a launch whose clusters fit: its code, its units where it is tiered, its clusters and its context records. None
while it has to wait for a unit or for records; the device where it has to wait for a page (R13, R324, R387). -/
def placeFirst (o : Obj) (l : Nat) (x : Launch) (f : List (Nat × List Nat)) (d : Dev) : Option Dev :=
  match loadCode o x d with
  | .error d => some d
  | .ok e =>
    let take (top : Bool) (d : Dev) : Option Dev :=
      let units := (d.launch? l).elim 0 fun y => y.units.length
      (allot d x.ten (recordSizes o units)).map fun r =>
        (if top then takeClusters l o f d else d).modLaunch l fun x => { x with st := .placed, blocks := false, recs := r }
    if !o.tier then take true e
    else match bandCount e o x with
      | .error d => some d
      | .ok nb =>
        if 2 ^ 32 ≤ nb then some (killLaunch l 0x10 0 d)
        -- where its tiles stand is not known yet (R33)
        else if nearRuns d o && !tilesKnown e o x nb then some d
        -- one that starts below the top needs a unit's record too, which may never fit (R387)
        else if (d.tenant x.ten).svlen ≠ 0 && nearRuns d o && startTier e o x nb ≠ 0 && contextRoom d x.ten < (recordSizes o 1).sum then
          some (killLaunch l 0x10 0 d)
        else (planLaunch o l x nb e).bind fun p => take p.1 p.2

/-- One candidate of a pass: it ends where it can never be placed, it is placed, pre-emptions are requested for it, or it blocks what
it needs (R363, R364, R387). -/
def tryCandidate (b : Dev × List (Nat × Room)) (c : Nat × Launch) : Dev × List (Nat × Room) :=
  let (d, blocks) := b
  let (l, x) := c
  match d.objs.find? x.obj with
  | none => b
  | some o =>
    let (a, n) := partition d x.ten
    let ms := (neededMaps o x).map (·.2)
    let blocked := ((blocks.filter fun e => decide (x.prio ≤ e.1)).map (·.2)).foldl Room.join {}
    let wait : Dev × List (Nat × Room) :=
      if x.blocks then match fit (dieCount d) {} a n ms with | some f => (d, blocks ++ [(x.prio, roomFor ms f)]) | none => b else b
    let topLater := x.saved && x.clusters.isEmpty
    if neverFits d x.ten o ms then (killLaunch l 0x10 0 d, blocks)
    else match (if topLater then some [] else fit (dieCount d) ((roomOf d []).join blocked) a n ms) with
    | some f =>
      if (d.tenant x.ten).svlen = 0 then wait
      else if x.saved then
        match retakeUnits l x d with
        | none => wait
        | some d => ((if topLater then d else takeClusters l o f d).modLaunch l fun x => { x with st := .placed, blocks := false }, blocks)
      else match placeFirst o l x f d with
        | none => wait
        | some d => (d, blocks)
    | none =>
      let saving := (d.launches.filter fun e => decide (e.2.st = .saving)).map (·.1)
      match enough d saving blocked a n ms [] (victims d x.prio) with
      | some vs => (vs.foldl preempt d, blocks)
      | none => wait

/-- Whether the leader takes records and runs passes: it does neither while it runs the update routine (R395, R396). -/
def leaderFree (d : Dev) : Bool := !d.fw.updating || decide ((d.seq leaderSeq).run = .done)

/-- A scheduling pass (R363). -/
def pass (d : Dev) : Dev := if d.fw.gstat = 1 && leaderFree d then ((candidates d).foldl tryCandidate (d, [])).1 else d

end Sys2Proof.Machine
end

