-- ==== Sys2Proof/Machine/Gaffer.lean ====
section
/-! DEFINITION. The steps of launches: gangs, ticks, saves and resumes, the counter tree, trap actions, peers' acknowledgements, and
hand-over between tiers (R13, R14, R25, R26, R31, R93, R122, R264, R332 to R336, R343, R363 to R370, R387, R388, R391). -/

namespace Sys2Proof.Machine

/-- Whether the Gaffer runs: not while it starts, while a switch awaits its heartbeat, or when every pair has failed (R348, R403,
R417). -/
def gafferRuns (d : Dev) : Bool := decide (d.fw.gstat = 1)

/-- A step of the Gaffer. -/
def runGaffer (s : State) (f : Turn → Dev → Option Dev) : Out := runEvent s fun t d => if gafferRuns d then f t d else none

/-- The counter of a die (R366): clusters of the launch on it that have not reported. -/
def dieNode (x : Launch) (die : Nat) : Nat := (x.clusters.filter fun c => !c.reported && decide (c.phys / 16 = die)).length
/-- The counter of the device (R366): dies that have not reported and near-data units. -/
def deviceNode (x : Launch) : Nat := ((List.range 4).filter fun die => decide (dieNode x die ≠ 0)).length + x.units.length

/-- A trap that waits for its action (R369). -/
structure Waiting where
  launch : Nat
  cause : Nat
  /-- consecutive traps -/
  count : Nat := 0
  /-- address of its record -/
  addr : Nat
  sqid : Nat
  /-- the action table's entry when it was taken (R362) -/
  act : Nat
  deriving DecidableEq, Repr

/-- FWD of the entry (R369). -/
def Waiting.fwd (w : Waiting) : Bool := bit w.act 2

/-- The trap of an agent that waits for its action: sequencers by number, units from 2048, store-misses of sequencers from 4096. -/
def waitingTrap (d : Dev) (a : Nat) : Option Waiting :=
  if 4096 ≤ a then
    let q := a - 4096
    let s := d.seq q
    -- 3: it has been parked, and waits for the release of its launch
    if s.storeMiss.isSome && decide (s.missAct ≠ 3) then
      some { launch := s.place.launch, cause := 0x26, addr := recordVa d q, sqid := q, act := s.missAct } else none
  else if 2048 ≤ a then
    let x := d.unit (a - 2048)
    match x.trap with
    | some t => if x.run = .trapped then
        some { launch := x.launch, cause := t.cause, count := x.trapCount, addr := nearRecordVa d (a - 2048), sqid := 0x3FF, act := t.act } else none
    | none => none
  else
    let x := d.seq a
    match x.trap with
    | some t => if x.run = .trapped && !x.place.control then
        some { launch := x.place.launch, cause := t.cause, count := x.trapCount, addr := recordVa d a, sqid := a, act := t.act } else none
    | none => none

/-- Whether a held item still waits (R403): a launch whose end can follow, or a trap whose action can. -/
def heldWaits (d : Dev) (a : Nat) : Bool :=
  if 2 ^ 20 ≤ a then (d.launch? (a - 2 ^ 20)).any fun x => decide (x.st ≠ .waiting) && decide (x.st ≠ .placed) && decide (deviceNode x = 0) && x.posts.isEmpty
  else (waitingTrap d a).isSome

/-- Whether an end or a trap may be completed now: those that were held while the Gaffer did not run are in the order in which they were
held (R403). -/
def mayComplete (d : Dev) (a : Nat) : Bool :=
  !d.fw.held.contains a || !heldWaits d a || decide ((d.fw.held.filter (heldWaits d)).head? = some a)

/-- An item is completed: it is held no more, and what no longer waits is not either. -/
def completed (a : Nat) (d : Dev) : Dev :=
  if d.fw.held.isEmpty then d else { d with fw := { d.fw with held := d.fw.held.filter fun b => decide (b ≠ a) && heldWaits d b } }

/-- A step of the leader (R395). -/
def runLeader (s : State) (f : Turn → Dev → Option Dev) : Out := runGaffer s fun t d => if leaderFree d then f t d else none

/-! ### Gangs and passes -/

/-- Sequencers and units of a launch that wait for their release go. -/
def releaseGang (x : Launch) (d : Dev) : Dev :=
  let d := (seqsOf x).foldl (fun d q => d.modSeq q fun s => if s.run = .parked && s.trap.isNone then { s with run := .running } else s) d
  x.units.foldl (fun d u => d.modUnit u fun s => if s.run = .parked && s.trap.isNone then { s with run := .running } else s) d

/-- A replay starts when the last of its nodes without predecessors has started (R355, R367). -/
def replayBegins (time k : Nat) (d : Dev) : Dev :=
  match d.replays.find? k with
  | some r => if r.tstart = 0 && replayStarted d r then { d with replays := d.replays.put k { r with tstart := time } } else d
  | none => d

/-- GANG_START (R13): every sequencer and unit of a placed launch is released in one step. -/
def execGangStart (s : State) : Out := runLeader s fun t d =>
  match t with
  | .agent l _ =>
    match d.launch? l with
    | none => none
    | some x =>
      if x.st ≠ .placed || x.saved || (x.node.isNone && !earlierStarted d x.ten x.strm x.seq) then none
      else
        let (time, d) := now d
        let d := (releaseGang x d).modLaunch l fun x => { x with st := .running, tstart := time }
        some (match x.node with
          | some (k, _) => replayBegins time k d
          | none => d)
  | _ => none

/-- Columns that a tenant's launches hold (R365). -/
def columnsHeld (d : Dev) (ten : Nat) : Nat :=
  ((d.seqs.filter fun e => decide (e.2.run ≠ .absent) && decide (e.1 < 1024) && decide (e.2.place.ten = ten)).map fun e => e.2.ncols).sum

/-- Tenants with a candidate or a resident launch (R365). -/
def busyTenants (d : Dev) : List Nat :=
  (List.range 16).filter fun t => d.launches.any fun e => decide (e.2.ten = t) && (decide (e.2.st ≠ .waiting) || isCandidate d e.2)

/-- The deficit counters at a tick (R365). -/
def deficits (d : Dev) : Dev :=
  let a := busyTenants d
  let w := (a.map fun t => (d.tenant t).wgt).sum
  (List.range 16).foldl (fun d t => d.modTenant t fun x =>
    if a.contains t then
      let v : Int := x.deficit + (10240 * x.wgt / w : Nat) - 10 * (columnsHeld d t : Nat)
      { x with deficit := max (-(2 ^ 40 : Int)) (min (2 ^ 40) v) }
    else { x with deficit := 0 }) d

/-- TICK_10US (R363, R365); kills and events that were held leave while there is room (R371), and a replay whose end record waited for its page ends
(R361). -/
def execTick10us (s : State) : Out := runGaffer s fun _ d =>
  let d := d.replays.foldl (fun d e => tryReplay e.1 d) (killRefused d)
  some (pass (deficits ((List.range 16).foldl (fun d t => flushEvents t 256 d) d)))

/-- CANDIDATE_BLOCK_TIMEOUT (R363): a candidate that has waited 10 ms begins to block. -/
def execCandidateBlockTimeout (s : State) : Out := runGaffer s fun t d =>
  match t with
  | .agent l _ =>
    match d.launch? l with
    | none => none
    | some x =>
      let (time, d) := now d
      if !isCandidate d x || time < x.age + 10000000 then none
      else some (pass (d.modLaunch l fun x => { x with blocks := true }))
  | _ => none

/-! ### Peers' acknowledgements (R202, R264, R382) -/

/-- Barrier code of a peer's answer (R191). -/
def answerCode : PeerAns → Nat
  | .ok => 0
  | .unreachable => 0x30
  | .refused => 0x31
  | .badBlock => 0x32

/-- The answer to a write of n bytes reaches the agent: a store that the peer refuses kills the launch with cause 0x26; an engine command
stops with the code, and what was not written leaves its count of bytes (R191, R202, R382). -/
def acknowledge (a n : Nat) (ans : PeerAns) (d : Dev) : Dev :=
  let refuse (l : Nat) (d : Dev) : Dev := if ans = .refused then killLaunch l 0x11 0x26 d else d
  if a < 2048 then refuse (d.seq a).place.launch (d.modSeq a fun s => { s with unacked := s.unacked - 1 })
  else if a < 4096 then refuse (d.unit (a - 2048)).launch d
  else if a < 8192 then
    let c := (a - 4096) / 3
    let e := (a - 4096) % 3
    match (engineOf (d.cluster c) e).running with
    | some r =>
      let r := { r with unacked := r.unacked - 1 }
      putRunning c e (some (if answerCode ans = 0 then r else { r with bytes := r.bytes - n }.halt (answerCode ans))) d
    | none => d
  else if a < 2 ^ 20 then d
  else refuse (a - 2 ^ 20) d

/-- PEER_WRITE_ACK (R264): the oldest write to a peer that has left whole and is not acknowledged is. -/
def execPeerWriteAck (s : State) : Out := runEvent s fun t d =>
  match t with
  | .ack dev ans =>
    match d.peerOut.find? fun o => decide (o.dev = dev) && o.data.isSome with
    | none => none
    | some o =>
      -- only a peer that a port leads to can answer anything else (R264, R418)
      if ans ≠ .unreachable && (portTo d dev).isNone then none
      -- a refusal kills a launch, which waits for the Gaffer (R382, R403)
      else if decide (ans = .refused) && !gafferRuns d && !(decide (4096 ≤ o.agent) && decide (o.agent < 2 ^ 20)) then none
      else some (acknowledge o.agent o.n ans (traffic dev { d with peerOut := d.peerOut.erase o }))
  | _ => none

/-! ### The counter tree (R93, R122, R366) -/

/-- The store streams and epilogue commands of a halting sequencer whose data nothing will supply (R122, R186): the placed elements and
rows that still wait for them end unwritten, here and at peers, and each epilogue command that is left is an event. -/
def endStarved (q : Nat) (d : Dev) : Dev :=
  let s := d.seq q
  if !s.ord.isEmpty || !s.side.isEmpty || !s.pend.isEmpty || s.mx.busy then d
  else
    let n := if s.mx.np = 0 then s.mx.epq.length else 0
    let gone (p : Placed) : Bool := match p with
      | .epi o .. => decide (o = q) && decide (s.mx.np = 0)
      | p => p.awaits q
    let d := settle { d with placed := d.placed.filter fun p => !gone p,
                             peerOut := d.peerOut.filter fun o => !(decide (o.agent = q) && o.data.isNone && (o.row.isNone || decide (s.mx.np = 0))) }
    (d.modSeq q fun s => { s with far := s.far.filter fun p => !gone p, mx := { s.mx with epq := if s.mx.np = 0 then [] else s.mx.epq },
                                  unacked := (d.peerOut.filter fun o => decide (o.agent = q)).length }).modLaunch s.place.launch fun x =>
      { x with qimb := x.qimb + n }

/-- Streams that starve, entries without a stream, and over-read entries nobody has popped (R122, R125). -/
def imbalances (s : Seq) : Nat × Nat :=
  let cs := s.cols.toList
  ((cs.map fun c => (c.asgs.filter fun a => decide (c.sdRes < a.1 + a.2)).length + (c.sdq.filter fun e => decide (c.sdAsg ≤ e.idx)).length).sum,
   (cs.map fun c => ((c.ldq ++ c.fill).filter fun e => e.overRead.isSome).length).sum)

/-- Whether a halting sequencer has nothing more to wait for (R93). -/
def quiet (s : Seq) : Bool :=
  s.ord.isEmpty && s.side.isEmpty && s.far.isEmpty && s.pend.isEmpty && !s.mx.busy && s.mx.epq.isEmpty && decide (s.bead.st ≠ .run)
    && s.cols.toList.all fun c => c.fill.all fun e => decide (e.elems ≤ e.filled)

/-- SEQUENCER_END_REPORT (R93): starved streams end, and when all has drained the sequencer reports. -/
def execSequencerEndReport (s : State) : Out := runEvent s fun t d =>
  match t with
  | .agent q _ =>
    if (d.seq q).run ≠ .halting then none
    else
      let d := endStarved q (advance q (ordFuel (d.seq q).ord) d)
      let x := d.seq q
      if !quiet x then some d
      else
        let (im, ov) := imbalances x
        let d := d.modLaunch x.place.launch fun y => { y with qimb := y.qimb + im, ovrd := y.ovrd + ov }
        some (d.modSeq q fun y => { y with run := .done, cols := .replicate 4 {}, bead := beadReset y.bead, reqs := [], halted := false })
  | _ => none

/-- Commands of a launch in the engines of a physical cluster. -/
def commandsOf (d : Dev) (c l : Nat) : Nat :=
  ([0, 1, 2].map fun e =>
    let g := engineOf (d.cluster c) e
    ((g.queue ++ g.running.toList).filter fun r => decide (r.launch = l)).length).sum

/-- The counter of a launch's cluster (R366): sequencers that have not reported and engine commands that have not arrived. -/
def clusterNode (d : Dev) (l : Nat) (c : LCl) : Nat :=
  (c.seqs.filter fun q => decide ((d.seq q).run ≠ .done)).length + commandsOf d c.phys l
/-- A sequencer leaves its columns. -/
def leaveColumns (l : Nat) (d : Dev) (q : Nat) : Dev :=
  let d := retag q l { d with seqs := d.seqs.erase q }
  { d with mmu := { d.mmu with watches := d.mmu.watches.filter fun w => decide (w.1 ≠ q) } }

/-- CLUSTER_NODE_ZERO (R366): under-reads are recorded, columns, stash share and counter bank are freed, and the cluster
reports. -/
def execClusterNodeZero (s : State) : Out := runEvent s fun t d =>
  match t with
  | .agent l k =>
    match d.launch? l with
    | none => none
    | some x =>
      match x.clusters[k]? with
      | none => none
      | some c =>
        if c.reported || c.away || clusterNode d l c ≠ 0 then none
        else
          let n := countedLeft (c.seqs.flatMap fun q => (d.seq q).lines) + countedLeft c.blocks
          let d := c.seqs.foldl (leaveColumns l) d
          let d := if c.ctr then d.modCluster c.phys fun y => { y with grant := none } else d
          let c : LCl := { c with reported := true, maps := .replicate 8 none, full := [], blocks := [] }
          let d := d.modLaunch l fun x => { x with undr := x.undr + n, clusters := x.clusters.set k c }
          some (if (d.launch? l).any fun x => decide (deviceNode x = 0) then holdItem (launchAgent l) d else d)
  | _ => none

/-- LAUNCH_END (R366): the device node is zero and every write has performed. -/
def execLaunchEnd (s : State) : Out := runGaffer s fun t d =>
  match t with
  | .agent l _ =>
    match d.launch? l with
    | none => none
    | some x =>
      if x.st = .waiting || x.st = .placed || deviceNode x ≠ 0 || !x.posts.isEmpty || !writesOver l d || !mayComplete d (launchAgent l) then none
      else match endLaunch l d with
        | some d => some (pass (completed (launchAgent l) d))
        | none => some (tryEnd l d)
  | _ => none

/-- UNIT_END (R290, R366): the writes of a unit that has halted or stopped take their places, and it leaves the launch. -/
def execUnitEnd (s : State) : Out := runEvent s fun t d =>
  match t with
  | .agent u _ =>
    let x := d.unit u
    if x.run ≠ .done then none
    else
      let l := x.launch
      let d := retag (unitAgent u) l (publish u d)
      let d := { d with near := d.near.erase u }.modLaunch l fun y =>
        { y with units := y.units.erase u, climb := if y.climb = some u && x.hand.isSome then none else y.climb,
                 posts := if y.climb = some u && x.hand.isSome then [] else y.posts }
      some (if (d.launch? l).any fun y => decide (deviceNode y = 0) then holdItem (launchAgent l) d else d)
  | _ => none

/-! ### Context save and resume (R14, R23, R26, R31, R387, R388) -/

/-- The live ranges of a safe-point entry of a launch's object (R26, R313). -/
def liveRanges (d : Dev) (x : Launch) (near : Bool) (sp : Option Nat) : List (Nat × Nat) :=
  match d.objs.find? x.obj, sp with
  | some o, some k => ((if near then o.nearSps else o.sps)[k]?).elim [] (·.ranges)
  | _, _ => []

/-- Register space outside the live ranges reads zero after a resume (R26). -/
def keepRanges (rs : List (Nat × Nat)) (m : Mem) : Mem := m.filter fun c => rs.any fun r => decide (r.1 ≤ c.1) && decide (c.1 < r.1 + r.2)

/-- What a save keeps of a sequencer (R23, R174, R186, R387): its writes have landed and its queues are empty at a safe point, so the
places in its queues stay as they count. -/
def savedSeq (rs : List (Nat × Nat)) (s : Seq) : Seq :=
  { s with run := if s.run = .done then .done else .parked, nopLeft := 0, half := none, other := none, want := none, space := keepRanges rs s.space,
           region := {}, reqs := s.reqs.filter (· = .stop), safeDue := none, pld := [], checks := [], woke := none, waitOn := none, sp := none,
           mx := { store := s.mx.store, poisoned := s.mx.poisoned, head := s.mx.head, tail := s.mx.tail, np := s.mx.np, tags := s.mx.tags } }

/-- What a save keeps of a near-data unit (R291). -/
def savedUnit (rs : List (Nat × Nat)) (x : Near) : Near :=
  let y := NearOp.withImage x (NearOp.spread rs (NearOp.liveOf (NearOp.imageOf x) rs))
  { y with run := .parked, ports := .replicate 4 {}, copies := [], reqs := [], sp := none }

/-- The pages of the stash maps of a launch, whose dirty blocks are written back before a save, with the dies of their clusters (R132,
R388). -/
def mapPages (x : Launch) : List (Nat × Nat) :=
  x.clusters.flatMap fun c => if c.reported then [] else c.maps.toList.flatMap fun
    | some e => (List.range (ceilDiv e.len 16384)).map fun k => (c.phys / 16, alignDown e.va 16384 + 16384 * k)
    | none => []

/-- A failed save or restore: event and kill, whatever the table holds (R370, R388). -/
def contextFailed (l : Nat) (d : Dev) : Dev := killLaunch l 0x18 0 (launchEvent d l 5 0 0 0x3FF)

/-! #### The bytes of context records (R387) -/

/-- A sparse memory's cells from some base on, put into another memory. -/
def Mem.lay (base : Nat) (from_ m : Mem) : Mem := from_.foldl (fun m c => m.set (base + c.1) c.2) m

/-- n free bytes as a sparse memory, drawn from number k on (log 4). -/
def freeMem (k n : Nat) : Mem := (List.range n).foldl (fun m i => Mem.set m i (Config.freeByte (k + i))) []

/-- The data of counted units, one after another at a distance. -/
def unitCells (d : Dev) (step : Nat) (us : List CUnit) : Mem :=
  us.zipIdx.foldl (fun m e => Mem.write m (step * e.2) (ggetBytes d (unitLoc e.1.id) e.1.size)) []

/-- Their poisoned bytes, which are saved with their marks (R388). -/
def unitMarks (d : Dev) (step : Nat) (us : List CUnit) : List Nat :=
  us.zipIdx.flatMap fun e => ((List.range e.1.size).filter fun i => nowPoison d (unitLoc e.1.id + i) 1).map fun i => 131072 + step * e.2 + i

/-- Bytes of a sequencer's state block before its CRC-32C (R387). -/
def blockBytes : Nat := 32764

/-- A sequencer's record: its state block, whose layout is the Gaffer's own, is free and ends in the CRC-32C of what precedes it; live
ranges, micro store and counted lines stand at R387's offsets. -/
def seqRecord (d : Dev) (k : Nat) (s : Seq) : Mem :=
  let block := (List.range blockBytes).map fun i => Config.freeByte (k + i)
  let m := Mem.write [] 0 (block ++ toLe 4 (crc32c block))
  let m := Mem.lay 32768 s.space m
  let m := s.mx.store.foldl (fun m w => Mem.write m (98304 + 8 * w.1) (toLe 8 w.2.toNat)) m
  Mem.lay 131072 (unitCells d 128 s.lines) m

/-- A logical cluster's record (R387). -/
def clusterRecord (d : Dev) (k : Nat) (c : LCl) : Mem := Mem.lay 131072 (unitCells d 256 c.blocks) (freeMem k 131072)

/-- A record takes its bytes and marks in memory: what it does not hold is zero. -/
def putRecord (d : Dev) (loc n : Nat) (m : Mem) (marks : List Nat) : Dev :=
  { d with mem := Mem.lay loc m (d.mem.clear loc n),
           poison := insertNats (d.poison.filter fun a => !(decide (loc ≤ a) && decide (a < loc + n))) (marks.map (loc + ·)) }

/-- The sequencers of an object in the order of their records: logical cluster, logical core, sequencer (R387). -/
def recordPlaces (o : Obj) : List (Nat × Nat × Nat) :=
  o.maps.zipIdx.flatMap fun m => m.1.cores.zipIdx.flatMap fun c => (masked c.1).map fun j => (m.2, c.2, j.1)

/-- The saved sequencer of a place. -/
def savedAt (ctx : List Seq) (p : Nat × Nat × Nat) : Option Seq :=
  ctx.find? fun s => decide (s.place.lcl = p.1) && decide (s.place.lco = p.2.1) && decide (s.place.seqNo = p.2.2)

/-- Whether the state blocks of a saved launch's sequencers stand in memory with their CRC-32C (R387, R388). -/
def blocksSound (d : Dev) (x : Launch) : Bool :=
  match d.objs.find? x.obj with
  | none => true
  | some o => ((recordPlaces o).zip x.recs).all fun e =>
    let a := contextLoc d x.ten + e.2.1
    (savedAt x.ctx e.1).isNone || decide (crc32c (ggetBytes d a blockBytes) = gget d (a + blockBytes) 4)

/-- The context records of a launch are written (R387): those of its sequencers in logical order, of its logical clusters and of its units. -/
def writeRecords (x : Launch) (ctx : List Seq) (nctx : List (Nat × Near)) (d : Dev) : Dev :=
  match d.objs.find? x.obj with
  | none => d
  | some o =>
    let base := contextLoc d x.ten
    let seqs := (recordPlaces o).map fun p => (savedAt ctx p).map fun s => (fun (d : Dev) => (seqRecord d d.drawn s, unitMarks d 128 s.lines))
    let cls := (List.range o.maps.length).map fun i => (x.clusters[i]?).map fun c => (fun (d : Dev) => (clusterRecord d d.drawn c, unitMarks d 256 c.blocks))
    let units := nctx.map fun _ => some (fun (d : Dev) => (freeMem d.drawn 16384, []))
    (x.recs.zip (seqs ++ cls ++ units)).foldl (fun d e =>
      match e.2 with
      | some f => { putRecord d (base + e.1.1) e.1.2 (f d).1 (f d).2 with drawn := d.drawn + 131072 }
      | none => d) d

/-- The records are written and the launch gives up its columns (R14, R364, R387). What its units have written and not published stays
with them (R269). -/
def saveLaunch (l : Nat) (x : Launch) (d : Dev) : Dev :=
  let ctx := (seqsOf x).map fun q => savedSeq (liveRanges d x false (d.seq q).sp) (d.seq q)
  let nctx := x.units.map fun u => (u, savedUnit (liveRanges d x true (d.unit u).sp) (d.unit u))
  let d := writeRecords x ctx nctx d
  let cs := x.clusters.map fun c =>
    if c.reported then c else { c with away := true, savedCtr := if c.ctr then some (d.cluster c.phys).counters else none }
  let d := (x.clusters.filter fun c => !c.reported && c.ctr).foldl (fun d c => d.modCluster c.phys fun y => { y with grant := none }) d
  let d := x.units.foldl (fun d u => { retag (unitAgent u) l d with near := d.near.erase u }) ((seqsOf x).foldl (leaveColumns l) d)
  d.modLaunch l fun x =>
    { x with st := .waiting, saved := true, pre := x.pre + 1, ctx := ctx, nctx := nctx, clusters := cs, units := [] }

/-- Whether a sequencer stands at its safe point with nothing under way, or has ended (R25, R388). -/
def atRest (s : Seq) : Bool :=
  (decide (s.run = .saved) || decide (s.run = .done)) && decide (s.unacked = 0) && s.ord.isEmpty && s.side.isEmpty && s.far.isEmpty && s.pend.isEmpty
    && !s.mx.busy && s.mx.epq.isEmpty && s.cols.toList.all fun c => c.fill.all fun e => decide (e.elems ≤ e.filled)

/-- CONTEXT_SAVE (R387, R388): every sequencer and unit stands at its safe point or has ended, and the launch's engine commands have
arrived. That state can be read without error, and whether a block of a page that has lost its home is dirty, are free
(log 4). -/
def execContextSave (s : State) : Out := runGaffer s fun t d =>
  match t with
  | .agent l _ =>
    match d.launch? l with
    | none => none
    | some x =>
      let ready := x.st = .saving && ((seqsOf x).all fun q => atRest (d.seq q))
        && (x.units.all fun u => decide ((d.unit u).run = .saved))
        && (x.clusters.all fun c => c.reported || decide (commandsOf d c.phys l = 0))
        && x.recs.all fun r => d.placed.all fun p => !overlap (contextLoc d x.ten + r.1) r.2 p.range.2.1 p.range.2.2
      if !ready then none
      else
        let (e, d) := d.draw
        if e % 4 = 1 then some (contextFailed l d)
        else
          let way (p : Nat × Nat) : Way := translate d p.1 x.ten p.2
          let dirty := (mapPages x).filter fun p => match way p with | .refused => true | .absent _ _ _ => true | _ => false
          let (b, d) := d.draw
          if !dirty.isEmpty && b % 2 = 1 then
            if dirty.any fun p => decide (way p = .refused) then some (killLaunch l 0x11 0x26 d)
            else some (dirty.foldl (fun d p => requestPage d x.ten p.2 true) d)
          else some (pass (saveLaunch l x d))
  | _ => none

/-- A saved sequencer on its new columns (R31, R391): its watchpoints watch again; an owed foreign-write trap is taken before its first
bundle. -/
def restoreSeq (x : Launch) (d : Dev) (q : Nat) : Dev :=
  let p := (d.seq q).place
  match savedAt x.ctx (p.lcl, p.lco, p.seqNo) with
  | none => d
  | some s =>
    let d := d.setSeq q { s with place := p, run := if s.run = .done then .done else .running }
    (List.range 4).foldl (fun d j => if (vget s.regs.wpc j 0).getLsbD 1 then watchSet q j d else d) d

/-- CONTEXT_RESUME (R13, R31, R388): a saved launch that has its columns again is restored as a gang; a state block whose CRC-32C fails
fails the restore, and whether an error does is free (log 4). -/
def execContextResume (s : State) : Out := runGaffer s fun t d =>
  match t with
  | .agent l _ =>
    match d.launch? l with
    | none => none
    | some x =>
      if x.st ≠ .placed || !x.saved then none
      else
        let (e, d) := d.draw
        if e % 4 = 1 || !blocksSound d x then some (contextFailed l d)
        else
          let d := (x.clusters.filter fun c => !c.reported).foldl (fun d c => match c.savedCtr with
            | some v => d.modCluster c.phys fun y => { y with counters := v }
            | none => d) d
          let d := (seqsOf x).foldl (restoreSeq x) d
          let d := x.units.foldl (fun d u => d.modUnit u fun y => if y.run = .parked then { y with run := .running } else y) d
          some (d.modLaunch l fun x => { x with st := .running, saved := false, ctx := [], nctx := [] })
  | _ => none

/-! ### Trap actions (R369, R370) -/

/-- The record of a store-miss, with its page and column, is written when its action is taken; a trap of the sequencer that waits keeps
the record it has (R137, R385, log 72). -/
def missRecord (a : Nat) (d : Dev) : Dev :=
  let q := a - 4096
  match (d.seq q).storeMiss with
  | some (page, c) =>
    if a < 4096 || (d.seq q).trap.isSome then d else writeRecord d q { cause := Cause.storeMiss.code, cont := [page, c] }
  | none => d

/-- The action of a trap that waits, where the table names it: its event is forwarded where FWD is set (R369). -/
def withAction (a act kind : Nat) (f : Waiting → Dev → Dev) (d : Dev) : Option Dev :=
  match waitingTrap d a with
  | none => none
  | some w =>
    if w.act % 4 ≠ act || !mayComplete d a then none
    else
      let d := missRecord a d
      some (completed a (f w (if w.fwd then launchEvent d w.launch kind w.cause w.addr w.sqid else d)))

/-- A replayed agent goes on from its record; a record that breaks R386 kills the launch with status 0x18, and a sixteenth
consecutive trap kills it (R370). -/
def replayAgent (a l cause count : Nat) (d : Dev) : Dev :=
  if 4096 ≤ a then
    match (d.seq (a - 4096)).storeMiss with
    | some (page, _) =>
      killRefused ((requestPage d (d.seq (a - 4096)).place.ten page true).modSeq (a - 4096) fun s => { s with storeMiss := none })
    | none => d
  else if 16 ≤ count then killLaunch l 0x11 cause d
  else if 2048 ≤ a then replayNear d (a - 2048)
  else match replaySeq d a with
    | some d => d
    | none => killLaunch l 0x18 0 d

/-- ACTION_KILL (R370). -/
def execActionKill (s : State) : Out := runGaffer s fun t d =>
  match t with
  | .agent a _ => withAction a 0 1 (fun w => killLaunch w.launch 0x11 w.cause) d
  | _ => none

/-- ACTION_REPLAY (R370). -/
def execActionReplay (s : State) : Out := runGaffer s fun t d =>
  match t with
  | .agent a _ => withAction a 1 1 (fun w => replayAgent a w.launch w.cause w.count) d
  | _ => none

/-- A launch parks (R370): the trapping agent waits, and every other one stops at its next safe point or stall, those whose own trap
waits once they go on. -/
def parkLaunch (a l : Nat) (d : Dev) : Dev :=
  match d.launch? l with
  | none => d
  | some x =>
    let ask (r : List ReqKind) : List ReqKind := if r.contains .park then r else r ++ [.park]
    let d := (seqsOf x).foldl (fun d q => d.modSeq q fun s =>
      if q = a then { s with run := .parked }
      else if s.run = .running || s.run = .trapped then { s with reqs := ask s.reqs } else s) d
    let d := x.units.foldl (fun d u => d.modUnit u fun s =>
      if unitAgent u = a then { s with run := .parked }
      else if s.run = .running || s.run = .trapped then { s with reqs := ask s.reqs } else s) d
    pass (d.modLaunch l fun x => { x with st := .parked })

/-- ACTION_PARK (R370); a store-miss that is parked waits for the release of its launch. -/
def execActionPark (s : State) : Out := runGaffer s fun t d =>
  match t with
  | .agent a _ =>
    let mark (d : Dev) : Dev := if a < 4096 then d else d.modSeq (a - 4096) fun s => { s with missAct := 3 }
    withAction a 2 2 (fun w d => parkLaunch a w.launch (mark d)) d
  | _ => none

/-- A parked launch goes on (R362, R370): trapped agents are replayed, store-misses that were parked request their pages, the others go on. -/
def releaseLaunch (l : Nat) (d : Dev) : Dev :=
  match d.launch? l with
  | none => d
  | some x =>
    if x.st ≠ .parked then d
    else
      let back (r : List ReqKind) : List ReqKind := r.filter (· ≠ .park)
      let d := (seqsOf x).foldl (fun d q => d.modSeq q fun s => { s with reqs := back s.reqs }) d
      let d := x.units.foldl (fun d u => d.modUnit u fun s => { s with reqs := back s.reqs }) d
      let saving := (seqsOf x).any (fun q => decide ((d.seq q).run = .saved) || (d.seq q).reqs.contains .preempt)
      let d := d.modLaunch l fun x => { x with st := if saving then .saving else .running }
      let d := (seqsOf x).foldl (fun d q =>
        let s := d.seq q
        let d := match s.run, s.trap with
          | .parked, some t => replayAgent q l t.cause s.trapCount d
          | .parked, none => d.modSeq q fun s => { s with run := .running }
          | _, _ => d
        if (d.seq q).storeMiss.isSome && decide ((d.seq q).missAct = 3) then replayAgent (4096 + q) l 0x26 0 d else d) d
      pass (x.units.foldl (fun d u =>
        let s := d.unit u
        match s.run, s.trap with
        | .parked, some t => replayAgent (unitAgent u) l t.cause s.trapCount d
        | .parked, none => d.modUnit u fun s => { s with run := .running }
        | _, _ => d) d)

/-! ### Hand-over between tiers (R332 to R337, R343) -/

/-- Whether a location is HBM that is pinned for a launch: memory that is not managed, what the Gaffer keeps for tiered launches, or a
frame promoted for it (R332, R342, R380, log 14). -/
def pinnedHbm (d : Dev) (l loc : Nat) : Bool :=
  match frameOf loc with
  | some f => decide ((d.frame f).home = 0) && (d.frame f).pins.contains l
  | none => decide (loc < hbmSize d) || decide (gafferLoc ≤ loc)

/-- Whether a tile's page is resident and pinned at tier `dest`: 0 HBM, 1 board (R332, R343). -/
def tileAt (d : Dev) (l ten dest va : Nat) : Bool :=
  match translate d 0 ten va with
  | .here loc _ _ =>
    if dest = 0 then pinnedHbm d l loc
    else (frameOf loc).any fun f => decide ((d.frame f).home = 1) && (d.frame f).pins.contains l
  | _ => false

/-- Whether a request keeps R332's rules for a climbing unit of a launch. -/
def requestOk (d : Dev) (l : Nat) (x : Launch) (o : Obj) (u : Nat) (rq : HandReq) : Bool :=
  let y := d.unit u
  let here (a : Nat) : Bool := match translate d 0 x.ten a with | .here loc _ true => pinnedHbm d l loc | _ => false
  let split := tget d x.ten (x.plan + 4) 4
  let tiles := (List.range (split - rq.rmin.toNat)).flatMap fun i => Config.tiles o.kid x.parm (rq.rmin.toNat + i)
  decide (y.launch = l) && decide (y.part = 0) && decide (y.run ≠ .absent) && decide (y.run ≠ .done) && decide (rq.dest.toNat < unitTier u) && decide (rq.dest.toNat ≤ 1)
    && decide (rq.pa.toNat % 64 = 0) && decide (rq.cw.toNat % 16 = 0) && decide (x.handSeq < rq.seq.toNat) && decide (rq.rgen.toNat ≤ x.gen)
    && ((List.range 260).all fun k => here (rq.pa.toNat + 64 * k)) && (translate d 0 x.ten rq.cw.toNat).writes
    && tiles.all (tileAt d l x.ten rq.dest.toNat)

/-- HANDOVER_REQUEST_POST (R332): a request whose fields keep R332's rules replaces the pending one. -/
def execHandoverRequestPost (s : State) : Out := runGaffer s fun t d =>
  match t with
  | .hand l rq =>
    match d.launch? l with
    | none => none
    | some x =>
      match x.climb, d.objs.find? x.obj with
      | some u, some o =>
        if !requestOk d l x o u rq then none
        else some ((d.modUnit u fun y => { y with hand := some rq }).modLaunch l fun x =>
          { x with posts := x.posts ++ [rq], handSeq := rq.seq.toNat })
      | _, _ => none
  | _ => none

/-- HANDOVER_RESUME (R334): the completion record shows the request that was consumed; the part goes on at the tier that its parison
names, with a fresh standing request below the top. -/
def execHandoverResume (s : State) : Out := runGaffer s fun t d =>
  match t with
  | .agent l _ =>
    match d.launch? l with
    | none => none
    | some x =>
      let gone := match x.climb with
        | some u => decide ((d.unit u).launch ≠ l) || decide ((d.unit u).part ≠ 0) || decide ((d.unit u).run = .done) || decide ((d.unit u).run = .absent)
        | none => false
      match x.posts.reverse.find? fun rq => decide (rq.seq.toNat ≤ tget d x.ten rq.cw.toNat 8), d.objs.find? x.obj with
      | some rq, some o =>
        if x.st ≠ .running || !gone then none
        else
          let status := tget d x.ten (rq.cw.toNat + 8) 8
          let dest := bits (tget d x.ten (rq.pa.toNat + 6) 2) 2 2
          if dest = 1 then
            match (freeUnits d 1).head? with
            | none => none
            | some u =>
              let n := max x.handSeq rq.seq.toNat + 1
              let st := standing x.ten l n x.gen
              let uid := (x.units.filter fun v => decide (v < 512)).length
              let d := (takeUnit o l x u uid 0 rq.pa.toNat x.plan (some st) d).modUnit u fun y => { y with run := .running }
              some (d.modLaunch l fun x =>
                { x with climb := some u, posts := [st], handSeq := n - 1, handStatus := x.handStatus ++ [status] })
          else
            let (a, n) := partition d x.ten
            match fit (dieCount d) (roomOf d []) a n o.maps with
            -- a partition that has shrunk may never take the top gang (R364, R407)
            | none => if neverFits d x.ten o o.maps then some (killLaunch l 0x10 0 d) else none
            | some f =>
              let d := takeClusters l o f (d.modLaunch l fun x =>
                { x with hpa := rq.pa.toNat, climb := none, posts := [], handStatus := x.handStatus ++ [status] })
              some (match d.launch? l with | some x => releaseGang x d | none => d)
      | _, _ => none
  | _ => none

/-- PROMOTION_BATCH_COMPLETE (R343): GEN + 1 goes to the band plan as a completion write. -/
def execPromotionBatchComplete (s : State) : Out := runGaffer s fun t d =>
  match t with
  | .agent l _ =>
    match d.launch? l with
    | none => none
    | some x =>
      if x.plan = 0 then none
      else some ((tput d x.ten (x.plan + 32) 8 (x.gen + 1)).modLaunch l fun x => { x with gen := x.gen + 1 })
  | _ => none

end Sys2Proof.Machine
end

