-- ==== Sys2Proof/Machine/Frames.lean ====
section
/-! DEFINITION. Translation, page requests, the demotion chain, pulls and scrubs (R342, R375 to R384). -/

namespace Sys2Proof.Machine

/-! ### Tiers of managed frames (R377, R378, R380) -/

/-- Bytes of HBM that are not managed: heaps, save areas and stream areas (R380). -/
def pinnedBytes (d : Dev) : Nat :=
  (d.tenants.toList.map fun t => (t.hlim - t.hbase) + t.svlen + if t.active then 2 ^ 28 else 0).sum + 2 ^ 28

/-- Frames that a tier can hold: HBM, board tier, CXL pool, host pool (R373, R374, R380). -/
def tierFrames (d : Dev) (h : Nat) : Nat :=
  if h = 0 then (hbmSize d - pinnedBytes d) / 16384
  else if h = 1 then (if d.form = .m640 then Config.boardBytes / 16384 else 0)
  else if h = 2 then (vget d.mmu.pools 1 (0, 0)).2 / 16384
  else if h = 3 then (vget d.mmu.pools 2 (0, 0)).2 / 16384
  else 0

/-- Frames of a tier that are free. -/
def freeFrames (d : Dev) (h : Nat) : Nat := tierFrames d h - (d.mmu.frames.filter fun e => decide (e.2.home = h)).length

/-- LOW of a step: until a WMARK sets it, 1 % of the upper tier's frames (R380). -/
def lowMark (d : Dev) (step : Nat) : Nat := if vget d.mmu.high step 0 = 0 then tierFrames d step / 100 else vget d.mmu.low step 0
/-- HIGH of a step: until a WMARK sets it, 2 %. -/
def highMark (d : Dev) (step : Nat) : Nat := if vget d.mmu.high step 0 = 0 then 2 * tierFrames d step / 100 else vget d.mmu.high step 0

/-- The first tier that has more free frames than LOW, in the order of R378. -/
def placeTier (d : Dev) : Option Nat := [0, 1, 2, 3].find? fun h => decide (lowMark d h < freeFrames d h)

/-- Where a step's victims go: the next target below that has frames, module flash last (R380). -/
def demoteTier (d : Dev) (step : Nat) : Option Nat :=
  match ([1, 2, 3].filter fun h => decide (step < h)).find? fun h => decide (0 < tierFrames d h) with
  | some h => some h
  | none => if d.form = .m640 then some 4 else none

/-! ### Refusal and requests (R378, R379) -/

/-- The translation of a tenant's page that some die holds, resident ones and refusals first. -/
def pageEntry (d : Dev) (ten page : Nat) : Option AtsRes :=
  if d.mmu.refused.contains (ten, page) then some .refused
  else
    let l := d.mmu.tlb.filter fun e => e.covers ten page
    ((l.find? fun e => decide (e.res ≠ .unmapped)).or l.head?).map fun e => match e.res with
      | .mapped r w p => .mapped r w (p + (page - e.page) * 16384)
      | x => x

/-- The entries of a tenant's page go. -/
def dropEntries (ten page : Nat) (d : Dev) : Dev :=
  { d with mmu := { d.mmu with tlb := d.mmu.tlb.filter fun e => !e.covers ten page } }

/-- The answers "not mapped" for a tenant's page go: ATS is asked again (R375, R378). -/
def dropUnmapped (ten page : Nat) (d : Dev) : Dev :=
  { d with mmu := { d.mmu with tlb := d.mmu.tlb.filter fun e => !(e.covers ten page && decide (e.res = .unmapped)) } }

/-- A request is done. -/
def dropRequest (ten page : Nat) (d : Dev) : Dev :=
  { d with mmu := { d.mmu with reqs := d.mmu.reqs.filter fun r => !(decide (r.ten = ten) && decide (r.page = page)) } }

/-- A page is refused for its context (R379): its request ends, and stores that wait on it kill their launches. -/
def refusePage (ten page : Nat) (d : Dev) : Dev :=
  let d := dropEntries ten page (dropRequest ten page d)
  let l := if d.mmu.refused.contains (ten, page) then d.mmu.refused else d.mmu.refused ++ [(ten, page)]
  killRefused { d with mmu := { d.mmu with refused := l } }

/-- Bytes become zero at one place in the order, and their poison marks go (R384, R378). -/
def zeroRange (base len : Nat) (d : Dev) : Dev :=
  { d with mem := d.mem.drop base len, poison := d.poison.filter fun a => !(decide (base ≤ a) && decide (a < base + len)) }

/-- Whether an operation that has its place and not its effect touches a range. -/
def placedIn (d : Dev) (base len : Nat) : Bool := d.placed.any fun p => overlap p.range.2.1 p.range.2.2 base len

/-- Whether a frame is waiting for its scrub. -/
def scrubbing (d : Dev) (f : Nat) : Bool := d.mmu.scrubs.any fun s => decide (s.frame = some f)

/-- Requests of a tenant for pages that are not mapped: those sent (true) or those that wait to be (false). -/
def unmappedReqs (d : Dev) (ten : Nat) (sent : Bool) : List PageReq :=
  d.mmu.reqs.filter fun x => decide (x.ten = ten) && decide (x.sent = sent) && (sent || decide (pageEntry d ten x.page = some .unmapped))

/-- PAGE_REQUEST (R378): the request with a number in the queue goes on: a PRI request is sent, the oldest of its function first, a lehr
engine places the frame, or a pull starts. -/
def execPageRequest (s : State) : Out := runEvent s fun t d =>
  match t with
  | .agent k _ =>
    match d.mmu.reqs[k]? with
    | none => none
    | some r =>
      match pageEntry d r.ten r.page with
      | none => none
      | some .refused => some (refusePage r.ten r.page d)
      | some .unmapped =>
        if d.mmu.dead.contains r.ten then some (refusePage r.ten r.page d)
        else if r.sent || 256 ≤ (unmappedReqs d r.ten true).length || (unmappedReqs d r.ten false).head? ≠ some r then none
        else some { d with mmu := { d.mmu with reqs := d.mmu.reqs.set k { r with sent := true } } }
      | some (.mapped _ _ p) =>
        let done (d : Dev) : Dev := dropUnmapped r.ten r.page (dropRequest r.ten r.page d)
        match frameOf p with
        | none => some (done d)
        | some f =>
          let x := d.frame f
          if x.home ≤ 3 then some (done d)
          else if x.home = 7 then some (killRefused (dropRequest r.ten r.page d))
          else if x.home = 6 then some (d.modFrame f fun x => { x with pull := true })
          else match placeTier d with
            | none => none
            | some h =>
              let d := if x.home = 5 then zeroRange (frameLoc f) 16384 d else d
              some (done (d.modFrame f fun x => { x with home := h, accessed := true }))
  | _ => none

/-! ### ATS and PRI (R375, R376, R378) -/

/-- Where an ATS result leads (R373): a managed frame inside HDM decoder 1, device-physical memory inside PF0's BAR2 or HDM decoder 0,
host memory elsewhere; none where nothing is. -/
def resultLoc (d : Dev) (a n : Nat) : Option Nat :=
  let inside (w : Nat × Nat) : Bool := decide (w.1 ≤ a) && decide (a + n ≤ w.1 + w.2)
  let phys (p : Nat) : Option Nat :=
    if p + n ≤ hbmSize d || (d.form = .m640 && Config.boardBase ≤ p && p + n ≤ Config.boardBase + Config.boardBytes) then some p else none
  if inside d.hdm1 then some (frameLoc 0 + (a - d.hdm1.1))
  else if inside d.bar2 then phys (a - d.bar2.1)
  else if inside d.hdm0 then phys (a - d.hdm0.1)
  else if a + n ≤ 2 ^ 64 then some (hostLoc + a) else none

/-- What a completion's result for a region of 16 KiB × 2^size is worth: one that names nothing, or is not aligned to its size, refuses
the page, and one without permission is not mapped (R373, R375). -/
def atsValue (d : Dev) (size : Nat) : AtsRes → AtsRes
  | .mapped r w a =>
    if !r && !w then .unmapped
    else if a % (16384 * 2 ^ size) ≠ 0 then .refused
    else match resultLoc d a (16384 * 2 ^ size) with
      | some p => .mapped r w p
      | none => .refused
  | x => x

/-- A die's cache with room for one more of its 8192 entries: the oldest goes (R375). -/
def roomInCache (die : Nat) (l : List Tlb) : List Tlb :=
  if 8192 ≤ (l.filter fun e => decide (e.die = die)).length then l.eraseP fun e => decide (e.die = die) else l

/-- The frames of a region are owned from their first use on (R377). -/
def ownFrames (ten p n : Nat) (d : Dev) : Dev :=
  (List.range n).foldl (fun d k => match frameOf (p + 16384 * k) with
    | some f => d.modFrame f fun x => { x with owner := x.owner.or (some ten) }
    | none => d) d

/-- ATS_COMPLETION (R375, R377): a die's translation of a tenant's region arrives. A frame is owned at its first use, and not before it
has been scrubbed. An answer "not mapped" stands until the die is answered again: it is asked at every access (log 76). A larger region than the one asked for is entered beside what is held of it. -/
def execAtsCompletion (s : State) : Out := runEvent s fun t d =>
  match t with
  | .ats die ten va res size =>
    let res := atsValue d size res
    let size := match res with | .mapped .. => size | _ => 0
    let page := alignDown (va.toNat / 16384) (2 ^ size)
    let held (e : Tlb) : Bool := decide (e.die = die) && decide (e.ten = ten) && overlap e.page (2 ^ e.size) page (2 ^ size)
    let dirty := match res with | .mapped _ _ p => (List.range (2 ^ size)).any fun k => (frameOf (p + 16384 * k)).any (scrubbing d) | _ => false
    -- what is asked for is the page of the address: where it is held or refused there is no request
    let asked := va.toNat / 16384
    if dieCount d ≤ die || 16 ≤ ten || 2 ^ 42 ≤ page || dirty || d.mmu.refused.contains (ten, asked)
        || (d.mmu.tlb.any fun e => decide (e.die = die) && e.covers ten asked && decide (e.res ≠ .unmapped)) then none
    else match res with
      | .refused => some (refusePage ten asked d)
      | res =>
        let old := d.mmu.tlb.filter fun e =>
          !((held e && decide (e.res = .unmapped)) || (decide (res ≠ .unmapped) && decide (e.ten = ten) && decide (e.res = .unmapped) && overlap e.page 1 page (2 ^ size)))
        let d := { d with mmu := { d.mmu with tlb := roomInCache die old ++ [{ die := die, ten := ten, page := page, res := res, size := size }] } }
        let d := match res with | .mapped _ _ p => ownFrames ten p (2 ^ size) d | _ => d
        some (watchScan (killRefused d))
  | _ => none

/-- ATS_INVALIDATE (R376, R379): the entries of a tenant's range go, and its refusals end. -/
def execAtsInvalidate (s : State) : Out := runEvent s fun t d =>
  match t with
  | .inval ten lo hi =>
    let hit (t page n : Nat) : Bool := decide (t = ten) && decide (lo.toNat < (page + n) * 16384) && decide (page * 16384 < hi.toNat)
    some { d with mmu := { d.mmu with tlb := d.mmu.tlb.filter fun e => !hit e.ten e.page (2 ^ e.size),
                                      refused := d.mmu.refused.filter fun x => !hit x.1 x.2 1 } }
  | _ => none

/-- PRI_RESPONSE (R378): for a request that has been sent. -/
def execPriResponse (s : State) : Out := runEvent s fun t d =>
  match t with
  | .pri ten va ans =>
    let page := va.toNat / 16384
    match d.mmu.reqs.find? fun r => decide (r.ten = ten) && decide (r.page = page) && r.sent with
    | none => none
    | some r =>
      match ans with
      | .success =>
        let reqs := d.mmu.reqs.map fun x => if x = r then { x with sent := false } else x
        some (dropEntries ten page { d with mmu := { d.mmu with reqs := reqs } })
      | .invalid => some (refusePage ten page d)
      | .failure =>
        let d := { d with mmu := { d.mmu with dead := insertNat ten d.mmu.dead } }
        let ps := (unmappedReqs d ten true ++ unmappedReqs d ten false).map (·.page)
        some (ps.foldl (fun d p => refusePage ten p d) d)
  | _ => none

/-- PRI_RESET (R378): the driver resets PRI on a function. -/
def execPriReset (s : State) : Out := runEvent s fun t d =>
  match t with
  | .agent ten _ => some { d with mmu := { d.mmu with dead := d.mmu.dead.filter fun x => decide (x ≠ ten) } }
  | _ => none

/-! ### Ages, moves and pulls (R342, R343, R380, R381, R383) -/

/-- FRAME_AGE_TICK (R380). -/
def execFrameAgeTick (s : State) : Out := runGaffer s fun _ d =>
  some { d with mmu := { d.mmu with frames := d.mmu.frames.map fun e =>
    (e.1, { e.2 with age := if e.2.accessed then 0 else min 255 (e.2.age + 1), accessed := false }) } }

/-- A step's next victim: highest age first, lowest number among equal ages (R380). -/
def victimFrame (d : Dev) (step : Nat) : Option Nat :=
  let l : List (Nat × Frame) := d.mmu.frames.filter fun e => decide (e.2.home = step) && e.2.pins.isEmpty && !scrubbing d e.1
  let top : Nat := (l.map fun e => e.2.age).foldl max 0
  (l.find? fun e => decide (e.2.age = top)).map (·.1)

/-- One demotion of a step: it begins below LOW and ends at HIGH (R380). -/
def demote (d : Dev) (step : Nat) : Option Dev :=
  let full := decide (highMark d step ≤ freeFrames d step)
  if !(decide (freeFrames d step < lowMark d step) || (vget d.mmu.demoting step false && !full)) then none
  else match victimFrame d step, demoteTier d step with
    | some f, some h =>
      if h ≤ 3 && freeFrames d h = 0 then none
      else
        let d := d.modFrame f fun x => { x with home := h }
        some { d with mmu := { d.mmu with demoting := vset d.mmu.demoting step (decide (freeFrames d step < highMark d step)) } }
    | _, _ => none

/-- Whether a translation-cache entry leads to a frame. -/
def Tlb.names (e : Tlb) (f : Nat) : Bool := match e.res with
  | .mapped _ _ p => (List.range (2 ^ e.size)).any fun k => decide (frameOf (p + 16384 * k) = some f)
  | _ => false

/-- Whether every context that maps a frame maps it read-only (R342). -/
def readOnlyFrame (d : Dev) (ten f : Nat) : Bool :=
  let l := d.mmu.tlb.filter fun e => e.names f
  (l.any fun e => decide (e.ten = ten)) && l.all fun e => match e.res with | .mapped _ w _ => decide (e.ten ≠ ten) || !w | _ => true

/-- A frame is promoted for a running tiered launch and pinned for it at its new home; one that is there already is pinned, and one that
another launch has pinned elsewhere stays (R342). -/
def promote (d : Dev) (l f h : Nat) : Option Dev :=
  match d.launch? l with
  | none => none
  | some x =>
    let y : Frame := d.frame f
    let there := decide (y.home = h)
    if x.plan = 0 || x.st ≠ .running || 1 < h || y.home < h || 4 < y.home || y.owner ≠ some x.ten || !readOnlyFrame d x.ten f
        || (!there && (decide (freeFrames d h = 0) || !(y.pins.filter (· ≠ l)).isEmpty)) || scrubbing d f then none
    else some (d.modFrame f fun y => { y with home := h, pins := if y.pins.contains l then y.pins else y.pins ++ [l] })

/-- FRAME_MOVE (R381): agents 0 to 3 are the demotion steps; from 16 on, launch l's promotion of a frame to HBM (16 + 2l) or to the
board tier (17 + 2l). No byte changes. -/
def execFrameMove (s : State) : Out := runEvent s fun t d =>
  match t with
  | .agent a f => if a < 4 then demote d a else if a < 16 then none else promote d ((a - 16) / 2) f (a % 2)
  | _ => none

/-- PULL_COMPLETE (R383): the four granules have arrived, and the frame takes its new home with them as one move. -/
def execPullComplete (s : State) : Out := runEvent s fun t d =>
  match t with
  | .pull f data =>
    let x := d.frame f
    match placeTier d with
    | none => none
    | some h =>
      if x.home ≠ 6 || !x.pull || data.length ≠ 16384 then none
      else some (place (d.modFrame f fun x => { x with home := h, pull := false }) (.row peerAgent (frameLoc f) data false))
  | _ => none

/-- PULL_FAIL (R383): HOME 7, every waiting request refused, and an event of KIND 6. -/
def execPullFail (s : State) : Out := runEvent s fun t d =>
  match t with
  | .agent f _ =>
    let x := d.frame f
    if x.home ≠ 6 || !x.pull then none
    else
      let d := killRefused (d.modFrame f fun x => { x with home := 7, pull := false })
      some (match x.owner with
        | some ten => postEvent d ten { kind := 6, strm := 0, cause := 0x27, tag := 0, seq := f, rc := 0, sqid := 0x3FF }
        | none => d)
  | _ => none

/-! ### Scrubs (R384) -/

/-- Counted units over a range and bad lines of an L1 go with the cached copies, those of saved contexts too (R243, R384). -/
def dropUnits (base len : Nat) (d : Dev) : Dev :=
  let hit (die t : Nat) (u : CUnit) : Bool := (u.back.or ((translate d die t u.va).loc? u.va)).any fun a => overlap a u.size base len
  let keep (die t : Nat) (l : List CUnit) : List CUnit := l.filter fun u => !hit die t u
  let bad (l : List (Nat × Bool)) : List (Nat × Bool) := l.filter fun x => !overlap (128 * x.1) 128 base len
  let seqs := d.seqs.map fun e => (e.1, { e.2 with lines := keep (dieOf e.1) e.2.place.ten e.2.lines, l1bad := bad e.2.l1bad })
  let ls := d.launches.map fun e =>
    (e.1, { e.2 with clusters := e.2.clusters.map (fun c => { c with blocks := keep (c.phys / 16) e.2.ten c.blocks }),
                     ctx := e.2.ctx.map fun s => { s with lines := keep 0 e.2.ten s.lines, l1bad := bad s.l1bad } })
  { d with seqs := seqs, launches := ls }

/-- The translation-cache entries that map a frame go (R384). -/
def dropFrameEntries (f : Nat) (d : Dev) : Dev := { d with mmu := { d.mmu with tlb := d.mmu.tlb.filter fun e => !e.names f } }

/-- The bytes of engines and units that have not been joined go with a range: none joins after the zero write (R384). -/
def dropLoose (base len : Nat) (d : Dev) : Dev :=
  let out (a : Nat) : Bool := !(decide (base ≤ a) && decide (a < base + len))
  let cmd (c : Cmd) : Cmd := { c with writes := c.writes.filter fun w => out w.1 }
  let eng (e : Engine) : Engine := { e with running := e.running.map cmd }
  let unit (x : Near) : Near := { x with unjoined := x.unjoined.filter fun w => !overlap w.loc w.bytes.length base len }
  { d with clusters := d.clusters.map fun c => (c.1, { c.2 with copy0 := eng c.2.copy0, copy1 := eng c.2.copy1, xform := eng c.2.xform }),
           near := d.near.map fun u => (u.1, unit u.2),
           launches := d.launches.map fun l => (l.1, { l.2 with nctx := l.2.nctx.map fun u => (u.1, unit u.2) }) }

/-- FRAME_SCRUB (R384): the oldest scrub is made, at one place in the order; its status is written last. -/
def execFrameScrub (s : State) : Out := runEvent s fun _ d =>
  match d.mmu.scrubs with
  | [] => none
  | c :: l =>
    if placedIn d c.base c.len || farIn d c.base c.len then none
    else
      let d := dropLoose c.base c.len (dropUnits c.base c.len d)
      let d := match c.frame with
        | some f => let d := dropFrameEntries f d; { d with mmu := { d.mmu with frames := d.mmu.frames.erase f } }
        | none => d
      let d := zeroRange c.base c.len { d with mmu := { d.mmu with scrubs := l } }
      some (match c.stat with
        | some (a, v) => gput d a 8 v
        | none => d)

end Sys2Proof.Machine
end

