-- ==== Sys2Proof/Machine/Records.lean ====
section
/-! DEFINITION. Command streams and the records of tenants (R352 to R362, R392, R393). -/

namespace Sys2Proof.Machine

/-! ### Records (R354, R356) -/

/-- A record's bytes as one number. -/
def recVal (r : Rec) : Nat := packLanes 64 (r.words.map (·.toNat))
/-- n bytes of a record from byte lo. -/
def recNum (r : Rec) (lo n : Nat) : Nat := bits (recVal r) (8 * lo) (8 * n)
/-- Whether n bytes of a record from byte lo are zero. -/
def recZero (r : Rec) (lo n : Nat) : Bool := decide (recNum r lo n = 0)
/-- TAG of a record (R354). -/
def recTag (r : Rec) : Nat := recNum r 4 4
/-- LEN of a record (R354). -/
def recLen (r : Rec) : Nat := recNum r 1 1

/-- What becomes of a record: it faults its stream, it is taken, it is held at RIX in STATE 2, or it waits to be taken. -/
inductive RecEnd where
  | fault (code : Nat)
  | done (d : Dev)
  | hold (d : Dev)
  | retry (d : Dev)
  deriving DecidableEq, Repr

/-- Whether a MEM record has been taken and its status is still to be written (R374). -/
def memDue (d : Dev) : Bool := d.mmu.flips.isSome || d.mmu.scrubs.any fun s => s.stat.isSome

/-- Whether a REGISTER, GDEF, MEM or TSET of any stream awaits its status: one that has been taken, or one at RIX that has been begun
(R396). -/
def statusPending (d : Dev) : Bool := memDue d || d.streams.any fun e => e.2.due && decide (e.2.state = 1)

/-- RIX goes past a record (R353). -/
def takePast (ten m len : Nat) (d : Dev) : Dev :=
  putRix ten m (d.modStream ten m fun s => { s with rix := s.rix + 64 * len, due := false })

/-- A record of an active stream is taken by its rules (R353, R356); a scheduling pass follows (R363). -/
def runRecord (s : State) (f : Nat → Nat → Rec → Dev → RecEnd) : Out := runLeader s fun t d =>
  match t with
  | .record ten m r =>
    if (d.stream ten m).state ≠ 1 then none
    else match f ten m r d with
      | .fault c => some (streamFault ten m c (recTag r) d)
      | .done d => some (pass (takePast ten m (recLen r) d))
      | .hold d => some (putState ten m (d.modStream ten m fun s => { s with state := 2 }))
      | .retry d => some (if [3, 4, 0x20, 0x22].contains (recNum r 0 1) then d.modStream ten m fun s => { s with due := true } else d)
  | _ => none

/-- Whether a tenant's address is one that a record may name: aligned, translated, and not denied for a read or a write (R356). -/
def addrOk (d : Dev) (ten va align : Nat) (wr : Bool) : Bool :=
  let w := translate d 0 ten va
  decide (va % align = 0) && decide (va < 2 ^ 56) && decide (w ≠ .miss) && (if wr then w.writes else w.reads)

/-- A record with the addresses that it names, each with its alignment and whether it is written: one that is misaligned or denied
faults the stream, and the record waits while one is not translated (R356). -/
def withAddrs (d : Dev) (ten : Nat) (l : List (Nat × Nat × Bool)) (k : RecEnd) : RecEnd :=
  if l.all fun a => addrOk d ten a.1 a.2.1 a.2.2 then k
  else if l.any fun a => !addrOk d ten a.1 a.2.1 a.2.2 && decide (translate d 0 ten a.1 = .miss) && decide (a.1 % a.2.1 = 0) then .retry d
  else .fault 5

/-! ### WIX (R353) -/

/-- BASE and SIZE of a control block as R352 wants them. -/
def blockOk (base size : Nat) : Bool :=
  decide (12 ≤ size) && decide (size ≤ 24) && decide (0x1000 ≤ base) && decide (base % 2 ^ size = 0) && decide (base + 2 ^ size ≤ 2 ^ 28)

/-- Whether a stream exists: its tenant is active, or it is the admin stream. -/
def streamOn (d : Dev) (ten m : Nat) : Bool :=
  (decide (ten < 16) && decide (m < 8) && (d.tenant ten).active) || (decide (ten = 16) && decide (m = 0))

/-- STREAM_RESET (R353): the oldest write of WIX that the Gaffer has not looked at has RST set. -/
def execStreamReset (s : State) : Out := runLeader s fun t d =>
  match t with
  | .agent ten m =>
    match (d.stream ten m).news with
    | [] => none
    | w :: l =>
      if !bit w 63 || !streamOn d ten m then none
      else
        let b := blockLoc d ten m
        let base := gget d (b + 16) 8
        let size := gget d (b + 24) 1
        let d := d.modStream ten m fun s =>
          { s with base := base, size := size, rix := w % 2 ^ 63, wix := w % 2 ^ 63, fcode := 0, state := if blockOk base size then 1 else 0,
                   wait := none, patch := none, news := l, due := false }
        some (putBlock ten m 0 d)
  | _ => none

/-- WIX_WRITE (R353, R356): records are exposed up to the new index. -/
def execWixWrite (s : State) : Out := runLeader s fun t d =>
  match t with
  | .agent ten m =>
    let x := d.stream ten m
    match x.news with
    | [] => none
    | w :: l =>
      if bit w 63 || !streamOn d ten m then none
      else
        let d := d.modStream ten m fun s => { s with news := l }
        if x.state ≠ 1 && x.state ≠ 2 then some d
        else if w < x.wix || x.rix + 2 ^ x.size < w then some (streamFault ten m 3 0 d)
        else some (d.modStream ten m fun s => { s with wix := w })
  | _ => none

/-- PAD (R354). -/
def execPadRec (s : State) : Out := runRecord s fun _ _ _ d => .done d

/-! ### LAUNCH (R357) -/

/-- The code security counter (R316, R419). -/
def codeCounter (d : Dev) : Nat := d.fleet.secc.foldl max 0

/-- Whether the key of an object has been revoked (R420). -/
def keyRevoked (d : Dev) (key : Bytes) : Bool := d.fleet.keys.toList.any fun k => k.revoked && decide (k.digest = some key)

/-- The first status of R357's table that applies to a launch: 0 when it can run. `secc` is the fuse counter when its record was taken. -/
def launchStatus (d : Dev) (secc ten key prio : Nat) (diag : Bool) : Nat :=
  match d.objs.find? key with
  | none => 0x14
  | some o =>
    let t := d.tenant ten
    if t.pcap < prio then 0x13
    else if diag && !t.diagOk then 0x15
    else if (o.maps.any (·.ctr)) && !t.ctrOk then 0x12
    else if keyRevoked d o.keyid then 0x19
    else if o.svn < secc then 0x03
    else if neverFits d ten o o.maps then 0x10
    else 0

/-- A launch comes into being: a candidate, or one that ends at once (R357, R361). -/
def newLaunch (secc : Nat) (x : Launch) (d : Dev) : Nat × Dev :=
  let st := launchStatus d secc x.ten x.obj x.prio x.diag
  let (cov, parm) := match d.objs.find? x.obj with
    | some o => (o.cov, if x.parm = 0 then o.defparm else x.parm)
    | none => (0, x.parm)
  let l := d.nextLaunch
  let x := { x with cov := cov, parm := parm, status := st, st := if st = 0 then .waiting else .draining }
  (l, { d with nextLaunch := l + 1, launches := d.launches.put l x })

/-- LAUNCH (R357): it is taken whatever its content (log 43). -/
def execLaunch (s : State) : Out := runRecord s fun ten m r d =>
  let lfl := recNum r 13 1
  let (n, d) := nextItem ten m d
  let (time, d) := now d
  let (l, d) := newLaunch (codeCounter d)
    { ten := ten, strm := m, seq := n, tag := recTag r, obj := ten * 4096 + min (recNum r 8 4) 4096 % 4096, prio := recNum r 12 1, diag := bit lfl 0,
      notify := bit lfl 1, parm := recNum r 16 8, stat := recNum r 24 8, age := time } d
  .done (if (d.launch? l).any fun x => decide (x.st = .draining) then tryEnd l d else d)

/-! ### WAIT (R358) -/

/-- WAIT (R358): the stream holds at the record in STATE 2. -/
def execWaitRec (s : State) : Out := runRecord s fun ten m r d =>
  let kind := recNum r 24 1
  if 1 < kind || !recZero r 25 39 then .fault 4
  else withAddrs d ten [(recNum r 8 8, 8, false)]
    (.hold (d.modStream ten m fun s => { s with wait := some (recNum r 8 8, recNum r 16 8, kind) }))

/-- The word that a WAIT reads now, as a load would (R117, R131): a peer's is free, one that is denied or refused by now reads zero;
none while its data is outstanding. -/
def waitWord (d : Dev) (ten va : Nat) : Option (Nat × Dev) :=
  match translate d 0 ten va with
  | .here loc true _ => (readNow d loc 8).map fun x => (x, touch d loc)
  | .peer dev _ _ true _ => some (traffic dev d).draw
  | .absent .. => none
  | .miss => none
  | _ => some (0, d)

/-- WAIT_SATISFIED (R358): the word meets the condition and the record is taken; a word that is not here is requested. -/
def execWaitSatisfied (s : State) : Out := runLeader s fun t d =>
  match t with
  | .agent ten m =>
    match (d.stream ten m).wait with
    | none => none
    | some (va, v, kind) =>
      match translate d 0 ten va with
      | .absent .. => some (requestPage d ten va false)
      | _ =>
        match waitWord d ten va with
        | none => none
        | some (x, d) =>
          if (if kind = 0 then decide (v ≤ x) else decide (x ≠ v)) then
            some (pass (takePast ten m 1 (putState ten m (d.modStream ten m fun s => { s with wait := none, state := 1 }))))
          else some d
  | _ => none

/-! ### Graphs (R360, R361) -/

/-- Key of a tenant's graph. -/
def graphKey (ten g : Nat) : Nat := ten * 256 + g

/-- Whether pages of a tenant are here: one that is not is requested, for a write where one follows. -/
def pagesHere (ten : Nat) (ps : List Nat) (d : Dev) (wr : Bool := false) : Except Dev Unit :=
  match ps with
  | [] => .ok ()
  | p :: ps =>
    match translate d 0 ten p with
    | .absent _ _ _ => .error (requestPage d ten p wr)
    | .miss => .error d
    | _ => pagesHere ten ps d wr

/-- Bytes that the Gaffer copies from a tenant's range: they wait while a page is not here. -/
def copyIn (ten va n : Nat) (d : Dev) : Except Dev (Bytes × Dev) :=
  match pagesHere ten (pagesOf va n) d with
  | .error d => .error d
  | .ok _ => .ok (tgetBytes ten (n / 4096 + 2) va n d)

/-- Whether every page of a range may be read, as far as it is translated. -/
def readable (d : Dev) (ten va n : Nat) : Bool := (pagesOf va n).all fun p => (translate d 0 ten p).reads

/-- A node record of a graph body (R360): none when it is malformed. -/
def nodeOf (b : Bytes) (j : Nat) : Option GNode :=
  let f (lo n : Nat) : Nat := leNat ((b.drop (16 + 64 * j + lo)).take n)
  let plen := f 6 2
  let pofs := f 16 8
  if 4 ≤ f 5 1 || 64 < plen || 2 ^ j ≤ f 8 8 || pofs % 64 ≠ 0 || f 24 40 ≠ 0 then none
  else some { obj := f 0 4, prio := f 4 1, lfl := f 5 1, plen := plen, dep := f 8 8, pofs := pofs }

/-- The Gaffer keeps a node's parameter bytes at an address of their own (R361, log 14). -/
def keepParms (ten : Nat) (l : List Bytes) (d : Dev) : GGen × Dev :=
  l.foldl (fun (g, d) b =>
    let a := gafferVa ten + d.nextUnit % 2 ^ 26 * 4096
    ({ parms := g.parms ++ [b], addrs := g.addrs ++ [a] }, placeBytes { d with nextUnit := d.nextUnit + 1 } gafferAgent (gafferLoc + a) b))
    ({ parms := [], addrs := [] }, d)

/-- The nodes' parameter bytes, one node after another: they wait while a page is not here. -/
def copyParms (ten va : Nat) : List GNode → Dev → Except Dev (List Bytes × Dev)
  | [], d => .ok ([], d)
  | n :: ns, d =>
    match copyIn ten (va + n.pofs) (64 * n.plen) d with
    | .error d => .error d
    | .ok (b, d) => (copyParms ten va ns d).map fun r => (b :: r.1, r.2)

/-- GDEF (R360): every byte that is copied must be readable (R356). -/
def execGdef (s : State) : Out := runRecord s fun ten _ r d =>
  let g := recNum r 8 1
  let va := recNum r 16 8
  let stat := recNum r 24 8
  if g = 0 || !recZero r 9 7 || !recZero r 32 32 then .fault 4
  else withAddrs d ten [(stat, 8, true), (va, 1, false)] <|
  match pagesHere ten [stat] d true with
  | .error d => .retry d
  | .ok _ =>
  if (d.graphs.find? (graphKey ten g)).isSome then .done (tput d ten stat 8 0x20)
  else if !readable d ten va 16 then .fault 5
  else match copyIn ten va 16 d with
    | .error d => .retry d
    | .ok (h, d) =>
      let nn := leNat (h.take 2)
      if nn = 0 || 64 < nn || leNat (h.drop 2) ≠ 0 then .done (tput d ten stat 8 1)
      else if !readable d ten va (16 + 64 * nn) then .fault 5
      else match copyIn ten va (16 + 64 * nn) d with
        | .error d => .retry d
        | .ok (b, d) =>
          match (List.range nn).mapM (nodeOf b) with
          | none => .done (tput d ten stat 8 1)
          | some ns =>
            if !(ns.all fun n => readable d ten (va + n.pofs) (64 * n.plen)) then .fault 5
            else match copyParms ten va ns d with
            | .error d => .retry d
            | .ok (l, d) =>
              let (gen, d) := keepParms ten l d
              .done (tput { d with graphs := d.graphs.put (graphKey ten g) { nodes := ns, gens := [(1, gen)], cur := 1 } } ten stat 8 0)

/-- GRAPH (R361): an item that uses the current generation. -/
def execGraph (s : State) : Out := runRecord s fun ten m r d =>
  let g := recNum r 8 1
  let stat := recNum r 24 8
  if g = 0 || !recZero r 9 15 || !recZero r 32 32 then .fault 4
  else withAddrs d ten (if stat = 0 then [] else [(stat, 64, true)]) <|
  match d.graphs.find? (graphKey ten g) with
    | none => .fault 6
    | some x =>
      let (n, d) := nextItem ten m d
      let (time, d) := now d
      let k := d.nextReplay
      let y : Replay := { ten := ten, strm := m, seq := n, tag := recTag r, stat := stat, gid := g, gen := x.cur,
                          nodes := List.replicate x.nodes.length .idle, age := time, secc := codeCounter d }
      .done { d with nextReplay := k + 1, replays := d.replays.put k y }

/-- What a node's predecessors say: it waits, it starts, or it ends with status 0x16 (R361). -/
def nodeReady (r : Replay) (dep : Nat) : Option Bool :=
  let st := (r.nodes.zipIdx.filter fun e => bit dep e.2).map (·.1)
  if st.any fun | .ended _ => false | _ => true then none
  else some (st.all fun | .ended 0 => true | _ => false)

/-- GRAPH_NODE_START (R361): replays of one graph serialize in the order they were taken. -/
def execGraphNodeStart (s : State) : Out := runLeader s fun t d =>
  match t with
  | .agent k j =>
    match d.replays.find? k with
    | none => none
    | some r =>
      match r.nodes[j]?, d.graphs.find? (graphKey r.ten r.gid) with
      | some .idle, some g =>
        match g.nodes[j]? with
        | none => none
        | some n =>
          let earlier := d.replays.any fun e => decide (e.1 < k) && decide (e.2.ten = r.ten) && decide (e.2.gid = r.gid)
          if earlier || !earlierStarted d r.ten r.strm r.seq then none
          else match nodeReady r n.dep with
            | none => none
            | some false =>
              let d := { d with replays := d.replays.put k { r with nodes := r.nodes.set j (.ended 0x16) } }
              some (tryReplay k d)
            | some true =>
              let parm := if n.plen = 0 then 0 else ((g.gens.find? r.gen).map fun x => x.addrs.getD j 0).getD 0
              let (l, d) := newLaunch r.secc
                { ten := r.ten, strm := r.strm, seq := r.seq, tag := r.tag, obj := r.ten * 4096 + min n.obj 4096 % 4096, prio := n.prio, diag := bit n.lfl 0, notify := bit n.lfl 1, parm := parm, age := r.age, node := some (k, j) } d
              let d := { d with replays := d.replays.put k { r with nodes := r.nodes.set j (.runs l) } }
              some (pass (if (d.launch? l).any fun x => decide (x.st = .draining) then
                  let (time, d) := now d
                  tryEnd l (replayBegins time k d)
                else d))
      | _, _ => none
  | _ => none

/-- Generations of a graph that replays hold (R361). -/
def heldGens (d : Dev) (ten g : Nat) : List Nat :=
  insertNats [] ((d.replays.filter fun e => decide (e.2.ten = ten) && decide (e.2.gid = g)).map fun e => e.2.gen)

/-- A patch: a new current generation, if one may be made (R361). -/
def patchGraph (ten : Nat) (r : Rec) (d : Dev) : Option Dev :=
  let g := recNum r 8 1
  match d.graphs.find? (graphKey ten g) with
  | none => some d
  | some x =>
    let held := heldGens d ten g
    if 4 ≤ held.length then none
    else
      let old := ((x.gens.find? x.cur).map (·.parms)).getD []
      let data := (List.range (recNum r 10 2)).map fun i => BitVec.ofNat 8 (recNum r (64 + i) 1)
      let o := recNum r 12 4
      let new := old.mapIdx fun j b => if j = recNum r 9 1 then b.take o ++ data ++ b.drop (o + data.length) else b
      let (gen, d) := keepParms ten new d
      let n := (x.gens.map (·.1)).foldl max 0 + 1
      let gens := (x.gens.filter fun e => held.contains e.1) ++ [(n, gen)]
      some { d with graphs := d.graphs.put (graphKey ten g) { x with gens := gens, cur := n } }

/-- GPATCH (R361). -/
def execGpatch (s : State) : Out := runRecord s fun ten m r d =>
  let plen := recNum r 10 2
  if plen = 0 || 256 < plen || !recZero r 16 48 then .fault 4
  else if recLen r ≠ 1 + ceilDiv plen 64 then .fault 2
  else match d.graphs.find? (graphKey ten (recNum r 8 1)) with
    | none => .fault 6
    | some x =>
      match x.nodes[recNum r 9 1]? with
      | none => .fault 4
      | some n =>
        if 64 * n.plen < recNum r 12 4 + plen then .fault 4
        else match patchGraph ten r d with
          | some d => .done d
          | none => .hold (d.modStream ten m fun s => { s with patch := some r })

/-- GPATCH_UNBLOCK (R361): a replay that held a generation has ended. -/
def execGpatchUnblock (s : State) : Out := runLeader s fun t d =>
  match t with
  | .agent ten m =>
    match (d.stream ten m).patch with
    | none => none
    | some r => (patchGraph ten r d).map fun d =>
      pass (takePast ten m (recLen r) (putState ten m (d.modStream ten m fun s => { s with patch := none, state := 1 })))
  | _ => none

/-! ### CTRL (R362, R392, R393) -/

/-- A CTRL operation on an item; a stream number that does not exist is out of range (R362). -/
def control (s : State) (f : Nat → Nat → Nat → Rec → Dev → Dev) : Out := runRecord s fun ten _ r d =>
  if 7 < recNum r 9 1 then .fault 4 else .done (f ten (recNum r 9 1) (recNum r 16 8) r d)

/-- RELEASE_REPLAY (R362). -/
def execReleaseReplay (s : State) : Out := control s fun ten m n _ d => (itemLaunches d ten m n).foldl (fun d l => releaseLaunch l d) d
/-- RELEASE_KILL (R362): of a parked launch, with the cause that parked it. -/
def execReleaseKill (s : State) : Out := control s fun ten m n _ d =>
  (itemLaunches d ten m n).foldl (fun d l =>
    match d.launch? l with
    | some x =>
      if x.st = .parked then
        let c := ((seqsOf x).findSome? fun q => (d.seq q).trap.map (·.cause)).or
          ((x.units.findSome? fun u => (d.unit u).trap.map (·.cause)).or (if (seqsOf x).any fun q => (d.seq q).storeMiss.isSome then some 0x26 else none))
        killLaunch l 0x11 (c.getD 0) d
      else d
    | none => d) d
/-- KILL (R362). -/
def execKillRec (s : State) : Out := control s fun ten m n _ d => killItem ten m n 0x17 d
/-- ACTION_SET (R362, R369). -/
def execActionSet (s : State) : Out := runRecord s fun ten _ r d =>
  let a := recNum r 11 1
  if 8 ≤ a || a % 4 = 3 then .fault 4
  else .done (d.modTenant ten fun t => { t with actions := vset t.actions (recNum r 10 1) (BitVec.ofNat 8 a) })

/-- A debugger's operation on a sequencer of an item (R392). -/
def debugger (s : State) (f : Nat → Dev → Dev) : Out := control s fun ten m n r d =>
  let q := recNum r 24 4
  if (itemLaunches d ten m n).any fun l => (d.launch? l).any fun x => (seqsOf x).contains q then f q d else d

/-- A stopped sequencer is replayed; a record that breaks R386 kills its launch. -/
def resumeStopped (q : Nat) (d : Dev) : Dev :=
  if (d.seq q).run ≠ .stopped then d else (replaySeq d q).getD (killLaunch (d.seq q).place.launch 0x18 0 d)

/-- ATTACH (R392): a sequencer that does not run yet, or whose trap waits, stops once it goes on. -/
def execAttach (s : State) : Out := debugger s fun q d => d.modSeq q fun x =>
  { x with owner := true, reqs := if x.run ≠ .stopped && !x.reqs.contains .stop then x.reqs ++ [.stop] else x.reqs }
/-- DETACH (R392). -/
def execDetach (s : State) : Out := debugger s fun q d =>
  resumeStopped q (d.modSeq q fun x => { x with owner := false, reqs := x.reqs.filter (· ≠ .stop) })
/-- STEP (R393). -/
def execStepRec (s : State) : Out := debugger s fun q d =>
  if (d.seq q).run ≠ .stopped then d else (resumeStopped q d).modSeq q fun x => { x with stepMode := decide (x.run = .running) }
/-- CONTINUE (R392). -/
def execContinueRec (s : State) : Out := debugger s fun q d => resumeStopped q d

end Sys2Proof.Machine
end

