-- ==== Sys2Proof/Machine/Admin.lean ====
section
/-! DEFINITION. The admin stream's records that configure tenants and translation (R351, R362, R374, R381, R406). -/

namespace Sys2Proof.Machine

/-! ### Device-physical ranges -/

/-- Whether n bytes at a device-physical address exist (R373). -/
def physOk (d : Dev) (a n : Nat) : Bool :=
  decide (a + n ≤ hbmSize d)
    || (decide (d.form = .m640) && decide (Config.boardBase ≤ a) && decide (a + n ≤ Config.boardBase + Config.boardBytes))

/-- Whether a status address of an admin record is one (R374, R405): 0 for none, or eight aligned bytes of memory. -/
def statOk (d : Dev) (a : Nat) : Bool := decide (a = 0) || (decide (a % 8 = 0) && physOk d a 8)

/-- A status is written where the record names an address. -/
def putStatus (a v : Nat) (d : Dev) : Dev := if a = 0 then d else gput d a 8 v

/-- Whether a tenant has a launch resident or parked (R351, R374): a pre-empted launch that is saved is neither. -/
def resident (d : Dev) (ten : Nat) : Bool := d.launches.any fun e => decide (e.2.ten = ten) && decide (e.2.st ≠ .waiting)

/-- Whether a tenant's save area is live: it holds the records of a launch (R388). -/
def saveLive (d : Dev) (ten : Nat) : Bool := d.launches.any fun e => decide (e.2.ten = ten) && !e.2.recs.isEmpty

/-! ### TSET and TKILL (R351, R369, R406) -/

/-- A tenant's action table at activation (R369). -/
def startActions : Vector (BitVec 8) 256 :=
  Vector.ofFn fun c =>
    if c.val = 0x10 || c.val = 0x12 || c.val = 0x13 then 6 else if c.val = 0x14 || c.val = 0x26 then 1 else 4

/-- Whether a TSET's column partition keeps R406. -/
def partOk (d : Dev) (ten p : Nat) : Bool :=
  let a := bits p 0 10
  let n := bits p 10 11
  decide (bits p 21 11 = 0) && decide (n ≠ 0) && decide (a + n ≤ 256 * dieCount d)
    && (List.range 16).all fun t =>
      decide (t = ten) || !(d.tenant t).active || !overlap a n (partition d t).1 (partition d t).2

/-- Columns that a tenant's resident launches use. -/
def usedColumns (d : Dev) (ten : Nat) : List Nat :=
  (d.seqs.filter fun e => decide (e.2.run ≠ .absent) && decide (e.1 < 1024) && decide (e.2.place.ten = ten)).flatMap fun e => span e.1 e.2.ncols

/-- A tenant's translation context is another one (R374, R379): no translation and no refusal is left of the old. -/
def newContext (ten : Nat) (d : Dev) : Dev :=
  { d with mmu := { d.mmu with tlb := d.mmu.tlb.filter (fun e => decide (e.ten ≠ ten)),
                               refused := d.mmu.refused.filter fun x => decide (x.1 ≠ ten) } }

/-- A tenant is removed (R351): its launches are killed, its streams disabled, its objects and graphs dropped, its frames
scrubbed, and its context ended. -/
def removeTenant (ten : Nat) (d : Dev) : Dev :=
  let d := killTenant ten 0x17 d
  let d := (List.range 8).foldl (fun d m => putState ten m (d.modStream ten m fun s => { s with state := 0, wait := none, patch := none, due := false })) d
  let objs : Tab Obj := d.objs.filter fun e => decide (e.1 / 4096 ≠ ten)
  let graphs : Tab Graph := d.graphs.filter fun e => decide (e.1 / 256 ≠ ten)
  let fs := (d.mmu.frames.filter fun e => decide (e.2.owner = some ten) && !scrubbing d e.1).map fun e =>
    ({ base := frameLoc e.1, len := 16384, frame := some e.1 } : Scrub)
  (newContext ten { d with objs := objs, graphs := graphs, mmu := { d.mmu with scrubs := d.mmu.scrubs ++ fs } }).modTenant ten fun t => { t with active := false }

/-- TSET (R351, R406). -/
def execTset (s : State) : Out := runRecord s fun _ _ r d =>
  let f := recNum r
  let ten := f 8 1
  let state := f 9 1
  let t := d.tenant ten
  if 15 < ten || 1 < state || 3 < f 10 1 || 3 < f 12 1 || !recZero r 13 3 || !recZero r 44 4 then .fault 4
  else if state = 0 then .done (removeTenant ten d)
  else if f 11 1 = 0 || 2 ^ 20 ≤ f 16 4 || f 40 4 < 6 || 16 < f 40 4 || !partOk d ten (f 20 4) then .fault 4
  else if f 24 8 % 2 ^ 28 ≠ 0 || hbmSize d < f 24 8 + 2 ^ 28 || f 32 8 % 4096 ≠ 0 || f 48 8 % 8 ≠ 0 || f 56 8 % 2 ^ 28 ≠ 0 || 2 ^ 56 ≤ f 56 8 then .fault 5
  else if resident d ten && (decide (f 16 4 ≠ t.pasid) || decide (f 24 8 ≠ t.sarea) || decide (f 56 8 ≠ t.sava)) then .fault 5
  else if (usedColumns d ten).any fun c => !(decide (bits (f 20 4) 0 10 ≤ c) && decide (c < bits (f 20 4) 0 10 + bits (f 20 4) 10 11)) then .fault 5
  else
    let d := if f 16 4 = t.pasid then d
      else newContext ten d
    .done (d.modTenant ten fun t =>
      { t with active := true, pcap := f 10 1, wgt := f 11 1, diagOk := bit (f 12 1) 0, ctrOk := bit (f 12 1) 1, pasid := f 16 4, part := f 20 4,
               sarea := f 24 8, eqa := f 32 8, eqn := f 40 4, eqpi := f 48 8, sava := f 56 8,
               actions := if t.active then t.actions else startActions })

/-- TKILL (R351). -/
def execTkill (s : State) : Out := runRecord s fun _ _ r d =>
  if 15 < recNum r 8 1 || !recZero r 9 55 then .fault 4 else .done (killTenant (recNum r 8 1) 0x17 d)

/-! ### MEM records (R374) -/

/-- A MEM record: its reserved bytes, tenant and status address are checked, and its operation answers the new device or a status.
`used` are the body's bytes that the operation has, as first byte and length. -/
def memRecord (s : State) (used : List (Nat × Nat)) (f : Nat → Nat → Rec → Dev → Except Nat RecEnd) : Out := runRecord s fun _ _ r d =>
  let stat := recNum r 16 8
  let spare := (List.range 104).all fun i => (used.any fun u => decide (u.1 ≤ 24 + i) && decide (24 + i < u.1 + u.2)) || recZero r (24 + i) 1
  if 15 < recNum r 9 1 || !recZero r 10 6 || !spare then .fault 4
  else if !statOk d stat then .fault 5
  else match f (recNum r 9 1) stat r d with
    | .ok e => e
    | .error v => .done (putStatus stat v d)

/-- A range without another: what is left on its two sides. -/
def without (a n b m : Nat) : List (Nat × Nat) :=
  if !overlap a n b m then (if n = 0 then [] else [(a, n)])
  else ((a, b - a) :: (if b + m < a + n then [(b + m, a + n - (b + m))] else [])).filter fun x => decide (x.2 ≠ 0)

/-- Device-physical ranges of a tenant that another's may not meet: heap, save area and stream area (R374). -/
def tenantRanges (t : Tenant) : List (Nat × Nat) :=
  [(t.hofs, t.hlim - t.hbase), (t.svpa, t.svlen)] ++ (if t.active then [(t.sarea, 2 ^ 28)] else [])

/-- Scrubs of ranges, the last of which writes status 0; without any the status is written at once (R374, R384). -/
def scrubThen (stat : Nat) (l : List Scrub) (d : Dev) : Dev :=
  if stat = 0 then { d with mmu := { d.mmu with scrubs := d.mmu.scrubs ++ l } }
  else match l.reverse with
    | [] => putStatus stat 0 d
    | x :: r => { d with mmu := { d.mmu with scrubs := d.mmu.scrubs ++ r.reverse ++ [{ x with stat := some (stat, 0) }] } }

/-- CTXW (R374). -/
def execCtxw (s : State) : Out := memRecord s [(24, 25), (56, 24)] fun ten stat r d =>
  let f := recNum r
  let m := 2 ^ 21
  let hb := f 24 8
  let hl := f 32 8
  let ho := f 40 8
  let sv := f 56 8
  let sl := f 64 8
  let t := d.tenant ten
  let liveAreas := ((List.range 16).filter fun k => decide (k ≠ ten) && saveLive d k).map fun k => ((d.tenant k).svpa, (d.tenant k).svlen)
  let others := ((List.range 16).filter fun k => decide (k ≠ ten)).flatMap fun k => tenantRanges (d.tenant k)
  if hb % m ≠ 0 || hl % m ≠ 0 || 2 ^ 56 < hl || hl < hb || ho % m ≠ 0 || hbmSize d < ho + (hl - hb) || 3 < f 48 1 || sv % m ≠ 0 || sl % m ≠ 0
      || sl < 64 * 2 ^ 20 || hbmSize d < sv + sl || f 72 8 % m ≠ 0 || 2 ^ 56 ≤ f 72 8 then .error 1
  else if resident d ten || (saveLive d ten && (decide (sv ≠ t.svpa) || decide (sl ≠ t.svlen) || overlap ho (hl - hb) t.svpa t.svlen))
      || (liveAreas.any fun x => overlap x.1 x.2 ho (hl - hb) || overlap x.1 x.2 sv sl) then .error 2
  -- bytes that are still to be scrubbed are nobody's (R384)
  else if d.mmu.scrubs.any fun c => c.frame.isNone && (overlap c.base c.len ho (hl - hb) || overlap c.base c.len sv sl) then .ok (.retry d)
  else if others.any fun x => overlap x.1 x.2 ho (hl - hb) || overlap x.1 x.2 sv sl then .error 3
  else
    let gone := (without t.hofs (t.hlim - t.hbase) ho (hl - hb)) ++ (without t.svpa t.svlen sv sl)
    let d := d.modTenant ten fun t => { t with hbase := hb, hlim := hl, hofs := ho, hperm := BitVec.ofNat 2 (f 48 1), svpa := sv, svlen := sl, csva := f 72 8 }
    .ok (.done (scrubThen stat (gone.map fun x => { base := x.1, len := x.2, frame := none }) d))

/-- Pages of a window whose translation no die holds are asked for; the record waits for them (R383). -/
def windowKnown (d : Dev) (ten vb vl : Nat) : Bool := (pagesOf vb vl).all fun p => (pageEntry d ten (p / 16384)).isSome

/-- Managed frames that a window translates to. -/
def windowFrames (d : Dev) (ten vb vl : Nat) : List Nat :=
  (pagesOf vb vl).filterMap fun p => match pageEntry d ten (p / 16384) with
    | some (.mapped _ _ l) => frameOf l
    | _ => none

/-- PWIN (R374, R382, R383). -/
def execPwin (s : State) : Out := memRecord s [(24, 64)] fun ten stat r d =>
  let f := recNum r
  let i := f 24 1
  let np := f 25 1
  let vb := f 32 8
  let vl := f 40 8
  let t := d.tenant ten
  let peers := (List.range 16).map fun k => f (56 + 2 * k) 2
  let fields := decide (f 26 1 ≤ 1) && decide (f 27 1 ≤ 3) && decide (f 28 4 ≤ 15)
    && peers.zipIdx.all fun e => if e.2 < np then decide (e.1 ≤ 511) else decide (e.1 = 0)
  if 15 < i || 16 < np || !fields then .error 1
  else if np = 0 then
    if resident d ten then .error 2
    else .ok (.done (putStatus stat 0 (d.modTenant ten fun t => { t with wins := vset t.wins i none })))
  else if vb % 16384 ≠ 0 || vl = 0 || vl % 16384 ≠ 0 || 2 ^ 56 < vb + vl || f 48 8 % 4096 ≠ 0 then .error 1
  else if resident d ten then .error 2
  else if overlap vb vl t.hbase (t.hlim - t.hbase)
      || (t.wins.toList.zipIdx.any fun e => decide (e.2 ≠ i) && (match e.1 with | some w => overlap vb vl w.vbase w.vlen | none => false)) then .error 3
  else if f 26 1 = 1 && !windowKnown d ten vb vl then .ok (.retry d)
  else
    let w : Win := { np := np, pull := decide (f 26 1 = 1), rd := bit (f 27 1) 0, wr := bit (f 27 1) 1, rctx := f 28 4, vbase := vb, vlen := vl, rbase := f 48 8,
                     peers := peers.take np }
    let d := d.modTenant ten fun t => { t with wins := vset t.wins i (some w) }
    let d := if w.pull then (windowFrames d ten vb vl).foldl (fun d k => d.modFrame k fun x => { x with home := 6, pull := false }) d else d
    .ok (.done (putStatus stat 0 d))

/-- The managed frames of a BIAS or FREE record, or its status 1 (R374). -/
def frameRange (ten : Nat) (r : Rec) (d : Dev) : Except Nat (Nat × Nat) :=
  let a := recNum r 24 8
  let n := recNum r 32 4
  if n = 0 || 2 ^ 20 < n || 2 ^ 28 < a + n then .error 1
  else if d.mmu.frames.any fun e => decide (a ≤ e.1) && decide (e.1 < a + n) && e.2.owner.any fun o => decide (o ≠ ten) then .error 1
  else .ok (a, n)

/-- BIAS (R374, R381): the frames flip one at a time, and the status follows the last. -/
def execBias (s : State) : Out := memRecord s [(24, 13)] fun ten stat r d => do
  let (a, n) ← frameRange ten r d
  if 1 < recNum r 36 1 then throw 1
  return .done { d with mmu := { d.mmu with flips := some (a, n, stat, decide (recNum r 36 1 = 1)) } }

/-- BIAS_FLIP (R266, R381): the next frame of the BIAS record under way changes its mode at one place in the order. -/
def execBiasFlip (s : State) : Out := runEvent s fun _ d =>
  match d.mmu.flips with
  | none => none
  | some (f, n, stat, dev) =>
    -- accesses on their way to the host perform first (R266)
    if placedIn d (frameLoc f) 16384 || farIn d (frameLoc f) 16384 then none
    else
      let d := d.modFrame f fun x => { x with devBias := dev }
      some (if n ≤ 1 then putStatus stat 0 { d with mmu := { d.mmu with flips := none } }
        else { d with mmu := { d.mmu with flips := some (f + 1, n - 1, stat, dev) } })

/-- FREE (R374, R377, R384): the frames are released; each is scrubbed before it can be owned again, and one that waits for its scrub already
is among those whose end the status waits for. -/
def execFree (s : State) : Out := memRecord s [(24, 12)] fun ten stat r d => do
  let (a, n) ← frameRange ten r d
  let fs := (d.mmu.frames.filter fun e => decide (a ≤ e.1) && decide (e.1 < a + n)).map (·.1)
  return .done (scrubThen stat (fs.map fun f => { base := frameLoc f, len := 16384, frame := some f }) d)

/-- WMARK (R374, R380); whether the host link reaches a pool is the outside's answer, free (log 4). -/
def execWmark (s : State) : Out := memRecord s [(24, 1), (28, 8), (40, 16)] fun ten stat r d =>
  let f := recNum r
  let k := f 24 1
  if ten ≠ 0 then .ok (.fault 4)
  else if 3 < k || f 32 4 ≤ f 28 4 || f 40 8 % 16384 ≠ 0 || f 48 8 % 16384 ≠ 0 || ((k = 0 || k = 3) && (f 40 8 ≠ 0 || f 48 8 ≠ 0)) then .error 1
  else
    let (x, d) := d.draw
    if f 48 8 ≠ 0 && x % 2 = 1 then .ok (.done (putStatus stat 4 d))
    else
      let m := d.mmu
      let pools := if k = 1 || k = 2 then vset m.pools k (f 40 8, f 48 8) else m.pools
      .ok (.done (putStatus stat 0 { d with mmu := { m with low := vset m.low k (f 28 4), high := vset m.high k (f 32 4), pools := pools } }))

end Sys2Proof.Machine
end

