-- ==== Sys2Proof/Machine/BeadArray.lean ====
section
/-! DEFINITION. Major 0x33 and the completion of a wave (R213 to R230, R245). -/

namespace Sys2Proof.Machine

/-- Local inputs of a sequencer's share (R215). -/
def beadIns (s : Seq) : Nat := if s.place.mode = 0 then 128 else 64
/-- Local rods (R215). -/
def beadRods (s : Seq) : Nat := if s.place.mode = 2 then 64 else 128
/-- Delay of a cell: 63 where none was written (R216). -/
def Bead.cell (b : Bead) (i j : Nat) : Nat := b.cells.find (i * 128 + j) 63

/-- A rod's value of a wave (R213, R214). -/
def rodValue (b : Bead) (w : Wave) (j : Nat) : Nat :=
  let conn := (w.inputs.zipIdx.filter fun e => decide (b.cell e.2 j < 63)).map fun e => (e.1, e.1 + b.cell e.2 j)
  let rising := conn.filter fun e => decide (e.1 < 1023)
  let raw : Option Nat :=
    if w.mode = 0 then rising.foldl (fun m e => some (match m with | none => e.2 | some x => min x e.2)) none
    else if rising.length < conn.length then none
    else some (rising.foldl (fun m e => max m e.2) 0)
  match raw with
  | some v => if v < w.twin then v else 1023
  | none => 1023

/-- A rod's value as a reader sees it: 1023 until it has risen (R222). -/
def rodSeen (b : Bead) (w : Wave) (j : Nat) : Nat :=
  let v := rodValue b w j
  if v < 1023 && 4 + v / 4 < w.elapsed then v else 1023

/-- STATE's code (R226). -/
def BeadSt.code : BeadSt → Nat
  | .idle => 0
  | .run => 1
  | .done => 2

/-- Pairs of value and index put in ascending order, equal values in the order they come (R224). -/
def rankInsert (e : Nat × Nat) : List (Nat × Nat) → List (Nat × Nat)
  | [] => [e]
  | x :: l => if e.1 < x.1 then e :: x :: l else x :: rankInsert e l

namespace Op

/-- A bead instruction that needs STATE = IDLE (R217). -/
def beadIdle : SlotM Unit := do
  let s ← me
  check (decide (s.bead.st = .idle)) .beadState [s.bead.st.code]

/-- The wave that a capture reads: none in IDLE, an event when it is poisoned (R217, R227). A pop of an operand comes first, then
bead-state, column-bound and the event (the model's order, log 82). -/
def beadWave (g : Nat) : SlotM Wave := do
  let s ← me
  check (decide (s.bead.st ≠ .idle)) .beadState [s.bead.st.code]
  check (decide (16 * g < beadRods s)) .columnBound [g]
  match s.bead.wave with
  | none => trap .beadState [s.bead.st.code]
  | some w =>
    if w.psn then
      let i ← slotNo
      abort (.event 4 { cause := Cause.beadParity.code, slot := i, cont := [i, w.prow, g] } false)
    else return w

/-- Changes the bead state. -/
def modBead (f : Bead → Bead) : SlotM Unit := modMe fun s => { s with bead := f s.bead }

/-- Element number of a plain operand; the decoder admits no other here (R218). -/
def elemNo : Opnd → Nat
  | .elem n => n.val
  | _ => 0

/-- The bytes of m consecutive w1 elements. -/
def elemRun (a : Opnd) (m : Nat) : SlotM Bytes := do
  let s ← me
  let w1 := vget s.regs.views 1 0
  return s.spaceBytes (viewBase w1 + elemNo a * viewSize w1) (32 * m)

end Op

/-- BLOAD (R219): a pop's event, then bead-state, bead-config, column-bound (the model's order, log 82). -/
def execBload (a b : Opnd) (s : State) : Out := runSlot (do
  let r := (← Op.rdS b).toNat
  Op.beadIdle
  let x ← Op.me
  Op.check (decide (r < 128)) .beadConfig [r]
  Op.check (decide (r < beadIns x)) .columnBound [r]
  let m := if x.place.mode = 2 then 2 else 4
  let l ← Op.elemRun a m
  Op.modBead fun b => { b with cells := (l.zipIdx).foldl (fun t e =>
                                 if e.1.toNat % 64 = 63 then t.erase (r * 128 + e.2) else t.put (r * 128 + e.2) (e.1.toNat % 64)) b.cells,
                               badRows := b.badRows.filter fun x => decide (x ≠ r) }) s
/-- BMODE (R220). -/
def execBmode (n : BitVec 1) (s : State) : Out := runSlot (do
  Op.beadIdle
  Op.modBead fun b => { b with mode := n.toNat }) s
/-- BTWIN (R220): bead-state, then bead-config (the model's order, log 82). -/
def execBtwin (i : BitVec 14) (s : State) : Out := runSlot (do
  Op.beadIdle
  Op.check (decide (1 ≤ i.toNat) && decide (i.toNat ≤ 1023)) .beadConfig [i.toNat]
  Op.modBead fun b => { b with twin := i.toNat }) s
/-- BLNCH (R221, R227, R245): a row that an injection meets fails until a bload, one that is bad already stays bad (log 79). -/
def execBlnch (a : Opnd) (s : State) : Out := runSlot (do
  Op.beadIdle
  let x ← Op.me
  let n := beadIns x
  let row := bits x.regs.dinj.toNat 32 8 % n
  let (hit, y) := dinjEvent x [1]
  Op.modMe fun _ => y
  if hit then
    Op.modBead fun b => { b with badRows := insertNat row b.badRows }
  let l ← Op.elemRun a (n / 16)
  let ins := (List.range n).map fun i => leNat ((l.drop (2 * i)).take 2)
  Op.modBead fun b => { b with st := .run, wave := some { inputs := ins, mode := b.mode, twin := b.twin, psn := !b.badRows.isEmpty, prow := b.badRows.headD 0 } }) s
/-- BCAP (R223). -/
def execBcap (d : Opnd) (g : BitVec 6) (s : State) : Out := runSlot (do
  let t ← Op.target 1 d
  let w ← Op.beadWave g.toNat
  let b := (← Op.me).bead
  Op.put t 2 (BitVec.ofNat 256 (packLanes 16 ((List.range 16).map fun l => rodSeen b w (16 * g.toNat + l)))) (BitVec.allOnes 32)) s
/-- BRANK (R224). -/
def execBrank (d : Opnd) (g : BitVec 3) (k : BitVec 4) (s : State) : Out := runSlot (do
  let t ← Op.target 1 d
  let w ← Op.beadWave g.toNat
  let x ← Op.me
  let vals := ((List.range (beadRods x)).map fun j => (rodSeen x.bead w j, j)).filter fun e => decide (e.1 < 1023)
  let ranked := vals.foldl (fun l e => rankInsert e l) []
  Op.put t 2 (BitVec.ofNat 256 (packLanes 16 ((List.range 16).map fun l =>
    if l < k.toNat + 1 then ((ranked[16 * g.toNat + l]?).map (·.2)).getD 0xFFFF else 0xFFFF))) (BitVec.allOnes 32)) s
/-- BRST (R225). -/
def execBrst (s : State) : Out := runSlot (Op.modBead beadReset) s
/-- BSTAT (R226). -/
def execBstat (d : Opnd) (s : State) : Out := runSlot (do
  let t ← Op.target 0 d
  let b := (← Op.me).bead
  let (el, psn, prow) : Nat × Bool × Nat := match b.wave with
    | some w => (min w.elapsed 4095, w.psn, if w.psn then w.prow else 0)
    | none => (0, false, 0)
  Op.putS t 1 (BitVec.ofNat 64 (el * 2 ^ 32 + psn.toNat * 2 ^ 31 + prow * 2 ^ 24 + b.twin * 2 ^ 10 + b.mode * 4 + b.st.code)) true) s

/-- BEAD_WAVE_COMPLETE (R93, R222): at its cycle, which a sequencer that halts lets pass. -/
def execBeadWaveComplete (s : State) : Out := runEvent s fun t d =>
  match t with
  | .agent q _ =>
    let x := d.seq q
    match x.bead.wave with
    | some w =>
      if x.bead.st ≠ .run || !unitsRun d q then none
      else
        let e := if x.run = .halting then max w.elapsed (4 + ceilDiv w.twin 4) else w.elapsed
        some (d.setSeq q { x with bead := waveDone { x.bead with wave := some { w with elapsed := e } } })
    | none => none
  | _ => none

end Sys2Proof.Machine
end

