-- ==== Sys2Proof/Machine/Control.lean ====
section
/-! DEFINITION. Majors 0x00 to 0x03: control, branches, jumps, loops (R91 to R101). -/

namespace Sys2Proof.Machine

namespace Op

/-- A trap that is taken after the bundle: the lowest slot's stands (R94). -/
def trapAfter (m : Bool) (c : Cause) (code : Nat) : SlotM Unit := do
  if ← enabled m then
    let i ← slotNo
    modIss fun x => { x with after := x.after.or (some { cause := c.code, slot := i, cont := [code] }) }

/-- The bundle is a safe point (R24, R25, R95): it is held while stores drain and traps when it is busy. -/
def safePoint (hand : Bool) (k : Nat) : SlotM Unit := do
  let x ← get
  match safeGate (landDue x.iss.q x.base) x.iss.q (← slotNo) with
  | .error a => abort a
  | .ok _ => modIss fun x => { x with safe := some (hand, k) }

/-- The next bundle is bundle t of the current segment. -/
def branchTo (t : Nat) : SlotM Unit := modIss fun x => { x with next := some { x.pc with idx := t } }

/-- A branch whose condition holds goes to T (R96). -/
def branchIf (c : Bool) (t : Nat) : SlotM Unit := if c then branchTo t else pure ()

/-- Word k of a segment's jump-target table as memory holds it. Nothing holds the bundle for it (R72): bytes whose data are outstanding read
as they stood, and a word whose place is not known at the die reads as the expansion of the segment found it (log 72). -/
def tableWord (h : Half) (k : Nat) : SlotM Nat := do
  let x ← get
  let a := h.jtAddr + 8 * k
  match (seqWay x.dev x.iss.q a).loc? a with
  | some loc =>
    modDev fun d => touch d loc
    return (readNow x.dev loc 8 x.iss.q).getD (x.dev.mem.num loc 8)
  | none => return h.table.getD k 0

/-- The code pointers of the current segment's jump-target table (R312). -/
def jumpTable : SlotM (List Nat) := do
  match (← me).half with
  | none => return []
  | some h =>
    if !h.jt then return []
    let n ← tableWord h 0
    (List.range (if n ≤ 127 then n else 0)).mapM fun i => tableWord h (i + 1)

/-- A jump through a code pointer (R77, R78, R98): its target must lie in the current segment or in a segment of its table;
a segment that is not expanded holds the bundle, and one whose expansion failed traps. -/
def jumpTo (v : Nat) : SlotM Unit := do
  check (!badPtr v) .badTarget [v]
  let p := Pc.ofPtr v
  let s ← me
  let cur := (← get).iss.pc.seg
  if p.seg = cur then
    check (decide (p.idx < (s.half.map (·.bundles.length)).getD 0)) .badTarget [v]
  else
    check ((← jumpTable).any fun e => decide ((Pc.ofPtr e).seg = p.seg)) .badTarget [v]
    match s.other with
    | none => abort (.expand p.seg)
    | some o =>
      if o.seg ≠ p.seg then abort (.expand p.seg)
      -- a failed expansion traps at the bundle's end, once no earlier fault stands (R76)
      if !o.bad then check (decide (p.idx < o.bundles.length)) .badTarget [v]
  let i ← slotNo
  modIss fun x => { x with next := some p, nslot := i }

/-- Pushes a loop-index entry and starts the stages, or skips the body (R100). -/
def loopStart (count nstg t : Nat) : SlotM Unit := do
  let s ← me
  check (decide (count ≤ 2 ^ 32 - 1 - nstg)) .loopCount [count]
  if count = 0 then branchTo (t + 1)
  else
    check (decide (s.regs.loops.length < 6)) .loopStack [s.regs.loops.length]
    let first := ((← get).iss.pc.idx + 1) % 128
    pend .loopPush 1 (BitVec.ofNat 256 ((count + nstg) * 2 ^ 32 + first * 2 ^ 64)) 0x1FF#32
    if 0 < nstg then
      pend .stage 1 1 3
      modIss fun x => { x with loopSt := some 1 }

/-- One pass of a loop ends (R100). -/
def loopEnd (nstg : Nat) : SlotM Unit := do
  let s ← me
  match s.regs.loops with
  | [] => trap .loopStack [0]
  | e :: _ =>
    let r := (e.remaining.toNat + 2 ^ 32 - 1) % 2 ^ 32
    if 0 < r then
      pend .loopSet 1 (BitVec.ofNat 256 ((e.index.toNat + 1) % 2 ^ 32 + r * 2 ^ 32)) 0xFF#32
      if 0 < nstg then
        let st := (s.regs.stage.toNat * 2 + (if nstg < r then 1 else 0)) % 2 ^ (nstg + 1)
        pend .stage 1 (BitVec.ofNat 256 st) 3
        modIss fun x => { x with loopSt := some (BitVec.ofNat 16 st) }
      branchTo e.first.toNat
    else
      pend .loopPop 1 0 0
      if 0 < nstg then
        pend .stage 1 0 3
        modIss fun x => { x with loopSt := some 0 }

/-- A field of loop-index entry n to a scalar (R100). -/
def loopField (d : Opnd) (n : Nat) (f : LoopEnt → BitVec 32) : SlotM Unit := do
  let s ← me
  let v := ((s.regs.loops[n]?).map f).getD 0
  putS (← target 0 d) 1 (v.setWidth 64) true

end Op

/-- NOP (R92): n bundles in which nothing else happens. -/
def execNop (n : BitVec 14) (s : State) : Out := runSlot (Op.modIss fun x => { x with nop := n.toNat + 1 }) s
/-- HALT (R93). -/
def execHalt (s : State) : Out := runSlot (do
  let d := (← Op.me).region.levels.length
  Op.check (decide (d = 0)) .regionOpen [d]
  Op.modIss fun x => { x with halt := true }) s
/-- BKPT (R94). -/
def execBkpt (c : BitVec 14) (m : Bool) (s : State) : Out := runSlot (Op.trapAfter m .breakpoint c.toNat) s
/-- TRAP (R94). -/
def execTrap (c : BitVec 14) (m : Bool) (s : State) : Out := runSlot (Op.trapAfter m .software c.toNat) s
/-- SAFE (R95). -/
def execSafe (k : BitVec 7) (s : State) : Out := runSlot (Op.safePoint false k.toNat) s
/-- HOPT (R95): no request is ever posted to the top tier, so it acts as safe. -/
def execHopt (k : BitVec 7) (s : State) : Out := runSlot (Op.safePoint true k.toNat) s

/-- BR_T (R96). -/
def execBrT (p : BitVec 4) (l : BitVec 6) (t : BitVec 7) (s : State) : Out :=
  runSlot (do Op.branchIf (((← Op.me).pred p.toNat).getLsbD l.toNat) t.toNat) s
/-- BR_F (R96). -/
def execBrF (p : BitVec 4) (l : BitVec 6) (t : BitVec 7) (s : State) : Out :=
  runSlot (do Op.branchIf (!((← Op.me).pred p.toNat).getLsbD l.toNat) t.toNat) s
/-- BR_ANY (R96). -/
def execBrAny (p : BitVec 4) (t : BitVec 7) (s : State) : Out :=
  runSlot (do Op.branchIf (decide ((← Op.me).pred p.toNat ≠ 0)) t.toNat) s
/-- BR_NONE (R96). -/
def execBrNone (p : BitVec 4) (t : BitVec 7) (s : State) : Out :=
  runSlot (do Op.branchIf (decide ((← Op.me).pred p.toNat = 0)) t.toNat) s
/-- BR_ALL (R96). -/
def execBrAll (p : BitVec 4) (t : BitVec 7) (s : State) : Out :=
  runSlot (do Op.branchIf (decide ((← Op.me).pred p.toNat = BitVec.allOnes 64)) t.toNat) s
/-- BR_NALL (R96). -/
def execBrNall (p : BitVec 4) (t : BitVec 7) (s : State) : Out :=
  runSlot (do Op.branchIf (decide ((← Op.me).pred p.toNat ≠ BitVec.allOnes 64)) t.toNat) s

/-- JMP (R97). -/
def execJmp (a : Opnd) (m : Bool) (s : State) : Out := runSlot (do
  let v ← Op.rdS a
  if ← Op.enabled m then Op.jumpTo v.toNat) s
/-- CALL (R97): the return pointer names the bundle that follows, or bundle 0 of NEXT. -/
def execCall (d a : Opnd) (m : Bool) (s : State) : Out := runSlot (do
  let v ← Op.rdS a
  let x ← Op.me
  let on ← Op.enabled m
  let t ← Op.target 0 d
  let pc := (← get).iss.pc
  let back := (x.half.bind fun h => fallThrough h pc).getD { seg := 0 }
  Op.putS t 1 (BitVec.ofNat 64 back.ptr) on
  if on then Op.jumpTo v.toNat) s
/-- RET (R97): as jmp. -/
def execRet (a : Opnd) (m : Bool) (s : State) : Out := runSlot (do
  let v ← Op.rdS a
  if ← Op.enabled m then Op.jumpTo v.toNat) s
/-- JTAB (R97, R98, R312). -/
def execJtab (d : Opnd) (n : BitVec 14) (m : Bool) (s : State) : Out := runSlot (do
  let on ← Op.enabled m
  let t ← Op.target 0 d
  if on then
    match (← Op.jumpTable)[n.toNat]? with
    | some v => Op.putS t 1 (BitVec.ofNat 64 v) true
    | none => Op.trap .badTarget [n.toNat]
  else Op.putS t 1 0 false) s

/-- LOOP (R100). -/
def execLoop (a : Opnd) (n : BitVec 4) (t : BitVec 7) (s : State) : Out :=
  runSlot (do Op.loopStart (← Op.rdS a).toNat n.toNat t.toNat) s
/-- LOOPI (R100). -/
def execLoopi (c : BitVec 11) (n : BitVec 4) (t : BitVec 7) (s : State) : Out := runSlot (Op.loopStart c.toNat n.toNat t.toNat) s
/-- ENDL (R100). -/
def execEndl (n : BitVec 4) (s : State) : Out := runSlot (Op.loopEnd n.toNat) s
/-- MVI (R100). -/
def execMvi (d : Opnd) (n : BitVec 3) (s : State) : Out := runSlot (Op.loopField d n.toNat (·.index)) s
/-- MVTC (R100). -/
def execMvtc (d : Opnd) (n : BitVec 3) (s : State) : Out := runSlot (Op.loopField d n.toNat (·.remaining)) s
/-- LPOP (R100). -/
def execLpop (s : State) : Out := runSlot (do
  Op.check (!(← Op.me).regs.loops.isEmpty) .loopStack [0]
  Op.pend .loopPop 1 0 0) s

end Sys2Proof.Machine
end

