-- ==== Sys2Proof/Machine/Curve.lean ====
section
/-! DEFINITION. ECDSA over the curve P-384, which R315 and R398 name: the signature holds for a key when the key is one of those that r, s
and the digest determine. -/

namespace Sys2Proof.Machine

/-- The prime of P-384. -/
def curveP : Nat := 2 ^ 384 - 2 ^ 128 - 2 ^ 96 + 2 ^ 32 - 1
/-- The coefficient b of P-384; a is -3. -/
def curveB : Nat := 0xB3312FA7E23EE7E4988E056BE3F82D19181D9C6EFE8141120314088F5013875AC656398D8A2ED19D2A85C8EDD3EC2AEF
/-- The order of P-384's base point. -/
def curveN : Nat := 0xFFFFFFFFFFFFFFFFFFFFFFFFFFFFFFFFFFFFFFFFFFFFFFFFC7634D81F4372DDF581A0DB248B0A77AECEC196ACCC52973
/-- The base point's x. -/
def curveGx : Nat := 0xAA87CA22BE8B05378EB1C71EF320AD746E1D3B628BA79B9859F741E082542A385502F25DBF55296C3A545E3872760AB7
/-- The base point's y. -/
def curveGy : Nat := 0x3617DE4A96262C6F5D9E98BF9292DC29F8F41DBD289A147CE9DA3113B5F0B8C00A60B1CE1D7E819D7A431D7C90EA0E5F

/-- A number is worked out before it is used: what a function makes of it, by cases on it. -/
def withNat {α : Type} (x : Nat) (f : Nat → α) : α :=
  match x with
  | 0 => f 0
  | k + 1 => f (k + 1)

/-- b to the power e modulo m, from a start value, for an exponent below 2^fuel. -/
def powMod (b e m : Nat) : Nat → Nat → Nat
  | 0, acc => acc
  | k + 1, acc => withNat (if bit e k then acc * acc % m * b % m else acc * acc % m) (powMod b e m k)

/-- The inverse of b modulo a prime below 2^384. -/
def invMod (b m : Nat) : Nat := powMod (b % m) (m - 2) m 384 1

/-- A point as x / z², y / z³; z = 0 is the point at infinity. -/
structure CurvePt where
  x : Nat
  y : Nat
  z : Nat
  deriving DecidableEq, Repr

/-- A point of three numbers, worked out. -/
def mkPt (x y z : Nat) : CurvePt := withNat x fun x => withNat y fun y => withNat z fun z => { x := x, y := y, z := z }

/-- The difference modulo the prime. -/
def subP (a b : Nat) : Nat := (a + curveP - b % curveP) % curveP

/-- A point added to itself. -/
def CurvePt.double (a : CurvePt) : CurvePt :=
  withNat (a.z * a.z % curveP) fun zz =>
  withNat (a.y * a.y % curveP) fun yy =>
  withNat (4 * a.x * yy % curveP) fun s =>
  withNat (3 * subP a.x zz * (a.x + zz) % curveP) fun m =>
  withNat (subP (m * m) (2 * s)) fun x =>
  mkPt x (subP (m * subP s x) (8 * yy * yy)) (2 * a.y * a.z % curveP)

/-- The sum of two points. -/
def CurvePt.add (a b : CurvePt) : CurvePt :=
  if a.z = 0 then b else if b.z = 0 then a else
  withNat (a.z * a.z % curveP) fun za =>
  withNat (b.z * b.z % curveP) fun zb =>
  withNat (a.x * zb % curveP) fun ua =>
  withNat (subP (b.x * za) ua) fun h =>
  withNat (a.y * zb % curveP * b.z % curveP) fun sa =>
  withNat (subP (b.y * za % curveP * a.z) sa) fun r =>
  if h = 0 then (if r = 0 then a.double else { x := 1, y := 1, z := 0 })
  else
    withNat (h * h % curveP) fun hh =>
    withNat (hh * h % curveP) fun h3 =>
    withNat (ua * hh % curveP) fun v =>
    withNat (subP (r * r) (h3 + 2 * v)) fun x =>
    mkPt x (subP (r * subP v x) (sa * h3)) (a.z * b.z % curveP * h % curveP)

/-- a·p + b·q for factors below 2^fuel; `pq` is p + q. -/
def sumMul (a b : Nat) (p q pq : CurvePt) : Nat → CurvePt → CurvePt
  | 0, acc => acc
  | k + 1, acc =>
    sumMul a b p q pq k (match bit a k, bit b k with
      | true, true => acc.double.add pq
      | true, false => acc.double.add p
      | false, true => acc.double.add q
      | false, false => acc.double)

/-- The point's x and y; none at infinity. -/
def CurvePt.affine (a : CurvePt) : Option (Nat × Nat) :=
  if a.z = 0 then none
  else withNat (invMod a.z curveP) fun i => withNat (i * i % curveP) fun ii => some (a.x * ii % curveP, a.y * ii % curveP * i % curveP)

/-- The points of the curve with an x coordinate. -/
def liftX (x : Nat) : List CurvePt :=
  if curveP ≤ x then []
  else
    withNat (subP (x * x * x + curveB) (3 * x)) fun c =>
    withNat (powMod c ((curveP + 1) / 4) curveP 384 1) fun y =>
    if y * y % curveP ≠ c then [] else [mkPt x y 1, mkPt x (subP 0 y) 1]

/-- The public keys for which (r, s) is a signature of a digest: Q = (s R - z G) / r for the points R whose x is r modulo n. -/
def signersOf (r s z : Nat) : List (Nat × Nat) :=
  let g : CurvePt := { x := curveGx, y := curveGy, z := 1 }
  withNat (invMod r curveN) fun i =>
  withNat ((curveN - z % curveN) * i % curveN) fun u =>
  withNat (s * i % curveN) fun v =>
  (liftX r ++ liftX (r + curveN)).filterMap fun p => (sumMul u v g p (g.add p) 384 { x := 1, y := 1, z := 0 }).affine

/-- ECDSA P-384 (R315): the signature (r, s) of a SHA-384 digest holds for the public key whose SEC1 uncompressed form has the SHA-384
`keyid`. -/
def ecdsaOk (keyid r s digest : Bytes) : Bool :=
  let a := beNat r
  let b := beNat s
  decide (0 < a) && decide (a < curveN) && decide (0 < b) && decide (b < curveN)
    && (signersOf a b (beNat digest)).any fun q => decide (sha384 (0x04#8 :: toBe 48 q.1 ++ toBe 48 q.2) = keyid)

end Sys2Proof.Machine
end

