-- ==== Sys2Proof/Machine/Firmware.lean ====
section
/-! DEFINITION. The live update of the Gaffer: FWUP, the check unit, the slot switch and its heartbeat (R394 to R404, R416). -/

namespace Sys2Proof.Machine

/-- Control-core pairs of the form (R1). -/
def pairCount (d : Dev) : Nat := if d.form = .cd then 4 else 16

/-- A control core as it starts at a code pointer, with values in s1 and s2 (R66, R394, R396). -/
def controlSeq (ptr s1 s2 : Nat) : Seq :=
  ({ run := .running, pc := Pc.ofPtr ptr, place := { granules := 16, control := true } } : Seq).putSpace 8 ((toLe 8 s1 ++ toLe 8 s2).map fun b => (b, true))

/-! ### FWUP (R396) -/

/-- The stream list of the update routine: a count and one entry per enabled tenant stream. -/
def streamList (d : Dev) : Bytes :=
  let l := ((List.range 128).filter fun k => (d.tenant (k / 8)).active && decide ((d.stream (k / 8) (k % 8)).state ≠ 0)).flatMap fun k =>
    toLe 8 (blockLoc d (k / 8) (k % 8)) ++ toLe 8 (k / 8 + 256 * (k % 8))
  toLe 8 (l.length / 16) ++ l

/-- FWUP (R396): it is held while a status is awaited; then the leader's update routine starts with the record's address and its stream list, which stands in the firmware
store (log 13). -/
def execFwup (s : State) : Out := runRecord s fun ten m r d =>
  let f := recNum r
  let inHbm (a n : Nat) : Bool := decide (a % 4096 = 0) && decide (a + n ≤ hbmSize d)
  if statusPending d then .hold d
  else if f 16 8 % 4096 ≠ 0 || f 16 8 < 65536 || 2 ^ 24 < f 16 8 || f 32 4 = 0 || 10000 < f 32 4 || !recZero r 36 4 || !recZero r 48 16 || !recZero r 112 16 then .fault 4
  else if !inHbm (f 8 8) (f 16 8) || !inHbm (f 24 8) 4096 || f 40 8 % 8 ≠ 0 || !physOk d (f 40 8) 8 then .fault 5
  else
    let a := streamByte d ten m (d.stream ten m).rix
    let l := Config.fwStore 0
    let d := match physWay d l with
      | .here loc _ _ => placeBytes d gafferAgent loc (streamList d)
      | _ => d
    let d := d.setSeq leaderSeq (controlSeq (Config.updateEntry (vget d.fw.slots d.fw.act [])) a l)
    .done { d with fw := { d.fw with updating := true, stat := f 40 8 } }

/-! ### The check unit (R398) -/

/-- Whether the memory operations of a core before a landed fchk write have performed: those of a trapped core that no data will come for
never will (R404). -/
def settledBefore (d : Dev) (q limit : Nat) (asg : List Nat) : Bool :=
  let x := d.seq q
  ((x.ord ++ x.side).all fun o => decide (limit ≤ o.id)) && ((decide (x.run = .trapped) && x.pend.isEmpty) || d.placed.all fun
    | .store o c i _ _ _ _ none => decide (o ≠ q) || decide (asg.getD c 0 ≤ i)
    | _ => true)

/-- FCHK_WRITE (R398): the check starts once what the core pushed earlier has performed, unless one runs. -/
def execFchkWrite (s : State) : Out := runEvent s fun _ d =>
  match d.fw.pendChk with
  | none => none
  | some (q, a, limit, asg) =>
    if !settledBefore d q limit asg then none
    else some { d with fw := { d.fw with pendChk := none, checking := some (d.fw.checking.getD a) } }

/-- The status of an image check, in order (R398): 1 when it passes. -/
def checkStatus (d : Dev) (n : Nat) (dig b : Bytes) : Nat :=
  let g := b.drop (n - 256)
  if n % 4096 ≠ 0 || n < 65536 || 2 ^ 24 < n || headField b 0 4 ≠ 0x5A474657 || headField b 4 4 ≠ 0 then 0x11
  else if !((List.range 8).any fun k => decide (Config.fwKey k = g.take 48) && !Config.fwRevoked k) || headField g 144 112 ≠ 0
      || !ecdsaOk (g.take 48) ((g.drop 48).take 48) ((g.drop 96).take 48) (sha384 (b.take (n - 256))) then 0x12
  else if headField b 8 8 < d.fleet.fwsc.foldl max 0 then 0x13
  else if sha384 b ≠ dig then 0x14 else 1

/-- FIRMWARE_CHECK_COMPLETE (R398): an image that passes is installed in the idle slot; STAT is written last. -/
def execFirmwareCheckComplete (s : State) : Out := runEvent s fun _ d =>
  match d.fw.checking with
  | none => none
  | some a =>
    let rd (o n : Nat) : Nat := gget d (a + o) n
    let n := rd 16 8
    let dig := ggetBytes d (a + 64) 48
    let b := ggetBytes d (rd 8 8) (min n (2 ^ 24))
    let v := checkStatus d n dig b
    let idle := 1 - d.fw.act
    let stat := rd 40 8
    let d := { d with fw := { d.fw with checking := none } }
    let d := if v = 1 then { d with fw := { d.fw with slots := vset d.fw.slots idle b, meas := vset d.fw.meas idle dig, chk := true } } else d
    some (gput d stat 8 v)

/-! ### The switch (R400 to R403) -/

/-- FSW_WRITE (R400): the write of the leader's last bundle lands, and so does everything that it left in flight. -/
def execFswWrite (s : State) : Out := runEvent s fun _ d =>
  match List.find? (fun e : Nat × Seq => decide (1024 ≤ e.1) && e.2.pend.any fun w => decide (w.tgt = .sysreg 0x63)) d.seqs with
  | none => none
  | some (q, _) => some (landAll q 32 d)

/-- SLOT_SWITCH (R400, R416, R417): once the leader's earlier operations and what control cores have placed have performed, every control core
stops and is saved, the slot changes, and the new image boots under the heartbeat timer: on every healthy pair, or on both cores of every
pair where no errors are watched for. -/
def execSlotSwitch (s : State) : Out := runEvent s fun _ d =>
  match d.fw.pendFsw with
  | none => none
  | some (q, v) =>
    let own (a : Nat) : Bool := decide (1024 ≤ a) && decide (a < 2048)
    if !settledBefore d q (d.seq q).opCtr ((d.seq q).cols.toList.map (·.sdAsg)) || (d.seq q).unacked ≠ 0 || d.fw.pendChk.isSome
        || (d.placed.any fun p => own p.range.1) || (d.splits.any fun x => own x.own) then none
    else
      let slot := bits v.toNat 16 1
      let cores : Tab Seq := d.seqs.filter fun e => decide (1024 ≤ e.1)
      let rest : Tab Seq := d.seqs.filter fun e => decide (e.1 < 1024)
      let unprot := d.fleet.unprotNext
      let healthy := ((List.range (pairCount d)).filter fun k => !d.fleet.failed.getLsbD k).length
      let qs := span leaderSeq (if unprot then 2 * pairCount d else healthy)
      let boot := controlSeq (Config.bootEntry (vget d.fw.slots slot [])) 0 0
      some { d with seqs := qs.foldl (fun (t : Tab Seq) k => t.put k boot) rest,
                    fw := { d.fw with act := slot, ucnt := d.fw.ucnt + 1, rbkFlag := false, chk := false, gstat := 2, pendFsw := none, pendFhb := none,
                                      switching := some (d.fw.act, cores), oldUnprot := d.fleet.unprot },
                    fleet := { d.fleet with unprot := unprot } }

/-- FHB_WRITE (R401, R403): the right value, while a switch is pending, is the new image's heartbeat: the Gaffer runs again, and the
new image writes 0 to STAT. -/
def execFhbWrite (s : State) : Out := runEvent s fun _ d =>
  match d.fw.pendFhb with
  | none => none
  | some _ =>
    let d := stopCores { d with fw := { d.fw with pendFhb := none, switching := none, gstat := 1, updating := false } }
    some (pass (gput d d.fw.stat 8 0))

/-- HEARTBEAT_TIMEOUT (R402): not once the right heartbeat has been made (R401). -/
def execHeartbeatTimeout (s : State) : Out := runEvent s fun _ d =>
  if d.fw.switching.isSome && d.fw.pendFhb.isNone then some (switchBack d) else none

/-! ### Reset (R348, R416) -/

/-- RESET (R348, R409, R411, R416): fuses, firmware slots and host memory stay; after a power loss the power-on values stand too. The
Gaffer starts, and runs. -/
def execReset (s : State) : Out :=
  let d := s.dev
  let f := d.fleet
  let on : Dev := {}
  let mem := d.mem.filter fun c => decide (hostLoc ≤ c.1) && decide (c.1 < gafferLoc)
  let cold := f.off
  let fleet : Fleet :=
    { plim := if cold then 1500 else f.plim, mlim := if d.form = .m640 then (if cold then 2000 else f.mlim) else 0, twarn := if cold then 95 else f.twarn,
      unprot := !cold && f.unprotNext, unprotNext := !cold && f.unprotNext, lowv := !cold && f.lowv, secc := f.secc, fwsc := f.fwsc, keys := f.keys }
  let fw : Fw := { act := d.fw.act, ucnt := if cold then 0 else d.fw.ucnt, slots := d.fw.slots, meas := d.fw.meas, gstat := 1 }
  .next { s with issue := none, base := {},
                 dev := { on with form := d.form, mem := mem, fleet := fleet, fw := fw, adma := if cold then 0 else d.adma, drawn := d.drawn } }

end Sys2Proof.Machine
end

