-- ==== Sys2Proof/Machine/FleetOps.lean ====
section
/-! DEFINITION. Fleet operation: FLEET records, the power arbiter, monitors, L2 modes, lockstep and ports (R405, R409 to R420). -/

namespace Sys2Proof.Machine

/-! ### FLEET records (R405) -/

/-- A FLEET record: reserved bytes and the status address are checked, and its operation answers a device and a status. `used` are
the body's bytes that it has. -/
def fleetRecord (s : State) (used : List (Nat × Nat)) (f : Rec → Dev → Dev × Nat) : Out := runRecord s fun _ _ r d =>
  let stat := recNum r 16 8
  let spare := (List.range 104).all fun i => (used.any fun u => decide (u.1 ≤ 24 + i) && decide (24 + i < u.1 + u.2)) || recZero r (24 + i) 1
  if !recZero r 9 7 || !spare then .fault 4
  else if !statOk d stat then .fault 5
  else let (d, v) := f r d; .done (putStatus stat v d)

/-- POWER (R411). -/
def execPower (s : State) : Out := fleetRecord s [(24, 5)] fun r d =>
  let p := recNum r 24 2
  let m := recNum r 26 2
  let w := recNum r 28 1
  let modOk := if d.form = .m640 then decide (400 ≤ m) && decide (m ≤ 2000) else decide (m = 0)
  if p < 300 || 1500 < p || !modOk || w < 60 || 95 < w then (d, 1)
  else ({ d with fleet := { d.fleet with plim := p, mlim := m, twarn := w } }, 0)

/-- RAS (R416): UNPROT waits for the next start of the Gaffer. -/
def execRas (s : State) : Out := fleetRecord s [(24, 1)] fun r d =>
  let v := recNum r 24 1
  if 3 < v then (d, 1) else ({ d with fleet := { d.fleet with unprotNext := bit v 0, lowv := bit v 1 } }, 0)

/-- ADVANCE (R419). -/
def execAdvance (s : State) : Out := fleetRecord s [(24, 1), (32, 8)] fun r d =>
  let c := recNum r 24 1
  let v := recNum r 32 8
  let l := if c = 0 then d.fleet.secc else d.fleet.fwsc
  if 1 < c || v ≤ l.foldl max 0 then (d, 1)
  else if 256 ≤ l.length then (d, 2)
  else if c = 0 then ({ d with fleet := { d.fleet with secc := l ++ [v] } }, 0)
  else ({ d with fleet := { d.fleet with fwsc := l ++ [v] } }, 0)

/-- KEYADD (R420). -/
def execKeyadd (s : State) : Out := fleetRecord s [(24, 2), (32, 48)] fun r d =>
  let k := recNum r 25 1
  let x := vget d.fleet.keys k {}
  if recNum r 24 1 ≠ 0 || 7 < k || x.digest.isSome then (d, 1)
  else ({ d with fleet := { d.fleet with keys := vset d.fleet.keys k { x with digest := some (toLe 48 (recNum r 32 48)) } } }, 0)

/-- KEYREV (R420). -/
def execKeyrev (s : State) : Out := fleetRecord s [(24, 2)] fun r d =>
  let k := recNum r 25 1
  let x := vget d.fleet.keys k {}
  if recNum r 24 1 ≠ 0 || 7 < k || x.digest.isNone then (d, 1)
  else ({ d with fleet := { d.fleet with keys := vset d.fleet.keys k { x with revoked := true } } }, 0)

/-! ### Fleet events and dies (R409, R410, R413 to R415) -/

/-- A fleet event is counted and a message goes to PF0 vector 3 (R413). -/
def fleetEvent (k : Nat) (d : Dev) : Dev :=
  let f := d.fleet
  signalMsi 16 3 { d with fleet := { f with events := vset f.events k ((vget f.events k 0 + 1) % 2 ^ 64) } }

/-- Die k. -/
def dieOfFleet (d : Dev) (k : Nat) : Die := vget d.fleet.dies k {}
/-- The device with die k changed. -/
def modDie (k : Nat) (f : Die → Die) (d : Dev) : Dev := { d with fleet := { d.fleet with dies := vset d.fleet.dies k (f (dieOfFleet d k)) } }

/-- A die's L2 changes its protection mode (R414). -/
def l2Switch (k : Nat) (on : Bool) (d : Dev) : Dev :=
  if (dieOfFleet d k).decTed = on then d else fleetEvent 3 (modDie k (fun x => { x with decTed := on }) d)

/-- An error of so many bits in what a die's L2 holds of a location (R414): DEC-TED corrects two bits and SEC-DED one; more poison the data
(R243). -/
def l2Upset (k loc n bits : Nat) (d : Dev) : Dev :=
  if dieCount d ≤ k || bits = 0 then d
  else if bits ≤ (if (dieOfFleet d k).decTed then 2 else 1) then modDie k (fun x => { x with corrected := x.corrected + 1 }) d
  else markPoison d loc n

/-- A grant one step lower. -/
def lower (k : Nat) (d : Dev) : Dev := modDie k (fun x => { x with grant := max 400 (x.grant - 25) }) d

/-- The package limit in mW (R409). -/
def powerLimit (d : Dev) (x : Sensors) : Int :=
  let p : Int := 1000 * (d.fleet.plim : Int)
  if d.form = .m640 then min p (1000 * (d.fleet.mlim : Int) - ((x.mod : Int) - x.pkg)) else p

/-- The readings of a step are taken, with the events of dies that cross TWARN or reach TCRIT (R409, R412, R413). -/
def readDie (x : Sensors) (d : Dev) (k : Nat) : Dev :=
  let t : Int := sx 16 (x.temp.getD k 0)
  let w : Int := 8 * (d.fleet.twarn : Int)
  let old := dieOfFleet d k
  let d := if old.temp ≤ w && w < t then fleetEvent 0 d else d
  let hot := decide (840 ≤ t) || (old.tcrit && decide (800 ≤ t))
  let d := if hot && !old.tcrit then fleetEvent 1 d else d
  let d := modDie k (fun y => { y with temp := t, sram := x.sram.getD k 0 % 2 ^ 16, coreRail := x.coreRail.getD k 0 % 2 ^ 16, tcrit := hot }) d
  -- a rail that is below VTH switches the L2 at once (R415)
  if (dieOfFleet d k).sram < Config.vth k then l2Switch k true d else d

/-- The first of some dies that is extreme in a measure. -/
def firstDie (l : List Nat) (better : Nat → Nat → Bool) : Option Nat :=
  l.foldl (fun b k => match b with | some a => if better k a then some k else some a | none => some k) none

/-- Throttle reasons of a die after a step (R412): package limit, module limit, TWARN, TCRIT; droop is the detector's. -/
def reasonsOf (d : Dev) (x : Sensors) (k : Nat) (y : Die) : BitVec 5 :=
  let held := decide (y.grant < 1000) && decide (19 * powerLimit d x ≤ 20 * (x.pkg : Int))
  let pkg := decide (powerLimit d x = 1000 * (d.fleet.plim : Int))
  BitVec.ofNat 5 ((held && pkg).toNat + 2 * (held && !pkg).toNat + 4 * (decide (8 * (d.fleet.twarn : Int) < y.temp)).toNat + 8 * y.tcrit.toNat
    + 16 * bits (dieOfFleet d k).reasons.toNat 4 1)

/-- The arbiter's rail for a die (R415): it may drive the SRAM rail below VTH when LOWV is set and the grant allows it; whether it
does is its choice, free, and so is the level that it drives it to (log 4). The L2 switches first. -/
def railStep (d : Dev) (k : Nat) : Dev :=
  let (x, d) := d.draw
  if d.fleet.lowv && decide ((dieOfFleet d k).grant ≤ 600) && decide (x % 2 = 1) then
    modDie k (fun y => { y with sram := x / 2 % Config.vth k }) (l2Switch k true d)
  else d

/-- POWER_ARBITER_STEP (R409, R413, R415). -/
def execPowerArbiterStep (s : State) : Out := runEvent s fun t d =>
  match t with
  | .sensors x =>
    let dies := List.range (dieCount d)
    let d := { d with fleet := { d.fleet with pkg := x.pkg, mod := x.mod } }
    let d := dies.foldl (readDie x) d
    let lim := powerLimit d x
    let warm := dies.filter fun k => decide (8 * (d.fleet.twarn : Int) < (dieOfFleet d k).temp)
    let d :=
      if lim < (x.pkg : Int) || !warm.isEmpty then
        let d := match firstDie dies fun a b => decide (x.diePower.getD b 0 < x.diePower.getD a 0) with | some k => lower k d | none => d
        warm.foldl (fun d k => lower k d) d
      else if 20 * (x.pkg : Int) < 19 * lim then
        match firstDie dies fun a b => decide ((dieOfFleet d a).grant < (dieOfFleet d b).grant) with
        | some k => modDie k (fun y => { y with grant := min 1000 (y.grant + 25) }) d
        | none => d
      else d
    let d := dies.foldl (fun d k => modDie k (fun y => if y.tcrit then { y with grant := 400 } else y) d) d
    let d := dies.foldl (fun d k => modDie k (fun y => { y with reasons := reasonsOf d x k y }) d) d
    let held := decide (19 * lim ≤ 20 * (x.pkg : Int)) && dies.any fun k => decide ((dieOfFleet d k).grant < 1000)
    let d := if held then fleetEvent 2 d else d
    some (dies.foldl railStep d)
  | _ => none

/-- DROOP_STRETCH (R410, R412). -/
def execDroopStretch (s : State) : Out := runEvent s fun t d =>
  match t with
  | .agent k _ => if dieCount d ≤ k then none else some (modDie k (fun x => { x with reasons := x.reasons ||| 16#5 }) d)
  | _ => none

/-- DROOP_END (R410, R412). -/
def execDroopEnd (s : State) : Out := runEvent s fun t d =>
  match t with
  | .agent k _ => if dieCount d ≤ k then none else some (modDie k (fun x => { x with reasons := x.reasons &&& 15#5 }) d)
  | _ => none

/-- TCRIT_REACHED (R409, R413). -/
def execTcritReached (s : State) : Out := runEvent s fun t d =>
  match t with
  | .agent k _ =>
    if dieCount d ≤ k || (dieOfFleet d k).tcrit then none
    else some (fleetEvent 1 (modDie k (fun x => { x with tcrit := true, grant := 400, reasons := x.reasons ||| 8#5 }) d))
  | _ => none

/-- THERMAL_SHUTDOWN (R411): power goes, and with it every state but fuses, flash and the host's memory. -/
def execThermalShutdown (s : State) : Out := runEvent s fun t d =>
  match t with
  | .agent k _ => if dieCount d ≤ k then none else some { d with fleet := { d.fleet with off := true } }
  | _ => none

/-- SRAM_RAIL_BELOW_VTH (R415): the reading is any value below VTH. -/
def execSramRailBelowVth (s : State) : Out := runEvent s fun t d =>
  match t with
  | .agent k _ =>
    if dieCount d ≤ k then none
    else
      let (x, d) := d.draw
      some (l2Switch k true (modDie k (fun y => { y with sram := x % Config.vth k }) d))
  | _ => none

/-- RAIL_RECOVERY_TIMEOUT (R415): the rail has stayed above VTH + 20 mV for 1 ms. -/
def execRailRecoveryTimeout (s : State) : Out := runEvent s fun t d =>
  match t with
  | .agent k _ =>
    if dieCount d ≤ k || !(dieOfFleet d k).decTed || (dieOfFleet d k).sram ≤ Config.vth k + 20 then none else some (l2Switch k false d)
  | _ => none

/-! ### Lockstep (R417) -/

/-- A pair is marked failed; its tasks, the leader's among them, pass on to the pairs that are left and keep their sequencers. With none
left no control core runs. -/
def failPair (k : Nat) (d : Dev) : Dev :=
  let f := d.fleet
  let failed := f.failed ||| BitVec.ofNat 16 (2 ^ k)
  let d := fleetEvent 5 { d with fleet := { f with failed := failed, retried := f.retried &&& ~~~(BitVec.ofNat 16 (2 ^ k)) } }
  if (List.range (pairCount d)).any fun j => !failed.getLsbD j then d
  else
    let d := stopCores d
    { d with fw := { d.fw with gstat := 3, switching := none, pendFhb := none, pendFsw := none, pendChk := none } }

/-- LOCKSTEP_MISMATCH (R417): a first mismatch of a task is re-run from its checkpoint, so nothing outside the pair changes; whether a
later one falls into the same task is free (log 4). -/
def execLockstepMismatch (s : State) : Out := runEvent s fun t d =>
  match t with
  | .agent k _ =>
    if pairCount d ≤ k || d.fleet.failed.getLsbD k || d.fleet.unprot then none
    else
      let d := fleetEvent 4 d
      let (x, d) := d.draw
      if d.fleet.retried.getLsbD k && x % 2 = 1 then some (failPair k d)
      else some { d with fleet := { d.fleet with retried := d.fleet.retried ||| BitVec.ofNat 16 (2 ^ k) } }
  | _ => none

/-! ### Fabric ports (R418) -/

/-- PORT_LANE_LOSS (R418): the port retrains on the lanes that are left; the flits replayed are a free number. -/
def execPortLaneLoss (s : State) : Out := runEvent s fun t d =>
  match t with
  | .agent p n =>
    let x := vget d.fleet.ports p {}
    if 48 ≤ p || (portTo d x.peer).isNone || x.st = 0 || n = 0 || x.lanes ≤ n then none
    else
      let (r, d) := d.draw
      some (fleetEvent 6 (modPortOf p (fun y =>
        { y with lanes := n, st := 1, err := BitVec.ofNat 64 (setBits y.err.toNat 0 32 (bits y.err.toNat 0 32 + r)) }) d))
  | _ => none

/-- PORT_DOWN (R418, R191, R264): what used the port gets no answer; where another port leads to the same peer, which writes used
this one is free (log 4). -/
def execPortDown (s : State) : Out := runEvent s fun t d =>
  match t with
  | .agent p _ =>
    let x := vget d.fleet.ports p {}
    if 48 ≤ p || x.st = 0 then none
    else
      let d := fleetEvent 7 (modPortOf p (fun y => { y with lanes := 0, st := 0 }) d)
      let others := d.fleet.ports.toList.any fun y => decide (0 < y.lanes) && decide (y.peer = x.peer)
      let d := (d.peerOut.filter fun o => decide (o.dev = x.peer) && o.data.isSome).foldl (fun d o =>
        let b := Config.freeBit d.drawn
        let d := { d with drawn := d.drawn + 1 }
        if others && b then d else acknowledge o.agent o.n .unreachable { d with peerOut := d.peerOut.erase o }) d
      some d
  | _ => none

/-- PORT_UP (R418), which a bare die has none of (R1): lanes in the low three bits of the second number, the peer above them. A port that
is down begins to train; one that trains comes up with its lanes, and one that retrains after a loss of lanes goes on degraded. -/
def execPortUp (s : State) : Out := runEvent s fun t d =>
  match t with
  | .agent p n =>
    let lanes := n % 8
    let x := vget d.fleet.ports p {}
    if d.form = .cd || 48 ≤ p || lanes = 0 || 4 < lanes || 512 ≤ n / 8 || 2 ≤ x.st then none
    else some (modPortOf p (fun y =>
      if y.st = 0 then { y with lanes := 0, st := 1, peer := n / 8 }
      else if y.lanes = 0 then { y with lanes := lanes, st := 2, peer := n / 8 }
      else { y with st := 3 }) d)
  | _ => none

end Sys2Proof.Machine
end

