-- ==== Sys2Proof/Machine/HostLink.lean ====
section
/-! DEFINITION. What the host does over the link: its windows, CXL.mem, BAR0 and SPDM (R265, R347 to R350, R412, R418, R421). Functions
of a host access: 0 to 15 BAR2 of VF n, 16 BAR2 of PF0, 32 to 47 BAR0 of VF n, 48 BAR0 of PF0. Addresses of CXL.mem are the host's (R373). -/

namespace Sys2Proof.Machine

/-! ### The windows (R347, R349, R350) -/

/-- Where n bytes at an offset of a BAR2 window lie; none where nothing is behind it: PF0's reaches as far as it is sized (R347). -/
def windowLoc (d : Dev) (fn off n : Nat) : Option Nat :=
  if fn < 16 then
    if (d.tenant fn).active && off + n ≤ 2 ^ 28 then some ((d.tenant fn).sarea + off) else none
  else if fn = 16 then
    if off + n ≤ min (hbmSize d) d.bar2.2 then some off else none
  else none

/-- HOST_WINDOW_WRITE (R349): the write takes its place as the link delivers it; a write of a WIX word or of EVCI is seen (R353,
R371). -/
def execHostWindowWrite (s : State) : Out := runEvent s fun t d =>
  match t with
  | .hostWrite fn off data =>
    match windowLoc d fn off data.length with
    | none => none
    | some loc =>
      let d := placeBytes d hostAgent loc data
      some ((List.range 16).foldl (fun d t =>
        if (d.tenant t).active && overlap loc data.length ((d.tenant t).sarea + 0x200) 8 then flushEvents t 256 d else d) d)
  | _ => none

/-! ### BAR0 (R348, R412, R418) -/

/-- FUSEU, SECC and FWSC stand on the programmed fuse words (R412, R419). -/
def fuseWord (l : List Nat) : Nat := l.foldl max 0

/-- TRUST (R412). -/
def trustWord (d : Dev) : Nat :=
  let ks := d.fleet.keys.toList
  packLanes 1 (ks.map fun k => (k.digest.isSome && !k.revoked).toNat) + 2 ^ 8 * packLanes 1 (ks.map fun k => k.revoked.toNat)
    + 2 ^ 16 * packLanes 1 ((List.range 8).map fun k => (decide (Config.fwKey k ≠ []) && !Config.fwRevoked k).toNat)
    + 2 ^ 24 * packLanes 1 ((List.range 8).map fun k => (Config.fwRevoked k).toNat)

/-- PLIMR (R412). -/
def plimWord (d : Dev) : Nat := d.fleet.plim + 2 ^ 16 * d.fleet.mlim + 2 ^ 32 * d.fleet.twarn
/-- TPART of a tenant (R412). -/
def partWord (t : Tenant) : Nat := t.part + 2 ^ 32 * t.active.toNat

/-- A fabric port's register (R418). -/
def portReg (p : FPort) (k : Nat) : Nat :=
  match k with
  | 0 => p.lanes + 8 * p.st + 2 ^ 32 * p.peer
  | 1 => p.txf.toNat
  | 2 => p.rxf.toNat
  | 3 => p.err.toNat
  | 4 => p.bin.toNat
  | 5 => p.bout.toNat
  | 6 => p.btot.toNat
  | _ => p.braw.toNat

/-- The register of PF0 BAR0 at an offset of eight bytes (R348, R412, R418); the ZLH-CD's form code is a free value (log 4), and what the
registers of its absent dies 1 to 3 read is the model's choice: those of an idle die (log 77). -/
def pfReg (off : Nat) (d : Dev) : Nat × Dev :=
  let f := d.fleet
  let die (a : Nat) : Die := vget f.dies ((off - a) / 8) {}
  let at_ (a n : Nat) : Bool := decide (a ≤ off) && decide (off < a + 8 * n)
  if off = 0 then
    let (x, d) := d.draw
    let form := match d.form with | .p640 => 1 | .m640 => 2 | .cd => x % 256
    (0x5A48 + 2 ^ 16 * form + 2 ^ 24 * (Config.siliconRev 0).toNat, d)
  else if off = 8 then now d
  else if off = 0x10 then (d.fw.gstat + 4 * d.fw.act, d)
  else if off = 0x18 then (d.adma, d)
  else if off = 0x100 then (f.pkg, d)
  else if off = 0x108 then ((if d.form = .m640 then f.mod else 0), d)
  else if off = 0x110 then (plimWord d, d)
  else if at_ 0x118 4 then ((die 0x118).grant + 2 ^ 16 * (die 0x118).reasons.toNat, d)
  else if at_ 0x138 4 then
    (wrap 16 (die 0x138).temp + 2 ^ 16 * (die 0x138).sram + 2 ^ 32 * (die 0x138).coreRail + 2 ^ 48 * (Config.processCode ((off - 0x138) / 8)).toNat, d)
  else if at_ 0x158 4 then
    ((die 0x158).decTed.toNat + 2 ^ 16 * (Config.vth ((off - 0x158) / 8) % 2 ^ 16) + 2 ^ 32 * ((die 0x158).corrected % 2 ^ 32), d)
  else if off = 0x178 then (f.failed.toNat + 2 ^ 16 * f.unprot.toNat, d)
  else if off = 0x180 then (fuseWord f.secc, d)
  else if off = 0x188 then (fuseWord f.fwsc, d)
  else if off = 0x190 then (f.secc.length + 2 ^ 16 * f.fwsc.length, d)
  else if off = 0x198 then (trustWord d, d)
  else if at_ 0x200 8 then (vget f.events ((off - 0x200) / 8) 0, d)
  else if at_ 0x280 16 then (partWord (d.tenant ((off - 0x280) / 8)), d)
  else if 0x1000 ≤ off && off < 0x1000 + 64 * 48 then (portReg (vget f.ports ((off - 0x1000) / 64) {}) (off % 64 / 8), d)
  else (0, d)

/-- The register of a VF's BAR0 (R348). -/
def vfReg (ten off : Nat) (d : Dev) : Nat × Dev :=
  if off = 0 then (ten + 2 ^ 8 * (d.tenant ten).active.toNat, d) else if off = 8 then now d else (0, d)

/-- Whether an offset lies in a function's MSI-X table (R347). -/
def inTable (fn off : Nat) : Bool := decide (msixBase fn ≤ off) && decide (off < msixBase fn + 16 * (if fn = 16 then 32 else 4))
/-- Offset of a function's pending-bit array (R347). -/
def pendingBase (fn : Nat) : Nat := if fn = 16 then 0xC000 else 0x2000

/-- An aligned eight-byte word of a BAR0: table, pending bits or a register (R347, R348). -/
def barWord (fn off : Nat) (d : Dev) : Nat × Dev :=
  if inTable fn off then (leNat ((span off 8).map (msixByte d fn)), d)
  else if off = pendingBase fn then (packLanes 1 ((List.range 32).map fun v => (d.msixPend.contains (fn * 256 + v)).toNat), d)
  else if fn = 16 then pfReg off d else vfReg fn off d

/-- n bytes of a BAR0 from an offset, word by word. -/
def barBytes (fn off n : Nat) (d : Dev) : Bytes × Dev :=
  let (l, d) := (List.range (ceilDiv (off % 8 + n) 8)).foldl (fun (b : Bytes × Dev) k =>
    let (v, d) := barWord fn (alignDown off 8 + 8 * k) b.2
    (b.1 ++ toLe 8 v, d)) ([], d)
  ((l.drop (off % 8)).take n, d)

/-- HOST_WINDOW_READ (R348, R349): the bytes at their place in the order, or those of a BAR0. -/
def execHostWindowRead (s : State) : Out := runEvent s fun t d =>
  match t with
  | .hostRead fn off n =>
    if 32 ≤ fn && fn ≤ 48 then
      let (b, d) := barBytes (fn - 32) off n d
      some { d with hostRead := b }
    else match windowLoc d fn off n with
      | none => none
      | some loc => match loadBytes d hostAgent loc n with
        | (some b, d) => some { d with hostRead := plain b }
        | (none, _) => none
  | _ => none

/-- A write of one byte of a BAR0: MSI-X tables keep it, and a vector that it unmasks sends its pending message; anything else ignores it
(R347, R348). -/
def barWrite (fn : Nat) (d : Dev) (off : Nat) (b : Byte) : Dev :=
  if !inTable fn off then d
  else
    let v := (off - msixBase fn) / 16
    let d := { d with msix := d.msix.put (fn * 65536 + off) b }
    if d.msixPend.contains (fn * 256 + v) && !masks d fn v then
      sendMsi fn v { d with msixPend := d.msixPend.filter (· ≠ fn * 256 + v) }
    else d

/-- BAR0_WRITE (R347, R348): registers ignore it; an MSI-X table takes it. -/
def execBar0Write (s : State) : Out := runEvent s fun t d =>
  match t with
  | .hostWrite fn off data =>
    if 32 ≤ fn && fn ≤ 48 then some (data.zipIdx.foldl (fun d e => barWrite (fn - 32) d (off + e.2) e.1) d) else some d
  | _ => some d

/-! ### CXL.mem (R265) -/

/-- HOST_CXL_MEM_ACCESS (R265): a host access over CXL.mem to a device-bias page, in the device's order; at a host page in host bias
the host goes to its own memory, and no watchpoint sees it (R391). -/
def execHostCxlMemAccess (s : State) : Out := runEvent s fun t d =>
  match t with
  | .cxl a acc =>
    let n := match acc with | .read n => n | .write l => l.length
    match resultLoc d a n with
    | none => none
    | some loc =>
      let here := match frameOf loc with
        | some f => decide ((d.frame f).home ≤ 3) && decide (loc % 16384 + n ≤ 16384)
        | none => true
      if !here then none
      else match acc with
        | .read n => match loadBytes d hostAgent loc n with
          | (some b, d) => some { d with hostRead := plain b }
          | (none, _) => none
        | .write l => some (if hostBias d loc then place d (.row hostAgent loc l false) else placeBytes d hostAgent loc l)
  | _ => none

/-! ### SPDM (R421) -/

/-- The operator's fused values that block 3 is taken over. -/
def fuseValues (d : Dev) : List Nat := [fuseWord d.fleet.secc, fuseWord d.fleet.fwsc, d.fleet.secc.length + 2 ^ 16 * d.fleet.fwsc.length, trustWord d]
/-- The key digests of the 16 trust-list slots. -/
def slotDigests (d : Dev) : List Bytes := (d.fleet.keys.toList.map fun k => k.digest.getD []) ++ (List.range 8).map Config.fwKey
/-- The values that block 4 is taken over: the RAS byte in force, PLIMR and the TPART values. -/
def policyValues (d : Dev) : List Nat :=
  [d.fleet.unprot.toNat + 2 * d.fleet.lowv.toNat, plimWord d] ++ (List.range 16).map fun t => partWord (d.tenant t)

/-- A measurement block (R421): blocks 3 and 4 are those of the values that stand. -/
def measurement (d : Dev) (k : Nat) : Bytes :=
  match k with
  | 0 => (List.range 48).map Config.bootRom
  | 1 => vget d.fw.meas 0 []
  | 2 => vget d.fw.meas 1 []
  | 3 => sha384 (Config.measured 3 (fuseValues d) (slotDigests d))
  | _ => sha384 (Config.measured 4 (policyValues d) [])

/-- SPDM_GET_MEASUREMENTS (R421): the block with a number, 0 to 4. -/
def execSpdmGetMeasurements (s : State) : Out := runEvent s fun t d =>
  match t with
  | .agent k _ => if 4 < k then none else some { d with hostRead := measurement d k }
  | _ => none

end Sys2Proof.Machine
end

