-- ==== Sys2Proof/Machine/Image.lean ====
section
/-! DEFINITION. Code objects (R309 to R323): the image and its parts as the loader reads them, and the checks that look at one part
at a time. The checks along paths are in Paths.lean. -/

namespace Sys2Proof.Machine

/-! ### The image (R309, R310) -/

/-- Whether n bytes from lo are zero. -/
def zeroAt (b : Bytes) (lo n : Nat) : Bool := decide (headField b lo n = 0)

/-- A section of an image: type, offset, length (R310). -/
structure Section where
  type : Nat
  ofs : Nat
  len : Nat
  deriving DecidableEq, Repr

/-- The section table's entries as they stand. -/
def sectionsOf (b : Bytes) : List Section :=
  (List.range (headField b 36 4)).map fun i =>
    let e := (b.drop (headField b 40 8 + 16 * i)).take 16
    { type := headField e 0 2, ofs := headField e 8 4, len := headField e 12 4 }

/-- A section's bytes. -/
def Section.bytes (b : Bytes) (s : Section) : Bytes := (b.drop s.ofs).take s.len

/-- The bytes of the first section of a type; empty when there is none. -/
def sectionBytes (b : Bytes) (ty : Nat) : Bytes := ((sectionsOf b).find? fun s => decide (s.type = ty)).elim [] (Section.bytes b)

/-- How many sections of a type there are. -/
def sectionCount (b : Bytes) (ty : Nat) : Nat := ((sectionsOf b).filter fun s => decide (s.type = ty)).length

/-- TIER and SYL (R309). -/
def isTier (b : Bytes) : Bool := bit (headField b 6 2) 0
/-- SYL (R309). -/
def isSyl (b : Bytes) : Bool := bit (headField b 6 2) 1

/-- Check 1 of R323: the header. -/
def headerOk (b : Bytes) : Bool :=
  let f := headField b
  decide (512 ≤ b.length) && decide (b.length ≤ 2 ^ 30) && decide (f 0 4 = 0x5A4C4B4F) && decide (f 4 2 = 1) && decide (f 6 2 < 4)
    && decide (f 8 8 ≠ 0) && decide (f 33 1 ≤ 3) && decide (1 ≤ f 34 1) && decide (f 34 1 ≤ 64) && decide (f 35 1 = 0)
    && decide (f 48 8 = b.length - 256) && zeroAt b 64 192

/-- Check 2 of R323: the signature block, and its key in the trust list; a key that some slot has revoked signs nothing (R315, R420). -/
def signatureOk (keys : List Key) (b : Bytes) : Bool :=
  let s := b.drop (b.length - 256)
  let slots := keys.filter fun k => decide (k.digest = some (s.take 48))
  !slots.isEmpty && (slots.all fun k => !k.revoked) && zeroAt s 144 112
    && ecdsaOk (s.take 48) ((s.drop 48).take 48) ((s.drop 96).take 48) (sha384 (b.take (b.length - 256)))

/-- The range of a section of type 2 or 8 once it is placed (R310). -/
def placedAt (b : Bytes) (s : Section) : Nat × Nat := (headField (s.bytes b) 0 8, s.len - 64)

/-- What R310 asks of a section by itself. -/
def sectionOk (b : Bytes) (i : Nat) (s : Section) : Bool :=
  let x := s.bytes b
  let e := (b.drop (headField b 40 8 + 16 * i)).take 16
  let prefix64 := decide (64 ≤ s.len) && decide (headField x 0 8 % 64 = 0) && decide (headField x 0 8 < 2 ^ 56)
    && decide (headField x 0 8 + (s.len - 64) ≤ 2 ^ 56) && zeroAt x 8 56
  decide (1 ≤ s.type) && decide (s.type ≤ 10) && zeroAt e 2 6 && decide (s.ofs % 64 = 0) && decide (s.len ≠ 0)
    && decide (256 ≤ s.ofs) && decide (s.ofs + s.len ≤ b.length - 256)
    && (match s.type with
      | 1 => decide (s.len = 168 * headField b 34 1)
      | 2 => prefix64 && decide (64 < s.len)
      | 3 => decide (s.len % 48 = 0)
      | 4 => decide (s.len % 16 = 0)
      | 5 => decide (1 ≤ headField x 4 4) && decide (headField x 4 4 ≤ 8192) && zeroAt x 8 56 && decide (s.len = 64 + 4 * headField x 4 4)
      | 6 => decide (s.len % 48 = 0)
      | 7 => decide (s.len % 16 = 0)
      | 8 => prefix64
      | 9 => decide (s.len = 64)
      | _ => true)

/-- Check 6 of R323: the section table (R310). -/
def sectionsOk (b : Bytes) : Bool :=
  let n := headField b 36 4
  let t := headField b 40 8
  let ss := sectionsOf b
  let c (ty : Nat) : Nat := sectionCount b ty
  decide (1 ≤ n) && decide (n ≤ 64) && decide (t % 64 = 0) && decide (256 ≤ t) && decide (t + 16 * n ≤ b.length - 256)
    -- header, table and sections stand in this order (R309)
    && (ss.zipIdx.all fun e => sectionOk b e.2 e.1) && (ss.all fun s => decide (t + 16 * n ≤ s.ofs))
    && disjoint ((t, 16 * n) :: ss.map fun s => (s.ofs, s.len))
    && decide (c 1 = 1) && decide (c 2 ≤ 1) && (isSyl b || decide (c 2 = 1)) && decide (c 3 ≤ 1) && decide (c 4 ≤ 1) && decide (c 5 ≤ 1)
    && decide (c 6 ≤ 1) && decide (c 7 ≤ 1) && decide (c 8 ≤ 16) && decide (c 9 = (isTier b).toNat) && decide (c 10 = (isSyl b).toNat)
    && disjoint ((ss.filter fun s => decide (s.type = 2) || decide (s.type = 8)).map (placedAt b))

/-! ### Cluster maps (R311) -/

/-- A core entry. -/
def coreMapOf (b : Bytes) : CoreMap :=
  { mode := headField b 0 1, seqm := headField b 1 1, entries := (List.range 4).map fun j => (headField b (8 + 8 * j) 4, headField b (12 + 8 * j) 4) }

/-- A cluster-map record. -/
def clMapOf (b : Bytes) : ClMap :=
  let n := headField b 0 1
  { ctr := bit (headField b 1 1) 0, same := bit (headField b 1 1) 1, stash := headField b 2 2,
    cores := (List.range (min n 4)).map fun k => coreMapOf ((b.drop (8 + 40 * k)).take 40) }

/-- The cluster-map records of an image. -/
def mapRecords (b : Bytes) : List Bytes := chunks 168 (headField b 34 1) (sectionBytes b 1)

/-- Sequencers of a core in a mode (R16). -/
def modeSeqs (m : Nat) : Nat := if m = 0 then 1 else if m = 1 then 2 else 4

/-- What R311 asks of a core entry of a core in use; `starts` says which ENTRY names a segment. -/
def coreEntryOk (starts : Nat → Bool) (b : Bytes) : Bool :=
  let m := headField b 0 1
  let q := headField b 1 1
  decide (m ≤ 2) && decide (q ≠ 0) && decide (q < 2 ^ modeSeqs m) && zeroAt b 2 6
    && (List.range 4).all fun j => if bit q j then starts (headField b (8 + 8 * j) 4) else zeroAt b (8 + 8 * j) 8

/-- What R311 asks of a record. -/
def mapOk (starts : Nat → Bool) (b : Bytes) : Bool :=
  let n := headField b 0 1
  decide (1 ≤ n) && decide (n ≤ 4) && decide (headField b 1 1 < 4) && decide (headField b 2 2 ≤ 24) && zeroAt b 4 4
    && (List.range 4).all fun k => if k < n then coreEntryOk starts ((b.drop (8 + 40 * k)).take 40) else zeroAt b (8 + 40 * k) 40

/-- Check 7 of R323: the cluster maps and SAMEDIE (R311, R12). -/
def mapsOk (starts : Nat → Bool) (b : Bytes) : Bool :=
  let ms := (mapRecords b).map clMapOf
  (mapRecords b).all (mapOk starts) && ((ms.all (·.same)) || (ms.all fun m => !m.same)) && !((ms.any (·.same)) && decide (16 < ms.length))

/-- ENTRY and REGB of the sequencers that run code. -/
def entriesOf (ms : List ClMap) : List (Nat × Nat) :=
  ms.flatMap fun m => m.cores.flatMap fun c => ((List.range 4).filter fun j => bit c.seqm j).map fun j => c.entries.getD j (0, 0)

/-- Check 8 of R323: register requests (R21). -/
def requestsOk (ms : List ClMap) : Bool := (entriesOf ms).all fun e => decide (e.2 ≠ 0) && decide (e.2 % 4096 = 0) && decide (e.2 ≤ 65536)

/-! ### Segments (R74 to R77, R91, R97, R99, R312) -/

/-- A segment of the core segment image: its offset, NEXT, header fields, jump-target table and bundles. -/
structure SegI where
  ofs : Nat
  next : Nat
  spidx : Nat
  hb : Bool
  jt : List Nat
  jtBad : Bool
  bundles : List (List (Nat × Nat))
  deriving DecidableEq, Repr

/-- The segment that starts at an offset of the core segment image and the lines it takes; none where it breaks R74 or R75. -/
def segmentAt (b : Bytes) (ofs : Nat) : Option (SegI × Nat) :=
  let x := b.drop ofs
  let w0 := headField x 0 8
  let w1 := headField x 8 8
  let n := bits w1 0 8
  if bits w0 56 8 ≠ 0 || bits w0 0 6 ≠ 0 || bits w1 34 14 ≠ 0 || bits w1 8 24 ≠ 0 || n = 0 || 128 < n then none
  else
    let line (k : Nat) : Option Bytes := if ofs + 64 * k < b.length then some ((x.drop (64 * k)).take 64) else none
    match expandLines line (2 ^ 50) 0 n [] with
    | .ok bs lines =>
      let t := x.drop (64 * lines)
      let c := headField t 0 8
      let bad := bit w1 32 && (decide (c = 0) || decide (127 < c) || decide (t.length < 8 + 8 * c))
      let jt := if bit w1 32 && !bad then (List.range c).map fun i => headField t (8 + 8 * i) 8 else []
      let more := if bit w1 32 && !bad then ceilDiv (8 + 8 * c) 64 else 0
      some ({ ofs := ofs, next := w0, spidx := bits w1 48 16, hb := bit w1 33, jt := jt, jtBad := bad, bundles := bs }, lines + more)
    | _ => none

/-- The segments of an image one after another; lines of zeros between them are padding. With the offset of the first that is not well
formed, if one is not. -/
def segmentsFrom (b : Bytes) : Nat → Nat → List SegI → List SegI × Option Nat
  | 0, _, acc => (acc, none)
  | n + 1, ofs, acc =>
    if b.length ≤ ofs then (acc, none)
    else if ((b.drop ofs).take 64).all (fun x => decide (x = 0)) then segmentsFrom b n (ofs + 64) acc
    else match segmentAt b ofs with
      | none => (acc, some ofs)
      | some (s, lines) => segmentsFrom b n (ofs + 64 * lines) (acc ++ [s])

/-- The segments of a core code section. -/
def segmentsOf (core : Bytes) : List SegI × Option Nat := let b := core.drop 64; segmentsFrom b (b.length / 64 + 1) 0 []

/-- The instructions of a bundle that decode; other words trap when they issue (R322). -/
def insOf (b : List (Nat × Nat)) : List Instr := b.filterMap fun e => match decodeCore e.2 with | .ok i => some i | .error _ => none

/-- A loop-bound table entry: segment offset, bundle or word, maximum trip count (R314). -/
structure Bound where
  seg : Nat
  loc : Nat
  maxt : Nat
  deriving DecidableEq, Repr

/-- The loop-bound table of a section. -/
def boundsOf (b : Bytes) : List Bound :=
  (chunks 16 (b.length / 16) b).map fun e => { seg := headField e 0 4, loc := headField e 4 2, maxt := headField e 8 4 }

/-- Whether a loop-bound table keeps R314; one of near-data code names no segment. -/
def boundsOk (near : Bool) (b : Bytes) : Bool :=
  let l := boundsOf b
  (!near || l.all fun e => decide (e.seg = 0)) && ((chunks 16 (b.length / 16) b).all fun e => zeroAt e 6 2 && zeroAt e 12 4 && decide (headField e 8 4 ≠ 0))
    && (l.zip (l.drop 1)).all fun p => decide (p.1.seg < p.2.seg) || (decide (p.1.seg = p.2.seg) && decide (p.1.loc < p.2.loc))

/-- MAXT of a loop. -/
def boundAt (l : List Bound) (seg loc : Nat) : Option Nat := (l.find? fun e => decide (e.seg = seg) && decide (e.loc = loc)).map (·.maxt)

/-- Stages and end bundle of a loop instruction, and whether its count is a register. -/
def loopInfo : Instr → Option (Nat × Nat × Bool)
  | .loop _ n t => some (n.toNat, t.toNat, true)
  | .loopi _ n t => some (n.toNat, t.toNat, false)
  | _ => none

/-- The target of an in-segment branch. -/
def branchTarget : Instr → Option Nat
  | .brT _ _ t => some t.toNat
  | .brF _ _ t => some t.toNat
  | .brAny _ t => some t.toNat
  | .brNone _ t => some t.toNat
  | .brAll _ t => some t.toNat
  | .brNall _ t => some t.toNat
  | _ => none

/-- What R77, R91, R97 and R99 ask of a bundle. -/
def bundleOk (bs : List Bound) (s : SegI) (j : Nat) (b : List (Nat × Nat)) : Bool :=
  let l := insOf b
  decide ((l.filter fun i => match i with | .halt => true | .safe _ => true | .hopt _ => true | _ => false).length ≤ 1)
    && l.all fun i =>
      (match branchTarget i with | some t => decide (t < s.bundles.length) | none => true)
        && (match loopInfo i with
          | some (n, t, reg) => decide (j < t) && decide (t < s.bundles.length)
              && ((insOf (s.bundles.getD t [])).any fun e => match e with | .endl k => decide (k.toNat = n) | _ => false)
              && (!reg || (boundAt bs s.ofs j).isSome)
          | none => true)
        && (match i with | .call _ _ _ => decide (j + 1 < s.bundles.length) || decide (s.next ≠ 0) | _ => true)

/-- Check 9 of R323: segments, tables and transfers; `va` is LOADVA. -/
def segmentsOk (va : Nat) (ss : List SegI) (bs : List Bound) : Bool :=
  let at_ (a : Nat) : Option SegI := ss.find? fun s => decide (va + s.ofs = a)
  ss.all fun s => (decide (s.next = 0) || (at_ s.next).isSome) && !s.jtBad && decide (va + s.ofs ≠ 0)
    && (s.jt.all fun p => !badPtr p && (match at_ (Pc.ofPtr p).seg with | some t => decide ((Pc.ofPtr p).idx < t.bundles.length) | none => false))
    && s.bundles.zipIdx.all fun e => bundleOk bs s e.2 e.1

/-! ### Safe-point tables (R26, R95, R313) -/

/-- A safe-point table entry. -/
def safePtOf (e : Bytes) : SafePt :=
  { seg := headField e 0 4, loc := headField e 4 2, hand := decide (headField e 7 1 = 1),
    ranges := (List.range (min 8 (headField e 6 1))).map fun m => (headField e (16 + 4 * m) 2 * 32, headField e (18 + 4 * m) 2 * 32) }

/-- The safe-point table of a section. -/
def safePtsOf (b : Bytes) : List SafePt := (chunks 48 (b.length / 48) b).map safePtOf

/-- What R313 asks of an entry's bytes; its ranges end at or below `limit`. -/
def safeEntryOk (limit : Nat) (e : Bytes) : Bool :=
  let n := headField e 6 1
  let rs := (safePtOf e).ranges
  decide (n ≤ 8) && decide (headField e 7 1 ≤ 1) && zeroAt e 8 8
    && ((List.range 8).all fun m => decide (m < n) || zeroAt e (16 + 4 * m) 4)
    && (rs.all fun r => decide (32 ≤ r.2) && decide (r.2 ≤ 65536) && decide (r.1 + r.2 ≤ limit)) && disjoint rs

/-- K of a safe point, and whether it is a hand-over point. -/
def safeOf : Instr → Option (Nat × Bool)
  | .safe k => some (k.toNat, false)
  | .hopt k => some (k.toNat, true)
  | _ => none

/-- What R95 asks of the safe points of a segment. -/
def safesOk (sps : List SafePt) (s : SegI) : Bool :=
  s.bundles.zipIdx.all fun e => (insOf e.1).all fun i => match safeOf i with
    | none => true
    | some (k, h) => decide (s.spidx ≠ 0xFFFF) && (!h || s.hb) && (match sps[s.spidx + k]? with
      | some p => decide (p.seg = s.ofs) && decide (p.loc = e.2) && decide (p.hand = h)
      | none => false)

/-! ### Near-data code (R284, R289 to R291, R304) -/

/-- The words of a near-data code section. -/
def nearWords (b : Bytes) : List Nat := (chunks 4 ((b.length - 64) / 4) (b.drop 64)).map leNat

/-- The word that a word's OFS names (R289, R290). -/
def nearTarget (w at_ : Nat) : Int := (at_ : Int) + sx 15 (fld w 0 15)

/-- Whether a word is an nendl. -/
def isNendl (w : Nat) : Bool := decide (decodeNear w = some .nendl)
/-- Whether a word is an nhopt. -/
def isNhopt (w : Nat) : Bool := decide (decodeNear w = some .nhopt)
/-- Whether a word is an nloop. -/
def isNloop (w : Nat) : Bool := decide (fld w 26 6 = 7) && (decodeNear w).isSome

/-- What the loader asks of one near-data word. -/
def nearWordOk (sps : List SafePt) (bs : List Bound) (ws : List Nat) (j w : Nat) : Bool :=
  let t := nearTarget w j
  let inCode := decide (0 ≤ t) && decide (t < (ws.length : Int))
  if (decodeNear w).isNone then true
  else if fld w 26 6 = 5 then inCode
  else if fld w 26 6 = 7 then inCode && decide ((j : Int) < t) && isNendl (ws.getD t.toNat 0) && (boundAt bs 0 j).isSome
  else if fld w 26 6 = 6 && (fld w 22 4 = 1 || fld w 22 4 = 2) then
    (match sps[fld w 6 16]? with | some p => decide (p.loc = j) && decide (p.hand = decide (fld w 22 4 = 2)) | none => false)
  else if fld w 26 6 = 0x13 && fld w 22 4 = 0 then decide (fld w 0 14 < sps.length)
  else true

/-- Check 13 of R323 but for its paths; the form of the section is check 6. -/
def nearOk (sec : Bytes) (sps : List SafePt) (bs : List Bound) : Bool :=
  let n := headField sec 4 4
  let ws := nearWords sec
  decide (headField sec 0 4 < n) && ws.zipIdx.all fun e => nearWordOk sps bs ws e.2 e.1

/-! ### The hand-over band (R329, R330) -/

/-- Check 15 of R323. -/
def bandOk (tier : Bool) (band : Bytes) (ws : List Nat) (sps : List SafePt) : Bool :=
  let hops := (ws.zipIdx.filter fun e => isNhopt e.1).map (·.2)
  if !tier then hops.isEmpty
  else
    let l := headField band 0 4
    let w := ws.getD l 0
    let stop := (nearTarget w l).toNat + 1
    let ranges (j : Nat) : Option (List (Nat × Nat)) := (sps[fld (ws.getD j 0) 6 16]?).map (·.ranges)
    let outer := ws.zipIdx.all fun e => !(isNloop e.1 && decide (e.2 < l) && decide ((l : Int) ≤ nearTarget e.1 e.2))
    zeroAt band 9 55 && decide (headField band 4 4 % 8 = 0) && decide (headField band 8 1 ≤ 2) && !ws.isEmpty && isNloop w && outer
      && hops.contains (l + 1) && hops.contains stop && (hops.all fun j => decide (j = l + 1) || decide (j = stop))
      && (sps.all fun p => !p.hand || decide (p.loc = l + 1) || decide (p.loc = stop))
      && decide (ranges (l + 1) = ranges stop)

end Sys2Proof.Machine
end

