-- ==== Sys2Proof/Machine/Paths.lean ====
section
/-! DEFINITION. The loader's checks along paths: distance between safe points, recursion (R27, R34, R314), which sequencers reach a
segment (R313), and region depth (R237). Code is a list of places (bundles or near-data words) with what each may do next. -/

namespace Sys2Proof.Machine

/-- A loop instruction as a path meets it: its first place, the place of its endl, the most passes it runs, and where a zero count
goes. -/
structure FLoop where
  first : Nat
  stop : Nat
  passes : Nat
  skip : List Nat
  deriving DecidableEq, Repr

/-- A place of code as paths see it. -/
structure Flow where
  /-- bundles that it counts (R27) -/
  cost : Nat := 1
  safe : Bool := false
  halt : Bool := false
  /-- places that it may go to besides falling through -/
  jumps : List Nat := []
  /-- where it falls through to, unless a transfer is certain -/
  falls : List Nat := []
  loops : List FLoop := []
  endl : Bool := false
  lpop : Bool := false
  calls : List Nat := []
  /-- where a call returns to -/
  back : List Nat := []
  ret : Bool := false
  /-- it jumps through a register and no target is listed (R27) -/
  blind : Bool := false
  opens : Nat := 0
  closes : Nat := 0
  deriving DecidableEq, Repr

/-- Code as a table of places. -/
structure Code where
  at_ : Tab Flow
  deriving DecidableEq, Repr

/-- A place of code. -/
def Code.get (c : Code) (n : Nat) : Flow := c.at_.find n {}

/-! ### Places of core code -/

/-- Place of bundle j of segment i. -/
def placeOf (i j : Nat) : Nat := i * 128 + j

/-- The segment with an address. -/
def segIndex (va : Nat) (ss : List SegI) (a : Nat) : Option Nat := ss.findIdx? fun s => decide (va + s.ofs = a)

/-- The places that code pointers name. -/
def pointerPlaces (va : Nat) (ss : List SegI) (l : List Nat) : List Nat :=
  l.filterMap fun p => (segIndex va ss (Pc.ofPtr p).seg).map fun i => placeOf i (Pc.ofPtr p).idx

/-- What a branch on a predicate can do: whether it may be taken, and whether it may fall through; p0 reads as all ones (R69,
R96). -/
def branchWays : Instr → Bool × Bool
  | .brT p _ _ => (true, decide (p ≠ 0))
  | .brF p _ _ => (decide (p ≠ 0), true)
  | .brAny p _ => (true, decide (p ≠ 0))
  | .brNone p _ => (decide (p ≠ 0), true)
  | .brAll p _ => (true, decide (p ≠ 0))
  | .brNall p _ => (decide (p ≠ 0), true)
  | _ => (false, true)

/-- What one instruction of bundle j of segment i adds to its place; `after` is where the bundle falls through to. -/
def flowIns (va : Nat) (ss : List SegI) (bs : List Bound) (i j : Nat) (s : SegI) (after : List Nat) (f : Flow) (x : Instr) : Flow :=
  let listed := pointerPlaces va ss s.jt
  let none_ := decide (s.jt = [])
  match x with
  | .nop n => { f with cost := f.cost + n.toNat }
  | .halt => { f with halt := true }
  | .safe _ => { f with safe := true }
  | .hopt _ => { f with safe := true }
  | .jmp _ m => { f with jumps := f.jumps ++ listed, falls := if m then f.falls else [], blind := f.blind || none_ }
  | .call _ _ m => { f with calls := listed, back := after, falls := if m then f.falls else [], blind := f.blind || none_ }
  | .ret _ m => { f with ret := true, falls := if m then f.falls else [] }
  | .loop _ n t =>
    let skip := if t.toNat + 1 < s.bundles.length then [placeOf i (t.toNat + 1)] else (segIndex va ss s.next).elim [] fun k => [placeOf k 0]
    { f with loops := f.loops ++ [{ first := placeOf i (j + 1), stop := placeOf i t.toNat, passes := (boundAt bs s.ofs j).getD 0 + n.toNat, skip := skip }], falls := [] }
  | .loopi c n t =>
    let skip := if t.toNat + 1 < s.bundles.length then [placeOf i (t.toNat + 1)] else (segIndex va ss s.next).elim [] fun k => [placeOf k 0]
    let most := (boundAt bs s.ofs j).getD c.toNat
    if most = 0 then { f with jumps := f.jumps ++ skip, falls := [] }
    else { f with loops := f.loops ++ [{ first := placeOf i (j + 1), stop := placeOf i t.toNat, passes := most + n.toNat,
                                         skip := if c = 0 then skip else [] }], falls := [] }
  | .endl _ => { f with endl := true }
  | .lpop => { f with lpop := true }
  | .rbegin _ => { f with opens := f.opens + 1 }
  | .rend => { f with closes := f.closes + 1 }
  | y =>
    match branchTarget y with
    | some t =>
      let (taken, fall) := branchWays y
      { f with jumps := if taken then f.jumps ++ [placeOf i t] else f.jumps, falls := if fall then f.falls else [] }
    | none => f

/-- The places of a segment. -/
def segFlow (va : Nat) (ss : List SegI) (bs : List Bound) (i : Nat) (s : SegI) : Tab Flow :=
  s.bundles.zipIdx.map fun e =>
    let after := if e.2 + 1 < s.bundles.length then [placeOf i (e.2 + 1)] else (segIndex va ss s.next).elim [] fun k => [placeOf k 0]
    (placeOf i e.2, (insOf e.1).foldl (flowIns va ss bs i e.2 s after) { falls := after })

/-- The places of a core segment image. -/
def coreFlow (va : Nat) (ss : List SegI) (bs : List Bound) : Code := { at_ := ss.zipIdx.flatMap fun e => segFlow va ss bs e.2 e.1 }

/-! ### Places of near-data code -/

/-- A near-data word's place (R34, R289, R290). -/
def nearFlowAt (bs : List Bound) (n j w : Nat) : Flow :=
  let after := if j + 1 < n then [j + 1] else []
  let t := (nearTarget w j).toNat
  match decodeNear w with
  | none => { falls := after }
  | some i =>
    if fld w 26 6 = 5 then { falls := if fld w 15 3 = 6 then [] else after, jumps := [t] }
    else match i with
      | .nhalt => { halt := true }
      | .nsafe => { safe := true, falls := after }
      | .nhopt => { safe := true, falls := after }
      | .nendl => { endl := true, falls := after }
      | .nlpop => { lpop := true, falls := after }
      | .nloop _ _ => { loops := [{ first := j + 1, stop := t, passes := (boundAt bs 0 j).getD 0, skip := if t + 1 < n then [t + 1] else [] }] }
      | _ => { falls := after }

/-- The places of near-data code. -/
def nearFlow (bs : List Bound) (ws : List Nat) : Code := { at_ := ws.zipIdx.map fun e => (e.2, nearFlowAt bs ws.length e.2 e.1) }

/-! ### Reachability -/

/-- Everything reached from a frontier, with fuel for its size. -/
def closure {α : Type} [DecidableEq α] (next : α → List α) : Nat → List α → List α → List α
  | 0, seen, _ => seen
  | _, seen, [] => seen
  | n + 1, seen, x :: l =>
    if seen.contains x then closure next n seen l else closure next n (x :: seen) (next x ++ l)

/-- Fuel for a closure over places with a few successors each. -/
def Code.fuel (c : Code) : Nat := 200 * c.at_.length + 200

/-- The loops whose endl stands at a place. -/
def loopsAt (c : Code) (n : Nat) : List FLoop :=
  if (c.get n).endl then c.at_.flatMap fun e => e.2.loops.filter fun l => decide (l.stop = n) else []

/-- Their first places. -/
def loopHeads (c : Code) (n : Nat) : List Nat := (loopsAt c n).map (·.first)

/-- Where a place goes within its procedure: calls are stepped over. -/
def insideNext (c : Code) (n : Nat) : List Nat :=
  let f := c.get n
  if f.halt then [] else f.jumps ++ f.falls ++ f.loops.flatMap (fun l => l.first :: l.skip) ++ f.back

/-- For each returning place, where it may return to: after the calls whose targets reach it within their procedure. -/
def returnsOf (c : Code) : Tab (List Nat) :=
  let cs := (c.at_.filter fun e => decide (e.2.calls ≠ [])).map fun e => (e.2.back, closure (insideNext c) c.fuel [] e.2.calls)
  (c.at_.filter fun e => e.2.ret).map fun e => (e.1, (cs.filter fun x => x.2.contains e.1).flatMap (·.1))

/-- Where a place goes. -/
def flowNext (c : Code) (rets : Tab (List Nat)) (n : Nat) : List Nat :=
  let f := c.get n
  if f.halt then [] else f.jumps ++ f.falls ++ f.loops.flatMap (fun l => l.first :: l.skip) ++ loopHeads c n ++ f.calls ++ (if f.ret then rets.find n [] else [])

/-- The places that control reaches from one. -/
def reached (c : Code) (rets : Tab (List Nat)) (n : Nat) : List Nat := closure (flowNext c rets) c.fuel [] [n]

/-! ### Distance between safe points (R27) -/

/-- A path that has met no safe point: its place, the bundles that the place still counts, the calls it is in, and its loops with
their first places and passes left. -/
structure Walk where
  place : Nat
  left : Nat
  calls : List Nat := []
  loops : List (Nat × Nat) := []
  deriving DecidableEq, Repr

/-- A path comes to a place. -/
def enter (c : Code) (w : Walk) (n : Nat) : Walk := { w with place := n, left := (c.get n).cost }

/-- How a path goes on from a place that it has counted whole; none when it recurses (R27). A loop that it did not see begin may end
at its endl, or make any number of its other passes. -/
def walkOn (c : Code) (rets : Tab (List Nat)) (w : Walk) : Option (List Walk) :=
  let f := c.get w.place
  if f.halt then some []
  else if f.calls ≠ [] && w.calls.contains w.place then none
  else
    let w := if f.lpop then { w with loops := w.loops.drop 1 } else w
    let ends : List Walk :=
      if f.endl then
        match w.loops with
        | (first, n) :: l => if 1 < n then [enter c { w with loops := (first, n - 1) :: l } first] else f.falls.map (enter c { w with loops := l })
        | [] =>
          f.falls.map (enter c w) ++ (loopsAt c w.place).flatMap fun l =>
            if l.passes = 0 then [enter c w l.first] else if l.passes = 1 then []
            else [enter c { w with loops := [(l.first, l.passes - 1)] } l.first]
      else f.falls.map (enter c w)
    let starts := f.loops.flatMap fun l => (if l.passes = 0 then [] else [enter c { w with loops := (l.first, l.passes) :: w.loops } l.first]) ++ l.skip.map (enter c w)
    let calls := f.calls.map fun t => enter c { w with calls := w.place :: w.calls } t
    let back := if f.ret then
        (match w.calls with
          | p :: l => (c.get p).back.map (enter c { w with calls := l })
          | [] => (rets.find w.place []).map (enter c w))
      else []
    some (f.jumps.map (enter c w) ++ ends ++ starts ++ calls ++ back)

/-- One more bundle of every path; none when one recurses. -/
def walkStep (c : Code) (rets : Tab (List Nat)) (ws : List Walk) : Option (List Walk) :=
  (ws.mapM fun w => if 1 < w.left then some [{ w with left := w.left - 1 }] else if (c.get w.place).safe then some [] else walkOn c rets w).map
    fun l => l.flatten.eraseDups

/-- Whether every path has met a safe point or an end within n bundles. -/
def within (c : Code) (rets : Tab (List Nat)) : Nat → List Walk → Bool
  | 0, ws => ws.isEmpty
  | n + 1, ws => ws.isEmpty || (match walkStep c rets ws with | some l => within c rets n l | none => false)

/-- Checks 11 (R27, R34): no path of more than 8192 bundles from an entry or a safe point to the next, no recursion without one,
and no jump without listed targets. -/
def distanceOk (c : Code) (entries : List Nat) : Bool :=
  let rets := returnsOf c
  let from_ (f : Flow) : List Nat := f.jumps ++ f.falls ++ f.loops.flatMap (fun l => l.first :: l.skip) ++ f.calls
  let safes := (c.at_.filter fun e => e.2.safe)
  let starts := entries ++ safes.flatMap (fun e => from_ e.2 ++ loopHeads c e.1 ++ (if e.2.ret then rets.find e.1 [] else []))
  (c.at_.all fun e => !e.2.blind) && within c rets 8192 (starts.eraseDups.map fun n => enter c { place := n, left := 0 } n)

/-! ### Live ranges (R313) -/

/-- The smallest register request of the sequencers whose code reaches a segment; none when no sequencer does. -/
def reachLimit (c : Code) (rets : Tab (List Nat)) (ss : List SegI) (entries : List (Nat × Nat)) (ofs : Nat) : Option Nat :=
  match ss.findIdx? fun s => decide (s.ofs = ofs) with
  | none => none
  | some i =>
    let l := (entries.filter fun e =>
      match ss.findIdx? fun s => decide (s.ofs = e.1) with
      | some k => (reached c rets (placeOf k 0)).any fun n => decide (n / 128 = i)
      | none => false).map (·.2)
    l.foldl (fun m r => some (m.elim r (min r))) none

/-- Check 10 of R323 for the core table; an entry of a segment that no sequencer reaches may end anywhere (R313). -/
def safeTableOk (c : Code) (ss : List SegI) (entries : List (Nat × Nat)) (b : Bytes) : Bool :=
  let rets := returnsOf c
  (chunks 48 (b.length / 48) b).all fun e => safeEntryOk ((reachLimit c rets ss entries (headField e 0 4)).getD (65535 * 32 + 65536)) e

/-! ### Region depth (R233, R237) -/

/-- The depth after a place. -/
def depthAfter (f : Flow) (d : Nat) : Nat := d + f.opens - f.closes

/-- Check 12 of R323: every place is reached at one depth, of at most 4, and safe points, halts and an rend stand where they may; an
rbegin stands alone in its bundle. -/
def regionsOk (c : Code) (ss : List SegI) (entries : List Nat) : Bool :=
  let rets := returnsOf c
  let next (x : Nat × Nat) : List (Nat × Nat) :=
    let d := depthAfter (c.get x.1) x.2
    if 4 < d then [] else (flowNext c rets x.1).map fun n => (n, d)
  let l := closure next (6 * c.fuel) [] (entries.map fun n => (n, 0))
  (l.all fun x =>
    let f := c.get x.1
    (l.all fun y => decide (y.1 ≠ x.1) || decide (y.2 = x.2)) && (!f.safe || decide (x.2 = 0)) && (!f.halt || decide (x.2 = 0))
      && decide (f.closes ≤ x.2 + f.opens) && decide (depthAfter f x.2 ≤ 4))
    && ss.all fun s => s.bundles.all fun b => decide (b.length ≤ 1) || (insOf b).all fun i => match i with | .rbegin _ => false | _ => true

end Sys2Proof.Machine
end

