-- ==== Sys2Proof/Machine/Sylvote.lean ====
section
/-! DEFINITION. The structure of a Sylvote section as the loader checks it (R318 to R320). -/

namespace Sys2Proof.Machine

/-- A record of a Sylvote section: type, number, and its bytes from byte 8 on (R318). -/
structure SylRec where
  rt : Nat
  id : Nat
  body : Bytes
  deriving DecidableEq, Repr

/-- The records of a section; none when one breaks R318. -/
def sylRecords : Nat → Bytes → Option (List SylRec)
  | 0, _ => some []
  | n + 1, b =>
    let len := headField b 4 4
    if len < 8 || len % 8 ≠ 0 || b.length < len then none
    else (sylRecords n (b.drop len)).map fun l => { rt := headField b 0 2, id := headField b 2 2, body := (b.take len).drop 8 } :: l

/-- The records of one type in order. -/
def ofType (l : List SylRec) (t : Nat) : List SylRec := l.filter fun r => decide (r.rt = t)

/-- The body holds n bytes and zeros after them (R318). -/
def bodyLen (r : SylRec) (n : Nat) : Bool := decide (n ≤ r.body.length) && (r.body.drop n).all fun x => decide (x = 0)

/-- Parameter count (R319). -/
def sylParams (l : List SylRec) : Nat := ((ofType l 1).head?).elim 0 fun r => headField r.body 0 1

/-- Dimensions of domain i. -/
def sylDims (l : List SylRec) (i : Nat) : Option Nat := ((ofType l 3)[i]?).map fun r => headField r.body 0 1

/-- PARAM. -/
def paramOk (r : SylRec) : Bool := decide (headField r.body 0 1 ≤ 16) && zeroAt r.body 1 7 && bodyLen r (8 + 4 * headField r.body 0 1)

/-- TENSOR. -/
def tensorOk (np : Nat) (r : SylRec) : Bool :=
  let f := headField r.body
  decide (f 0 1 < 15) && decide (1 ≤ f 1 1) && decide (f 1 1 ≤ 8) && zeroAt r.body 2 6
    && (decide (f 0 1 = Fmt.zq4.toField) || zeroAt r.body 12 8) && bodyLen r (20 + 4 * (f 1 1 * (np + 1)))

/-- DOMAIN. -/
def domainOk (np : Nat) (r : SylRec) : Bool :=
  let f := headField r.body
  let row := 4 + 4 * (f 0 1 + np + 1)
  decide (1 ≤ f 0 1) && decide (f 0 1 ≤ 8) && decide (1 ≤ f 1 1) && decide (f 1 1 ≤ 64) && zeroAt r.body 2 6 && bodyLen r (8 + f 1 1 * row)
    && (List.range (f 1 1)).all fun k => decide (f (8 + k * row) 4 ≤ 1)

/-- ACCESS. -/
def accessRecOk (l : List SylRec) (r : SylRec) : Bool :=
  let f := headField r.body
  match (ofType l 2)[f 0 2]?, sylDims l (f 2 2) with
  | some t, some nd =>
    decide (f 4 1 ≤ 2) && decide (f 5 1 = headField t.body 1 1) && zeroAt r.body 6 2 && bodyLen r (8 + 4 * (f 5 1 * (nd + sylParams l + 1)))
  | _, _ => false

/-- STMT. -/
def stmtOk (l : List SylRec) (r : SylRec) : Bool :=
  let f := headField r.body
  let na := (ofType l 4).length
  (sylDims l (f 0 2)).isSome && decide (f 2 1 ≤ 6) && decide (f 3 1 < 8) && decide (f 4 2 < na)
    && ([6, 8, 10].all fun o => decide (f o 2 < na) || decide (f o 2 = 0xFFFF)) && bodyLen r 12

/-- Children of a schedule node. -/
def schedKids (r : SylRec) : List Nat := (List.range (headField r.body 1 1)).map fun k => headField r.body (8 + 2 * k) 2

/-- Bytes of a schedule record before its rows or statement numbers. -/
def schedHead (r : SylRec) : Nat := 8 + 8 * ceilDiv (2 * headField r.body 1 1) 8

/-- Statement numbers of a filter. -/
def filterStmts (r : SylRec) : List Nat := (List.range (headField r.body 2 1)).map fun k => headField r.body (schedHead r + 2 * k) 2

/-- The statements that a schedule node gets: from the root down, with fuel for the depth. -/
def stmtsAt (ss : List SylRec) (all : List Nat) : Nat → Nat → List Nat
  | 0, _ => all
  | n + 1, i =>
    match ss.zipIdx.find? fun e => (schedKids e.1).contains i with
    | none => all
    | some (p, k) => let up := stmtsAt ss all n k
                     if headField p.body 0 1 = 3 then up.filter (filterStmts p).contains else up

/-- The statements that leaves below a node run, with fuel for the depth. -/
def stmtsBelow (ss : List SylRec) : Nat → List Nat → Nat → List Nat
  | 0, _, _ => []
  | n + 1, l, i =>
    match ss[i]? with
    | none => []
    | some r =>
      if headField r.body 0 1 = 4 then l
      else let l := if headField r.body 0 1 = 3 then l.filter (filterStmts r).contains else l
           (schedKids r).flatMap (stmtsBelow ss n l)

/-- SCHED. -/
def schedOk (l : List SylRec) (i : Nat) (r : SylRec) : Bool :=
  let f := headField r.body
  let ss := ofType l 6
  let n := ss.length
  let st := ofType l 5
  let dims := ((stmtsBelow ss (n + 1) (stmtsAt ss (List.range st.length) (n + 1) i) i).filterMap fun k => st[k]?).filterMap fun s =>
    sylDims l (headField s.body 0 2)
  let kind := f 0 1
  let rows := match kind with
    | 1 => 4 * (f 2 1 * (dims.headD 0 + sylParams l + 1))
    | 3 => 2 * f 2 1
    | _ => 0
  decide (kind ≤ 5) && decide (f 3 1 ≤ 1) && zeroAt r.body 4 4 && ((schedKids r).all fun k => decide (k < n)) && bodyLen r (schedHead r + rows)
    && (match kind with
      | 1 => dims.all fun x => decide (x = dims.headD 0)
      | 3 => (filterStmts r).all fun k => decide (k < st.length)
      | 4 => decide (f 1 1 = 0)
      | 5 => decide (f 1 1 = 1) && (match ss[(schedKids r).headD 0]? with | some c => decide (headField c.body 0 1 = 1) | none => false)
      | _ => true)

/-- Whether the schedule is a tree with its one root at record 0 (R320). -/
def treeOk (ss : List SylRec) : Bool :=
  let kids := ss.flatMap schedKids
  let roots := ss.zipIdx.filter fun e => decide (headField e.1.body 0 1 = 0)
  let down (i : Nat) : List Nat := (ss[i]?).elim [] schedKids
  let up (fuel : Nat) : List Nat := (List.range fuel).foldl (fun l _ => [0] ++ (l.flatMap down)) [0]
  decide (roots.map (·.2) = [0])
    && ((List.range ss.length).all fun i => decide ((kids.filter fun k => decide (k = i)).length = if i = 0 then 0 else 1))
    && ((List.range ss.length).all fun i => (up ss.length).contains i)

/-- Check 14 of R323. -/
def sylvoteOk (tier : Bool) (b : Bytes) : Bool :=
  decide (16 ≤ b.length) && decide (headField b 0 2 = 1) && zeroAt b 2 2 && zeroAt b 8 8
    && match sylRecords (headField b 4 4) (b.drop 16) with
      | none => false
      | some l =>
        let np := sylParams l
        let marks := (ofType l 6).filter fun r => decide (headField r.body 0 1 = 5)
        (l.all fun r => decide (1 ≤ r.rt) && decide (r.rt ≤ 6)) && ((l.zip (l.drop 1)).all fun p => decide (p.1.rt ≤ p.2.rt))
          && ([1, 2, 3, 4, 5, 6].all fun t => decide ((ofType l t).map (·.id) = List.range (ofType l t).length))
          && decide ((ofType l 1).length = 1) && (ofType l 1).all paramOk && (ofType l 2).all (tensorOk np) && (ofType l 3).all (domainOk np)
          && (ofType l 4).all (accessRecOk l) && (ofType l 5).all (stmtOk l) && ((ofType l 6).zipIdx.all fun e => schedOk l e.2 e.1)
          && treeOk (ofType l 6) && decide (marks.length ≤ 1) && (!tier || decide (marks.length = 1))

end Sys2Proof.Machine
end

