-- ==== Sys2Proof/Machine/Loader.lean ====
section
/-! DEFINITION. The loader (R309 to R323, R359): its checks in order, what it keeps of an accepted object, and REGISTER. -/

namespace Sys2Proof.Machine

/-- Whether an object's native code is translated from its Sylvote form: of another generation, or without core code (R310, R322). -/
def needsTranslation (b : Bytes) : Bool := isSyl b && (decide (headField b 32 1 ≠ 0) || decide (sectionCount b 2 = 0))

/-- The image whose sections 2 to 7 are the object's native code. -/
def nativeOf (b : Bytes) : Bytes := if needsTranslation b then Config.translated b else b

/-- Check 6 of R323 on the image that the translator makes: its sections, and its core code clear of the object's data (R310, R321). -/
def translatedOk (b : Bytes) : Bool :=
  let n := nativeOf b
  sectionsOk n && decide (sectionCount n 2 = 1)
    && disjoint ((((sectionsOf n).filter fun s => decide (s.type = 2)).map (placedAt n)) ++ ((sectionsOf b).filter fun s => decide (s.type = 8)).map (placedAt b))

/-- Checks 7 to 15 of R323, in order. The translator needs a well-formed Sylvote form before there is code to check; a segment that is not
well formed is check 9's, so an ENTRY at or after it is not judged before; without code an ENTRY is judged by its form alone. -/
def codeStatus (b : Bytes) : Nat :=
  let n := nativeOf b
  let core := sectionBytes n 2
  let (ss, broken) := segmentsOf core
  let va := headField core 0 8
  let bs := boundsOf (sectionBytes n 4)
  let nbs := boundsOf (sectionBytes n 7)
  let sps := safePtsOf (sectionBytes n 3)
  let nsps := safePtsOf (sectionBytes n 6)
  let near := sectionBytes n 5
  let ws := if near = [] then [] else nearWords near
  let ms := (mapRecords b).map clMapOf
  let entries := entriesOf ms
  let syl := !isSyl b || sylvoteOk (isTier b) (sectionBytes b 10)
  let code := coreFlow va ss bs
  let starts := entries.filterMap fun e => (ss.findIdx? fun s => decide (s.ofs = e.1)).map fun i => placeOf i 0
  let ncode := nearFlow nbs ws
  let entry (e : Nat) : Bool := (ss.any fun s => decide (s.ofs = e))
    || broken.any fun o => decide (o ≤ e) && decide (e % 64 = 0) && decide (e < core.length - 64)
  let untranslated := needsTranslation b && !syl
  if !mapsOk (fun e => decide (e % 64 = 0) && (untranslated || entry e)) b then 0x07
  else if !requestsOk ms then 0x08
  else if untranslated then 0x0E
  else if broken.isSome || !segmentsOk va ss bs then 0x09
  else if !(ss.all (safesOk sps)) || !safeTableOk code ss entries (sectionBytes n 3)
      || !((chunks 48 ((sectionBytes n 6).length / 48) (sectionBytes n 6)).all fun e => safeEntryOk 1280 e && zeroAt e 0 4) then 0x0A
  else if !boundsOk false (sectionBytes n 4) || !boundsOk true (sectionBytes n 7) || !distanceOk code starts
      || !(decide (near = []) || distanceOk ncode [headField near 0 4]) then 0x0B
  else if !regionsOk code ss starts then 0x0C
  else if !(decide (near = []) || nearOk near nsps nbs) then 0x0D
  else if !syl then 0x0E
  else if !bandOk (isTier b) (sectionBytes b 9) ws nsps then 0x0F
  else 0

/-- The load status of an image (R323): the first check that fails decides. -/
def loadStatus (d : Dev) (b : Bytes) : Nat :=
  let n := nativeOf b
  let sylReady := needsTranslation b && sylvoteOk (isTier b) (sectionBytes b 10)
  let spUsed := (sylReady || !needsTranslation b) && (segmentsOf (sectionBytes n 2)).1.any fun s => decide (s.spidx ≠ 0xFFFF)
  if !headerOk b then 0x01
  else if !signatureOk d.fleet.keys.toList b then 0x02
  else if headField b 16 8 < codeCounter d then 0x03
  else if headField b 24 8 / 4 ≠ 0 then 0x04
  else if 2 < headField b 32 1 || (headField b 32 1 ≠ 0 && !isSyl b) then 0x05
  else if !sectionsOk b || (sylReady && !translatedOk b) || (spUsed && sectionCount n 3 = 0) then 0x06
  else codeStatus b

/-- What is kept of an accepted image (R315). -/
def objOf (b : Bytes) : Obj :=
  let n := nativeOf b
  let core := sectionBytes n 2
  let va := headField core 0 8
  let near := sectionBytes n 5
  { kid := headField b 8 8, svn := headField b 16 8, errm := headField b 24 8, cov := headField b 33 1, defparm := headField b 56 8,
    keyid := (b.drop (b.length - 256)).take 48, tier := isTier b, maps := (mapRecords b).map clMapOf,
    segs := (segmentsOf core).1.map fun s => va + s.ofs, loadva := va, sps := safePtsOf (sectionBytes n 3),
    nearSps := safePtsOf (sectionBytes n 6), nearEntry := headField near 0 4, nearCode := if near = [] then [] else nearWords near,
    band := (sectionBytes b 9).map (·.toNat), code := core.drop 64 }

/-- What an accepted image places in the tenant's memory: address and bytes of its core code and data (R310). -/
def placements (b : Bytes) : List (Nat × Bytes) :=
  let n := nativeOf b
  let core := sectionBytes n 2
  (headField core 0 8, core.drop 64)
    :: ((sectionsOf b).filter fun s => decide (s.type = 8)).map fun s => (headField (s.bytes b) 0 8, (s.bytes b).drop 64)

/-- An image that has been copied is checked and, when it is accepted, placed and registered (R315, R323). -/
def registerImage (ten key stat : Nat) (b : Bytes) (d : Dev) : RecEnd :=
  let st := loadStatus d b
  if st ≠ 0 then .done (tput d ten stat 8 st)
  else
    let ps := placements b
    match pagesHere ten (ps.flatMap fun p => pagesOf p.1 p.2.length) d true with
    | .error d => .retry d
    | .ok _ =>
      let d := ps.foldl (fun d p => tputBytes d ten p.1 p.2) d
      .done (tput { d with objs := d.objs.put key (objOf b) } ten stat 8 0)

/-- REGISTER (R359). -/
def execRegister (s : State) : Out := runRecord s fun ten _ r d =>
  let img := recNum r 8 8
  let n := recNum r 16 8
  let h := recNum r 24 4
  let op := recNum r 28 1
  let stat := recNum r 32 8
  let key := ten * 4096 + h
  if h = 0 || 4095 < h || 1 < op || !recZero r 29 3 || !recZero r 40 24 then .fault 4
  else withAddrs d ten [(stat, 8, true)] <|
  match pagesHere ten [stat] d true with
    | .error d => .retry d
    | .ok _ =>
      if op = 1 then
        if (d.objs.find? key).isNone then .done (tput d ten stat 8 0x22)
        else if d.launches.any fun e => decide (e.2.obj = key) then .done (tput d ten stat 8 0x21)
        else .done (tput { d with objs := d.objs.erase key } ten stat 8 0)
      else if (d.objs.find? key).isSome then .done (tput d ten stat 8 0x20)
      else if n < 512 || 2 ^ 30 < n then .done (tput d ten stat 8 0x01)
      else if 2 ^ 56 < img + n || !readable d ten img n then .fault 5
      else match copyIn ten img n d with
        | .error d => .retry d
        | .ok (b, d) => registerImage ten key stat b d

end Sys2Proof.Machine
end

