-- ==== Sys2Proof/Machine/NearPort.lean ====
section
/-! DEFINITION. Stream ports, broadcast multiply-accumulate, bank copies and completion writes of near-data units: opcodes
0x0F to 0x12, ntab, and the steps that move their entries (R295, R297 to R303, R307). -/

namespace Sys2Proof.Machine

/-! ### Opening a port (R297) -/

/-- Addresses of the stored entries of a port. -/
def entryAddrs (base : Nat) (stride : Int) (n : Nat) : List Nat := (List.range n).map fun (k : Nat) => addr64 base (k * stride)

/-- The pairs of a bitmap (R297). -/
def bitmapPairs (map : List (Byte × Bool)) (n : Nat) : List Bool := (List.range n).map fun i => ((map.getD (i / 8) (0, false)).1).getLsbD (i % 8)

/-- NSOPEN (R297, R302). A refused page of the bitmap leaves the port open without it: the next pop traps (R298). -/
def execNsopen (d : BitVec 2) (a b : BitVec 4) (s : State) : Out := runNear (do
  let base ← NearOp.gClean a
  let sh ← NearOp.gClean b
  let mode := bits sh 30 2
  let cnt := bits sh 0 30
  let stride := sx 32 (bits sh 32 32)
  if stride % 64 ≠ 0 || mode = 3 || (mode = 2 && (cnt % 2 = 1 || 14 < b.toNat)) then NearOp.illegal
  else
    if NearOp.portOpen (← NearOp.port d) then NearOp.portTrap .portBusy d
    else if base % 64 ≠ 0 then NearOp.trap .permission [base]
    else
      let bm ← if mode = 2 then NearOp.gClean (b + 1) else pure 0
      let nb := if mode = 2 then ceilDiv (cnt / 2) 8 else 0
      NearOp.allowed false ((NearOp.pieces bm nb).map (·.1))
      let x ← get
      match (NearOp.pieces bm nb).find? fun p => decide (unitWay x.dev x.u p.1 = .refused) with
      | some p =>
        let u ← NearOp.me
        NearOp.stallUnless (!NearOp.copyOver u bm nb)
        NearOp.modPort d fun q =>
          { mode := some mode, base := base, stride := stride, cnt := cnt, out := q.out, bitmap := some bm, refused := some (alignDown p.1 16384) }
      | none =>
        let map ← NearOp.read bm nb
        match map.zipIdx.find? fun e => e.1.2 with
        | some e => NearOp.trap .poison [bm + e.2]
        | none =>
          let pairs := bitmapPairs map (if mode = 2 then cnt / 2 else 0)
          let n := if mode = 2 then 2 * (pairs.filter id).length else cnt
          let ads := entryAddrs base stride n
          NearOp.allowed (decide (mode = 1)) ads
          let u ← NearOp.me
          NearOp.stallUnless (ads.all fun x => !NearOp.copyOver u x 64)
          NearOp.modPort d fun p => { mode := some mode, base := base, stride := stride, cnt := cnt, bits := pairs, out := p.out }) s

/-! ### Popping and pushing (R295, R298, R307) -/

/-- The lanes of an entry; the lanes of a poisoned granule are poisoned (R307). -/
def entryLanes (e : Bytes × List Nat) : List (Nat × Bool) :=
  (List.range 16).map fun l => (leNat ((e.1.drop (4 * l)).take 4), e.2.contains (l / 8))

/-- NLD (R298, R307). -/
def execNld (d : BitVec 4) (a : BitVec 2) (s : State) : Out := runNear (do NearOp.putLanes d (entryLanes (← NearOp.popRead a))) s

/-- NTAB (R53, R295): A is in bits 17:14 of the word. -/
def execNtab (s : State) : Out := runNear (do
  let x ← NearOp.me
  let e ← NearOp.popRead (BitVec.ofNat 2 (bits x.iw 14 4))
  NearOp.modMe fun x => { x with table := BitVec.ofNat 256 (leNat (e.1.take 32)) }) s

/-- NST (R298, R307): a poisoned lane is noted in PM. -/
def execNst (d : BitVec 2) (a : BitVec 4) (f : BitVec 3) (s : State) : Out := runNear (do
  let p ← NearOp.port d
  match p.mode with
  | some 1 =>
    if p.cnt ≤ p.used then NearOp.portTrap .portOverrun d
    else
      NearOp.portOk d
      let m ← NearOp.mask f
      let l ← NearOp.lanes a
      let on := l.zipIdx.filter fun e => m.getLsbD e.2
      let k ← NearOp.nextWrite
      NearOp.modPort d fun p =>
        { p with used := p.used + 1, out := p.out ++ [{ num := k, addr := addr64 p.base (p.used * p.stride), lanes := on.map fun e => (4 * e.2, toLe 4 e.1.1, e.1.2) }] }
      NearOp.flags (BitVec.ofNat 24 (256 * packLanes 1 (l.zipIdx.map fun e => (m.getLsbD e.2 && e.1.2).toNat)))
  | _ => NearOp.portTrap .portMode d) s

/-! ### Broadcast multiply-accumulate (R299 to R301, R307) -/

/-- The values of the packed elements of an 8-byte chunk: for ZQ4 with a scale and a shift byte of n15 (R300). -/
def chunkVals (t : Fmt) (table : Nat) (sb shift : Nat) (chunk : Nat) : List Num :=
  (lanesOf (laneW t) (64 / laneW t) chunk).map fun v => match t with
    | .zq4 => zqValue table shift sb v
    | t => numOf t v

/-- One output of an nmac: the accumulator and one K-group, with the status it sets; float results round once (R56, R57, R299). -/
def nmacLane (isInt : Bool) (c : Nat) (w act : List Num) : Nat × BitVec 24 :=
  let sum := groupSum (w.zipWith Num.mul act)
  if isInt then
    let v := sx 32 c + (match sum with | .fin s m e => scaled s m e 0 | _ => 0)
    (wrap 32 v, if v < -2 ^ 31 || 2 ^ 31 ≤ v then 0x80 else 0)
  else
    let r := fp32.arith 0 false (Num.add false (f32Num c) sum)
    (r.1, r.2.setWidth 24)

/-- The entries that an nmac consumes (R299, R301): none for a clear bit of a sparse port. -/
def NearOp.popPair (a : BitVec 2) : NearM (Option (List (Bytes × List Nat))) := do
  let p ← NearOp.port a
  match p.mode with
  | none => NearOp.portTrap .portEmpty a
  | some 1 => NearOp.portTrap .portMode a
  | some 2 =>
    if p.bitmap.isSome then NearOp.portOk a
    match p.bits[p.used]? with
    | none => NearOp.portTrap .portEmpty a
    | some b =>
      let l ← if b then NearOp.pop a 2 else pure []
      NearOp.modPort a fun p => { p with used := p.used + 1 }
      return if b then some l else none
  | some _ =>
    if p.cnt < p.used + 2 then NearOp.portTrap .portEmpty a
    else
      let l ← NearOp.pop a 2
      NearOp.modPort a fun p => { p with used := p.used + 2 }
      return some l

/-- NMAC (R299 to R301, R307). -/
def execNmac (t : Fmt) (d : BitVec 4) (a : BitVec 2) (b : BitVec 4) (f : BitVec 3) (j : BitVec 3) (z : Bool) (s : State) : Out := runNear (do
  let pair ← NearOp.popPair a
  let u ← NearOp.me
  let m ← NearOp.mask f
  let acc ← NearOp.lanes d
  let x ← NearOp.lanes b
  let sc ← NearOp.lanes 15
  let isZq := decide (t = .zq4)
  let isInt := t = .i8 || t = .u8 || t = .i4
  let byte (i : Nat) : Nat := bits (sc.getD (i / 4) (0, false)).1 (8 * (i % 4)) 8
  let scPsn (i : Nat) : Bool := isZq && (sc.getD (i / 4) (0, false)).2
  let chunk := (x.getD (2 * j.toNat) (0, false)).1 + (x.getD (2 * j.toNat + 1) (0, false)).1 * 2 ^ 32
  let actPsn := (x.getD (2 * j.toNat) (0, false)).2 || (x.getD (2 * j.toNat + 1) (0, false)).2 || scPsn 32
  let act := chunkVals t u.table.toNat (byte 32) (byte 33) chunk
  let bytes := ((pair.getD []).map (·.1)).flatten
  let r := acc.zipIdx.map fun e =>
    let o := e.2
    let w := if pair.isSome then chunkVals t u.table.toNat (byte o) (byte (16 + o)) (leNat ((bytes.drop (8 * o)).take 8)) else act.map fun _ => Num.fin false 0 0
    let (v, fl) := nmacLane isInt (if z then 0 else e.1.1) w act
    let psn := (match pair with | some l => ((l.getD (o / 8) ([], [])).2.contains (o % 8 / 4)) | none => false)
      || actPsn || (!z && e.1.2) || scPsn o || scPsn (16 + o)
    (v, psn, fl)
  NearOp.putLanes d ((acc.zip r).zipIdx.map fun e => if m.getLsbD e.2 then (e.1.2.1, e.1.2.2.1) else e.1.1)
  NearOp.flags ((r.zipIdx.map fun e => if m.getLsbD e.2 then e.1.2.2 ||| (if e.1.2.1 then 0x40#24 else 0) else 0).foldl (· ||| ·) 0)) s

/-! ### Copies and completion writes (R302, R303) -/

/-- Whether a range lies in the unit's local range; an untranslated page stalls (R302). -/
def NearOp.localRange (va n : Nat) : NearM Bool := do
  let x ← get
  let ways := (List.range n).map fun k => unitWay x.dev x.u (va + 64 * k)
  NearOp.stallUnless (ways.all fun w => decide (w ≠ .miss))
  return ways.all fun w => match w with | .here loc _ _ => unitLocal x.dev x.u loc | _ => false

/-- NBCP (R302): D, A and B are in bits 21:10 of the word. -/
def execNbcp (s : State) : Out := runNear (do
  let x ← NearOp.me
  if 512 ≤ (← NearOp.num) then NearOp.illegal
  else
    let dst ← NearOp.gClean (BitVec.ofNat 4 (bits x.iw 18 4))
    let src ← NearOp.gClean (BitVec.ofNat 4 (bits x.iw 14 4))
    let n ← NearOp.gClean (BitVec.ofNat 4 (bits x.iw 10 4))
    if dst % 64 ≠ 0 || src % 64 ≠ 0 then NearOp.trap .localRange [dst, src]
    else if !((← NearOp.localRange dst n) && (← NearOp.localRange src n)) then NearOp.trap .localRange [dst, src]
    else if n = 0 then return
    else
      -- what the unit pushed before is visible to the copy (R281)
      NearOp.stallUnless (!NearOp.pendingOver x src (64 * n) && !NearOp.pendingOver x dst (64 * n))
      let k ← NearOp.nextWrite
      NearOp.modMe fun x => { x with copies := x.copies ++ [{ num := k, dst := dst, src := src, n := n }] }) s

/-- CWR (R269, R303): A and B are in bits 17:10 of the word. -/
def execCwr (s : State) : Out := runNear (do
  let x ← NearOp.me
  let a ← NearOp.gClean (BitVec.ofNat 4 (bits x.iw 14 4))
  let v ← NearOp.gClean (BitVec.ofNat 4 (bits x.iw 10 4))
  if a % 16 ≠ 0 then NearOp.trap .permission [a]
  else
    NearOp.allowed true [a]
    NearOp.complete a v) s

/-! ### The steps of ports and copies -/

/-- The device with port p of unit u changed. -/
def modNearPort (u p : Nat) (f : Port → Port) (d : Dev) : Dev := d.modUnit u fun x => { x with ports := vset x.ports p (f (vget x.ports p {})) }

/-- Stored entries of a read port (R297). -/
def storedEntries (p : Port) : Nat := if p.mode = some 2 then 2 * (p.bits.filter id).length else p.cnt

/-- Poisoned 32-byte granules of an entry (R307). -/
def entryPoison (l : List (Byte × Bool)) : List Nat := (List.range 2).filter fun g => ((l.drop (32 * g)).take 32).any (·.2)

/-- The bytes of a sparse port's bitmap. -/
def bitmapBytes (p : Port) : Nat := ceilDiv (p.cnt / 2) 8

/-- A bitmap that a refused page kept from being read is read once all of it is resident and what the unit wrote there has performed; the
checks of its nsopen follow (R281, R297, R298, R302, R307). -/
def readBitmap (u k bm : Nat) (d : Dev) : Option Dev :=
  let x := d.unit u
  let p := vget x.ports k {}
  let ps := NearOp.pieces bm (bitmapBytes p)
  if NearOp.pendingOver x bm (bitmapBytes p) || NearOp.copyOver x bm (bitmapBytes p) then none
  else match NearOp.firstDenied d u false (ps.map (·.1)) with
    | some (a, true) => some (modNearPort u k (fun p => { p with owed := some (false, a), refused := none }) d)
    | some _ => none
    | none =>
      match (ps.mapM fun (q : Nat × Nat) => match unitWay d u q.1 with
          | .here loc _ _ => (unitBytes d u loc q.2).1
          | _ => none).map List.flatten with
      | none => none
      | some map =>
        let pairs := bitmapPairs map (p.cnt / 2)
        let ads := entryAddrs p.base p.stride (2 * (pairs.filter id).length)
        match map.zipIdx.find? fun e => e.1.2 with
        | some e => some (modNearPort u k (fun p => { p with owed := some (true, bm + e.2), refused := none }) d)
        | none =>
          if ads.any fun a => NearOp.copyOver x a 64 then none
          else match NearOp.firstDenied d u false ads with
            | some (a, true) => some (modNearPort u k (fun p => { p with owed := some (false, a), refused := none }) d)
            | some _ => none
            | none => some (modNearPort u k (fun p => { p with bits := pairs, bitmap := none, refused := none, owed := none }) d)

/-- The refused page of a port's bitmap, if it still has one (R298). -/
def bitmapRefused (d : Dev) (u : Nat) (p : Port) : Option Nat :=
  p.bitmap.bind fun bm => ((NearOp.pieces bm (bitmapBytes p)).find? fun q => decide (unitWay d u q.1 = .refused)).map fun q => alignDown q.1 16384

/-- PORT_ENTRY_DELIVER (R298): a read port's next entry arrives; a non-resident page is requested, a refused one noted. -/
def execPortEntryDeliver (s : State) : Out := runEvent s fun t d =>
  match t with
  | .agent u k =>
    let x := d.unit u
    let p := vget x.ports k {}
    let va := addr64 p.base (p.got * p.stride)
    if let some bm := p.bitmap then readBitmap u k bm d
    else if p.mode = none || p.mode = some 1 || storedEntries p ≤ p.got || NearOp.pendingOver x va 64 then none
    else
      let put (l : List (Byte × Bool)) (d : Dev) : Dev :=
        modNearPort u k (fun p => { p with buf := p.buf ++ [(l.map (·.1), entryPoison l)], got := p.got + 1, refused := none }) d
      match unitWay d u va with
      | .here loc _ _ => match unitBytes (touch d loc) u loc 64 with
        | (some l, d) => some (put l d)
        | (none, _) => none
      | .peer dev .. =>
        let (r, d) := askPeer dev 64 d
        some (put ((r.getD (toLe 64 0)).map fun b => (b, r.isNone)) d)
      | .absent .. => some (requestPage d x.ten va false)
      | .refused => some (modNearPort u k (fun p => { p with refused := some (alignDown va 16384) }) d)
      | _ => none
  | _ => none

/-- PORT_WRITE_PERFORM (R290, R298): a write port's oldest pushed entry performs. -/
def execPortWritePerform (s : State) : Out := runEvent s fun t d =>
  match t with
  | .agent u k =>
    let x := d.unit u
    match (vget x.ports k {}).out with
    | [] => none
    | ⟨n, va, l⟩ :: _ =>
      let pop (d : Dev) : Dev := modNearPort u k (fun p => { p with out := p.out.drop 1, refused := bitmapRefused d u p }) d
      match unitWay d u va with
      | .here loc _ _ => some (pop (l.foldl (fun d e => unitWrite u n (loc + e.1) e.2.1 e.2.2 d) d))
      | .peer dev ten a .. =>
        let b : List (Option Byte) := (List.range 64).map fun i =>
          l.findSome? fun e => if e.1 ≤ i && i < e.1 + e.2.1.length then e.2.1[i - e.1]? else none
        some (pop (sendOut { dev := dev, agent := unitAgent u, ten := ten, addr := a, n := 64, data := some b } d))
      | .absent .. => some (requestPage d x.ten va true)
      | .refused => some (modNearPort u k (fun p => { p with refused := some (alignDown va 16384) }) d)
      | _ => none
  | _ => none

/-- NBCP_ENTRY_COPY (R302): the oldest copy's next entry, while its bytes lie in the unit's local range (log 81); a granule with an
uncorrectable error is written poisoned. -/
def execNbcpEntryCopy (s : State) : Out := runEvent s fun t d =>
  match t with
  | .agent u _ =>
    match (d.unit u).copies with
    | [] => none
    | c :: l =>
      match unitWay d u (c.src + 64 * c.k), unitWay d u (c.dst + 64 * c.k) with
      | .here a _ _, .here b _ _ =>
        if !unitLocal d u a || !unitLocal d u b then none
        else match unitBytes (touch d a) u a 64 with
        | (some v, d) =>
          let d := (List.range 2).foldl (fun d g =>
            unitWrite u c.num (b + 32 * g) (((v.drop (32 * g)).take 32).map (·.1)) ((entryPoison v).contains g) d) d
          let c := { c with k := c.k + 1 }
          some (d.modUnit u fun x => { x with copies := if c.k < c.n then c :: l else l })
        | (none, _) => none
      | _, _ => none
  | _ => none

/-- ECC_CORRECTED_RESUME (R307): the controller has corrected and rewritten a word. -/
def execEccCorrectedResume (s : State) : Out := runEvent s fun t d =>
  match t with
  | .agent u _ => if (d.unit u).run = .absent then none else some (d.modUnit u fun x => { x with ncor := x.ncor + 1 })
  | _ => none

end Sys2Proof.Machine
end

