-- ==== Sys2Proof/Machine/NearScalar.lean ====
section
/-! DEFINITION. Near-data scalar, branch and control instructions: opcodes 0x01 to 0x07 (R287 to R291, R305, R331 to R333). -/

namespace Sys2Proof.Machine

/-! ### Scalar ALU (R287) -/

/-- GADD (R287). -/
def execGadd (d a b : BitVec 4) (s : State) : Out := runNear (NearOp.scalar d a b fun x y => x + y) s
/-- GSUB (R287). -/
def execGsub (d a b : BitVec 4) (s : State) : Out := runNear (NearOp.scalar d a b fun x y => x - y) s
/-- GMUL (R287). -/
def execGmul (d a b : BitVec 4) (s : State) : Out := runNear (NearOp.scalar d a b fun x y => x * y) s
/-- GAND (R287). -/
def execGand (d a b : BitVec 4) (s : State) : Out := runNear (NearOp.scalar d a b fun x y => x &&& y) s
/-- GOR (R287). -/
def execGor (d a b : BitVec 4) (s : State) : Out := runNear (NearOp.scalar d a b fun x y => x ||| y) s
/-- GXOR (R287). -/
def execGxor (d a b : BitVec 4) (s : State) : Out := runNear (NearOp.scalar d a b fun x y => x ^^^ y) s
/-- GSHL (R287). -/
def execGshl (d a b : BitVec 4) (s : State) : Out := runNear (NearOp.scalar d a b fun x y => x <<< (y.toNat % 64)) s
/-- GSHR (R287). -/
def execGshr (d a b : BitVec 4) (s : State) : Out := runNear (NearOp.scalar d a b fun x y => x >>> (y.toNat % 64)) s
/-- GSAR (R287). -/
def execGsar (d a b : BitVec 4) (s : State) : Out := runNear (NearOp.scalar d a b fun x y => x.sshiftRight (y.toNat % 64)) s
/-- GMIN (R287). -/
def execGmin (d a b : BitVec 4) (s : State) : Out := runNear (NearOp.scalar d a b fun x y => if x.toInt ≤ y.toInt then x else y) s
/-- GMAX (R287). -/
def execGmax (d a b : BitVec 4) (s : State) : Out := runNear (NearOp.scalar d a b fun x y => if x.toInt ≤ y.toInt then y else x) s
/-- GMINU (R287). -/
def execGminu (d a b : BitVec 4) (s : State) : Out := runNear (NearOp.scalar d a b fun x y => if x.toNat ≤ y.toNat then x else y) s
/-- GMAXU (R287). -/
def execGmaxu (d a b : BitVec 4) (s : State) : Out := runNear (NearOp.scalar d a b fun x y => if x.toNat ≤ y.toNat then y else x) s

/-! ### Immediates (R288) -/

/-- GADDI (R288). -/
def execGaddi (d a : BitVec 4) (i : BitVec 18) (s : State) : Out := runNear (do
  let (x, p) ← NearOp.g a
  NearOp.putG d (x + i.signExtend 64) p) s
/-- GMOVI (R288). -/
def execGmovi (d : BitVec 4) (i : BitVec 18) (s : State) : Out := runNear (NearOp.putG d (i.signExtend 64) false) s
/-- GLUI (R288). -/
def execGlui (d : BitVec 4) (h : BitVec 2) (c : BitVec 16) (s : State) : Out := runNear (do
  let (x, p) ← NearOp.g d
  NearOp.putG d (BitVec.ofNat 64 (setBits x.toNat (16 * h.toNat) 16 c.toNat)) p) s

/-! ### Branches (R289) -/

/-- A branch: a poisoned register traps; a taken branch goes to this word plus its offset (R289). -/
def NearOp.branch (a b : BitVec 4) (o : BitVec 15) (c : Nat → Nat → Bool) : NearM Unit := do
  let x ← NearOp.gClean a
  let y ← NearOp.gClean b
  let u ← NearOp.me
  if c x y then NearOp.jump ((u.pc : Int) + o.toInt).toNat else return

/-- BEQ (R289). -/
def execBeq (a b : BitVec 4) (o : BitVec 15) (s : State) : Out := runNear (NearOp.branch a b o fun x y => decide (x = y)) s
/-- BNE (R289). -/
def execBne (a b : BitVec 4) (o : BitVec 15) (s : State) : Out := runNear (NearOp.branch a b o fun x y => decide (x ≠ y)) s
/-- BLT (R289). -/
def execBlt (a b : BitVec 4) (o : BitVec 15) (s : State) : Out := runNear (NearOp.branch a b o fun x y => decide (sx 64 x < sx 64 y)) s
/-- BGE (R289). -/
def execBge (a b : BitVec 4) (o : BitVec 15) (s : State) : Out := runNear (NearOp.branch a b o fun x y => decide (sx 64 y ≤ sx 64 x)) s
/-- BLTU (R289). -/
def execBltu (a b : BitVec 4) (o : BitVec 15) (s : State) : Out := runNear (NearOp.branch a b o fun x y => decide (x < y)) s
/-- BGEU (R289). -/
def execBgeu (a b : BitVec 4) (o : BitVec 15) (s : State) : Out := runNear (NearOp.branch a b o fun x y => decide (y ≤ x)) s
/-- B (R289). -/
def execB (o : BitVec 15) (s : State) : Out := runNear (NearOp.branch 0 0 o fun _ _ => true) s

/-! ### Loops and control (R290) -/

/-- Whether a loop entry is the band loop's (R329). -/
def NLoop.isBand (u : Near) (e : NLoop) : Bool := decide (u.ndloop.map (· + 1) = some e.first)

/-- NLOOP (R100, R290); the band loop's passes are counted as they begin (R331, log 81). -/
def execNloop (a : BitVec 4) (o : BitVec 15) (s : State) : Out := runNear (do
  let n ← NearOp.gClean a
  let u ← NearOp.me
  if 2 ^ 32 - 1 < n then NearOp.trap .loopCount [n]
  else
    if u.ndloop = some u.pc then NearOp.modMe fun x => { x with passes := min n 1 }
    if n = 0 then NearOp.jump (u.pc + o.toNat + 1)
    else if u.loops.length = 6 then NearOp.trap .loopStack [6]
    else NearOp.modMe fun x => { x with loops := { index := 0, remaining := BitVec.ofNat 32 n, first := u.pc + 1 } :: x.loops }) s
/-- NENDL (R100, R290). -/
def execNendl (s : State) : Out := runNear (do
  let u ← NearOp.me
  match u.loops with
  | [] => NearOp.trap .loopStack [0]
  | e :: l =>
    let r := e.remaining - 1
    if r = 0 then NearOp.modMe fun x => { x with loops := l }
    else
      NearOp.modMe fun x => { x with loops := { e with index := e.index + 1, remaining := r } :: l,
                                     passes := if e.isBand u then x.passes + 1 else x.passes }
      NearOp.jump e.first) s
/-- NLPOP (R100, R290). -/
def execNlpop (s : State) : Out := runNear (do
  let u ← NearOp.me
  match u.loops with
  | [] => NearOp.trap .loopStack [0]
  | _ :: l => NearOp.modMe fun x => { x with loops := l }) s
/-- GMVI (R290). -/
def execGmvi (d : BitVec 4) (n : BitVec 3) (s : State) : Out := runNear (do
  let u ← NearOp.me
  let i : BitVec 32 := match u.loops[n.toNat]? with | some e => e.index | none => 0
  NearOp.putG d (i.setWidth 64) false) s
/-- NHALT (R290): after every write has performed, the unit's part of the launch is over. -/
def execNhalt (s : State) : Out := runNear (do
  NearOp.drained
  NearOp.modMe fun x => { x with run := .done, ports := .replicate 4 {} }) s
/-- NTRAP (R290): the record names the next word. -/
def execNtrap (s : State) : Out := runNear (do
  let u ← NearOp.me
  let t : TrapInfo := { cause := Cause.software.code, cont := [bits u.iw 6 16], after := true }
  modify fun x =>
    let d := x.dev.modUnit x.u fun y => { y with pc := u.pc + 1 }
    { x with dev := takeNearTrap d x.u t }) s

/-! ### Safe points and hand-over points (R291, R305, R331, R333) -/

/-- The drain and the checks of a safe point (R291). -/
def NearOp.safeCheck : NearM Unit := do
  NearOp.drained
  let x ← NearOp.me
  match x.ports.toList.zipIdx.find? fun e => NearOp.portOpen e.1 with
  | some e => NearOp.trap .safeBusy [e.2]
  | none => return

/-- A request that waits is taken: the unit parks at the next word (R24, R34). -/
def NearOp.takeRequests : NearM Unit := NearOp.modMe fun x =>
  if x.reqs.isEmpty then x
  else if x.reqs.contains .preempt then { x with reqs := x.reqs.filter (· ≠ .preempt), run := .saved, sp := some (bits x.iw 6 16) }
  else { x with reqs := [], run := .parked, sp := some (bits x.iw 6 16) }

/-- The word after the band loop's nendl (R329). -/
def bandEnd (x : Near) : Option Nat := x.ndloop.map fun w => w + bits (x.code.getD w 0) 0 15 + 1

/-- NSAFE (R291). -/
def execNsafe (s : State) : Out := runNear (do
  NearOp.safeCheck
  NearOp.takeRequests) s

/-- A unit's drain has begun: the request that is pending now is the one that the nhopt may take (R305). -/
def drainBegin (u : Nat) (d : Dev) : Dev :=
  d.modUnit u fun x => if x.handDrain.isSome then x else { x with handDrain := some x.hand }

/-- NHOPT (R305, R331, R333). -/
def NearOp.handOver : NearM Unit := do
  NearOp.safeCheck
  let x ← NearOp.me
  let u ← NearOp.num
  let atEnd := decide (bandEnd x = some x.pc)
  let cur := x.band + (if atEnd then x.passes else ((x.loops.head?).map fun e => e.index.toNat).getD 0)
  let rq := x.handDrain.getD none
  NearOp.modMe fun x => { x with handDrain := none }
  match rq with
  | none => NearOp.takeRequests
  | some r =>
    if !atEnd && decide (cur < r.rmin.toNat) then NearOp.takeRequests
    else
      let dest := if atEnd then 0 else r.dest.toNat
      let h : Head := { flags := unitTier u + 4 * dest + 16 * atEnd.toNat, kid := x.kid.toNat, cur := [cur % 2 ^ 32], cdep := if atEnd then 0 else 1,
                        lfmt := 1, ranges := [], llen := 0, parm := x.parm.toNat, rgen := r.rgen.toNat, seq := r.seq.toNat, plan := x.plan.toNat }
      NearOp.saveParison r.pa.toNat (bits x.iw 6 16) true h
      NearOp.complete r.cw.toNat r.seq.toNat
      NearOp.modMe fun x => { x with run := .done, hand := none, reqs := [] }
/-- NHOPT (R305). -/
def execNhopt (s : State) : Out :=
  match s.turn with
  | .agent u _ => runNear NearOp.handOver { s with dev := if (s.dev.unit u).run = .running then drainBegin u s.dev else s.dev }
  | _ => .fault .noUnit

end Sys2Proof.Machine
end

