-- ==== Sys2Proof/Machine/NearSys.lean ====
section
/-! DEFINITION. Parison transfer, unit registers and the traps of fetching of near-data units: opcodes 0x13 and 0x14 (R284, R304,
R306, R308). -/

namespace Sys2Proof.Machine

/-- NPSAVE (R304): A is in bits 17:14 of the word and K in bits 13:0. -/
def execNpsave (s : State) : Out := runNear (do
  let x ← NearOp.me
  let u ← NearOp.num
  let a ← NearOp.gClean (BitVec.ofNat 4 (bits x.iw 14 4))
  if a % 64 ≠ 0 then NearOp.trap .permission [a]
  else
    let h : Head := { flags := unitTier u, kid := x.kid.toNat, cur := x.loops.reverse.map fun e => e.index.toNat, cdep := x.loops.length,
                      lfmt := 1, ranges := [], llen := 0, parm := x.parm.toNat, rgen := 0, seq := 0, plan := x.plan.toNat }
    NearOp.saveParison a (bits x.iw 0 14) false h) s

/-- NPLOAD (R304): D and A are in bits 21:14 of the word. -/
def execNpload (s : State) : Out := runNear (do
  let x ← NearOp.me
  let a ← NearOp.gClean (BitVec.ofNat 4 (bits x.iw 14 4))
  if a % 64 ≠ 0 then NearOp.trap .permission [a]
  else
    let st ← NearOp.loadParison a
    NearOp.putG (BitVec.ofNat 4 (bits x.iw 18 4)) (BitVec.ofNat 64 st) false) s

/-- The content of a unit register (R306). -/
def unitReg (x : Near) (u r : Nat) : Option Nat :=
  if r = 0 then some x.nst.toNat
  else if r = 1 then some x.ncor.toNat
  else if r = 2 then some ((if u < 512 then 0 else 256) + x.uid % 256)
  else if r = 3 then some x.ncyc.toNat
  else if 0x10 ≤ r && r ≤ 0x15 then some (vget x.cix (r - 0x10) 0).toNat
  else if r = 0x16 then some x.cixd.toNat
  else none

/-- GRSR (R306). -/
def execGrsr (d : BitVec 4) (r : BitVec 8) (s : State) : Out := runNear (do
  match unitReg (← NearOp.me) (← NearOp.num) r.toNat with
  | some v => NearOp.putG d (BitVec.ofNat 64 v) false
  | none => NearOp.illegal) s

/-- GWSR (R306): A is in bits 17:14 of the word and the register number in bits 13:6. -/
def execGwsr (s : State) : Out := runNear (do
  let x ← NearOp.me
  if bits x.iw 6 8 ≠ 0 then NearOp.illegal
  else
    let (v, _) ← NearOp.g (BitVec.ofNat 4 (bits x.iw 14 4))
    NearOp.modMe fun x => { x with nst := v.setWidth 24 }) s

/-- ILLEGAL_INSTRUCTION (R284, R285): the word does not decode. -/
def execIllegalInstruction (s : State) : Out := runNear NearOp.illegal s

/-- END_OF_CODE (R308): execution past the last word. -/
def execEndOfCode (s : State) : Out := runNear (do
  let x ← NearOp.me
  NearOp.trap .endOfCode [x.pc]) s

end Sys2Proof.Machine
end

