-- ==== Sys2Proof/Machine/NearVector.lean ====
section
/-! DEFINITION. Near-data vector instructions: opcodes 0x08 to 0x0E but ntab (R292 to R296). -/

namespace Sys2Proof.Machine

/-! ### Lanes (R292) -/

/-- NADD (R292). -/
def execNadd (d a b : BitVec 4) (f : BitVec 3) (s : State) : Out := runNear (NearOp.lanes2 d a b f (intWrap .i32 (· + ·))) s
/-- NSUB (R292). -/
def execNsub (d a b : BitVec 4) (f : BitVec 3) (s : State) : Out := runNear (NearOp.lanes2 d a b f (intWrap .i32 (· - ·))) s
/-- NMUL (R292). -/
def execNmul (d a b : BitVec 4) (f : BitVec 3) (s : State) : Out := runNear (NearOp.lanes2 d a b f (intWrap .i32 (· * ·))) s
/-- NMIN (R292). -/
def execNmin (d a b : BitVec 4) (f : BitVec 3) (s : State) : Out := runNear (NearOp.lanes2 d a b f (intWrap .i32 fun x y => if x ≤ y then x else y)) s
/-- NMAX (R292). -/
def execNmax (d a b : BitVec 4) (f : BitVec 3) (s : State) : Out := runNear (NearOp.lanes2 d a b f (intWrap .i32 fun x y => if x ≤ y then y else x)) s
/-- NMINU (R292). -/
def execNminu (d a b : BitVec 4) (f : BitVec 3) (s : State) : Out := runNear (NearOp.lanes2 d a b f (fun x y => (min x y, 0))) s
/-- NMAXU (R292). -/
def execNmaxu (d a b : BitVec 4) (f : BitVec 3) (s : State) : Out := runNear (NearOp.lanes2 d a b f (fun x y => (max x y, 0))) s
/-- NAND (R292). -/
def execNand (d a b : BitVec 4) (f : BitVec 3) (s : State) : Out := runNear (NearOp.lanes2 d a b f (fun x y => (x &&& y, 0))) s
/-- NOR (R292). -/
def execNor (d a b : BitVec 4) (f : BitVec 3) (s : State) : Out := runNear (NearOp.lanes2 d a b f (fun x y => (x ||| y, 0))) s
/-- NXOR (R292). -/
def execNxor (d a b : BitVec 4) (f : BitVec 3) (s : State) : Out := runNear (NearOp.lanes2 d a b f (fun x y => (x ^^^ y, 0))) s
/-- NSHL (R292). -/
def execNshl (d a b : BitVec 4) (f : BitVec 3) (s : State) : Out := runNear (NearOp.lanes2 d a b f (laneShl 32)) s
/-- NSHR (R292). -/
def execNshr (d a b : BitVec 4) (f : BitVec 3) (s : State) : Out := runNear (NearOp.lanes2 d a b f (laneShr 32)) s
/-- NSAR (R292). -/
def execNsar (d a b : BitVec 4) (f : BitVec 3) (s : State) : Out := runNear (NearOp.lanes2 d a b f (laneSar 32)) s
/-- NFADD (R292). -/
def execNfadd (d a b : BitVec 4) (f : BitVec 3) (s : State) : Out := runNear (NearOp.float2 d a b f (Num.add false)) s
/-- NFSUB (R292). -/
def execNfsub (d a b : BitVec 4) (f : BitVec 3) (s : State) : Out := runNear (NearOp.float2 d a b f (fun x y => Num.add false x y.neg)) s
/-- NFMUL (R292). -/
def execNfmul (d a b : BitVec 4) (f : BitVec 3) (s : State) : Out := runNear (NearOp.float2 d a b f (Num.mul)) s
/-- NFMA (R292): nD is read before it is written. -/
def execNfma (d a b : BitVec 4) (f : BitVec 3) (s : State) : Out := runNear (do
  let x ← NearOp.lanes a
  let y ← NearOp.lanes b
  let z ← NearOp.lanes d
  NearOp.guarded d f ((x.zip (y.zip z)).map fun e =>
    let r := fp32.arith 0 false (Num.add false (Num.mul (f32Num e.1.1) (f32Num e.2.1.1)) (f32Num e.2.2.1))
    (r.1, e.1.2 || e.2.1.2 || e.2.2.2, r.2))) s
/-- NFMIN (R143, R292). -/
def execNfmin (d a b : BitVec 4) (f : BitVec 3) (s : State) : Out := runNear (NearOp.lanes2 d a b f (floatPick fp32 false)) s
/-- NFMAX (R143, R292). -/
def execNfmax (d a b : BitVec 4) (f : BitVec 3) (s : State) : Out := runNear (NearOp.lanes2 d a b f (floatPick fp32 true)) s
/-- NCVT_I32_F32 (R47, R293). -/
def execNcvtI32F32 (d a : BitVec 4) (f : BitVec 3) (r : BitVec 2) (s : State) : Out := runNear (NearOp.lanes1 d a f (laneCvt .i32 .f32 r.toNat true)) s
/-- NCVT_F32_I32 (R48, R293). -/
def execNcvtF32I32 (d a : BitVec 4) (f : BitVec 3) (r : BitVec 2) (s : State) : Out := runNear (NearOp.lanes1 d a f (laneCvt .f32 .i32 r.toNat false)) s

/-! ### Compares and masks (R294) -/

/-- A condition on two 32-bit integer lanes (R294). -/
def nearCond (c x y : Nat) : Bool × BitVec 6 :=
  (match c with
    | 0 => decide (x = y)
    | 1 => decide (x ≠ y)
    | 2 => decide (sx 32 x < sx 32 y)
    | 3 => decide (sx 32 x ≤ sx 32 y)
    | 4 => decide (x < y)
    | _ => decide (x ≤ y), 0)

/-- NCMP_I32 (R294). -/
def execNcmpI32 (c d : BitVec 3) (a b : BitVec 4) (f : BitVec 3) (s : State) : Out := runNear (NearOp.compare d a b f (nearCond c.toNat)) s
/-- NCMP_F32 (R294). -/
def execNcmpF32 (c d : BitVec 3) (a b : BitVec 4) (f : BitVec 3) (s : State) : Out := runNear (NearOp.compare d a b f (Op.laneCmp .f32 c.toNat)) s
/-- FAND (R294). -/
def execFAnd (d a b : BitVec 3) (s : State) : Out := runNear (NearOp.mask2 d a b fun x y => x &&& y) s
/-- FOR (R294). -/
def execFOr (d a b : BitVec 3) (s : State) : Out := runNear (NearOp.mask2 d a b fun x y => x ||| y) s
/-- FXOR (R294). -/
def execFXor (d a b : BitVec 3) (s : State) : Out := runNear (NearOp.mask2 d a b fun x y => x ^^^ y) s
/-- FANDN (R294). -/
def execFAndn (d a b : BitVec 3) (s : State) : Out := runNear (NearOp.mask2 d a b fun x y => x &&& ~~~y) s
/-- FNOT (R294). -/
def execFNot (d a : BitVec 3) (s : State) : Out := runNear (NearOp.mask2 d a a fun x _ => ~~~x) s
/-- FSET (R294): a poisoned source traps. -/
def execFSet (d : BitVec 3) (a : BitVec 4) (s : State) : Out := runNear (do NearOp.putMask d (BitVec.ofNat 16 (← NearOp.gClean a))) s
/-- FGET (R294). -/
def execFGet (d : BitVec 4) (a : BitVec 3) (s : State) : Out := runNear (do NearOp.putG d ((← NearOp.mask a).setWidth 64) false) s

/-! ### Moves (R295) -/

/-- NBCAST (R295). -/
def execNbcast (d a : BitVec 4) (f : BitVec 3) (s : State) : Out := runNear (do
  let (x, p) ← NearOp.g a
  NearOp.guarded d f (List.replicate 16 (x.toNat % 2 ^ 32, p, 0))) s
/-- NGET (R295). -/
def execNget (d a l : BitVec 4) (s : State) : Out := runNear (do
  let x ← NearOp.lanes a
  let (v, p) := x.getD l.toNat (0, false)
  NearOp.putG d (BitVec.ofNat 64 v) p) s
/-- NINS (R295). -/
def execNins (d a l : BitVec 4) (s : State) : Out := runNear (do
  let (x, p) ← NearOp.g a
  let y ← NearOp.lanes d
  NearOp.putLanes d (y.set l.toNat (x.toNat % 2 ^ 32, p))) s
/-- NMOV (R295). -/
def execNmov (d a : BitVec 4) (f : BitVec 3) (s : State) : Out := runNear (NearOp.lanes1 d a f fun x => (x, 0)) s

/-! ### Reductions (R151, R296) -/

/-- NRSUM_I32 (R296): the exact sum. -/
def execNrsumI32 (d a : BitVec 4) (f : BitVec 3) (s : State) : Out := runNear (NearOp.reduce d a f fun l =>
  (BitVec.ofInt 64 ((l.map fun e => e.elim 0 (sx 32)).sum), 0)) s
/-- NRSUM_F32 (R151, R296): the tree with identity −0. -/
def execNrsumF32 (d a : BitVec 4) (f : BitVec 3) (s : State) : Out := runNear (NearOp.reduce d a f fun l =>
  let r := Op.tree (fun x y => fp32.arith 0 false (Num.add false (f32Num x) (f32Num y))) 7 (l.map fun e => e.getD 0x80000000) 0
  (BitVec.ofNat 64 r.1, r.2)) s
/-- NRMAX_I32 (R296). -/
def execNrmaxI32 (d a : BitVec 4) (f : BitVec 3) (s : State) : Out := runNear (NearOp.reduce d a f fun l =>
  (BitVec.ofInt 64 ((l.map fun e => e.elim (-2 ^ 31) (sx 32)).foldl max (-2 ^ 31)), 0)) s
/-- NRMIN_I32 (R296). -/
def execNrminI32 (d a : BitVec 4) (f : BitVec 3) (s : State) : Out := runNear (NearOp.reduce d a f fun l =>
  (BitVec.ofInt 64 ((l.map fun e => e.elim (2 ^ 31 - 1) (sx 32)).foldl min (2 ^ 31 - 1)), 0)) s
/-- NRMAX_F32 (R151, R296): identity −∞. -/
def execNrmaxF32 (d a : BitVec 4) (f : BitVec 3) (s : State) : Out := runNear (NearOp.reduce d a f fun l =>
  let r := Op.tree (floatPick fp32 true) 7 (l.map fun e => e.getD 0xFF800000) 0
  (BitVec.ofNat 64 r.1, r.2)) s

end Sys2Proof.Machine
end

