-- ==== Sys2Proof/Machine/Scalar.lean ====
section
/-! DEFINITION. Majors 0x04 to 0x09: predicates, compares and scalar arithmetic (R102 to R107). -/

namespace Sys2Proof.Machine

namespace Op

/-- A predicate result of the whole instruction: nothing when it is squashed (R70, R102). -/
def predResult (d : BitVec 4) (v : Word) (on : Bool) : SlotM Unit :=
  if on then putPred d.toNat 1 v (BitVec.allOnes 64) else pure ()

/-- pD := f pA pB (R102). -/
def predLogic (d a b : BitVec 4) (m : Bool) (f : Word → Word → Word) : SlotM Unit := do
  let s ← me
  predResult d (f (s.pred a.toNat) (s.pred b.toNat)) (← enabled m)

/-- A compare of two scalars into a predicate (R103). -/
def compare (d : BitVec 4) (a b : Opnd) (m : Bool) (f : Word → Word → Bool) : SlotM Unit := do
  let x ← rdS a
  let y ← rdS b
  predResult d (if f x y then BitVec.allOnes 64 else 0) (← enabled m)

/-- sD := f sA sB at +lat (R104, R107). -/
def scalar2 (lat : Nat) (d a b : Opnd) (m : Bool) (f : Word → Word → Word) : SlotM Unit := do
  let x ← rdS a
  let y ← rdS b
  let t ← target 0 d
  putS t lat (f x y) (← enabled m)

/-- sD := f sA at +lat (R105, R107). -/
def scalar1 (lat : Nat) (d a : Opnd) (m : Bool) (f : Word → Word) : SlotM Unit := do
  let x ← rdS a
  let t ← target 0 d
  putS t lat (f x) (← enabled m)

end Op

/-- All ones or zero. -/
def allIf (c : Bool) : Word := if c then BitVec.allOnes 64 else 0

/-- The integer of a word as s64. -/
def sInt (x : Word) : Int := sx 64 x.toNat
/-- A word of an integer, modulo 2^64. -/
def ofS (v : Int) : Word := BitVec.ofNat 64 (wrap 64 v)

/-! ### Predicates (R102) -/

/-- PAND. -/
def execPand (d a b : BitVec 4) (m : Bool) (s : State) : Out := runSlot (Op.predLogic d a b m (· &&& ·)) s
/-- POR. -/
def execPor (d a b : BitVec 4) (m : Bool) (s : State) : Out := runSlot (Op.predLogic d a b m (· ||| ·)) s
/-- PXOR. -/
def execPxor (d a b : BitVec 4) (m : Bool) (s : State) : Out := runSlot (Op.predLogic d a b m (· ^^^ ·)) s
/-- PANDN. -/
def execPandn (d a b : BitVec 4) (m : Bool) (s : State) : Out := runSlot (Op.predLogic d a b m fun x y => x &&& ~~~y) s
/-- PNOT. -/
def execPnot (d a : BitVec 4) (m : Bool) (s : State) : Out := runSlot (Op.predLogic d a a m fun x _ => ~~~x) s
/-- PFIRST: lanes 0 to min(sA, 64) − 1. -/
def execPfirst (d : BitVec 4) (a : Opnd) (m : Bool) (s : State) : Out := runSlot (do
  let x ← Op.rdS a
  Op.predResult d (BitVec.ofNat 64 (2 ^ min x.toNat 64 - 1)) (← Op.enabled m)) s
/-- PST: bit k of st as this bundle's loop instruction writes it (R101). -/
def execPst (d a : BitVec 4) (m : Bool) (s : State) : Out := runSlot (do
  let x ← Op.me
  -- the loop instruction stands in the lowest lead slot, so it has run before every pst of its bundle
  let st := ((← get).iss.loopSt).getD x.regs.stage
  Op.predResult d (allIf (st.getLsbD a.toNat)) (← Op.enabled m)) s
/-- PFS. -/
def execPfs (d : BitVec 4) (a : Opnd) (m : Bool) (s : State) : Out := runSlot (do
  let x ← Op.rdS a
  Op.predResult d x (← Op.enabled m)) s
/-- SPF. -/
def execSpf (d : Opnd) (a : BitVec 4) (m : Bool) (s : State) : Out := runSlot (do
  let t ← Op.target 0 d
  Op.putS t 1 ((← Op.me).pred a.toNat) (← Op.enabled m)) s
/-- STW. -/
def execStw (a : Opnd) (m : Bool) (s : State) : Out := runSlot (do
  let x ← Op.rdS a
  if ← Op.enabled m then Op.pend .stage 1 (x.setWidth 256) 3) s
/-- STR. -/
def execStr (d : Opnd) (m : Bool) (s : State) : Out := runSlot (do
  let t ← Op.target 0 d
  Op.putS t 1 ((← Op.me).regs.stage.setWidth 64) (← Op.enabled m)) s

/-! ### Compares (R103) -/

/-- CEQ. -/
def execCeq (d : BitVec 4) (a b : Opnd) (m : Bool) (s : State) : Out := runSlot (Op.compare d a b m fun x y => decide (x = y)) s
/-- CNE. -/
def execCne (d : BitVec 4) (a b : Opnd) (m : Bool) (s : State) : Out := runSlot (Op.compare d a b m fun x y => decide (x ≠ y)) s
/-- CLT. -/
def execClt (d : BitVec 4) (a b : Opnd) (m : Bool) (s : State) : Out := runSlot (Op.compare d a b m BitVec.slt) s
/-- CLE. -/
def execCle (d : BitVec 4) (a b : Opnd) (m : Bool) (s : State) : Out := runSlot (Op.compare d a b m BitVec.sle) s
/-- CLTU. -/
def execCltu (d : BitVec 4) (a b : Opnd) (m : Bool) (s : State) : Out := runSlot (Op.compare d a b m BitVec.ult) s
/-- CLEU. -/
def execCleu (d : BitVec 4) (a b : Opnd) (m : Bool) (s : State) : Out := runSlot (Op.compare d a b m BitVec.ule) s
/-- CTST. -/
def execCtst (d : BitVec 4) (a b : Opnd) (m : Bool) (s : State) : Out := runSlot (Op.compare d a b m fun x y => decide (x &&& y ≠ 0)) s

/-! ### Scalar arithmetic (R104 to R106) -/

/-- ADD. -/
def execAdd (d a b : Opnd) (m : Bool) (s : State) : Out := runSlot (Op.scalar2 1 d a b m (· + ·)) s
/-- SUB. -/
def execSub (d a b : Opnd) (m : Bool) (s : State) : Out := runSlot (Op.scalar2 1 d a b m (· - ·)) s
/-- MUL. -/
def execMul (d a b : Opnd) (m : Bool) (s : State) : Out := runSlot (Op.scalar2 3 d a b m (· * ·)) s
/-- MULH: the high half of the s128 product. -/
def execMulh (d a b : Opnd) (m : Bool) (s : State) : Out :=
  runSlot (Op.scalar2 3 d a b m fun x y => ofS (sInt x * sInt y / (2 ^ 64 : Nat))) s
/-- MULHU: the high half of the u128 product. -/
def execMulhu (d a b : Opnd) (m : Bool) (s : State) : Out :=
  runSlot (Op.scalar2 3 d a b m fun x y => BitVec.ofNat 64 (x.toNat * y.toNat / 2 ^ 64)) s
/-- AND. -/
def execAnd (d a b : Opnd) (m : Bool) (s : State) : Out := runSlot (Op.scalar2 1 d a b m (· &&& ·)) s
/-- OR. -/
def execOr (d a b : Opnd) (m : Bool) (s : State) : Out := runSlot (Op.scalar2 1 d a b m (· ||| ·)) s
/-- XOR. -/
def execXor (d a b : Opnd) (m : Bool) (s : State) : Out := runSlot (Op.scalar2 1 d a b m (· ^^^ ·)) s
/-- ANDN. -/
def execAndn (d a b : Opnd) (m : Bool) (s : State) : Out := runSlot (Op.scalar2 1 d a b m fun x y => x &&& ~~~y) s
/-- SHL by sB[5:0]. -/
def execShl (d a b : Opnd) (m : Bool) (s : State) : Out := runSlot (Op.scalar2 1 d a b m fun x y => x <<< (y.toNat % 64)) s
/-- SHR by sB[5:0]. -/
def execShr (d a b : Opnd) (m : Bool) (s : State) : Out := runSlot (Op.scalar2 1 d a b m fun x y => x >>> (y.toNat % 64)) s
/-- SAR by sB[5:0]. -/
def execSar (d a b : Opnd) (m : Bool) (s : State) : Out := runSlot (Op.scalar2 1 d a b m fun x y => x.sshiftRight (y.toNat % 64)) s
/-- MIN as s64. -/
def execMin (d a b : Opnd) (m : Bool) (s : State) : Out := runSlot (Op.scalar2 1 d a b m fun x y => if x.sle y then x else y) s
/-- MAX as s64. -/
def execMax (d a b : Opnd) (m : Bool) (s : State) : Out := runSlot (Op.scalar2 1 d a b m fun x y => if x.sle y then y else x) s
/-- MINU. -/
def execMinu (d a b : Opnd) (m : Bool) (s : State) : Out := runSlot (Op.scalar2 1 d a b m fun x y => if x.ule y then x else y) s
/-- MAXU. -/
def execMaxu (d a b : Opnd) (m : Bool) (s : State) : Out := runSlot (Op.scalar2 1 d a b m fun x y => if x.ule y then y else x) s

/-- ADDI. -/
def execAddi (d a : Opnd) (i : BitVec 10) (s : State) : Out := runSlot (Op.scalar1 1 d a false (· + i.signExtend 64)) s
/-- ANDI. -/
def execAndi (d a : Opnd) (i : BitVec 10) (s : State) : Out := runSlot (Op.scalar1 1 d a false (· &&& i.signExtend 64)) s
/-- ORI. -/
def execOri (d a : Opnd) (i : BitVec 10) (s : State) : Out := runSlot (Op.scalar1 1 d a false (· ||| i.signExtend 64)) s
/-- SHLI. -/
def execShli (d a : Opnd) (n : BitVec 6) (s : State) : Out := runSlot (Op.scalar1 1 d a false (· <<< n.toNat)) s
/-- SHRI. -/
def execShri (d a : Opnd) (n : BitVec 6) (s : State) : Out := runSlot (Op.scalar1 1 d a false (· >>> n.toNat)) s
/-- SARI. -/
def execSari (d a : Opnd) (n : BitVec 6) (s : State) : Out := runSlot (Op.scalar1 1 d a false (·.sshiftRight n.toNat)) s
/-- MOVI. -/
def execMovi (d : Opnd) (i : BitVec 18) (s : State) : Out :=
  runSlot (do Op.putS (← Op.target 0 d) 1 (i.signExtend 64) true) s
/-- LUI: bits 16h + 15 to 16h of the old value replaced; a queue destination pops the old value and pushes the new one (log 17). -/
def execLui (d : Opnd) (h : BitVec 2) (c : BitVec 16) (s : State) : Out :=
  runSlot (Op.scalar1 1 d d false fun x => BitVec.ofNat 64 (setBits x.toNat (16 * h.toNat) 16 c.toNat)) s

/-! ### Bit counts, division (R107) -/

/-- Quotient truncated toward zero, with the cases of R107. -/
def divS (x y : Word) : Word :=
  if y = 0 then BitVec.allOnes 64 else ofS (Int.tdiv (sInt x) (sInt y))
/-- Unsigned quotient. -/
def divU (x y : Word) : Word := if y = 0 then BitVec.allOnes 64 else BitVec.ofNat 64 (x.toNat / y.toNat)
/-- Remainder with the sign of the dividend. -/
def remS (x y : Word) : Word := if y = 0 then x else ofS (Int.tmod (sInt x) (sInt y))
/-- Unsigned remainder. -/
def remU (x y : Word) : Word := if y = 0 then x else BitVec.ofNat 64 (x.toNat % y.toNat)
/-- Trailing zero bits, from bit i on. -/
def ctzFrom (v : Nat) : Nat → Nat → Nat
  | 0, i => i
  | n + 1, i => if bit v i then i else ctzFrom v n (i + 1)
/-- Set bits. -/
def popCount (v n : Nat) : Nat := ((List.range n).filter (bit v ·)).length

/-- CLZ. -/
def execClz (d a : Opnd) (m : Bool) (s : State) : Out :=
  runSlot (Op.scalar1 1 d a m fun x => BitVec.ofNat 64 (64 - bitLen x.toNat)) s
/-- POPC. -/
def execPopc (d a : Opnd) (m : Bool) (s : State) : Out := runSlot (Op.scalar1 1 d a m fun x => BitVec.ofNat 64 (popCount x.toNat 64)) s
/-- CTZ. -/
def execCtz (d a : Opnd) (m : Bool) (s : State) : Out := runSlot (Op.scalar1 1 d a m fun x => BitVec.ofNat 64 (ctzFrom x.toNat 64 0)) s
/-- DIV. -/
def execDiv (d a b : Opnd) (m : Bool) (s : State) : Out := runSlot (Op.scalar2 20 d a b m divS) s
/-- DIVU. -/
def execDivu (d a b : Opnd) (m : Bool) (s : State) : Out := runSlot (Op.scalar2 20 d a b m divU) s
/-- REM. -/
def execRem (d a b : Opnd) (m : Bool) (s : State) : Out := runSlot (Op.scalar2 20 d a b m remS) s
/-- REMU. -/
def execRemu (d a b : Opnd) (m : Bool) (s : State) : Out := runSlot (Op.scalar2 20 d a b m remU) s

end Sys2Proof.Machine
end

