-- ==== Sys2Proof/Machine/Dispatch.lean ====
section
/-! DEFINITION. One arm per instruction: a direct call of its meaning. -/

namespace Sys2Proof.Machine

/-- What an instruction does. -/
def exec (i : Instr) (s : State) : Host.Outcome State Fault Refusal :=
  match i with
  | .nop n => Sys2Proof.Machine.execNop n s
  | .bkpt c m => Sys2Proof.Machine.execBkpt c m s
  | .trap c m => Sys2Proof.Machine.execTrap c m s
  | .safe k => Sys2Proof.Machine.execSafe k s
  | .hopt k => Sys2Proof.Machine.execHopt k s
  | .brT p l t => Sys2Proof.Machine.execBrT p l t s
  | .brF p l t => Sys2Proof.Machine.execBrF p l t s
  | .brAny p t => Sys2Proof.Machine.execBrAny p t s
  | .brNone p t => Sys2Proof.Machine.execBrNone p t s
  | .brAll p t => Sys2Proof.Machine.execBrAll p t s
  | .brNall p t => Sys2Proof.Machine.execBrNall p t s
  | .jmp a m => Sys2Proof.Machine.execJmp a m s
  | .call d a m => Sys2Proof.Machine.execCall d a m s
  | .ret a m => Sys2Proof.Machine.execRet a m s
  | .jtab d n m => Sys2Proof.Machine.execJtab d n m s
  | .loop a n t => Sys2Proof.Machine.execLoop a n t s
  | .loopi c n t => Sys2Proof.Machine.execLoopi c n t s
  | .endl n => Sys2Proof.Machine.execEndl n s
  | .mvi d n => Sys2Proof.Machine.execMvi d n s
  | .mvtc d n => Sys2Proof.Machine.execMvtc d n s
  | .pand d a b m => Sys2Proof.Machine.execPand d a b m s
  | .por d a b m => Sys2Proof.Machine.execPor d a b m s
  | .pxor d a b m => Sys2Proof.Machine.execPxor d a b m s
  | .pandn d a b m => Sys2Proof.Machine.execPandn d a b m s
  | .pnot d a m => Sys2Proof.Machine.execPnot d a m s
  | .pfirst d a m => Sys2Proof.Machine.execPfirst d a m s
  | .pst d a m => Sys2Proof.Machine.execPst d a m s
  | .pfs d a m => Sys2Proof.Machine.execPfs d a m s
  | .spf d a m => Sys2Proof.Machine.execSpf d a m s
  | .stw a m => Sys2Proof.Machine.execStw a m s
  | .str d m => Sys2Proof.Machine.execStr d m s
  | .ceq d a b m => Sys2Proof.Machine.execCeq d a b m s
  | .cne d a b m => Sys2Proof.Machine.execCne d a b m s
  | .clt d a b m => Sys2Proof.Machine.execClt d a b m s
  | .cle d a b m => Sys2Proof.Machine.execCle d a b m s
  | .cltu d a b m => Sys2Proof.Machine.execCltu d a b m s
  | .cleu d a b m => Sys2Proof.Machine.execCleu d a b m s
  | .ctst d a b m => Sys2Proof.Machine.execCtst d a b m s
  | .add d a b m => Sys2Proof.Machine.execAdd d a b m s
  | .sub d a b m => Sys2Proof.Machine.execSub d a b m s
  | .mul d a b m => Sys2Proof.Machine.execMul d a b m s
  | .mulh d a b m => Sys2Proof.Machine.execMulh d a b m s
  | .mulhu d a b m => Sys2Proof.Machine.execMulhu d a b m s
  | .and d a b m => Sys2Proof.Machine.execAnd d a b m s
  | .or d a b m => Sys2Proof.Machine.execOr d a b m s
  | .xor d a b m => Sys2Proof.Machine.execXor d a b m s
  | .andn d a b m => Sys2Proof.Machine.execAndn d a b m s
  | .shl d a b m => Sys2Proof.Machine.execShl d a b m s
  | .shr d a b m => Sys2Proof.Machine.execShr d a b m s
  | .sar d a b m => Sys2Proof.Machine.execSar d a b m s
  | .min d a b m => Sys2Proof.Machine.execMin d a b m s
  | .max d a b m => Sys2Proof.Machine.execMax d a b m s
  | .minu d a b m => Sys2Proof.Machine.execMinu d a b m s
  | .maxu d a b m => Sys2Proof.Machine.execMaxu d a b m s
  | .addi d a im => Sys2Proof.Machine.execAddi d a im s
  | .andi d a im => Sys2Proof.Machine.execAndi d a im s
  | .ori d a im => Sys2Proof.Machine.execOri d a im s
  | .shli d a n => Sys2Proof.Machine.execShli d a n s
  | .shri d a n => Sys2Proof.Machine.execShri d a n s
  | .sari d a n => Sys2Proof.Machine.execSari d a n s
  | .movi d im => Sys2Proof.Machine.execMovi d im s
  | .lui d h c => Sys2Proof.Machine.execLui d h c s
  | .clz d a m => Sys2Proof.Machine.execClz d a m s
  | .popc d a m => Sys2Proof.Machine.execPopc d a m s
  | .ctz d a m => Sys2Proof.Machine.execCtz d a m s
  | .div d a b m => Sys2Proof.Machine.execDiv d a b m s
  | .divu d a b m => Sys2Proof.Machine.execDivu d a b m s
  | .rem d a b m => Sys2Proof.Machine.execRem d a b m s
  | .remu d a b m => Sys2Proof.Machine.execRemu d a b m s
  | .setb d a m => Sys2Proof.Machine.execSetb d a m s
  | .setbi d im m => Sys2Proof.Machine.execSetbi d im m s
  | .setv d a m => Sys2Proof.Machine.execSetv d a m s
  | .rdsr d r m => Sys2Proof.Machine.execRdsr d r m s
  | .wrsr a r m => Sys2Proof.Machine.execWrsr a r m s
  | .ld e p a b => Sys2Proof.Machine.execLd e p a b s
  | .ldCnt e p a b => Sys2Proof.Machine.execLdCnt e p a b s
  | .ldFe e p a b => Sys2Proof.Machine.execLdFe e p a b s
  | .ldFec e p a b => Sys2Proof.Machine.execLdFec e p a b s
  | .st e a b => Sys2Proof.Machine.execSt e a b s
  | .stCf e a b => Sys2Proof.Machine.execStCf e a b s
  | .stFf e a b => Sys2Proof.Machine.execStFf e a b s
  | .stFs e a b => Sys2Proof.Machine.execStFs e a b s
  | .aswap d a sc w n => Sys2Proof.Machine.execAswap d a sc w n s
  | .aadd d a sc w n => Sys2Proof.Machine.execAadd d a sc w n s
  | .aand d a sc w n => Sys2Proof.Machine.execAand d a sc w n s
  | .aor d a sc w n => Sys2Proof.Machine.execAor d a sc w n s
  | .axor d a sc w n => Sys2Proof.Machine.execAxor d a sc w n s
  | .amin d a sc w n => Sys2Proof.Machine.execAmin d a sc w n s
  | .amax d a sc w n => Sys2Proof.Machine.execAmax d a sc w n s
  | .aminu d a sc w n => Sys2Proof.Machine.execAminu d a sc w n s
  | .amaxu d a sc w n => Sys2Proof.Machine.execAmaxu d a sc w n s
  | .acas d a sc w n => Sys2Proof.Machine.execAcas d a sc w n s
  | .fence sc m => Sys2Proof.Machine.execFence sc m s
  | .mwaitNe d a b m => Sys2Proof.Machine.execMwaitNe d a b m s
  | .mwaitGeu d a b m => Sys2Proof.Machine.execMwaitGeu d a b m s
  | .preq a b m => Sys2Proof.Machine.execPreq a b m s
  | .smap d a b m => Sys2Proof.Machine.execSmap d a b m s
  | .smape d a b m => Sys2Proof.Machine.execSmape d a b m s
  | .cinc a b m => Sys2Proof.Machine.execCinc a b m s
  | .csnap a m => Sys2Proof.Machine.execCsnap a m s
  | .ldkS d a => Sys2Proof.Machine.execLdkS d a s
  | .ldkH d a => Sys2Proof.Machine.execLdkH d a s
  | .ldkt a => Sys2Proof.Machine.execLdkt a s
  | .rbegin n => Sys2Proof.Machine.execRbegin n s
  | .rkeep a => Sys2Proof.Machine.execRkeep a s
  | .chk a b m => Sys2Proof.Machine.execChk a b m s
  | .chkv a b m => Sys2Proof.Machine.execChkv a b m s
  | .binit a b m => Sys2Proof.Machine.execBinit a b m s
  | .barr a b m => Sys2Proof.Machine.execBarr a b m s
  | .bwait d a b m => Sys2Proof.Machine.execBwait d a b m s
  | .ecopy d a b m => Sys2Proof.Machine.execEcopy d a b m s
  | .exform d a b m => Sys2Proof.Machine.execExform d a b m s
  | .pld d a => Sys2Proof.Machine.execPld d a s
  | .pcur d n => Sys2Proof.Machine.execPcur d n s
  | .vadd f d a b m => Sys2Proof.Machine.execVadd f d a b m s
  | .vsub f d a b m => Sys2Proof.Machine.execVsub f d a b m s
  | .vadds f d a b m => Sys2Proof.Machine.execVadds f d a b m s
  | .vsubs f d a b m => Sys2Proof.Machine.execVsubs f d a b m s
  | .vmul f d a b m => Sys2Proof.Machine.execVmul f d a b m s
  | .vmin f d a b m => Sys2Proof.Machine.execVmin f d a b m s
  | .vmax f d a b m => Sys2Proof.Machine.execVmax f d a b m s
  | .vand d a b m => Sys2Proof.Machine.execVand d a b m s
  | .vor d a b m => Sys2Proof.Machine.execVor d a b m s
  | .vxor d a b m => Sys2Proof.Machine.execVxor d a b m s
  | .vandn d a b m => Sys2Proof.Machine.execVandn d a b m s
  | .vshl l d a b m => Sys2Proof.Machine.execVshl l d a b m s
  | .vshr l d a b m => Sys2Proof.Machine.execVshr l d a b m s
  | .vsar l d a b m => Sys2Proof.Machine.execVsar l d a b m s
  | .vfadd f d a b m => Sys2Proof.Machine.execVfadd f d a b m s
  | .vfsub f d a b m => Sys2Proof.Machine.execVfsub f d a b m s
  | .vfmul f d a b m => Sys2Proof.Machine.execVfmul f d a b m s
  | .vfma f d a b m => Sys2Proof.Machine.execVfma f d a b m s
  | .vfnms f d a b m => Sys2Proof.Machine.execVfnms f d a b m s
  | .vfmin f d a b m => Sys2Proof.Machine.execVfmin f d a b m s
  | .vfmax f d a b m => Sys2Proof.Machine.execVfmax f d a b m s
  | .vrcp d a m => Sys2Proof.Machine.execVrcp d a m s
  | .vrsqrt d a m => Sys2Proof.Machine.execVrsqrt d a m s
  | .vexp2 d a m => Sys2Proof.Machine.execVexp2 d a m s
  | .vlog2 d a m => Sys2Proof.Machine.execVlog2 d a m s
  | .vfabsF64 d a m => Sys2Proof.Machine.execVfabsF64 d a m s
  | .vfabsF32 d a m => Sys2Proof.Machine.execVfabsF32 d a m s
  | .vfabsF16 d a m => Sys2Proof.Machine.execVfabsF16 d a m s
  | .vfnegF64 d a m => Sys2Proof.Machine.execVfnegF64 d a m s
  | .vfnegF32 d a m => Sys2Proof.Machine.execVfnegF32 d a m s
  | .vfnegF16 d a m => Sys2Proof.Machine.execVfnegF16 d a m s
  | .vcvt f d a sc p m => Sys2Proof.Machine.execVcvt f d a sc p m s
  | .vzqe d a b m => Sys2Proof.Machine.execVzqe d a b m s
  | .vzqd d a b m => Sys2Proof.Machine.execVzqd d a b m s
  | .vperm l d a b m => Sys2Proof.Machine.execVperm l d a b m s
  | .vbcast l d a m => Sys2Proof.Machine.execVbcast l d a m s
  | .vilo l d a b m => Sys2Proof.Machine.execVilo l d a b m s
  | .vihi l d a b m => Sys2Proof.Machine.execVihi l d a b m s
  | .vrsum f d a m => Sys2Proof.Machine.execVrsum f d a m s
  | .vrmax f d a m => Sys2Proof.Machine.execVrmax f d a m s
  | .vrmin f d a m => Sys2Proof.Machine.execVrmin f d a m s
  | .vcmp f c p a b m => Sys2Proof.Machine.execVcmp f c p a b m s
  | .vsel f d a b => Sys2Proof.Machine.execVsel f d a b s
  | .vpmask l d a m => Sys2Proof.Machine.execVpmask l d a m s
  | .vpmsb l d a m => Sys2Proof.Machine.execVpmsb l d a m s
  | .vpnz l d a m => Sys2Proof.Machine.execVpnz l d a m s
  | .mcall n m => Sys2Proof.Machine.execMcall n m s
  | .mset d a m => Sys2Proof.Machine.execMset d a m s
  | .mget d a m => Sys2Proof.Machine.execMget d a m s
  | .mld a b => Sys2Proof.Machine.execMld a b s
  | .mgat d a => Sys2Proof.Machine.execMgat d a s
  | .epi a m => Sys2Proof.Machine.execEpi a m s
  | .rfree m => Sys2Proof.Machine.execRfree m s
  | .rwait n => Sys2Proof.Machine.execRwait n s
  | .bload a b => Sys2Proof.Machine.execBload a b s
  | .bmode n => Sys2Proof.Machine.execBmode n s
  | .btwin im => Sys2Proof.Machine.execBtwin im s
  | .blnch a => Sys2Proof.Machine.execBlnch a s
  | .bcap d g => Sys2Proof.Machine.execBcap d g s
  | .brank d g k => Sys2Proof.Machine.execBrank d g k s
  | .bstat d => Sys2Proof.Machine.execBstat d s
  | .gadd d a b => Sys2Proof.Machine.execGadd d a b s
  | .gsub d a b => Sys2Proof.Machine.execGsub d a b s
  | .gmul d a b => Sys2Proof.Machine.execGmul d a b s
  | .gand d a b => Sys2Proof.Machine.execGand d a b s
  | .gor d a b => Sys2Proof.Machine.execGor d a b s
  | .gxor d a b => Sys2Proof.Machine.execGxor d a b s
  | .gshl d a b => Sys2Proof.Machine.execGshl d a b s
  | .gshr d a b => Sys2Proof.Machine.execGshr d a b s
  | .gsar d a b => Sys2Proof.Machine.execGsar d a b s
  | .gmin d a b => Sys2Proof.Machine.execGmin d a b s
  | .gmax d a b => Sys2Proof.Machine.execGmax d a b s
  | .gminu d a b => Sys2Proof.Machine.execGminu d a b s
  | .gmaxu d a b => Sys2Proof.Machine.execGmaxu d a b s
  | .gaddi d a im => Sys2Proof.Machine.execGaddi d a im s
  | .gmovi d im => Sys2Proof.Machine.execGmovi d im s
  | .glui d h c => Sys2Proof.Machine.execGlui d h c s
  | .beq a b o => Sys2Proof.Machine.execBeq a b o s
  | .bne a b o => Sys2Proof.Machine.execBne a b o s
  | .blt a b o => Sys2Proof.Machine.execBlt a b o s
  | .bge a b o => Sys2Proof.Machine.execBge a b o s
  | .bltu a b o => Sys2Proof.Machine.execBltu a b o s
  | .bgeu a b o => Sys2Proof.Machine.execBgeu a b o s
  | .b o => Sys2Proof.Machine.execB o s
  | .gmvi d n => Sys2Proof.Machine.execGmvi d n s
  | .nloop a o => Sys2Proof.Machine.execNloop a o s
  | .nadd d a b f => Sys2Proof.Machine.execNadd d a b f s
  | .nsub d a b f => Sys2Proof.Machine.execNsub d a b f s
  | .nmul d a b f => Sys2Proof.Machine.execNmul d a b f s
  | .nmin d a b f => Sys2Proof.Machine.execNmin d a b f s
  | .nmax d a b f => Sys2Proof.Machine.execNmax d a b f s
  | .nminu d a b f => Sys2Proof.Machine.execNminu d a b f s
  | .nmaxu d a b f => Sys2Proof.Machine.execNmaxu d a b f s
  | .nand d a b f => Sys2Proof.Machine.execNand d a b f s
  | .nor d a b f => Sys2Proof.Machine.execNor d a b f s
  | .nxor d a b f => Sys2Proof.Machine.execNxor d a b f s
  | .nshl d a b f => Sys2Proof.Machine.execNshl d a b f s
  | .nshr d a b f => Sys2Proof.Machine.execNshr d a b f s
  | .nsar d a b f => Sys2Proof.Machine.execNsar d a b f s
  | .nfadd d a b f => Sys2Proof.Machine.execNfadd d a b f s
  | .nfsub d a b f => Sys2Proof.Machine.execNfsub d a b f s
  | .nfmul d a b f => Sys2Proof.Machine.execNfmul d a b f s
  | .nfma d a b f => Sys2Proof.Machine.execNfma d a b f s
  | .nfmin d a b f => Sys2Proof.Machine.execNfmin d a b f s
  | .nfmax d a b f => Sys2Proof.Machine.execNfmax d a b f s
  | .ncvtI32F32 d a f r => Sys2Proof.Machine.execNcvtI32F32 d a f r s
  | .ncvtF32I32 d a f r => Sys2Proof.Machine.execNcvtF32I32 d a f r s
  | .ncmpI32 c d a b f => Sys2Proof.Machine.execNcmpI32 c d a b f s
  | .ncmpF32 c d a b f => Sys2Proof.Machine.execNcmpF32 c d a b f s
  | .fAnd d a b => Sys2Proof.Machine.execFAnd d a b s
  | .fOr d a b => Sys2Proof.Machine.execFOr d a b s
  | .fXor d a b => Sys2Proof.Machine.execFXor d a b s
  | .fAndn d a b => Sys2Proof.Machine.execFAndn d a b s
  | .fNot d a => Sys2Proof.Machine.execFNot d a s
  | .fSet d a => Sys2Proof.Machine.execFSet d a s
  | .fGet d a => Sys2Proof.Machine.execFGet d a s
  | .nbcast d a f => Sys2Proof.Machine.execNbcast d a f s
  | .nget d a l => Sys2Proof.Machine.execNget d a l s
  | .nins d a l => Sys2Proof.Machine.execNins d a l s
  | .nmov d a f => Sys2Proof.Machine.execNmov d a f s
  | .nrsumI32 d a f => Sys2Proof.Machine.execNrsumI32 d a f s
  | .nrsumF32 d a f => Sys2Proof.Machine.execNrsumF32 d a f s
  | .nrmaxI32 d a f => Sys2Proof.Machine.execNrmaxI32 d a f s
  | .nrminI32 d a f => Sys2Proof.Machine.execNrminI32 d a f s
  | .nrmaxF32 d a f => Sys2Proof.Machine.execNrmaxF32 d a f s
  | .nmac t d a b f j z => Sys2Proof.Machine.execNmac t d a b f j z s
  | .nsopen d a b => Sys2Proof.Machine.execNsopen d a b s
  | .nld d a => Sys2Proof.Machine.execNld d a s
  | .nst d a f => Sys2Proof.Machine.execNst d a f s
  | .grsr d r => Sys2Proof.Machine.execGrsr d r s
  | .halt => Sys2Proof.Machine.execHalt s
  | .lpop => Sys2Proof.Machine.execLpop s
  | .rend => Sys2Proof.Machine.execRend s
  | .rwaitIdle => Sys2Proof.Machine.execRwaitIdle s
  | .brst => Sys2Proof.Machine.execBrst s
  | .nhalt => Sys2Proof.Machine.execNhalt s
  | .nendl => Sys2Proof.Machine.execNendl s
  | .nlpop => Sys2Proof.Machine.execNlpop s
  | .nsafe => Sys2Proof.Machine.execNsafe s
  | .nhopt => Sys2Proof.Machine.execNhopt s
  | .ntrap => Sys2Proof.Machine.execNtrap s
  | .ntab => Sys2Proof.Machine.execNtab s
  | .nbcp => Sys2Proof.Machine.execNbcp s
  | .cwr => Sys2Proof.Machine.execCwr s
  | .npsave => Sys2Proof.Machine.execNpsave s
  | .npload => Sys2Proof.Machine.execNpload s
  | .gwsr => Sys2Proof.Machine.execGwsr s
  | .mend => Sys2Proof.Machine.execMend s
  | .mmac => Sys2Proof.Machine.execMmac s
  | .mpub => Sys2Proof.Machine.execMpub s
  | .mloop => Sys2Proof.Machine.execMloop s
  | .mnext => Sys2Proof.Machine.execMnext s
  | .madd => Sys2Proof.Machine.execMadd s
  | .bundleIssue => Sys2Proof.Machine.execBundleIssue s
  | .segmentExpansionComplete => Sys2Proof.Machine.execSegmentExpansionComplete s
  | .asyncRequest => Sys2Proof.Machine.execAsyncRequest s
  | .contextSave => Sys2Proof.Machine.execContextSave s
  | .contextResume => Sys2Proof.Machine.execContextResume s
  | .gangStart => Sys2Proof.Machine.execGangStart s
  | .tick10us => Sys2Proof.Machine.execTick10us s
  | .candidateBlockTimeout => Sys2Proof.Machine.execCandidateBlockTimeout s
  | .loadElementPerform => Sys2Proof.Machine.execLoadElementPerform s
  | .loadEntryDeliver => Sys2Proof.Machine.execLoadEntryDeliver s
  | .storeElementPerform => Sys2Proof.Machine.execStoreElementPerform s
  | .storeStreamResume => Sys2Proof.Machine.execStoreStreamResume s
  | .fullEmptyWaitEnd => Sys2Proof.Machine.execFullEmptyWaitEnd s
  | .atomicPerform => Sys2Proof.Machine.execAtomicPerform s
  | .mwaitWake => Sys2Proof.Machine.execMwaitWake s
  | .hostBiasMwaitPoll => Sys2Proof.Machine.execHostBiasMwaitPoll s
  | .bwaitWake => Sys2Proof.Machine.execBwaitWake s
  | .matrixCallStart => Sys2Proof.Machine.execMatrixCallStart s
  | .mldPerform => Sys2Proof.Machine.execMldPerform s
  | .mgatPerform => Sys2Proof.Machine.execMgatPerform s
  | .epiPerform => Sys2Proof.Machine.execEpiPerform s
  | .rfreePerform => Sys2Proof.Machine.execRfreePerform s
  | .engineCommandStart => Sys2Proof.Machine.execEngineCommandStart s
  | .copyRow => Sys2Proof.Machine.execCopyRow s
  | .xformPass => Sys2Proof.Machine.execXformPass s
  | .engineCommandComplete => Sys2Proof.Machine.execEngineCommandComplete s
  | .portBlockReceive => Sys2Proof.Machine.execPortBlockReceive s
  | .peerAccessArrival => Sys2Proof.Machine.execPeerAccessArrival s
  | .peerWriteAck => Sys2Proof.Machine.execPeerWriteAck s
  | .beadWaveComplete => Sys2Proof.Machine.execBeadWaveComplete s
  | .sequencerEndReport => Sys2Proof.Machine.execSequencerEndReport s
  | .clusterNodeZero => Sys2Proof.Machine.execClusterNodeZero s
  | .launchEnd => Sys2Proof.Machine.execLaunchEnd s
  | .actionKill => Sys2Proof.Machine.execActionKill s
  | .actionReplay => Sys2Proof.Machine.execActionReplay s
  | .actionPark => Sys2Proof.Machine.execActionPark s
  | .streamReset => Sys2Proof.Machine.execStreamReset s
  | .wixWrite => Sys2Proof.Machine.execWixWrite s
  | .padRec => Sys2Proof.Machine.execPadRec s
  | .launch => Sys2Proof.Machine.execLaunch s
  | .waitRec => Sys2Proof.Machine.execWaitRec s
  | .waitSatisfied => Sys2Proof.Machine.execWaitSatisfied s
  | .register => Sys2Proof.Machine.execRegister s
  | .gdef => Sys2Proof.Machine.execGdef s
  | .graph => Sys2Proof.Machine.execGraph s
  | .graphNodeStart => Sys2Proof.Machine.execGraphNodeStart s
  | .gpatch => Sys2Proof.Machine.execGpatch s
  | .gpatchUnblock => Sys2Proof.Machine.execGpatchUnblock s
  | .releaseReplay => Sys2Proof.Machine.execReleaseReplay s
  | .releaseKill => Sys2Proof.Machine.execReleaseKill s
  | .killRec => Sys2Proof.Machine.execKillRec s
  | .actionSet => Sys2Proof.Machine.execActionSet s
  | .attach => Sys2Proof.Machine.execAttach s
  | .detach => Sys2Proof.Machine.execDetach s
  | .stepRec => Sys2Proof.Machine.execStepRec s
  | .continueRec => Sys2Proof.Machine.execContinueRec s
  | .tset => Sys2Proof.Machine.execTset s
  | .tkill => Sys2Proof.Machine.execTkill s
  | .ctxw => Sys2Proof.Machine.execCtxw s
  | .pwin => Sys2Proof.Machine.execPwin s
  | .bias => Sys2Proof.Machine.execBias s
  | .biasFlip => Sys2Proof.Machine.execBiasFlip s
  | .free => Sys2Proof.Machine.execFree s
  | .wmark => Sys2Proof.Machine.execWmark s
  | .atsCompletion => Sys2Proof.Machine.execAtsCompletion s
  | .atsInvalidate => Sys2Proof.Machine.execAtsInvalidate s
  | .pageRequest => Sys2Proof.Machine.execPageRequest s
  | .priResponse => Sys2Proof.Machine.execPriResponse s
  | .frameAgeTick => Sys2Proof.Machine.execFrameAgeTick s
  | .frameMove => Sys2Proof.Machine.execFrameMove s
  | .promotionBatchComplete => Sys2Proof.Machine.execPromotionBatchComplete s
  | .pullComplete => Sys2Proof.Machine.execPullComplete s
  | .pullFail => Sys2Proof.Machine.execPullFail s
  | .frameScrub => Sys2Proof.Machine.execFrameScrub s
  | .handoverRequestPost => Sys2Proof.Machine.execHandoverRequestPost s
  | .handoverResume => Sys2Proof.Machine.execHandoverResume s
  | .portEntryDeliver => Sys2Proof.Machine.execPortEntryDeliver s
  | .nbcpEntryCopy => Sys2Proof.Machine.execNbcpEntryCopy s
  | .eccCorrectedResume => Sys2Proof.Machine.execEccCorrectedResume s
  | .unitEnd => Sys2Proof.Machine.execUnitEnd s
  | .hostWindowWrite => Sys2Proof.Machine.execHostWindowWrite s
  | .hostWindowRead => Sys2Proof.Machine.execHostWindowRead s
  | .hostCxlMemAccess => Sys2Proof.Machine.execHostCxlMemAccess s
  | .bar0Write => Sys2Proof.Machine.execBar0Write s
  | .spdmGetMeasurements => Sys2Proof.Machine.execSpdmGetMeasurements s
  | .fwup => Sys2Proof.Machine.execFwup s
  | .fchkWrite => Sys2Proof.Machine.execFchkWrite s
  | .firmwareCheckComplete => Sys2Proof.Machine.execFirmwareCheckComplete s
  | .fswWrite => Sys2Proof.Machine.execFswWrite s
  | .slotSwitch => Sys2Proof.Machine.execSlotSwitch s
  | .fhbWrite => Sys2Proof.Machine.execFhbWrite s
  | .heartbeatTimeout => Sys2Proof.Machine.execHeartbeatTimeout s
  | .power => Sys2Proof.Machine.execPower s
  | .ras => Sys2Proof.Machine.execRas s
  | .advance => Sys2Proof.Machine.execAdvance s
  | .keyadd => Sys2Proof.Machine.execKeyadd s
  | .keyrev => Sys2Proof.Machine.execKeyrev s
  | .powerArbiterStep => Sys2Proof.Machine.execPowerArbiterStep s
  | .droopStretch => Sys2Proof.Machine.execDroopStretch s
  | .thermalShutdown => Sys2Proof.Machine.execThermalShutdown s
  | .sramRailBelowVth => Sys2Proof.Machine.execSramRailBelowVth s
  | .railRecoveryTimeout => Sys2Proof.Machine.execRailRecoveryTimeout s
  | .lockstepMismatch => Sys2Proof.Machine.execLockstepMismatch s
  | .portLaneLoss => Sys2Proof.Machine.execPortLaneLoss s
  | .portDown => Sys2Proof.Machine.execPortDown s
  | .reset => Sys2Proof.Machine.execReset s
  | .priReset => Sys2Proof.Machine.execPriReset s
  | .tcritReached => Sys2Proof.Machine.execTcritReached s
  | .droopEnd => Sys2Proof.Machine.execDroopEnd s
  | .portUp => Sys2Proof.Machine.execPortUp s
  | .portWritePerform => Sys2Proof.Machine.execPortWritePerform s
  | .illegalInstruction => Sys2Proof.Machine.execIllegalInstruction s
  | .endOfCode => Sys2Proof.Machine.execEndOfCode s
  | .reservedMicroWord => Sys2Proof.Machine.execReservedMicroWord s

end Sys2Proof.Machine
end

