-- ==== Sys2Proof/Machine/Fetch.lean ====
section
/-! DEFINITION. Fetching: what moves next, and the instruction that a step runs (R84, R164, R281, R352 to R356). -/

namespace Sys2Proof.Machine

/-- What a fetch finds: an instruction to run, or a step that is whole by itself. -/
inductive Fetched where
  | run (i : Instr) (s : State)
  | done (s : State)
  deriving DecidableEq, Repr

/-- The next slot of the bundle in progress (R84). -/
def fetchSlot (iss : Issue) (s : State) : Fetched :=
  match iss.rest with
  | [] => .done (finish s iss)
  | (i, w) :: _ =>
    match decodeCore w with
    | .ok ins => .run ins s
    | .error .reservedMajor => .done (endBundle s iss.q (.trap (slotTrap .reservedMajor i [w])))
    | .error .illegal => .done (endBundle s iss.q (.trap (slotTrap .illegal i [w])))

/-- The next micro-word of a running matrix call (R164, R167, R184). -/
def fetchMicro (q : Nat) (s : State) : Fetched :=
  let x := s.dev.seq q
  match x.mx.running with
  | none => .done s
  | some c =>
    if !unitsRun s.dev q then .done s
    else match microBlocked q s.dev with
      | some r => .done { s with dev := r.getD s.dev }
      | none =>
        let t := { s with turn := .agent q 0 }
        match decodeMicro (x.mx.store.find c.upc 0).toNat with
        | some i => .run i t
        | none => .run .reservedMicroWord t

/-- The next word of a near-data unit (R284, R308, R336). -/
def fetchNear (u : Nat) (s : State) : Fetched :=
  let x := s.dev.unit u
  if x.run ≠ .running then .done s
  else match x.start with
    | some a => .done { s with dev := nearRun (NearOp.startLoad a) u s.dev }
    | none =>
      let t := { s with turn := .agent u 0 }
      match x.code[x.pc]? with
      | none => .run .endOfCode t
      | some w =>
        let t := { t with dev := s.dev.modUnit u fun y => { y with iw := w } }
        .run ((decodeNear w).getD .illegalInstruction) t

/-! ### Records (R354, R356) -/

/-- The step of a record by TYPE and, where the type has one, OP; an operation outside its list faults with code 4. -/
def recordStep (ty op : Nat) : Option Instr :=
  if ty = 0x00 then some .padRec
  else if ty = 0x01 then some .launch
  else if ty = 0x02 then some .waitRec
  else if ty = 0x03 then some .register
  else if ty = 0x04 then some .gdef
  else if ty = 0x05 then some .graph
  else if ty = 0x06 then some .gpatch
  else if ty = 0x07 then [.releaseReplay, .releaseKill, .killRec, .actionSet, .attach, .detach, .stepRec, .continueRec][op]?
  else if ty = 0x20 then some .tset
  else if ty = 0x21 then some .tkill
  else if ty = 0x22 then [.ctxw, .pwin, .bias, .free, .wmark][op]?
  else if ty = 0x23 then some .fwup
  else if ty = 0x24 then [.power, .ras, .advance, .keyadd, .keyrev][op]?
  else none

/-- Whether a TYPE is one of a tenant stream's (ten below 16) or of the admin stream's. -/
def typeOk (ten ty : Nat) : Bool :=
  if ten < 16 then decide (ty ≤ 0x07) else decide (ty = 0) || (decide (0x20 ≤ ty) && decide (ty ≤ 0x24))

/-- Whether a LEN is one of a TYPE's (R354 to R361, R374, R396, R405). -/
def lenOk (ty len : Nat) : Bool :=
  if ty = 0x00 then decide (1 ≤ len) && decide (len ≤ 64)
  else if ty = 0x06 then decide (1 ≤ len) && decide (len ≤ 5)
  else if 0x22 ≤ ty then decide (len = 2)
  else decide (len = 1)

/-- Whether the stream waits for a status of an earlier record of its own (R374, R405). -/
def statusDue (d : Dev) (ten : Nat) : Bool := decide (ten = 16) && memDue d

/-- The record at a stream's RIX (R353, R354, R356): a header that breaks a rule faults the stream, the rest is the record's step. Only a
FWUP is held on the admin stream: it is read again once no status is awaited (R396). -/
def fetchRecord (ten m : Nat) (s : State) : Fetched :=
  let d := s.dev
  let x := d.stream ten m
  let h := gget d (streamByte d ten m x.rix) 8
  let ty := bits h 0 8
  let len := bits h 8 8
  let fault (c : Nat) : Fetched := .done { s with dev := streamFault ten m c (bits h 32 32) d }
  -- a FWUP does not wait with the others: it is held (R396)
  let fwup := decide (ty = 0x23) && lenOk ty len && decide (bits h 16 16 = 0) && decide (x.rix % 64 = 0)
  if !gafferRuns d || !leaderFree d || !streamOn d ten m then .done s
  else if decide (ten = 16) && decide (x.state = 2) && !statusPending d then
    .done { s with dev := putState ten m (d.modStream ten m fun y => { y with state := 1 }) }
  else if x.state ≠ 1 || (statusDue d ten && !fwup) || x.wix < x.rix + 64 then .done s
  -- a record is 64-byte aligned (R354)
  else if x.rix % 64 ≠ 0 then fault 5
  else if !typeOk ten ty then fault 1
  else if !lenOk ty len || 2 ^ x.size < x.rix % 2 ^ x.size + 64 * len then fault 2
  else if bits h 16 16 ≠ 0 then fault 4
  else if x.wix < x.rix + 64 * len then .done s
  else
    let r : Rec := { words := (List.range (8 * len)).map fun k => BitVec.ofNat 64 (gget d (streamByte d ten m (x.rix + 8 * k)) 8) }
    match recordStep ty (recNum r 8 1) with
    | none => fault 4
    | some i => .run i { s with turn := .record ten m r }

/-! ### The schedule (log 1) -/

/-- Steps that any sequencer may make. -/
def seqSteps : List Instr :=
  [.bundleIssue, .segmentExpansionComplete, .loadElementPerform, .storeElementPerform, .storeStreamResume, .fullEmptyWaitEnd, .atomicPerform,
   .mwaitWake, .hostBiasMwaitPoll, .bwaitWake, .matrixCallStart, .mldPerform, .mgatPerform, .epiPerform, .rfreePerform, .beadWaveComplete,
   .sequencerEndReport]

/-- Steps of trap actions. -/
def actionSteps (a : Nat) : List Pick := [.ev .actionKill (.agent a 0), .ev .actionReplay (.agent a 0), .ev .actionPark (.agent a 0)]

/-- What the model lets move when the agenda names nothing: every agent that there is in turn, none of them twice before another
(log 1). -/
def defaultPicks (d : Dev) : List Pick :=
  if d.fw.gstat = 0 then [.ev .reset .none]
  else
    let seqs := d.seqs.flatMap fun e =>
      seqSteps.map (fun i => Pick.ev i (.agent e.1 0)) ++ [.matrix e.1] ++ (List.range 4).map (fun c => Pick.ev .loadEntryDeliver (.agent e.1 c))
        ++ [.ev .storeElementPerform (.agent e.1 1)] ++ [Instr.loadElementPerform, .storeElementPerform, .atomicPerform].map (fun i => Pick.ev i (.agent e.1 2))
        ++ actionSteps e.1 ++ actionSteps (4096 + e.1)
    let engines := d.clusters.flatMap fun e => [0, 1, 2].flatMap fun k =>
      [Pick.ev .engineCommandStart (.agent e.1 k), .ev (if k = 2 then .xformPass else .copyRow) (.agent e.1 k), .ev .engineCommandComplete (.agent e.1 k)]
    let units := d.near.flatMap fun e =>
      [Pick.unit e.1, .ev .unitEnd (.agent e.1 0), .ev .nbcpEntryCopy (.agent e.1 0)] ++ actionSteps (2048 + e.1)
        ++ (List.range 4).flatMap fun k => [Pick.ev .portEntryDeliver (.agent e.1 k), .ev .portWritePerform (.agent e.1 k)]
    let streams := d.streams.flatMap fun e =>
      let ten := e.1 / 8
      let m := e.1 % 8
      [Pick.ev .streamReset (.agent ten m), .ev .wixWrite (.agent ten m), .take ten m, .ev .waitSatisfied (.agent ten m), .ev .gpatchUnblock (.agent ten m)]
    let replays := d.replays.flatMap fun e => (List.range e.2.nodes.length).map fun j => Pick.ev .graphNodeStart (.agent e.1 j)
    let launches := d.launches.flatMap fun e =>
      [Pick.ev .gangStart (.agent e.1 0), .ev .contextSave (.agent e.1 0), .ev .contextResume (.agent e.1 0), .ev .handoverResume (.agent e.1 0),
       .ev .candidateBlockTimeout (.agent e.1 0), .ev .launchEnd (.agent e.1 0)]
        ++ (List.range e.2.clusters.length).map fun k => Pick.ev .clusterNodeZero (.agent e.1 k)
    let requests := (List.range d.mmu.reqs.length).map fun k => Pick.ev .pageRequest (.agent k 0)
    let demotions := (List.range 4).map fun k => Pick.ev .frameMove (.agent k 0)
    [Pick.ev .tick10us .none, .ev .frameAgeTick .none, .ev .frameScrub .none, .ev .biasFlip .none, .ev .fchkWrite .none,
     .ev .firmwareCheckComplete .none, .ev .fswWrite .none, .ev .slotSwitch .none, .ev .fhbWrite .none]
      ++ streams ++ replays ++ launches ++ seqs ++ engines ++ units ++ requests ++ demotions

/-- Whether a sequencer is there. -/
def runs (d : Dev) (q : Nat) : Bool := decide ((d.seq q).run ≠ .absent)

/-- The instruction of a pick. A record comes only from its stream; an error of the environment changes the state by itself
(log 79). -/
def fetchPick (p : Pick) (s : State) : Fetched :=
  match p with
  | .ev _ (.record _ _ _) => .done s
  | .ev i t => .run i { s with turn := t }
  | .matrix q => fetchMicro q s
  | .unit u => fetchNear u s
  | .take ten m => fetchRecord ten m s
  | .upset loc n => .done { s with dev := markPoison s.dev loc n }
  | .upsetL2 die loc n bits => .done { s with dev := l2Upset die loc n bits s.dev }
  | .upsetL1 q line dirty => .done { s with dev := if runs s.dev q then s.dev.modSeq q fun x => { x with l1bad := (line, dirty) :: x.l1bad } else s.dev }
  | .upsetRow q row => .done { s with dev := if runs s.dev q then s.dev.modSeq q fun x => { x with bead := { x.bead with badRows := insertNat (row % beadIns x) x.bead.badRows } } else s.dev }

/-- What moves next: the head of the agenda, or the next of the agents in turn. -/
def nextPick (s : State) : Option (Pick × State) :=
  match s.agenda with
  | p :: l => some (p, { s with agenda := l })
  | [] =>
    let l := defaultPicks s.dev
    (l[s.rr % l.length]?).map fun p => (p, { s with rr := s.rr + 1 })

/-- The instruction that a step runs. A device without power does nothing until its reset (R411). -/
def fetch (s : State) : Fetched :=
  if s.dev.fleet.off then
    match nextPick s with
    | some (.ev .reset t, s) => .run .reset { s with turn := t }
    | some (_, s) => .done s
    | none => .done s
  else match s.issue with
    | some iss => fetchSlot iss s
    | none =>
      match nextPick s with
      | some (p, s) => fetchPick p s
      | none => .done s

/-! ### Placing a word (log 16) -/

/-- The lowest slot of an unsplit sequencer that may carry a core word (R79, R80). -/
def slotFor (w : Nat) : Nat :=
  match roleOf (fld w 26 6) with
  | .lead => 0
  | .branch => 0
  | .scale => 6
  | .work => 1
  | .matrix => 1
  | .bead => 7

/-- The state in which a word is the very next thing that is fetched: a core word is the last slot of a bundle in progress
of sequencer 0, a near-data word is the code of unit 0, a micro-word is the word at the running call's micro-PC of
sequencer 0 (log 16). The choice between the three is decodeTableWord's (log 11). -/
def placeWord (s : State) (nbits w : Nat) : State :=
  let d := { s.dev with fleet := { s.dev.fleet with off := false } }
  let s := { s with issue := none }
  if nbits = 64 then
    let d := d.modSeq 0 fun x => { x with mx := { x.mx with running := some {}, store := [(0, BitVec.ofNat 64 w)] } }
    { s with dev := d, agenda := [.matrix 0] }
  else if (decodeNear w).isSome then
    { s with dev := d.modUnit 0 fun u => { u with run := .running, code := [w], pc := 0, start := none }, agenda := [.unit 0] }
  else
    let d := d.modSeq 0 fun x => { x with run := .running, half := some { seg := 64, next := 0, spidx := 0, hb := false, jt := false, jtAddr := 0,
                                                                          bundles := [[(slotFor w, w)], [(0, 0)]] },
                                          pc := { seg := 64, idx := 0 } }
    { s with dev := d, base := d, agenda := [], issue := some { q := 0, rest := [(slotFor w, w)], pc := { seg := 64, idx := 0 } } }

end Sys2Proof.Machine
end

