-- ==== Sys2Proof/Safety.lean ====
section
/-! DEFINITION. What a safe run is, in the terms that statements use. -/

namespace Sys2Proof

open Machine

/-- A device whose memory is in canonical form: addresses strictly rising, no listed byte that is zero. -/
def MemInv (d : Dev) : Prop := d.mem.wf = true

/-- A state whose device memory is in canonical form, that of the device before the bundle in progress too. -/
def Inv (s : State) : Prop := MemInv s.dev ∧ MemInv s.base

/-- A step that answers a next state. -/
def Steps (s t : State) : Prop := step s = .next t

end Sys2Proof
end

