-- ==== Sys2Proof/Claims.lean ====
section
/-! DEFINITION. The words that the statements are written in: a slot before and after its instruction, the writes that a result
leaves pending, and tables of the instructions that one statement covers. -/

namespace Sys2Proof.Claim

open Machine

/-! ### Slots -/

/-- What the instruction of the slot in execution sees. -/
def slotOf (s : State) (iss : Issue) : Slot := { dev := s.dev, iss := iss, base := s.base }

/-- The state after a slot that leaves x: the next slot's, or the bundle's end. -/
def afterSlot (s : State) (x : Slot) : State := nextSlot { s with dev := x.dev } x.iss

/-- The slot's number. -/
def slotNo (x : Slot) : Nat := (x.iss.rest.headD (0, 0)).1

/-- The sequencer that issues. -/
def seqOf (x : Slot) : Seq := x.dev.seq x.iss.q

/-- The lanes that the slot's guard enables: all without a guard, else those of p(8 + slot) (R70). -/
def lanesOn (x : Slot) (m : Bool) : Word := if m then (seqOf x).pred (8 + slotNo x) else BitVec.allOnes 64

/-- Whether a guarded instruction is enabled as a whole (R70). -/
def enabled (x : Slot) (m : Bool) : Bool := (lanesOn x m).getLsbD 0

/-- A slot that leaves these writes pending and nothing else changed. -/
def withWrites (x : Slot) (l : List PWrite) : Slot :=
  if l = [] then x else { x with dev := x.dev.modSeq x.iss.q fun y => { y with pend := y.pend ++ l } }

/-- A slot that changes only its sequencer. -/
def withSeq (x : Slot) (f : Seq → Seq) : Slot := { x with dev := x.dev.modSeq x.iss.q f }

/-- A slot that changes only the bundle in progress. -/
def withIss (x : Slot) (f : Issue → Issue) : Slot := { x with iss := f x.iss }

/-- The writes of a scalar result (R68, R70, R113): 8 bytes of a register element, or an entry of 32 enabled bytes; a squashed
register result writes nothing, a squashed push lands with no byte enabled. -/
def scalarWrite (t : Tgt) (lat : Nat) (v : Word) (on : Bool) : List PWrite :=
  match t with
  | .storeData .. => [{ tgt := t, data := v.setWidth 256, en := if on then BitVec.allOnes 32 else 0, rdly := lat }]
  | _ => if on then [{ tgt := t, data := v.setWidth 256, en := 0xFF, rdly := lat }] else []

/-- The write of a predicate under a lane mask, one bundle later (R72). -/
def predWrite (p : BitVec 4) (v mask : Word) : PWrite := { tgt := .pred p.toNat, data := (mask ++ v).setWidth 256, en := 0xFFFF, rdly := 1 }

/-- The write of a predicate by an instruction that its guard enables or squashes as a whole. -/
def predWrites (p : BitVec 4) (v : Word) (on : Bool) : List PWrite := if on then [predWrite p v (BitVec.allOnes 64)] else []

/-- All ones or zero, as a compare writes (R103). -/
def allOnesIf (c : Bool) : Word := if c then BitVec.allOnes 64 else 0

/-! ### Scalar instructions -/

/-- An instruction of two scalars: its latency (R72) and its value. -/
structure Bin where
  ins : Opnd → Opnd → Opnd → Bool → Instr
  lat : Nat
  val : Word → Word → Word

/-- An instruction of one scalar; `guarded` says whether it has a guard bit. -/
structure Una where
  ins : Opnd → Opnd → Bool → Instr
  guarded : Bool
  val : Word → Word

/-- R104 and R107: the instructions of two scalars. -/
def scalarBinary : List Bin :=
  [⟨.add, 1, fun x y => x + y⟩, ⟨.sub, 1, fun x y => x - y⟩, ⟨.mul, 3, fun x y => x * y⟩,
   ⟨.mulh, 3, fun x y => BitVec.ofInt 64 (x.toInt * y.toInt / 2 ^ 64)⟩, ⟨.mulhu, 3, fun x y => BitVec.ofNat 64 (x.toNat * y.toNat / 2 ^ 64)⟩,
   ⟨.and, 1, fun x y => x &&& y⟩, ⟨.or, 1, fun x y => x ||| y⟩, ⟨.xor, 1, fun x y => x ^^^ y⟩, ⟨.andn, 1, fun x y => x &&& ~~~y⟩,
   ⟨.shl, 1, fun x y => x <<< (y.toNat % 64)⟩, ⟨.shr, 1, fun x y => x >>> (y.toNat % 64)⟩, ⟨.sar, 1, fun x y => x.sshiftRight (y.toNat % 64)⟩,
   ⟨.min, 1, fun x y => if x.toInt ≤ y.toInt then x else y⟩, ⟨.max, 1, fun x y => if x.toInt ≤ y.toInt then y else x⟩,
   ⟨.minu, 1, fun x y => if x.toNat ≤ y.toNat then x else y⟩, ⟨.maxu, 1, fun x y => if x.toNat ≤ y.toNat then y else x⟩,
   ⟨.div, 20, fun x y => if y = 0 then BitVec.allOnes 64 else BitVec.ofInt 64 (x.toInt.tdiv y.toInt)⟩,
   ⟨.divu, 20, fun x y => if y = 0 then BitVec.allOnes 64 else BitVec.ofNat 64 (x.toNat / y.toNat)⟩,
   ⟨.rem, 20, fun x y => if y = 0 then x else BitVec.ofInt 64 (x.toInt.tmod y.toInt)⟩,
   ⟨.remu, 20, fun x y => if y = 0 then x else BitVec.ofNat 64 (x.toNat % y.toNat)⟩]

/-- R105 and R107: the instructions of one scalar, with an immediate or without. -/
def scalarUnary (i : BitVec 10) (n : BitVec 6) : List Una :=
  [⟨fun d a _ => .addi d a i, false, fun x => x + i.signExtend 64⟩, ⟨fun d a _ => .andi d a i, false, fun x => x &&& i.signExtend 64⟩,
   ⟨fun d a _ => .ori d a i, false, fun x => x ||| i.signExtend 64⟩, ⟨fun d a _ => .shli d a n, false, fun x => x <<< n.toNat⟩,
   ⟨fun d a _ => .shri d a n, false, fun x => x >>> n.toNat⟩, ⟨fun d a _ => .sari d a n, false, fun x => x.sshiftRight n.toNat⟩,
   ⟨.clz, true, fun x => BitVec.ofNat 64 ((List.range 64).takeWhile fun k => !x.getLsbD (63 - k)).length⟩,
   ⟨.popc, true, fun x => BitVec.ofNat 64 ((List.range 64).filter fun k => x.getLsbD k).length⟩,
   ⟨.ctz, true, fun x => BitVec.ofNat 64 ((List.range 64).takeWhile fun k => !x.getLsbD k).length⟩]

/-- R103: the compares. -/
def scalarCompares : List ((BitVec 4 → Opnd → Opnd → Bool → Instr) × (Word → Word → Bool)) :=
  [(.ceq, fun x y => decide (x = y)), (.cne, fun x y => decide (x ≠ y)), (.clt, fun x y => decide (x.toInt < y.toInt)),
   (.cle, fun x y => decide (x.toInt ≤ y.toInt)), (.cltu, fun x y => decide (x.toNat < y.toNat)),
   (.cleu, fun x y => decide (x.toNat ≤ y.toNat)), (.ctst, fun x y => decide (x &&& y ≠ 0))]

/-- R102: the predicate logic. -/
def predLogic : List ((BitVec 4 → BitVec 4 → BitVec 4 → Bool → Instr) × (Word → Word → Word)) :=
  [(.pand, fun x y => x &&& y), (.por, fun x y => x ||| y), (.pxor, fun x y => x ^^^ y), (.pandn, fun x y => x &&& ~~~y),
   (fun d a _ m => .pnot d a m, fun x _ => ~~~x)]

/-! ### Control -/

/-- The bundle that follows, as a code pointer: bundle 0 of NEXT after the last of a segment (R97). -/
def returnPtr (x : Slot) : Word :=
  match (seqOf x).half with
  | none => 0
  | some h => BitVec.ofNat 64 (((fallThrough h x.iss.pc).getD { seg := 0 }).ptr)

/-- A code pointer that R77 and R98 accept, whose segment is expanded when it is another one (R78); z is the slot after the read of the
jump-target table, where that is needed. -/
def jumpOk (x z : Slot) (v : Nat) : Prop :=
  badPtr v = false ∧
    let p := Pc.ofPtr v
    if p.seg = x.iss.pc.seg then z = x ∧ p.idx < ((seqOf x).half.map (·.bundles.length)).getD 0
    else ∃ l o, Op.jumpTable x = .ok (l, z) ∧ (∃ e ∈ l, (Pc.ofPtr e).seg = p.seg) ∧ (seqOf x).other = some o ∧ o.seg = p.seg
      ∧ (o.bad = false → p.idx < o.bundles.length)

/-- The pointed bundle is the next one. -/
def jumped (x : Slot) (v : Nat) : Slot := withIss x fun i => { i with next := some (Pc.ofPtr v), nslot := slotNo x }

/-- A sequencer after a bundle of a nop that leaves k further bundles (R71, R92). -/
def nopIssued (k : Nat) (x : Seq) : Seq :=
  { issued x with nopLeft := k, want := none, woke := none, waitOn := none, pld := [], checks := [] }

/-- The device after a debugger's step of a bundle of a nop that leaves k further bundles: the single-step trap names them (R92, R393). -/
def nopStepped (k q : Nat) (d : Dev) : Dev :=
  takeTrap (d.modSeq q fun x => { nopIssued k x with stepMode := false }) q
    { cause := 0x13, cont := if k = 0 then [] else [k], after := true, falloff := (d.seq q).falloff }

/-- A running sequencer, stepped by its debugger or not, comes to the further bundles of a nop: nothing else comes first. -/
def nopReady (s : State) (q : Nat) (stepped : Bool) : Prop :=
  let x := s.dev.seq q
  s.issue = none ∧ switching s.dev q = false ∧ x.run = .running ∧ x.stepMode = stepped ∧ x.stepDue = false ∧ x.safeDue = none ∧ rendWaits x = false
  ∧ (x.foreignDue = true → x.owedForeign = 0) ∧ x.owedWatch = none ∧ x.mx.fault = none ∧ x.halted = false

/-- A count that R100 lets a loop begin with: no overflow, and room on the stack unless the body is skipped. -/
def loopReady (x : Slot) (n nstg : Nat) : Prop := n + nstg ≤ 2 ^ 32 - 1 ∧ (n ≠ 0 → (seqOf x).regs.loops.length < 6)

/-- What a loop instruction leaves (R100). -/
def loopBegun (x : Slot) (n nstg t : Nat) : Slot :=
  if n = 0 then withIss x fun i => { i with next := some { i.pc with idx := t + 1 } }
  else
    let y := withWrites x [{ tgt := .loopPush, data := BitVec.ofNat 256 ((n + nstg) * 2 ^ 32 + (x.iss.pc.idx + 1) % 128 * 2 ^ 64), en := 0x1FF, rdly := 1 }]
    if nstg = 0 then y else withIss (withWrites y [{ tgt := .stage, data := 1, en := 3, rdly := 1 }]) fun i => { i with loopSt := some 1 }

/-- What an endl leaves, with the top entry e (R100). -/
def loopEnded (x : Slot) (e : LoopEnt) (nstg : Nat) : Slot :=
  let st (y : Slot) (v : BitVec 16) : Slot :=
    if nstg = 0 then y
    else withIss (withWrites y [{ tgt := .stage, data := v.setWidth 256, en := 3, rdly := 1 }]) fun i => { i with loopSt := some v }
  let r := e.remaining - 1
  if r = 0 then st (withWrites x [{ tgt := .loopPop, rdly := 1 }]) 0
  else
    let y := withWrites x [{ tgt := .loopSet, data := ((0#192 ++ r ++ (e.index + 1)) : BitVec 256), en := 0xFF, rdly := 1 }]
    let v := ((seqOf x).regs.stage <<< 1 ||| (if nstg < r.toNat then 1 else 0)) &&& BitVec.ofNat 16 (2 ^ (nstg + 1) - 1)
    withIss (st y v) fun i => { i with next := some { i.pc with idx := e.first.toNat } }

/-! ### Memory -/

/-- The device with the sequencer's own smap and smape that have no place yet in its stash map: the map that checks at issue go by (R126,
R132). -/
def mapsAhead (x : Slot) : Dev :=
  (seqOf x).ord.foldl (fun d o => match o.op with
    | .map _ k va len ofs => modLcl d (seqOf x).place.launch (seqOf x).place.lcl fun c =>
        { c with maps := vset c.maps k (if len = 0 then none else some { va := va, len := len, ofs := ofs }) }
    | _ => d) x.dev

/-- What the check of a footprint knows of an address (R116, R376, R379): allowed (0), refused (1) or denied (2) as its page is translated
now, or as the check found it when the page was; none before. -/
def pageFound (x : Slot) (rd wr : Bool) (a : Nat) : Option Nat :=
  match seqWay x.dev x.iss.q a with
  | .miss => (seqOf x).checks.find? (slotNo x * 2 ^ 60 + a / 16384)
  | .refused => some 1
  | w => some (if (rd = true ∧ w.reads = false) ∨ (wr = true ∧ w.writes = false) then 2 else 0)

/-- A footprint that R116 and R379 let pass: every address lies below 2^56, its page has been found translated and not refused, and the
context may read or write it. -/
def footOk (x : Slot) (l : List (Nat × Nat)) (rd wr : Bool) : Prop := ∀ e ∈ l, e.1 < 2 ^ 56 ∧ pageFound x rd wr e.1 = some 0

/-- Bytes of the counted unit that an address belongs to, by the map that checks go by (R124). -/
def unitBytes (x : Slot) (a : Nat) : Nat := if inStash (mapsAhead x) x.iss.q a 1 then 256 else 128

/-- A stream that the checks of R112, R116, R120, R124, R126 and R394 accept. -/
def streamOk (x : Slot) (t : Strm) : Prop :=
  t.base % t.esz = 0 ∧ t.stride % t.esz = 0 ∧ (t.kind ≠ .stCf → t.rc = 0)
  ∧ (t.kind = .stCf ∨ t.kind = .ldCnt ∨ t.kind.fullEmpty = true → (seqOf x).place.control = false)
  ∧ (t.kind = .stCf → t.stride = t.esz ∧ t.pk = true ∧ 0 < t.rc ∧ t.base % unitBytes x t.base = 0
      ∧ ∀ e ∈ t.foot, t.base ≤ e.1 - e.1 % unitBytes x e.1 ∧ e.1 - e.1 % unitBytes x e.1 + unitBytes x e.1 ≤ t.base + t.cnt * t.esz)
  ∧ (t.kind.fullEmpty = true → 16 ≤ t.esz ∧ ∀ e ∈ t.foot, inStash (mapsAhead x) x.iss.q e.1 e.2 = true)
  ∧ footOk x t.foot (!t.kind.store) t.kind.store

/-- Outside a region, or with a free entry of the deferral buffer (R238). -/
def deferOk (x : Slot) : Prop := (seqOf x).region.levels ≠ [] → (seqOf x).region.deferred.length < 64

/-- An operation that enters the sequencer's order; what needs no step of its own performs as far as it can (R247, R248). -/
def ordered (x : Slot) (op : MOp) : Slot :=
  let y := withSeq x fun s => { s with ord := s.ord ++ [{ id := s.opCtr, level := s.region.levels.length, op := op }], opCtr := s.opCtr + 1 }
  { y with dev := advance x.iss.q 64 y.dev }

/-- A command that the epilogue serves in its turn (R181). -/
def epilogued (x : Slot) (c : EpiCmd) : Slot := withSeq x fun s => { s with mx := { s.mx with epq := s.mx.epq ++ [c] } }

/-- An operation that enters the order, or the deferral buffer of an open region (R238); an epi enters the epilogue too, an rfree that
alone (R181). -/
def orderedIn (x : Slot) (op : MOp) : Slot :=
  if (seqOf x).region.levels = [] then
    match op with
    | .epi e r => ordered (epilogued x (.epi e r)) op
    | .rfree _ => let y := epilogued x .rfree; { y with dev := advance x.iss.q 64 y.dev }
    | _ => ordered x op
  else withSeq x fun s => { s with opCtr := s.opCtr + 1, region := { s.region with
    deferred := s.region.deferred ++ [{ id := s.opCtr, level := s.region.levels.length, op := op }] } }

/-- The load-address queue of a column with one operation more. -/
def queueLoad (x : Slot) (c : Nat) : Slot := withSeq x fun s => s.modCol c fun y => { y with laq := y.laq + 1 }

/-- What a store push leaves (R114, R120, R122, R238): its data entries are the column's next ones. -/
def queueStore (x : Slot) (t : Strm) : Slot :=
  let n := ((seqOf x).col t.col).sdAsg
  let y := withSeq x fun s => trimCol (s.modCol t.col fun c =>
    { c with saq := if s.region.levels = [] then c.saq + 1 else c.saq, sdAsg := c.sdAsg + t.entries,
             asgs := c.asgs ++ [(c.sdAsg, t.entries)] }) t.col
  withSeq (orderedIn y (.stream { t with ent0 := n })) fun s => trimCol s t.col

/-- R115 to R126: the load streams. -/
def streamLoads : List ((BitVec 3 → BitVec 4 → Opnd → Opnd → Instr) × StrKind) :=
  [(.ld, .ld), (.ldCnt, .ldCnt), (.ldFe, .ldFe), (.ldFec, .ldFec)]

/-- R120 to R126: the store streams. -/
def streamStores : List ((BitVec 3 → Opnd → Opnd → Instr) × StrKind) :=
  [(.st, .st), (.stCf, .stCf), (.stFf, .stFf), (.stFs, .stFs)]

/-- R127: the atomics with their operation's number. -/
def atomics : List ((Opnd → Opnd → BitVec 2 → Bool → Bool → Instr) × Nat) :=
  [(.aswap, 0), (.aadd, 1), (.aand, 2), (.aor, 3), (.axor, 4), (.amin, 5), (.amax, 6), (.aminu, 7), (.amaxu, 8), (.acas, 9)]

/-- R131 and R194: the waits on memory: the instruction, its condition on the bytes read and the value, and its kind. -/
def memoryWaits : List ((BitVec 4 → Opnd → Opnd → Bool → Instr) × (Nat → Nat → Bool) × Nat) :=
  [(.mwaitNe, (fun x v => decide (x ≠ v)), 0), (.mwaitGeu, (fun x v => decide (v ≤ x)), 1)]

/-- What a wait finds in memory: its bytes at a location. No counted line of its own that it would read has still to be filled (R125),
and no access of its own to the same host page is on its way (R265). -/
def waitReads (z : Slot) (va n loc v : Nat) (d : Dev) : Prop :=
  awaitsSide (seqOf z) [(va, n)] = false ∧ (∃ w, accessWay z.dev z.iss.q va = .here loc true w)
  ∧ (goesFar z.dev z.iss.q va loc = true → ∀ p ∈ (seqOf z).far, p.range.2.1 / 16384 ≠ loc / 16384)
  ∧ ∃ l, loadBytes z.dev z.iss.q loc n = (some l, d) ∧ leNat (plain l) = v

/-- The launch holds its cluster's routing counters (R133). -/
def countersHeld (x : Slot) : Prop :=
  (seqOf x).place.control = false ∧ (x.dev.cluster (clusterOf x.dev x.iss.q)).grant = some (seqOf x).place.launch

/-- A stash-map entry that R132 accepts, by the map that checks go by. -/
def mapOk (x : Slot) (k va len ofs : Nat) : Prop :=
  let c := lclOf (mapsAhead x) (seqOf x).place.launch (seqOf x).place.lcl
  va % 16384 = 0 ∧ ofs % 16384 = 0 ∧ len % 16384 = 0
  ∧ (if len = 0 then (vget c.maps k none).isSome = true
     else (vget c.maps k none).isSome = false ∧ ofs + len ≤ c.share * 2 ^ 18
      ∧ ∀ j e, j < 8 → j ≠ k → vget c.maps j none = some e → overlap va len e.va e.len = false ∧ overlap ofs len e.ofs e.len = false)

/-- The device with every page of a list that is not resident requested for the sequencer's tenant (R131). -/
def pagesRequested (x : Slot) (l : List (Nat × Nat)) : Dev :=
  l.foldl (fun d p => match seqWay d x.iss.q p.1 with
    | .absent .. => requestPage d (seqOf x).place.ten p.1 false
    | _ => d) x.dev

/-! ### Regions, barriers and engines -/

/-- R233: no pending writes, no load or returning atomic outstanding, no store stream waiting for its data, the bead array idle. -/
def regionReady (x : Slot) : Prop :=
  (seqOf x).pend = [] ∧ (seqOf x).bead.st = .idle
  ∧ ∀ c < 4, ((seqOf x).col c).ldq = [] ∧ ((seqOf x).col c).fill = [] ∧ ((seqOf x).col c).sdAsg ≤ ((seqOf x).col c).sdRes
    ∧ ((seqOf x).col c).laq ≤ ((seqOf x).ord.filter fun o => match o.op with | .atom a => !a.ret && !a.half && decide (a.col = c) | _ => false).length

/-- The record of a level that opens at a bundle (R234). -/
def levelAt (x : Slot) (limit : Nat) : Level :=
  let s := seqOf x
  { restart := x.iss.pc, limit := limit, loops := s.regs.loops, stage := s.regs.stage, head := s.mx.head, tail := s.mx.tail,
    np := s.mx.np, tags := s.mx.tags, sdRes := (List.range 4).map fun c => (c, (s.col c).sdRes, (s.col c).sdAsg) }

/-- A barrier object's address that R193 accepts. -/
def barrierOk (x : Slot) (va : Nat) : Prop := va % 16 = 0 ∧ inAnyStash (mapsAhead x) x.iss.q va 16 = true

/-- Words of a descriptor in register space. -/
def areaWords (x : Slot) (a n : Nat) : List Nat := (List.range n).map fun k => (seqOf x).spaceNum (a + 8 * k) 8

/-- A register area of n words that a command may name (R207). -/
def areaOk (x : Slot) (a n : Nat) : Prop := a % 32 = 0 ∧ a + 8 * n ≤ (seqOf x).owned

/-- The engine command of a slot (R195, R198, R203). -/
def commandOf (x : Slot) (xf : Bool) (w prog : List Nat) (bar : Nat) : Cmd :=
  let s := seqOf x
  { id := s.opCtr, owner := x.iss.q, launch := s.place.launch, ten := s.place.ten, fork := s.opCtr, xform := xf, desc := w, prog := prog,
    table := (List.range 16).map fun k => s.regs.scaleTab.toNat / 2 ^ (16 * k) % 2 ^ 16, bar := bar }

/-- A command may enter: its barrier is one of R193 or none, and there is room in its engine's queue, or in the deferral
buffer of an open region (R195, R209, R238). -/
def commandOk (x : Slot) (e bar : Nat) : Prop :=
  (bar ≠ 0 → barrierOk x bar) ∧ deferOk x ∧ ((seqOf x).region.levels = [] → hasRoom x.dev x.iss.q e = true)

/-- A command enters its engine's queue, or the deferral buffer of an open region. -/
def commanded (x : Slot) (e : Nat) (c : Cmd) : Slot :=
  if (seqOf x).region.levels = [] then
    let y := withSeq x fun s => { s with opCtr := s.opCtr + 1 }
    { y with dev := enqueue x.iss.q e c y.dev }
  else orderedIn x (.engine e c)

/-- The words of a transform program (R203, R204). -/
def programOf (w pw : List Nat) : List Nat :=
  ((List.range 16).map fun i => pw.getD (i / 4) 0 / 2 ^ (16 * (i % 4)) % 2 ^ 16).take (w.getD 2 0 % 16 + 1)

/-! ### Vectors -/

/-- Lane i of w bits of an element. -/
def lane (w i : Nat) (v : BitVec 256) : Nat := v.toNat / 2 ^ (i * w) % 2 ^ w

/-- The write of lanes of w bits under the lanes that are on (R70, R113, R139): the bytes that an enabled lane lies in, the
half byte of a 4-bit lane that is off beside one that is on kept as a register holds it at the landing (the record shows it as it is at
issue, log 61), and the flags of the enabled lanes. -/
def vectorWrite (x : Slot) (t : Tgt) (lat w : Nat) (on : Nat → Bool) (l : List LaneRes) : List PWrite :=
  let held := match t with
    | .reg a => if w = 4 then lanesOf 4 64 ((seqOf x).spaceNum a 32) else []
    | _ => []
  let bitsOf (f : Nat → Bool) : Nat := packLanes 1 (l.zipIdx.map fun e => (f e.2).toNat)
  let v := packLanes w (l.zipIdx.map fun e => if on e.2 then e.1.1 else held.getD e.2 0)
  let en := laneBytes w l.length (BitVec.ofNat 64 (bitsOf on))
  let fl := flagsOr (l.zipIdx.map fun e => if on e.2 then e.1.2 else 0)
  let half (i : Nat) : Bool := decide (w = 4) && !on i && on (if i % 2 = 0 then i + 1 else i - 1)
  let r : PWrite := { tgt := t, data := BitVec.ofNat 256 v, en := en, flags := fl, rdly := lat }
  match t with
  | .storeData .. => [r]
  | _ => if en = 0 ∧ fl = 0 then [] else [{ r with keep := BitVec.ofNat 64 (bitsOf half) }]

/-- The write of a whole element, every byte enabled (R151). -/
def elementWrite (t : Tgt) (lat v : Nat) (fl : BitVec 6) : List PWrite :=
  [{ tgt := t, data := BitVec.ofNat 256 v, en := BitVec.allOnes 32, flags := fl, rdly := lat }]

/-- The write of lanes' bits to a predicate: the enabled lanes' bits, at +2 (R152, R154). -/
def bitsWrite (x : Slot) (p : BitVec 4) (m : Bool) (l : List (Bool × BitVec 6)) : List PWrite :=
  let g := lanesOn x m
  let w (f : Nat → Bool) : Word := BitVec.ofNat 64 (packLanes 1 ((List.range l.length).map fun i => (f i).toNat))
  let mask := w fun i => g.getLsbD i
  if mask = 0 then []
  else [{ tgt := .pred p.toNat, data := (mask ++ w fun i => (l.getD i (false, 0)).1).setWidth 256, en := 0xFFFF,
          flags := flagsOr (l.zipIdx.map fun e => if g.getLsbD e.2 then e.1.2 else 0), rdly := 2 }]

/-- An instruction of two elements, lane by lane: latency, lane width, and a lane's result. -/
structure Lanes2 where
  ins : Opnd → Opnd → Opnd → Bool → Instr
  lat : Nat
  w : Nat
  val : Nat → Nat → LaneRes

/-- An instruction of one element, lane by lane. -/
structure Lanes1 where
  ins : Opnd → Opnd → Bool → Instr
  lat : Nat
  w : Nat
  val : Nat → LaneRes

/-- The largest and least value of an integer format's clamped results (R141). -/
def clamped (f : Fmt) (v : Int) : Nat :=
  let (lo, hi) := (intRange f).getD (0, 0)
  (max lo (min hi v) % (2 ^ laneW f : Nat)).toNat

/-- R141 and R142: integers modulo 2^w or clamped, bitwise operations on bytes, and shifts of lanes of 8 · 2^l bits. -/
def vectorIntegers (f : Fmt) (l : BitVec 2) : List Lanes2 :=
  let w := laneW f
  let n := 8 * 2 ^ l.toNat
  let i := intOf f
  let md (v : Int) : LaneRes := ((v % (2 ^ w : Nat)).toNat, 0)
  [⟨.vadd f, 2, w, fun a b => md (i a + i b)⟩, ⟨.vsub f, 2, w, fun a b => md (i a - i b)⟩, ⟨.vmul f, 2, w, fun a b => md (i a * i b)⟩,
   ⟨.vadds f, 2, w, fun a b => (clamped f (i a + i b), 0)⟩, ⟨.vsubs f, 2, w, fun a b => (clamped f (i a - i b), 0)⟩,
   ⟨.vmin f, 2, w, fun a b => md (min (i a) (i b))⟩, ⟨.vmax f, 2, w, fun a b => md (max (i a) (i b))⟩,
   ⟨.vand, 2, 8, fun a b => (a &&& b, 0)⟩, ⟨.vor, 2, 8, fun a b => (a ||| b, 0)⟩, ⟨.vxor, 2, 8, fun a b => (a ^^^ b, 0)⟩,
   ⟨.vandn, 2, 8, fun a b => (a &&& (255 - b), 0)⟩,
   ⟨.vshl l, 2, n, fun a b => (if n ≤ b then 0 else a * 2 ^ b % 2 ^ n, 0)⟩, ⟨.vshr l, 2, n, fun a b => (if n ≤ b then 0 else a / 2 ^ b, 0)⟩,
   ⟨.vsar l, 2, n, fun a b => ((sx n a / (2 ^ min b n : Nat) % (2 ^ n : Nat)).toNat, 0)⟩]

/-- R143: floating-point instructions of two elements, rounded once; a minimum or maximum takes one of the two. -/
def vectorFloats (f : Fmt) (rm : Nat) (sat : Bool) : List Lanes2 :=
  let w := laneW f
  let r := fmtOf f
  let n := r.decode
  let dn := decide (rm = 2)
  [⟨.vfadd f, 4, w, fun a b => r.arith rm sat (Machine.Num.add dn (n a) (n b))⟩, ⟨.vfsub f, 4, w, fun a b => r.arith rm sat (Machine.Num.add dn (n a) (n b).neg)⟩,
   ⟨.vfmul f, 4, w, fun a b => r.arith rm sat (Machine.Num.mul (n a) (n b))⟩, ⟨.vfmin f, 4, w, floatPick r false⟩, ⟨.vfmax f, 4, w, floatPick r true⟩]

/-- R143: the fused instructions, of a lane of A, B and the destination as it stands at issue. -/
def vectorFused (f : Fmt) (rm : Nat) (sat : Bool) : List ((Opnd → Opnd → Opnd → Bool → Instr) × (Nat → Nat → Nat → LaneRes)) :=
  let r := fmtOf f
  let n := r.decode
  let dn := decide (rm = 2)
  [(.vfma f, fun a b d => r.arith rm sat (Machine.Num.add dn (Machine.Num.mul (n a) (n b)) (n d))),
   (.vfnms f, fun a b d => r.arith rm sat (Machine.Num.add dn (n d) (Machine.Num.mul (n a) (n b)).neg))]

/-- R144: floating-point instructions of one element. -/
def vectorUnary (rm : Nat) (sat : Bool) : List Lanes1 :=
  [⟨.vrcp, 8, 32, laneRcp rm sat⟩, ⟨.vrsqrt, 8, 32, laneRsqrt rm sat⟩, ⟨.vexp2, 8, 32, laneExp2 rm sat⟩, ⟨.vlog2, 8, 32, laneLog2 rm⟩,
   ⟨.vfabsF64, 4, 64, floatSign (fmtOf .f64) false⟩, ⟨.vfabsF32, 4, 32, floatSign (fmtOf .f32) false⟩, ⟨.vfabsF16, 4, 16, floatSign (fmtOf .f16) false⟩,
   ⟨.vfnegF64, 4, 64, floatSign (fmtOf .f64) true⟩, ⟨.vfnegF32, 4, 32, floatSign (fmtOf .f32) true⟩, ⟨.vfnegF16, 4, 16, floatSign (fmtOf .f16) true⟩]

/-- R149: what lane i of n lanes of w bits of a permute holds. -/
def vectorPermutes (l : BitVec 2) : List ((Opnd → Opnd → Opnd → Bool → Instr) × (BitVec 256 → BitVec 256 → Nat → Nat)) :=
  let w := 8 * 2 ^ l.toNat
  let n := 256 / w
  [(.vperm l, fun a b i => lane w (lane w i b % n) a), (.vilo l, fun a b i => if i % 2 = 0 then lane w (i / 2) a else lane w (i / 2) b),
   (.vihi l, fun a b i => if i % 2 = 0 then lane w (n / 2 + i / 2) a else lane w (n / 2 + i / 2) b)]

/-! ### The matrix unit and the bead array -/

/-- A command at the end of the matrix unit's queue (R164). -/
def matrixQueued (x : Slot) (c : MCmd) : Slot := withSeq x fun s => { s with mx := { s.mx with queue := s.mx.queue ++ [c] } }

/-- The matrix unit's queue has room: a running call holds its entry (R164). -/
def matrixRoom (x : Slot) : Prop := (seqOf x).mx.queue.length + (seqOf x).mx.running.toList.length < 4

/-- The call of an mcall: its routine, and the registers as they stand at its issue (R164, R165, R166). -/
def callOf (x : Slot) (n : Nat) : Call :=
  let s := seqOf x
  { id := s.opCtr, wp := s.regs.mregs.toList, k := s.regs.scaleK.toList.map fun k => toLe 64 k.toNat,
    table := (List.range 16).map fun i => s.regs.scaleTab.toNat / 2 ^ (16 * i) % 2 ^ 16, bar := (vget s.regs.mregs 7 0).toNat,
    pc := x.iss.pc, slot := slotNo x, fork := s.opCtr, upc := 16 * n }

/-- The scalar that m7 holds. -/
def m7Of (x : Slot) : Nat := (vget (seqOf x).regs.mregs 7 0).toNat

/-- The values of an epi's scale or bias vector, as every write issued before its bundle leaves them (R179, R180). -/
def epiValues (x : Slot) (v n : Nat) : List Nat :=
  if v = 0xFFFF then []
  else (List.range n).map fun j => ((landAll x.iss.q 32 x.base).seq x.iss.q).spaceNum (v * 32 + 4 * j) 4

/-- The bytes that an epi stores: each row of its tile from its own address, cut at 4 KiB (R135, R181). -/
def epiFoot (x : Slot) (dst : Nat) (rst : Int) (ofmt : Nat) : List (Nat × Nat) :=
  ((List.range (tileDims (seqOf x)).1).map fun (r : Nat) =>
    rowPieces (addr64 dst ((r : Int) * rst)) ((tileDims (seqOf x)).2 * Op.outBits ofmt / 8)).flatten

/-- An epi that enters the order, or the deferral buffer of an open region, with a place of the store-address queue (R181). -/
def epiQueued (x : Slot) (c : Nat) : Slot :=
  if (seqOf x).region.levels = [] then withSeq x fun s => s.modCol c fun y => { y with saq := y.saq + 1 } else x

/-- The bytes of m consecutive elements of w1 from element n (R218). -/
def elementBytes (x : Slot) (n m : Nat) : Bytes :=
  let w1 := vget (seqOf x).regs.views 1 0
  (seqOf x).spaceBytes (viewBase w1 + n * viewSize w1) (32 * m)

/-- The bead array with row r written: a delay of 63 is no cell, and the row's parity is consistent again (R216, R219). -/
def rowLoaded (b : Bead) (r : Nat) (l : Bytes) : Bead :=
  let cells := l.zipIdx.foldl (fun t e => if e.1.toNat % 64 = 63 then t.erase (r * 128 + e.2) else t.put (r * 128 + e.2) (e.1.toNat % 64)) b.cells
  { b with cells := cells, badRows := b.badRows.filter fun x => decide (x ≠ r) }

/-- The bead array with a wave launched on 16-bit inputs (R221, R227). -/
def waveLaunched (b : Bead) (n : Nat) (l : Bytes) : Bead :=
  { b with st := .run, wave := some { inputs := (List.range n).map fun i => leNat ((l.drop (2 * i)).take 2), mode := b.mode, twin := b.twin,
                                      psn := !b.badRows.isEmpty, prow := b.badRows.headD 0 } }

/-- The device after a micro-word of sequencer q's running call that leaves the call c. -/
def microLeft (s : State) (q : Nat) (f : Seq → Seq) (c : Call) : State :=
  { s with dev := s.dev.modSeq q fun x => let y := f x; { y with mx := { y.mx with running := some c } } }

/-- A matrix call of sequencer q has its turn. -/
def callTurn (s : State) (q : Nat) (c : Call) : Prop :=
  (∃ i, s.turn = .agent q i) ∧ (s.dev.seq q).mx.running = some c ∧ (s.dev.seq q).trap = none

/-! ### Near-data units -/

/-- Unit u, which runs, has its turn. -/
def nearTurn (s : State) (u : Nat) : Prop := (∃ i, s.turn = .agent u i) ∧ (s.dev.unit u).run = .running

/-- What an instruction of unit u starts from. -/
def nearCtx (s : State) (u : Nat) : NearCtx := { dev := s.dev, base := s.dev, u := u, next := (s.dev.unit u).pc + 1 }

/-- The device after an instruction of unit u that completes: a cycle has passed, and control is at a word (R306, R289). -/
def nearAfter (u next : Nat) (d : Dev) : Dev :=
  (nearCycle u d).modUnit u fun y => { y with pc := next, trapCount := 0, trapLast := (0, 0) }

/-- The state after an instruction of unit u that changes the unit and goes to a word. -/
def unitTo (s : State) (u next : Nat) (f : Near → Near) : State := { s with dev := nearAfter u next (s.dev.modUnit u f) }

/-- The state after an instruction of unit u that changes the unit and goes on to the next word. -/
def unitLeft (s : State) (u : Nat) (f : Near → Near) : State := unitTo s u ((s.dev.unit u).pc + 1) f

/-- The state after an instruction of unit u that leaves this context. -/
def ctxLeft (s : State) (y : NearCtx) : State := { s with dev := nearAfter y.u y.next y.dev }

/-- A g register: g0 reads as zero (R282). -/
def gOf (x : Near) (r : BitVec 4) : Word := if r = 0 then 0 else vget x.g r.toNat 0

/-- Its poison bit. -/
def gPoison (x : Near) (r : BitVec 4) : Bool := if r = 0 then false else x.gPsn.getLsbD r.toNat

/-- The unit with a g register written; g0 ignores it (R282). -/
def withG (r : BitVec 4) (v : Word) (p : Bool) (x : Near) : Near :=
  if r = 0 then x else { x with g := vset x.g r.toNat v, gPsn := BitVec.ofNat 16 (setBits x.gPsn.toNat r.toNat 1 p.toNat) }

/-- A mask: f0 reads as all ones (R282). -/
def maskOf (x : Near) (r : BitVec 3) : BitVec 16 := if r = 0 then BitVec.allOnes 16 else vget x.f r.toNat 0

/-- The unit with a mask written; f0 ignores it. -/
def withMask (r : BitVec 3) (v : BitVec 16) (x : Near) : Near := if r = 0 then x else { x with f := vset x.f r.toNat v }

/-- The sixteen lanes of an n register with their poison bits. -/
def nLanes (x : Near) (r : BitVec 4) : List (Nat × Bool) :=
  (List.range 16).map fun i => ((vget x.n r.toNat 0).toNat / 2 ^ (i * 32) % 2 ^ 32, (vget x.nPsn r.toNat 0).getLsbD i)

/-- The unit with all lanes of an n register written. -/
def withN (r : BitVec 4) (l : List (Nat × Bool)) (x : Near) : Near :=
  { x with n := vset x.n r.toNat (BitVec.ofNat 512 (packLanes 32 (l.map (·.1)))),
           nPsn := vset x.nPsn r.toNat (BitVec.ofNat 16 (packLanes 1 (l.map fun e => e.2.toNat))) }

/-- The unit with status bits ORed into nst. -/
def withFlags (f : BitVec 24) (x : Near) : Near := { x with nst := x.nst ||| f }

/-- The unit with the lanes of an n register that a mask enables written, and their flags in nst (R292). -/
def withLanes (d : BitVec 4) (f : BitVec 3) (l : List (Nat × Bool × BitVec 6)) (x : Near) : Near :=
  let m := maskOf x f
  withFlags ((flagsOr (l.zipIdx.map fun e => if m.getLsbD e.2 then e.1.2.2 else 0)).setWidth 24)
    (withN d (((nLanes x d).zip l).zipIdx.map fun e => if m.getLsbD e.2 then (e.1.2.1, e.1.2.2.1) else e.1.1) x)

/-- R287: the scalar instructions of two registers. -/
def nearScalars : List ((BitVec 4 → BitVec 4 → BitVec 4 → Instr) × (Word → Word → Word)) :=
  [(.gadd, fun x y => x + y), (.gsub, fun x y => x - y), (.gmul, fun x y => x * y), (.gand, fun x y => x &&& y), (.gor, fun x y => x ||| y),
   (.gxor, fun x y => x ^^^ y), (.gshl, fun x y => x <<< (y.toNat % 64)), (.gshr, fun x y => x >>> (y.toNat % 64)),
   (.gsar, fun x y => x.sshiftRight (y.toNat % 64)), (.gmin, fun x y => if x.toInt ≤ y.toInt then x else y),
   (.gmax, fun x y => if x.toInt ≤ y.toInt then y else x), (.gminu, fun x y => if x.toNat ≤ y.toNat then x else y),
   (.gmaxu, fun x y => if x.toNat ≤ y.toNat then y else x)]

/-- R289: the branches on two registers. -/
def nearBranches : List ((BitVec 4 → BitVec 4 → BitVec 15 → Instr) × (Word → Word → Bool)) :=
  [(.beq, fun x y => decide (x = y)), (.bne, fun x y => decide (x ≠ y)), (.blt, fun x y => decide (x.toInt < y.toInt)),
   (.bge, fun x y => decide (y.toInt ≤ x.toInt)), (.bltu, fun x y => decide (x.toNat < y.toNat)), (.bgeu, fun x y => decide (y.toNat ≤ x.toNat))]

/-- R292: the lane instructions of two registers. -/
def nearLanes : List ((BitVec 4 → BitVec 4 → BitVec 4 → BitVec 3 → Instr) × (Nat → Nat → LaneRes)) :=
  let i (g : Int → Int → Int) (x y : Nat) : LaneRes := ((g (sx 32 x) (sx 32 y) % (2 ^ 32 : Nat)).toNat, 0)
  let r (v : Machine.Num) : LaneRes := (fmtOf .f32).arith 0 false v
  [(.nadd, i (· + ·)), (.nsub, i (· - ·)), (.nmul, i (· * ·)), (.nmin, i min), (.nmax, i max), (.nminu, fun x y => (min x y, 0)),
   (.nmaxu, fun x y => (max x y, 0)), (.nand, fun x y => (x &&& y, 0)), (.nor, fun x y => (x ||| y, 0)), (.nxor, fun x y => (x ^^^ y, 0)),
   (.nshl, fun x y => (if 32 ≤ y then 0 else x * 2 ^ y % 2 ^ 32, 0)), (.nshr, fun x y => (if 32 ≤ y then 0 else x / 2 ^ y, 0)),
   (.nsar, fun x y => ((sx 32 x / (2 ^ min y 32 : Nat) % (2 ^ 32 : Nat)).toNat, 0)),
   (.nfadd, fun x y => r (Machine.Num.add false (f32Num x) (f32Num y))), (.nfsub, fun x y => r (Machine.Num.add false (f32Num x) (f32Num y).neg)),
   (.nfmul, fun x y => r (Machine.Num.mul (f32Num x) (f32Num y))), (.nfmin, floatPick (fmtOf .f32) false), (.nfmax, floatPick (fmtOf .f32) true)]

/-- R294: the mask instructions of two masks. -/
def nearMasks : List ((BitVec 3 → BitVec 3 → BitVec 3 → Instr) × (BitVec 16 → BitVec 16 → BitVec 16)) :=
  [(.fAnd, fun x y => x &&& y), (.fOr, fun x y => x ||| y), (.fXor, fun x y => x ^^^ y), (.fAndn, fun x y => x &&& ~~~y),
   (fun d a _ => .fNot d a, fun x _ => ~~~x)]

/-- R296: the reductions of the enabled lanes (none for a lane that is not enabled). -/
def nearReductions : List ((BitVec 4 → BitVec 4 → BitVec 3 → Instr) × (List (Option Nat) → Word × BitVec 6)) :=
  let tree (id : Nat) (f : Nat → Nat → LaneRes) (l : List (Option Nat)) : Word × BitVec 6 :=
    let r := Op.tree f 7 (l.map fun e => e.getD id) 0
    (BitVec.ofNat 64 r.1, r.2)
  [(.nrsumI32, fun l => (BitVec.ofInt 64 (l.map fun e => e.elim 0 (sx 32)).sum, 0)),
   (.nrmaxI32, fun l => (BitVec.ofInt 64 ((l.map fun e => e.elim (-2 ^ 31) (sx 32)).foldl max (-2 ^ 31)), 0)),
   (.nrminI32, fun l => (BitVec.ofInt 64 ((l.map fun e => e.elim (2 ^ 31 - 1) (sx 32)).foldl min (2 ^ 31 - 1)), 0)),
   (.nrsumF32, tree 0x80000000 fun x y => (fmtOf .f32).arith 0 false (Machine.Num.add false (f32Num x) (f32Num y))),
   (.nrmaxF32, tree 0xFF800000 (floatPick (fmtOf .f32) true))]

/-- Every write of unit u has performed: no pushed entry and no copy is left, and every peer has acknowledged its writes (R263, R264, R290,
R291, R303). -/
def nearDrained (d : Dev) (u : Nat) : Prop :=
  (d.unit u).copies = [] ∧ (∀ p ∈ (d.unit u).ports.toList, p.out = []) ∧ ∀ o ∈ d.peerOut, o.agent ≠ unitAgent u

/-- The unit with its next write numbered (R269). -/
def numbered (x : Near) : Near := { x with writes := x.writes + 1 }

/-- A safe point takes the requests that wait: the unit is parked or saved at the next word (R24, R291). -/
def requestsTaken (x : Near) : Near :=
  if x.reqs = [] then x
  else { x with reqs := if ReqKind.preempt ∈ x.reqs then x.reqs.filter (· ≠ .preempt) else [],
                run := if ReqKind.preempt ∈ x.reqs then .saved else .parked, sp := some (x.iw / 2 ^ 6 % 2 ^ 16) }

/-- A word of a unit's instruction register: its operand fields. -/
def iwField (x : Near) (lo n : Nat) : BitVec n := BitVec.ofNat n (x.iw / 2 ^ lo)

/-- A unit may read or write at every address of a list, and its translation is there (R297, R303, R304). -/
def nearMay (x : NearCtx) (wr : Bool) (l : List Nat) : Prop :=
  ∀ a ∈ l, a < 2 ^ 56 ∧ unitWay x.dev x.u a ≠ .miss ∧ (if wr then (unitWay x.dev x.u a).writes = true else (unitWay x.dev x.u a).reads = true)

/-- The context with the unit changed. -/
def withUnit (x : NearCtx) (f : Near → Near) : NearCtx := { x with dev := x.dev.modUnit x.u f }

/-- n granules of 64 bytes in the unit's local range (R281, R302). -/
def nearLocal (x : NearCtx) (va n : Nat) : Prop :=
  ∀ k < n, ∃ loc r w, unitWay x.dev x.u (va + 64 * k) = .here loc r w ∧ unitLocal x.dev x.u loc = true

/-- A bank copy that has still to read or write 64 bytes at an address does not meet a port's entries (R302). -/
def portApart (x : Near) (l : List Nat) : Prop :=
  ∀ a ∈ l, NearOp.copyOver x a 64 = false

/-- A port that an nsopen opens (R297). -/
def portOpened (mode base : Nat) (stride : Int) (cnt : Nat) (pairs : List Bool) (p : Port) : Port :=
  { mode := some mode, base := base, stride := stride, cnt := cnt, bits := pairs, out := p.out }

/-- The unit with port p changed. -/
def withPort (p : BitVec 2) (f : Port → Port) (x : Near) : Near := { x with ports := vset x.ports p.toNat (f (vget x.ports p.toNat {})) }

/-- What an nmac leaves in the unit (R299 to R301, R307): pair is what its port gave, none for a clear bit of a sparse port. -/
def multiplied (t : Fmt) (d b : BitVec 4) (f j : BitVec 3) (zero : Bool) (pair : Option (List (Bytes × List Nat))) (x : Near) : Near :=
  let sc := nLanes x 15
  let byte (i : Nat) : Nat := (sc.getD (i / 4) (0, false)).1 / 2 ^ (8 * (i % 4)) % 2 ^ 8
  let scale (i : Nat) : Bool := decide (t = .zq4) && (sc.getD (i / 4) (0, false)).2
  let lo := (nLanes x b).getD (2 * j.toNat) (0, false)
  let hi := (nLanes x b).getD (2 * j.toNat + 1) (0, false)
  let act := chunkVals t x.table.toNat (byte 32) (byte 33) (lo.1 + hi.1 * 2 ^ 32)
  let bytes := ((pair.getD []).map (·.1)).flatten
  let one (e : (Nat × Bool) × Nat) : Nat × Bool × BitVec 24 :=
    let w := if pair.isSome then chunkVals t x.table.toNat (byte e.2) (byte (16 + e.2)) (leNat ((bytes.drop (8 * e.2)).take 8))
      else act.map fun _ => Machine.Num.fin false 0 0
    let r := nmacLane (decide (t = .i8) || decide (t = .u8) || decide (t = .i4)) (if zero then 0 else e.1.1) w act
    let entry := match pair with | some l => (l.getD (e.2 / 8) ([], [])).2.contains (e.2 % 8 / 4) | none => false
    (r.1, entry || (lo.2 || hi.2 || scale 32) || (!zero && e.1.2) || scale e.2 || scale (16 + e.2), r.2)
  let m := maskOf x f
  let r := (nLanes x d).zipIdx.map one
  let lanes := ((nLanes x d).zip r).zipIdx.map fun e => if m.getLsbD e.2 then (e.1.2.1, e.1.2.2.1) else e.1.1
  let status := r.zipIdx.map fun e => if m.getLsbD e.2 then e.1.2.2 ||| (if e.1.2.1 then 0x40#24 else 0) else 0
  withFlags (status.foldl (· ||| ·) 0) (withN d lanes x)

/-! ### Steps that no word encodes -/

/-- A step that leaves the device d and changes nothing else. -/
def became (s : State) (d : Dev) : Out := .next { s with dev := d }

/-- What needs no step of its own in a sequencer's order goes first, as far as it can (R247). -/
def broughtOn (q : Nat) (d : Dev) : Dev := advance q (ordFuel (d.seq q).ord) d

/-- Sequencer q has its turn and comes to the checks of a bundle of half h, whose words `l` pass theirs and come before `r` (R71, R84): it runs,
and nothing else comes first. -/
def readyToIssue (s : State) (q : Nat) (h : Half) (l r : List (Nat × Nat)) : Prop :=
  (∃ k, s.turn = .agent q k) ∧ s.issue = none ∧ leaderTrapped s.dev q = false ∧
  let d := broughtOn q s.dev
  let x := d.seq q
  headForbidden d q = false ∧ switching d q = false ∧ x.run = .running ∧ x.stepDue = false ∧ x.safeDue = none ∧ rendWaits x = false
  ∧ (x.foreignDue = true → x.owedForeign = 0) ∧ x.owedWatch = none ∧ x.mx.fault = none ∧ x.halted = false ∧ x.nopLeft = 0 ∧ x.falloff = false
  ∧ x.half = some h ∧ h.seg = x.pc.seg ∧ h.bundles[x.pc.idx]? = some (l ++ r) ∧ (∀ e ∈ l ++ r, x.owns (e.1 / 2) = true)
  ∧ ∀ e ∈ l, ∃ i, checkSlot ((landDue q (d.setSeq q x)).seq q) (decide ((l ++ r).length = 1)) e.1 e.2 = .ok i

/-- The device with the entry that the next element of a load stream goes to (R113). -/
def entryFor (q : Nat) (t : Strm) (d : Dev) : Dev :=
  if t.next % t.per = 0 then newEnt q t.col (min t.per (t.cnt - t.next)) t (decide (t.cnt ≤ t.next + t.per)) d else d

/-- The next element of a load stream takes its place at a location, and the stream goes on (R113, R117, R250). -/
def elementRead (q : Nat) (t : Strm) (loc : Nat) (d : Dev) : Dev :=
  let e := entryFor q t d
  nextElem q t (loadAt q t.col ((e.seq q).entCtr - 1) (t.next % t.per) (t.addr t.next) loc t.esz true e)

/-- An atomic takes its place at a location as one read and write; it leaves the order, and one that returns a value has its entry
(R127, R128). On a host-bias page it leaves for the host, but for one of scope .sy (R265). -/
def atomPlaced (q : Nat) (a : Atom) (loc : Nat) (d : Dev) : Dev :=
  let n := if a.wide then 8 else 4
  let go (d : Dev) (p : Placed) : Dev := if a.sc = 2 then perform d p else putOut d a.addr p
  if a.ret then
    let e := popHead q (newEnt q a.col 1 { kind := .ld, col := a.col, base := a.addr, stride := 0, esz := n, cnt := 1, pk := false } true d)
    let p := go e (.rmw q a.col ((e.seq q).entCtr - 1) a.addr true a.op loc n a.y a.y2)
    modEnt q a.col ((p.seq q).entCtr - 1) (markRes 0) p
  else
    let e := (popHead q d).modSeq q fun s => s.modCol a.col fun c => { c with laq := c.laq - 1 }
    go e (.rmw q a.col ((e.seq q).entCtr - 1) a.addr false a.op loc n a.y a.y2)

/-- What the matrix command id reads takes its places, n bytes at each address in turn, and its operation leaves the order
(R171, R172, R247). -/
def readsPlaced (q id n : Nat) (l : List Nat) (d : Dev) : Dev :=
  popHead q (l.zipIdx.foldl (fun e a => placePart q id a.1 n a.2 (accessWay d q a.1) e) d)

/-- A micro store after the words that an mld has read, from f on; a word with a poisoned byte is poisoned (R171, R243). -/
def wordsStored (f : Nat) (got : Tab (Bytes × List Nat)) (m : Matrix) : Matrix :=
  got.foldl (fun (m : Matrix) (e : Nat × Bytes × List Nat) =>
    { m with store := m.store.put (f + e.1) (BitVec.ofNat 64 (leNat e.2.1)),
             poisoned := if e.2.2 = [] then m.poisoned.filter fun w => decide (w ≠ f + e.1) else insertNat (f + e.1) m.poisoned }) m

/-- A latch of rows that an mgat has read in pieces of 32 bytes, n to a row, with its poisoned bytes by row and place (R172, R185). -/
def latchOf (n rows : Nat) (got : Tab (Bytes × List Nat)) : Latch :=
  { rows := (List.range rows).map fun r => ((List.range n).map fun c => (got.find (n * r + c) ([], [])).1).flatten,
    psn := (got.map fun e => e.2.2.map fun c => (e.1 / n, 32 * (e.1 % n) + c)).flatten }

/-- A stream whose next element may take its place: it is at the head of the order, does not wait, and no counted line that has still to
be filled holds it (R125). -/
def headStream (d : Dev) (q : Nat) (t : Strm) : Prop :=
  headHeld d q = false ∧ ∃ o l, (d.seq q).ord = o :: l ∧ o.op = .stream t ∧ o.waits = false

/-- A launch whose device node has come to zero is an end that is held while the Gaffer does not run (R366, R403). -/
def endHeld (l : Nat) (d : Dev) : Dev := if (d.launch? l).any fun x => decide (deviceNode x = 0) then holdItem (launchAgent l) d else d

/-- A step of the Gaffer, and one of its leader, may be made (R348, R395). -/
def leaderTurn (d : Dev) : Prop := d.fw.gstat = 1 ∧ leaderFree d = true

/-- A tenant's deficit after a tick (R365): its share of 10 microseconds of 1024 columns less what it held, within 2^40 of zero. -/
def deficitAfter (d : Dev) (n : Nat) : Int :=
  let t := d.tenant n
  let w := ((busyTenants d).map fun b => (d.tenant b).wgt).sum
  if n ∈ busyTenants d then max (-(2 ^ 40)) (min (2 ^ 40) (t.deficit + (10240 * t.wgt / w : Nat) - 10 * (columnsHeld d n : Nat))) else 0

/-- A record that is taken: the stream is active, the Gaffer runs and its leader is free (R353, R395). -/
def recordTurn (s : State) (ten m : Nat) (r : Rec) : Prop :=
  s.turn = .record ten m r ∧ leaderTurn s.dev ∧ (s.dev.stream ten m).state = 1

/-- A record that has been taken: RIX is past it, and a scheduling pass follows (R353, R363). -/
def recordTaken (s : State) (ten m : Nat) (r : Rec) (d : Dev) : Out := became s (pass (takePast ten m (recLen r) d))

/-- A record whose stream holds at it in STATE 2 (R358, R361). -/
def recordHeld (s : State) (ten m : Nat) (d : Dev) : Out := became s (putState ten m (d.modStream ten m fun x => { x with state := 2 }))

/-- n bytes of a record from byte lo. -/
def field (r : Rec) (lo n : Nat) : Nat := recNum r lo n

/-- A MEM or FLEET record's body has zero bytes where its operation has none (R374, R405). -/
def spareZero (r : Rec) (used : List (Nat × Nat)) : Prop :=
  ∀ i < 104, (∀ u ∈ used, 24 + i < u.1 ∨ u.1 + u.2 ≤ 24 + i) → field r (24 + i) 1 = 0

/-! ### Frames -/

/-- The scalar and predicate instructions and the vector instructions: they read registers, queues and predicates, and
write only a register, a queue entry, a predicate or st. -/
def registerOnly (i : Instr) : Prop :=
  (∃ b ∈ scalarBinary, ∃ d a c m, i = b.ins d a c m)
  ∨ (∃ k n, ∃ b ∈ scalarUnary k n, ∃ d a m, i = b.ins d a m)
  ∨ (∃ b ∈ scalarCompares, ∃ d a c m, i = b.1 d a c m)
  ∨ (∃ b ∈ predLogic, ∃ d a c m, i = b.1 d a c m)
  ∨ (∃ f l, ∃ b ∈ vectorIntegers f l, ∃ d a c m, i = b.ins d a c m)
  ∨ (∃ f, ∃ b ∈ vectorFloats f 0 false, ∃ d a c m, i = b.ins d a c m)
  ∨ (∃ f, ∃ b ∈ vectorFused f 0 false, ∃ d a c m, i = b.1 d a c m)
  ∨ (∃ b ∈ vectorUnary 0 false, ∃ d a m, i = b.ins d a m)
  ∨ (∃ l, ∃ b ∈ vectorPermutes l, ∃ d a c m, i = b.1 d a c m)
  ∨ (∃ d k, i = .movi d k) ∨ (∃ d h c, i = .lui d h c) ∨ (∃ d n, i = .mvi d n ∨ i = .mvtc d n)
  ∨ (∃ d p m, i = .spf d p m) ∨ (∃ d m, i = .str d m) ∨ (∃ a m, i = .stw a m)
  ∨ (∃ p k m, i = .pst p k m) ∨ (∃ p a m, i = .pfs p a m ∨ i = .pfirst p a m)
  ∨ (∃ f d a g k m, i = .vcvt f d a g k m) ∨ (∃ d a b m, i = .vzqe d a b m ∨ i = .vzqd d a b m)
  ∨ (∃ f d a b, i = .vsel f d a b) ∨ (∃ l d a m, i = .vbcast l d a m) ∨ (∃ l d p m, i = .vpmask l d p m)
  ∨ (∃ f d a m, i = .vrsum f d a m ∨ i = .vrmax f d a m ∨ i = .vrmin f d a m)
  ∨ (∃ f c p a b m, i = .vcmp f c p a b m) ∨ (∃ l p a m, i = .vpmsb l p a m ∨ i = .vpnz l p a m)

/-- The half bytes of byte i that a write keeps, as a mask (R139). -/
def keepMask (w : PWrite) (i : Nat) : Byte := (if w.keep.getLsbD (2 * i) then 0x0F else 0) ||| (if w.keep.getLsbD (2 * i + 1) then 0xF0 else 0)

/-- A byte of register space after writes that land in this order, each over the ones before, but for the half bytes that it keeps (R73,
R139). -/
def landedByte (l : List PWrite) (k : Nat) (b : Byte) : Byte :=
  l.foldl (fun b w => match w.tgt with
    | .reg a => if a ≤ k ∧ k < a + 32 ∧ w.en.getLsbD (k - a) then
        (w.data.extractLsb' (8 * (k - a)) 8 &&& ~~~keepMask w (k - a)) ||| (b &&& keepMask w (k - a)) else b
    | _ => b) b

/-- What a register holds after writes that land in this order, each over the ones before (R73): `f` is what a write's data leave of it. -/
def landed {α : Type} (t : Tgt) (f : BitVec 256 → α) (l : List PWrite) (v : α) : α := l.foldl (fun v w => if w.tgt = t then f w.data else v) v

/-- What a system register holds after writes that land, of which it keeps the bits of a mask (R109). -/
def landedSys (n : Nat) (mask : Word) (l : List PWrite) (v : Word) : Word := landed (.sysreg n) (fun x => x.setWidth 64 &&& mask) l v

/-- The loop-index stack after pushes, counts and pops that land in this order (R100). -/
def landedLoops (l : List PWrite) (v : List LoopEnt) : List LoopEnt :=
  l.foldl (fun v w => match w.tgt with
    | .loopPush => { index := w.data.extractLsb' 0 32, remaining := w.data.extractLsb' 32 32, first := w.data.extractLsb' 64 7 } :: v
    | .loopSet => (match v with
      | e :: l => { e with index := w.data.extractLsb' 0 32, remaining := w.data.extractLsb' 32 32 } :: l
      | [] => [])
    | .loopPop => v.drop 1
    | _ => v) v

/-- A predicate after writes that land in this order, each under its lane mask (R70, R73). -/
def landedPred (l : List PWrite) (n : Nat) (p : Word) : Word :=
  l.foldl (fun p w => if w.tgt = .pred n then
      (p &&& ~~~(w.data.extractLsb' 64 64)) ||| (w.data.extractLsb' 0 64 &&& w.data.extractLsb' 64 64) else p) p

end Sys2Proof.Claim
end

