-- ==== Sys2Proof/WellFormed.lean ====
section
/-! DEFINITION. Which instructions are well formed: the operand ranges and format lists that the spec gives each
instruction beyond the width of its fields. -/

namespace Sys2Proof

/-- The conditions on an instruction's fields (R84, R90, R140, R284, R430); the steps that no word encodes have none. -/
def instrWf : Instr → Bool
  | .mvi _ n => decide (n.toNat < 6)
  | .mvtc _ n => decide (n.toNat < 6)
  | .ld e _ _ _ => decide (e.toNat < 6)
  | .ldCnt e _ _ _ => decide (e.toNat < 6)
  | .ldFe e _ _ _ => decide (e.toNat < 6)
  | .ldFec e _ _ _ => decide (e.toNat < 6)
  | .st e _ _ => decide (e.toNat < 6)
  | .stCf e _ _ => decide (e.toNat < 6)
  | .stFf e _ _ => decide (e.toNat < 6)
  | .stFs e _ _ => decide (e.toNat < 6)
  | .aswap _ _ s _ _ => decide (s.toNat < 3)
  | .aadd _ _ s _ _ => decide (s.toNat < 3)
  | .aand _ _ s _ _ => decide (s.toNat < 3)
  | .aor _ _ s _ _ => decide (s.toNat < 3)
  | .axor _ _ s _ _ => decide (s.toNat < 3)
  | .amin _ _ s _ _ => decide (s.toNat < 3)
  | .amax _ _ s _ _ => decide (s.toNat < 3)
  | .aminu _ _ s _ _ => decide (s.toNat < 3)
  | .amaxu _ _ s _ _ => decide (s.toNat < 3)
  | .acas d _ s _ _ => d.isRun 1 && decide (s.toNat < 3)
  | .fence s _ => decide (s.toNat < 3)
  | .pld _ a => a.isRun 1
  | .pcur _ n => decide (n.toNat < 10)
  | .vadd f _ _ _ _ => ([.i8, .u8, .i16, .i32, .i64] : List Fmt).contains f
  | .vsub f _ _ _ _ => ([.i8, .u8, .i16, .i32, .i64] : List Fmt).contains f
  | .vadds f _ _ _ _ => ([.i8, .u8, .i16, .i32, .i64] : List Fmt).contains f
  | .vsubs f _ _ _ _ => ([.i8, .u8, .i16, .i32, .i64] : List Fmt).contains f
  | .vmul f _ _ _ _ => ([.i8, .u8, .i16, .i32, .i64] : List Fmt).contains f
  | .vmin f _ _ _ _ => ([.i8, .u8, .i16, .i32, .i64] : List Fmt).contains f
  | .vmax f _ _ _ _ => ([.i8, .u8, .i16, .i32, .i64] : List Fmt).contains f
  | .vfadd f _ _ _ _ => ([.f64, .f32, .bf16, .f16] : List Fmt).contains f
  | .vfsub f _ _ _ _ => ([.f64, .f32, .bf16, .f16] : List Fmt).contains f
  | .vfmul f _ _ _ _ => ([.f64, .f32, .bf16, .f16] : List Fmt).contains f
  | .vfma f d _ _ _ => ([.f64, .f32, .bf16, .f16] : List Fmt).contains f && !d.isQueue
  | .vfnms f d _ _ _ => ([.f64, .f32, .bf16, .f16] : List Fmt).contains f && !d.isQueue
  | .vfmin f _ _ _ _ => ([.f64, .f32, .bf16, .f16] : List Fmt).contains f
  | .vfmax f _ _ _ _ => ([.f64, .f32, .bf16, .f16] : List Fmt).contains f
  | .vcvt f _ _ s p _ => ([.f64, .f32, .bf16, .f16, .e4m3, .e5m2, .e3m2, .e2m3, .i8, .u8, .i4, .i16, .i32, .i64] : List Fmt).contains f && ([.f64, .f32, .bf16, .f16, .e4m3, .e5m2, .e3m2, .e2m3, .i8, .u8, .i4, .i16, .i32, .i64] : List Fmt).contains s && cvtOk f s p
  | .vrsum f _ _ _ => ([.f64, .f32, .bf16, .f16, .i8, .u8, .i16, .i32, .i64] : List Fmt).contains f
  | .vrmax f _ _ _ => ([.f64, .f32, .bf16, .f16, .i8, .u8, .i16, .i32, .i64] : List Fmt).contains f
  | .vrmin f _ _ _ => ([.f64, .f32, .bf16, .f16, .i8, .u8, .i16, .i32, .i64] : List Fmt).contains f
  | .vcmp f c _ _ _ _ => ([.f64, .f32, .bf16, .f16, .i8, .u8, .i16, .i32, .i64] : List Fmt).contains f && decide (c.toNat < 7) && cmpOk f c
  | .vsel f _ _ _ => ([.f64, .f32, .bf16, .f16, .e4m3, .e5m2, .e3m2, .e2m3, .i8, .u8, .i4, .i16, .i32, .i64] : List Fmt).contains f
  | .mgat _ a => a.isRun 2
  | .epi a _ => a.isRun 3
  | .bload a _ => a.isRun 0
  | .blnch a => a.isRun 0
  | .gmvi _ n => decide (n.toNat < 6)
  | .ncmpI32 c _ _ _ _ => decide (c.toNat < 6)
  | .ncmpF32 c _ _ _ _ => decide (c.toNat < 4)
  | .nmac t d _ b _ _ _ => ([.f32, .bf16, .f16, .e4m3, .e5m2, .i8, .u8, .i4, .zq4] : List Fmt).contains t && nmacOk t d b
  | _ => true

/-- A well-formed instruction. -/
def WellFormed (i : Instr) : Prop := instrWf i = true

end Sys2Proof
end

