-- ==== Sys2Proof/Certificates/Slice0/Obligations.lean ====
section
/-! DEFINITION. The statements about the model. -/

open Sys2Proof Sys2Proof.Machine Sys2Proof.Claim

/-- A step is exec of the instruction that is fetched: the next slot's, a unit's, a call's, a record's, or the named step's
(01_work_and_placement R32, 03_bundles_and_encoding R84, 07_matrix R164, 16_near_data_isa R284, 20_host_and_launch R353). With
power, a step in a bundle is exec of the instruction that the next slot's word decodes to, in the state as it stands. Between
bundles the head of the model's agenda (log 1) moves: a named step runs with its turn; a running unit's next word is fetched
into its instruction register and its instruction runs; a running call's next micro-word runs; an active stream's exposed
record, whose TYPE, LEN and header keep the rules, runs as its record's step. The agenda loses its head. -/
def Obligations.StepRunsTheDecodedInstruction : Prop :=
  ∀ s : State, s.dev.fleet.off = false →
    (∀ (iss : Issue) (i w : Nat) (l : List (Nat × Nat)) (ins : Instr), s.issue = some iss → iss.rest = (i, w) :: l → decodeCore w = .ok ins →
      step s = exec ins s)
    ∧ (∀ (p : Pick) (l : List Pick), s.issue = none → s.agenda = p :: l →
      let t : State := { s with agenda := l }
      (∀ (i : Instr) (u : Turn), p = .ev i u → (∀ a b r, u ≠ .record a b r) → step s = exec i { t with turn := u })
      ∧ (∀ (u w : Nat) (ins : Instr), p = .unit u → (s.dev.unit u).run = .running → (s.dev.unit u).start = none →
        (s.dev.unit u).code[(s.dev.unit u).pc]? = some w → decodeNear w = some ins →
        step s = exec ins { t with turn := .agent u 0, dev := s.dev.modUnit u fun y => { y with iw := w } })
      ∧ (∀ (q : Nat) (c : Call) (ins : Instr), p = .matrix q → (s.dev.seq q).mx.running = some c → (s.dev.seq q).trap = none →
        c.upc < (s.dev.seq q).microWords → c.upc ∉ (s.dev.seq q).mx.poisoned →
        decodeMicro ((s.dev.seq q).mx.store.find c.upc 0).toNat = some ins → step s = exec ins { t with turn := .agent q 0 })
      ∧ (∀ (ten m : Nat) (ins : Instr), p = .take ten m → leaderTurn s.dev → streamOn s.dev ten m = true → (s.dev.stream ten m).state = 1 →
        statusDue s.dev ten = false →
        let x := s.dev.stream ten m
        let h := gget s.dev (streamByte s.dev ten m x.rix) 8
        let len := h / 2 ^ 8 % 2 ^ 8
        let r : Rec := { words := (List.range (8 * len)).map fun k => BitVec.ofNat 64 (gget s.dev (streamByte s.dev ten m (x.rix + 8 * k)) 8) }
        x.rix + 64 ≤ x.wix → x.rix % 64 = 0 → typeOk ten (h % 2 ^ 8) = true → lenOk (h % 2 ^ 8) len = true → x.rix % 2 ^ x.size + 64 * len ≤ 2 ^ x.size →
        h / 2 ^ 16 % 2 ^ 16 = 0 → x.rix + 64 * len ≤ x.wix → recordStep (h % 2 ^ 8) (field r 8 1) = some ins →
        step s = exec ins { t with turn := .record ten m r }))

/-- Words written out from the spec's encodings decode to the instructions that they stand for (03_bundles_and_encoding R81,
03_bundles_and_encoding R83, 04_scalar_control R91, 04_scalar_control R96, 04_scalar_control R104, 05_memory_access R115,
05_memory_access R127, 06_vector R143, 07_matrix R167, 16_near_data_isa R284, 16_near_data_isa R288). Words of the scalar,
branch, immediate, stream, atomic, vector, convert, broadcast, reduction, matrix, epilogue, bead, region, parison, engine,
counter, wait and scale families, of near-data instructions and of micro-words, each written out bit by bit from the spec's
encodings, decode to their instructions; a reserved major and an unassigned minor are refused by name. -/
def Obligations.WordsOfTheSpecDecode : Prop :=
  decodeCore 0x18818178 = .ok (.mul (.elem 3) (.elem 1) (.queue 0) false)
  ∧ decodeCore 0x04E00005 = .ok (.brT 3 0 5)
  ∧ decodeCore 0x1C0A17F8 = .ok (.addi (.elem 5) (.elem 5) 0x3F8)
  ∧ decodeCore 0x2C12840A = .ok (.ld 2 5 (.elem 4) (.elem 5))
  ∧ decodeCore 0x34420240 = .ok (.aadd (.elem 4) (.elem 2) 1 false false)
  ∧ decodeCore 0x38818812 = .ok (.mwaitGeu 3 (.elem 8) (.elem 9) false)
  ∧ decodeCore 0x3C400A00 = .ok (.csnap (.elem 10) false)
  ∧ decodeCore 0x40010500 = .ok (.ldkS 2 (.elem 5))
  ∧ decodeCore 0x44000200 = .ok (.rbegin 2)
  ∧ decodeCore 0x4C008812 = .ok (.ecopy 1 (.elem 8) (.elem 9) false)
  ∧ decodeCore 0x50018A00 = .ok (.pld (.elem 3) (.elem 10))
  ∧ decodeCore 0x8061047B = .ok (.vfadd .f32 (.rot false 2) (.elem 4) (.queue 1) true)
  ∧ decodeCore 0xA0838914 = .ok (.vcvt .bf16 (.elem 7) (.elem 9) .f32 1 false)
  ∧ decodeCore 0xA9828700 = .ok (.vbcast 2 (.elem 5) (.elem 7) false)
  ∧ decodeCore 0xAC450B00 = .ok (.vrsum .f32 (.elem 10) (.elem 11) false)
  ∧ decodeCore 0xC0000500 = .ok (.mcall 5 false)
  ∧ decodeCore 0xC8001400 = .ok (.epi (.elem 20) false)
  ∧ decodeCore 0xCC001406 = .ok (.bload (.elem 20) (.elem 3))
  ∧ decodeCore 0xE0000000 = .error .reservedMajor
  ∧ decodeCore 0x02000000 = .error .illegal
  ∧ decodeNear 0x20048C00 = some (.nadd 1 2 3 0)
  ∧ decodeNear 0x14C0FFFD = some (.bne 3 0 0x7FFD)
  ∧ decodeNear 0x3E100810 = some (.nmac .i8 4 0 2 0 1 false)
  ∧ decodeMicro 0x0488810FC0800000 = some .mmac
  ∧ decodeMicro 0x0800000000000000 = some .mpub

/-- Decoding an encoded well-formed instruction gives it back, and every word that decodes is the encoding of its instruction
(03_bundles_and_encoding R81, 03_bundles_and_encoding R83, 03_bundles_and_encoding R84, 03_bundles_and_encoding R86,
03_bundles_and_encoding R87, 04_scalar_control R90, 06_vector R138, 06_vector R140, 16_near_data_isa R284). For every well-
formed instruction of the core set and of the near-data set, with every operand at every value that its encoding admits, the
decoder reads from its word the instruction itself. The other way round, every 32-bit word that the core decoder accepts decodes
to a well-formed instruction whose word it is, and so does every near-data word whose instruction carries its operands. So no
bit of an encoding is dropped, and no two instructions share a word of one set. -/
def Obligations.EncodingRoundTrip : Prop :=
  (∀ (i : Instr) (w : Nat), WellFormed i →
    (encodeCore i = some w → w < 2 ^ 32 ∧ decodeCore w = .ok i) ∧ (encodeNear i = some w → w < 2 ^ 32 ∧ decodeNear w = some i))
  ∧ (∀ (i : Instr) (w : Nat), w < 2 ^ 32 →
    (decodeCore w = .ok i → WellFormed i ∧ encodeCore i = some w)
    ∧ (decodeNear w = some i → WellFormed i ∧ (∀ v, encodeNear i = some v → v = w)))

/-- Every word with major 0x2F is refused by the decoder, and its bundle traps with the illegal-instruction cause (R155). No word
with major 0x2F decodes to an instruction. A sequencer whose next bundle holds such a word, in any slot of its columns and
behind any words that pass their checks, takes a trap at that bundle with the illegal-instruction cause (0x01), and no bundle is
in progress. -/
def Obligations.UnassignedMajorTraps : Prop :=
  ∀ w : Nat, w < 2 ^ 32 → w / 2 ^ 26 = 0x2F →
    decodeCore w = .error .illegal
    ∧ ∀ (s : State) (q i : Nat) (h : Half) (l r : List (Nat × Nat)), readyToIssue s q h l ((i, w) :: r) →
      ∃ (t : State) (u : TrapInfo), exec .bundleIssue s = .next t ∧ t.issue = none ∧ (t.dev.seq q).trap = some u ∧ u.cause = 0x01

/-- After reset memory is in canonical form, nothing is placed, and the one step that follows is the start of the Gaffer
(03_bundles_and_encoding R66, 03_bundles_and_encoding R69, 20_host_and_launch R348, 21_translation_and_faults R384). The state
after reset keeps the invariant. No sequencer, unit, stream, object or launch exists, no translation is held, the Gaffer's
status word shows that it does not run, and every byte of memory reads zero, which is the model's choice for memory that nothing
has written (log 2). The state after reset has an empty agenda (log 1) and places no program (log 16): its one step is RESET. A
fresh sequencer has the start values of R66 and R69; that its other registers are zero is the model's choice (log 5). -/
def Obligations.ResetHasInvariant : Prop :=
  Inv State.reset
  ∧ State.reset.dev.seqs = [] ∧ State.reset.dev.near = [] ∧ State.reset.dev.streams = [] ∧ State.reset.dev.objs = [] ∧ State.reset.dev.launches = []
  ∧ State.reset.dev.mmu.tlb = [] ∧ State.reset.dev.placed = [] ∧ State.reset.dev.fw.gstat = 0
  ∧ (∀ a, State.reset.dev.mem.get a = 0)
  ∧ (∃ s, fetch State.reset = .run .reset s)
  ∧ (let x : Seq := {}
     x.regs.views = #v[0x00000000003C0000#64, 0x00000000003C0202#64, 0x500#64, 0x500#64] ∧ x.regs.stage = 0 ∧ x.regs.fctl = 0 ∧ x.regs.fstat = 0
     ∧ (∀ n, x.pred n = if n = 0 then BitVec.allOnes 64 else 0) ∧ (∀ a, x.byteAt a = 0))

/-- Every step of the device keeps its memory in canonical form (10_regions_and_checks R243, 11_ordering_near R249, 11_ordering_near
R250, 21_translation_and_faults R384). From every state whose device memory is in canonical form, and that of the device before
the bundle in progress, each step that answers a next state leaves both in canonical form: stores, atomics, rows of engines,
publications, trap records, events, stream words, scrubs, kills and rollbacks. So equal memories are equal data after any number
of steps. -/
def Obligations.StepKeepsInvariant : Prop := ∀ s t : State, Inv s → step s = .next t → Inv t

/-- The writes that are due land at a bundle's start, each in its own kind of register, the later over the earlier; the others come
one bundle nearer (02_number_formats R44, 02_number_formats R45, 03_bundles_and_encoding R64, 03_bundles_and_encoding R69,
03_bundles_and_encoding R70, 03_bundles_and_encoding R71, 03_bundles_and_encoding R73, 04_scalar_control R100, 04_scalar_control
R109, 06_vector R139, 07_matrix R182, 22_program_firmware_update R397). At the start of a bundle the due writes of its sequencer
land and leave; the others stay. A byte of register space that the sequencer owns then holds the byte of the last due write that
reaches and enables it, but for the half bytes that a write of 4-bit lanes keeps (log 61), else what it held. A predicate from
p1 to p15 holds each due write's bits under its mask in turn, the mask being the write's upper word (logs 15, 61); p0 reads as
all ones before and after. st, the views, the index bases, the m registers, the scale registers and the scale table hold the
last value due, the loop-index stack what the due pushes, counts and pops make of it, and a write of w3 empties the ring. Of the
system registers fctl, est, rmc, rmv, rbk, dinj, dfir, the watchpoints' addresses and controls, fhsa and frbp keep the bits that
they have of the last value due; a write of fsw, or of fchk while no check is wanted or runs, is there for the step that serves
it; fstat keeps its bits of the last value due with the flags of all due writes ORed in. A store-data entry that is still held
has the data and enables of the last write due for it, and one that leaves has its data and all its elements their places. When
a bundle has issued, every write that stays is one bundle nearer, and one bundle and one cycle more are counted. -/
def Obligations.PendingWritesLand : Prop :=
  ∀ (d : Dev) (q : Nat),
    let x := d.seq q
    let due := x.pend.filter fun w => decide (w.rdly = 0)
    let e := landDue q d
    let y := e.seq q
    (x.space.wf = true → ∀ k < x.owned, y.byteAt k = landedByte due k (x.byteAt k))
    ∧ y.pend = x.pend.filter (fun w => decide (w.rdly ≠ 0))
    ∧ (∀ n, 1 ≤ n → n < 16 → y.pred n = landedPred due n (x.pred n))
    ∧ y.pred 0 = BitVec.allOnes 64
    ∧ y.regs.stage = landed .stage (·.setWidth 16) due x.regs.stage
    ∧ (∀ n < 4, vget y.regs.views n 0 = landed (.view n) (·.setWidth 64) due (vget x.regs.views n 0))
    ∧ ((∃ w ∈ due, w.tgt = .view 3) →
        y.mx.head = 0 ∧ y.mx.tail = 0 ∧ y.mx.np = 0 ∧ y.mx.tags = List.replicate (viewCount (vget y.regs.views 3 0)) 0)
    ∧ ((∀ w ∈ due, w.tgt ≠ .view 3) → y.mx.head = x.mx.head ∧ y.mx.tail = x.mx.tail ∧ y.mx.np = x.mx.np ∧ y.mx.tags = x.mx.tags)
    ∧ (∀ n < 8, vget y.regs.bases n 0 = landed (.base n) (·.setWidth 16) due (vget x.regs.bases n 0)
        ∧ vget y.regs.mregs n 0 = landed (.mreg n) (·.setWidth 64) due (vget x.regs.mregs n 0)
        ∧ (vget y.regs.scaleK n 0).setWidth 256 = landed (.scaleS n) id due ((vget x.regs.scaleK n 0).setWidth 256)
        ∧ (vget y.regs.scaleK n 0).extractLsb' 256 256 = landed (.scaleH n) id due ((vget x.regs.scaleK n 0).extractLsb' 256 256))
    ∧ y.regs.scaleTab = landed .scaleTab id due x.regs.scaleTab
    ∧ y.regs.loops = landedLoops due x.regs.loops
    ∧ y.regs.rmc = landedSys 0x0C (BitVec.allOnes 64) due x.regs.rmc ∧ y.regs.rmv = landedSys 0x0D 0x00FFFFFFFFFFC001 due x.regs.rmv
    ∧ y.regs.fctl = landedSys 0x10 0x07 due x.regs.fctl ∧ y.regs.est = landedSys 0x12 0xFF due x.regs.est
    ∧ y.regs.fstat = landedSys 0x11 0x3F due x.regs.fstat ||| (flagsOr (due.map (·.flags))).setWidth 64
    ∧ y.regs.rbk = landedSys 0x17 (BitVec.allOnes 64) due x.regs.rbk
    ∧ y.regs.dinj = landedSys 0x40 0xFFFF00FF0000001F due x.regs.dinj ∧ y.regs.dfir = landedSys 0x41 (BitVec.allOnes 64) due x.regs.dfir
    ∧ (∀ j < 4, vget y.regs.wpa j 0 = landedSys (0x48 + j) 0x00FFFFFFFFFFFFE0 due (vget x.regs.wpa j 0)
        ∧ vget y.regs.wpc j 0 = landedSys (0x4C + j) 0x3FF due (vget x.regs.wpc j 0))
    ∧ e.fw.fhsa = landedSys 0x61 (BitVec.allOnes 64) due d.fw.fhsa ∧ e.fw.frbp = landedSys 0x62 (BitVec.allOnes 64) due d.fw.frbp
    ∧ e.fw.pendFsw = landed (.sysreg 0x63) (fun v => some (q, v.setWidth 64)) due d.fw.pendFsw
    ∧ (d.fw.checking = none → d.fw.pendChk = none → ∀ w, due.find? (fun w => decide (w.tgt = .sysreg 0x65)) = some w →
        e.fw.pendChk = some (q, (w.data.setWidth 64).toNat, x.opCtr, x.cols.toList.map (·.sdAsg)))
    ∧ (∀ c, ∀ f ∈ (y.col c).sdq ++ (y.col c).held, ∃ g ∈ (x.col c).sdq ++ (x.col c).held, g.idx = f.idx
        ∧ f.data = due.foldl (fun v w => if w.tgt = .storeData c f.idx then some (w.data, w.en) else v) g.data)
    ∧ (∀ c, ∀ g ∈ (x.col c).sdq ++ (x.col c).held, (∀ f ∈ (y.col c).sdq ++ (y.col c).held, f.idx ≠ g.idx) →
        (g.data.isSome = true ∨ ∃ w ∈ due, w.tgt = .storeData c g.idx) ∧ g.idx < (x.col c).sdUsed)
    ∧ (issued y).pend = y.pend.map (fun w => { w with rdly := w.rdly - 1 })
    ∧ (issued y).regs.bun = y.regs.bun + 1 ∧ (issued y).regs.cyc = y.regs.cyc + 1

/-- Taking a trap stops the sequencer and writes its record; a replay goes on as the trap found it (03_bundles_and_encoding R84,
04_scalar_control R95, 21_translation_and_faults R385, 21_translation_and_faults R386). A bundle with a word of major 0x2F
behind words that pass their checks, and a safe or hopt that finds the sequencer busy, end their bundle in a precise trap with
the slot (and the word, for the first): the device is the one before the bundle, whose due writes have not landed, with the trap
taken (log 21). Taking a trap leaves every register and pending write of the sequencer, changes no other sequencer, and writes
the record of R385 at 10240 bytes for each column of the save area: cause, slot (log 24), flags, SQID, PC, number of pending
writes, content items in the model's order, and the writes themselves, whose targets have the numbers of log 15; no byte outside
the record changes. A replay of that record brings the sequencer back with its pc and its pending writes, running and without a
trap. -/
def Obligations.TrapEntryAndReturn : Prop :=
  (∀ (s : State) (q i w : Nat) (h : Half) (l r : List (Nat × Nat)), w < 2 ^ 32 → w / 2 ^ 26 = 0x2F → readyToIssue s q h l ((i, w) :: r) →
    let d := broughtOn q s.dev
    let info : TrapInfo := { cause := 0x01, slot := i, cont := [w] }
    exec .bundleIssue s = .next { s with issue := none, base := {}, dev := takeTrap ((d.setSeq q (d.seq q)).modSeq q stepCycle) q info })
  ∧ (∀ (s : State) (iss : Issue) (k : BitVec 7) (t : TrapInfo), s.issue = some iss →
    safeGate (landDue iss.q s.base) iss.q (slotNo (slotOf s iss)) = .error (.trap t) →
    let e := takeTrap (s.base.modSeq iss.q stepCycle) iss.q t
    exec (.safe k) s = .next { s with dev := e, base := {}, issue := none } ∧ exec (.hopt k) s = .next { s with dev := e, base := {}, issue := none })
  ∧ (∀ (d : Dev) (q : Nat) (t : TrapInfo), d.placed = [] → d.splits = [] → d.mem.wf = true → d.mmu.watches = [] → (d.seq q).place.control = false → (d.seq q).owner = false →
    t.cont.length ≤ 8 → (d.seq q).pend.length ≤ 192 →
    let x := d.seq q
    let e := takeTrap d q t
    let a := (d.tenant x.place.ten).svpa + 10240 * q
    (e.seq q).run = .trapped ∧ (e.seq q).trap = some { t with act := actionEntry d x.place.ten t.cause } ∧ (e.seq q).regs = x.regs ∧ (e.seq q).space = x.space ∧ (e.seq q).pend = x.pend
    ∧ (e.seq q).pc = x.pc ∧ (e.seq q).cols = x.cols ∧ (e.seq q).ord = x.ord ∧ (∀ k, k ≠ q → e.seq k = d.seq k)
    ∧ e.mem.num a 2 = t.cause % 2 ^ 16 ∧ e.mem.num (a + 2) 1 = t.slot % 2 ^ 8 ∧ e.mem.num (a + 3) 1 = t.fl false false % 2 ^ 8
    ∧ e.mem.num (a + 4) 4 = q % 2 ^ 32 ∧ e.mem.num (a + 8) 8 = x.pc.ptr % 2 ^ 64 ∧ e.mem.num (a + 18) 2 = x.pend.length
    ∧ (∀ k < 8, e.mem.num (a + 48 + 8 * k) 8 = t.cont.getD k 0 % 2 ^ 64)
    ∧ (∀ k w, x.pend[k]? = some w → e.mem.read (a + 512 + 48 * k) 48 = w.bytes)
    ∧ (∀ b, b < a ∨ a + 512 + 48 * x.pend.length ≤ b → e.mem.get b = d.mem.get b)
    ∧ (x.pc.seg % 64 = 0 → x.pc.seg < 2 ^ 56 → x.pc.idx < 128 → x.bead.wave = none →
      (∀ w ∈ x.pend, w.rdly ≤ 19 ∧ Tgt.ofCode (e.seq q) w.tgt.code.1 (w.tgt.code.2 % 2 ^ 32) = some w.tgt) →
      ∃ f, replaySeq e q = some f ∧ f.seq q = { e.seq q with run := .running, trap := none, falloff := t.falloff } ∧ f.mem = e.mem))

/-- A scalar, predicate or vector instruction changes no memory, no register and no other agent at its issue
(03_bundles_and_encoding R68, 03_bundles_and_encoding R69, 03_bundles_and_encoding R70, 03_bundles_and_encoding R71,
04_scalar_control R101, 06_vector R138). When an instruction of the scalar arithmetic, compare, predicate and vector groups
(every one of majors 0x04 to 0x09 and 0x18 to 0x2E, with mvi and mvtc) leaves its bundle in progress, the next slot is next, and
nothing has changed but the queues that its operands pop and reserve and the pending writes of its sequencer: every register,
flag, special register, accumulator, region, order and byte of register space is as before, and so are device memory, every
other sequencer, unit, launch, tenant and the rest of the device. Its result reaches its destination only when its pending write
lands. -/
def Obligations.RegisterOnlyFrame : Prop :=
  ∀ (i : Instr) (s t : State) (iss : Issue), registerOnly i → s.issue = some iss → exec i s = .next t → t.issue ≠ none →
    t.issue = some { iss with rest := iss.rest.drop 1 } ∧ t.base = s.base ∧ t.turn = s.turn ∧ t.agenda = s.agenda
    ∧ { t.dev with seqs := s.dev.seqs } = s.dev
    ∧ (∀ a, t.dev.mem.get a = s.dev.mem.get a)
    ∧ (∀ k, k ≠ iss.q → t.dev.seq k = s.dev.seq k)
    ∧ (let x := s.dev.seq iss.q
       let y := t.dev.seq iss.q
       { y with cols := x.cols, pend := x.pend } = x ∧ ∃ l, y.pend = x.pend ++ l)

/-- What a store element, an atomic and a write leave in memory, and that every other byte reads as before (05_memory_access R127,
10_regions_and_checks R243, 11_ordering_near R249, 11_ordering_near R250). With nothing outstanding before it, no divided atomic
and no byte of a forked agent among its own, at an address that is not the host's (a page in host bias that is mapped to no
stash), a store element whose data stand writes exactly its enabled bytes at its location, an element whose data have not landed
leaves memory and makes its bytes unknown until they do, an atomic writes its new value over the old in one place, and a write
of bytes writes them and sets or clears their poison; every other byte reads as before. For a store stream with one element left
this holds of the step that performs it. -/
def Obligations.MemoryAccessEffects : Prop :=
  (∀ (d : Dev) (q loc : Nat) (t : Strm), d.placed = [] → d.splits = [] → d.mem.wf = true → goesFar d q (t.addr t.next) loc = false →
    let e := storeAt q t loc d
    let i := t.ent0 + t.next / t.per
    let off := t.next % t.per * t.esz
    (∀ (v : BitVec 256) (en : BitVec 32), entryData (d.seq q) t.col i = some (v, en) →
      e.placed = [] ∧ ∀ a, e.mem.get a = if loc ≤ a ∧ a < loc + t.esz ∧ en.getLsbD (off + (a - loc)) = true
        then v.extractLsb' (8 * (off + (a - loc))) 8 else d.mem.get a)
    ∧ (entryData (d.seq q) t.col i = none → e.mem = d.mem ∧ ∀ k a, byteIn k e.mem a e.placed.reverse = if loc ≤ a ∧ a < loc + t.esz then none else some (d.mem.get a)))
  ∧ (∀ (d : Dev) (own col ent va op loc n y y2 : Nat) (ret : Bool), d.placed = [] → d.splits = [] → d.mem.wf = true →
    (∀ a, loc ≤ a → a < loc + n → unjoined d [] a = []) → y < 2 ^ (8 * n) → y2 < 2 ^ (8 * n) → n ≤ 8 →
    let e := place d (.rmw own col ent va ret op loc n y y2)
    e.placed = [] ∧ e.mem.num loc n = atomNew op n (d.mem.num loc n) y y2 ∧ ∀ a, a < loc ∨ loc + n ≤ a → e.mem.get a = d.mem.get a)
  ∧ (∀ (d : Dev) (own loc : Nat) (l : Bytes) (psn : Bool), d.placed = [] → d.splits = [] → d.mem.wf = true →
    let e := placeBytes d own loc l psn
    e.placed = [] ∧ (∀ a, e.mem.get a = if loc ≤ a ∧ a < loc + l.length then l.getD (a - loc) 0 else d.mem.get a)
    ∧ ∀ a, a ∈ e.poison ↔ if loc ≤ a ∧ a < loc + l.length then psn = true else a ∈ d.poison)
  ∧ (∀ (s : State) (q loc : Nat) (r : Bool) (o : OrdOp) (t : Strm) (v : BitVec 256) (en : BitVec 32), s.turn = .agent q 0 →
    (s.dev.seq q).ord = [o] → o.op = .stream t → t.kind = .st → o.waits = false → t.cnt ≤ t.next + 1 → s.dev.placed = [] → s.dev.splits = [] → s.dev.mem.wf = true → (s.dev.seq q).side = [] →
    goesFar s.dev q (t.addr t.next) loc = false → headForbidden s.dev q = false → accessWay s.dev q (t.addr t.next) = .here loc r true →
    entryData (s.dev.seq q) t.col (t.ent0 + t.next / t.per) = some (v, en) →
    let off := t.next % t.per * t.esz
    ∃ u, exec .storeElementPerform s = .next u ∧ (u.dev.seq q).ord = []
      ∧ ∀ a, u.dev.mem.get a = if loc ≤ a ∧ a < loc + t.esz ∧ en.getLsbD (off + (a - loc)) = true
        then v.extractLsb' (8 * (off + (a - loc))) 8 else s.dev.mem.get a)

/-- nop, halt, bkpt, trap, safe and hopt: what each leaves to its bundle's end (04_scalar_control R92, 04_scalar_control R93,
04_scalar_control R94, 04_scalar_control R95). A nop with field n makes its bundle issue as n + 1 bundles. A halt at region
depth 0 ends the sequencer at its bundle's end. An enabled bkpt or trap leaves a trap with its code to be taken after the
bundle, unless a lower slot has left one; a squashed one leaves nothing. safe k and hopt k mark the bundle when the gate of R25
lets it pass. Nothing else changes, and each completes. -/
def Obligations.ControlWordResults : Prop :=
  ∀ (s : State) (iss : Issue), s.issue = some iss →
    let x := slotOf s iss
    (∀ n : BitVec 14, exec (.nop n) s = .next (afterSlot s (withIss x fun i => { i with nop := n.toNat + 1 })))
    ∧ ((seqOf x).region.levels = [] → exec .halt s = .next (afterSlot s (withIss x fun i => { i with halt := true })))
    ∧ (∀ (c : BitVec 14) (m : Bool), exec (.bkpt c m) s = .next (afterSlot s (if enabled x m then
        withIss x fun i => { i with after := i.after.or (some { cause := 0x10, slot := slotNo x, cont := [c.toNat] }) } else x)))
    ∧ (∀ (c : BitVec 14) (m : Bool), exec (.trap c m) s = .next (afterSlot s (if enabled x m then
        withIss x fun i => { i with after := i.after.or (some { cause := 0x11, slot := slotNo x, cont := [c.toNat] }) } else x)))
    ∧ (∀ k : BitVec 7, safeGate (landDue iss.q s.base) iss.q (slotNo x) = .ok () →
        exec (.safe k) s = .next (afterSlot s (withIss x fun i => { i with safe := some (false, k.toNat) }))
        ∧ exec (.hopt k) s = .next (afterSlot s (withIss x fun i => { i with safe := some (true, k.toNat) })))

/-- nop n issues as n bundles, each of which lands what is due, counts as issued and does nothing else; requests wait (outside
single-step) (R92). A nop n with n > 1, in any slot as the only word of its bundle, issues that bundle and leaves n - 1 bundles
to issue, its PC on them until the last has issued. Each further bundle lands the writes that are due, brings the others one
bundle nearer, counts a cycle and a bundle, and leaves one bundle less; the last ends as a bundle without words does, and goes
on to the next bundle of its segment where there is one. Nothing else changes, the sequencer's requests included: they wait for
the next safe point. A nop 1 leaves its bundle as it is, whatever words stand beside it. A debugger's single step of such a
bundle is StreamAndControlResults'. -/
def Obligations.NopIssuesItsBundles : Prop :=
  (∀ (s : State) (iss : Issue) (j w : Nat) (n : BitVec 14), s.issue = some iss → iss.rest = [(j, w)] → iss.after = none → iss.halt = false →
    iss.watch = none → iss.safe = none → iss.block = [] → (s.dev.seq iss.q).stepMode = false → 0 < n.toNat →
    exec (.nop n) s = .next { s with issue := none, base := {}, dev := s.dev.modSeq iss.q (nopIssued n.toNat) })
  ∧ (∀ (s : State) (iss : Issue), s.issue = some iss → iss.nop = 1 → exec (.nop 0) s = .next (afterSlot s (slotOf s iss)))
  ∧ (∀ (s : State) (q k : Nat), nopReady s q false → (s.dev.seq q).nopLeft = k + 1 →
    (0 < k → issueBundle q s = { s with base := {}, dev := (landDue q s.dev).modSeq q (nopIssued k) })
    ∧ (k = 0 → issueBundle q s = finish { s with base := s.dev, dev := landDue q s.dev } { q := q, rest := [], pc := ((landDue q s.dev).seq q).pc }
      ∧ ∀ h : Half, (s.dev.seq q).half = some h → h.seg = (s.dev.seq q).pc.seg → (s.dev.seq q).pc.idx + 1 < h.bundles.length →
        issueBundle q s = { s with base := {}, dev := (landDue q s.dev).modSeq q fun x => { nopIssued 0 x with pc := { x.pc with idx := x.pc.idx + 1 } } }))

/-- Branches, jumps, calls, returns and the jump table: which bundle is next (04_scalar_control R96, 04_scalar_control R97,
04_scalar_control R98). br.t and br.f test lane L of the predicate, br.any and br.none whether it is not zero, br.all and
br.nall whether it is all ones, on all 64 bits as read at issue; p0 reads as all ones. A taken branch makes bundle T of the
current segment the next one. Nothing else changes, and the branch completes. With a code pointer that R77 and R98 accept, an
enabled jmp, ret or call makes the pointed bundle the next one; call also leaves the return pointer, the bundle that follows or
bundle 0 of NEXT, to land at +1. jtab leaves entry n of the segment's jump-target table, which is read as memory holds it, and
as the segment's expansion found it where its place is not known (log 72). A squashed one leaves the squashed form of its
result. Queue operands pop and push (the operand's own read and target are those of R67 and R68). -/
def Obligations.BranchAndJumpResults : Prop :=
  (∀ (s : State) (iss : Issue) (p : BitVec 4) (l : BitVec 6) (t : BitVec 7), s.issue = some iss →
      let x := slotOf s iss
      let v : Word := if p = 0 then BitVec.allOnes 64 else vget (seqOf x).regs.preds p.toNat 0
      let go (c : Bool) := afterSlot s (if c then withIss x fun i => { i with next := some { i.pc with idx := t.toNat } } else x)
      exec (.brT p l t) s = .next (go (v.getLsbD l.toNat))
      ∧ exec (.brF p l t) s = .next (go (!v.getLsbD l.toNat))
      ∧ exec (.brAny p t) s = .next (go (decide (v ≠ 0)))
      ∧ exec (.brNone p t) s = .next (go (decide (v = 0)))
      ∧ exec (.brAll p t) s = .next (go (decide (v = BitVec.allOnes 64)))
      ∧ exec (.brNall p t) s = .next (go (decide (v ≠ BitVec.allOnes 64))))
  ∧ (∀ (s : State) (iss : Issue), s.issue = some iss →
      (∀ (a : Opnd) (m : Bool) (v : Word) (x z : Slot), Op.rdS a (slotOf s iss) = .ok (v, x) →
        (enabled x m = true → jumpOk x z v.toNat → exec (.jmp a m) s = .next (afterSlot s (jumped z v.toNat)) ∧ exec (.ret a m) s = .next (afterSlot s (jumped z v.toNat)))
        ∧ (enabled x m = false → exec (.jmp a m) s = .next (afterSlot s x) ∧ exec (.ret a m) s = .next (afterSlot s x)))
      ∧ (∀ (d a : Opnd) (m : Bool) (v : Word) (x y z : Slot) (t : Tgt), Op.rdS a (slotOf s iss) = .ok (v, x) → Op.target 0 d x = .ok (t, y) →
        (enabled x m = true → jumpOk (withWrites y (scalarWrite t 1 (returnPtr x) true)) z v.toNat →
          exec (.call d a m) s = .next (afterSlot s (jumped z v.toNat)))
        ∧ (enabled x m = false → exec (.call d a m) s = .next (afterSlot s (withWrites y (scalarWrite t 1 (returnPtr x) false)))))
      ∧ (∀ (d : Opnd) (n : BitVec 14) (m : Bool) (t : Tgt) (y z : Slot) (l : List Nat) (v : Nat), Op.target 0 d (slotOf s iss) = .ok (t, y) →
        (enabled (slotOf s iss) m = true → Op.jumpTable y = .ok (l, z) → l[n.toNat]? = some v →
          exec (.jtab d n m) s = .next (afterSlot s (withWrites z (scalarWrite t 1 (BitVec.ofNat 64 v) true))))
        ∧ (enabled (slotOf s iss) m = false → exec (.jtab d n m) s = .next (afterSlot s (withWrites y (scalarWrite t 1 0 false))))))

/-- loop, loopi, endl, lpop, mvi and mvtc act on the loop-index stack and st as R100 says (04_scalar_control R99, 04_scalar_control
R100). A loop or loopi of n > 0 passes and room on the stack leaves a push of (index 0, remaining n + NSTG, first own index + 1)
at +1, and st := 1 when NSTG > 0; with n = 0 the bundle after T is next and nothing is pushed. endl counts the top entry down:
while passes remain, the index rises and the body's first bundle is next, with the next st when NSTG > 0; at the last it pops,
and st := 0 when NSTG > 0. lpop pops. mvi and mvtc leave index and remaining of entry N, 0 for an inactive one. Each completes. -/
def Obligations.LoopResults : Prop :=
  ∀ (s : State) (iss : Issue), s.issue = some iss →
    (∀ (a : Opnd) (g : BitVec 4) (t : BitVec 7) (v : Word) (x : Slot), Op.rdS a (slotOf s iss) = .ok (v, x) →
      loopReady x v.toNat g.toNat → exec (.loop a g t) s = .next (afterSlot s (loopBegun x v.toNat g.toNat t.toNat)))
    ∧ (∀ (c : BitVec 11) (g : BitVec 4) (t : BitVec 7), loopReady (slotOf s iss) c.toNat g.toNat →
      exec (.loopi c g t) s = .next (afterSlot s (loopBegun (slotOf s iss) c.toNat g.toNat t.toNat)))
    ∧ (∀ (g : BitVec 4) (e : LoopEnt) (l : List LoopEnt), (seqOf (slotOf s iss)).regs.loops = e :: l →
      exec (.endl g) s = .next (afterSlot s (loopEnded (slotOf s iss) e g.toNat))
      ∧ exec .lpop s = .next (afterSlot s (withWrites (slotOf s iss) [{ tgt := .loopPop, rdly := 1 }])))
    ∧ (∀ (d : Opnd) (n : BitVec 3) (t : Tgt) (y : Slot), Op.target 0 d (slotOf s iss) = .ok (t, y) →
      let e := ((seqOf (slotOf s iss)).regs.loops[n.toNat]?).getD {}
      exec (.mvi d n) s = .next (afterSlot s (withWrites y (scalarWrite t 1 (e.index.setWidth 64) true)))
      ∧ exec (.mvtc d n) s = .next (afterSlot s (withWrites y (scalarWrite t 1 (e.remaining.setWidth 64) true))))

/-- Compares and predicate logic: the value that lands in the predicate one bundle later (04_scalar_control R101, 04_scalar_control
R102, 04_scalar_control R103). ceq, cne, clt, cle (as s64), cltu, cleu (as u64) and ctst leave all ones in the predicate when
the condition on the two scalars holds, and zero otherwise; a squashed compare leaves nothing. Operands are read as R67, R68 and
R138 say, queue operands included. pand, por, pxor, pandn and pnot leave the bitwise result on the predicate, pfirst the lanes
below min(sA, 64), pst all ones or zero by bit k of st as the bundle's loop instruction writes it, pfs the scalar; spf and str
leave a predicate or st in a scalar, stw bits 15:0 of a scalar in st. A squashed one leaves nothing (a squashed push, an entry
with no byte enabled). p0 reads as all ones. -/
def Obligations.CompareAndPredicateResults : Prop :=
  (∀ e ∈ scalarCompares, ∀ (d : BitVec 4) (a b : Opnd) (m : Bool) (s : State) (iss : Issue) (va vb : Word) (x y : Slot),
      s.issue = some iss → Op.rdS a (slotOf s iss) = .ok (va, x) → Op.rdS b x = .ok (vb, y) →
      exec (e.1 d a b m) s = .next (afterSlot s (withWrites y (predWrites d (allOnesIf (e.2 va vb)) (enabled y m)))))
  ∧ (∀ (s : State) (iss : Issue) (d : BitVec 4) (m : Bool), s.issue = some iss →
      let v := slotOf s iss
      let pr (p : BitVec 4) : Word := if p = 0 then BitVec.allOnes 64 else vget (seqOf v).regs.preds p.toNat 0
      (∀ e ∈ predLogic, ∀ a b : BitVec 4, exec (e.1 d a b m) s = .next (afterSlot s (withWrites v (predWrites d (e.2 (pr a) (pr b)) (enabled v m)))))
      ∧ (∀ (k : BitVec 4), exec (.pst d k m) s = .next (afterSlot s (withWrites v
          (predWrites d (allOnesIf ((iss.loopSt.getD (seqOf v).regs.stage).getLsbD k.toNat)) (enabled v m)))))
      ∧ (∀ (a : Opnd) (w : Word) (x : Slot), Op.rdS a v = .ok (w, x) →
          exec (.pfirst d a m) s = .next (afterSlot s (withWrites x (predWrites d (BitVec.ofNat 64 (2 ^ (if w.toNat < 64 then w.toNat else 64) - 1)) (enabled x m))))
          ∧ exec (.pfs d a m) s = .next (afterSlot s (withWrites x (predWrites d w (enabled x m))))
          ∧ exec (.stw a m) s = .next (afterSlot s (withWrites x (if enabled x m then [{ tgt := .stage, data := w.setWidth 256, en := 3, rdly := 1 }] else []))))
      ∧ (∀ (a : Opnd) (p : BitVec 4) (t : Tgt) (y : Slot), Op.target 0 a v = .ok (t, y) →
          exec (.spf a p m) s = .next (afterSlot s (withWrites y (scalarWrite t 1 (pr p) (enabled v m))))
          ∧ exec (.str a m) s = .next (afterSlot s (withWrites y (scalarWrite t 1 ((seqOf v).regs.stage.setWidth 64) (enabled v m))))))

/-- The scalar arithmetic, logic and shift instructions: value, latency, guard and destination (04_scalar_control R104,
04_scalar_control R105, 04_scalar_control R106, 04_scalar_control R107). Each of add, sub, mul, mulh, mulhu, and, or, xor, andn,
shl, shr, sar, min, max, minu, maxu, div, divu, rem and remu leaves its value to land in the destination at +1, +3 or +20;
division by zero and the one overflow give the values of R107. A squashed one writes no register; a squashed push lands with no
byte enabled. Operands are read, and the destination found, as R67, R68 and R138 say, queue operands included. addi, andi and
ori use the sign-extended immediate, shli, shri and sari the count; clz, popc and ctz count bits (64 for clz and ctz of 0) under
their guard; movi leaves the sign-extended immediate; lui reads its destination at issue, a queue destination by a pop (log 17),
and leaves it with bits 16h + 15 to 16h replaced. Everything else is unchanged, and each completes. -/
def Obligations.ScalarArithmeticResults : Prop :=
  (∀ e ∈ scalarBinary, ∀ (d a b : Opnd) (m : Bool) (s : State) (iss : Issue) (va vb : Word) (t : Tgt) (x y z : Slot),
      s.issue = some iss → Op.rdS a (slotOf s iss) = .ok (va, x) → Op.rdS b x = .ok (vb, y) → Op.target 0 d y = .ok (t, z) →
      exec (e.ins d a b m) s = .next (afterSlot s (withWrites z (scalarWrite t e.lat (e.val va vb) (enabled z m)))))
  ∧ (∀ (s : State) (iss : Issue), s.issue = some iss →
      (∀ (i : BitVec 10) (n : BitVec 6), ∀ e ∈ scalarUnary i n, ∀ (d a : Opnd) (m : Bool) (va : Word) (t : Tgt) (x y : Slot),
        Op.rdS a (slotOf s iss) = .ok (va, x) → Op.target 0 d x = .ok (t, y) →
        exec (e.ins d a m) s = .next (afterSlot s (withWrites y (scalarWrite t 1 (e.val va) (enabled y (m && e.guarded))))))
      ∧ (∀ (d : Opnd) (i : BitVec 18) (t : Tgt) (y : Slot), Op.target 0 d (slotOf s iss) = .ok (t, y) →
        exec (.movi d i) s = .next (afterSlot s (withWrites y (scalarWrite t 1 (i.signExtend 64) true))))
      ∧ (∀ (d : Opnd) (h : BitVec 2) (c : BitVec 16) (va : Word) (t : Tgt) (x y : Slot), Op.rdS d (slotOf s iss) = .ok (va, x) →
        Op.target 0 d x = .ok (t, y) →
        exec (.lui d h c) s = .next (afterSlot s (withWrites y (scalarWrite t 1
          ((va &&& ~~~((0xFFFF#64) <<< (16 * h.toNat))) ||| (c.setWidth 64 <<< (16 * h.toNat))) true)))))

/-- setb, setbi, setv, rdsr and wrsr: what they leave to land, when their checks pass (03_bundles_and_encoding R65,
04_scalar_control R108, 04_scalar_control R109, 07_matrix R182). setb and setbi of an owned column's base leave bits 15:0 of the
scalar, or the immediate, to land at +2; a setv that R65 accepts (w3 only while the ring is idle, R182) leaves the view at +4;
rdsr leaves the register's value in the destination at +1, for every register that R109 and its extensions assign; wrsr leaves
the value for the register at +1 when the register may be written and its own rule does not refuse the value. A squashed one
leaves nothing, even a setv or wrsr whose value would fail its check; the register number is checked all the same (log 18). Each
completes. -/
def Obligations.BaseViewAndSystemRegisterWrites : Prop :=
  ∀ (s : State) (iss : Issue) (m : Bool), s.issue = some iss →
    let v := slotOf s iss
    (∀ (k : BitVec 3) (i : BitVec 14), (enabled v m = true → (seqOf v).owns (k.toNat / 2) = true) →
      exec (.setbi k i m) s = .next (afterSlot s (withWrites v
        (if enabled v m then [{ tgt := .base k.toNat, data := i.setWidth 256, en := 3, rdly := 2 }] else []))))
    ∧ (∀ (a : Opnd) (w : Word) (x : Slot), Op.rdS a v = .ok (w, x) →
      (∀ k : BitVec 3, (enabled x m = true → (seqOf x).owns (k.toNat / 2) = true) →
        exec (.setb k a m) s = .next (afterSlot s (withWrites x
          (if enabled x m then [{ tgt := .base k.toNat, data := (w.setWidth 16).setWidth 256, en := 3, rdly := 2 }] else []))))
      ∧ (∀ k : BitVec 2, (enabled x m = true → viewCheck (seqOf x) k.toNat w = none ∧ (k = 3 → ringIdle (seqOf x) = true)) →
        exec (.setv k a m) s = .next (afterSlot s (withWrites x
          (if enabled x m then [{ tgt := .view k.toNat, data := w.setWidth 256, en := 0xFF, rdly := 4 }] else []))))
      ∧ (∀ r : BitVec 7, srAccess (seqOf v).place.control r.toNat = .readWrite ∨ srAccess (seqOf v).place.control r.toNat = .writeOnly →
        (enabled x m = true → (r.toNat = 0x40 ∨ r.toNat = 0x41 → (seqOf v).place.diag = true) ∧ srRefuses x.dev r.toNat w = false) →
        exec (.wrsr a r m) s = .next (afterSlot s (withWrites x
          (if enabled x m then [{ tgt := .sysreg r.toNat, data := w.setWidth 256, en := 0xFF, rdly := 1 }] else [])))))
    ∧ (∀ (d : Opnd) (r : BitVec 7) (t : Tgt) (y : Slot), srAccess (seqOf v).place.control r.toNat ≠ .unassigned →
      (enabled v m = true → (r.toNat = 0x40 ∨ r.toNat = 0x41 → (seqOf v).place.diag = true)
        ∧ (0x20 ≤ r.toNat ∧ r.toNat ≤ 0x27 → (seqOf v).owns ((r.toNat - 0x20) / 2) = true)) →
      Op.target 0 d v = .ok (t, y) →
      exec (.rdsr d r m) s = .next (afterSlot s (withWrites y (scalarWrite t 1 (BitVec.ofNat 64 (srRead y.dev iss.q r.toNat)) (enabled v m)))))

/-- A footprint passes exactly when every address is below 2^56, translated, not refused and permitted; else each failure has its
own end (05_memory_access R116, 21_translation_and_faults R375, 21_translation_and_faults R376, 21_translation_and_faults R379).
The check of a footprint completes and leaves the slot as it was when each address lies below 2^56, its page has been found
translated and not refused, and the context may read or write it as asked. An address beyond 2^56 is a permission trap with the
first such address; else, while some page has not been found translated, the bundle is held, and what was found for the others
stays found; else a refused page is a page-refused trap; else the first address that the context may not read or write as asked
is a permission trap with that address (and the access kind, where the record names it). The order of these outcomes is the
model's (log 65). -/
def Obligations.FootprintAnswers : Prop :=
  ∀ (x : Slot) (l : List (Nat × Nat)) (rd wr named : Bool),
    let kind := if named then [Config.accessKind (if wr then 1 else 0)] else []
    let trap (c : Nat) (cont : List Nat) : Abort := .trap { cause := c, slot := slotNo x, cont := cont }
    let r := Op.footprint l rd wr named x
    let near := ∀ e ∈ l, e.1 < 2 ^ 56
    let known := ∀ e ∈ l, pageFound x rd wr e.1 ≠ none
    let unrefused := ∀ e ∈ l, pageFound x rd wr e.1 ≠ some 1
    (footOk x l rd wr → r = .ok ((), x))
    ∧ (∀ e, l.find? (fun a => decide (2 ^ 56 ≤ a.1)) = some e → r = .error (trap 0x20 (e.1 :: kind)))
    ∧ (near → ¬ known → ∃ t : Tab Nat, r = .error (.more (x.base.modSeq x.iss.q fun s => { s with checks := t }))
        ∧ ∀ e ∈ l, pageFound x rd wr e.1 ≠ none → t.find? (slotNo x * 2 ^ 60 + e.1 / 16384) ≠ none)
    ∧ (near → known → ¬ unrefused → r = .error (trap 0x27 []))
    ∧ (∀ e, near → known → unrefused → l.find? (fun a => decide (pageFound x rd wr a.1 = some 2)) = some e → r = .error (trap 0x20 (e.1 :: kind)))

/-- The four load streams: an accepted push of elements enters the order and takes one place of the load-address queue
(05_memory_access R112, 05_memory_access R114, 05_memory_access R115, 05_memory_access R116, 05_memory_access R124,
05_memory_access R126, 22_program_firmware_update R394). ld, ld.cnt, ld.fe and ld.fec read their address and shape word as
scalars. When the checks of R112, R116, R124 and R126 accept the stream (ld.fec: outside a region; ld.cnt and the full/empty
forms: not on a control core, R394; by the stash map as the sequencer's own earlier changes leave it, log 68) and the column's
load-address queue has room, a stream of no elements leaves nothing, and any other enters the sequencer's order, its elements to
be performed later, with one place of the queue taken. The instruction completes. -/
def Obligations.LoadStreamResults : Prop :=
  ∀ e ∈ streamLoads, ∀ (z : BitVec 3) (p : BitVec 4) (a b : Opnd) (s : State) (iss : Issue) (va vb : Word) (x y : Slot),
    s.issue = some iss → Op.rdS a (slotOf s iss) = .ok (va, x) → Op.rdS b x = .ok (vb, y) →
    let t := Strm.ofShape e.2 (slotNo y / 2) (slotNo y) z.toNat p.toNat va.toNat vb.toNat
    (e.2 = .ldFec → (seqOf y).region.levels = []) → streamOk y t → ((seqOf y).col t.col).laq < 64 →
    exec (e.1 z p a b) s = .next (afterSlot s (if t.cnt = 0 then y else ordered (queueLoad y t.col) (.stream t)))

/-- The four store streams: an accepted push takes the column's next data entries and enters the order, or is deferred
(03_bundles_and_encoding R68, 05_memory_access R112, 05_memory_access R114, 05_memory_access R120, 05_memory_access R124,
05_memory_access R126, 10_regions_and_checks R238, 22_program_firmware_update R394). st, st.cf, st.ff and st.fs read their
address and shape word as scalars. When the checks of R112, R120, R124, R126 and R394 accept the stream (by the stash map as the
sequencer's own earlier changes leave it, log 68), and there is room (outside a region fewer than 64 streams of the column whose
elements have no place or whose data are outstanding; in one, at most 32 entries and a free deferral entry), a stream of no
elements leaves only what its watchpoints set; any other takes the next data entries of its column and enters the order, or the
deferral buffer of an open region. The instruction completes. -/
def Obligations.StoreStreamResults : Prop :=
  ∀ e ∈ streamStores, ∀ (z : BitVec 3) (a b : Opnd) (s : State) (iss : Issue) (va vb : Word) (x y w : Slot),
    s.issue = some iss → Op.rdS a (slotOf s iss) = .ok (va, x) → Op.rdS b x = .ok (vb, y) →
    let t := Strm.ofShape e.2 (slotNo y / 2) (slotNo y) z.toNat 0 va.toNat vb.toNat
    streamOk y t → deferOk y → ((seqOf y).region.levels = [] → storesHeld (seqOf y) t.col < 64) →
    ((seqOf y).region.levels ≠ [] → t.entries ≤ 32) → Op.watch t.foot y = .ok ((), w) →
    exec (e.1 z a b) s = .next (afterSlot s (if t.cnt = 0 then w else queueStore w t))

/-- The ten atomics: an aligned and permitted one enters the order with its operation, width and operands (05_memory_access R127,
05_memory_access R128, 10_regions_and_checks R238). Each of aswap, aadd, aand, aor, axor, amin, amax, aminu, amaxu and acas
reads its operand sD (acas also the element after it) and its address sA. When the address is a multiple of the width, the
context may read and write it, and there is room (outside a region in the load-address queue; in one, a free deferral entry and
no returned value), the atomic enters the order with its operation, its width of 4 or 8 bytes and its operands cut to the width,
or the deferral buffer. The instruction completes. -/
def Obligations.AtomicResults : Prop :=
  ∀ e ∈ atomics, ∀ (d a : Opnd) (sc : BitVec 2) (narrow noret : Bool) (s : State) (iss : Issue) (vd v2 va : Word) (x x2 y w : Slot),
    s.issue = some iss → Op.rdS d (slotOf s iss) = .ok (vd, x) → (if e.2 = 9 then Op.rdRun d 1 else pure 0) x = .ok (v2, x2) →
    Op.rdS a x2 = .ok (va, y) →
    let n := if narrow then 4 else 8
    va.toNat % n = 0 → footOk y [(va.toNat, n)] true true → deferOk y →
    ((seqOf y).region.levels = [] → ((seqOf y).col (slotNo y / 2)).laq < 64) → ((seqOf y).region.levels ≠ [] → noret = true) →
    Op.watch [(va.toNat, n)] y = .ok ((), w) →
    let r := if (seqOf y).region.levels = [] then queueLoad w (slotNo y / 2) else w
    exec (e.1 d a sc narrow noret) s = .next (afterSlot s (orderedIn r (.atom
      { op := e.2, sc := sc.toNat, col := slotNo y / 2, slot := slotNo y, addr := va.toNat, wide := !narrow, ret := !noret,
        y := vd.toNat % 2 ^ (8 * n), y2 := v2.toNat % 2 ^ (8 * n) })))

/-- Fences, waits on memory, and the routing counters (05_memory_access R129, 05_memory_access R130, 05_memory_access R131,
05_memory_access R133, 05_memory_access R134). An enabled fence enters the order; a squashed fence or mwait leaves nothing. An
enabled mwait on an aligned and readable address, once it has its place in the order, leaves all ones in its predicate when the
eight bytes read meet its condition (not equal, or at least, as u64) or a wake has seen it met, zero when a request waits, and
else its bundle is held, waiting on that location, value and condition. A cinc none of whose 32 lanes is enabled leaves nothing
and is not checked for its grant, nor is a squashed csnap (logs 73, 18). One whose launch holds the cluster's counters and whose
enabled lanes hold an index below 64 or 0xFF enters the order, or the deferral buffer, with one increment of the scalar's low 32
bits for each enabled lane that is not 0xFF, in lane order. An enabled csnap of a 256-byte aligned and writable address enters
likewise with the address and its column; a squashed one leaves nothing. Each completes. -/
def Obligations.FenceWaitAndCounterResults : Prop :=
  ((∀ (sc : BitVec 2) (m : Bool) (s : State) (iss : Issue), s.issue = some iss →
      exec (.fence sc m) s = .next (afterSlot s (if enabled (slotOf s iss) m then ordered (slotOf s iss) (.fence (decide (sc = 2))) else slotOf s iss)))
    ∧ (∀ e ∈ memoryWaits, ∀ (p : BitVec 4) (a b : Opnd) (m : Bool) (s : State) (iss : Issue) (va vb : Word) (x y : Slot),
      s.issue = some iss → Op.rdS a (slotOf s iss) = .ok (va, x) → Op.rdS b x = .ok (vb, y) →
      (enabled y m = false → exec (e.1 p a b m) s = .next (afterSlot s y))
      ∧ (∀ (z : Slot) (loc v : Nat) (d : Dev), enabled y m = true → va.toNat % 8 = 0 → footOk y [(va.toNat, 8)] true false →
        Op.atPlace y = .ok ((), z) → waitReads z va.toNat 8 loc v d →
        let r : Slot := { z with dev := touch d loc }
        (e.2.1 v vb.toNat = true ∨ (seqOf r).woke.isSome = true →
          exec (e.1 p a b m) s = .next (afterSlot s (withWrites r (predWrites p (BitVec.allOnes 64) true))))
        ∧ (e.2.1 v vb.toNat = false → (seqOf r).woke = none → (seqOf r).reqs ≠ [] →
          exec (e.1 p a b m) s = .next (afterSlot s (withWrites r (predWrites p 0 true))))
        ∧ (e.2.1 v vb.toNat = false → (seqOf r).woke = none → (seqOf r).reqs = [] →
          exec (e.1 p a b m) s = .next (endBundle s iss.q (.stall (some (loc, vb.toNat, e.2.2))))))))
  ∧ (∀ (s : State) (iss : Issue) (m : Bool), s.issue = some iss →
      (∀ (a b : Opnd) (v : BitVec 256) (w : Word) (x y : Slot), Op.rdV a (slotOf s iss) = .ok (v, x) → Op.rdS b x = .ok (w, y) →
        let lanes := (List.range 32).filter fun l => (lanesOn y m).getLsbD l
        let index (l : Nat) : Nat := v.toNat / 2 ^ (8 * l) % 256
        (lanes = [] → exec (.cinc a b m) s = .next (afterSlot s y))
        ∧ (lanes ≠ [] → countersHeld y → (∀ l ∈ lanes, index l < 64 ∨ index l = 255) → deferOk y →
          exec (.cinc a b m) s = .next (afterSlot s (orderedIn y (.cinc
            ((lanes.filter fun l => decide (index l ≠ 255)).map fun l => (index l, w.toNat % 2 ^ 32)))))))
      ∧ (∀ (a : Opnd) (v : Word) (x w : Slot), Op.rdS a (slotOf s iss) = .ok (v, x) →
        (enabled x m = false → exec (.csnap a m) s = .next (afterSlot s x))
        ∧ (enabled x m = true → countersHeld x → v.toNat % 256 = 0 → footOk x [(v.toNat, 256)] false true → deferOk x →
          Op.watch [(v.toNat, 256)] x = .ok ((), w) → exec (.csnap a m) s = .next (afterSlot s (orderedIn w (.csnap v.toNat (slotNo x / 2)))))))

/-- preq requests every page of its range that is not resident; smap and smape enter the order when R132 accepts them
(05_memory_access R131, 05_memory_access R132, 22_program_firmware_update R394). An enabled preq of at most 2^30 bytes, all of
them readable, requests each page of the range that is not resident, and changes nothing else. An enabled smap or smape outside
a region on a sequencer that is no control core (R394), whose entry R132 accepts on the stash map as the sequencer's own earlier
changes leave it (log 68), and whose range the context may read and write, enters the order with its entry, address, length and
offset. A squashed one leaves nothing. Each completes. -/
def Obligations.PageRequestAndMapResults : Prop :=
  ∀ (a b : Opnd) (m : Bool) (s : State) (iss : Issue) (va vb : Word) (x y : Slot), s.issue = some iss →
    Op.rdS a (slotOf s iss) = .ok (va, x) → Op.rdS b x = .ok (vb, y) →
    (enabled y m = false → exec (.preq a b m) s = .next (afterSlot s y)
      ∧ ∀ k, exec (.smap k a b m) s = .next (afterSlot s y) ∧ exec (.smape k a b m) s = .next (afterSlot s y))
    ∧ (enabled y m = true → vb.toNat ≤ 2 ^ 30 → footOk y (rangePages va.toNat vb.toNat) true false →
      exec (.preq a b m) s = .next (afterSlot s { y with dev := pagesRequested y (rangePages va.toNat vb.toNat) }))
    ∧ (∀ k : BitVec 3, enabled y m = true → (seqOf y).region.levels = [] → (seqOf y).place.control = false →
      let len := vb.toNat / 2 ^ 32
      let ofs := vb.toNat % 2 ^ 32
      mapOk y k.toNat va.toNat len ofs → footOk y (rangePages va.toNat len) true true →
      exec (.smap k a b m) s = .next (afterSlot s (ordered y (.map false k.toNat va.toNat len ofs)))
      ∧ exec (.smape k a b m) s = .next (afterSlot s (ordered y (.map true k.toNat va.toNat len ofs))))

/-- ldk.s, ldk.h and ldkt: 32 bytes read at their place in the order land in their scale register six bundles later
(05_memory_access R113, 05_memory_access R117, 07_matrix R161, 07_matrix R162, 11_ordering_near R252, 12_ordering_far R265). A
read of 32 bytes at its place, from memory whose bytes are known and not poisoned, that no store of the sequencer's own
supplies, that no counted line of its own has still to be filled over and that no access of its own on the way to the same host
page comes before, answers those bytes. With an address that is a multiple of 32 inside a stash mapping of the cluster (by the
stash map as the sequencer's own earlier changes leave it, log 68), and no operation before it that waits for data of its own
sequencer, ldk.s, ldk.h and ldkt leave those bytes to land at +6 in the low half or the high half of their scale register, or in
the scale table. Each completes. -/
def Obligations.ScaleLoadResults : Prop :=
  (∀ (va loc : Nat) (w : Bool) (x : Slot) (l : List (Byte × Bool)) (d : Dev), accessWay x.dev x.iss.q va = .here loc true w →
    awaitsSide (seqOf x) [(va, 32)] = false →
    Op.selfSupplied x.base x.iss.q loc 32 = none → loadBytes x.dev x.iss.q loc 32 = (some l, d) → anyBad l = false →
    (goesFar x.dev x.iss.q va loc = true → ∀ p ∈ (seqOf x).far, p.range.2.1 / 16384 ≠ loc / 16384) →
    Op.read32 va x = .ok (plain l, { x with dev := touch d loc }))
  ∧ (∀ (a : Opnd) (s : State) (iss : Issue) (va : Word) (x y z : Slot) (l : Bytes), s.issue = some iss →
    Op.rdS a (slotOf s iss) = .ok (va, x) → va.toNat % 32 = 0 → inStash (mapsAhead x) x.iss.q va.toNat 32 = true → headDry x.base x.iss.q = none →
    Op.atPlace x = .ok ((), y) → Op.read32 va.toNat y = .ok (l, z) →
    let w (t : Tgt) := afterSlot s (withWrites z [{ tgt := t, data := BitVec.ofNat 256 (leNat l), en := BitVec.allOnes 32, rdly := 6 }])
    (∀ k : BitVec 3, exec (.ldkS k a) s = .next (w (.scaleS k.toNat)) ∧ exec (.ldkH k a) s = .next (w (.scaleH k.toNat)))
    ∧ exec (.ldkt a) s = .next (w .scaleTab))

/-- rbegin opens a level with its record, rkeep keeps bytes in the undo buffer, rend closes the innermost level
(10_regions_and_checks R232, 10_regions_and_checks R233, 10_regions_and_checks R234, 10_regions_and_checks R235,
10_regions_and_checks R236, 10_regions_and_checks R238). With R233 met and fewer than four levels open, rbegin adds a level that
records the bundle, the limit, the loops, st, the ring and the store-data marks; the rbegin that starts a retry renews the
innermost level's record and keeps its count and limit. A valid rkeep in a region adds the bytes of its range, with their start,
to the undo buffer. A rend in a region gives the innermost level's operations to the level outside it; at depth 1 it drops the
units that are spent, a watchpoint hit of the region is owed at the bundle's end, and what was deferred enters the sequencer's
order in issue order, behind what it holds, with its places in the queues (an rfree enters the epilogue alone); no further
bundle issues before those operations have their places. Each completes. -/
def Obligations.RegionResults : Prop :=
  ∀ (s : State) (iss : Issue), s.issue = some iss →
    let x := slotOf s iss
    (∀ n : BitVec 4, regionReady x → iss.retry = false → (seqOf x).region.levels.length < 4 →
      exec (.rbegin n) s = .next (afterSlot s (withSeq x fun y => { y with region := { y.region with
        levels := y.region.levels ++ [levelAt x n.toNat] } })))
    ∧ (∀ (n : BitVec 4) (l : List Level) (v : Level), regionReady x → iss.retry = true → (seqOf x).region.levels = l ++ [v] →
      exec (.rbegin n) s = .next (afterSlot s (withSeq x fun y => { y with region := { y.region with
        levels := l ++ [{ levelAt x n.toNat with retries := v.retries, limit := v.limit }] } })))
    ∧ (∀ (a : Opnd) (w : Word) (y : Slot), Op.rdS a x = .ok (w, y) →
      let start := w.toNat % 2 ^ 16
      let len := w.toNat / 2 ^ 16
      (seqOf y).region.levels ≠ [] → start % 32 = 0 → len % 32 = 0 → 0 < len → len ≤ 16384 → start + len ≤ (seqOf y).owned →
      ((seqOf y).region.undo.map fun u => u.2.2.length).sum + len ≤ 16384 →
      exec (.rkeep a) s = .next (afterSlot s (withSeq y fun v => { v with region := { v.region with
        undo := v.region.undo ++ [(v.region.levels.length, start, v.spaceBytes start len)] } })))
    ∧ ((seqOf x).region.levels ≠ [] →
      let y := withSeq x (Op.lowerLevel (seqOf x).region.levels.length)
      exec .rend s = .next (afterSlot s (if (seqOf x).region.levels.length = 1 then
        withSeq (withIss { y with dev := Op.dropSpent iss.q y.dev } fun i => { i with watch := joinWatch (seqOf x).region.owedWatch i.watch }) releaseOps
        else y)))
    ∧ (∀ v : Seq, (releaseOps v).region = { rend := some (releaseOps v).opCtr }
        ∧ (releaseOps v).ord.map (·.op) = v.ord.map (·.op) ++ (v.region.deferred.map (·.op)).filter fun o => match o with | .rfree _ => false | _ => true)

/-- chk and chkv: equal operands leave nothing but the count of a skipped injection; a mismatch is a rollback event
(10_regions_and_checks R239, 10_regions_and_checks R240, 10_regions_and_checks R245). An enabled chk or chkv of equal operands
in which no injection fires leaves its sequencer as the injection register's event leaves it, and that is unchanged while the
register is not armed. A mismatch, or an injected one, ends the bundle in the event of cause chk-mismatch with both operands. A
squashed one leaves nothing. -/
def Obligations.CheckResults : Prop :=
  ∀ (s : State) (iss : Issue) (a b : Opnd) (m : Bool), s.issue = some iss →
    let good (y : Slot) := afterSlot s (withSeq y fun _ => (dinjEvent (seqOf y) [4]).2)
    let event (y : Slot) (l : List Nat) := endBundle s iss.q (.event 1
      { cause := 0x46, slot := slotNo y, cont := slotNo y :: l } (dinjEvent (seqOf y) [4]).1)
    (∀ (va vb : Word) (x y : Slot), Op.rdS a (slotOf s iss) = .ok (va, x) → Op.rdS b x = .ok (vb, y) →
      (enabled y m = false → exec (.chk a b m) s = .next (afterSlot s y))
      ∧ (enabled y m = true → va = vb → (dinjEvent (seqOf y) [4]).1 = false → exec (.chk a b m) s = .next (good y))
      ∧ (enabled y m = true → va ≠ vb ∨ (dinjEvent (seqOf y) [4]).1 = true →
        exec (.chk a b m) s = .next (event y [va.toNat, vb.toNat])))
    ∧ (∀ (va vb : BitVec 256) (x y : Slot), Op.rdV a (slotOf s iss) = .ok (va, x) → Op.rdV b x = .ok (vb, y) →
      (enabled y m = false → exec (.chkv a b m) s = .next (afterSlot s y))
      ∧ (enabled y m = true → va = vb → (dinjEvent (seqOf y) [4]).1 = false → exec (.chkv a b m) s = .next (good y))
      ∧ (enabled y m = true → va ≠ vb ∨ (dinjEvent (seqOf y) [4]).1 = true →
        exec (.chkv a b m) s = .next (event y (lanesOf 64 4 va.toNat ++ lanesOf 64 4 vb.toNat))))
    ∧ (∀ x : Seq, x.regs.dinj.getLsbD 4 = false → dinjEvent x [4] = (false, x))

/-- binit and barr enter the order on an accepted object; bwait leaves all ones once the phase differs, else waits (08_engines R192,
08_engines R193, 08_engines R194). An enabled binit or barr on a 16-byte aligned object inside a stash mapping of the launch (by
the stash map as the sequencer's own earlier changes leave it, log 68), with room to defer, enters the order with its address,
its counts and its column; binit needs a number of arrivals that is not zero. An enabled bwait, once it has its place, leaves
all ones when bit 63 of the object's second word differs from bit 0 of the scalar or a wake has seen so, zero when a request
waits, and else its bundle is held. A squashed one leaves nothing. Each completes. -/
def Obligations.BarrierResults : Prop :=
  ∀ (s : State) (iss : Issue) (a b : Opnd) (m : Bool) (p : BitVec 4) (va vb : Word) (x y : Slot), s.issue = some iss →
    Op.rdS a (slotOf s iss) = .ok (va, x) → Op.rdS b x = .ok (vb, y) →
    (enabled y m = false → exec (.binit a b m) s = .next (afterSlot s y) ∧ exec (.barr a b m) s = .next (afterSlot s y)
      ∧ exec (.bwait p a b m) s = .next (afterSlot s y))
    ∧ (enabled y m = true → barrierOk y va.toNat → deferOk y → ∀ w, Op.watch [(va.toNat, 16)] y = .ok ((), w) →
      (vb.toNat % 2 ^ 16 ≠ 0 → vb.toNat / 2 ^ 16 % 2 ^ 16 = 0 →
        exec (.binit a b m) s = .next (afterSlot s (orderedIn w (.binit va.toNat (vb.toNat / 2 ^ 32) (vb.toNat % 2 ^ 16) (slotNo w / 2)))))
      ∧ exec (.barr a b m) s = .next (afterSlot s (orderedIn w (.barr va.toNat (vb.toNat % 2 ^ 32) 0 0 (slotNo w / 2)))))
    ∧ (∀ (z : Slot) (loc v : Nat) (d : Dev), enabled y m = true → barrierOk y va.toNat → Op.atPlace y = .ok ((), z) →
      waitReads z (va.toNat + 8) 8 loc v d →
      let r : Slot := { z with dev := touch d loc }
      let met : Prop := (v / 2 ^ 63 % 2 = 1) ≠ (vb.getLsbD 0 = true)
      (met ∨ (seqOf r).woke.isSome = true →
        exec (.bwait p a b m) s = .next (afterSlot s (withWrites r (predWrites p (BitVec.allOnes 64) true))))
      ∧ (¬ met → (seqOf r).woke = none → (seqOf r).reqs ≠ [] →
        exec (.bwait p a b m) s = .next (afterSlot s (withWrites r (predWrites p 0 true))))
      ∧ (¬ met → (seqOf r).woke = none → (seqOf r).reqs = [] →
        exec (.bwait p a b m) s = .next (endBundle s iss.q (.stall (some (loc, vb.toNat, 2))))))

/-- ecopy and exform: a descriptor that R207 accepts enters its engine's queue, or the deferral buffer of a region (08_engines R195,
08_engines R197, 08_engines R198, 08_engines R203, 08_engines R204, 08_engines R207, 08_engines R209). An enabled ecopy or
exform whose descriptor area is aligned and owned, whose words and program pass the checks of R198, R203, R204 and R207, whose
barrier is one of R193 or 0, and for which there is room, enters the queue of its copy engine or the transform engine with the
descriptor, the program and the scale table as they stand, or the deferral buffer of an open region. A squashed one leaves
nothing. Each completes. -/
def Obligations.EngineCommandResults : Prop :=
  ∀ (s : State) (iss : Issue) (m : Bool), s.issue = some iss →
    (∀ (e : BitVec 1) (a b : Opnd) (va vb : Word) (x y : Slot), Op.rdS a (slotOf s iss) = .ok (va, x) → Op.rdS b x = .ok (vb, y) →
      let w := areaWords y va.toNat 16
      (enabled y m = false → exec (.ecopy e a b m) s = .next (afterSlot s y))
      ∧ (enabled y m = true → areaOk y va.toNat 16 → Op.copyFault w = none → commandOk y e.toNat vb.toNat →
        exec (.ecopy e a b m) s = .next (afterSlot s (commanded y e.toNat (commandOf y false w [] vb.toNat)))))
    ∧ (∀ (d a b : Opnd) (vd va vb : Word) (v x y : Slot), Op.rdS d (slotOf s iss) = .ok (vd, v) → Op.rdS a v = .ok (va, x) →
      Op.rdS b x = .ok (vb, y) →
      let w := areaWords y va.toNat 16
      let prog := programOf w (areaWords y vd.toNat 4)
      (enabled y m = false → exec (.exform d a b m) s = .next (afterSlot s y))
      ∧ (enabled y m = true → areaOk y va.toNat 16 → areaOk y vd.toNat 4 → Op.xformFault w = none →
        (∀ v ∈ prog, Op.xformInsOk v = true) → commandOk y 2 vb.toNat →
        exec (.exform d a b m) s = .next (afterSlot s (commanded y 2 (commandOf y true w prog vb.toNat)))))

/-- pld leaves its status at +1 and, when every check passes, its live block and cursors for the bundle's end; pcur a cursor
(18_tiers_and_parison R336, 18_tiers_and_parison R337, 18_tiers_and_parison R338). A pld of an aligned parison and destination,
outside a region, with the column's loads done and its bytes readable, reads the 256-byte header at its place in the order. A
header that fails leaves its status to land at +1 and nothing else. One that passes has its live block read; the status of that
is left, and with status 0 the block and the cursors are left for the bundle's end, and what is pending for the same bytes then,
written before, loses to them (R73). pcur leaves cursor n to land at +1. Each completes. -/
def Obligations.ParisonLoadResults : Prop :=
  ∀ (s : State) (iss : Issue) (d : Opnd) (t : Tgt), s.issue = some iss →
    (∀ (a : Opnd) (pa dest : Word) (v x y z u : Slot) (h : Bytes), Op.rdRun a 0 (slotOf s iss) = .ok (pa, v) →
      Op.rdRun a 1 v = .ok (dest, x) → pa.toNat % 64 = 0 → dest.toNat % 32 = 0 → (seqOf x).region.levels = [] →
      (let c := (x.base.seq x.iss.q).col (slotNo x / 2); c.laq = 0 ∧ c.fill = [] ∧ c.ldq = []) →
      footOk x ((List.range 8).map fun k => (pa.toNat + 32 * k, 32)) true false → Op.target 0 d x = .ok (t, y) →
      Op.atPlace y = .ok ((), z) → Op.readRun pa.toNat 8 0 z = .ok (h, u) →
      let st := headStatus false (some (dest.toNat, (seqOf u).owned)) h
      let n := headField h 44 4
      let left (w : Slot) (c : Nat) := afterSlot s (withWrites w (scalarWrite t 1 (BitVec.ofNat 64 c) true))
      (st ≠ 0 → exec (.pld d a) s = .next (left u st))
      ∧ (∀ (live : Bytes) (w : Slot), st = 0 → footOk u ((List.range (n / 32)).map fun k => (pa.toNat + 256 + 32 * k, 32)) true false →
        Op.readRun pa.toNat (n / 32) 8 u = .ok (live, w) →
        let c := liveStatus (seqOf u).place.kid.toNat h live
        exec (.pld d a) s = .next (if c = 0 then
          left (withSeq (withIss w fun i => { i with block := i.block ++ [(dest.toNat, live, headCursor h)] }) (Op.hideWrites dest.toNat live.length)) 0
          else left w c)))
    ∧ (∀ (n : BitVec 4) (y : Slot), Op.target 0 d (slotOf s iss) = .ok (t, y) →
      exec (.pcur d n) s = .next (afterSlot s (withWrites y (scalarWrite t 1 (vget (seqOf y).regs.cursor n.toNat 0) true))))

/-- The fourteen vector integer, bitwise and shift instructions: every enabled lane's result lands two bundles later (06_vector
R139, 06_vector R140, 06_vector R141, 06_vector R142, 03_bundles_and_encoding R70). vadd, vsub, vmul, vmin and vmax give lanes
of their format modulo 2^w, vadds and vsubs clamp to the format, vand, vor, vxor and vandn act on bytes, and vshl, vshr and vsar
shift by the lane's own count, all of it out at the width or more. The enabled lanes' bytes land at +2 in the destination; a
squashed lane writes nothing, and a pushed entry has its bytes disabled. Operands are read and the destination found as R67, R68
and R138 say. Each completes. -/
def Obligations.VectorIntegerResults : Prop :=
  ∀ (f : Fmt) (l : BitVec 2), ∀ e ∈ vectorIntegers f l, ∀ (d a b : Opnd) (m : Bool) (s : State) (iss : Issue) (va vb : BitVec 256)
    (x y z : Slot) (t : Tgt), s.issue = some iss → Op.rdV a (slotOf s iss) = .ok (va, x) → Op.rdV b x = .ok (vb, y) → Op.target 1 d y = .ok (t, z) →
    exec (e.ins d a b m) s = .next (afterSlot s (withWrites z (vectorWrite z t e.lat e.w (fun i => (lanesOn z m).getLsbD i)
      ((List.range (256 / e.w)).map fun i => e.val (lane e.w i va) (lane e.w i vb)))))

/-- Vector floating point: sums, products, fused operations, minima, reciprocals and signs, rounded once in fctl's mode (06_vector
R139, 06_vector R143, 06_vector R144, 02_number_formats R43). vfadd, vfsub, vfmul, vfmin and vfmax on two elements, vfma and
vfnms with the destination's lanes as they stand at issue, and vrcp, vrsqrt, vexp2, vlog2, vfabs and vfneg on one element leave
each enabled lane's result, with its flags, to land at +4 or +8, rounded in the mode and with the saturation that fctl has at
issue. Each completes. -/
def Obligations.VectorFloatResults : Prop :=
  ∀ (f : Fmt) (d a b : Opnd) (m : Bool) (s : State) (iss : Issue), s.issue = some iss →
    let v := slotOf s iss
    let rm := (seqOf v).regs.fctl.toNat % 4
    let sat := (seqOf v).regs.fctl.getLsbD 2
    (∀ e ∈ vectorFloats f rm sat, ∀ (va vb : BitVec 256) (x y z : Slot) (t : Tgt),
      Op.rdV a v = .ok (va, x) → Op.rdV b x = .ok (vb, y) → Op.target 1 d y = .ok (t, z) →
      exec (e.ins d a b m) s = .next (afterSlot s (withWrites z (vectorWrite z t e.lat e.w (fun i => (lanesOn z m).getLsbD i)
        ((List.range (256 / e.w)).map fun i => e.val (lane e.w i va) (lane e.w i vb))))))
    ∧ (∀ e ∈ vectorFused f rm sat, ∀ (vd va vb : BitVec 256) (u x y z : Slot) (t : Tgt),
      Op.rdV d v = .ok (vd, u) → Op.rdV a u = .ok (va, x) → Op.rdV b x = .ok (vb, y) → Op.target 1 d y = .ok (t, z) →
      exec (e.1 d a b m) s = .next (afterSlot s (withWrites z (vectorWrite z t 4 (laneW f) (fun i => (lanesOn z m).getLsbD i)
        ((List.range (256 / laneW f)).map fun i => e.2 (lane (laneW f) i va) (lane (laneW f) i vb) (lane (laneW f) i vd))))))
    ∧ (∀ e ∈ vectorUnary rm sat, ∀ (va : BitVec 256) (x z : Slot) (t : Tgt),
      Op.rdV a v = .ok (va, x) → Op.target 1 d x = .ok (t, z) →
      exec (e.ins d a m) s = .next (afterSlot s (withWrites z (vectorWrite z t e.lat e.w (fun i => (lanesOn z m).getLsbD i)
        ((List.range (256 / e.w)).map fun i => e.val (lane e.w i va))))))

/-- Special values of the one-lane functions: zeros, infinities, NaN and negative operands, with their flags (02_number_formats R40,
06_vector R143, 06_vector R144). On FP32 lanes, in every mode: vrcp and vrsqrt of a zero are an infinity of its sign with DZ;
vrcp of an infinity is a zero of its sign, vrsqrt of plus infinity +0; 2^a is +0 at minus infinity, plus infinity at plus
infinity and 1 at both zeros; vlog2 of a zero is minus infinity with DZ, of plus infinity plus infinity. vrsqrt and vlog2 of
minus infinity and of every finite number below zero are the canonical NaN with NV. Every NaN gives the canonical NaN in vrcp,
vrsqrt, vexp2, vlog2, vfabs, vfneg, and in vfmin and vfmax as either operand beside a number, with NV exactly when it is
signalling. Of any other number vfabs clears the sign and vfneg turns it. vfmin and vfmax order -0 below +0. -/
def Obligations.FloatSpecialValues : Prop :=
  ∀ (rm : Nat) (sat : Bool),
    laneRcp rm sat 0 = (0x7F800000, flagDZ) ∧ laneRcp rm sat 0x80000000 = (0xFF800000, flagDZ)
    ∧ laneRcp rm sat 0x7F800000 = (0, 0) ∧ laneRcp rm sat 0xFF800000 = (0x80000000, 0)
    ∧ laneRsqrt rm sat 0 = (0x7F800000, flagDZ) ∧ laneRsqrt rm sat 0x80000000 = (0xFF800000, flagDZ) ∧ laneRsqrt rm sat 0x7F800000 = (0, 0)
    ∧ laneExp2 rm sat 0xFF800000 = (0, 0) ∧ laneExp2 rm sat 0x7F800000 = (0x7F800000, 0)
    ∧ laneExp2 rm sat 0 = (0x3F800000, 0) ∧ laneExp2 rm sat 0x80000000 = (0x3F800000, 0)
    ∧ laneLog2 rm 0 = (0xFF800000, flagDZ) ∧ laneLog2 rm 0x80000000 = (0xFF800000, flagDZ) ∧ laneLog2 rm 0x7F800000 = (0x7F800000, 0)
    ∧ (∀ a, 0x80000000 < a → a ≤ 0xFF800000 → laneRsqrt rm sat a = (0x7FC00000, flagNV) ∧ laneLog2 rm a = (0x7FC00000, flagNV))
    ∧ (let nan (a : Nat) : Prop := a / 2 ^ 23 % 2 ^ 8 = 255 ∧ a % 2 ^ 23 ≠ 0
       (∀ a < 2 ^ 32, nan a →
         let r : LaneRes := (0x7FC00000, if a / 2 ^ 22 % 2 = 1 then 0 else flagNV)
         laneRcp rm sat a = r ∧ laneRsqrt rm sat a = r ∧ laneExp2 rm sat a = r ∧ laneLog2 rm a = r
         ∧ (∀ neg, floatSign (fmtOf .f32) neg a = r)
         ∧ ∀ larger, ∀ b < 2 ^ 32, ¬ nan b → floatPick (fmtOf .f32) larger a b = r ∧ floatPick (fmtOf .f32) larger b a = r)
       ∧ (∀ a < 2 ^ 32, ¬ nan a → floatSign (fmtOf .f32) false a = (a % 2 ^ 31, 0) ∧ floatSign (fmtOf .f32) true a = ((a + 2 ^ 31) % 2 ^ 32, 0)))
    ∧ floatPick (fmtOf .f32) false 0 0x80000000 = (0x80000000, 0) ∧ floatPick (fmtOf .f32) false 0x80000000 0 = (0x80000000, 0)
    ∧ floatPick (fmtOf .f32) true 0 0x80000000 = (0, 0) ∧ floatPick (fmtOf .f32) true 0x80000000 0 = (0, 0)

/-- vcvt, vzqe and vzqd: the part that is converted, each lane's value and flags, at +3 (06_vector R145, 06_vector R146, 06_vector
R147, 06_vector R148). A vcvt to lanes that are no narrower than the source's reads one part of the source and writes every
lane; one to narrower lanes writes one part of the destination and leaves the rest. vzqe encodes the eight FP32 lanes of A into
part P of the sixty-four 4-bit lanes with the block word's scale; vzqd decodes part P of A into eight FP32 lanes. Values and
flags are those of the conversion of the lane (the flags of conversions and of vzqe are the model's reading, logs 62 and 70).
The enabled lanes land at +3; the half of a byte whose 4-bit lane is not written keeps what it holds at the landing, and the
write's data show it as it is at issue (log 61). Each instruction completes. -/
def Obligations.VectorConversionResults : Prop :=
  ∀ (d a b : Opnd) (m : Bool) (s : State) (iss : Issue) (va : BitVec 256) (x : Slot), s.issue = some iss →
    let v := slotOf s iss
    let rm := (seqOf v).regs.fctl.toNat % 4
    let sat := (seqOf v).regs.fctl.getLsbD 2
    Op.rdV a v = .ok (va, x) →
    (∀ (f src : Fmt) (p : BitVec 2) (t : Tgt) (z : Slot), Op.target 1 d x = .ok (t, z) →
      let ns := 256 / laneW src
      let nd := 256 / laneW f
      (ns ≤ nd → exec (.vcvt f d a src p m) s = .next (afterSlot s (withWrites z (vectorWrite z t 3 (laneW f)
          (fun i => (lanesOn z m).getLsbD i && decide (p.toNat * ns ≤ i) && decide (i < p.toNat * ns + ns))
          ((List.range nd).map fun i => if p.toNat * ns ≤ i ∧ i < p.toNat * ns + ns then laneCvt f src rm sat (laneOf src va (i - p.toNat * ns))
            else (0, 0))))))
      ∧ (nd < ns → exec (.vcvt f d a src p m) s = .next (afterSlot s (withWrites z (vectorWrite z t 3 (laneW f)
          (fun i => (lanesOn z m).getLsbD i)
          ((List.range nd).map fun i => laneCvt f src rm sat (laneOf src va (p.toNat * nd + i))))))))
    ∧ (∀ (w : Word) (y z : Slot) (t : Tgt), Op.rdS b x = .ok (w, y) → Op.target 1 d y = .ok (t, z) →
      let p := w.toNat / 2 ^ 16 % 8
      let sh := w.toNat / 2 ^ 8 % 256
      let sb := w.toNat % 256
      let tab := (seqOf z).regs.scaleTab.toNat
      exec (.vzqe d a b m) s = .next (afterSlot s (withWrites z (vectorWrite z t 3 4
          (fun i => decide (8 * p ≤ i) && decide (i < 8 * p + 8) && (lanesOn z m).getLsbD (i - 8 * p))
          ((List.range 64).map fun i => if 8 * p ≤ i ∧ i < 8 * p + 8 then laneZqe tab sh sb rm (lane 32 (i - 8 * p) va) else (0, 0)))))
      ∧ exec (.vzqd d a b m) s = .next (afterSlot s (withWrites z (vectorWrite z t 3 32 (fun i => (lanesOn z m).getLsbD i)
          ((List.range 8).map fun i => (fmtOf .f32).arith rm sat (zqValue tab sh sb (lane 4 (8 * p + i) va)))))))

/-- Permutes, broadcasts, interleaves, selects and masks: which lane each lane of the result comes from, at +2 (06_vector R149,
06_vector R153, 06_vector R154). vperm takes lane B.i modulo the lanes of A, vilo and vihi interleave the low or high halves of
A and B, vbcast repeats the low bits of a scalar, vsel takes each lane from A where the guard's bit is set and else from B and
writes every lane, vpmask gives all ones or zero by the bits of a predicate. The enabled lanes land at +2, and each completes. -/
def Obligations.VectorPermuteResults : Prop :=
  ∀ (d : Opnd) (m : Bool) (s : State) (iss : Issue) (l : BitVec 2), s.issue = some iss →
    let v := slotOf s iss
    let w := 8 * 2 ^ l.toNat
    (∀ (a b : Opnd) (va vb : BitVec 256) (x y z : Slot) (t : Tgt), Op.rdV a v = .ok (va, x) → Op.rdV b x = .ok (vb, y) → Op.target 1 d y = .ok (t, z) →
      (∀ e ∈ vectorPermutes l, exec (e.1 d a b m) s = .next (afterSlot s (withWrites z (vectorWrite z t 2 w
        (fun i => (lanesOn z m).getLsbD i) ((List.range (256 / w)).map fun i => (e.2 va vb i, 0))))))
      ∧ (∀ f : Fmt, exec (.vsel f d a b) s = .next (afterSlot s (withWrites z (vectorWrite z t 2 (laneW f) (fun _ => true)
        ((List.range (256 / laneW f)).map fun i => (laneOf f (if (lanesOn v true).getLsbD i then va else vb) i, 0)))))))
    ∧ (∀ (a : Opnd) (c : Word) (x z : Slot) (t : Tgt), Op.rdS a v = .ok (c, x) → Op.target 1 d x = .ok (t, z) →
      exec (.vbcast l d a m) s = .next (afterSlot s (withWrites z (vectorWrite z t 2 w (fun i => (lanesOn z m).getLsbD i)
        ((List.range (256 / w)).map fun _ => (c.toNat % 2 ^ w, 0))))))
    ∧ (∀ (p : BitVec 4) (z : Slot) (t : Tgt), Op.target 1 d v = .ok (t, z) →
      exec (.vpmask l d p m) s = .next (afterSlot s (withWrites z (vectorWrite z t 2 w (fun i => (lanesOn z m).getLsbD i)
        ((List.range (256 / w)).map fun i => (if ((seqOf v).pred p.toNat).getLsbD i then 2 ^ w - 1 else 0, 0))))))

/-- vrsum, vrmax and vrmin: the tree of the enabled lanes in the result format, identity for the others, in the whole element
(06_vector R150, 06_vector R151). Each enabled lane, widened to the result format, and the identity for a squashed lane enter
the tree of R151, whose first half is combined with its second until one value is left. That value and its flags are left in the
whole destination element, at +3 for an integer format and +8 for a floating-point one. The identity is 0 for an integer sum and
-0 for a floating-point one, and for a maximum or minimum the format's least or largest value (of an integer maximum or minimum
that of the source format, log 82). Each completes. -/
def Obligations.VectorReductionResults : Prop :=
  ∀ (f : Fmt) (d a : Opnd) (m : Bool) (s : State) (iss : Issue) (va : BitVec 256) (x z : Slot) (t : Tgt), s.issue = some iss →
    Op.rdV a (slotOf s iss) = .ok (va, x) → Op.target 1 d x = .ok (t, z) →
    let rm := (seqOf (slotOf s iss)).regs.fctl.toNat % 4
    let sat := (seqOf (slotOf s iss)).regs.fctl.getLsbD 2
    let r := Op.reduceFmt f
    let enter (id : Nat) : List LaneRes := (List.range (256 / laneW f)).map fun i =>
      if (lanesOn z m).getLsbD i then (if f = r then (laneOf f va i, 0) else laneCvt r f 0 false (laneOf f va i)) else (id, 0)
    let left (lat id : Nat) (comb : Nat → Nat → LaneRes) : Out :=
      let q := Op.tree comb 7 ((enter id).map (·.1)) (flagsOr ((enter id).map (·.2)))
      .next (afterSlot s (withWrites z (elementWrite t lat q.1 q.2)))
    (∀ g, floatFmt r = some g →
      exec (.vrsum f d a m) s = left 8 (g.signed true 0) (fun p q => g.arith rm sat (Machine.Num.add (decide (rm = 2)) (g.decode p) (g.decode q)))
      ∧ exec (.vrmax f d a m) s = left 8 (g.signed true g.infBits) (floatPick g true)
      ∧ exec (.vrmin f d a m) s = left 8 (g.signed false g.infBits) (floatPick g false))
    ∧ (floatFmt r = none → ∀ lo hi, intRange f = some (lo, hi) →
      exec (.vrsum f d a m) s = left 3 0 (fun p q => (((intOf r p + intOf r q) % (2 ^ laneW r : Nat)).toNat, 0))
      ∧ exec (.vrmax f d a m) s = left 3 (lo % (2 ^ laneW r : Nat)).toNat (fun p q => ((max (intOf r p) (intOf r q) % (2 ^ laneW r : Nat)).toNat, 0))
      ∧ exec (.vrmin f d a m) s = left 3 (hi % (2 ^ laneW r : Nat)).toNat (fun p q => ((min (intOf r p) (intOf r q) % (2 ^ laneW r : Nat)).toNat, 0)))

/-- vcmp, vpmsb and vpnz: the enabled lanes' bits of the predicate, at +2; integer compares as their names say (06_vector R152,
06_vector R154). vcmp leaves in each enabled lane's bit whether the condition holds between the lanes of A and B, vpmsb the
lane's top bit, vpnz whether the lane is not zero; the predicate's other bits stay. On integer lanes the conditions 0 to 5 are
=, not =, <, not >, >, not <, on the lanes as numbers of the format. With no lane enabled nothing is written. Each completes. -/
def Obligations.VectorPredicateResults : Prop :=
  (∀ (p : BitVec 4) (m : Bool) (s : State) (iss : Issue) (a : Opnd) (va : BitVec 256) (x : Slot), s.issue = some iss →
    Op.rdV a (slotOf s iss) = .ok (va, x) →
    (∀ (f : Fmt) (c : BitVec 3) (b : Opnd) (vb : BitVec 256) (y : Slot), Op.rdV b x = .ok (vb, y) →
      exec (.vcmp f c p a b m) s = .next (afterSlot s (withWrites y (bitsWrite y p m
        ((List.range (256 / laneW f)).map fun i => Op.laneCmp f c.toNat (laneOf f va i) (laneOf f vb i))))))
    ∧ (∀ l : BitVec 2,
      let w := 8 * 2 ^ l.toNat
      exec (.vpmsb l p a m) s = .next (afterSlot s (withWrites x (bitsWrite x p m
        ((List.range (256 / w)).map fun i => (decide (2 ^ (w - 1) ≤ lane w i va), 0)))))
      ∧ exec (.vpnz l p a m) s = .next (afterSlot s (withWrites x (bitsWrite x p m
        ((List.range (256 / w)).map fun i => (decide (lane w i va ≠ 0), 0)))))))
  ∧ (∀ f : Fmt, floatFmt f = none → f ≠ .zq4 → ∀ a b : Nat,
    let x := intOf f a
    let y := intOf f b
    Op.laneCmp f 0 a b = (decide (x = y), 0) ∧ Op.laneCmp f 1 a b = (decide (x ≠ y), 0) ∧ Op.laneCmp f 2 a b = (decide (x < y), 0)
    ∧ Op.laneCmp f 3 a b = (decide (x ≤ y), 0) ∧ Op.laneCmp f 4 a b = (decide (y < x), 0) ∧ Op.laneCmp f 5 a b = (decide (y ≤ x), 0))

/-- mcall, mset and mget: a call enters the queue with the registers as they stand; m registers at +1 (07_matrix R163, 07_matrix
R164, 07_matrix R165, 10_regions_and_checks R238). An enabled mcall of a routine inside the share, with a ring of 1 to 64 tiles,
no reserved bit of m7 and room in the queue of four, enters the matrix unit's queue with m0 to m7, the scale registers and the
table as they stand at issue; in a region with a barrier it also takes an entry of the deferral buffer. mset leaves the scalar
in its m register, mget the register in its scalar, at +1. A squashed one leaves nothing, or an entry with no byte enabled. Each
completes. -/
def Obligations.MatrixCallResults : Prop :=
  ∀ (s : State) (iss : Issue) (m : Bool), s.issue = some iss →
    let x := slotOf s iss
    (∀ n : BitVec 6,
      (enabled x m = false → exec (.mcall n m) s = .next (afterSlot s x))
      ∧ (enabled x m = true → 16 * n.toNat + 15 < (seqOf x).microWords → 0 < viewCount (vget (seqOf x).regs.views 3 0) →
        viewCount (vget (seqOf x).regs.views 3 0) ≤ 64 → m7Of x < 2 ^ 56 → m7Of x % 16 = 0 → matrixRoom x → (m7Of x ≠ 0 → deferOk x) →
        let y := matrixQueued x (.call (callOf x n.toNat))
        exec (.mcall n m) s = .next (afterSlot s (if (seqOf x).region.levels ≠ [] ∧ m7Of x ≠ 0 then
          orderedIn y (.mbarr (seqOf x).opCtr (m7Of x) none) else withSeq y fun s => { s with opCtr := s.opCtr + 1 }))))
    ∧ (∀ (d : BitVec 3) (a : Opnd) (v : Word) (y : Slot), Op.rdS a x = .ok (v, y) →
      exec (.mset d a m) s = .next (afterSlot s (withWrites y
        (if enabled y m then [{ tgt := .mreg d.toNat, data := v.setWidth 256, en := 0xFF, rdly := 1 }] else []))))
    ∧ (∀ (d : Opnd) (a : BitVec 3) (t : Tgt) (y : Slot), Op.target 0 d x = .ok (t, y) →
      exec (.mget d a m) s = .next (afterSlot s (withWrites y (scalarWrite t 1 (vget (seqOf y).regs.mregs a.toNat 0) (enabled y m)))))

/-- mld and mgat: an accepted command enters the matrix unit's queue and the sequencer's order (07_matrix R164, 07_matrix R170,
07_matrix R171, 07_matrix R172). An mld of a count that is not zero, of words inside the share, from an aligned and readable
address, enters the queue of four with its words still to be read, and the order. An mgat of rows that fit the latch, whose rows
lie aligned inside a stash mapping of the cluster (by the map that earlier smaps of the sequencer will leave, log 68) and whose
index array lies in the share, enters likewise with the indices as they stand at issue. Each completes. -/
def Obligations.MatrixLoadResults : Prop :=
  ∀ (s : State) (iss : Issue), s.issue = some iss →
    (∀ (a b : Opnd) (va vb : Word) (x y : Slot), Op.rdS a (slotOf s iss) = .ok (va, x) → Op.rdS b x = .ok (vb, y) →
      let first := vb.toNat % 2 ^ 10
      let count := vb.toNat / 2 ^ 16
      vb.toNat / 2 ^ 10 % 2 ^ 6 = 0 → count < 2 ^ 11 → 0 < count → first + count ≤ (seqOf y).microWords → va.toNat % 8 = 0 →
      footOk y ((List.range count).map fun k => (va.toNat + 8 * k, 8)) true false → matrixRoom y →
      exec (.mld a b) s = .next (afterSlot s (ordered (matrixQueued y (.mld (seqOf y).opCtr va.toNat first count [])) (.mld (seqOf y).opCtr))))
    ∧ (∀ (j : BitVec 1) (a : Opnd) (base w ix : Word) (u x y : Slot), Op.rdRun a 0 (slotOf s iss) = .ok (base, u) →
      Op.rdRun a 1 u = .ok (w, x) → Op.rdRun a 2 x = .ok (ix, y) →
      let rows := w.toNat / 2 ^ 16 % 2 ^ 6 + 1
      let rb := w.toNat % 2 ^ 10
      let stride := sx 32 (w.toNat / 2 ^ 32)
      let idx := (List.range rows).map fun r => (seqOf y).spaceNum (ix.toNat + 4 * r) 4
      w.toNat / 2 ^ 22 % 2 ^ 10 = 0 → w.toNat / 2 ^ 10 % 2 ^ 6 = 0 → rb % 32 = 0 → 32 ≤ rb → rb ≤ 512 → rows * rb ≤ latchBytes (seqOf y) →
      ix.toNat < 2 ^ 16 → ix.toNat % 4 = 0 → ix.toNat + 4 * rows ≤ (seqOf y).share →
      (∀ k ∈ idx, addr64 base.toNat ((k : Int) * stride) % 32 = 0 ∧ inStash (mapsAhead y) y.iss.q (addr64 base.toNat ((k : Int) * stride)) rb = true) →
      matrixRoom y →
      exec (.mgat j a) s = .next (afterSlot s (ordered (matrixQueued y (.mgat (seqOf y).opCtr j.toNat base.toNat stride rb idx []))
        (.mgat (seqOf y).opCtr))))

/-- epi, rfree, rwait and rwait.idle: an accepted epilogue enters the order; the waits pass when their condition holds (07_matrix
R178, 07_matrix R179, 07_matrix R180, 07_matrix R181, 07_matrix R182). An enabled epi whose descriptor R179 accepts, whose rows
are aligned and writable and for which there is room enters the order, or the deferral buffer, with its destination, format,
rounding, activation and the vectors as earlier writes leave them, and takes a place of its column's store-address queue, of 64
places. An enabled rfree enters likewise. rwait n passes when at least n tiles are published, and n is at most the ring's size;
rwait.idle when the matrix unit has no command. A squashed epi or rfree leaves nothing. Each completes. -/
def Obligations.EpilogueResults : Prop :=
  ∀ (s : State) (iss : Issue) (m : Bool), s.issue = some iss →
    let x := slotOf s iss
    (∀ (a : Opnd) (dst w v c : Word) (x1 x2 x3 y z : Slot), Op.rdRun a 0 x = .ok (dst, x1) → Op.rdRun a 1 x1 = .ok (w, x2) →
      Op.rdRun a 2 x2 = .ok (v, x3) → Op.rdRun a 3 x3 = .ok (c, y) →
      let n := (tileDims (seqOf y)).2
      let ofmt := w.toNat / 2 ^ 28 % 16
      let rst := sx 32 (w.toNat / 2 ^ 32)
      let act := w.toNat / 2 ^ 23 % 4
      let sc := v.toNat / 2 ^ 16
      let bs := v.toNat % 2 ^ 16
      let foot := epiFoot y dst.toNat rst ofmt
      (enabled y m = false → exec (.epi a m) s = .next (afterSlot s y))
      ∧ (enabled y m = true → ofmt ≠ 6 → ofmt ≠ 7 → ofmt ≠ 11 → ofmt ≠ 15 → act ≠ 3 → w.toNat % 2 ^ 23 = 0 → v.toNat < 2 ^ 32 →
        (act = 2 → (f32Num (c.toNat / 2 ^ 32)).isNan = false ∧ (f32Num (c.toNat % 2 ^ 32)).isNan = false) →
        dst.toNat % max 1 (Op.outBits ofmt / 8) = 0 → rst % (max 1 (Op.outBits ofmt / 8) : Nat) = 0 →
        (sc ≠ 0xFFFF → sc * 32 + 4 * n ≤ (seqOf y).share) → (bs ≠ 0xFFFF → bs * 32 + 4 * n ≤ (seqOf y).share) →
        footOk y foot false true → deferOk y → ((seqOf y).region.levels = [] → storesHeld (seqOf y) (slotNo y / 2) < 64) →
        Op.watch foot (epiQueued y (slotNo y / 2)) = .ok ((), z) →
        exec (.epi a m) s = .next (afterSlot s (orderedIn z (.epi
          { id := (seqOf y).opCtr, dst := dst.toNat, rst := rst, ofmt := ofmt, rm := w.toNat / 2 ^ 26 % 4, sat := w.getLsbD 25, act := act,
            scv := epiValues y sc n, bsv := epiValues y bs n, hasScale := decide (sc ≠ 0xFFFF), hasBias := decide (bs ≠ 0xFFFF),
            lo := c.toNat % 2 ^ 32, hi := c.toNat / 2 ^ 32, col := slotNo y / 2 } 0)))))
    ∧ (deferOk x → exec (.rfree m) s = .next (afterSlot s (if enabled x m then orderedIn x (.rfree (seqOf x).opCtr) else x)))
    ∧ (∀ n : BitVec 6,
      let k := if n = 0 then 64 else n.toNat
      k ≤ viewCount (vget (seqOf x).regs.views 3 0) → k ≤ (seqOf x).mx.np → exec (.rwait n) s = .next (afterSlot s x))
    ∧ ((seqOf x).mx.running = none → (seqOf x).mx.queue = [] → exec .rwaitIdle s = .next (afterSlot s x))

/-- bload, bmode, btwin, blnch and brst: the array's cells, modes and waves, with the array idle (09_bead_array R215, 09_bead_array
R217, 09_bead_array R218, 09_bead_array R219, 09_bead_array R220, 09_bead_array R221, 09_bead_array R225, 10_regions_and_checks
R245). With the bead array idle, bload of a row that the share holds writes the row's cells from consecutive elements of w1,
where 63 is no cell, and makes its parity consistent; bmode and btwin (1 to 1023) set their fields; blnch, in which no injection
fires, starts a wave on its inputs in the mode and window that stand, poisoned when a row's parity is not consistent. brst makes
the array idle and discards its wave in every state. Everything else is unchanged, and each completes. -/
def Obligations.BeadSetupResults : Prop :=
  ∀ (s : State) (iss : Issue), s.issue = some iss →
    let v := slotOf s iss
    let set (x : Slot) (f : Bead → Bead) : Out := .next (afterSlot s (withSeq x fun y => { y with bead := f y.bead }))
    ((seqOf v).bead.st = .idle →
      (∀ n : BitVec 1, exec (.bmode n) s = set v fun b => { b with mode := n.toNat })
      ∧ (∀ i : BitVec 14, 1 ≤ i.toNat → i.toNat ≤ 1023 → exec (.btwin i) s = set v fun b => { b with twin := i.toNat })
      ∧ (∀ n : Fin 60, (dinjEvent (seqOf v) [1]).1 = false →
        let u := withSeq v fun _ => (dinjEvent (seqOf v) [1]).2
        exec (.blnch (.elem n)) s = set u fun b => waveLaunched b (beadIns (seqOf v)) (elementBytes u n.val (beadIns (seqOf v) / 16))))
    ∧ (∀ (n : Fin 60) (b : Opnd) (r : Word) (x : Slot), Op.rdS b v = .ok (r, x) → (seqOf x).bead.st = .idle → r.toNat < 128 →
      r.toNat < beadIns (seqOf x) →
      exec (.bload (.elem n) b) s = set x fun c => rowLoaded c r.toNat (elementBytes x n.val (if (seqOf x).place.mode = 2 then 2 else 4)))
    ∧ exec .brst s = set v fun b => { b with st := .idle, wave := none }

/-- bcap, brank and bstat: rod values, their ranking and the array's status, into their destinations (09_bead_array R217,
09_bead_array R222, 09_bead_array R223, 09_bead_array R224, 09_bead_array R226, 09_bead_array R227). While a wave that is not
poisoned runs or is done, bcap of a group inside the share leaves the sixteen rods' values, 1023 for a rod that has not risen,
at +2, and brank the indices of the risen rods from rank 16 G on, in the order of their values and then of their indices, with
0xFFFF past their end. bstat leaves the state, mode, window, poison, row and elapsed cycles at +1. Each completes. -/
def Obligations.BeadReadResults : Prop :=
  ∀ (s : State) (iss : Issue) (d : Opnd) (t : Tgt) (y : Slot), s.issue = some iss →
    (Op.target 1 d (slotOf s iss) = .ok (t, y) → ∀ w : Wave, (seqOf y).bead.st ≠ .idle → (seqOf y).bead.wave = some w → w.psn = false →
      (∀ g : BitVec 6, 16 * g.toNat < beadRods (seqOf y) →
        exec (.bcap d g) s = .next (afterSlot s (withWrites y (elementWrite t 2
          (packLanes 16 ((List.range 16).map fun l => rodSeen (seqOf y).bead w (16 * g.toNat + l))) 0))))
      ∧ (∀ (g : BitVec 3) (k : BitVec 4), 16 * g.toNat < beadRods (seqOf y) →
        let risen := ((List.range (beadRods (seqOf y))).map fun j => (rodSeen (seqOf y).bead w j, j)).filter fun e => decide (e.1 < 1023)
        let ranked := (risen.foldl (fun l e => rankInsert e l) []).map (·.2)
        exec (.brank d g k) s = .next (afterSlot s (withWrites y (elementWrite t 2
          (packLanes 16 ((List.range 16).map fun l => if l ≤ k.toNat then ranked.getD (16 * g.toNat + l) 0xFFFF else 0xFFFF)) 0)))))
    ∧ (Op.target 0 d (slotOf s iss) = .ok (t, y) →
      let b := (seqOf y).bead
      let status : Nat := b.twin * 2 ^ 10 + b.mode * 4 + b.st.code + (match b.wave with
        | some w => min w.elapsed 4095 * 2 ^ 32 + (if w.psn then 2 ^ 31 + w.prow * 2 ^ 24 else 0)
        | none => 0)
      exec (.bstat d) s = .next (afterSlot s (withWrites y (scalarWrite t 1 (BitVec.ofNat 64 status) true))))

/-- mloop, mnext, madd, mpub and mend of a running call: loop counters, working registers, publication, the end (07_matrix R166,
07_matrix R169, 07_matrix R175, 07_matrix R176). At the turn of a running call: madd adds the sign-extended immediate to its
working register modulo 2^64; mloop of a free counter, with its end above and inside the share, takes its count, or skips the
body when that is zero; mnext counts down and goes to its target, or frees the counter and goes on; mpub writes the head tile
with its accumulation closed, publishes it and moves the head; mend of a call with no open accumulation and no barrier ends it.
Each completes. -/
def Obligations.MicroLoopResults : Prop :=
  ∀ (s : State) (q : Nat) (c : Call), callTurn s q c →
    let x := s.dev.seq q
    let w := (x.mx.store.find c.upc 0).toNat
    let go (c : Call) : Out := .next (microLeft s q id c)
    (let i := w / 2 ^ 55 % 8
     exec .madd s = go { c with wp := c.wp.set i (BitVec.ofInt 64 ((c.wp.getD i 0).toNat + sx 32 (w % 2 ^ 32))), upc := c.upc + 1 })
    ∧ (let i := w / 2 ^ 56 % 4
       let stop := w / 2 ^ 30 % 2 ^ 10
       let n := if w / 2 ^ 55 % 2 = 1 then (c.wp.getD (w / 2 ^ 52 % 8) 0).toNat % 2 ^ 32 else w / 2 ^ 40 % 2 ^ 12
       c.upc < stop → c.act.getD i false = false → stop < x.microWords →
       exec .mloop s = go (if n = 0 then { c with lc := c.lc.set i 0, upc := stop + 1 }
         else { c with lc := c.lc.set i n, act := c.act.set i true, upc := c.upc + 1 }))
    ∧ (let i := w / 2 ^ 56 % 4
       let target := w / 2 ^ 46 % 2 ^ 10
       let n := c.lc.getD i 0 - 1
       target < x.microWords →
       exec .mnext s = go (if n = 0 then { c with lc := c.lc.set i 0, act := c.act.set i false, upc := c.upc + 1 }
         else { c with lc := c.lc.set i n, upc := target }))
    ∧ (∀ a : Acc, c.acc = some a →
       let n := viewCount (vget x.regs.views 3 0)
       exec .mpub s = .next (microLeft s q (fun x => let y := writeTile x a.close true
         { y with mx := { y.mx with np := y.mx.np + 1, head := if n = 0 then 0 else (y.mx.head + 1) % n } })
         { c with acc := none, upc := c.upc + 1 }))
    ∧ (c.acc = none → c.bar = 0 → x.region.deferred = [] → x.ord = [] →
       exec .mend s = .next { s with dev := s.dev.modSeq q fun x => { x with mx := { x.mx with running := none } } })

/-- mmac adds every product of its operands to the head tile's accumulation; a reserved micro-word is a matrix fault
(02_number_formats R56, 02_number_formats R57, 07_matrix R159, 07_matrix R167, 07_matrix R168, 07_matrix R176, 07_matrix R184,
07_matrix R185). At the turn of a running call, an mmac whose pair, sources, scale fields and tile size R168 accepts, with a
free tile in the ring and its operand elements inside their rows, opens or continues the accumulation of the head tile: each
accumulator takes the products of its row and column in the order of k, in groups of the pair's width with one rounding each,
the head tile's overflow and poison marks are those of its accumulation, the call goes on to its next word, and a poisoned
operand leaves its mark and code 0x40. ZERO acts where the accumulation opens, and an open one must keep its ordered pair (FA,
FB) (the model's readings, log 64). A reserved micro-word ends the call with code 0x41, and the matrix-fault trap waits for the
next bundle. Each completes. -/
def Obligations.MultiplyAccumulateResults : Prop :=
  ∀ (s : State) (q : Nat) (c : Call), callTurn s q c →
    let x := s.dev.seq q
    let w := (x.mx.store.find c.upc 0).toNat
    (let fa := w / 2 ^ 54 % 16
     let fb := w / 2 ^ 50 % 16
     let asrc := w / 2 ^ 48 % 4
     let bsrc := w / 2 ^ 46 % 4
     let ka := w / 2 ^ 27 % 8
     let kb := w / 2 ^ 24 % 8
     let k := w / 2 ^ 30 % 2 ^ 10 + 1
     let wa := (c.wp.getD (w / 2 ^ 43 % 8) 0).toNat
     let wb := (c.wp.getD (w / 2 ^ 40 % 8) 0).toNat
     let m := (tileDims x).1
     let n := (tileDims x).2
     let af := accOf fa fb
     let gw := min (groupW fa) (groupW fb)
     ∀ (a b : List (List (Machine.Num × Bool))), pairOk fa fb = true → asrc ≠ 3 → bsrc ≠ 3 →
     (if fa = 11 then wa % 32 = 0 ∧ ka + (k - 1) / 32 ≤ 7 else ka = 0) → (if fb = 11 then wb % 32 = 0 ∧ kb + (k - 1) / 32 ≤ 7 else kb = 0) →
     (∀ o, c.acc = some o → o.fa = fa ∧ o.fb = fb) → m * n * accBytes af ≤ viewSize (vget x.regs.views 3 0) →
     x.mx.np < viewCount (vget x.regs.views 3 0) →
     operand x c true (fmtCode fa) asrc wa ka m k = some a → operand x c false (fmtCode fb) bsrc wb kb n k = some b →
     let o := c.acc.getD (Acc.open x fa fb (decide (w / 2 ^ 23 % 2 = 1)))
     let products := (a.map fun r => b.map fun u => (r.zip u).map fun e => Machine.Num.mul e.1.1 e.2.1).flatten
     let r := (products.zip (o.elems.zip o.part)).map fun e => accRun af gw e.2.1 e.2.2 o.partK false e.1
     let psn := (a.any fun r => r.any (·.2)) || (b.any fun r => r.any (·.2))
     let ovf := o.ovf || r.any (·.2.2)
     let marked (y : Seq) : Seq := { y with mx := { y.mx with tags := y.mx.tags.set y.mx.head (8 * ovf.toNat + 16 * (o.psn || psn).toNat) } }
     exec .mmac s = .next (microLeft s q marked { c with
       acc := some { o with elems := r.map (·.1), part := r.map (·.2.1), partK := (o.partK + k) % gw, ovf := ovf, psn := o.psn || psn },
       upc := c.upc + 1, err := if psn = true ∧ c.err = 0 then 0x40 else c.err }))
    ∧ (c.bar = 0 → x.region.deferred = [] → x.ord = [] → x.mx.queue = [] →
      let f : TrapInfo := { cause := 0x31, upc := c.upc, cont := [c.pc.ptr, c.upc, w] }
      let ended (x : Seq) : Seq := { x with mx := { x.mx with running := none, queue := [], fault := some f } }
      exec .reservedMicroWord s = .next { s with dev := s.dev.modSeq q ended })

/-- The near-data scalar instructions: value and poison of the destination, the next word, and nothing else (16_near_data_isa R282,
16_near_data_isa R287, 16_near_data_isa R288, 16_near_data_isa R307). Each of the thirteen scalar instructions of two registers
leaves its value in gD, poisoned when an operand is (the model's reading, log 32); gaddi adds the sign-extended immediate, gmovi
leaves it unpoisoned, glui replaces 16 bits of gD. g0 reads as zero and discards what is written. The unit's cycle counter rises
by one and control is at the next word; no other register, mask, port or byte changes. Each completes. -/
def Obligations.NearScalarResults : Prop :=
  ∀ (s : State) (u : Nat), nearTurn s u →
    let x := s.dev.unit u
    (∀ e ∈ nearScalars, ∀ d a b : BitVec 4, exec (e.1 d a b) s =
      .next (unitLeft s u (withG d (e.2 (gOf x a) (gOf x b)) (gPoison x a || gPoison x b))))
    ∧ (∀ (d a : BitVec 4) (i : BitVec 18), exec (.gaddi d a i) s = .next (unitLeft s u (withG d (gOf x a + i.signExtend 64) (gPoison x a)))
      ∧ exec (.gmovi d i) s = .next (unitLeft s u (withG d (i.signExtend 64) false)))
    ∧ (∀ (d : BitVec 4) (h : BitVec 2) (c : BitVec 16), exec (.glui d h c) s = .next (unitLeft s u
      (withG d ((gOf x d &&& ~~~((0xFFFF#64) <<< (16 * h.toNat))) ||| (c.setWidth 64 <<< (16 * h.toNat))) (gPoison x d))))

/-- Near-data branches, loops, halt, trap and safe point: where control goes and what the loop stack and the run state become
(16_near_data_isa R282, 16_near_data_isa R289, 16_near_data_isa R290, 16_near_data_isa R291, 16_near_data_isa R308,
18_tiers_and_parison R331). With unpoisoned operands a branch goes to its own word plus its offset when its condition holds,
else to the next word. nloop of a count below 2^32 with room begins its body, or skips it for a count of zero; nendl goes back
while passes remain and else pops; both count the passes that the band loop begins (the model's reading of the passes that the
loop ran, log 81); nlpop pops; gmvi leaves the index of loop N. nhalt of a unit whose writes have all performed, at peers too,
ends it with its ports closed; nsafe of a drained unit without an open port takes the requests that wait. ntrap takes the
software trap, whose record names the next word. Each completes. -/
def Obligations.NearControlResults : Prop :=
  ∀ (s : State) (u : Nat), nearTurn s u →
    let x := s.dev.unit u
    (∀ (a b : BitVec 4) (o : BitVec 15), gPoison x a = false → gPoison x b = false → ∀ e ∈ nearBranches,
      exec (e.1 a b o) s = .next (unitTo s u (if e.2 (gOf x a) (gOf x b) then ((x.pc : Int) + o.toInt).toNat else x.pc + 1) id))
    ∧ (∀ o : BitVec 15, exec (.b o) s = .next (unitTo s u ((x.pc : Int) + o.toInt).toNat id))
    ∧ (∀ (a : BitVec 4) (o : BitVec 15), gPoison x a = false → (gOf x a).toNat < 2 ^ 32 → ((gOf x a).toNat ≠ 0 → x.loops.length ≠ 6) →
      let n := (gOf x a).toNat
      let passes (y : Near) : Near := if x.ndloop = some x.pc then { y with passes := min n 1 } else y
      exec (.nloop a o) s = .next (if n = 0 then unitTo s u (x.pc + o.toNat + 1) passes
        else unitLeft s u fun y => { passes y with loops := { index := 0, remaining := BitVec.ofNat 32 n, first := x.pc + 1 } :: y.loops }))
    ∧ (∀ (e : NLoop) (l : List NLoop), x.loops = e :: l →
      exec .nlpop s = .next (unitLeft s u fun y => { y with loops := l })
      ∧ exec .nendl s = .next (if e.remaining = 1 then unitLeft s u fun y => { y with loops := l }
        else unitTo s u e.first fun y => { y with loops := { e with index := e.index + 1, remaining := e.remaining - 1 } :: l,
                                                  passes := if x.ndloop.map (· + 1) = some e.first then x.passes + 1 else x.passes }))
    ∧ (∀ (d : BitVec 4) (n : BitVec 3), exec (.gmvi d n) s =
      .next (unitLeft s u (withG d ((((x.loops[n.toNat]?).map NLoop.index).getD 0).setWidth 64) false)))
    ∧ (nearDrained s.dev u → exec .nhalt s = .next (unitLeft s u fun y => { y with run := .done, ports := .replicate 4 {} }))
    ∧ (nearDrained s.dev u → (∀ p ∈ x.ports.toList, NearOp.portOpen p = false) → exec .nsafe s = .next (unitLeft s u requestsTaken))
    ∧ (let t : TrapInfo := { cause := 0x11, cont := [x.iw / 2 ^ 6 % 2 ^ 16], after := true }
       exec .ntrap s = .next { s with dev := nearAfter u (x.pc + 1) (takeNearTrap (s.dev.modUnit u fun y => { y with pc := x.pc + 1 }) u t) })

/-- Near-data lane instructions: enabled lanes with their poison, flags in nst; the moves between registers (16_near_data_isa R292,
16_near_data_isa R293, 16_near_data_isa R295, 16_near_data_isa R307). Each lane instruction of two registers, nfma, the two
conversions and nmov leave the result in the lanes of nD that its mask enables, poisoned when an operand lane is, OR the enabled
lanes' flags into nst (log 32), and keep the other lanes. nbcast repeats the low 32 bits of a scalar under the mask, nget leaves
one lane in gD, nins one lane in nD. Control is at the next word and nothing else of the unit or of memory changes. Each
completes. -/
def Obligations.NearLaneResults : Prop :=
  ∀ (s : State) (u : Nat), nearTurn s u →
    let x := s.dev.unit u
    (∀ (d a b : BitVec 4) (f : BitVec 3),
      (∀ e ∈ nearLanes, exec (e.1 d a b f) s = .next (unitLeft s u (withLanes d f (((nLanes x a).zip (nLanes x b)).map fun l =>
        ((e.2 l.1.1 l.2.1).1, l.1.2 || l.2.2, (e.2 l.1.1 l.2.1).2)))))
      ∧ exec (.nfma d a b f) s = .next (unitLeft s u (withLanes d f (((nLanes x a).zip ((nLanes x b).zip (nLanes x d))).map fun l =>
        let r := (fmtOf .f32).arith 0 false (Machine.Num.add false (Machine.Num.mul (f32Num l.1.1) (f32Num l.2.1.1)) (f32Num l.2.2.1))
        (r.1, l.1.2 || l.2.1.2 || l.2.2.2, r.2)))))
    ∧ (∀ (d a : BitVec 4) (f : BitVec 3) (r : BitVec 2),
      let one (g : Nat → LaneRes) : State := unitLeft s u (withLanes d f ((nLanes x a).map fun l => ((g l.1).1, l.2, (g l.1).2)))
      exec (.ncvtI32F32 d a f r) s = .next (one (laneCvt .i32 .f32 r.toNat true))
      ∧ exec (.ncvtF32I32 d a f r) s = .next (one (laneCvt .f32 .i32 r.toNat false))
      ∧ exec (.nmov d a f) s = .next (one fun v => (v, 0))
      ∧ exec (.nbcast d a f) s = .next (unitLeft s u (withLanes d f (List.replicate 16 ((gOf x a).toNat % 2 ^ 32, gPoison x a, 0)))))
    ∧ (∀ d a l : BitVec 4,
      exec (.nget d a l) s = .next (unitLeft s u (withG d (BitVec.ofNat 64 ((nLanes x a).getD l.toNat (0, false)).1) ((nLanes x a).getD l.toNat (0, false)).2))
      ∧ exec (.nins d a l) s = .next (unitLeft s u (withN d ((nLanes x d).set l.toNat ((gOf x a).toNat % 2 ^ 32, gPoison x a)))))

/-- Near-data compares, mask logic and reductions: masks, scalars, poison and nst (16_near_data_isa R282, 16_near_data_isa R294,
16_near_data_isa R296, 16_near_data_isa R307). A compare whose enabled lanes are not poisoned leaves its condition in the
enabled bits of its mask and keeps the others, with the flags of enabled lanes in nst (the model's choice, log 32); f.and, f.or,
f.xor, f.andn and f.not act on whole masks, f.set takes the low bits of an unpoisoned scalar, f.get leaves a mask in a scalar. A
reduction leaves in gD the sum, tree, maximum or minimum of the enabled lanes with the identity for the others, poisoned when an
enabled lane is, its flags in nst (log 32). f0 reads as all ones and discards what is written. Each completes. -/
def Obligations.NearMaskAndReductionResults : Prop :=
  ∀ (s : State) (u : Nat), nearTurn s u →
    let x := s.dev.unit u
    (∀ (c d : BitVec 3) (a b : BitVec 4) (f : BitVec 3),
      (∀ i < 16, (maskOf x f).getLsbD i = true → ((nLanes x a).getD i (0, false)).2 = false ∧ ((nLanes x b).getD i (0, false)).2 = false) →
      let left (op : Nat → Nat → Bool × BitVec 6) : State :=
        let r := ((nLanes x a).zip (nLanes x b)).map fun e => op e.1.1 e.2.1
        unitLeft s u fun y => withFlags ((flagsOr (r.zipIdx.map fun e => if (maskOf x f).getLsbD e.2 then e.1.2 else 0)).setWidth 24)
          (withMask d (BitVec.ofNat 16 (packLanes 1 (r.zipIdx.map fun e => (if (maskOf x f).getLsbD e.2 then e.1.1 else (maskOf x d).getLsbD e.2).toNat))) y)
      exec (.ncmpI32 c d a b f) s = .next (left fun v w => (([decide (v = w), decide (v ≠ w), decide (sx 32 v < sx 32 w), decide (sx 32 v ≤ sx 32 w),
        decide (v < w)][c.toNat]?).getD (decide (v ≤ w)), 0))
      ∧ exec (.ncmpF32 c d a b f) s = .next (left (Op.laneCmp .f32 c.toNat)))
    ∧ (∀ e ∈ nearMasks, ∀ d a b : BitVec 3, exec (e.1 d a b) s = .next (unitLeft s u (withMask d (e.2 (maskOf x a) (maskOf x b)))))
    ∧ (∀ (d : BitVec 3) (a : BitVec 4), gPoison x a = false → exec (.fSet d a) s = .next (unitLeft s u (withMask d ((gOf x a).setWidth 16))))
    ∧ (∀ (d : BitVec 4) (a : BitVec 3), exec (.fGet d a) s = .next (unitLeft s u (withG d ((maskOf x a).setWidth 64) false)))
    ∧ (∀ e ∈ nearReductions, ∀ (d a : BitVec 4) (f : BitVec 3),
      let r := e.2 ((nLanes x a).zipIdx.map fun l => if (maskOf x f).getLsbD l.2 then some l.1.1 else none)
      let psn := (nLanes x a).zipIdx.any fun l => (maskOf x f).getLsbD l.2 && l.1.2
      exec (e.1 d a f) s = .next (unitLeft s u fun y => withFlags (r.2.setWidth 24) (withG d r.1 psn y)))

/-- Stream ports: nsopen opens one, nld and ntab pop one entry, nst pushes one, nmac pops a pair and accumulates (02_number_formats
R53, 16_near_data_isa R295, 16_near_data_isa R297, 16_near_data_isa R298, 16_near_data_isa R299, 16_near_data_isa R300,
16_near_data_isa R301, 16_near_data_isa R307). Readings of the model: logs 32 and 33. A port of mode 0 with a delivered entry
gives it and counts it. nsopen of an aligned dense stream the unit may access, on a port that is not open and apart from bank
copies, opens it; a sparse one takes its pairs from the bitmap. nld leaves an entry's lanes in nD, poisoned by granule; ntab
loads the scale table; nst of an open write port pushes the enabled lanes at the entry's address and notes poisoned ones in nst;
nmac accumulates its pair on nD. Each completes. -/
def Obligations.NearPortResults : Prop :=
  ∀ (s : State) (u : Nat), nearTurn s u →
    let x := s.dev.unit u
    let c := nearCtx s u
    (∀ (a : BitVec 2) (e : Bytes × List Nat) (l : List (Bytes × List Nat)), (vget x.ports a.toNat {}).mode = some 0 →
      (vget x.ports a.toNat {}).used < (vget x.ports a.toNat {}).cnt → (vget x.ports a.toNat {}).refused = none → (vget x.ports a.toNat {}).owed = none →
      (vget x.ports a.toNat {}).bitmap = none →
      (vget x.ports a.toNat {}).buf = e :: l →
      ∃ y, NearOp.popRead a c = .ok (e, y) ∧ y.dev.unit u = withPort a (fun p => { p with buf := l, used := p.used + 1 }) x ∧ y.dev.mem = s.dev.mem)
    ∧ (∀ (d : BitVec 2) (a b : BitVec 4), gPoison x a = false → gPoison x b = false →
      let base := (gOf x a).toNat
      let cnt := (gOf x b).toNat % 2 ^ 30
      let mode := (gOf x b).toNat / 2 ^ 30 % 4
      let stride := sx 32 ((gOf x b).toNat / 2 ^ 32)
      base % 64 = 0 → stride % 64 = 0 → NearOp.portOpen (vget x.ports d.toNat {}) = false →
      (mode < 2 → nearMay c (decide (mode = 1)) (entryAddrs base stride cnt) → portApart x (entryAddrs base stride cnt) →
        exec (.nsopen d a b) s = .next (unitLeft s u (withPort d (portOpened mode base stride cnt []))))
      ∧ (∀ (map : List (Byte × Bool)) (y : NearCtx), mode = 2 → cnt % 2 = 0 → b.toNat ≤ 14 → gPoison x (b + 1) = false →
        let bm := (gOf x (b + 1)).toNat
        let nb := ceilDiv (cnt / 2) 8
        let pairs := (List.range (cnt / 2)).map fun i => ((map.getD (i / 8) (0, false)).1).getLsbD (i % 8)
        let ads := entryAddrs base stride (2 * (pairs.filter id).length)
        nearMay c false ((NearOp.pieces bm nb).map (·.1)) → (∀ p ∈ NearOp.pieces bm nb, unitWay s.dev u p.1 ≠ .refused) →
        NearOp.read bm nb c = .ok (map, y) → (∀ e ∈ map, e.2 = false) →
        nearMay y false ads → portApart (y.dev.unit y.u) ads →
        exec (.nsopen d a b) s = .next (ctxLeft s (withUnit y (withPort d (portOpened 2 base stride cnt pairs))))))
    ∧ (∀ (a : BitVec 2) (e : Bytes × List Nat) (y : NearCtx), NearOp.popRead a c = .ok (e, y) →
      (∀ d : BitVec 4, exec (.nld d a) s = .next (ctxLeft s (withUnit y (withN d
        ((List.range 16).map fun l => (leNat ((e.1.drop (4 * l)).take 4), e.2.contains (l / 8)))))))
      ∧ (iwField x 14 2 = a →
        exec .ntab s = .next (ctxLeft s (withUnit y fun z => { z with table := BitVec.ofNat 256 (leNat (e.1.take 32)) }))))
    ∧ (∀ (d : BitVec 2) (a : BitVec 4) (f : BitVec 3), (vget x.ports d.toNat {}).mode = some 1 → (vget x.ports d.toNat {}).used < (vget x.ports d.toNat {}).cnt →
      (vget x.ports d.toNat {}).refused = none → (vget x.ports d.toNat {}).owed = none → (vget x.ports d.toNat {}).bitmap = none →
      let m := maskOf x f
      let on := (nLanes x a).zipIdx.filter fun e => m.getLsbD e.2
      exec (.nst d a f) s = .next (unitLeft s u fun y => withFlags
        (BitVec.ofNat 24 (256 * packLanes 1 ((nLanes x a).zipIdx.map fun e => (m.getLsbD e.2 && e.1.2).toNat)))
        (withPort d (fun p => { p with used := p.used + 1,
                                       out := p.out ++ [⟨x.writes, addr64 p.base (p.used * p.stride), on.map fun e => (4 * e.2, toLe 4 e.1.1, e.1.2)⟩] }) (numbered y))))
    ∧ (∀ (a : BitVec 2) (pair : Option (List (Bytes × List Nat))) (y : NearCtx), NearOp.popPair a c = .ok (pair, y) →
      ∀ (t : Fmt) (d b : BitVec 4) (f j : BitVec 3) (z : Bool),
        exec (.nmac t d a b f j z) s = .next (ctxLeft s (withUnit y (multiplied t d b f j z pair))))

/-- Bank copies, completion writes, parisons, unit registers, hand-over points and the fetch traps of a near-data unit
(16_near_data_isa R284, 16_near_data_isa R302, 16_near_data_isa R303, 16_near_data_isa R304, 16_near_data_isa R305,
16_near_data_isa R306, 16_near_data_isa R308, 18_tiers_and_parison R333). nbcp of aligned local ranges of a bank unit, with no
pushed entry waiting on them, queues its copy, or nothing for no entries. cwr of a writable 16-byte block, with the unit
drained, publishes its writes, then writes nst and the number, and clears PM. npsave writes and npload loads a parison, leaving
the status. grsr leaves a unit register of R306, gwsr sets nst. nhopt of a drained unit without an open port takes the requests
that wait when no hand-over request is pending, or when one is and asks for a later row (R333), and else, at its row or at the
band's end, writes its parison, completes the request and ends the unit. A word that does not decode, and the end of the code,
take their traps. Each completes. -/
def Obligations.NearTransferResults : Prop :=
  ∀ (s : State) (u : Nat), nearTurn s u →
    let x := s.dev.unit u
    let c := nearCtx s u
    let ra := iwField x 14 4
    let rd := iwField x 18 4
    let rb := iwField x 10 4
    (u < 512 → gPoison x rd = false → gPoison x ra = false → gPoison x rb = false → (gOf x rd).toNat % 64 = 0 → (gOf x ra).toNat % 64 = 0 →
      let n := (gOf x rb).toNat
      nearLocal c (gOf x rd).toNat n → nearLocal c (gOf x ra).toNat n →
      (n ≠ 0 → NearOp.pendingOver x (gOf x ra).toNat (64 * n) = false ∧ NearOp.pendingOver x (gOf x rd).toNat (64 * n) = false) →
      exec .nbcp s = .next (unitLeft s u fun y => if n = 0 then y
        else numbered { y with copies := y.copies ++ [{ num := x.writes, dst := (gOf x rd).toNat, src := (gOf x ra).toNat, n := n }] }))
    ∧ (∀ (loc : Nat) (r w : Bool), gPoison x ra = false → gPoison x rb = false → (gOf x ra).toNat % 16 = 0 → nearMay c true [(gOf x ra).toNat] →
      nearDrained s.dev u → unitWay s.dev u (gOf x ra).toNat = .here loc r w →
      let d := placeBytes (placeBytes (publish u s.dev) (unitAgent u) (loc + 8) (toLe 8 x.nst.toNat)) (unitAgent u) loc (toLe 8 (gOf x rb).toNat)
      exec .cwr s = .next { s with dev := nearAfter u (x.pc + 1) (d.modUnit u fun y => { y with nst := y.nst &&& 0xFF }) })
    ∧ (gPoison x ra = false → (gOf x ra).toNat % 64 = 0 →
      (∀ y : NearCtx,
        let h : Head := { flags := unitTier u, kid := x.kid.toNat, cur := x.loops.reverse.map fun e => e.index.toNat, cdep := x.loops.length,
                          lfmt := 1, ranges := [], llen := 0, parm := x.parm.toNat, rgen := 0, seq := 0, plan := x.plan.toNat }
        NearOp.saveParison (gOf x ra).toNat (x.iw % 2 ^ 14) false h c = .ok ((), y) → exec .npsave s = .next (ctxLeft s y))
      ∧ (∀ (st : Nat) (y : NearCtx), NearOp.loadParison (gOf x ra).toNat c = .ok (st, y) →
        exec .npload s = .next (ctxLeft s (withUnit y (withG rd (BitVec.ofNat 64 st) false)))))
    ∧ (∀ (d : BitVec 4) (r : BitVec 8) (v : Nat), unitReg x u r.toNat = some v → exec (.grsr d r) s = .next (unitLeft s u (withG d (BitVec.ofNat 64 v) false)))
    ∧ (x.iw / 2 ^ 6 % 2 ^ 8 = 0 → exec .gwsr s = .next (unitLeft s u fun y => { y with nst := (gOf x ra).setWidth 24 }))
    ∧ (nearDrained s.dev u → (∀ p ∈ x.ports.toList, NearOp.portOpen p = false) → (x.handDrain.getD x.hand) = none →
      exec .nhopt s = .next (unitLeft s u fun y => requestsTaken { y with handDrain := none }))
    ∧ (∀ r : HandReq, nearDrained s.dev u → (∀ p ∈ x.ports.toList, NearOp.portOpen p = false) → (x.handDrain.getD x.hand) = some r →
      bandEnd x ≠ some x.pc → x.band + ((x.loops.head?).map fun e => e.index.toNat).getD 0 < r.rmin.toNat →
      exec .nhopt s = .next (unitLeft s u fun y => requestsTaken { y with handDrain := none }))
    ∧ (∀ (r : HandReq) (y z : NearCtx), nearDrained s.dev u → (∀ p ∈ x.ports.toList, NearOp.portOpen p = false) → (x.handDrain.getD x.hand) = some r →
      let last := decide (bandEnd x = some x.pc)
      let cur := x.band + (if last then x.passes else ((x.loops.head?).map fun e => e.index.toNat).getD 0)
      let h : Head := { flags := unitTier u + (if last then 16 else 4 * r.dest.toNat), kid := x.kid.toNat, cur := [cur % 2 ^ 32],
                        cdep := if last then 0 else 1, lfmt := 1, ranges := [], llen := 0, parm := x.parm.toNat, rgen := r.rgen.toNat,
                        seq := r.seq.toNat, plan := x.plan.toNat }
      last = true ∨ r.rmin.toNat ≤ cur →
      NearOp.saveParison r.pa.toNat (x.iw / 2 ^ 6 % 2 ^ 16) true h
        { dev := (drainBegin u s.dev).modUnit u fun y => { y with handDrain := none }, base := drainBegin u s.dev, u := u, next := x.pc + 1 } = .ok ((), y) →
      NearOp.complete r.cw.toNat r.seq.toNat y = .ok ((), z) →
      exec .nhopt s = .next (ctxLeft s (withUnit z fun v => { v with run := .done, hand := none, reqs := [] })))
    ∧ exec .illegalInstruction s = .next { s with dev := takeNearTrap (nearCycle u s.dev) u { cause := 0x01, cont := [x.iw] } }
    ∧ exec .endOfCode s = .next { s with dev := takeNearTrap (nearCycle u s.dev) u { cause := 0x58, cont := [x.pc] } }

/-- Issuing a bundle, expanding a segment, and the places of elements and atomics: each step's own effect (03_bundles_and_encoding
R71, 03_bundles_and_encoding R78, 03_bundles_and_encoding R84, 05_memory_access R113, 05_memory_access R117, 05_memory_access
R121, 05_memory_access R126, 05_memory_access R127, 05_memory_access R131, 11_ordering_near R249, 11_ordering_near R251,
12_ordering_far R265). Readings of the model: logs 20, 25, 56, 65 and 69. A bundle whose checks pass lands the writes that are
due and begins with its first slot. A segment that a transfer waits for comes into the other half. A request comes to a running
sequencer or unit and waits, a pre-emption to its whole launch. A load, store or atomic at the head of the order, whose page is
there, takes its place, before and after it whatever needs no step of its own. An access on its way to a page in host bias takes
its place after those that left before it for that page, and commands that forked behind it with nothing left before them are
free to start; an atomic whose read has its place writes. A stream that waited for its page or for full or empty granules goes
on. The oldest complete entry enters the load-data queue. A waiting mwait or bwait whose condition holds wakes; a wait on a host
page in host bias is read by the poll. Nothing else changes. -/
def Obligations.MemoryStepResults : Prop :=
  ∀ (s : State) (q c : Nat), s.turn = .agent q c →
    let d := broughtOn q s.dev
    let x := d.seq q
    let go (e : Dev) : Dev := advance q (ordFuel (s.dev.seq q).ord) e
    (∀ (h : Half) (b : List (Nat × Nat)) (is : List (Nat × Instr)), readyToIssue s q h [] b → b ≠ [] →
      let d0 := d.setSeq q x
      checkBundle ((landDue q d0).seq q) b = .ok is → (∀ e ∈ is, ∀ k, e.2 ≠ .safe k ∧ e.2 ≠ .hopt k) → interlocks d0 q is = .ok () →
      exec .bundleIssue s = .next { s with dev := (landDue q d0).modSeq q (fun y => { y with region := { y.region with retrying := false } }),
                                           base := d0, issue := some { q := q, rest := b, pc := x.pc, retry := x.region.retrying, pld := x.pld.length } })
    ∧ (∀ (p : Pc) (h : Half), (s.dev.seq q).run ≠ .absent → (s.dev.seq q).want = some p → expandSeg s.dev q p.seg = some h →
      exec .segmentExpansionComplete s = became s (touchCode q h (s.dev.setSeq q { s.dev.seq q with other := some h, want := none })))
    ∧ (∀ (t : Strm) (loc : Nat) (w : Bool), c < 2 → headStream d q t → t.kind = .ld → accessWay d q (t.addr t.next) = .here loc true w →
      exec .loadElementPerform s = became s (go (elementRead q t loc d)))
    ∧ (∀ (t : Strm) (loc : Nat) (r : Bool), c = 0 → headStream d q t → t.kind = .st →
      accessWay d q (t.addr t.next) = .here loc r true →
      exec .storeElementPerform s = became s (go (nextElem q t (storeAt q t loc d))))
    ∧ (∀ (a : Atom) (o : OrdOp) (l : List OrdOp), x.ord = o :: l → o.op = .atom a → o.waits = false → headHeld d q = false →
      (∀ loc : Nat, c = 0 → a.half = false → (a.sc = 2 → x.far = [] ∧ x.unacked = 0) → accessWay d q a.addr = .here loc true true →
        exec .atomicPerform s = became s (go (atomPlaced q a loc d)))
      ∧ (∀ y : Split, c < 2 → a.half = true → d.splits.find? (fun z => decide (z.own = q)) = some y →
        exec .atomicPerform s = became s (go (closeSplit d y))))
    ∧ (∀ (i : Instr) (k : Nat) (p : Placed), c = k + 2 → (s.dev.seq q).far[k]? = some p →
      (∀ z ∈ (s.dev.seq q).far.take k, z.range.2.1 / 16384 ≠ p.range.2.1 / 16384) →
      ((i = .loadElementPerform ∧ p.isRead = true) ∨ (i = .storeElementPerform ∧ ∃ o b m y, p = .row o b m y)
        ∨ (i = .storeElementPerform ∧ ∃ o col e off z b m y, p = .store o col e off z b m y)
        ∨ (i = .storeElementPerform ∧ ∃ o c r off b m, p = .epi o c r off b m)
        ∨ (i = .atomicPerform ∧ ∃ o col e va ret op b m y y2, p = .rmw o col e va ret op b m y y2)) →
      exec i s = became s (perform (s.dev.modSeq q fun y =>
        { y with far := (y.far.eraseIdx k).dropWhile fun z => match z with | .fork .. => true | _ => false }) p))
    ∧ (∀ (t : Strm) (loc : Nat) (r : Bool) (o : OrdOp) (l : List OrdOp), (s.dev.seq q).ord = o :: l → o.op = .stream t → t.kind = .st →
      (s.dev.seq q).missWait = true → (s.dev.seq q).storeMiss = none → accessWay s.dev q (t.addr t.next) = .here loc r true →
      let e := s.dev.setSeq q { s.dev.seq q with missWait := false, ord := { o with waits := false } :: l }
      headHeld e q = false →
      exec .storeStreamResume s = became s (go (nextElem q t (storeAt q t loc e))))
    ∧ (∀ (t : Strm) (loc loc2 : Nat) (w w2 : Bool) (o : OrdOp) (l : List OrdOp), (s.dev.seq q).ord = o :: l → o.op = .stream t → t.kind = .ldFe →
      o.waits = true → (s.dev.seq q).missWait = false → feReady s.dev q (t.addr t.next) t.esz .ldFe = true →
      seqWay s.dev q (t.addr t.next) = .here loc2 true w2 → accessWay s.dev q (t.addr t.next) = .here loc true w →
      let e := s.dev.modSeq q fun y => { y with ord := { o with waits := false } :: l }
      headHeld e q = false → exec .fullEmptyWaitEnd s = became s (go (elementRead q t loc e)))
    ∧ (∀ (e : LdEnt) (l : List LdEnt), ((s.dev.seq q).col c).fill = e :: l → e.elems ≤ e.filled → ((s.dev.seq q).col c).ldq.length < 64 →
      exec .loadEntryDeliver s = became s (s.dev.modSeq q fun y => y.modCol c fun z =>
        { z with fill := l, ldq := z.ldq ++ [e], laq := if e.last then z.laq - 1 else z.laq }))
    ∧ (∀ (loc value kind v : Nat), (s.dev.seq q).waitOn = some (loc, value, kind) → readNow s.dev loc 8 q = some v →
      let woken := became s (s.dev.setSeq q { s.dev.seq q with woke := some true })
      ((kind = 0 ∧ v ≠ value) ∨ (kind = 1 ∧ value ≤ v) →
        (hostBias s.dev loc = false → exec .mwaitWake s = woken) ∧ (hostBias s.dev loc = true → exec .hostBiasMwaitPoll s = woken))
      ∧ (kind = 2 → (v / 2 ^ 63 % 2 ≠ value % 2) → exec .bwaitWake s = woken))
    ∧ (∀ (k : ReqKind) (y : Launch), let t := { s with turn := .request q k }
      (q < 2048 → (s.dev.seq q).run = .running → s.dev.launch? (s.dev.seq q).place.launch = some y →
        (k = .preempt → y.st = .running → exec .asyncRequest t = became t (preempt s.dev (s.dev.seq q).place.launch))
        ∧ ((k = .park ∧ y.st = .parked) ∨ (k = .stop ∧ (s.dev.seq q).owner = true) → k ∉ (s.dev.seq q).reqs →
          exec .asyncRequest t = became t (s.dev.modSeq q fun z => { z with reqs := z.reqs ++ [k] })))
      ∧ (2048 ≤ q → (s.dev.unit (q - 2048)).run = .running → s.dev.launch? (s.dev.unit (q - 2048)).launch = some y →
        (k = .preempt → y.st = .running → exec .asyncRequest t = became t (preempt s.dev (s.dev.unit (q - 2048)).launch))
        ∧ (k = .park → y.st = .parked → k ∉ (s.dev.unit (q - 2048)).reqs →
          exec .asyncRequest t = became t (s.dev.modUnit (q - 2048) fun z => { z with reqs := z.reqs ++ [k] }))))

/-- The steps of the matrix unit, the epilogue, the bead array and the near-data units: each step's own effect (07_matrix R164,
07_matrix R166, 07_matrix R171, 07_matrix R172, 07_matrix R178, 07_matrix R181, 09_bead_array R222, 16_near_data_isa R290,
16_near_data_isa R298, 16_near_data_isa R302, 16_near_data_isa R307, 20_host_and_launch R366). Readings of the model: logs 26,
33, 73, 79 and 81. A call at the head of the queue starts when none runs. An mld or mgat at the head of the order takes the
places of its reads; at its turn, with all of them there, it writes the micro store or fills its latch. At its turn an epi whose
tile is published and whose next row has its place gives the row its bytes and records its status, the last row frees the tile;
an rfree frees the tile. A wave's results become valid at their cycle. A read port's next resident entry arrives; a write port's
oldest entry performs; a bank copy copies its next 64 bytes. A corrected error is counted. A unit that has ended publishes its
writes and leaves its launch. Nothing else changes. -/
def Obligations.MatrixAndUnitStepResults : Prop :=
  ∀ (s : State) (q k : Nat), s.turn = .agent q k →
    let d := s.dev
    let x := d.seq q
    let u := d.unit q
    let p := vget u.ports k {}
    let b := broughtOn q d
    let z := b.seq q
    (x.trap = none →
      (∀ (c : Call) (l : List MCmd), x.mx.running = none → x.mx.queue = .call c :: l → x.mx.fault = none →
        exec .matrixCallStart s = became s (d.setSeq q { x with mx := { x.mx with queue := l, running := some c } }))
      ∧ (∀ (m : MCmd) (l : List Nat) (n : Nat), z.ord.head?.map OrdOp.op = some (if n = 8 then .mld m.id else .mgat m.id) → headHeld b q = false →
        z.mx.queue.find? (fun c => decide (c.id = m.id)) = some m →
        ((∃ a f k got, m = .mld m.id a f k got ∧ n = 8 ∧ l = (List.range k).map fun i => a + 8 * i)
          ∨ (∃ j a st rb ix got, m = .mgat m.id j a st rb ix got ∧ n = 32
            ∧ l = (ix.map fun (i : Nat) => (List.range (rb / 32)).map fun (j : Nat) => addr64 a ((i : Int) * st + 32 * j)).flatten)) →
        (∀ a ∈ l, accessWay b q a ≠ .miss) →
        let e := advance q (ordFuel x.ord) (readsPlaced q m.id n l b)
        exec (if n = 8 then .mldPerform else .mgatPerform) s = became s (((if n = 8 then mldWrite q e else mgatFill q e)).getD e))
      ∧ (∀ (id a f n : Nat) (got : Tab (Bytes × List Nat)) (l : List MCmd), x.mx.running = none → x.mx.queue = .mld id a f n got :: l → n ≤ got.length →
        (∀ i, z.ord.head?.map OrdOp.op ≠ some (.mld i)) → headForbidden b q = false →
        exec .mldPerform s = became s (d.setSeq q { x with mx := wordsStored f got { x.mx with queue := l } }))
      ∧ (∀ (id j bs rb : Nat) (st : Int) (ix : List Nat) (got : Tab (Bytes × List Nat)) (l : List MCmd), x.mx.running = none →
        x.mx.queue = .mgat id j bs st rb ix got :: l → rb / 32 * ix.length ≤ got.length → (∀ i, z.ord.head?.map OrdOp.op ≠ some (.mgat i)) → headForbidden b q = false →
        let y := latchOf (rb / 32) ix.length got
        exec .mgatPerform s = became s (d.setSeq q { x with mx := if j = 0 then { x.mx with queue := l, latch0 := some y }
          else { x.mx with queue := l, latch1 := some y } }))
      ∧ (∀ (e : EpiDesc) (r : Nat) (l : List EpiCmd), x.mx.epq = .epi e r :: l → x.mx.np ≠ 0 →
        (∀ o ∈ x.ord, ∀ (y : EpiDesc) (k : Nat), o.op = .epi y k → y.id = e.id → r < k) →
        let y := (fillRow q e.id r (epiRow x e r).1 ((x.mx.tags.getD x.mx.tail 0).testBit 4) d).modSeq q fun z => epiStatus z (epiRow x e r).2
        exec .epiPerform s = became s (y.modSeq q fun v =>
          if r + 1 < (tileDims x).1 then { v with mx := { v.mx with epq := .epi e (r + 1) :: l } }
          else freeTile ({ v with mx := { v.mx with epq := l } }.modCol e.col fun c => { c with saq := c.saq - 1 })))
      ∧ (∀ l : List EpiCmd, x.mx.epq = .rfree :: l → x.mx.np ≠ 0 →
        exec .rfreePerform s = became s (d.setSeq q (freeTile { x with mx := { x.mx with epq := l } })))
      ∧ (∀ w : Wave, x.bead.wave = some w → x.bead.st = .run → x.run ≠ .halting →
        exec .beadWaveComplete s = became s (d.setSeq q { x with bead :=
          { x.bead with wave := some w, st := if 4 + (w.twin + 3) / 4 ≤ w.elapsed then .done else .run } })))
    ∧ (let va := addr64 p.base (p.got * p.stride)
      ∀ (loc : Nat) (r w : Bool) (l : List (Byte × Bool)) (e : Dev), (p.mode = some 0 ∨ p.mode = some 2) → p.bitmap = none → p.got < storedEntries p →
        NearOp.pendingOver u va 64 = false → unitWay d q va = .here loc r w → unitBytes (touch d loc) q loc 64 = (some l, e) →
        exec .portEntryDeliver s = became s (e.modUnit q fun y => { y with ports := vset y.ports k (
          let z := vget y.ports k {}
          { z with buf := z.buf ++ [(l.map (·.1), entryPoison l)], got := z.got + 1, refused := none }) }))
    ∧ (∀ (n va loc : Nat) (l : List (Nat × Bytes × Bool)) (rest : List NPush) (r w : Bool), p.out = ⟨n, va, l⟩ :: rest →
      unitWay d q va = .here loc r w →
      exec .portWritePerform s = became s ((l.foldl (fun e v => unitWrite q n (loc + v.1) v.2.1 v.2.2 e) d).modUnit q fun y =>
        { y with ports := vset y.ports k { vget y.ports k {} with out := (vget y.ports k {}).out.drop 1, refused := bitmapRefused d q (vget y.ports k {}) } }))
    ∧ (∀ (c : BankCopy) (l : List BankCopy) (a b : Nat) (r w r2 w2 : Bool) (v : List (Byte × Bool)) (e : Dev), u.copies = c :: l →
      unitWay d q (c.src + 64 * c.k) = .here a r w → unitWay d q (c.dst + 64 * c.k) = .here b r2 w2 → unitLocal d q a = true → unitLocal d q b = true →
      unitBytes (touch d a) q a 64 = (some v, e) →
      let half (g : Nat) (f : Dev) : Dev := unitWrite q c.num (b + 32 * g) (((v.drop (32 * g)).take 32).map (·.1)) ((entryPoison v).contains g) f
      exec .nbcpEntryCopy s = became s ((half 1 (half 0 e)).modUnit q fun y =>
        { y with copies := if c.k + 1 < c.n then { c with k := c.k + 1 } :: l else l }))
    ∧ (u.run ≠ .absent → exec .eccCorrectedResume s = became s (d.modUnit q fun y => { y with ncor := y.ncor + 1 }))
    ∧ (u.run = .done →
      let e := retag (unitAgent q) u.launch (publish q d)
      let gone (y : Launch) : Bool := decide (y.climb = some q) && u.hand.isSome
      let left := Dev.modLaunch { e with near := e.near.erase q } u.launch fun y =>
        { y with units := y.units.erase q, climb := (if gone y then none else y.climb), posts := (if gone y then [] else y.posts) }
      exec .unitEnd s = became s (endHeld u.launch left))

/-- The steps of copy and transform engines, fabric ports and peers: each step's own effect (05_memory_access R127, 08_engines R190,
08_engines R191, 08_engines R195, 08_engines R199, 08_engines R202, 08_engines R205, 08_engines R210, 12_ordering_far R263,
12_ordering_far R264, 12_ordering_far R267, 23_fleet_operations R418). Readings of the model: logs 4, 20, 35, 36 and 38. An idle
engine takes the oldest command of the next sequencer after the last one served whose earlier operations all have their places,
at the host too. A copy row and a transform pass read, convert and write at their point of the nest, outside the order. A
command that is over sends its blocks; once all are acknowledged its writes join in order and it arrives at its barrier, if it
has one. A good block that a port receives is written for its tenant, a bad one is counted. A peer's read, write or atomic that
a port brings takes its place; one of scope .cl or .dv may come as its read alone. An acknowledgement frees the oldest write to
that peer. A port loses lanes and retrains, goes down, begins to train, comes up or goes on degraded. The flits of an access are
free. Nothing else changes. -/
def Obligations.EngineAndPortStepResults : Prop :=
  ∀ (s : State) (c e : Nat),
    let d := s.dev
    let g := engineOf (d.cluster c) e
    let p := vget d.fleet.ports c {}
    (s.turn = .agent c e →
      (∀ x : Cmd,
        let oldest (y : Cmd) : Prop := g.queue.find? (fun z => decide (z.owner = y.owner)) = some y
        let ready (y : Cmd) : Prop := (∀ o ∈ (d.seq y.owner).ord, y.fork ≤ o.id) ∧ Placed.fork y.owner y.id ∉ (d.seq y.owner).far
        g.running = none → oldest x → ready x →
        (∀ y, oldest y → ready y → if g.rr < x.owner then (y.owner ≤ g.rr ∨ x.owner ≤ y.owner) else (y.owner ≤ g.rr ∧ x.owner ≤ y.owner)) →
        exec .engineCommandStart s = became s (d.modCluster c fun y => setEngine y e { queue := g.queue.erase x, running := some x, rr := x.owner }))
      ∧ (∀ (r : Cmd) (l : List (Nat × Bool × BitVec 6)) (d1 : Dev) (k : Nat), workOf d c e false = some r →
        (r.desc.getD 2 0) / 2 ^ 42 % 2 ^ 8 = 0 → engRow r d = .ok (l, d1) →
        let df := (r.desc.getD 2 0) / 2 ^ 56 % 2 ^ 4
        let dst := addr64 (r.desc.getD 1 0) (nestOffset r.desc false r.row)
        let row := packRow (elemBits (fmtCode df)) (l.map fun v => (v.1, v.2.1))
        let r1 : Cmd := { r with flags := r.flags ||| flagsOr (l.map (·.2.2)), err := if r.err = 0 ∧ (∃ v ∈ l, v.2.1 = true) then 0x40 else r.err }
        engDest r (rowPieces dst (Op.memBytes df ((r.desc.getD 5 0) % 2 ^ 32))) 0 d1 = .go k 0 →
        exec .copyRow s = became s (putRunning c e (some (engWrite d1 (rowPieces dst k) row r1).nextRow) d1))
      ∧ (∀ (r : Cmd) (a : Pass), workOf d c 2 true = some r →
        r.prog.foldlM (fun b w => passStep ((r.desc.getD 0 0 : Int) + nestOffset r.desc true r.row) ((r.desc.getD 1 0 : Int) + nestOffset r.desc false r.row)
          (sx 32 (r.desc.getD 3 0 / 2 ^ 32 % 2 ^ 32)) (sx 32 (r.desc.getD 3 0 % 2 ^ 32)) w b) ({ cmd := r, dev := d } : Pass) = .ok a →
        exec .xformPass s = became s (putRunning c 2 (some { a.cmd with row := a.cmd.row + 1 }) a.dev))
      ∧ (∀ r : Cmd, g.running = some r → r.over = true →
        (r.blocks ≠ [] → exec .engineCommandComplete s =
          became s (putRunning c e (some (sendBlocks (3 * c + e) r d).1) (sendBlocks (3 * c + e) r d).2))
        ∧ (r.blocks = [] → r.unacked = 0 → r.fills = [] →
          let j := r.writes.foldl (fun d w => placeBytes d (engineAgent (3 * c + e)) w.1 [w.2] (r.poisoned.contains w.1)) (putRunning c e none d)
          (r.bar = 0 → exec .engineCommandComplete s = became s j)
          ∧ (∀ (loc : Nat) (rd wr : Bool), r.bar ≠ 0 → translate j (dieOf r.owner) r.ten r.bar = .here loc rd wr →
            exec .engineCommandComplete s = became s (perform j (.arrive (engineAgent (3 * c + e)) loc r.bytes r.err r.flags)))))
      ∧ (c < 48 → (portTo d p.peer).isSome = true → p.st ≠ 0 → 0 < e → e < p.lanes → exec .portLaneLoss s = became s (fleetEvent 6 (modPortOf c (fun y =>
        { y with lanes := e, st := 1,
                 err := BitVec.ofNat 64 (setBits y.err.toNat 0 32 (y.err.toNat % 2 ^ 32 + Config.freeNat d.drawn)) }) { d with drawn := d.drawn + 1 })))
      ∧ (c < 48 → p.st ≠ 0 → (∀ w ∈ d.peerOut, w.dev ≠ p.peer) →
        exec .portDown s = became s (fleetEvent 7 (modPortOf c (fun y => { y with lanes := 0, st := 0 }) d)))
      ∧ (d.form ≠ .cd → c < 48 → 0 < e % 8 → e % 8 ≤ 4 → e / 8 < 512 → p.st < 2 →
        exec .portUp s = became s (modPortOf c (fun y => if p.st = 0 then { y with lanes := 0, st := 1, peer := e / 8 }
          else if p.lanes = 0 then { y with lanes := e % 8, st := 2, peer := e / 8 } else { y with st := 3 }) d)))
    ∧ (∀ (port ten : Nat) (dst hdr : Word) (payload : Bytes), s.turn = .block port ten dst hdr payload → 2 ≤ (vget d.fleet.ports port {}).st →
      let d1 := modPortOf port (fun y => { y with rxf := y.rxf + BitVec.ofNat 64 (Config.freeNat d.drawn) }) { d with drawn := d.drawn + 1 }
      (∀ (l : Bytes) (loc : Nat) (rd : Bool), openBlock hdr.toNat payload = some l → translate d1 0 ten dst.toNat = .here loc rd true →
        exec .portBlockReceive s = became s (placeBytes d1 peerAgent loc l))
      ∧ (openBlock hdr.toNat payload = none → exec .portBlockReceive s = became s (modPortOf port (fun y =>
        { y with err := BitVec.ofNat 64 (setBits y.err.toNat 32 32 (y.err.toNat / 2 ^ 32 % 2 ^ 32 + 1)) }) d1)))
    ∧ (∀ (dev ten loc : Nat) (va : Word) (op : PeerOp) (rd wr : Bool), s.turn = .peer dev ten va op → (portTo d dev).isSome = true →
      let t := traffic dev d
      translate t 0 ten va.toNat = .here loc rd wr →
      (∀ n, op = .read n → rd = true → exec .peerAccessArrival s = became s (closeSplits peerAgent loc n (touch t loc)))
      ∧ (∀ l, op = .write l → wr = true → exec .peerAccessArrival s = became s (placeBytes t peerAgent loc l))
      ∧ (∀ (o : Nat) (wide : Bool) (y y2 : Word) (sc part : Nat), op = .atomic o wide y y2 sc part → rd = true → wr = true →
        let n := if wide then 8 else 4
        let v := y.toNat % 2 ^ (8 * n)
        let w := y2.toNat % 2 ^ (8 * n)
        (2 ≤ sc ∨ part = 0 → exec .peerAccessArrival s = became s (perform t (.rmw peerAgent 0 0 0 false o loc n v w)))
        ∧ (∀ (l : List (Byte × Bool)) (t2 : Dev), sc < 2 → part = 1 → loadBytes t peerAgent loc n = (some l, t2) →
          exec .peerAccessArrival s = became s { t2 with splits := t2.splits ++
            [{ own := peerAgent, sc := sc, loc := loc, n := n, val := atomNew o n (leNat (plain l)) v w }] })))
    ∧ (∀ (dev : Nat) (o : PeerOut), s.turn = .ack dev .ok → (portTo d dev).isSome = true →
      d.peerOut.find? (fun w => decide (w.dev = dev) && w.data.isSome) = some o → o.agent < 2048 →
      exec .peerWriteAck s = became s ((traffic dev { d with peerOut := d.peerOut.erase o }).modSeq o.agent fun y => { y with unacked := y.unacked - 1 }))

/-- Gangs, ticks, ends, saves, resumes, trap actions, hand-overs and promotions: each step's own effect (01_work_and_placement R13,
04_scalar_control R93, 18_tiers_and_parison R332, 18_tiers_and_parison R334, 18_tiers_and_parison R343, 20_host_and_launch R363,
20_host_and_launch R365, 20_host_and_launch R366, 20_host_and_launch R369, 20_host_and_launch R370, 21_translation_and_faults
R387, 21_translation_and_faults R388). Readings of the model: logs 4, 9, 23, 39, 40, 41, 42, 72 and 74. While the Gaffer runs: a
placed launch's sequencers and units are released together; a tick updates every deficit as R365 says and makes a pass; a
candidate that has waited 10 ms begins to block; a launch whose device node is zero and whose writes have performed ends; a
launch that stands at its safe points is saved and gives up its columns; one that has columns again goes on; a waiting trap, in
its turn among those held, is killed, replayed or parked as the table says; a hand-over request is posted; a promotion raises
GEN. A halting sequencer that has drained reports; a cluster whose node is zero frees what it held. Whether a save or restore
fails is free, but for a state block whose CRC-32C is wrong, which fails the restore. A request below the unit's tier, with
aligned addresses, a number above the last, a generation that exists, a parison and tiles pinned where it is bound, replaces the
pending request of the climbing unit and is listed. Once the unit has gone and the completion record shows a request consumed, a
part bound for the board tier is taken by a free unit with a fresh standing request and runs; one bound for the top starts the
top gang from its parison on columns that fit. The status of the hand-over is kept. Nothing else changes. -/
def Obligations.LaunchStepResults : Prop :=
  (∀ (s : State) (l k : Nat), s.turn = .agent l k → s.dev.fw.gstat = 1 →
      let d := s.dev
      let t := (now d).1
      let d1 := (now d).2
      (∀ x : Launch, d.launch? l = some x → x.st = .placed → x.saved = false → leaderFree d = true →
        let e := (releaseGang x d1).modLaunch l fun x => { x with st := .running, tstart := t }
        (x.node = none → earlierStarted d x.ten x.strm x.seq = true → exec .gangStart s = became s e)
        ∧ (∀ (n j : Nat) (r : Replay), x.node = some (n, j) → e.replays.find? n = some r →
          exec .gangStart s = became s (if r.tstart = 0 ∧ replayStarted e r = true then { e with replays := e.replays.put n { r with tstart := t } } else e)))
      ∧ (let e := (List.range 16).foldl (fun f n => flushEvents n 256 f) (d.replays.foldl (fun f e => tryReplay e.1 f) (killRefused d))
        exec .tick10us s = became s (pass (deficits e))
        ∧ ∀ n < 16, (deficits e).tenant n = { e.tenant n with deficit := deficitAfter e n })
      ∧ (∀ x : Launch, d.launch? l = some x → isCandidate d x = true → x.age + 10000000 ≤ t →
        exec .candidateBlockTimeout s = became s (pass (d1.modLaunch l fun x => { x with blocks := true })))
      ∧ ((d.seq l).run = .halting →
        let f := endStarved l (advance l (ordFuel (d.seq l).ord) d)
        quiet (f.seq l) = true →
        exec .sequencerEndReport s = became s ((f.modLaunch (f.seq l).place.launch fun y =>
            { y with qimb := y.qimb + (imbalances (f.seq l)).1, ovrd := y.ovrd + (imbalances (f.seq l)).2 }).modSeq l fun y =>
          { y with run := .done, cols := .replicate 4 {}, bead := beadReset y.bead, reqs := [], halted := false }))
      ∧ (∀ (x : Launch) (c : LCl), d.launch? l = some x → x.clusters[k]? = some c → c.reported = false → c.away = false → clusterNode d l c = 0 →
        let n := countedLeft (c.seqs.flatMap fun q => (d.seq q).lines) + countedLeft c.blocks
        let e := c.seqs.foldl (leaveColumns l) d
        let f := if c.ctr then e.modCluster c.phys fun y => { y with grant := none } else e
        exec .clusterNodeZero s = became s (endHeld l (f.modLaunch l fun x =>
          { x with undr := x.undr + n, clusters := x.clusters.set k { c with reported := true, maps := .replicate 8 none, full := [], blocks := [] } })))
      ∧ (∀ (x : Launch) (f : Dev), d.launch? l = some x → x.st ≠ .waiting → x.st ≠ .placed → deviceNode x = 0 → x.posts = [] →
        (∀ w ∈ d.peerOut, w.agent ≠ launchAgent l) → mayComplete d (launchAgent l) = true → endLaunch l d = some f →
        exec .launchEnd s = became s (pass (completed (launchAgent l) f)))
      ∧ (∀ x : Launch, d.launch? l = some x → x.st = .saving →
        (∀ q ∈ seqsOf x, atRest (d.seq q) = true) → (∀ u ∈ x.units, (d.unit u).run = .saved) →
        (∀ c ∈ x.clusters, c.reported = true ∨ commandsOf d c.phys l = 0) →
        (∀ r ∈ x.recs, ∀ p ∈ d.placed, overlap (contextLoc d x.ten + r.1) r.2 p.range.2.1 p.range.2.2 = false) →
        (∀ p ∈ mapPages x, translate d p.1 x.ten p.2 ≠ .refused ∧ ∀ f r w, translate d p.1 x.ten p.2 ≠ .absent f r w) →
        exec .contextSave s = became s (if Config.freeNat d.drawn % 4 = 1 then contextFailed l { d with drawn := d.drawn + 1 }
          else pass (saveLaunch l x { d with drawn := d.drawn + 2 })))
      ∧ (∀ x : Launch, d.launch? l = some x → x.st = .placed → x.saved = true →
        let d2 : Dev := { d with drawn := d.drawn + 1 }
        let e := (x.clusters.filter fun c => !c.reported).foldl (fun f c => match c.savedCtr with
          | some v => f.modCluster c.phys fun y => { y with counters := v }
          | none => f) d2
        let f := x.units.foldl (fun f u => f.modUnit u fun y => if y.run = .parked then { y with run := .running } else y) ((seqsOf x).foldl (restoreSeq x) e)
        exec .contextResume s = became s (if Config.freeNat d.drawn % 4 = 1 ∨ blocksSound d2 x = false then contextFailed l d2
          else f.modLaunch l fun x => { x with st := .running, saved := false, ctx := [], nctx := [] }))
      ∧ (∀ w : Waiting, waitingTrap d l = some w → mayComplete d l = true →
        let told (kind : Nat) : Dev := if w.act.testBit 2 then launchEvent (missRecord l d) w.launch kind w.cause w.addr w.sqid else missRecord l d
        (w.act % 4 = 0 → exec .actionKill s = became s (completed l (killLaunch w.launch 0x11 w.cause (told 1))))
        ∧ (w.act % 4 = 1 → exec .actionReplay s = became s (completed l (replayAgent l w.launch w.cause w.count (told 1))))
        ∧ (∀ y : Launch, w.act % 4 = 2 →
          let told2 := if l < 4096 then told 2 else (told 2).modSeq (l - 4096) fun z => { z with missAct := 3 }
          told2.launch? w.launch = some y →
          let ask (r : List ReqKind) : List ReqKind := if r.contains .park then r else r ++ [.park]
          let e := (seqsOf y).foldl (fun f q => f.modSeq q fun z => if q = l then { z with run := .parked }
            else if z.run = .running || z.run = .trapped then { z with reqs := ask z.reqs } else z) told2
          let f := y.units.foldl (fun f u => f.modUnit u fun z => if unitAgent u = l then { z with run := .parked }
            else if z.run = .running || z.run = .trapped then { z with reqs := ask z.reqs } else z) e
          exec .actionPark s = became s (completed l (pass (f.modLaunch w.launch fun z => { z with st := .parked })))))
      ∧ (∀ x : Launch, d.launch? l = some x → x.plan ≠ 0 →
        exec .promotionBatchComplete s = became s ((tput d x.ten (x.plan + 32) 8 (x.gen + 1)).modLaunch l fun x => { x with gen := x.gen + 1 })))
  ∧ (∀ (s : State) (l : Nat) (x : Launch), s.dev.fw.gstat = 1 → s.dev.launch? l = some x →
      let d := s.dev
      (∀ (rq : HandReq) (u : Nat) (o : Obj), s.turn = .hand l rq → x.climb = some u → d.objs.find? x.obj = some o →
        (d.unit u).launch = l → (d.unit u).part = 0 → (d.unit u).run ≠ .absent → (d.unit u).run ≠ .done →
        rq.dest.toNat < unitTier u → rq.dest.toNat ≤ 1 → rq.pa.toNat % 64 = 0 → rq.cw.toNat % 16 = 0 → x.handSeq < rq.seq.toNat → rq.rgen.toNat ≤ x.gen →
        (∀ j < 260, ∃ loc r, translate d 0 x.ten (rq.pa.toNat + 64 * j) = .here loc r true ∧ pinnedHbm d l loc = true) →
        (translate d 0 x.ten rq.cw.toNat).writes = true →
        (∀ i < tget d x.ten (x.plan + 4) 4 - rq.rmin.toNat, ∀ a ∈ Config.tiles o.kid x.parm (rq.rmin.toNat + i), tileAt d l x.ten rq.dest.toNat a = true) →
        exec .handoverRequestPost s = became s ((d.modUnit u fun y => { y with hand := some rq }).modLaunch l fun x =>
          { x with posts := x.posts ++ [rq], handSeq := rq.seq.toNat }))
      ∧ (∀ (k : Nat) (rq : HandReq) (o : Obj), s.turn = .agent l k →
        x.posts.reverse.find? (fun r => decide (r.seq.toNat ≤ tget d x.ten r.cw.toNat 8)) = some rq → d.objs.find? x.obj = some o → x.st = .running →
        (∀ u, x.climb = some u → (d.unit u).launch ≠ l ∨ (d.unit u).part ≠ 0 ∨ (d.unit u).run = .done ∨ (d.unit u).run = .absent) → x.climb ≠ none →
        let status := tget d x.ten (rq.cw.toNat + 8) 8
        let dest := tget d x.ten (rq.pa.toNat + 6) 2 / 4 % 4
        (∀ (u : Nat) (us : List Nat), dest = 1 → freeUnits d 1 = u :: us →
          let n := max x.handSeq rq.seq.toNat + 1
          let st := standing x.ten l n x.gen
          exec .handoverResume s = became s (((takeUnit o l x u ((x.units.filter fun v => decide (v < 512)).length) 0 rq.pa.toNat x.plan (some st) d).modUnit u
            fun y => { y with run := .running }).modLaunch l fun x =>
              { x with climb := some u, posts := [st], handSeq := n - 1, handStatus := x.handStatus ++ [status] }))
        ∧ (∀ (f : List (Nat × List Nat)) (y : Launch), dest ≠ 1 → fit (dieCount d) (roomOf d []) (partition d x.ten).1 (partition d x.ten).2 o.maps = some f →
          let e := takeClusters l o f (d.modLaunch l fun x =>
            { x with hpa := rq.pa.toNat, climb := none, posts := [], handStatus := x.handStatus ++ [status] })
          e.launch? l = some y → exec .handoverResume s = became s (releaseGang y e))))

/-- A stream's reset, index writes and held records, and the CTRL records of R362, R392 and R393 (04_scalar_control R92,
20_host_and_launch R352, 20_host_and_launch R353, 20_host_and_launch R356, 20_host_and_launch R358, 20_host_and_launch R361,
20_host_and_launch R362, 20_host_and_launch R367, 20_host_and_launch R369, 20_host_and_launch R370, 21_translation_and_faults
R392, 21_translation_and_faults R393). While the leader is free: a write of WIX with RST set restarts the stream at that index
with the block's BASE and SIZE, active when R352 accepts them; one without RST on an active or held stream exposes records up to
it, and one that runs back or too far faults the stream with code 3. A stream that waits goes on, its record taken, when the
word meets the condition. A graph patch that waited for a generation is made when a replay has ended. A graph node whose
predecessors have ended well becomes a launch, one with a failed predecessor ends with 0x16. A CTRL record on an item of streams
0 to 7 releases its parked launches, kills the parked ones with the cause that parked them, or kills the item with status 0x17;
one that sets an action writes the table's entry. On a sequencer of the item, attach gives it an owner and asks it to stop,
detach gives it back and lets a stopped one go on, step lets a stopped one issue one bundle, continue lets it go on. A stepped
bundle of a nop that leaves further ones takes the single-step trap, which names them. Each record is taken. Readings of the
model: logs 42, 43, 44 and 71. -/
def Obligations.StreamAndControlResults : Prop :=
  (∀ (s : State) (ten m : Nat), s.turn = .agent ten m → leaderTurn s.dev →
      let d := s.dev
      let x := d.stream ten m
      (∀ (w : Nat) (l : List Nat), x.news = w :: l → streamOn d ten m = true →
        (w / 2 ^ 63 % 2 = 1 →
          let base := gget d (blockLoc d ten m + 16) 8
          let size := gget d (blockLoc d ten m + 24) 1
          exec .streamReset s = became s (putBlock ten m 0 (d.modStream ten m fun y =>
            { y with base := base, size := size, rix := w % 2 ^ 63, wix := w % 2 ^ 63, fcode := 0, state := if blockOk base size then 1 else 0,
                     wait := none, patch := none, news := l, due := false })))
        ∧ (w / 2 ^ 63 % 2 = 0 →
          let e := d.modStream ten m fun y => { y with news := l }
          exec .wixWrite s = became s (if x.state ≠ 1 ∧ x.state ≠ 2 then e
            else if w < x.wix ∨ x.rix + 2 ^ x.size < w then streamFault ten m 3 0 e else e.modStream ten m fun y => { y with wix := w })))
      ∧ (∀ (va v kind loc n : Nat) (wr : Bool), x.wait = some (va, v, kind) → translate d 0 ten va = .here loc true wr → readNow d loc 8 = some n →
        (if kind = 0 then v ≤ n else n ≠ v) →
        exec .waitSatisfied s = became s (pass (takePast ten m 1 (putState ten m ((touch d loc).modStream ten m fun y => { y with wait := none, state := 1 })))))
      ∧ (∀ (r : Rec) (e : Dev), x.patch = some r → patchGraph ten r d = some e →
        exec .gpatchUnblock s = became s (pass (takePast ten m (recLen r) (putState ten m (e.modStream ten m fun y => { y with patch := none, state := 1 })))))
      ∧ (∀ (r : Replay) (g : Graph) (n : GNode), d.replays.find? ten = some r → r.nodes[m]? = some .idle → d.graphs.find? (graphKey r.ten r.gid) = some g →
        g.nodes[m]? = some n → (∀ e ∈ d.replays, e.1 < ten → e.2.ten ≠ r.ten ∨ e.2.gid ≠ r.gid) → earlierStarted d r.ten r.strm r.seq = true →
        (nodeReady r n.dep = some false → exec .graphNodeStart s = became s (tryReplay ten
          { d with replays := d.replays.put ten { r with nodes := r.nodes.set m (.ended 0x16) } }))
        ∧ (nodeReady r n.dep = some true →
          let parm := if n.plen = 0 then 0 else ((g.gens.find? r.gen).map fun x => x.addrs.getD m 0).getD 0
          let obj := r.ten * 4096 + min n.obj 4096 % 4096
          let made := newLaunch r.secc { ten := r.ten, strm := r.strm, seq := r.seq, tag := r.tag, obj := obj, prio := n.prio, diag := n.lfl.testBit 0,
                                         notify := n.lfl.testBit 1, parm := parm, age := r.age, node := some (ten, m) } d
          let e : Dev := { made.2 with replays := made.2.replays.put ten { r with nodes := r.nodes.set m (.runs made.1) } }
          exec .graphNodeStart s = became s (pass (if launchStatus d r.secc r.ten obj n.prio (n.lfl.testBit 0) = 0 then e
            else tryEnd made.1 (replayBegins (now e).1 ten (now e).2))))))
  ∧ (∀ (s : State) (iss : Issue) (j w : Nat) (n : BitVec 14), s.issue = some iss → iss.rest = [(j, w)] → iss.after = none → iss.halt = false →
      iss.watch = none → iss.safe = none → iss.block = [] → (s.dev.seq iss.q).run = .running → (s.dev.seq iss.q).stepMode = true → 0 < n.toNat →
      exec (.nop n) s = .next { s with issue := none, base := {}, dev := nopStepped n.toNat iss.q s.dev })
  ∧ (∀ (s : State) (q k : Nat), nopReady s q true → (s.dev.seq q).nopLeft = k + 1 → 0 < k →
      issueBundle q s = { s with base := {}, dev := nopStepped k q (landDue q s.dev) })
  ∧ (∀ (s : State) (ten m : Nat) (r : Rec), recordTurn s ten m r →
      let d := s.dev
      let f := field r
      let item := itemLaunches d ten (f 9 1) (f 16 8)
      let q := f 24 4
      (f 9 1 ≤ 7 →
        exec .releaseReplay s = recordTaken s ten m r (item.foldl (fun e l => releaseLaunch l e) d)
        ∧ (∀ (l : Nat) (x : Launch) (c : TrapInfo), item = [l] → d.launch? l = some x → x.st = .parked → (seqsOf x).findSome? (fun q => (d.seq q).trap) = some c →
          exec .releaseKill s = recordTaken s ten m r (killLaunch l 0x11 c.cause d))
        ∧ exec .killRec s = recordTaken s ten m r (killItem ten (f 9 1) (f 16 8) 0x17 d)
        ∧ ((∃ l ∈ item, ∃ x, d.launch? l = some x ∧ q ∈ seqsOf x) →
          exec .attach s = recordTaken s ten m r (d.modSeq q fun x =>
            { x with owner := true, reqs := if x.run ≠ .stopped && !x.reqs.contains .stop then x.reqs ++ [.stop] else x.reqs })
          ∧ ((d.seq q).run ≠ .stopped → exec .detach s = recordTaken s ten m r (d.modSeq q fun x =>
            { x with owner := false, reqs := x.reqs.filter (· ≠ .stop) }))
          ∧ (∀ e : Dev, (d.seq q).run = .stopped →
            replaySeq (d.modSeq q fun x => { x with owner := false, reqs := x.reqs.filter (· ≠ .stop) }) q = some e →
            exec .detach s = recordTaken s ten m r e)
          ∧ (∀ e : Dev, (d.seq q).run = .stopped → replaySeq d q = some e →
            exec .stepRec s = recordTaken s ten m r (e.modSeq q fun x => { x with stepMode := decide (x.run = .running) })
            ∧ exec .continueRec s = recordTaken s ten m r e)))
      ∧ (f 11 1 < 8 → f 11 1 % 4 ≠ 3 →
        exec .actionSet s = recordTaken s ten m r (d.modTenant ten fun t => { t with actions := vset t.actions (f 10 1) (BitVec.ofNat 8 (f 11 1)) })))

/-- PAD, LAUNCH, WAIT, REGISTER, GDEF, GRAPH and GPATCH: what a record that its rules accept leaves (20_host_and_launch R354,
20_host_and_launch R355, 20_host_and_launch R356, 20_host_and_launch R357, 20_host_and_launch R358, 20_host_and_launch R359,
20_host_and_launch R360, 20_host_and_launch R361). PAD is taken and does nothing. LAUNCH takes the next item number and makes a
launch that waits to be placed, or ends at once with its status. WAIT holds its stream in STATE 2. REGISTER unloads an object
that no launch uses, or checks an image and places and keeps it, with its status. GDEF keeps a graph whose nodes are in order as
generation 1. GRAPH takes an item number and makes a replay of the current generation. GPATCH makes a new generation, or holds
its stream. RIX goes past a record that is taken, and a pass follows. -/
def Obligations.TenantRecordResults : Prop :=
  ∀ (s : State) (ten m : Nat) (r : Rec), recordTurn s ten m r →
    let d := s.dev
    let f := field r
    exec .padRec s = recordTaken s ten m r d
    ∧ (let d1 := (nextItem ten m d).2
      let d2 := (now d1).2
      let obj := ten * 4096 + min (f 8 4) 4096 % 4096
      let made := newLaunch (codeCounter d2) { ten := ten, strm := m, seq := (d.stream ten m).nseq + 1, tag := f 4 4, obj := obj, prio := f 12 1,
                                               diag := (f 13 1).testBit 0, notify := (f 13 1).testBit 1, parm := f 16 8, stat := f 24 8, age := (now d1).1 } d2
      exec .launch s = recordTaken s ten m r (if launchStatus d2 (codeCounter d2) ten obj (f 12 1) ((f 13 1).testBit 0) = 0 then made.2 else tryEnd made.1 made.2))
    ∧ (f 24 1 ≤ 1 → f 25 39 = 0 → addrOk d ten (f 8 8) 8 false = true →
      exec .waitRec s = recordHeld s ten m (d.modStream ten m fun y => { y with wait := some (f 8 8, f 16 8, f 24 1) }))
    ∧ (1 ≤ f 24 4 → f 24 4 ≤ 4095 → f 29 3 = 0 → f 40 24 = 0 → addrOk d ten (f 32 8) 8 true = true → pagesHere ten [f 32 8] d true = .ok () →
      let key := ten * 4096 + f 24 4
      let answered (e : Dev) (v : Nat) := recordTaken s ten m r (tput e ten (f 32 8) 8 v)
      (f 28 1 = 1 → exec .register s = if (d.objs.find? key) = none then answered d 0x22
        else if ∃ e ∈ d.launches, e.2.obj = key then answered d 0x21 else answered { d with objs := d.objs.erase key } 0)
      ∧ (f 28 1 = 0 → d.objs.find? key = none → 512 ≤ f 16 8 → f 16 8 ≤ 2 ^ 30 → f 8 8 + f 16 8 ≤ 2 ^ 56 → readable d ten (f 8 8) (f 16 8) = true →
        ∀ (b : Bytes) (d1 : Dev), copyIn ten (f 8 8) (f 16 8) d = .ok (b, d1) →
          (loadStatus d1 b ≠ 0 → exec .register s = answered d1 (loadStatus d1 b))
          ∧ (loadStatus d1 b = 0 → pagesHere ten ((placements b).flatMap fun p => pagesOf p.1 p.2.length) d1 true = .ok () →
            let e := (placements b).foldl (fun e p => tputBytes e ten p.1 p.2) d1
            exec .register s = answered { e with objs := e.objs.put key (objOf b) } 0)))
    ∧ (f 8 1 ≠ 0 → f 9 7 = 0 → f 32 32 = 0 → addrOk d ten (f 24 8) 8 true = true → addrOk d ten (f 16 8) 1 false = true →
      pagesHere ten [f 24 8] d true = .ok () → d.graphs.find? (graphKey ten (f 8 1)) = none → readable d ten (f 16 8) 16 = true →
      ∀ (h b : Bytes) (ns : List GNode) (l : List Bytes) (d1 d2 d3 : Dev), copyIn ten (f 16 8) 16 d = .ok (h, d1) →
        let nn := leNat (h.take 2)
        1 ≤ nn → nn ≤ 64 → leNat (h.drop 2) = 0 → readable d1 ten (f 16 8) (16 + 64 * nn) = true →
        copyIn ten (f 16 8) (16 + 64 * nn) d1 = .ok (b, d2) → (List.range nn).mapM (nodeOf b) = some ns →
        (∀ n ∈ ns, readable d2 ten (f 16 8 + n.pofs) (64 * n.plen) = true) → copyParms ten (f 16 8) ns d2 = .ok (l, d3) →
        let g := keepParms ten l d3
        exec .gdef s = recordTaken s ten m r
          (tput { g.2 with graphs := g.2.graphs.put (graphKey ten (f 8 1)) { nodes := ns, gens := [(1, g.1)], cur := 1 } } ten (f 24 8) 8 0))
    ∧ (∀ x : Graph, f 8 1 ≠ 0 → f 9 15 = 0 → f 32 32 = 0 → (f 24 8 ≠ 0 → addrOk d ten (f 24 8) 64 true = true) →
      d.graphs.find? (graphKey ten (f 8 1)) = some x →
      let d1 := (nextItem ten m d).2
      let d2 := (now d1).2
      let y : Replay := { ten := ten, strm := m, seq := (d.stream ten m).nseq + 1, tag := f 4 4, stat := f 24 8, gid := f 8 1, gen := x.cur,
                          nodes := List.replicate x.nodes.length .idle, age := (now d1).1, secc := codeCounter d2 }
      exec .graph s = recordTaken s ten m r { d2 with nextReplay := d.nextReplay + 1, replays := d.replays.put d.nextReplay y })
    ∧ (∀ (x : Graph) (n : GNode), 1 ≤ f 10 2 → f 10 2 ≤ 256 → f 16 48 = 0 → recLen r = 1 + (f 10 2 + 63) / 64 →
      d.graphs.find? (graphKey ten (f 8 1)) = some x → x.nodes[f 9 1]? = some n → f 12 4 + f 10 2 ≤ 64 * n.plen →
      exec .gpatch s = match patchGraph ten r d with
        | some e => recordTaken s ten m r e
        | none => recordHeld s ten m (d.modStream ten m fun y => { y with patch := some r }))

/-- TSET, TKILL, CTXW, PWIN, BIAS, FREE and WMARK: what an accepted admin record leaves (20_host_and_launch R351,
21_translation_and_faults R374, 21_translation_and_faults R377, 21_translation_and_faults R380, 21_translation_and_faults R381,
21_translation_and_faults R382, 21_translation_and_faults R383, 21_translation_and_faults R384, 23_fleet_operations R406). An
accepted TSET activates its tenant with the record's fields, or removes it; TKILL kills every item of its tenant. CTXW sets the
heap, its permissions and the save area and scrubs what no longer belongs to the tenant; PWIN sets or removes a window, and the
frames that a pull window translates to get HOME 6; BIAS begins the flips, FREE the scrubs; WMARK sets a step's marks and pool,
or answers 4. A MEM record with a wrong field answers 1, one that finds a launch resident or a save area live 2, one whose range
meets another's 3, and it changes nothing else. Readings of the model: logs 45, 46, 47 and 50. -/
def Obligations.TenantAndMemoryRecordResults : Prop :=
  ∀ (s : State) (ten m : Nat) (r : Rec), recordTurn s ten m r →
    let d := s.dev
    let f := field r
    let t := d.tenant (f 8 1)
    let k := f 9 1
    let w := d.tenant k
    let stat := f 16 8
    (f 8 1 ≤ 15 → f 10 1 ≤ 3 → f 12 1 ≤ 3 → f 13 3 = 0 → f 44 4 = 0 →
      (f 9 1 = 0 → exec .tset s = recordTaken s ten m r (removeTenant (f 8 1) d))
      ∧ (f 9 1 = 1 → f 11 1 ≠ 0 → f 16 4 < 2 ^ 20 → 6 ≤ f 40 4 → f 40 4 ≤ 16 → partOk d (f 8 1) (f 20 4) = true → f 24 8 % 2 ^ 28 = 0 →
        f 24 8 + 2 ^ 28 ≤ hbmSize d → f 32 8 % 4096 = 0 → f 48 8 % 8 = 0 → f 56 8 % 2 ^ 28 = 0 → f 56 8 < 2 ^ 56 → resident d (f 8 1) = false →
        (∀ c ∈ usedColumns d (f 8 1), f 20 4 % 2 ^ 10 ≤ c ∧ c < f 20 4 % 2 ^ 10 + f 20 4 / 2 ^ 10 % 2 ^ 11) →
        let e := if f 16 4 = t.pasid then d else newContext (f 8 1) d
        exec .tset s = recordTaken s ten m r (Dev.modTenant e (f 8 1) fun t =>
          { t with active := true, pcap := f 10 1, wgt := f 11 1, diagOk := (f 12 1).testBit 0, ctrOk := (f 12 1).testBit 1, pasid := f 16 4, part := f 20 4,
                   sarea := f 24 8, eqa := f 32 8, eqn := f 40 4, eqpi := f 48 8, sava := f 56 8, actions := if t.active then t.actions else startActions })))
    ∧ (f 8 1 ≤ 15 → f 9 55 = 0 → exec .tkill s = recordTaken s ten m r (killTenant (f 8 1) 0x17 d))
    ∧ (k ≤ 15 → f 10 6 = 0 → statOk d stat = true →
      let answered (e : Dev) (v : Nat) := recordTaken s ten m r (putStatus stat v e)
      (spareZero r [(24, 25), (56, 24)] →
        let fits : Prop := f 24 8 % 2 ^ 21 = 0 ∧ f 32 8 % 2 ^ 21 = 0 ∧ f 32 8 ≤ 2 ^ 56 ∧ f 24 8 ≤ f 32 8 ∧ f 40 8 % 2 ^ 21 = 0
          ∧ f 40 8 + (f 32 8 - f 24 8) ≤ hbmSize d ∧ f 48 1 ≤ 3 ∧ f 56 8 % 2 ^ 21 = 0 ∧ f 64 8 % 2 ^ 21 = 0 ∧ 64 * 2 ^ 20 ≤ f 64 8
          ∧ f 56 8 + f 64 8 ≤ hbmSize d ∧ f 72 8 % 2 ^ 21 = 0 ∧ f 72 8 < 2 ^ 56
        let apart (x : Nat × Nat) : Prop := overlap x.1 x.2 (f 40 8) (f 32 8 - f 24 8) = false ∧ overlap x.1 x.2 (f 56 8) (f 64 8) = false
        let may : Prop := resident d k = false
          ∧ (saveLive d k = true → f 56 8 = w.svpa ∧ f 64 8 = w.svlen ∧ overlap (f 40 8) (f 32 8 - f 24 8) w.svpa w.svlen = false)
          ∧ ∀ j < 16, j ≠ k → saveLive d j = true → apart ((d.tenant j).svpa, (d.tenant j).svlen)
        let scrubbed : Prop := ∀ c ∈ d.mmu.scrubs, c.frame = none → apart (c.base, c.len)
        (¬fits → exec .ctxw s = answered d 1)
        ∧ (fits → ¬may → exec .ctxw s = answered d 2)
        ∧ (fits → may → scrubbed → (∃ j < 16, j ≠ k ∧ ∃ x ∈ tenantRanges (d.tenant j), ¬apart x) → exec .ctxw s = answered d 3)
        ∧ (fits → may → scrubbed → (∀ j < 16, j ≠ k → ∀ x ∈ tenantRanges (d.tenant j), apart x) →
          let gone := without w.hofs (w.hlim - w.hbase) (f 40 8) (f 32 8 - f 24 8) ++ without w.svpa w.svlen (f 56 8) (f 64 8)
          exec .ctxw s = recordTaken s ten m r (scrubThen stat (gone.map fun x => { base := x.1, len := x.2, frame := none }) (d.modTenant k fun t =>
            { t with hbase := f 24 8, hlim := f 32 8, hofs := f 40 8, hperm := BitVec.ofNat 2 (f 48 1), svpa := f 56 8, svlen := f 64 8, csva := f 72 8 }))))
      ∧ (spareZero r [(24, 64)] →
        let fits : Prop := f 24 1 ≤ 15 ∧ f 25 1 ≤ 16 ∧ f 26 1 ≤ 1 ∧ f 27 1 ≤ 3 ∧ f 28 4 ≤ 15
          ∧ (∀ j < 16, if j < f 25 1 then f (56 + 2 * j) 2 ≤ 511 else f (56 + 2 * j) 2 = 0)
          ∧ (1 ≤ f 25 1 → f 32 8 % 16384 = 0 ∧ f 40 8 ≠ 0 ∧ f 40 8 % 16384 = 0 ∧ f 32 8 + f 40 8 ≤ 2 ^ 56 ∧ f 48 8 % 4096 = 0)
        let apart : Prop := overlap (f 32 8) (f 40 8) w.hbase (w.hlim - w.hbase) = false
          ∧ ∀ j < 16, j ≠ f 24 1 → ∀ v, vget w.wins j none = some v → overlap (f 32 8) (f 40 8) v.vbase v.vlen = false
        (¬fits → exec .pwin s = answered d 1)
        ∧ (fits → resident d k = true → exec .pwin s = answered d 2)
        ∧ (fits → resident d k = false → 1 ≤ f 25 1 → ¬apart → exec .pwin s = answered d 3)
        ∧ (fits → resident d k = false → f 25 1 = 0 →
          exec .pwin s = answered (d.modTenant k fun t => { t with wins := vset t.wins (f 24 1) none }) 0)
        ∧ (fits → resident d k = false → 1 ≤ f 25 1 → apart → (f 26 1 = 1 → windowKnown d k (f 32 8) (f 40 8) = true) →
          let e := d.modTenant k fun t => { t with wins := vset t.wins (f 24 1) (some
            { np := f 25 1, pull := decide (f 26 1 = 1), rd := (f 27 1).testBit 0, wr := (f 27 1).testBit 1, rctx := f 28 4, vbase := f 32 8, vlen := f 40 8,
              rbase := f 48 8, peers := ((List.range 16).map fun j => f (56 + 2 * j) 2).take (f 25 1) }) }
          exec .pwin s = answered (if f 26 1 = 1 then
            (windowFrames e k (f 32 8) (f 40 8)).foldl (fun g n => g.modFrame n fun x => { x with home := 6, pull := false }) e else e) 0))
      ∧ (let fits : Prop := f 32 4 ≠ 0 ∧ f 32 4 ≤ 2 ^ 20 ∧ f 24 8 + f 32 4 ≤ 2 ^ 28
          ∧ ∀ e ∈ d.mmu.frames, f 24 8 ≤ e.1 → e.1 < f 24 8 + f 32 4 → ∀ o, e.2.owner = some o → o = k
        (spareZero r [(24, 13)] → (¬(fits ∧ f 36 1 ≤ 1) → exec .bias s = answered d 1)
          ∧ (fits → f 36 1 ≤ 1 → exec .bias s = recordTaken s ten m r
            { d with mmu := { d.mmu with flips := some (f 24 8, f 32 4, stat, decide (f 36 1 = 1)) } }))
        ∧ (spareZero r [(24, 12)] → (¬fits → exec .free s = answered d 1)
          ∧ (fits → exec .free s = recordTaken s ten m r (scrubThen stat
            (((d.mmu.frames.filter fun e => decide (f 24 8 ≤ e.1) && decide (e.1 < f 24 8 + f 32 4)).map (·.1)).map fun n =>
              { base := frameLoc n, len := 16384, frame := some n }) d))))
      ∧ (spareZero r [(24, 1), (28, 8), (40, 16)] → k = 0 →
        let fits : Prop := f 24 1 ≤ 3 ∧ f 28 4 < f 32 4 ∧ f 40 8 % 16384 = 0 ∧ f 48 8 % 16384 = 0 ∧ (f 24 1 = 0 ∨ f 24 1 = 3 → f 40 8 = 0 ∧ f 48 8 = 0)
        let e : Dev := { d with drawn := d.drawn + 1 }
        let pools := if f 24 1 = 1 ∨ f 24 1 = 2 then vset d.mmu.pools (f 24 1) (f 40 8, f 48 8) else d.mmu.pools
        (¬fits → exec .wmark s = answered d 1)
        ∧ (fits → exec .wmark s = if f 48 8 ≠ 0 ∧ Config.freeNat d.drawn % 2 = 1 then answered e 4
          else answered { e with mmu := { e.mmu with low := vset d.mmu.low (f 24 1) (f 28 4), high := vset d.mmu.high (f 24 1) (f 32 4), pools := pools } } 0)))

/-- Translations, page requests, ages, moves, pulls, flips and scrubs: each step's own effect (12_ordering_far R266,
21_translation_and_faults R375, 21_translation_and_faults R376, 21_translation_and_faults R377, 21_translation_and_faults R378,
21_translation_and_faults R379, 21_translation_and_faults R380, 21_translation_and_faults R381, 21_translation_and_faults R383,
21_translation_and_faults R384). Readings of the model: logs 19, 48, 49 and 76. A completion for a page that the die holds no
translation of puts its translation into the die's cache and gives an unowned frame its owner; an invalidation takes a range
out. A page request asks the host, or a tier with room takes the frame, or a pull starts. A response lets its request go on,
refuses its page, or stops the tenant's requests until a reset. A tick ages frames not accessed. A step below LOW demotes its
oldest frame; a promotion moves and pins a read-only frame. A pull brings the bytes and the home together, or fails with an
event. A flip changes one frame's bias, a scrub zeroes one range, each once nothing placed or on its way to the host touches it;
their status is written last. No move changes a byte. -/
def Obligations.TranslationStepResults : Prop :=
  ∀ (s : State),
    let d := s.dev
    (∀ (die ten size : Nat) (va : Word) (res : AtsRes), s.turn = .ats die ten va res size → die < dieCount d → ten < 16 →
      let page := va.toNat / 16384
      page < 2 ^ 42 → (ten, page) ∉ d.mmu.refused → (∀ e ∈ d.mmu.tlb, e.die = die → e.covers ten page = true → e.res = .unmapped) →
      let base := alignDown page (2 ^ size)
      let cached (e : Tlb) (f : Tlb → Bool) : Dev := { d with mmu := { d.mmu with tlb := roomInCache die (d.mmu.tlb.filter f) ++ [e] } }
      (∀ (rd wr : Bool) (p : Nat), atsValue d size res = .mapped rd wr p →
        (∀ k < 2 ^ size, ∀ f, frameOf (p + 16384 * k) = some f → scrubbing d f = false) →
        exec .atsCompletion s = became s (watchScan (killRefused (ownFrames ten p (2 ^ size)
          (cached { die := die, ten := ten, page := base, res := .mapped rd wr p, size := size } fun e =>
            !(decide (e.res = .unmapped) && decide (e.ten = ten)
              && (decide (e.die = die) && overlap e.page (2 ^ e.size) base (2 ^ size) || overlap e.page 1 base (2 ^ size))))))))
      ∧ (atsValue d size res = .unmapped →
        exec .atsCompletion s = became s (watchScan (killRefused (cached { die := die, ten := ten, page := page, res := .unmapped, size := 0 }
          fun e => !(decide (e.res = .unmapped) && decide (e.ten = ten) && decide (e.die = die) && overlap e.page (2 ^ e.size) page 1)))))
      ∧ (atsValue d size res = .refused → exec .atsCompletion s = became s (refusePage ten page d)))
    ∧ (∀ (ten : Nat) (lo hi : Word), s.turn = .inval ten lo hi →
      let kept := d.mmu.tlb.filter fun e => !(decide (e.ten = ten) && decide (lo.toNat < (e.page + 2 ^ e.size) * 16384) && decide (e.page * 16384 < hi.toNat))
      let still := d.mmu.refused.filter fun x => !(decide (x.1 = ten) && decide (lo.toNat < (x.2 + 1) * 16384) && decide (x.2 * 16384 < hi.toNat))
      exec .atsInvalidate s = became s { d with mmu := { d.mmu with tlb := kept, refused := still } })
    ∧ (∀ (k j : Nat) (r : PageReq), s.turn = .agent k j → d.mmu.reqs[k]? = some r →
      let done (e : Dev) : Dev := dropUnmapped r.ten r.page (dropRequest r.ten r.page e)
      (pageEntry d r.ten r.page = some .refused ∨ (pageEntry d r.ten r.page = some .unmapped ∧ r.ten ∈ d.mmu.dead) →
        exec .pageRequest s = became s (refusePage r.ten r.page d))
      ∧ (pageEntry d r.ten r.page = some .unmapped → r.ten ∉ d.mmu.dead → r.sent = false → (unmappedReqs d r.ten true).length < 256 →
        (unmappedReqs d r.ten false).head? = some r →
        exec .pageRequest s = became s { d with mmu := { d.mmu with reqs := d.mmu.reqs.set k { r with sent := true } } })
      ∧ (∀ (rd wr : Bool) (p n : Nat), pageEntry d r.ten r.page = some (.mapped rd wr p) → frameOf p = some n →
        ((d.frame n).home ≤ 3 → exec .pageRequest s = became s (done d))
        ∧ ((d.frame n).home = 6 → exec .pageRequest s = became s (d.modFrame n fun x => { x with pull := true }))
        ∧ ((d.frame n).home = 7 → exec .pageRequest s = became s (killRefused (dropRequest r.ten r.page d)))
        ∧ (∀ h, (d.frame n).home = 4 ∨ (d.frame n).home = 5 → placeTier d = some h →
          let e := if (d.frame n).home = 5 then zeroRange (frameLoc n) 16384 d else d
          exec .pageRequest s = became s (done (e.modFrame n fun x => { x with home := h, accessed := true })))))
    ∧ (∀ (ten : Nat) (va : Word) (ans : PriAns) (r : PageReq), s.turn = .pri ten va ans →
      d.mmu.reqs.find? (fun r => decide (r.ten = ten) && decide (r.page = va.toNat / 16384) && r.sent) = some r →
      (ans = .success → 
        let reqs := d.mmu.reqs.map fun x => if x = r then { x with sent := false } else x
        exec .priResponse s = became s (dropEntries ten (va.toNat / 16384) { d with mmu := { d.mmu with reqs := reqs } }))
      ∧ (ans = .invalid → exec .priResponse s = became s (refusePage ten (va.toNat / 16384) d))
      ∧ (ans = .failure →
        let e : Dev := { d with mmu := { d.mmu with dead := insertNat ten d.mmu.dead } }
        let ps := (unmappedReqs e ten true ++ unmappedReqs e ten false).map (·.page)
        exec .priResponse s = became s (ps.foldl (fun e p => refusePage ten p e) e)))
    ∧ (d.fw.gstat = 1 →
      let aged (x : Frame) : Frame := { x with age := if x.accessed then 0 else min 255 (x.age + 1), accessed := false }
      exec .frameAgeTick s = became s { d with mmu := { d.mmu with frames := d.mmu.frames.map fun e => (e.1, aged e.2) } })
    ∧ (∀ (a f : Nat), s.turn = .agent a f →
      exec .priReset s = became s { d with mmu := { d.mmu with dead := d.mmu.dead.filter fun x => decide (x ≠ a) } }
      ∧ (∀ n h : Nat, a < 4 → (freeFrames d a < lowMark d a ∨ (vget d.mmu.demoting a false = true ∧ freeFrames d a < highMark d a)) → victimFrame d a = some n → demoteTier d a = some h →
        (h ≤ 3 → 0 < freeFrames d h) →
        let e := d.modFrame n fun x => { x with home := h }
        exec .frameMove s = became s { e with mmu := { e.mmu with demoting := vset e.mmu.demoting a (decide (freeFrames e a < highMark e a)) } })
      ∧ (∀ x : Launch, 16 ≤ a → d.launch? ((a - 16) / 2) = some x → x.plan ≠ 0 → x.st = .running → a % 2 ≤ (d.frame f).home → (d.frame f).home ≤ 4 →
        (d.frame f).owner = some x.ten → readOnlyFrame d x.ten f = true → scrubbing d f = false →
        ((d.frame f).home ≠ a % 2 → 0 < freeFrames d (a % 2) ∧ ∀ p ∈ (d.frame f).pins, p = (a - 16) / 2) →
        exec .frameMove s = became s (d.modFrame f fun y =>
          { y with home := a % 2, pins := if (a - 16) / 2 ∈ y.pins then y.pins else y.pins ++ [(a - 16) / 2] }))
      ∧ ((d.frame a).home = 6 → (d.frame a).pull = true →
        let e := killRefused (d.modFrame a fun x => { x with home := 7, pull := false })
        exec .pullFail s = became s (match (d.frame a).owner with
          | some ten => postEvent e ten { kind := 6, strm := 0, cause := 0x27, tag := 0, seq := a, rc := 0, sqid := 0x3FF }
          | none => e)))
    ∧ (∀ (f h : Nat) (data : Bytes), s.turn = .pull f data → placeTier d = some h → (d.frame f).home = 6 → (d.frame f).pull = true → data.length = 16384 →
      exec .pullComplete s = became s (place (d.modFrame f fun x => { x with home := h, pull := false }) (.row peerAgent (frameLoc f) data false)))
    ∧ (∀ (f n stat : Nat) (dev : Bool), d.mmu.flips = some (f, n, stat, dev) → placedIn d (frameLoc f) 16384 = false → farIn d (frameLoc f) 16384 = false →
      let e := d.modFrame f fun x => { x with devBias := dev }
      exec .biasFlip s = became s (if n ≤ 1 then putStatus stat 0 { e with mmu := { e.mmu with flips := none } }
        else { e with mmu := { e.mmu with flips := some (f + 1, n - 1, stat, dev) } }))
    ∧ (∀ (c : Scrub) (l : List Scrub), d.mmu.scrubs = c :: l → placedIn d c.base c.len = false → farIn d c.base c.len = false →
      let e := dropLoose c.base c.len (dropUnits c.base c.len d)
      let g := match c.frame with
        | some f => { dropFrameEntries f e with mmu := { (dropFrameEntries f e).mmu with frames := (dropFrameEntries f e).mmu.frames.erase f } }
        | none => e
      let z := zeroRange c.base c.len { g with mmu := { g.mmu with scrubs := l } }
      exec .frameScrub s = became s (match c.stat with | some (a, v) => gput z a 8 v | none => z))

/-- FWUP, the check unit, the slot switch, its heartbeat and its rollback, and reset (20_host_and_launch R348,
22_program_firmware_update R394, 22_program_firmware_update R396, 22_program_firmware_update R398, 22_program_firmware_update
R400, 22_program_firmware_update R401, 22_program_firmware_update R402, 22_program_firmware_update R403,
22_program_firmware_update R404, 23_fleet_operations R411, 23_fleet_operations R416). Readings of the model: logs 4, 13, 51, 52,
57 and 78. An accepted FWUP, with no status awaited, starts the leader's routine. A landed fchk starts its check once the core's
earlier operations have performed; the check installs an image that passes in the idle slot and writes STAT last. A landed fsw
brings in what the leader left in flight; once nothing of a control core waits, the switch saves the control cores, changes the
slot, counts and boots the new image (both cores of every pair where UNPROT comes into force), the Gaffer not running. Only the
right value of fhb is kept; that heartbeat lets the Gaffer run again and writes 0 to STAT. A timeout before it rolls back. Reset
keeps the form, fuses, firmware slots and host memory, and the Gaffer runs; after a power loss ADMA, the RAS byte, the limits
and the update count start afresh. -/
def Obligations.FirmwareStepResults : Prop :=
  (∀ (s : State) (ten m : Nat) (r : Rec), recordTurn s ten m r →
    let d := s.dev
    let f := field r
    f 16 8 % 4096 = 0 → 65536 ≤ f 16 8 → f 16 8 ≤ 2 ^ 24 → 1 ≤ f 32 4 → f 32 4 ≤ 10000 → f 36 4 = 0 → f 48 16 = 0 → f 112 16 = 0 →
    f 8 8 % 4096 = 0 → f 8 8 + f 16 8 ≤ hbmSize d → f 24 8 % 4096 = 0 → f 24 8 + 4096 ≤ hbmSize d → f 40 8 % 8 = 0 → physOk d (f 40 8) 8 = true →
    ∀ (loc : Nat) (rd wr : Bool), physWay d (Config.fwStore 0) = .here loc rd wr →
    let e := placeBytes d gafferAgent loc (streamList d)
    let g := e.setSeq leaderSeq (controlSeq (Config.updateEntry (vget e.fw.slots e.fw.act [])) (streamByte d ten m (d.stream ten m).rix) (Config.fwStore 0))
    statusPending d = false → exec .fwup s = recordTaken s ten m r { g with fw := { g.fw with updating := true, stat := f 40 8 } })
  ∧ (∀ s : State,
    let d := s.dev
    (∀ (q a limit : Nat) (asg : List Nat), d.fw.pendChk = some (q, a, limit, asg) → settledBefore d q limit asg = true →
      exec .fchkWrite s = became s { d with fw := { d.fw with pendChk := none, checking := some (d.fw.checking.getD a) } })
    ∧ (∀ a : Nat, d.fw.checking = some a →
      let n := gget d (a + 16) 8
      let dig := ggetBytes d (a + 64) 48
      let b := ggetBytes d (gget d (a + 8) 8) (min n (2 ^ 24))
      let v := checkStatus d n dig b
      let e : Dev := { d with fw := { d.fw with checking := none } }
      exec .firmwareCheckComplete s = became s (gput (if v = 1 then { e with fw := { e.fw with
          slots := vset d.fw.slots (1 - d.fw.act) b, meas := vset d.fw.meas (1 - d.fw.act) dig, chk := true } } else e) (gget d (a + 40) 8) 8 v))
    ∧ (∀ (q : Nat) (x : Seq), List.find? (fun e : Nat × Seq => decide (1024 ≤ e.1) && e.2.pend.any fun w => decide (w.tgt = .sysreg 0x63)) d.seqs = some (q, x) →
      exec .fswWrite s = became s (landAll q 32 d))
    ∧ (∀ (q : Nat) (v : Word), d.fw.pendFsw = some (q, v) →
      settledBefore d q (d.seq q).opCtr ((d.seq q).cols.toList.map (·.sdAsg)) = true → (d.seq q).unacked = 0 →
      d.fw.pendChk = none → (∀ p ∈ d.placed, p.range.1 < 1024 ∨ 2048 ≤ p.range.1) → (∀ x ∈ d.splits, x.own < 1024 ∨ 2048 ≤ x.own) →
      let slot := v.toNat / 2 ^ 16 % 2
      let pairs := (List.range (pairCount d)).filter fun k => !d.fleet.failed.getLsbD k
      let qs := (List.range (if d.fleet.unprotNext then 2 * pairCount d else pairs.length)).map (1024 + ·)
      let rest : Tab Seq := d.seqs.filter fun e => decide (e.1 < 1024)
      let cores : Tab Seq := d.seqs.filter fun e => decide (1024 ≤ e.1)
      exec .slotSwitch s = became s
        { d with seqs := qs.foldl (fun (t : Tab Seq) k => t.put k (controlSeq (Config.bootEntry (vget d.fw.slots slot [])) 0 0)) rest,
                 fw := { d.fw with act := slot, ucnt := d.fw.ucnt + 1, rbkFlag := false, chk := false, gstat := 2, pendFsw := none, pendFhb := none,
                                   switching := some (d.fw.act, cores), oldUnprot := d.fleet.unprot },
                 fleet := { d.fleet with unprot := d.fleet.unprotNext } })
    ∧ (∀ v : Word, d.fw.pendFhb = some v →
      let rest : Tab Seq := d.seqs.filter fun x => decide (x.1 < 1024)
      let g := stopCores { d with fw := { d.fw with pendFhb := none, switching := none, gstat := 1, updating := false } }
      (d.placed = [] → g.seqs = rest) ∧ exec .fhbWrite s = became s (pass (gput g d.fw.stat 8 0)))
    ∧ (∀ (q : Nat) (v : Word), landSysreg q 0x64 v d =
        { d with fw := { d.fw with pendFhb := if d.fw.switching.isSome ∧ v.toNat % 2 ^ 32 = d.fw.ucnt % 2 ^ 32 then some v else d.fw.pendFhb } })
    ∧ (d.fw.switching ≠ none → d.fw.pendFhb = none → exec .heartbeatTimeout s = became s (switchBack d))
    ∧ (∃ e : Dev, exec .reset s = .next { s with issue := none, base := {}, dev := e }
      ∧ e.fw.gstat = 1 ∧ e.form = d.form ∧ e.seqs = [] ∧ e.clusters = [] ∧ e.near = [] ∧ e.streams = [] ∧ e.objs = [] ∧ e.graphs = [] ∧ e.launches = []
      ∧ e.replays = [] ∧ e.placed = [] ∧ e.poison = [] ∧ e.mmu = {} ∧ e.tenants = .replicate 17 {} ∧ e.adma = (if d.fleet.off then 0 else d.adma)
      ∧ (∀ a, e.mem.get a = if hostLoc ≤ a ∧ a < gafferLoc ∧ d.mem.wf = true then d.mem.get a else if d.mem.wf = true then 0 else e.mem.get a)
      ∧ e.fleet.secc = d.fleet.secc ∧ e.fleet.fwsc = d.fleet.fwsc ∧ e.fleet.keys = d.fleet.keys ∧ e.fleet.unprot = (!d.fleet.off && d.fleet.unprotNext) ∧ e.fleet.lowv = (!d.fleet.off && d.fleet.lowv) ∧ e.fleet.off = false
      ∧ e.fw.act = d.fw.act ∧ e.fw.slots = d.fw.slots ∧ e.fw.meas = d.fw.meas
      ∧ e.fleet.plim = (if d.fleet.off then 1500 else d.fleet.plim) ∧ e.fleet.twarn = (if d.fleet.off then 95 else d.fleet.twarn)
      ∧ e.fw.ucnt = (if d.fleet.off then 0 else d.fw.ucnt)))

/-- FLEET records, the power arbiter, the monitors, the L2's modes and lockstep (23_fleet_operations R405, 23_fleet_operations R409,
23_fleet_operations R410, 23_fleet_operations R411, 23_fleet_operations R412, 23_fleet_operations R413, 23_fleet_operations
R414, 23_fleet_operations R415, 23_fleet_operations R416, 23_fleet_operations R417, 23_fleet_operations R419,
23_fleet_operations R420). Readings of the model: logs 4, 52, 53 and 79. A FLEET record whose reserved bytes are zero and whose
status address exists is taken and its status written. POWER sets the limits when each is in its range, else answers 1. RAS
keeps UNPROT for the next start of the Gaffer and sets LOWV. ADVANCE blows the next word of a counter with a value above its
reading, answers 1 for one that is not and 2 when the 256 words are used. KEYADD fills an empty slot, KEYREV revokes a filled
one, else 1 and nothing changes. An arbiter step takes its readings and their events. Over the limit, the die that draws most
goes 25 MHz down, and so does each die above TWARN; under 95 % of the limit and none warm, the lowest grant goes 25 up; a die at
TCRIT runs at 400. Throttle reasons and their event follow, and then each die's rail. The droop detector sets and clears its
reason. TCRIT lowers the die with an event; shutdown takes the power. A rail below VTH puts the L2 into its stronger mode, a
recovered one takes it back, each change with an event. A pair's mismatch is counted and re-run; a second one in the same task
fails the pair. -/
def Obligations.FleetResults : Prop :=
  (∀ (s : State) (ten m : Nat) (r : Rec), recordTurn s ten m r → field r 9 7 = 0 → statOk s.dev (field r 16 8) = true →
      let d := s.dev
      let f := field r
      let answered (e : Fleet) (v : Nat) := recordTaken s ten m r (putStatus (f 16 8) v { d with fleet := e })
      (spareZero r [(24, 5)] → exec .power s =
        if 300 ≤ f 24 2 ∧ f 24 2 ≤ 1500 ∧ (if d.form = .m640 then 400 ≤ f 26 2 ∧ f 26 2 ≤ 2000 else f 26 2 = 0) ∧ 60 ≤ f 28 1 ∧ f 28 1 ≤ 95
        then answered { d.fleet with plim := f 24 2, mlim := f 26 2, twarn := f 28 1 } 0 else answered d.fleet 1)
      ∧ (spareZero r [(24, 1)] → exec .ras s =
        if f 24 1 ≤ 3 then answered { d.fleet with unprotNext := (f 24 1).testBit 0, lowv := (f 24 1).testBit 1 } 0 else answered d.fleet 1)
      ∧ (spareZero r [(24, 1), (32, 8)] → f 24 1 ≤ 1 →
        let l := if f 24 1 = 0 then d.fleet.secc else d.fleet.fwsc
        exec .advance s =
          if f 32 8 ≤ l.foldl max 0 then answered d.fleet 1 else if 256 ≤ l.length then answered d.fleet 2
          else answered (if f 24 1 = 0 then { d.fleet with secc := l ++ [f 32 8] } else { d.fleet with fwsc := l ++ [f 32 8] }) 0)
      ∧ (spareZero r [(24, 1), (32, 8)] → 1 < f 24 1 → exec .advance s = answered d.fleet 1)
      ∧ (let x := vget d.fleet.keys (f 25 1) {}
        (spareZero r [(24, 2), (32, 48)] → exec .keyadd s =
          if f 24 1 = 0 ∧ f 25 1 ≤ 7 ∧ x.digest = none
          then answered { d.fleet with keys := vset d.fleet.keys (f 25 1) { x with digest := some (toLe 48 (f 32 48)) } } 0 else answered d.fleet 1)
        ∧ (spareZero r [(24, 2)] → exec .keyrev s =
          if f 24 1 = 0 ∧ f 25 1 ≤ 7 ∧ x.digest ≠ none
          then answered { d.fleet with keys := vset d.fleet.keys (f 25 1) { x with revoked := true } } 0 else answered d.fleet 1)))
  ∧ (∀ (s : State),
      let d := s.dev
      (∀ x : Sensors, s.turn = .sensors x →
        let dies := List.range (dieCount d)
        let a := dies.foldl (readDie x) { d with fleet := { d.fleet with pkg := x.pkg, mod := x.mod } }
        let lim := powerLimit a x
        let warm := dies.filter fun k => decide (8 * (a.fleet.twarn : Int) < (dieOfFleet a k).temp)
        let down (k : Nat) (e : Dev) : Dev := modDie k (fun y => { y with grant := max 400 (y.grant - 25) }) e
        let b := if lim < (x.pkg : Int) ∨ warm ≠ [] then
            warm.foldl (fun e k => down k e)
              (match firstDie dies (fun i j => decide (x.diePower.getD j 0 < x.diePower.getD i 0)) with | some k => down k a | none => a)
          else if 20 * (x.pkg : Int) < 19 * lim then
            (match firstDie dies (fun i j => decide ((dieOfFleet a i).grant < (dieOfFleet a j).grant)) with
              | some k => modDie k (fun y => { y with grant := min 1000 (y.grant + 25) }) a | none => a)
          else a
        let c := dies.foldl (fun e k => modDie k (fun y => if y.tcrit then { y with grant := 400 } else y) e) b
        let g := dies.foldl (fun e k => modDie k (fun y => { y with reasons := reasonsOf e x k y }) e) c
        exec .powerArbiterStep s = became s (dies.foldl railStep
          (if 19 * lim ≤ 20 * (x.pkg : Int) ∧ (∃ k ∈ dies, (dieOfFleet g k).grant < 1000) then fleetEvent 2 g else g)))
      ∧ (∀ (k j : Nat), s.turn = .agent k j →
        (k < dieCount d →
          exec .droopStretch s = became s (modDie k (fun y => { y with reasons := y.reasons ||| 16#5 }) d)
          ∧ exec .droopEnd s = became s (modDie k (fun y => { y with reasons := y.reasons &&& 15#5 }) d)
          ∧ ((dieOfFleet d k).tcrit = false →
            exec .tcritReached s = became s (fleetEvent 1 (modDie k (fun y => { y with tcrit := true, grant := 400, reasons := y.reasons ||| 8#5 }) d)))
          ∧ exec .thermalShutdown s = became s { d with fleet := { d.fleet with off := true } }
          ∧ exec .sramRailBelowVth s = became s
            (let e := modDie k (fun y => { y with sram := Config.freeNat d.drawn % Config.vth k }) { d with drawn := d.drawn + 1 }
             if (dieOfFleet e k).decTed then e else fleetEvent 3 (modDie k (fun y => { y with decTed := true }) e))
          ∧ ((dieOfFleet d k).decTed = true → Config.vth k + 20 < (dieOfFleet d k).sram →
            exec .railRecoveryTimeout s = became s (fleetEvent 3 (modDie k (fun y => { y with decTed := false }) d))))
        ∧ (k < pairCount d → d.fleet.failed.getLsbD k = false → d.fleet.unprot = false →
          let e := fleetEvent 4 d
          let f : Dev := { e with drawn := d.drawn + 1 }
          exec .lockstepMismatch s = became s (if d.fleet.retried.getLsbD k = true ∧ Config.freeNat d.drawn % 2 = 1 then failPair k f
            else { f with fleet := { f.fleet with retried := f.fleet.retried ||| BitVec.ofNat 16 (2 ^ k) } }))))

/-- The host's windows, CXL.mem accesses, BAR0 registers and measurements (12_ordering_far R265, 20_host_and_launch R348,
20_host_and_launch R349, 20_host_and_launch R350, 20_host_and_launch R353, 20_host_and_launch R371, 21_translation_and_faults
R391, 23_fleet_operations R412, 23_fleet_operations R421). Readings of the model: logs 4, 19, 55, 59 and 78. A host write
through a window takes its place where the window leads; events that waited for EVCI leave. A host read returns the bytes at its
place, or a BAR0 register: here the Gaffer's status, the power, fuse and event words and a tenant's partition. A write of BAR0
changes nothing outside an MSI-X table, which keeps it. A CXL.mem access to a host address behind which memory is here reads or
writes at its place; at the host's own memory no watchpoint sees the write. A measurement request returns its block. Nothing
else changes. -/
def Obligations.HostStepResults : Prop :=
  ∀ (s : State),
    let d := s.dev
    (∀ (fn off loc : Nat) (data : Bytes), s.turn = .hostWrite fn off data → windowLoc d fn off data.length = some loc →
      let e := placeBytes d hostAgent loc data
      exec .hostWindowWrite s = became s ((List.range 16).foldl (fun g t =>
        if (g.tenant t).active && overlap loc data.length ((g.tenant t).sarea + 0x200) 8 then flushEvents t 256 g else g) e))
    ∧ (∀ (fn off n : Nat), s.turn = .hostRead fn off n →
      (∀ (loc : Nat) (b : List (Byte × Bool)) (e : Dev), fn ≤ 16 → windowLoc d fn off n = some loc → loadBytes d hostAgent loc n = (some b, e) →
        exec .hostWindowRead s = became s { e with hostRead := b.map (·.1) })
      ∧ (fn = 48 → n = 8 →
        let answers (v : Nat) : Prop := exec .hostWindowRead s = became s { d with hostRead := toLe 8 v }
        (off = 0x10 → answers (d.fw.gstat + 4 * d.fw.act))
        ∧ (off = 0x18 → answers d.adma)
        ∧ (off = 0x100 → answers d.fleet.pkg)
        ∧ (off = 0x110 → answers (d.fleet.plim + 2 ^ 16 * d.fleet.mlim + 2 ^ 32 * d.fleet.twarn))
        ∧ (off = 0x180 → answers (d.fleet.secc.foldl max 0))
        ∧ (off = 0x188 → answers (d.fleet.fwsc.foldl max 0))
        ∧ (∀ k < 8, off = 0x200 + 8 * k → answers (vget d.fleet.events k 0))
        ∧ (∀ k < 16, off = 0x280 + 8 * k → answers ((d.tenant k).part + 2 ^ 32 * (if (d.tenant k).active then 1 else 0))))
      ∧ (32 ≤ fn → fn < 48 → off = 0 → n = 8 → exec .hostWindowRead s =
        became s { d with hostRead := toLe 8 ((fn - 32) + 2 ^ 8 * (if (d.tenant (fn - 32)).active then 1 else 0)) }))
    ∧ (∀ (fn off : Nat) (data : Bytes), s.turn = .hostWrite fn off data →
      (fn < 32 ∨ 48 < fn ∨ (∀ i < data.length, inTable (fn - 32) (off + i) = false) → exec .bar0Write s = .next s)
      ∧ (∀ b : Byte, 32 ≤ fn → fn ≤ 48 → data = [b] → inTable (fn - 32) off = true →
        (fn - 32) * 256 + (off - msixBase (fn - 32)) / 16 ∉ d.msixPend →
        exec .bar0Write s = became s { d with msix := d.msix.put ((fn - 32) * 65536 + off) b }))
    ∧ (∀ (a loc n : Nat) (acc : HostAcc), s.turn = .cxl a acc → resultLoc d a n = some loc →
      (∀ f, frameOf loc = some f → (d.frame f).home ≤ 3 ∧ loc % 16384 + n ≤ 16384) →
      (∀ (b : List (Byte × Bool)) (e : Dev), acc = .read n → loadBytes d hostAgent loc n = (some b, e) →
        exec .hostCxlMemAccess s = became s { e with hostRead := b.map (·.1) })
      ∧ (∀ l : Bytes, acc = .write l → l.length = n →
        exec .hostCxlMemAccess s = became s (if hostBias d loc then place d (.row hostAgent loc l false) else placeBytes d hostAgent loc l)))
    ∧ (∀ (k j : Nat), s.turn = .agent k j → k ≤ 4 → exec .spdmGetMeasurements s = became s { d with hostRead := measurement d k }
      ∧ (k = 1 → measurement d k = vget d.fw.meas 0 []) ∧ (k = 2 → measurement d k = vget d.fw.meas 1 []))
end

