-- ==== Sys2Proof/Laws/State.lean ====
section
/-! SUPPORT. One lemma per field per update of the state: what an update of one part leaves of every other part. -/

namespace Sys2Proof.Machine

/-! ### Dev.setSeq -/

@[simp] theorem Dev.setSeq_form (d : Dev) (q : Nat) (x : Seq) : (d.setSeq q x).form = d.form := rfl
@[simp] theorem Dev.setSeq_mem (d : Dev) (q : Nat) (x : Seq) : (d.setSeq q x).mem = d.mem := rfl
@[simp] theorem Dev.setSeq_poison (d : Dev) (q : Nat) (x : Seq) : (d.setSeq q x).poison = d.poison := rfl
@[simp] theorem Dev.setSeq_placed (d : Dev) (q : Nat) (x : Seq) : (d.setSeq q x).placed = d.placed := rfl
@[simp] theorem Dev.setSeq_splits (d : Dev) (q : Nat) (x : Seq) : (d.setSeq q x).splits = d.splits := rfl
@[simp] theorem Dev.setSeq_peerOut (d : Dev) (q : Nat) (x : Seq) : (d.setSeq q x).peerOut = d.peerOut := rfl
@[simp] theorem Dev.setSeq_clusters (d : Dev) (q : Nat) (x : Seq) : (d.setSeq q x).clusters = d.clusters := rfl
@[simp] theorem Dev.setSeq_near (d : Dev) (q : Nat) (x : Seq) : (d.setSeq q x).near = d.near := rfl
@[simp] theorem Dev.setSeq_tenants (d : Dev) (q : Nat) (x : Seq) : (d.setSeq q x).tenants = d.tenants := rfl
@[simp] theorem Dev.setSeq_streams (d : Dev) (q : Nat) (x : Seq) : (d.setSeq q x).streams = d.streams := rfl
@[simp] theorem Dev.setSeq_objs (d : Dev) (q : Nat) (x : Seq) : (d.setSeq q x).objs = d.objs := rfl
@[simp] theorem Dev.setSeq_graphs (d : Dev) (q : Nat) (x : Seq) : (d.setSeq q x).graphs = d.graphs := rfl
@[simp] theorem Dev.setSeq_launches (d : Dev) (q : Nat) (x : Seq) : (d.setSeq q x).launches = d.launches := rfl
@[simp] theorem Dev.setSeq_replays (d : Dev) (q : Nat) (x : Seq) : (d.setSeq q x).replays = d.replays := rfl
@[simp] theorem Dev.setSeq_nextReplay (d : Dev) (q : Nat) (x : Seq) : (d.setSeq q x).nextReplay = d.nextReplay := rfl
@[simp] theorem Dev.setSeq_nextLaunch (d : Dev) (q : Nat) (x : Seq) : (d.setSeq q x).nextLaunch = d.nextLaunch := rfl
@[simp] theorem Dev.setSeq_nextUnit (d : Dev) (q : Nat) (x : Seq) : (d.setSeq q x).nextUnit = d.nextUnit := rfl
@[simp] theorem Dev.setSeq_mmu (d : Dev) (q : Nat) (x : Seq) : (d.setSeq q x).mmu = d.mmu := rfl
@[simp] theorem Dev.setSeq_fw (d : Dev) (q : Nat) (x : Seq) : (d.setSeq q x).fw = d.fw := rfl
@[simp] theorem Dev.setSeq_fleet (d : Dev) (q : Nat) (x : Seq) : (d.setSeq q x).fleet = d.fleet := rfl
@[simp] theorem Dev.setSeq_adma (d : Dev) (q : Nat) (x : Seq) : (d.setSeq q x).adma = d.adma := rfl
@[simp] theorem Dev.setSeq_msix (d : Dev) (q : Nat) (x : Seq) : (d.setSeq q x).msix = d.msix := rfl
@[simp] theorem Dev.setSeq_msixPend (d : Dev) (q : Nat) (x : Seq) : (d.setSeq q x).msixPend = d.msixPend := rfl
@[simp] theorem Dev.setSeq_bar2 (d : Dev) (q : Nat) (x : Seq) : (d.setSeq q x).bar2 = d.bar2 := rfl
@[simp] theorem Dev.setSeq_hdm0 (d : Dev) (q : Nat) (x : Seq) : (d.setSeq q x).hdm0 = d.hdm0 := rfl
@[simp] theorem Dev.setSeq_hdm1 (d : Dev) (q : Nat) (x : Seq) : (d.setSeq q x).hdm1 = d.hdm1 := rfl
@[simp] theorem Dev.setSeq_dtime (d : Dev) (q : Nat) (x : Seq) : (d.setSeq q x).dtime = d.dtime := rfl
@[simp] theorem Dev.setSeq_drawn (d : Dev) (q : Nat) (x : Seq) : (d.setSeq q x).drawn = d.drawn := rfl
@[simp] theorem Dev.setSeq_hostRead (d : Dev) (q : Nat) (x : Seq) : (d.setSeq q x).hostRead = d.hostRead := rfl

/-! ### Dev.modSeq -/

@[simp] theorem Dev.modSeq_form (d : Dev) (q : Nat) (f : Seq → Seq) : (d.modSeq q f).form = d.form := rfl
@[simp] theorem Dev.modSeq_mem (d : Dev) (q : Nat) (f : Seq → Seq) : (d.modSeq q f).mem = d.mem := rfl
@[simp] theorem Dev.modSeq_poison (d : Dev) (q : Nat) (f : Seq → Seq) : (d.modSeq q f).poison = d.poison := rfl
@[simp] theorem Dev.modSeq_placed (d : Dev) (q : Nat) (f : Seq → Seq) : (d.modSeq q f).placed = d.placed := rfl
@[simp] theorem Dev.modSeq_splits (d : Dev) (q : Nat) (f : Seq → Seq) : (d.modSeq q f).splits = d.splits := rfl
@[simp] theorem Dev.modSeq_peerOut (d : Dev) (q : Nat) (f : Seq → Seq) : (d.modSeq q f).peerOut = d.peerOut := rfl
@[simp] theorem Dev.modSeq_clusters (d : Dev) (q : Nat) (f : Seq → Seq) : (d.modSeq q f).clusters = d.clusters := rfl
@[simp] theorem Dev.modSeq_near (d : Dev) (q : Nat) (f : Seq → Seq) : (d.modSeq q f).near = d.near := rfl
@[simp] theorem Dev.modSeq_tenants (d : Dev) (q : Nat) (f : Seq → Seq) : (d.modSeq q f).tenants = d.tenants := rfl
@[simp] theorem Dev.modSeq_streams (d : Dev) (q : Nat) (f : Seq → Seq) : (d.modSeq q f).streams = d.streams := rfl
@[simp] theorem Dev.modSeq_objs (d : Dev) (q : Nat) (f : Seq → Seq) : (d.modSeq q f).objs = d.objs := rfl
@[simp] theorem Dev.modSeq_graphs (d : Dev) (q : Nat) (f : Seq → Seq) : (d.modSeq q f).graphs = d.graphs := rfl
@[simp] theorem Dev.modSeq_launches (d : Dev) (q : Nat) (f : Seq → Seq) : (d.modSeq q f).launches = d.launches := rfl
@[simp] theorem Dev.modSeq_replays (d : Dev) (q : Nat) (f : Seq → Seq) : (d.modSeq q f).replays = d.replays := rfl
@[simp] theorem Dev.modSeq_nextReplay (d : Dev) (q : Nat) (f : Seq → Seq) : (d.modSeq q f).nextReplay = d.nextReplay := rfl
@[simp] theorem Dev.modSeq_nextLaunch (d : Dev) (q : Nat) (f : Seq → Seq) : (d.modSeq q f).nextLaunch = d.nextLaunch := rfl
@[simp] theorem Dev.modSeq_nextUnit (d : Dev) (q : Nat) (f : Seq → Seq) : (d.modSeq q f).nextUnit = d.nextUnit := rfl
@[simp] theorem Dev.modSeq_mmu (d : Dev) (q : Nat) (f : Seq → Seq) : (d.modSeq q f).mmu = d.mmu := rfl
@[simp] theorem Dev.modSeq_fw (d : Dev) (q : Nat) (f : Seq → Seq) : (d.modSeq q f).fw = d.fw := rfl
@[simp] theorem Dev.modSeq_fleet (d : Dev) (q : Nat) (f : Seq → Seq) : (d.modSeq q f).fleet = d.fleet := rfl
@[simp] theorem Dev.modSeq_adma (d : Dev) (q : Nat) (f : Seq → Seq) : (d.modSeq q f).adma = d.adma := rfl
@[simp] theorem Dev.modSeq_msix (d : Dev) (q : Nat) (f : Seq → Seq) : (d.modSeq q f).msix = d.msix := rfl
@[simp] theorem Dev.modSeq_msixPend (d : Dev) (q : Nat) (f : Seq → Seq) : (d.modSeq q f).msixPend = d.msixPend := rfl
@[simp] theorem Dev.modSeq_bar2 (d : Dev) (q : Nat) (f : Seq → Seq) : (d.modSeq q f).bar2 = d.bar2 := rfl
@[simp] theorem Dev.modSeq_hdm0 (d : Dev) (q : Nat) (f : Seq → Seq) : (d.modSeq q f).hdm0 = d.hdm0 := rfl
@[simp] theorem Dev.modSeq_hdm1 (d : Dev) (q : Nat) (f : Seq → Seq) : (d.modSeq q f).hdm1 = d.hdm1 := rfl
@[simp] theorem Dev.modSeq_dtime (d : Dev) (q : Nat) (f : Seq → Seq) : (d.modSeq q f).dtime = d.dtime := rfl
@[simp] theorem Dev.modSeq_drawn (d : Dev) (q : Nat) (f : Seq → Seq) : (d.modSeq q f).drawn = d.drawn := rfl
@[simp] theorem Dev.modSeq_hostRead (d : Dev) (q : Nat) (f : Seq → Seq) : (d.modSeq q f).hostRead = d.hostRead := rfl

/-! ### Dev.modCluster -/

@[simp] theorem Dev.modCluster_form (d : Dev) (c : Nat) (f : Cluster → Cluster) : (d.modCluster c f).form = d.form := rfl
@[simp] theorem Dev.modCluster_mem (d : Dev) (c : Nat) (f : Cluster → Cluster) : (d.modCluster c f).mem = d.mem := rfl
@[simp] theorem Dev.modCluster_poison (d : Dev) (c : Nat) (f : Cluster → Cluster) : (d.modCluster c f).poison = d.poison := rfl
@[simp] theorem Dev.modCluster_placed (d : Dev) (c : Nat) (f : Cluster → Cluster) : (d.modCluster c f).placed = d.placed := rfl
@[simp] theorem Dev.modCluster_splits (d : Dev) (c : Nat) (f : Cluster → Cluster) : (d.modCluster c f).splits = d.splits := rfl
@[simp] theorem Dev.modCluster_peerOut (d : Dev) (c : Nat) (f : Cluster → Cluster) : (d.modCluster c f).peerOut = d.peerOut := rfl
@[simp] theorem Dev.modCluster_seqs (d : Dev) (c : Nat) (f : Cluster → Cluster) : (d.modCluster c f).seqs = d.seqs := rfl
@[simp] theorem Dev.modCluster_near (d : Dev) (c : Nat) (f : Cluster → Cluster) : (d.modCluster c f).near = d.near := rfl
@[simp] theorem Dev.modCluster_tenants (d : Dev) (c : Nat) (f : Cluster → Cluster) : (d.modCluster c f).tenants = d.tenants := rfl
@[simp] theorem Dev.modCluster_streams (d : Dev) (c : Nat) (f : Cluster → Cluster) : (d.modCluster c f).streams = d.streams := rfl
@[simp] theorem Dev.modCluster_objs (d : Dev) (c : Nat) (f : Cluster → Cluster) : (d.modCluster c f).objs = d.objs := rfl
@[simp] theorem Dev.modCluster_graphs (d : Dev) (c : Nat) (f : Cluster → Cluster) : (d.modCluster c f).graphs = d.graphs := rfl
@[simp] theorem Dev.modCluster_launches (d : Dev) (c : Nat) (f : Cluster → Cluster) : (d.modCluster c f).launches = d.launches := rfl
@[simp] theorem Dev.modCluster_replays (d : Dev) (c : Nat) (f : Cluster → Cluster) : (d.modCluster c f).replays = d.replays := rfl
@[simp] theorem Dev.modCluster_nextReplay (d : Dev) (c : Nat) (f : Cluster → Cluster) : (d.modCluster c f).nextReplay = d.nextReplay := rfl
@[simp] theorem Dev.modCluster_nextLaunch (d : Dev) (c : Nat) (f : Cluster → Cluster) : (d.modCluster c f).nextLaunch = d.nextLaunch := rfl
@[simp] theorem Dev.modCluster_nextUnit (d : Dev) (c : Nat) (f : Cluster → Cluster) : (d.modCluster c f).nextUnit = d.nextUnit := rfl
@[simp] theorem Dev.modCluster_mmu (d : Dev) (c : Nat) (f : Cluster → Cluster) : (d.modCluster c f).mmu = d.mmu := rfl
@[simp] theorem Dev.modCluster_fw (d : Dev) (c : Nat) (f : Cluster → Cluster) : (d.modCluster c f).fw = d.fw := rfl
@[simp] theorem Dev.modCluster_fleet (d : Dev) (c : Nat) (f : Cluster → Cluster) : (d.modCluster c f).fleet = d.fleet := rfl
@[simp] theorem Dev.modCluster_adma (d : Dev) (c : Nat) (f : Cluster → Cluster) : (d.modCluster c f).adma = d.adma := rfl
@[simp] theorem Dev.modCluster_msix (d : Dev) (c : Nat) (f : Cluster → Cluster) : (d.modCluster c f).msix = d.msix := rfl
@[simp] theorem Dev.modCluster_msixPend (d : Dev) (c : Nat) (f : Cluster → Cluster) : (d.modCluster c f).msixPend = d.msixPend := rfl
@[simp] theorem Dev.modCluster_bar2 (d : Dev) (c : Nat) (f : Cluster → Cluster) : (d.modCluster c f).bar2 = d.bar2 := rfl
@[simp] theorem Dev.modCluster_hdm0 (d : Dev) (c : Nat) (f : Cluster → Cluster) : (d.modCluster c f).hdm0 = d.hdm0 := rfl
@[simp] theorem Dev.modCluster_hdm1 (d : Dev) (c : Nat) (f : Cluster → Cluster) : (d.modCluster c f).hdm1 = d.hdm1 := rfl
@[simp] theorem Dev.modCluster_dtime (d : Dev) (c : Nat) (f : Cluster → Cluster) : (d.modCluster c f).dtime = d.dtime := rfl
@[simp] theorem Dev.modCluster_drawn (d : Dev) (c : Nat) (f : Cluster → Cluster) : (d.modCluster c f).drawn = d.drawn := rfl
@[simp] theorem Dev.modCluster_hostRead (d : Dev) (c : Nat) (f : Cluster → Cluster) : (d.modCluster c f).hostRead = d.hostRead := rfl

/-! ### Dev.modUnit -/

@[simp] theorem Dev.modUnit_form (d : Dev) (u : Nat) (f : Near → Near) : (d.modUnit u f).form = d.form := rfl
@[simp] theorem Dev.modUnit_mem (d : Dev) (u : Nat) (f : Near → Near) : (d.modUnit u f).mem = d.mem := rfl
@[simp] theorem Dev.modUnit_poison (d : Dev) (u : Nat) (f : Near → Near) : (d.modUnit u f).poison = d.poison := rfl
@[simp] theorem Dev.modUnit_placed (d : Dev) (u : Nat) (f : Near → Near) : (d.modUnit u f).placed = d.placed := rfl
@[simp] theorem Dev.modUnit_splits (d : Dev) (u : Nat) (f : Near → Near) : (d.modUnit u f).splits = d.splits := rfl
@[simp] theorem Dev.modUnit_peerOut (d : Dev) (u : Nat) (f : Near → Near) : (d.modUnit u f).peerOut = d.peerOut := rfl
@[simp] theorem Dev.modUnit_seqs (d : Dev) (u : Nat) (f : Near → Near) : (d.modUnit u f).seqs = d.seqs := rfl
@[simp] theorem Dev.modUnit_clusters (d : Dev) (u : Nat) (f : Near → Near) : (d.modUnit u f).clusters = d.clusters := rfl
@[simp] theorem Dev.modUnit_tenants (d : Dev) (u : Nat) (f : Near → Near) : (d.modUnit u f).tenants = d.tenants := rfl
@[simp] theorem Dev.modUnit_streams (d : Dev) (u : Nat) (f : Near → Near) : (d.modUnit u f).streams = d.streams := rfl
@[simp] theorem Dev.modUnit_objs (d : Dev) (u : Nat) (f : Near → Near) : (d.modUnit u f).objs = d.objs := rfl
@[simp] theorem Dev.modUnit_graphs (d : Dev) (u : Nat) (f : Near → Near) : (d.modUnit u f).graphs = d.graphs := rfl
@[simp] theorem Dev.modUnit_launches (d : Dev) (u : Nat) (f : Near → Near) : (d.modUnit u f).launches = d.launches := rfl
@[simp] theorem Dev.modUnit_replays (d : Dev) (u : Nat) (f : Near → Near) : (d.modUnit u f).replays = d.replays := rfl
@[simp] theorem Dev.modUnit_nextReplay (d : Dev) (u : Nat) (f : Near → Near) : (d.modUnit u f).nextReplay = d.nextReplay := rfl
@[simp] theorem Dev.modUnit_nextLaunch (d : Dev) (u : Nat) (f : Near → Near) : (d.modUnit u f).nextLaunch = d.nextLaunch := rfl
@[simp] theorem Dev.modUnit_nextUnit (d : Dev) (u : Nat) (f : Near → Near) : (d.modUnit u f).nextUnit = d.nextUnit := rfl
@[simp] theorem Dev.modUnit_mmu (d : Dev) (u : Nat) (f : Near → Near) : (d.modUnit u f).mmu = d.mmu := rfl
@[simp] theorem Dev.modUnit_fw (d : Dev) (u : Nat) (f : Near → Near) : (d.modUnit u f).fw = d.fw := rfl
@[simp] theorem Dev.modUnit_fleet (d : Dev) (u : Nat) (f : Near → Near) : (d.modUnit u f).fleet = d.fleet := rfl
@[simp] theorem Dev.modUnit_adma (d : Dev) (u : Nat) (f : Near → Near) : (d.modUnit u f).adma = d.adma := rfl
@[simp] theorem Dev.modUnit_msix (d : Dev) (u : Nat) (f : Near → Near) : (d.modUnit u f).msix = d.msix := rfl
@[simp] theorem Dev.modUnit_msixPend (d : Dev) (u : Nat) (f : Near → Near) : (d.modUnit u f).msixPend = d.msixPend := rfl
@[simp] theorem Dev.modUnit_bar2 (d : Dev) (u : Nat) (f : Near → Near) : (d.modUnit u f).bar2 = d.bar2 := rfl
@[simp] theorem Dev.modUnit_hdm0 (d : Dev) (u : Nat) (f : Near → Near) : (d.modUnit u f).hdm0 = d.hdm0 := rfl
@[simp] theorem Dev.modUnit_hdm1 (d : Dev) (u : Nat) (f : Near → Near) : (d.modUnit u f).hdm1 = d.hdm1 := rfl
@[simp] theorem Dev.modUnit_dtime (d : Dev) (u : Nat) (f : Near → Near) : (d.modUnit u f).dtime = d.dtime := rfl
@[simp] theorem Dev.modUnit_drawn (d : Dev) (u : Nat) (f : Near → Near) : (d.modUnit u f).drawn = d.drawn := rfl
@[simp] theorem Dev.modUnit_hostRead (d : Dev) (u : Nat) (f : Near → Near) : (d.modUnit u f).hostRead = d.hostRead := rfl

/-! ### Dev.modTenant -/

@[simp] theorem Dev.modTenant_form (d : Dev) (t : Nat) (f : Tenant → Tenant) : (d.modTenant t f).form = d.form := rfl
@[simp] theorem Dev.modTenant_mem (d : Dev) (t : Nat) (f : Tenant → Tenant) : (d.modTenant t f).mem = d.mem := rfl
@[simp] theorem Dev.modTenant_poison (d : Dev) (t : Nat) (f : Tenant → Tenant) : (d.modTenant t f).poison = d.poison := rfl
@[simp] theorem Dev.modTenant_placed (d : Dev) (t : Nat) (f : Tenant → Tenant) : (d.modTenant t f).placed = d.placed := rfl
@[simp] theorem Dev.modTenant_splits (d : Dev) (t : Nat) (f : Tenant → Tenant) : (d.modTenant t f).splits = d.splits := rfl
@[simp] theorem Dev.modTenant_peerOut (d : Dev) (t : Nat) (f : Tenant → Tenant) : (d.modTenant t f).peerOut = d.peerOut := rfl
@[simp] theorem Dev.modTenant_seqs (d : Dev) (t : Nat) (f : Tenant → Tenant) : (d.modTenant t f).seqs = d.seqs := rfl
@[simp] theorem Dev.modTenant_clusters (d : Dev) (t : Nat) (f : Tenant → Tenant) : (d.modTenant t f).clusters = d.clusters := rfl
@[simp] theorem Dev.modTenant_near (d : Dev) (t : Nat) (f : Tenant → Tenant) : (d.modTenant t f).near = d.near := rfl
@[simp] theorem Dev.modTenant_streams (d : Dev) (t : Nat) (f : Tenant → Tenant) : (d.modTenant t f).streams = d.streams := rfl
@[simp] theorem Dev.modTenant_objs (d : Dev) (t : Nat) (f : Tenant → Tenant) : (d.modTenant t f).objs = d.objs := rfl
@[simp] theorem Dev.modTenant_graphs (d : Dev) (t : Nat) (f : Tenant → Tenant) : (d.modTenant t f).graphs = d.graphs := rfl
@[simp] theorem Dev.modTenant_launches (d : Dev) (t : Nat) (f : Tenant → Tenant) : (d.modTenant t f).launches = d.launches := rfl
@[simp] theorem Dev.modTenant_replays (d : Dev) (t : Nat) (f : Tenant → Tenant) : (d.modTenant t f).replays = d.replays := rfl
@[simp] theorem Dev.modTenant_nextReplay (d : Dev) (t : Nat) (f : Tenant → Tenant) : (d.modTenant t f).nextReplay = d.nextReplay := rfl
@[simp] theorem Dev.modTenant_nextLaunch (d : Dev) (t : Nat) (f : Tenant → Tenant) : (d.modTenant t f).nextLaunch = d.nextLaunch := rfl
@[simp] theorem Dev.modTenant_nextUnit (d : Dev) (t : Nat) (f : Tenant → Tenant) : (d.modTenant t f).nextUnit = d.nextUnit := rfl
@[simp] theorem Dev.modTenant_mmu (d : Dev) (t : Nat) (f : Tenant → Tenant) : (d.modTenant t f).mmu = d.mmu := rfl
@[simp] theorem Dev.modTenant_fw (d : Dev) (t : Nat) (f : Tenant → Tenant) : (d.modTenant t f).fw = d.fw := rfl
@[simp] theorem Dev.modTenant_fleet (d : Dev) (t : Nat) (f : Tenant → Tenant) : (d.modTenant t f).fleet = d.fleet := rfl
@[simp] theorem Dev.modTenant_adma (d : Dev) (t : Nat) (f : Tenant → Tenant) : (d.modTenant t f).adma = d.adma := rfl
@[simp] theorem Dev.modTenant_msix (d : Dev) (t : Nat) (f : Tenant → Tenant) : (d.modTenant t f).msix = d.msix := rfl
@[simp] theorem Dev.modTenant_msixPend (d : Dev) (t : Nat) (f : Tenant → Tenant) : (d.modTenant t f).msixPend = d.msixPend := rfl
@[simp] theorem Dev.modTenant_bar2 (d : Dev) (t : Nat) (f : Tenant → Tenant) : (d.modTenant t f).bar2 = d.bar2 := rfl
@[simp] theorem Dev.modTenant_hdm0 (d : Dev) (t : Nat) (f : Tenant → Tenant) : (d.modTenant t f).hdm0 = d.hdm0 := rfl
@[simp] theorem Dev.modTenant_hdm1 (d : Dev) (t : Nat) (f : Tenant → Tenant) : (d.modTenant t f).hdm1 = d.hdm1 := rfl
@[simp] theorem Dev.modTenant_dtime (d : Dev) (t : Nat) (f : Tenant → Tenant) : (d.modTenant t f).dtime = d.dtime := rfl
@[simp] theorem Dev.modTenant_drawn (d : Dev) (t : Nat) (f : Tenant → Tenant) : (d.modTenant t f).drawn = d.drawn := rfl
@[simp] theorem Dev.modTenant_hostRead (d : Dev) (t : Nat) (f : Tenant → Tenant) : (d.modTenant t f).hostRead = d.hostRead := rfl

/-! ### Dev.modFrame -/

@[simp] theorem Dev.modFrame_form (d : Dev) (n : Nat) (f : Frame → Frame) : (d.modFrame n f).form = d.form := rfl
@[simp] theorem Dev.modFrame_mem (d : Dev) (n : Nat) (f : Frame → Frame) : (d.modFrame n f).mem = d.mem := rfl
@[simp] theorem Dev.modFrame_poison (d : Dev) (n : Nat) (f : Frame → Frame) : (d.modFrame n f).poison = d.poison := rfl
@[simp] theorem Dev.modFrame_placed (d : Dev) (n : Nat) (f : Frame → Frame) : (d.modFrame n f).placed = d.placed := rfl
@[simp] theorem Dev.modFrame_splits (d : Dev) (n : Nat) (f : Frame → Frame) : (d.modFrame n f).splits = d.splits := rfl
@[simp] theorem Dev.modFrame_peerOut (d : Dev) (n : Nat) (f : Frame → Frame) : (d.modFrame n f).peerOut = d.peerOut := rfl
@[simp] theorem Dev.modFrame_seqs (d : Dev) (n : Nat) (f : Frame → Frame) : (d.modFrame n f).seqs = d.seqs := rfl
@[simp] theorem Dev.modFrame_clusters (d : Dev) (n : Nat) (f : Frame → Frame) : (d.modFrame n f).clusters = d.clusters := rfl
@[simp] theorem Dev.modFrame_near (d : Dev) (n : Nat) (f : Frame → Frame) : (d.modFrame n f).near = d.near := rfl
@[simp] theorem Dev.modFrame_tenants (d : Dev) (n : Nat) (f : Frame → Frame) : (d.modFrame n f).tenants = d.tenants := rfl
@[simp] theorem Dev.modFrame_streams (d : Dev) (n : Nat) (f : Frame → Frame) : (d.modFrame n f).streams = d.streams := rfl
@[simp] theorem Dev.modFrame_objs (d : Dev) (n : Nat) (f : Frame → Frame) : (d.modFrame n f).objs = d.objs := rfl
@[simp] theorem Dev.modFrame_graphs (d : Dev) (n : Nat) (f : Frame → Frame) : (d.modFrame n f).graphs = d.graphs := rfl
@[simp] theorem Dev.modFrame_launches (d : Dev) (n : Nat) (f : Frame → Frame) : (d.modFrame n f).launches = d.launches := rfl
@[simp] theorem Dev.modFrame_replays (d : Dev) (n : Nat) (f : Frame → Frame) : (d.modFrame n f).replays = d.replays := rfl
@[simp] theorem Dev.modFrame_nextReplay (d : Dev) (n : Nat) (f : Frame → Frame) : (d.modFrame n f).nextReplay = d.nextReplay := rfl
@[simp] theorem Dev.modFrame_nextLaunch (d : Dev) (n : Nat) (f : Frame → Frame) : (d.modFrame n f).nextLaunch = d.nextLaunch := rfl
@[simp] theorem Dev.modFrame_nextUnit (d : Dev) (n : Nat) (f : Frame → Frame) : (d.modFrame n f).nextUnit = d.nextUnit := rfl
@[simp] theorem Dev.modFrame_fw (d : Dev) (n : Nat) (f : Frame → Frame) : (d.modFrame n f).fw = d.fw := rfl
@[simp] theorem Dev.modFrame_fleet (d : Dev) (n : Nat) (f : Frame → Frame) : (d.modFrame n f).fleet = d.fleet := rfl
@[simp] theorem Dev.modFrame_adma (d : Dev) (n : Nat) (f : Frame → Frame) : (d.modFrame n f).adma = d.adma := rfl
@[simp] theorem Dev.modFrame_msix (d : Dev) (n : Nat) (f : Frame → Frame) : (d.modFrame n f).msix = d.msix := rfl
@[simp] theorem Dev.modFrame_msixPend (d : Dev) (n : Nat) (f : Frame → Frame) : (d.modFrame n f).msixPend = d.msixPend := rfl
@[simp] theorem Dev.modFrame_bar2 (d : Dev) (n : Nat) (f : Frame → Frame) : (d.modFrame n f).bar2 = d.bar2 := rfl
@[simp] theorem Dev.modFrame_hdm0 (d : Dev) (n : Nat) (f : Frame → Frame) : (d.modFrame n f).hdm0 = d.hdm0 := rfl
@[simp] theorem Dev.modFrame_hdm1 (d : Dev) (n : Nat) (f : Frame → Frame) : (d.modFrame n f).hdm1 = d.hdm1 := rfl
@[simp] theorem Dev.modFrame_dtime (d : Dev) (n : Nat) (f : Frame → Frame) : (d.modFrame n f).dtime = d.dtime := rfl
@[simp] theorem Dev.modFrame_drawn (d : Dev) (n : Nat) (f : Frame → Frame) : (d.modFrame n f).drawn = d.drawn := rfl
@[simp] theorem Dev.modFrame_hostRead (d : Dev) (n : Nat) (f : Frame → Frame) : (d.modFrame n f).hostRead = d.hostRead := rfl

/-! ### Dev.modStream -/

@[simp] theorem Dev.modStream_form (d : Dev) (t m : Nat) (f : Strm8 → Strm8) : (d.modStream t m f).form = d.form := rfl
@[simp] theorem Dev.modStream_mem (d : Dev) (t m : Nat) (f : Strm8 → Strm8) : (d.modStream t m f).mem = d.mem := rfl
@[simp] theorem Dev.modStream_poison (d : Dev) (t m : Nat) (f : Strm8 → Strm8) : (d.modStream t m f).poison = d.poison := rfl
@[simp] theorem Dev.modStream_placed (d : Dev) (t m : Nat) (f : Strm8 → Strm8) : (d.modStream t m f).placed = d.placed := rfl
@[simp] theorem Dev.modStream_splits (d : Dev) (t m : Nat) (f : Strm8 → Strm8) : (d.modStream t m f).splits = d.splits := rfl
@[simp] theorem Dev.modStream_peerOut (d : Dev) (t m : Nat) (f : Strm8 → Strm8) : (d.modStream t m f).peerOut = d.peerOut := rfl
@[simp] theorem Dev.modStream_seqs (d : Dev) (t m : Nat) (f : Strm8 → Strm8) : (d.modStream t m f).seqs = d.seqs := rfl
@[simp] theorem Dev.modStream_clusters (d : Dev) (t m : Nat) (f : Strm8 → Strm8) : (d.modStream t m f).clusters = d.clusters := rfl
@[simp] theorem Dev.modStream_near (d : Dev) (t m : Nat) (f : Strm8 → Strm8) : (d.modStream t m f).near = d.near := rfl
@[simp] theorem Dev.modStream_tenants (d : Dev) (t m : Nat) (f : Strm8 → Strm8) : (d.modStream t m f).tenants = d.tenants := rfl
@[simp] theorem Dev.modStream_objs (d : Dev) (t m : Nat) (f : Strm8 → Strm8) : (d.modStream t m f).objs = d.objs := rfl
@[simp] theorem Dev.modStream_graphs (d : Dev) (t m : Nat) (f : Strm8 → Strm8) : (d.modStream t m f).graphs = d.graphs := rfl
@[simp] theorem Dev.modStream_launches (d : Dev) (t m : Nat) (f : Strm8 → Strm8) : (d.modStream t m f).launches = d.launches := rfl
@[simp] theorem Dev.modStream_replays (d : Dev) (t m : Nat) (f : Strm8 → Strm8) : (d.modStream t m f).replays = d.replays := rfl
@[simp] theorem Dev.modStream_nextReplay (d : Dev) (t m : Nat) (f : Strm8 → Strm8) : (d.modStream t m f).nextReplay = d.nextReplay := rfl
@[simp] theorem Dev.modStream_nextLaunch (d : Dev) (t m : Nat) (f : Strm8 → Strm8) : (d.modStream t m f).nextLaunch = d.nextLaunch := rfl
@[simp] theorem Dev.modStream_nextUnit (d : Dev) (t m : Nat) (f : Strm8 → Strm8) : (d.modStream t m f).nextUnit = d.nextUnit := rfl
@[simp] theorem Dev.modStream_mmu (d : Dev) (t m : Nat) (f : Strm8 → Strm8) : (d.modStream t m f).mmu = d.mmu := rfl
@[simp] theorem Dev.modStream_fw (d : Dev) (t m : Nat) (f : Strm8 → Strm8) : (d.modStream t m f).fw = d.fw := rfl
@[simp] theorem Dev.modStream_fleet (d : Dev) (t m : Nat) (f : Strm8 → Strm8) : (d.modStream t m f).fleet = d.fleet := rfl
@[simp] theorem Dev.modStream_adma (d : Dev) (t m : Nat) (f : Strm8 → Strm8) : (d.modStream t m f).adma = d.adma := rfl
@[simp] theorem Dev.modStream_msix (d : Dev) (t m : Nat) (f : Strm8 → Strm8) : (d.modStream t m f).msix = d.msix := rfl
@[simp] theorem Dev.modStream_msixPend (d : Dev) (t m : Nat) (f : Strm8 → Strm8) : (d.modStream t m f).msixPend = d.msixPend := rfl
@[simp] theorem Dev.modStream_bar2 (d : Dev) (t m : Nat) (f : Strm8 → Strm8) : (d.modStream t m f).bar2 = d.bar2 := rfl
@[simp] theorem Dev.modStream_hdm0 (d : Dev) (t m : Nat) (f : Strm8 → Strm8) : (d.modStream t m f).hdm0 = d.hdm0 := rfl
@[simp] theorem Dev.modStream_hdm1 (d : Dev) (t m : Nat) (f : Strm8 → Strm8) : (d.modStream t m f).hdm1 = d.hdm1 := rfl
@[simp] theorem Dev.modStream_dtime (d : Dev) (t m : Nat) (f : Strm8 → Strm8) : (d.modStream t m f).dtime = d.dtime := rfl
@[simp] theorem Dev.modStream_drawn (d : Dev) (t m : Nat) (f : Strm8 → Strm8) : (d.modStream t m f).drawn = d.drawn := rfl
@[simp] theorem Dev.modStream_hostRead (d : Dev) (t m : Nat) (f : Strm8 → Strm8) : (d.modStream t m f).hostRead = d.hostRead := rfl

/-! ### Dev.modLaunch -/

@[simp] theorem Dev.modLaunch_form (d : Dev) (l : Nat) (f : Launch → Launch) : (d.modLaunch l f).form = d.form := by
  unfold Dev.modLaunch; split <;> rfl
@[simp] theorem Dev.modLaunch_mem (d : Dev) (l : Nat) (f : Launch → Launch) : (d.modLaunch l f).mem = d.mem := by
  unfold Dev.modLaunch; split <;> rfl
@[simp] theorem Dev.modLaunch_poison (d : Dev) (l : Nat) (f : Launch → Launch) : (d.modLaunch l f).poison = d.poison := by
  unfold Dev.modLaunch; split <;> rfl
@[simp] theorem Dev.modLaunch_placed (d : Dev) (l : Nat) (f : Launch → Launch) : (d.modLaunch l f).placed = d.placed := by
  unfold Dev.modLaunch; split <;> rfl
@[simp] theorem Dev.modLaunch_splits (d : Dev) (l : Nat) (f : Launch → Launch) : (d.modLaunch l f).splits = d.splits := by
  unfold Dev.modLaunch; split <;> rfl
@[simp] theorem Dev.modLaunch_peerOut (d : Dev) (l : Nat) (f : Launch → Launch) : (d.modLaunch l f).peerOut = d.peerOut := by
  unfold Dev.modLaunch; split <;> rfl
@[simp] theorem Dev.modLaunch_seqs (d : Dev) (l : Nat) (f : Launch → Launch) : (d.modLaunch l f).seqs = d.seqs := by
  unfold Dev.modLaunch; split <;> rfl
@[simp] theorem Dev.modLaunch_clusters (d : Dev) (l : Nat) (f : Launch → Launch) : (d.modLaunch l f).clusters = d.clusters := by
  unfold Dev.modLaunch; split <;> rfl
@[simp] theorem Dev.modLaunch_near (d : Dev) (l : Nat) (f : Launch → Launch) : (d.modLaunch l f).near = d.near := by
  unfold Dev.modLaunch; split <;> rfl
@[simp] theorem Dev.modLaunch_tenants (d : Dev) (l : Nat) (f : Launch → Launch) : (d.modLaunch l f).tenants = d.tenants := by
  unfold Dev.modLaunch; split <;> rfl
@[simp] theorem Dev.modLaunch_streams (d : Dev) (l : Nat) (f : Launch → Launch) : (d.modLaunch l f).streams = d.streams := by
  unfold Dev.modLaunch; split <;> rfl
@[simp] theorem Dev.modLaunch_objs (d : Dev) (l : Nat) (f : Launch → Launch) : (d.modLaunch l f).objs = d.objs := by
  unfold Dev.modLaunch; split <;> rfl
@[simp] theorem Dev.modLaunch_graphs (d : Dev) (l : Nat) (f : Launch → Launch) : (d.modLaunch l f).graphs = d.graphs := by
  unfold Dev.modLaunch; split <;> rfl
@[simp] theorem Dev.modLaunch_replays (d : Dev) (l : Nat) (f : Launch → Launch) : (d.modLaunch l f).replays = d.replays := by
  unfold Dev.modLaunch; split <;> rfl
@[simp] theorem Dev.modLaunch_nextReplay (d : Dev) (l : Nat) (f : Launch → Launch) : (d.modLaunch l f).nextReplay = d.nextReplay := by
  unfold Dev.modLaunch; split <;> rfl
@[simp] theorem Dev.modLaunch_nextLaunch (d : Dev) (l : Nat) (f : Launch → Launch) : (d.modLaunch l f).nextLaunch = d.nextLaunch := by
  unfold Dev.modLaunch; split <;> rfl
@[simp] theorem Dev.modLaunch_nextUnit (d : Dev) (l : Nat) (f : Launch → Launch) : (d.modLaunch l f).nextUnit = d.nextUnit := by
  unfold Dev.modLaunch; split <;> rfl
@[simp] theorem Dev.modLaunch_mmu (d : Dev) (l : Nat) (f : Launch → Launch) : (d.modLaunch l f).mmu = d.mmu := by
  unfold Dev.modLaunch; split <;> rfl
@[simp] theorem Dev.modLaunch_fw (d : Dev) (l : Nat) (f : Launch → Launch) : (d.modLaunch l f).fw = d.fw := by
  unfold Dev.modLaunch; split <;> rfl
@[simp] theorem Dev.modLaunch_fleet (d : Dev) (l : Nat) (f : Launch → Launch) : (d.modLaunch l f).fleet = d.fleet := by
  unfold Dev.modLaunch; split <;> rfl
@[simp] theorem Dev.modLaunch_adma (d : Dev) (l : Nat) (f : Launch → Launch) : (d.modLaunch l f).adma = d.adma := by
  unfold Dev.modLaunch; split <;> rfl
@[simp] theorem Dev.modLaunch_msix (d : Dev) (l : Nat) (f : Launch → Launch) : (d.modLaunch l f).msix = d.msix := by
  unfold Dev.modLaunch; split <;> rfl
@[simp] theorem Dev.modLaunch_msixPend (d : Dev) (l : Nat) (f : Launch → Launch) : (d.modLaunch l f).msixPend = d.msixPend := by
  unfold Dev.modLaunch; split <;> rfl
@[simp] theorem Dev.modLaunch_bar2 (d : Dev) (l : Nat) (f : Launch → Launch) : (d.modLaunch l f).bar2 = d.bar2 := by
  unfold Dev.modLaunch; split <;> rfl
@[simp] theorem Dev.modLaunch_hdm0 (d : Dev) (l : Nat) (f : Launch → Launch) : (d.modLaunch l f).hdm0 = d.hdm0 := by
  unfold Dev.modLaunch; split <;> rfl
@[simp] theorem Dev.modLaunch_hdm1 (d : Dev) (l : Nat) (f : Launch → Launch) : (d.modLaunch l f).hdm1 = d.hdm1 := by
  unfold Dev.modLaunch; split <;> rfl
@[simp] theorem Dev.modLaunch_dtime (d : Dev) (l : Nat) (f : Launch → Launch) : (d.modLaunch l f).dtime = d.dtime := by
  unfold Dev.modLaunch; split <;> rfl
@[simp] theorem Dev.modLaunch_drawn (d : Dev) (l : Nat) (f : Launch → Launch) : (d.modLaunch l f).drawn = d.drawn := by
  unfold Dev.modLaunch; split <;> rfl
@[simp] theorem Dev.modLaunch_hostRead (d : Dev) (l : Nat) (f : Launch → Launch) : (d.modLaunch l f).hostRead = d.hostRead := by
  unfold Dev.modLaunch; split <;> rfl

/-! ### Dev.draw -/

@[simp] theorem Dev.draw_form (d : Dev) : d.draw.2.form = d.form := rfl
@[simp] theorem Dev.draw_mem (d : Dev) : d.draw.2.mem = d.mem := rfl
@[simp] theorem Dev.draw_poison (d : Dev) : d.draw.2.poison = d.poison := rfl
@[simp] theorem Dev.draw_placed (d : Dev) : d.draw.2.placed = d.placed := rfl
@[simp] theorem Dev.draw_splits (d : Dev) : d.draw.2.splits = d.splits := rfl
@[simp] theorem Dev.draw_peerOut (d : Dev) : d.draw.2.peerOut = d.peerOut := rfl
@[simp] theorem Dev.draw_seqs (d : Dev) : d.draw.2.seqs = d.seqs := rfl
@[simp] theorem Dev.draw_clusters (d : Dev) : d.draw.2.clusters = d.clusters := rfl
@[simp] theorem Dev.draw_near (d : Dev) : d.draw.2.near = d.near := rfl
@[simp] theorem Dev.draw_tenants (d : Dev) : d.draw.2.tenants = d.tenants := rfl
@[simp] theorem Dev.draw_streams (d : Dev) : d.draw.2.streams = d.streams := rfl
@[simp] theorem Dev.draw_objs (d : Dev) : d.draw.2.objs = d.objs := rfl
@[simp] theorem Dev.draw_graphs (d : Dev) : d.draw.2.graphs = d.graphs := rfl
@[simp] theorem Dev.draw_launches (d : Dev) : d.draw.2.launches = d.launches := rfl
@[simp] theorem Dev.draw_replays (d : Dev) : d.draw.2.replays = d.replays := rfl
@[simp] theorem Dev.draw_nextReplay (d : Dev) : d.draw.2.nextReplay = d.nextReplay := rfl
@[simp] theorem Dev.draw_nextLaunch (d : Dev) : d.draw.2.nextLaunch = d.nextLaunch := rfl
@[simp] theorem Dev.draw_nextUnit (d : Dev) : d.draw.2.nextUnit = d.nextUnit := rfl
@[simp] theorem Dev.draw_mmu (d : Dev) : d.draw.2.mmu = d.mmu := rfl
@[simp] theorem Dev.draw_fw (d : Dev) : d.draw.2.fw = d.fw := rfl
@[simp] theorem Dev.draw_fleet (d : Dev) : d.draw.2.fleet = d.fleet := rfl
@[simp] theorem Dev.draw_adma (d : Dev) : d.draw.2.adma = d.adma := rfl
@[simp] theorem Dev.draw_msix (d : Dev) : d.draw.2.msix = d.msix := rfl
@[simp] theorem Dev.draw_msixPend (d : Dev) : d.draw.2.msixPend = d.msixPend := rfl
@[simp] theorem Dev.draw_bar2 (d : Dev) : d.draw.2.bar2 = d.bar2 := rfl
@[simp] theorem Dev.draw_hdm0 (d : Dev) : d.draw.2.hdm0 = d.hdm0 := rfl
@[simp] theorem Dev.draw_hdm1 (d : Dev) : d.draw.2.hdm1 = d.hdm1 := rfl
@[simp] theorem Dev.draw_dtime (d : Dev) : d.draw.2.dtime = d.dtime := rfl
@[simp] theorem Dev.draw_hostRead (d : Dev) : d.draw.2.hostRead = d.hostRead := rfl

/-! ### Seq.modCol and Seq.putSpace -/

@[simp] theorem Seq.modCol_run (s : Seq) (c : Nat) (f : Col → Col) : (s.modCol c f).run = s.run := rfl
@[simp] theorem Seq.modCol_place (s : Seq) (c : Nat) (f : Col → Col) : (s.modCol c f).place = s.place := rfl
@[simp] theorem Seq.modCol_pc (s : Seq) (c : Nat) (f : Col → Col) : (s.modCol c f).pc = s.pc := rfl
@[simp] theorem Seq.modCol_falloff (s : Seq) (c : Nat) (f : Col → Col) : (s.modCol c f).falloff = s.falloff := rfl
@[simp] theorem Seq.modCol_nopLeft (s : Seq) (c : Nat) (f : Col → Col) : (s.modCol c f).nopLeft = s.nopLeft := rfl
@[simp] theorem Seq.modCol_half (s : Seq) (c : Nat) (f : Col → Col) : (s.modCol c f).half = s.half := rfl
@[simp] theorem Seq.modCol_other (s : Seq) (c : Nat) (f : Col → Col) : (s.modCol c f).other = s.other := rfl
@[simp] theorem Seq.modCol_want (s : Seq) (c : Nat) (f : Col → Col) : (s.modCol c f).want = s.want := rfl
@[simp] theorem Seq.modCol_regs (s : Seq) (c : Nat) (f : Col → Col) : (s.modCol c f).regs = s.regs := rfl
@[simp] theorem Seq.modCol_space (s : Seq) (c : Nat) (f : Col → Col) : (s.modCol c f).space = s.space := rfl
@[simp] theorem Seq.modCol_pend (s : Seq) (c : Nat) (f : Col → Col) : (s.modCol c f).pend = s.pend := rfl
@[simp] theorem Seq.modCol_ord (s : Seq) (c : Nat) (f : Col → Col) : (s.modCol c f).ord = s.ord := rfl
@[simp] theorem Seq.modCol_side (s : Seq) (c : Nat) (f : Col → Col) : (s.modCol c f).side = s.side := rfl
@[simp] theorem Seq.modCol_far (s : Seq) (c : Nat) (f : Col → Col) : (s.modCol c f).far = s.far := rfl
@[simp] theorem Seq.modCol_l1bad (s : Seq) (c : Nat) (f : Col → Col) : (s.modCol c f).l1bad = s.l1bad := rfl
@[simp] theorem Seq.modCol_opCtr (s : Seq) (c : Nat) (f : Col → Col) : (s.modCol c f).opCtr = s.opCtr := rfl
@[simp] theorem Seq.modCol_entCtr (s : Seq) (c : Nat) (f : Col → Col) : (s.modCol c f).entCtr = s.entCtr := rfl
@[simp] theorem Seq.modCol_unacked (s : Seq) (c : Nat) (f : Col → Col) : (s.modCol c f).unacked = s.unacked := rfl
@[simp] theorem Seq.modCol_region (s : Seq) (c : Nat) (f : Col → Col) : (s.modCol c f).region = s.region := rfl
@[simp] theorem Seq.modCol_mx (s : Seq) (c : Nat) (f : Col → Col) : (s.modCol c f).mx = s.mx := rfl
@[simp] theorem Seq.modCol_bead (s : Seq) (c : Nat) (f : Col → Col) : (s.modCol c f).bead = s.bead := rfl
@[simp] theorem Seq.modCol_lines (s : Seq) (c : Nat) (f : Col → Col) : (s.modCol c f).lines = s.lines := rfl
@[simp] theorem Seq.modCol_reqs (s : Seq) (c : Nat) (f : Col → Col) : (s.modCol c f).reqs = s.reqs := rfl
@[simp] theorem Seq.modCol_woke (s : Seq) (c : Nat) (f : Col → Col) : (s.modCol c f).woke = s.woke := rfl
@[simp] theorem Seq.modCol_waitOn (s : Seq) (c : Nat) (f : Col → Col) : (s.modCol c f).waitOn = s.waitOn := rfl
@[simp] theorem Seq.modCol_owner (s : Seq) (c : Nat) (f : Col → Col) : (s.modCol c f).owner = s.owner := rfl
@[simp] theorem Seq.modCol_owedForeign (s : Seq) (c : Nat) (f : Col → Col) : (s.modCol c f).owedForeign = s.owedForeign := rfl
@[simp] theorem Seq.modCol_owedWatch (s : Seq) (c : Nat) (f : Col → Col) : (s.modCol c f).owedWatch = s.owedWatch := rfl
@[simp] theorem Seq.modCol_trapCount (s : Seq) (c : Nat) (f : Col → Col) : (s.modCol c f).trapCount = s.trapCount := rfl
@[simp] theorem Seq.modCol_trapLast (s : Seq) (c : Nat) (f : Col → Col) : (s.modCol c f).trapLast = s.trapLast := rfl
@[simp] theorem Seq.modCol_trap (s : Seq) (c : Nat) (f : Col → Col) : (s.modCol c f).trap = s.trap := rfl
@[simp] theorem Seq.modCol_storeMiss (s : Seq) (c : Nat) (f : Col → Col) : (s.modCol c f).storeMiss = s.storeMiss := rfl
@[simp] theorem Seq.modCol_missAct (s : Seq) (c : Nat) (f : Col → Col) : (s.modCol c f).missAct = s.missAct := rfl
@[simp] theorem Seq.modCol_missWait (s : Seq) (c : Nat) (f : Col → Col) : (s.modCol c f).missWait = s.missWait := rfl
@[simp] theorem Seq.modCol_stepMode (s : Seq) (c : Nat) (f : Col → Col) : (s.modCol c f).stepMode = s.stepMode := rfl
@[simp] theorem Seq.modCol_sp (s : Seq) (c : Nat) (f : Col → Col) : (s.modCol c f).sp = s.sp := rfl
@[simp] theorem Seq.modCol_halted (s : Seq) (c : Nat) (f : Col → Col) : (s.modCol c f).halted = s.halted := rfl
@[simp] theorem Seq.modCol_pld (s : Seq) (c : Nat) (f : Col → Col) : (s.modCol c f).pld = s.pld := rfl
@[simp] theorem Seq.modCol_foreignDue (s : Seq) (c : Nat) (f : Col → Col) : (s.modCol c f).foreignDue = s.foreignDue := rfl
@[simp] theorem Seq.modCol_safeDue (s : Seq) (c : Nat) (f : Col → Col) : (s.modCol c f).safeDue = s.safeDue := rfl
@[simp] theorem Seq.modCol_stepDue (s : Seq) (c : Nat) (f : Col → Col) : (s.modCol c f).stepDue = s.stepDue := rfl
@[simp] theorem Seq.modCol_checks (s : Seq) (c : Nat) (f : Col → Col) : (s.modCol c f).checks = s.checks := rfl
@[simp] theorem Seq.putSpace_run (s : Seq) (a : Nat) (l : List (Byte × Bool)) : (s.putSpace a l).run = s.run := rfl
@[simp] theorem Seq.putSpace_place (s : Seq) (a : Nat) (l : List (Byte × Bool)) : (s.putSpace a l).place = s.place := rfl
@[simp] theorem Seq.putSpace_pc (s : Seq) (a : Nat) (l : List (Byte × Bool)) : (s.putSpace a l).pc = s.pc := rfl
@[simp] theorem Seq.putSpace_falloff (s : Seq) (a : Nat) (l : List (Byte × Bool)) : (s.putSpace a l).falloff = s.falloff := rfl
@[simp] theorem Seq.putSpace_nopLeft (s : Seq) (a : Nat) (l : List (Byte × Bool)) : (s.putSpace a l).nopLeft = s.nopLeft := rfl
@[simp] theorem Seq.putSpace_half (s : Seq) (a : Nat) (l : List (Byte × Bool)) : (s.putSpace a l).half = s.half := rfl
@[simp] theorem Seq.putSpace_other (s : Seq) (a : Nat) (l : List (Byte × Bool)) : (s.putSpace a l).other = s.other := rfl
@[simp] theorem Seq.putSpace_want (s : Seq) (a : Nat) (l : List (Byte × Bool)) : (s.putSpace a l).want = s.want := rfl
@[simp] theorem Seq.putSpace_regs (s : Seq) (a : Nat) (l : List (Byte × Bool)) : (s.putSpace a l).regs = s.regs := rfl
@[simp] theorem Seq.putSpace_pend (s : Seq) (a : Nat) (l : List (Byte × Bool)) : (s.putSpace a l).pend = s.pend := rfl
@[simp] theorem Seq.putSpace_cols (s : Seq) (a : Nat) (l : List (Byte × Bool)) : (s.putSpace a l).cols = s.cols := rfl
@[simp] theorem Seq.putSpace_ord (s : Seq) (a : Nat) (l : List (Byte × Bool)) : (s.putSpace a l).ord = s.ord := rfl
@[simp] theorem Seq.putSpace_side (s : Seq) (a : Nat) (l : List (Byte × Bool)) : (s.putSpace a l).side = s.side := rfl
@[simp] theorem Seq.putSpace_far (s : Seq) (a : Nat) (l : List (Byte × Bool)) : (s.putSpace a l).far = s.far := rfl
@[simp] theorem Seq.putSpace_l1bad (s : Seq) (a : Nat) (l : List (Byte × Bool)) : (s.putSpace a l).l1bad = s.l1bad := rfl
@[simp] theorem Seq.putSpace_opCtr (s : Seq) (a : Nat) (l : List (Byte × Bool)) : (s.putSpace a l).opCtr = s.opCtr := rfl
@[simp] theorem Seq.putSpace_entCtr (s : Seq) (a : Nat) (l : List (Byte × Bool)) : (s.putSpace a l).entCtr = s.entCtr := rfl
@[simp] theorem Seq.putSpace_unacked (s : Seq) (a : Nat) (l : List (Byte × Bool)) : (s.putSpace a l).unacked = s.unacked := rfl
@[simp] theorem Seq.putSpace_region (s : Seq) (a : Nat) (l : List (Byte × Bool)) : (s.putSpace a l).region = s.region := rfl
@[simp] theorem Seq.putSpace_mx (s : Seq) (a : Nat) (l : List (Byte × Bool)) : (s.putSpace a l).mx = s.mx := rfl
@[simp] theorem Seq.putSpace_bead (s : Seq) (a : Nat) (l : List (Byte × Bool)) : (s.putSpace a l).bead = s.bead := rfl
@[simp] theorem Seq.putSpace_lines (s : Seq) (a : Nat) (l : List (Byte × Bool)) : (s.putSpace a l).lines = s.lines := rfl
@[simp] theorem Seq.putSpace_reqs (s : Seq) (a : Nat) (l : List (Byte × Bool)) : (s.putSpace a l).reqs = s.reqs := rfl
@[simp] theorem Seq.putSpace_woke (s : Seq) (a : Nat) (l : List (Byte × Bool)) : (s.putSpace a l).woke = s.woke := rfl
@[simp] theorem Seq.putSpace_waitOn (s : Seq) (a : Nat) (l : List (Byte × Bool)) : (s.putSpace a l).waitOn = s.waitOn := rfl
@[simp] theorem Seq.putSpace_owner (s : Seq) (a : Nat) (l : List (Byte × Bool)) : (s.putSpace a l).owner = s.owner := rfl
@[simp] theorem Seq.putSpace_owedForeign (s : Seq) (a : Nat) (l : List (Byte × Bool)) : (s.putSpace a l).owedForeign = s.owedForeign := rfl
@[simp] theorem Seq.putSpace_owedWatch (s : Seq) (a : Nat) (l : List (Byte × Bool)) : (s.putSpace a l).owedWatch = s.owedWatch := rfl
@[simp] theorem Seq.putSpace_trapCount (s : Seq) (a : Nat) (l : List (Byte × Bool)) : (s.putSpace a l).trapCount = s.trapCount := rfl
@[simp] theorem Seq.putSpace_trapLast (s : Seq) (a : Nat) (l : List (Byte × Bool)) : (s.putSpace a l).trapLast = s.trapLast := rfl
@[simp] theorem Seq.putSpace_trap (s : Seq) (a : Nat) (l : List (Byte × Bool)) : (s.putSpace a l).trap = s.trap := rfl
@[simp] theorem Seq.putSpace_storeMiss (s : Seq) (a : Nat) (l : List (Byte × Bool)) : (s.putSpace a l).storeMiss = s.storeMiss := rfl
@[simp] theorem Seq.putSpace_missAct (s : Seq) (a : Nat) (l : List (Byte × Bool)) : (s.putSpace a l).missAct = s.missAct := rfl
@[simp] theorem Seq.putSpace_missWait (s : Seq) (a : Nat) (l : List (Byte × Bool)) : (s.putSpace a l).missWait = s.missWait := rfl
@[simp] theorem Seq.putSpace_stepMode (s : Seq) (a : Nat) (l : List (Byte × Bool)) : (s.putSpace a l).stepMode = s.stepMode := rfl
@[simp] theorem Seq.putSpace_sp (s : Seq) (a : Nat) (l : List (Byte × Bool)) : (s.putSpace a l).sp = s.sp := rfl
@[simp] theorem Seq.putSpace_halted (s : Seq) (a : Nat) (l : List (Byte × Bool)) : (s.putSpace a l).halted = s.halted := rfl
@[simp] theorem Seq.putSpace_pld (s : Seq) (a : Nat) (l : List (Byte × Bool)) : (s.putSpace a l).pld = s.pld := rfl
@[simp] theorem Seq.putSpace_foreignDue (s : Seq) (a : Nat) (l : List (Byte × Bool)) : (s.putSpace a l).foreignDue = s.foreignDue := rfl
@[simp] theorem Seq.putSpace_safeDue (s : Seq) (a : Nat) (l : List (Byte × Bool)) : (s.putSpace a l).safeDue = s.safeDue := rfl
@[simp] theorem Seq.putSpace_stepDue (s : Seq) (a : Nat) (l : List (Byte × Bool)) : (s.putSpace a l).stepDue = s.stepDue := rfl
@[simp] theorem Seq.putSpace_checks (s : Seq) (a : Nat) (l : List (Byte × Bool)) : (s.putSpace a l).checks = s.checks := rfl

/-! ### Reading back -/

theorem Tab.find?_put {α : Type} (t : Tab α) (a b : Nat) (v : α) : (t.put a v).find? b = if b = a then some v else t.find? b := by
  induction t with
  | nil => simp [Tab.put, Tab.find?]
  | cons e t ih =>
    obtain ⟨k, x⟩ := e
    by_cases hb : b = a
    · subst hb
      by_cases h1 : b < k
      · simp [Tab.put, h1, Tab.find?]
      · by_cases h2 : b = k <;> simp [Tab.put, h1, h2, Tab.find?, ih]
    · by_cases h1 : a < k
      · simp [Tab.put, h1, Tab.find?, hb]
      · by_cases h2 : a = k
        · subst h2; simp [Tab.put, Tab.find?, hb]
        · simp [Tab.put, h1, h2, Tab.find?, ih, hb]

theorem Tab.find_put {α : Type} (t : Tab α) (a b : Nat) (v e : α) : (t.put a v).find b e = if b = a then v else t.find b e := by
  unfold Tab.find; rw [Tab.find?_put]; split_ifs <;> rfl

theorem Tab.put_put {α : Type} (t : Tab α) (a : Nat) (v w : α) : (t.put a v).put a w = t.put a w := by
  induction t with
  | nil => simp [Tab.put]
  | cons e t ih =>
    obtain ⟨k, x⟩ := e
    simp only [Tab.put]
    split_ifs with h1 h2
    · simp [Tab.put]
    · simp [Tab.put]
    · simp [Tab.put, h1, h2, ih]

@[simp] theorem Dev.seq_setSeq (d : Dev) (q : Nat) (x : Seq) : (d.setSeq q x).seq q = x := by simp [Dev.seq, Dev.setSeq, Tab.find_put]
theorem Dev.seq_setSeq_ne (d : Dev) {q k : Nat} (x : Seq) (h : k ≠ q) : (d.setSeq q x).seq k = d.seq k := by
  simp [Dev.seq, Dev.setSeq, Tab.find_put, h]
@[simp] theorem Dev.seq_modSeq (d : Dev) (q : Nat) (f : Seq → Seq) : (d.modSeq q f).seq q = f (d.seq q) := by simp [Dev.modSeq]
theorem Dev.seq_modSeq_ne (d : Dev) {q k : Nat} (f : Seq → Seq) (h : k ≠ q) : (d.modSeq q f).seq k = d.seq k := Dev.seq_setSeq_ne d _ h
@[simp] theorem Dev.setSeq_setSeq (d : Dev) (q : Nat) (x y : Seq) : (d.setSeq q x).setSeq q y = d.setSeq q y := by
  simp [Dev.setSeq, Tab.put_put]
@[simp] theorem Dev.modSeq_modSeq (d : Dev) (q : Nat) (f g : Seq → Seq) : (d.modSeq q f).modSeq q g = d.modSeq q fun x => g (f x) := by
  simp [Dev.modSeq]
@[simp] theorem Dev.unit_modUnit (d : Dev) (u : Nat) (f : Near → Near) : (d.modUnit u f).unit u = f (d.unit u) := by
  simp [Dev.unit, Dev.modUnit, Tab.find_put]
theorem Dev.unit_modUnit_ne (d : Dev) {u k : Nat} (f : Near → Near) (h : k ≠ u) : (d.modUnit u f).unit k = d.unit k := by
  simp [Dev.unit, Dev.modUnit, Tab.find_put, h]
@[simp] theorem Dev.modUnit_modUnit (d : Dev) (u : Nat) (f g : Near → Near) : (d.modUnit u f).modUnit u g = d.modUnit u fun x => g (f x) := by
  simp [Dev.unit, Dev.modUnit, Tab.put_put, Tab.find_put]
@[simp] theorem Dev.cluster_modCluster (d : Dev) (c : Nat) (f : Cluster → Cluster) : (d.modCluster c f).cluster c = f (d.cluster c) := by
  simp [Dev.cluster, Dev.modCluster, Tab.find_put]
@[simp] theorem Dev.frame_modFrame (d : Dev) (n : Nat) (f : Frame → Frame) : (d.modFrame n f).frame n = f (d.frame n) := by
  simp [Dev.frame, Dev.modFrame, Tab.find_put]
@[simp] theorem Dev.stream_modStream (d : Dev) (t m : Nat) (f : Strm8 → Strm8) : (d.modStream t m f).stream t m = f (d.stream t m) := by
  simp [Dev.stream, Dev.modStream, Tab.find_put]
theorem Dev.launch_modLaunch (d : Dev) (l k : Nat) (f : Launch → Launch) :
    (d.modLaunch l f).launch? k = if k = l then (d.launch? l).map f else d.launch? k := by
  unfold Dev.launch? Dev.modLaunch
  split
  · rename_i x h; simp [Tab.find?_put, h]
  · rename_i h
    by_cases hk : k = l
    · subst hk; simp [h]
    · simp [hk]

/-- A file reads what was written where the number is in range. -/
theorem vget_vset {α : Type} {n : Nat} (v : Vector α n) (i k : Nat) (x dflt : α) :
    vget (vset v i x) k dflt = if k = i ∧ i < n then x else vget v k dflt := by
  unfold vget vset
  by_cases h : k = i
  · subst h; by_cases hn : k < n <;> simp [hn]
  · simp [h, Ne.symm h]

@[simp] theorem Dev.tenant_modTenant (d : Dev) {t : Nat} (h : t < 17) (f : Tenant → Tenant) : (d.modTenant t f).tenant t = f (d.tenant t) := by
  simp [Dev.tenant, Dev.modTenant, vget_vset, h]
theorem Seq.col_modCol (s : Seq) {c : Nat} (h : c < 4) (f : Col → Col) : (s.modCol c f).col c = f (s.col c) := by
  simp [Seq.col, Seq.modCol, vget_vset, h]

/-- Bits of numbers. -/
theorem bit_eq (v i : Nat) : bit v i = v.testBit i := by
  simp [bit, Nat.testBit_eq_decide_div_mod_eq]

end Sys2Proof.Machine
end

