-- ==== Sys2Proof/Laws/Memory.lean ====
section
/-! SUPPORT. The laws of the byte memory: its canonical form is kept by every operation, a read after a write gives what was
written, and a write leaves every other byte. -/

namespace Sys2Proof.Machine

namespace Mem

/-- An address is above a bound. -/
def Above : Option Nat → Nat → Prop
  | none, _ => True
  | some l, a => l < a

theorem wfFrom_cons (lo : Option Nat) (b : Nat) (v : Byte) (m : Mem) :
    wfFrom lo ((b, v) :: m) = true ↔ Above lo b ∧ v ≠ 0 ∧ wfFrom (some b) m = true := by
  cases lo <;> simp [wfFrom, Above, and_assoc]

theorem get_below {m : Mem} {lo a : Nat} (h : wfFrom (some lo) m = true) (ha : a ≤ lo) : get m a = 0 := by
  cases m with
  | nil => rfl
  | cons e m =>
    obtain ⟨b, v⟩ := e
    rw [wfFrom_cons] at h
    have hb : lo < b := h.1
    simp [get, show a ≠ b by omega, show a < b by omega]

theorem wfFrom_weaken {m : Mem} {lo : Option Nat} {l : Nat} (h : wfFrom (some l) m = true) (hl : Above lo l) : wfFrom lo m = true := by
  cases m with
  | nil => rfl
  | cons e m =>
    obtain ⟨b, v⟩ := e
    rw [wfFrom_cons] at h ⊢
    refine ⟨?_, h.2⟩
    have hb : l < b := h.1
    cases lo with
    | none => trivial
    | some k => have hk : k < l := hl; exact Nat.lt_trans hk hb

theorem wfFrom_set {m : Mem} {lo : Option Nat} {a : Nat} {v : Byte} (h : wfFrom lo m = true) (ha : Above lo a) : wfFrom lo (set m a v) = true := by
  induction m generalizing lo with
  | nil =>
    unfold set
    by_cases hv : v = 0
    · simp [hv, wfFrom]
    · simp only [hv, if_false]; rw [wfFrom_cons]; exact ⟨ha, hv, rfl⟩
  | cons e m ih =>
    obtain ⟨b, x⟩ := e
    have h' := h
    rw [wfFrom_cons] at h'
    obtain ⟨hb, hx, hm⟩ := h'
    unfold set
    split_ifs with h1 h2 h3 h4
    · exact h
    · rw [wfFrom_cons]
      refine ⟨ha, h2, ?_⟩
      rw [wfFrom_cons]
      exact ⟨h1, hx, hm⟩
    · exact wfFrom_weaken hm hb
    · rw [wfFrom_cons]; subst h3; exact ⟨ha, h4, hm⟩
    · rw [wfFrom_cons]
      exact ⟨hb, hx, ih hm (show b < a by omega)⟩

/-- A write keeps the canonical form. -/
theorem wf_set {m : Mem} (h : m.wf = true) (a : Nat) (v : Byte) : (m.set a v).wf = true := wfFrom_set h trivial

theorem get_set_from {m : Mem} {lo : Option Nat} (h : wfFrom lo m = true) (a b : Nat) (v : Byte) :
    get (set m a v) b = if b = a then v else get m b := by
  induction m generalizing lo with
  | nil =>
    by_cases hv : v = 0
    · subst hv; simp [set, get]
    · have : set [] a v = [(a, v)] := if_neg hv
      rw [this]; simp [get]
  | cons e m ih =>
    obtain ⟨c, x⟩ := e
    rw [wfFrom_cons] at h
    obtain ⟨hc, hx, hm⟩ := h
    have below : ∀ k ≤ c, get m k = 0 := fun k hk => get_below hm hk
    rcases Nat.lt_trichotomy a c with h1 | h1 | h1
    · have : set ((c, x) :: m) a v = if v = 0 then (c, x) :: m else (a, v) :: (c, x) :: m := if_pos h1
      rw [this]
      by_cases hv : v = 0
      · rw [if_pos hv]; split_ifs with hb
        · subst hb; simp [get, show b ≠ c by omega, h1, hv]
        · rfl
      · rw [if_neg hv]
        rcases Nat.lt_trichotomy b a with hb | hb | hb
        · simp [get, show b ≠ a by omega, hb, show b ≠ c by omega, show b < c by omega]
        · simp [get, hb]
        · rw [if_neg (by omega)]
          show (if b = a then v else if b < a then 0 else get ((c, x) :: m) b) = _
          rw [if_neg (by omega), if_neg (by omega)]
    · subst h1
      have : set ((a, x) :: m) a v = if v = 0 then m else (a, v) :: m := by simp [set]
      rw [this]
      by_cases hv : v = 0
      · rw [if_pos hv]; split_ifs with hb
        · subst hb; rw [hv]; exact below _ (Nat.le_refl _)
        · by_cases hlt : b < a
          · rw [below b (by omega)]; simp [get, hb, hlt]
          · simp [get, hb, hlt]
      · rw [if_neg hv]
        by_cases hb : b = a <;> simp [get, hb]
    · have : set ((c, x) :: m) a v = (c, x) :: set m a v := by
        show (if a < c then _ else if a = c then _ else _) = _
        rw [if_neg (by omega), if_neg (by omega)]
      rw [this]
      by_cases hb : b = a
      · subst hb; simp only [get]; rw [if_neg (by omega), if_neg (by omega), ih hm, if_pos rfl, if_pos trivial]
      · simp only [get, ih hm, hb, if_false]

/-- A byte read after a write of one byte: the written one at its address, the old one elsewhere. -/
theorem get_set {m : Mem} (h : m.wf = true) (a b : Nat) (v : Byte) : (m.set a v).get b = if b = a then v else m.get b := get_set_from h a b v

/-- A write of bytes keeps the canonical form. -/
theorem wf_write {m : Mem} (h : m.wf = true) (a : Nat) (l : Bytes) : (m.write a l).wf = true := by
  induction l generalizing m a with
  | nil => exact h
  | cons b l ih => exact ih (wf_set h a b) (a + 1)

/-- A byte read after a write of bytes. -/
theorem get_write {m : Mem} (h : m.wf = true) (a b : Nat) (l : Bytes) :
    (m.write a l).get b = if a ≤ b ∧ b < a + l.length then l.getD (b - a) 0 else m.get b := by
  induction l generalizing m a with
  | nil => simp [write]
  | cons x l ih =>
    simp only [write]
    rw [ih (wf_set h a x), get_set h]
    simp only [List.length_cons]
    by_cases h1 : b = a
    · subst h1; simp
    · by_cases h2 : a ≤ b
      · obtain ⟨k, rfl⟩ : ∃ k, b = a + 1 + k := ⟨b - a - 1, by omega⟩
        have e1 : a + 1 + k - a = k + 1 := by omega
        have e2 : a + 1 + k - (a + 1) = k := by omega
        simp only [e1, e2, List.getD_cons_succ, h1, if_false]
        by_cases h3 : k < l.length
        · rw [if_pos (by omega), if_pos (by omega)]
        · rw [if_neg (by omega), if_neg (by omega)]
      · rw [if_neg (by omega), if_neg h1, if_neg (by omega)]

/-- Clearing a range keeps the canonical form. -/
theorem wf_clear {m : Mem} (h : m.wf = true) (a n : Nat) : (m.clear a n).wf = true := by
  induction n generalizing m a with
  | zero => exact h
  | succ n ih => exact ih (wf_set h a 0) (a + 1)

theorem wfFrom_filter {m : Mem} {lo : Option Nat} (p : Host.Cell → Bool) (h : wfFrom lo m = true) : wfFrom lo (m.filter p) = true := by
  induction m generalizing lo with
  | nil => rfl
  | cons e m ih =>
    obtain ⟨b, x⟩ := e
    rw [wfFrom_cons] at h
    obtain ⟨hb, hx, hm⟩ := h
    simp only [List.filter_cons]
    split_ifs
    · rw [wfFrom_cons]; exact ⟨hb, hx, ih hm⟩
    · exact ih (wfFrom_weaken hm hb)

/-- Dropping a range keeps the canonical form. -/
theorem wf_drop {m : Mem} (h : m.wf = true) (a n : Nat) : (m.drop a n).wf = true := wfFrom_filter _ h

theorem length_read (m : Mem) (a n : Nat) : (m.read a n).length = n := by simp [read]

end Mem

/-! ### Numbers as bytes -/

@[simp] theorem length_toLe (n v : Nat) : (toLe n v).length = n := by
  induction n generalizing v with
  | zero => rfl
  | succ n ih => simp [toLe, ih]

theorem leNat_toLe (n v : Nat) : leNat (toLe n v) = v % 2 ^ (8 * n) := by
  induction n generalizing v with
  | zero => simp [toLe, leNat, Nat.mod_one]
  | succ n ih =>
    simp only [toLe, leNat, ih, BitVec.toNat_ofNat]
    rw [show 8 * (n + 1) = 8 + 8 * n by ring, Nat.pow_add, Nat.mod_mul]

theorem leNat_lt (l : Bytes) : leNat l < 2 ^ (8 * l.length) := by
  induction l with
  | nil => simp [leNat]
  | cons b l ih =>
    simp only [leNat, List.length_cons]
    have := b.isLt
    rw [show 8 * (l.length + 1) = 8 + 8 * l.length by ring, Nat.pow_add]
    omega

/-- The number that n bytes hold is the one that was written. -/
theorem Mem.num_write {m : Mem} (h : m.wf = true) (a n v : Nat) : (m.write a (toLe n v)).num a n = v % 2 ^ (8 * n) := by
  have : (m.write a (toLe n v)).read a n = toLe n v := by
    apply List.ext_getElem
    · simp [Mem.read]
    · intro i h1 h2
      simp only [length_toLe] at h2
      simp only [Mem.read, List.getElem_map, List.getElem_range]
      rw [Mem.get_write h, if_pos (by simp; omega)]
      simp [List.getD_eq_getElem?_getD, h2]
  rw [Mem.num, this, leNat_toLe]

end Sys2Proof.Machine
end

