-- ==== Sys2Proof/Laws/Order.lean ====
section
/-! SUPPORT. What the operations of the single order leave of the device: they change its memory, its poison marks, its placed
operations, its watchpoints' marks and the entries that loads fill, and they keep the memory's canonical form. -/

namespace Sys2Proof.Machine

/-- Landing bytes keeps the canonical form. -/
theorem landBytes_wf {d : Dev} (h : d.mem.wf = true) (loc : Nat) (l : List (Option Byte)) : (landBytes d loc l).mem.wf = true := by
  unfold landBytes
  generalize l.zipIdx = z
  induction z generalizing d with
  | nil => exact h
  | cons e z ih =>
    simp only [List.foldl_cons]
    apply ih
    split
    · exact Mem.wf_set h _ _
    · exact h

theorem fillElem_mem (own col ent elem n v : Nat) (psn : Option Nat) (d : Dev) : (fillElem own col ent elem n v psn d).mem = d.mem := rfl

/-- Reading leaves the memory. -/
theorem readIn_mem (me : Nat) (d : Dev) (done later : List Placed) (loc n : Nat) : (readIn me d done later loc n).2.mem = d.mem := by
  unfold readIn; split
  · rfl
  · simp only; split <;> rfl

/-- What a read leaves of the memory. -/
theorem mem_of_readIn {me : Nat} {d e : Dev} {done later : List Placed} {loc n : Nat} {b : Option (List (Byte × Bool))}
    (h : readIn me d done later loc n = (b, e)) : e.mem = d.mem := by
  have := readIn_mem me d done later loc n
  rwa [h] at this

/-- Resolving reads, atomics and arrivals leaves the memory. -/
theorem resolve_mem (l : List Placed) (done : List Placed) (d : Dev) : (resolve done d l).2.mem = d.mem := by
  induction l generalizing done d with
  | nil => rfl
  | cons p l ih =>
    cases p <;> simp only [resolve]
    case rmw =>
      split <;> rename_i h <;> have k := mem_of_readIn h <;> rw [ih]
      · split <;> exact k
      · exact k
    case load => split <;> rename_i h <;> have k := mem_of_readIn h <;> rw [ih] <;> exact k
    case arrive => split <;> rename_i h <;> have k := mem_of_readIn h <;> rw [ih] <;> exact k
    case part => split <;> rename_i h <;> have k := mem_of_readIn h <;> rw [ih] <;> exact k
    all_goals exact ih _ _

/-- Seeing a write of a WIX word leaves the memory. -/
theorem wixSeen_mem (loc n : Nat) (d : Dev) : (wixSeen loc n d).mem = d.mem := by
  have fold {α : Type} (f : Dev → α → Dev) (h : ∀ d a, (f d a).mem = d.mem) (l : List α) (d : Dev) : (l.foldl f d).mem = d.mem := by
    induction l generalizing d with
    | nil => rfl
    | cons a l ih => rw [List.foldl_cons, ih, h]
  unfold wixSeen
  apply fold
  intro d ten
  split
  · apply fold; intro d m; split <;> rfl
  · rfl

/-- A write that goes to memory keeps the canonical form. -/
theorem land_wf {d e : Dev} (h : d.mem.wf = true) {p : Placed} (hp : land d p = some e) : e.mem.wf = true := by
  unfold land at hp
  split at hp <;> simp only [Option.some.injEq, reduceCtorEq] at hp <;> subst hp
  · rw [wixSeen_mem]; exact landBytes_wf h _ _
  · rw [wixSeen_mem]; split <;> exact landBytes_wf h _ _
  · rw [wixSeen_mem]; exact Mem.wf_write h _ _
  · exact h

/-- Writing the stores whose data stand keeps the canonical form. -/
theorem drain_wf (l held : List Placed) {d : Dev} (h : d.mem.wf = true) : (drain held d l).2.mem.wf = true := by
  induction l generalizing d held with
  | nil => exact h
  | cons p l ih =>
    unfold drain
    split
    · next e he =>
      split at he
      · cases he
      · exact ih _ (land_wf h he)
    · exact ih _ h

/-- Bringing the order forward keeps the canonical form. -/
theorem settle_wf {d : Dev} (h : d.mem.wf = true) : (settle d).mem.wf = true := by
  unfold settle
  simp only
  apply drain_wf
  rw [resolve_mem]
  exact h

theorem touch_mem (d : Dev) (loc : Nat) : (touch d loc).mem = d.mem := by
  unfold touch; split <;> rfl

/-- Watchpoints leave the memory. -/
theorem noteWrite_mem (d : Dev) (own loc n : Nat) : (noteWrite d own loc n).mem = d.mem := by
  unfold noteWrite
  have key : ∀ (ws : List (Nat × Nat × Nat × Nat)) (e : Dev), (ws.foldl (fun d w =>
      let (q, j, b, m) := w
      let s := d.seq q
      let c := vget s.regs.wpc j 0
      if q ≠ own && overlap loc n b m && c.getLsbD 1 then
        d.setSeq q { s with regs := { s.regs with wpc := vset s.regs.wpc j (c ||| 0x200#64) },
                            owedForeign := if c.getLsbD 9 then s.owedForeign else s.owedForeign ||| 2 ^ j }
      else d) e).mem = e.mem := by
    intro ws
    induction ws with
    | nil => intro e; rfl
    | cons w ws ih =>
      intro e
      simp only [List.foldl_cons]
      rw [ih]
      split_ifs <;> rfl
  rw [key, touch_mem]

/-- The divided atomics that take their writes' places keep the canonical form. -/
theorem closeSplits_wf {d : Dev} (h : d.mem.wf = true) (a loc n : Nat) : (closeSplits a loc n d).mem.wf = true := by
  unfold closeSplits
  generalize d.splits.filter _ = l
  induction l generalizing d with
  | nil => exact h
  | cons x l ih =>
    rw [List.foldl_cons]
    apply ih
    unfold closeSplit
    simp only
    rw [noteWrite_mem]
    apply settle_wf
    show (if x.own = peerAgent then d else _).mem.wf = true
    split <;> exact h

/-- An operation that takes its place keeps the canonical form. -/
theorem place_wf {d : Dev} (h : d.mem.wf = true) (p : Placed) : (place d p).mem.wf = true := settle_wf (closeSplits_wf h _ _ _)

/-- An operation that takes its place and is seen keeps the canonical form. -/
theorem perform_wf {d : Dev} (h : d.mem.wf = true) (p : Placed) : (perform d p).mem.wf = true := by
  rcases hr : p.range with ⟨own, loc, n⟩
  simp only [perform, hr]
  split
  · exact place_wf (by simpa [touch_mem] using h) _
  · rw [noteWrite_mem]; exact place_wf h _

/-- A write of bytes by an agent keeps the canonical form. -/
theorem placeBytes_wf {d : Dev} (h : d.mem.wf = true) (own loc : Nat) (l : Bytes) (psn : Bool) : (placeBytes d own loc l psn).mem.wf = true :=
  perform_wf h _

/-- A number that the Gaffer writes keeps the canonical form. -/
theorem gput_wf {d : Dev} (h : d.mem.wf = true) (loc n v : Nat) : (gput d loc n v).mem.wf = true := placeBytes_wf h _ _ _ _

/-- A write of register space keeps its canonical form. -/
theorem putSpace_wf {s : Seq} (h : s.space.wf = true) (a : Nat) (l : List (Byte × Bool)) : (s.putSpace a l).space.wf = true := by
  unfold Seq.putSpace
  simp only
  generalize l.zipIdx = z
  revert h
  generalize s.space = m
  intro h
  induction z generalizing m with
  | nil => exact h
  | cons e z ih =>
    simp only [List.foldl_cons]
    apply ih
    split_ifs
    · exact Mem.wf_set h _ _
    · exact h

end Sys2Proof.Machine
end

