-- ==== Sys2Proof/Laws/Slot.lean ====
section
/-! SUPPORT. What the shared operations of slot meanings do, one lemma each: from the result of each part the result of the
instruction follows by rewriting, without unfolding. -/

namespace Sys2Proof.Laws

open Machine Claim

/-- A meaning that leaves x ends its slot with x. -/
theorem runSlot_ok {f : SlotM Unit} {s : State} {iss : Issue} {x : Slot} (h : s.issue = some iss) (hf : f (slotOf s iss) = .ok ((), x)) :
    runSlot f s = .next (afterSlot s x) := by
  simp only [slotOf] at hf
  simp [runSlot, h, hf, afterSlot]

/-- A meaning that aborts ends its bundle. -/
theorem runSlot_error {f : SlotM Unit} {s : State} {iss : Issue} {a : Abort} (h : s.issue = some iss) (hf : f (slotOf s iss) = .error a) :
    runSlot f s = .next (endBundle s iss.q a) := by
  simp only [slotOf] at hf
  simp [runSlot, h, hf]

/-- A slot meaning always answers a next state when a bundle is in progress. -/
theorem runSlot_next {f : SlotM Unit} {s : State} {iss : Issue} (h : s.issue = some iss) : ∃ t, runSlot f s = .next t := by
  cases hf : f (slotOf s iss) with
  | ok r => exact ⟨_, runSlot_ok h hf⟩
  | error a => exact ⟨_, runSlot_error h hf⟩

section monad
variable {α β : Type} {x y : Slot} {a : α}

@[simp] theorem pure_app (a : α) (x : Slot) : (pure a : SlotM α) x = .ok (a, x) := rfl

theorem bind_ok {m : SlotM α} {f : α → SlotM β} (h : m x = .ok (a, y)) : (m >>= f) x = f a y := by
  show (m x >>= fun p => f p.1 p.2) = _
  rw [h]; rfl

theorem bind_error {m : SlotM α} {f : α → SlotM β} {e : Abort} (h : m x = .error e) : (m >>= f) x = .error e := by
  show (m x >>= fun p => f p.1 p.2) = _
  rw [h]; rfl
end monad

@[simp] theorem get_app (x : Slot) : (get : SlotM Slot) x = .ok (x, x) := rfl
@[simp] theorem slotNo_app (x : Slot) : Op.slotNo x = .ok (slotNo x, x) := rfl
@[simp] theorem word_app (x : Slot) : Op.word x = .ok ((x.iss.rest.headD (0, 0)).2, x) := rfl
@[simp] theorem sqid_app (x : Slot) : Op.sqid x = .ok (x.iss.q, x) := rfl
@[simp] theorem me_app (x : Slot) : Op.me x = .ok (seqOf x, x) := rfl
@[simp] theorem dev_app (x : Slot) : Op.dev x = .ok (x.dev, x) := rfl
@[simp] theorem modDev_app (f : Dev → Dev) (x : Slot) : Op.modDev f x = .ok ((), { x with dev := f x.dev }) := rfl
@[simp] theorem modMe_app (f : Seq → Seq) (x : Slot) : Op.modMe f x = .ok ((), withSeq x f) := rfl
@[simp] theorem modIss_app (f : Issue → Issue) (x : Slot) : Op.modIss f x = .ok ((), withIss x f) := rfl
@[simp] theorem abort_app {α : Type} (a : Abort) (x : Slot) : (Op.abort a : SlotM α) x = .error a := rfl

/-- A precise trap names its slot (R84, R385). -/
@[simp] theorem trap_app {α : Type} (c : Cause) (cont : List Nat) (x : Slot) :
    (Op.trap c cont : SlotM α) x = .error (.trap { cause := c.code, slot := slotNo x, cont := cont }) := rfl

@[simp] theorem check_app (ok : Bool) (c : Cause) (cont : List Nat) (x : Slot) :
    Op.check ok c cont x = if ok then .ok ((), x) else .error (.trap { cause := c.code, slot := slotNo x, cont := cont }) := by
  cases ok <;> rfl

@[simp] theorem holdUnless_app (ok : Bool) (x : Slot) : Op.holdUnless ok x = if ok then .ok ((), x) else .error (.stall none) := by
  cases ok <;> rfl

/-- The guard is bit 0 of the lanes that it enables (R70). -/
@[simp] theorem guard_app (m : Bool) (x : Slot) : Op.guard m x = .ok (lanesOn x m, x) := by cases m <;> rfl
@[simp] theorem enabled_app (m : Bool) (x : Slot) : Op.enabled m x = .ok (enabled x m, x) := by cases m <;> rfl

/-- A pending write is added behind the others (R71). -/
@[simp] theorem pend_app (t : Tgt) (n : Nat) (v : BitVec 256) (en : BitVec 32) (fl : BitVec 6) (k : Word) (x : Slot) :
    Op.pend t n v en fl k x = .ok ((), withWrites x [{ tgt := t, data := v, en := en, flags := fl, rdly := n, keep := k }]) := rfl

/-- A scalar result leaves its writes (R68, R70, R113). -/
@[simp] theorem putS_app (t : Tgt) (lat : Nat) (v : Word) (on : Bool) (x : Slot) :
    Op.putS t lat v on x = .ok ((), withWrites x (scalarWrite t lat v on)) := by
  cases t <;> cases on <;> rfl

/-- A predicate result leaves its write (R70, R102). -/
@[simp] theorem predResult_app (d : BitVec 4) (v : Word) (on : Bool) (x : Slot) :
    Op.predResult d v on x = .ok ((), withWrites x (predWrites d v on)) := by cases on <;> rfl

@[simp] theorem branchIf_app (c : Bool) (t : Nat) (x : Slot) :
    Op.branchIf c t x = .ok ((), if c then withIss x fun i => { i with next := some { i.pc with idx := t } } else x) := by cases c <;> rfl

theorem hold_pass {b : Bool} {x : Slot} (h : b = true) : Op.holdUnless b x = .ok ((), x) := by simp [h]
theorem check_pass {b : Bool} {c : Cause} {l : List Nat} {x : Slot} (h : b = true) : Op.check b c l x = .ok ((), x) := by simp [h]

/-- What the check of a footprint finds for an address. -/
theorem pageFound_eq (x : Slot) (rd wr : Bool) (a : Nat) :
    (Op.verdict rd wr (seqWay x.dev x.iss.q a)).or (((x.dev.seq x.iss.q).checks).find? (slotNo x * 2 ^ 60 + a / 16384)) = pageFound x rd wr a := by
  unfold pageFound
  cases seqWay x.dev x.iss.q a <;> cases rd <;> cases wr <;> simp [Op.verdict, seqOf]

/-- A footprint that passes changes nothing (R116, R379). -/
theorem foot_pass {l : List (Nat × Nat)} {rd wr named : Bool} {x : Slot} (h : footOk x l rd wr) : Op.footprint l rd wr named x = .ok ((), x) := by
  unfold Op.footprint
  rw [bind_ok (get_app x), bind_ok (slotNo_app x)]
  have h1 : (l.find? fun a => decide (2 ^ 56 ≤ a.1)) = none := by
    simp only [List.find?_eq_none, decide_eq_true_eq, Nat.not_le]
    intro e he; exact (h e he).1
  simp only [h1, pageFound_eq]
  have h0 : ∀ w ∈ l.map fun a => (a.1, pageFound x rd wr a.1), w.2 = some 0 := by
    simp only [List.mem_map]
    rintro w ⟨e, he, rfl⟩; exact (h e he).2
  have h2 : ((l.map fun a => (a.1, pageFound x rd wr a.1)).any fun w => w.2.isNone) = false := by
    simp only [List.any_eq_false]
    intro w hw; simp [h0 w hw]
  have h3 : ((l.map fun a => (a.1, pageFound x rd wr a.1)).any fun w => decide (w.2 = some 1)) = false := by
    simp only [List.any_eq_false]
    intro w hw; simp [h0 w hw]
  have h4 : ((l.map fun a => (a.1, pageFound x rd wr a.1)).find? fun w => decide (w.2 = some 2)) = none := by
    simp only [List.find?_eq_none]
    intro w hw; simp [h0 w hw]
  simp only [h2, h3, h4]; rfl

/-- The map that checks at issue go by (R126, R132). -/
@[simp] theorem mapped_app (x : Slot) : Op.mapped x = .ok (mapsAhead x, x) := rfl

/-- A result with its byte enables leaves its write; without any and without flags a register is left alone (R68, R70). -/
@[simp] theorem put_app (t : Tgt) (lat : Nat) (v : BitVec 256) (en : BitVec 32) (fl : BitVec 6) (k : Word) (x : Slot) :
    Op.put t lat v en fl k x = .ok ((), withWrites x (match t with
      | .storeData .. => [{ tgt := t, data := v, en := en, flags := fl, rdly := lat }]
      | _ => if en = 0 ∧ fl = 0 then [] else [{ tgt := t, data := v, en := en, flags := fl, rdly := lat, keep := k }])) := by
  cases t <;> simp only [Op.put] <;> try rfl
  all_goals
    by_cases h : en = 0 ∧ fl = 0
    · rw [if_pos h, if_pos (by simp [h])]; rfl
    · rw [if_neg h, if_neg (by simpa using h)]; rfl

/-- A vector result leaves its write (R68, R70, R137). -/
@[simp] theorem putLanes_app (t : Tgt) (lat w : Nat) (on : Nat → Bool) (l : List LaneRes) (x : Slot) :
    Op.putLanes t lat w on l x = .ok ((), withWrites x (vectorWrite x t lat w on l)) := by
  unfold Op.putLanes
  rw [bind_ok (me_app x)]
  simp only [put_app, vectorWrite]
  all_goals congr 2

/-- A record whose body has zero bytes where its operation has none passes the Gaffer's check (R374, R405). -/
theorem spare_all (r : Rec) (used : List (Nat × Nat)) (h : spareZero r used) :
    ((List.range 104).all fun i => (used.any fun u => decide (u.1 ≤ 24 + i) && decide (24 + i < u.1 + u.2)) || recZero r (24 + i) 1) = true := by
  simp only [List.all_eq_true, List.mem_range, Bool.or_eq_true, List.any_eq_true, Bool.and_eq_true, decide_eq_true_eq]
  intro i hi
  by_cases hh : ∃ x, x ∈ used ∧ x.1 ≤ 24 + i ∧ 24 + i < x.1 + x.2
  · exact Or.inl hh
  · right
    have := h i hi (fun u hu => by
      by_contra hc
      exact hh ⟨u, hu, by omega, by omega⟩)
    simpa [recZero, field] using this

/-- A record that is taken and done moves RIX past it (R353). -/
theorem record_done {s : State} {ten m : Nat} {r : Rec} (h : recordTurn s ten m r) {f : Nat → Nat → Rec → Dev → RecEnd} {d : Dev}
    (hf : f ten m r s.dev = .done d) : runRecord s f = recordTaken s ten m r d := by
  obtain ⟨h1, ⟨h2, h3⟩, h4⟩ := h
  simp [runRecord, runLeader, runGaffer, runEvent, h1, h2, h3, h4, gafferRuns, hf, recordTaken, became]

theorem sInt_eq (x : Word) : sInt x = x.toInt := by
  have := x.isLt
  simp only [sInt, sx, BitVec.toInt_eq_toNat_cond]; simp; split <;> split <;> omega

theorem ofS_eq (v : Int) : ofS v = BitVec.ofInt 64 v := by
  apply BitVec.eq_of_toNat_eq
  have : (v % (2 ^ 64 : Nat)).toNat < 2 ^ 64 := by omega
  simp [ofS, wrap]
  omega

end Sys2Proof.Laws
end

