-- ==== Sys2Proof/Machine/Sylsem.lean ====
section
/-! DEFINITION. What a Sylvote form computes (R319), in which order its schedule tree runs it (R320), and which orders a translator may
put in that order's place (R321). Memory is the tenant's, byte by byte at device virtual addresses. -/

namespace Sys2Proof.Machine

/-- A statement instance: the statement's number and a point of its domain (R319). -/
structure Inst where
  stmt : Nat
  point : List Int
  deriving DecidableEq, Repr

/-- A signed 32-bit number of a record body. -/
def rowNum (b : Bytes) (o : Nat) : Int := sx 32 (headField b o 4)

/-- The value of the affine row at byte o for dimensions and parameters (R318): coefficients of the dimensions, then of the parameters,
then the constant. -/
def rowValue (b : Bytes) (o : Nat) (dims params : List Int) : Int :=
  ((dims ++ params ++ [(1 : Int)]).zipIdx.map fun e => e.1 * rowNum b (o + 4 * e.2)).sum

/-- The values of k rows that stand one after another from byte o on. -/
def rowValues (b : Bytes) (o k : Nat) (dims params : List Int) : List Int :=
  (List.range k).map fun i => rowValue b (o + 4 * i * (dims.length + params.length + 1)) dims params

/-- The parameters: signed 64-bit numbers at offsets into the launch parameter block (R319). -/
def paramValues (l : List SylRec) (m : Mem) (parm : Nat) : List Int :=
  ((ofType l 1).head?).elim [] fun r => (List.range (sylParams l)).map fun i => sx 64 (m.num (parm + headField r.body (8 + 4 * i) 4) 8)

/-- Whether a point lies in a domain: it satisfies every constraint, 0 for a row of value 0 and 1 for a row that is not negative. -/
def inDomain (r : SylRec) (params point : List Int) : Bool :=
  let nd := headField r.body 0 1
  let row := 4 + 4 * (nd + params.length + 1)
  decide (point.length = nd) && (List.range (headField r.body 1 1)).all fun k =>
    let v := rowValue r.body (12 + k * row) point params
    if headField r.body (8 + k * row) 4 = 0 then decide (v = 0) else decide (0 ≤ v)

/-- Whether an instance is one of the form's. -/
def isInst (l : List SylRec) (params : List Int) (i : Inst) : Bool :=
  match (ofType l 5)[i.stmt]? with
  | none => false
  | some s => match (ofType l 3)[headField s.body 0 2]? with
    | none => false
    | some r => inDomain r params i.point

/-! ### Elements of a tensor (R37, R49, R319) -/

/-- The number of an element in a tensor's row-major layout, last index fastest. -/
def flatIndex (r : SylRec) (params ix : List Int) : Nat :=
  ((ix.zip (rowValues r.body 20 (headField r.body 1 1) [] params)).foldl (fun n e => n * e.2 + e.1) (0 : Int)).toNat

/-- A plane of a tensor: the address that the parameter block holds at the offset in byte o. -/
def planeOf (r : SylRec) (m : Mem) (parm o : Nat) : Nat := m.num (parm + headField r.body o 4) 8

/-- The bits of element n of rows of w-bit elements packed from an address on (R37). -/
def packedBits (m : Mem) (a w n : Nat) : Nat := bits (m.num (a + n * w / 8) ((n * w % 8 + w + 7) / 8)) (n * w % 8) w

/-- Memory with element n of such rows changed. -/
def packedSet (m : Mem) (a w n v : Nat) : Mem :=
  let b := a + n * w / 8
  let k := (n * w % 8 + w + 7) / 8
  let old := m.num b k
  m.write b (toLe k (old + (v % 2 ^ w) * 2 ^ (n * w % 8) - bits old (n * w % 8) w * 2 ^ (n * w % 8)))

/-- Format of a tensor. -/
def tensorFmt (r : SylRec) : Fmt := Fmt.ofField (headField r.body 0 1)

/-- The value of element n of a tensor; `table` is the scale table of its ZQ4 planes, which the form does not name (log 80). -/
def elemValue (table : Nat) (r : SylRec) (m : Mem) (parm n : Nat) : Num :=
  let code := packedBits m (planeOf r m parm 8) (elemBits (tensorFmt r)) n
  if tensorFmt r = .zq4 then
    zqValue table (m.num (planeOf r m parm 16 + n / 512) 1) (m.num (planeOf r m parm 12 + n / 32) 1) code
  else numOf (tensorFmt r) code

/-- The element that an access touches at a point: its tensor's number and record, and the element's number. -/
def touched (l : List SylRec) (params : List Int) (a : Nat) (point : List Int) : Option (Nat × SylRec × Nat) := do
  let r ← (ofType l 4)[a]?
  let t ← (ofType l 2)[headField r.body 0 2]?
  return (headField r.body 0 2, t, flatIndex t params (rowValues r.body 8 (headField r.body 5 1) point params))

/-- Kind of an access: 0 read, 1 write, 2 accumulate. -/
def accessOf (l : List SylRec) (a : Nat) : Nat := ((ofType l 4)[a]?).elim 0 fun r => headField r.body 4 1

/-! ### An instance (R319) -/

/-- What a statement's OP makes of its operands: copy, multiply-accumulate, add, multiply, minimum, maximum, convert. A third operand of a
multiply-accumulate is added (log 80). `down` is rounding mode 2, in which an exact zero sum is -0 (R42). -/
def opValue (op : Nat) (down : Bool) (x : List Num) : Option Num :=
  match op, x with
  | 1, [a, b, c] => some (Num.add down (Num.mul a b) c)
  | 1, [a, b] => some (Num.mul a b)
  | 2, a :: b :: _ => some (Num.add down a b)
  | 3, a :: b :: _ => some (Num.mul a b)
  | 4, a :: b :: _ => some (if a.isNan then a else if b.isNan then b else if Num.cmp b a = .lt then b else a)
  | 5, a :: b :: _ => some (if a.isNan then a else if b.isNan then b else if Num.cmp a b = .lt then b else a)
  | 0, a :: _ => some a
  | 6, a :: _ => some a
  | _, _ => none

/-- The integer that a finite number is; 0 for any other. -/
def wholeOf : Num → Int
  | .fin s m e => scaled s m e 0
  | _ => 0

/-- The bits of a value in a format: a value of integers alone is narrowed as one (R48), any other is rounded (R46, R47); `conv` says that
it is the value of one operand of format `src`, whose widening is exact. -/
def storeValue (f src : Fmt) (conv ints : Bool) (mode : Nat) (sat : Bool) (v : Num) : Nat :=
  match floatFmt f with
  | some g => (g.round mode (sat && !(conv && widens f src)) v).1
  | none => if ints then (intToInt f sat (wholeOf v)).1 else (toIntFmt f mode v).1

/-- An accumulation of v into x (R56, R58): one rounding to nearest even for a float, modulo 2^32 as a signed number for an integer, stored in
the format. -/
def accumulate (f : Fmt) (sat : Bool) (x v : Num) : Nat :=
  match floatFmt f with
  | some g => (g.round 0 false (Num.add false x v)).1
  | none => (intToInt f sat (sx 32 (wrap 32 (wholeOf (Num.add false x v))))).1

/-- The operand accesses of a statement. -/
def operandsOf (s : SylRec) : List Nat := ([6, 8, 10].map fun o => headField s.body o 2).filter fun a => decide (a ≠ 0xFFFF)

/-- An instance reads its operands at its point, and writes or accumulates its result (R319); none where the spec names no value: an OP
without its operands, or a ZQ4 result. -/
def runInst (table : Nat) (l : List SylRec) (parm : Nat) (m : Mem) (i : Inst) : Option Mem := do
  let ps := paramValues l m parm
  let s ← (ofType l 5)[i.stmt]?
  let ops ← (operandsOf s).mapM fun a => touched l ps a i.point
  let op := headField s.body 2 1
  let mode := headField s.body 3 1 % 4
  let sat := bit (headField s.body 3 1) 2
  let acc := decide (accessOf l (headField s.body 4 2) = 2)
  let v ← opValue op (decide (mode = 2) && !acc) (ops.map fun e => elemValue table e.2.1 m parm e.2.2)
  let (_, t, n) ← touched l ps (headField s.body 4 2) i.point
  let f := tensorFmt t
  let conv := decide (op = 0) || decide (op = 6)
  let ints := ops.all fun e => (intRange (tensorFmt e.2.1)).isSome
  let stored := storeValue f ((ops.head?).elim f fun e => tensorFmt e.2.1) conv ints mode sat v
  -- a conversion, and what an integer element takes of a float, is made before it is accumulated
  let code := if !acc then stored
    else accumulate f sat (elemValue table t m parm n) (if conv || ((floatFmt f).isNone && !ints) then numOf f stored else v)
  if f = .zq4 then none else return packedSet m (planeOf t m parm 8) (elemBits f) n code

/-- Instances one after another. -/
def runInsts (table : Nat) (l : List SylRec) (parm : Nat) (m : Mem) (is : List Inst) : Option Mem := is.foldlM (runInst table l parm) m

/-! ### The order of the schedule tree (R320) -/

/-- The place of an instance below node k of the tree, as numbers that are compared one after another, with fuel for the depth: a band's
row values, a sequence's child, and at a leaf the statement and the point; none where the node does not run the instance. -/
def placeBelow (l : List SylRec) (params : List Int) (i : Inst) : Nat → Nat → Option (List Int)
  | 0, _ => none
  | fuel + 1, k => do
    let r ← (ofType l 6)[k]?
    let below : Option (List Int) := (schedKids r).findSome? (placeBelow l params i fuel)
    match headField r.body 0 1 with
    | 1 => return rowValues r.body (schedHead r) (headField r.body 2 1) i.point params ++ (← below)
    | 2 => (schedKids r).zipIdx.findSome? fun e => (placeBelow l params i fuel e.1).map ((e.2 : Int) :: ·)
    | 3 => if (filterStmts r).contains i.stmt then below else none
    | 4 => return (i.stmt : Int) :: i.point
    | _ => below

/-- The place of an instance in the order of the whole tree, whose root is record 0. -/
def placeIn (l : List SylRec) (params : List Int) (i : Inst) : Option (List Int) := placeBelow l params i ((ofType l 6).length + 1) 0

/-- Lexicographic order. -/
def lexLess : List Int → List Int → Bool
  | _, [] => false
  | [], _ :: _ => true
  | a :: l, b :: m => decide (a < b) || (decide (a = b) && lexLess l m)

/-- Whether instance i runs before instance j in the tree's order. -/
def runsBefore (l : List SylRec) (params : List Int) (i j : Inst) : Bool :=
  match placeIn l params i, placeIn l params j with
  | some a, some b => lexLess a b
  | _, _ => false

/-- Whether node k of the tree runs an instance, and whether through the hand-over mark, with fuel for the depth. -/
def viaMark (l : List SylRec) (i : Inst) : Nat → Nat → Option Bool
  | 0, _ => none
  | fuel + 1, k => do
    let r ← (ofType l 6)[k]?
    let below : Option Bool := (schedKids r).findSome? (viaMark l i fuel)
    match headField r.body 0 1 with
    | 3 => if (filterStmts r).contains i.stmt then below else none
    | 4 => return false
    | 5 => below.map fun _ => true
    | _ => below

/-- The cursor of an instance that the tree runs in its hand-over band: the value of the band's outermost member (R320). -/
def cursorOf (l : List SylRec) (params : List Int) (i : Inst) : Option Int := do
  let mark ← (ofType l 6).find? fun r => decide (headField r.body 0 1 = 5)
  let band ← (ofType l 6)[(schedKids mark).headD 0]?
  if viaMark l i ((ofType l 6).length + 1) 0 = some true then return rowValue band.body (schedHead band) i.point params
  none

/-- Whether a list of instances is a run of the form in the order of its tree. -/
def isRun (l : List SylRec) (params : List Int) (is : List Inst) : Prop :=
  is.Pairwise (fun i j => runsBefore l params i j = true) ∧ ∀ i : Inst, i ∈ is ↔ (isInst l params i = true ∧ (placeIn l params i).isSome = true)

/-- The memory that a form leaves: `m` after all of its instances in its tree's order (R319, R320). -/
def formLeaves (table : Nat) (l : List SylRec) (parm : Nat) (m t : Mem) : Prop :=
  ∃ is : List Inst, isRun l (paramValues l m parm) is ∧ runInsts table l parm m is = some t

/-! ### Replacing the tree (R321) -/

/-- The elements that an instance touches, with the kind of access to each: its operands' and its result's. -/
def touches (l : List SylRec) (params : List Int) (i : Inst) : List (Nat × Nat × Nat) :=
  match (ofType l 5)[i.stmt]? with
  | none => []
  | some s => (headField s.body 4 2 :: operandsOf s).filterMap fun a =>
      (touched l params a i.point).map fun e => (e.1, e.2.2, accessOf l a)

/-- Whether the order of two instances counts: they touch one element, and one of them writes it, or one reads and the other
accumulates it. -/
def ordered (l : List SylRec) (params : List Int) (i j : Inst) : Bool :=
  (touches l params i).any fun a => (touches l params j).any fun b =>
    decide (a.1 = b.1) && decide (a.2.1 = b.2.1) && (decide (a.2.2 = 1) || decide (b.2.2 = 1) || decide (a.2.2 ≠ b.2.2))

/-- The reduction of a matrix unit or a near-data unit (R56): the products in groups of W in ascending order of the reduction index, one
rounding a group. -/
def reduced (f : Fmt) (w : Nat) : Nat → Num → List Num → Num
  | 0, c, _ => c
  | k + 1, c, l => if l.isEmpty then c else reduced f w k (numOf f (accumulate f false c (groupSum (l.take w)))) (l.drop w)

/-- What the accumulation of some values into an element may come to (R321): they may change places, and be split into partial sums and
put together with one rounding each; what is placed on a matrix unit or a near-data unit is that unit's reduction in groups of W. -/
inductive Regrouped (f : Fmt) (w : Nat) : List Num → Num → Prop
  | one (v : Num) : Regrouped f w [v] v
  | join {a b : List Num} {x y : Num} : Regrouped f w a x → Regrouped f w b y → Regrouped f w (a ++ b) (numOf f (accumulate f false x y))
  | unit (c : Num) (l : List Num) : Regrouped f w (c :: l) (reduced f w l.length c l)
  | perm {a b : List Num} {x : Num} : a.Perm b → Regrouped f w a x → Regrouped f w b x

/-- What a translator may put in the tree's place, an order and the sums that accumulations come to: it keeps the order of the instances
whose order counts, it keeps the order of instances that differ in the hand-over band's outermost member, so that a cursor names the same
iterations, and its sums are regroupings (R321). -/
def mayReplace (l : List SylRec) (params : List Int) (before : Inst → Inst → Prop) (sum : Fmt → Nat → Num → List Num → Num) : Prop :=
  (∀ i j : Inst, isInst l params i = true → isInst l params j = true → runsBefore l params i j = true →
    (ordered l params i j = true → before i j)
    ∧ ∀ a b : Int, cursorOf l params i = some a → cursorOf l params j = some b → a ≠ b → before i j)
  ∧ ∀ (f : Fmt) (w : Nat) (c : Num) (l : List Num), Regrouped f w (c :: l) (sum f w c l)

end Sys2Proof.Machine
end

