-- ==== Sys2Proof/Laws/Sylsem.lean ====
section
/-! SUPPORT. The order of a Sylvote form's schedule tree is a strict order on instances (R320). -/

namespace Sys2Proof.Machine

theorem lexLess_irrefl (l : List Int) : lexLess l l = false := by
  induction l with
  | nil => rfl
  | cons a l ih => simp [lexLess, ih]

theorem lexLess_trans {a b c : List Int} (h : lexLess a b = true) (g : lexLess b c = true) : lexLess a c = true := by
  induction a generalizing b c with
  | nil => cases c with
    | nil => cases b <;> simp [lexLess] at g
    | cons => rfl
  | cons x a ih => cases b with
    | nil => simp [lexLess] at h
    | cons y b => cases c with
      | nil => simp [lexLess] at g
      | cons z c =>
        simp only [lexLess, Bool.or_eq_true, Bool.and_eq_true, decide_eq_true_eq] at h g ⊢
        rcases h with h | ⟨rfl, h⟩ <;> rcases g with g | ⟨rfl, g⟩
        · exact .inl (by omega)
        · exact .inl h
        · exact .inl g
        · exact .inr ⟨rfl, ih h g⟩

/-- No instance runs before itself. -/
theorem runsBefore_irrefl (l : List SylRec) (params : List Int) (i : Inst) : runsBefore l params i i = false := by
  unfold runsBefore
  cases placeIn l params i <;> simp [lexLess_irrefl]

/-- What runs before an instance runs before all that it runs before. -/
theorem runsBefore_trans {l : List SylRec} {params : List Int} {i j k : Inst} (h : runsBefore l params i j = true)
    (g : runsBefore l params j k = true) : runsBefore l params i k = true := by
  unfold runsBefore at *
  cases hi : placeIn l params i <;> cases hj : placeIn l params j <;> cases hk : placeIn l params k <;> simp_all
  exact lexLess_trans h g

/-- The tree itself is a replacement of itself, with the sums of a unit (R321). -/
theorem tree_mayReplace (l : List SylRec) (params : List Int) :
    mayReplace l params (fun i j => runsBefore l params i j = true) fun f w c xs => reduced f w xs.length c xs :=
  ⟨fun _ _ _ _ h => ⟨fun _ => h, fun _ _ _ _ _ => h⟩, fun _ _ c xs => .unit c xs⟩

end Sys2Proof.Machine
end

