-- ==== Sys2Proof/Tests/Slice0.lean ====
section
/-! SUPPORT. The model's own tests: words written out from the spec's encodings, one ill-formed instruction for each check of
WellFormed, and for every statement concrete states and operands that meet its hypotheses (the witness theorems), most with a
field of the result worked out by hand from the spec. -/

namespace Sys2Proof.Tests

set_option Elab.async false

open Machine Claim

/-! ### Words of the spec (R81 to R91, R284, R167) -/

theorem test_word_mul : decodeCore 0x18818178 = .ok (.mul (.elem 3) (.elem 1) (.queue 0) false) := by decide
theorem test_word_brT : decodeCore 0x04E00005 = .ok (.brT 3 0 5) := by decide
theorem test_word_brAny : decodeCore 0x04A80011 = .ok (.brAny 2 17) := by decide
theorem test_word_halt : decodeCore 0x00400000 = .ok .halt := by decide
theorem test_word_safe : decodeCore 0x01000000 = .ok (.safe 0) := by decide
theorem test_word_jtab : decodeCore 0x08D20000 = .ok (.jtab (.elem 36) 0 false) := by decide
theorem test_word_loopi : decodeCore 0x0C402901 = .ok (.loopi 5 2 1) := by decide
theorem test_word_endl : decodeCore 0x0C800100 = .ok (.endl 2) := by decide
theorem test_word_addi : decodeCore 0x1C0A17F8 = .ok (.addi (.elem 5) (.elem 5) 0x3F8) := by decide
theorem test_word_movi : decodeCore 0x2013FFFD = .ok (.movi (.elem 2) 0x3FFFD) := by decide
theorem test_word_lui : decodeCore 0x20171234 = .ok (.lui (.elem 2) 3 0x1234) := by decide
theorem test_word_setv : decodeCore 0x28810700 = .ok (.setv 2 (.elem 7) false) := by decide
theorem test_word_rdsr : decodeCore 0x28C280C0 = .ok (.rdsr (.elem 5) 0x60 false) := by decide
theorem test_word_ld : decodeCore 0x2C12840A = .ok (.ld 2 5 (.elem 4) (.elem 5)) := by decide
theorem test_word_stCf : decodeCore 0x3068060E = .ok (.stCf 5 (.elem 6) (.elem 7)) := by decide
theorem test_word_aadd : decodeCore 0x34420240 = .ok (.aadd (.elem 4) (.elem 2) 1 false false) := by decide
theorem test_word_fence : decodeCore 0x38000080 = .ok (.fence 2 false) := by decide
theorem test_word_mwait : decodeCore 0x38818812 = .ok (.mwaitGeu 3 (.elem 8) (.elem 9) false) := by decide
theorem test_word_cinc : decodeCore 0x3C000602 = .ok (.cinc (.elem 6) (.elem 1) false) := by decide
theorem test_word_ldkH : decodeCore 0x40410500 = .ok (.ldkH 2 (.elem 5)) := by decide
theorem test_word_rkeep : decodeCore 0x44400C00 = .ok (.rkeep (.elem 12)) := by decide
theorem test_word_chkv : decodeCore 0x45000206 = .ok (.chkv (.elem 2) (.elem 3) false) := by decide
theorem test_word_bwait : decodeCore 0x4881040E = .ok (.bwait 2 (.elem 4) (.elem 7) false) := by decide
theorem test_word_exform : decodeCore 0x4C450812 = .ok (.exform (.elem 10) (.elem 8) (.elem 9) false) := by decide
theorem test_word_pcur : decodeCore 0x50428000 = .ok (.pcur (.elem 5) 0) := by decide
theorem test_word_vfadd : decodeCore 0x8061047B = .ok (.vfadd .f32 (.rot false 2) (.elem 4) (.queue 1) true) := by decide
theorem test_word_vfma : decodeCore 0x8C42050C = .ok (.vfma .f32 (.elem 4) (.elem 5) (.elem 6) false) := by decide
theorem test_word_vrcp : decodeCore 0x9C040900 = .ok (.vrcp (.elem 8) (.elem 9) false) := by decide
theorem test_word_vcvt : decodeCore 0xA0838914 = .ok (.vcvt .bf16 (.elem 7) (.elem 9) .f32 1 false) := by decide
theorem test_word_vzqe : decodeCore 0xA4018404 = .ok (.vzqe (.elem 3) (.elem 4) (.elem 2) false) := by decide
theorem test_word_vbcast : decodeCore 0xA9828700 = .ok (.vbcast 2 (.elem 5) (.elem 7) false) := by decide
theorem test_word_vrmax : decodeCore 0xAE050B40 = .ok (.vrmax .i8 (.elem 10) (.elem 11) false) := by decide
theorem test_word_vcmp : decodeCore 0xB0518104 = .ok (.vcmp .f32 2 3 (.elem 1) (.elem 2) false) := by decide
theorem test_word_vsel : decodeCore 0xB4408207 = .ok (.vsel .f32 (.elem 1) (.elem 2) (.elem 3)) := by decide
theorem test_word_mget : decodeCore 0xC0820300 = .ok (.mget (.elem 4) 3 false) := by decide
theorem test_word_mgat : decodeCore 0xC4408A00 = .ok (.mgat 1 (.elem 10)) := by decide
theorem test_word_epi : decodeCore 0xC8001400 = .ok (.epi (.elem 20) false) := by decide
theorem test_word_brank : decodeCore 0xCD488100 = .ok (.brank (.elem 17) 0 1) := by decide
theorem test_word_bstat : decodeCore 0xCDC28000 = .ok (.bstat (.elem 5)) := by decide
theorem test_word_reserved_major : decodeCore 0xE0000000 = .error .reservedMajor := by decide
theorem test_word_unassigned_minor : decodeCore 0x02000000 = .error .illegal := by decide
theorem test_word_nadd : decodeNear 0x20048C00 = some (.nadd 1 2 3 0) := by decide
theorem test_word_gaddi : decodeNear 0x08CFFFFF = some (.gaddi 3 3 0x3FFFF) := by decide
theorem test_word_bne : decodeNear 0x14C0FFFD = some (.bne 3 0 0x7FFD) := by decide
theorem test_word_nsopen : decodeNear 0x40004800 = some (.nsopen 0 1 2) := by decide
theorem test_word_nmac : decodeNear 0x3E100810 = some (.nmac .i8 4 0 2 0 1 false) := by decide
theorem test_word_mmac : decodeMicro 0x0488810FC0800000 = some .mmac := by decide
theorem test_word_mend : decodeMicro 0 = some .mend := by decide

/-! ### WellFormed refuses -/

theorem test_wf_loop_index : instrWf (.mvi (.elem 0) 6) = false ∧ instrWf (.mvtc (.elem 0) 6) = false := by decide
theorem test_wf_load_size : ∀ f ∈ [Instr.ld, .ldCnt, .ldFe, .ldFec], instrWf (f 6 0 (.elem 0) (.elem 1)) = false := by decide
theorem test_wf_store_size : ∀ f ∈ [Instr.st, .stCf, .stFf, .stFs], instrWf (f 6 (.elem 0) (.elem 1)) = false := by decide
theorem test_wf_atomic_scope : ∀ e ∈ atomics, instrWf (e.1 (.elem 0) (.elem 1) 3 false false) = false := by decide
theorem test_wf_acas_run : instrWf (.acas (.elem 59) (.elem 1) 0 false false) = false := by decide
theorem test_wf_fence_scope : instrWf (.fence 3 false) = false := by decide
theorem test_wf_pld_run : instrWf (.pld (.elem 3) (.elem 59)) = false ∧ instrWf (.pld (.elem 3) (.queue 0)) = false := by decide
theorem test_wf_cursor : instrWf (.pcur (.elem 0) 10) = false := by decide
theorem test_wf_integer_format : ∀ f ∈ [Instr.vadd, .vsub, .vadds, .vsubs, .vmul, .vmin, .vmax],
    instrWf (f .f32 (.elem 0) (.elem 1) (.elem 2) false) = false := by decide
theorem test_wf_float_format : ∀ f ∈ [Instr.vfadd, .vfsub, .vfmul, .vfma, .vfnms, .vfmin, .vfmax],
    instrWf (f .i8 (.elem 0) (.elem 1) (.elem 2) false) = false := by decide
theorem test_wf_fused_queue : instrWf (.vfma .f32 (.queue 0) (.elem 1) (.elem 2) false) = false
    ∧ instrWf (.vfnms .f32 (.queue 0) (.elem 1) (.elem 2) false) = false := by decide
theorem test_wf_convert : instrWf (.vcvt .zq4 (.elem 0) (.elem 1) .f32 0 false) = false
    ∧ instrWf (.vcvt .f32 (.elem 0) (.elem 1) .zq4 0 false) = false ∧ instrWf (.vcvt .f64 (.elem 0) (.elem 1) .f32 2 false) = false := by decide
theorem test_wf_reduce_format : ∀ f ∈ [Instr.vrsum, .vrmax, .vrmin], instrWf (f .e4m3 (.elem 0) (.elem 1) false) = false := by decide
theorem test_wf_compare : instrWf (.vcmp .e4m3 0 3 (.elem 1) (.elem 2) false) = false
    ∧ instrWf (.vcmp .f32 7 3 (.elem 1) (.elem 2) false) = false ∧ instrWf (.vcmp .i8 6 3 (.elem 1) (.elem 2) false) = false := by decide
theorem test_wf_select_format : instrWf (.vsel .zq4 (.elem 0) (.elem 1) (.elem 2)) = false := by decide
theorem test_wf_gather_run : instrWf (.mgat 0 (.elem 58)) = false := by decide
theorem test_wf_epi_run : instrWf (.epi (.elem 57) false) = false := by decide
theorem test_wf_bead_run : instrWf (.bload (.queue 0) (.elem 1)) = false ∧ instrWf (.blnch (.rot false 1)) = false := by decide
theorem test_wf_near_loop_index : instrWf (.gmvi 1 6) = false := by decide
theorem test_wf_near_compare : instrWf (.ncmpI32 6 1 0 0 0) = false ∧ instrWf (.ncmpF32 4 1 0 0 0) = false := by decide
theorem test_wf_nmac : instrWf (.nmac .f64 4 0 2 0 0 false) = false ∧ instrWf (.nmac .zq4 15 0 2 0 0 false) = false := by decide

/-! ### Small states -/

/-- A segment of three bundles at byte 0x40. -/
def seg : Half :=
  { seg := 0x40, next := 0, spidx := 0, hb := false, jt := false, jtAddr := 0,
    bundles := [[(0, 0x00400000)], [(0, 0), (2, 0)], [(0, 0xBC000000)]] }

/-- p1 with the low eight bits set, p3 the bits 0 and 2, p8 the guard of slot 0. -/
def preds : Vector Word 16 := #v[0, 0xFF, 0, 5, 0, 0, 0, 0, 1, 0, 0xFF, 0, 3, 0, 0, 0]

/-- A running launch of object 1 on one cluster, with a stash mapping of 16 KiB at address 0. -/
def launch1 : Launch :=
  { ten := 0, strm := 0, seq := 1, obj := 1, prio := 0, st := .running,
    clusters := [{ maps := #v[some { va := 0, len := 16384, ofs := 0 }, none, none, none, none, none, none, none],
                   share := 4, seqs := [0] }] }

/-- A running sequencer of mode 0 with four granules, at bundle 0 of the segment: s1 = 6, s2 = 7, s3 = 2^63. -/
def seq0 : Seq :=
  { run := .running, place := { launch := 1, granules := 4, lsn := 1 }, pc := { seg := 0x40, idx := 0 }, half := some seg,
    regs := { views := startViews, preds := preds },
    space := ((Mem.write [] 8 (toLe 8 6)).write 16 (toLe 8 7)).write 24 (toLe 8 (2 ^ 63)) }

/-- The sequencer alone on the device, the Gaffer running, page 0 of tenant 0 translated to itself above 1 MiB. -/
def dev0 : Dev :=
  { seqs := [(0, seq0)], launches := [(1, launch1)], fw := { gstat := 1 },
    mmu := { tlb := [{ die := 0, ten := 0, page := 0, res := .mapped true true 0x100000 }] } }

/-- Between bundles, with the sequencer's turn. -/
def idle (f : Seq → Seq) (g : Dev → Dev) : State := { dev := g { dev0 with seqs := [(0, f seq0)] }, turn := .agent 0 0 }

/-- A bundle in progress at its slot i. -/
def iss (i : Nat) : Issue := { q := 0, rest := [(i, 0), (14, 0)], pc := { seg := 0x40, idx := 0 } }

/-- The device in the middle of a bundle at slot i. -/
def mid (i : Nat) (f : Seq → Seq) (g : Dev → Dev) : State :=
  let s := idle f g
  { s with base := s.dev, issue := some (iss i) }

/-- The slot that the instruction sees. -/
def slot (i : Nat) (f : Seq → Seq) (g : Dev → Dev) : Slot := slotOf (mid i f g) (iss i)

/-- The next state of a step that has one. -/
def after (o : Out) : State := match o with | .next s => s | _ => {}

/-- The writes that an instruction leaves pending in sequencer 0. -/
def pend (i : Instr) (s : State) : List PWrite := ((after (exec i s)).dev.seq 0).pend

/-! ### Steps, encodings, traps and memory -/

/-- A near-data unit that runs: g1 = 3, g2 = 5, lanes of n1 and n2. -/
def near0 : Near :=
  { run := .running, launch := 1, code := [0x20048C00, 0], g := #v[0, 3, 5, 0, 0, 0, 0, 0, 0, 0, 0, 0, 0, 0, 0, 0],
    n := vset (vset (.replicate 16 0) 1 7) 2 9 }

/-- The unit alone with the turn. -/
def unitState (f : Near → Near) (g : Dev → Dev) : State := { dev := g { dev0 with near := [(0, f near0)] }, turn := .agent 0 0 }

/-- A running matrix call whose next micro-word is the given one. -/
def calling (w : BitVec 64) (c : Call) (x : Seq) : Seq :=
  { x with mx := { x.mx with running := some c, store := if w = 0 then [] else [(c.upc, w)] },
           regs := { x.regs with views := vset x.regs.views 3 0x20904 } }

/-- Tenant 0's stream 0 with one PAD record of 64 bytes exposed at RIX 0, its buffer at the stream area. -/
def streamState (g : Dev → Dev) : State :=
  { dev := g { dev0 with
      tenants := vset (.replicate 17 {}) 0 { active := true, sarea := 0x200000, wgt := 1, part := 0 },
      streams := [(0, { base := 0, size := 12, rix := 0, wix := 64, state := 1 })],
      mem := Mem.write [] 0x200000 (toLe 8 0x100) } }

theorem witness_step_slot :
    let s : State := { mid 0 id id with issue := some { iss 0 with rest := [(0, 0x18818178)] } }
    s.dev.fleet.off = false ∧ s.issue = some { iss 0 with rest := [(0, 0x18818178)] }
      ∧ decodeCore 0x18818178 = .ok (.mul (.elem 3) (.elem 1) (.queue 0) false) := by decide +kernel

theorem witness_step_event :
    let s : State := { idle id id with agenda := [.ev .loadEntryDeliver (.agent 0 2)] }
    s.dev.fleet.off = false ∧ s.issue = none ∧ s.agenda = [.ev .loadEntryDeliver (.agent 0 2)] := by decide +kernel

theorem witness_step_unit :
    let s : State := { unitState id id with agenda := [.unit 0] }
    s.dev.fleet.off = false ∧ s.issue = none ∧ (s.dev.unit 0).run = .running ∧ (s.dev.unit 0).start = none
      ∧ (s.dev.unit 0).code[(s.dev.unit 0).pc]? = some 0x20048C00 ∧ decodeNear 0x20048C00 = some (.nadd 1 2 3 0) := by decide +kernel

theorem witness_step_matrix :
    let s : State := { idle (calling 0x0800000000000000 {}) id with agenda := [.matrix 0] }
    s.issue = none ∧ (s.dev.seq 0).mx.running = some {} ∧ (s.dev.seq 0).trap = none ∧ (0 : Nat) < (s.dev.seq 0).microWords
      ∧ 0 ∉ (s.dev.seq 0).mx.poisoned ∧ decodeMicro ((s.dev.seq 0).mx.store.find 0 0).toNat = some .mpub := by decide +kernel

theorem witness_step_record :
    let s : State := { streamState id with agenda := [.take 0 0] }
    let x := s.dev.stream 0 0
    let h := gget s.dev (streamByte s.dev 0 0 x.rix) 8
    s.issue = none ∧ s.dev.fw.gstat = 1 ∧ leaderFree s.dev = true ∧ streamOn s.dev 0 0 = true ∧ x.state = 1 ∧ statusDue s.dev 0 = false
      ∧ h = 0x100 ∧ x.rix + 64 ≤ x.wix ∧ typeOk 0 0 = true ∧ lenOk 0 1 = true ∧ x.rix % 2 ^ x.size + 64 ≤ 2 ^ x.size
      ∧ recordStep 0 0 = some .padRec := by decide +kernel

theorem witness_encode_core : instrWf (.mul (.elem 3) (.elem 1) (.queue 0) false) = true
    ∧ encodeCore (.mul (.elem 3) (.elem 1) (.queue 0) false) = some 0x18818178 := by decide +kernel

theorem witness_encode_near : instrWf (.nadd 1 2 3 0) = true ∧ encodeNear (.nadd 1 2 3 0) = some 0x20048C00 := by decide +kernel

/-- A bundle of a halt and a word of major 0x2F behind it. -/
def bad2 : Half := { seg with bundles := [[(0, 0x00400000), (2, 0xBC000000)]] }

theorem witness_unassigned : readyToIssue (idle (fun x => { x with half := some bad2 }) id) 0 bad2 [(0, 0x00400000)] [(2, 0xBC000000)]
    ∧ (0xBC000000 : Nat) < 2 ^ 32 ∧ 0xBC000000 / 2 ^ 26 = 0x2F
    ∧ ((after (exec .bundleIssue (idle (fun x => { x with half := some bad2 }) id))).dev.seq 0).trap = some { cause := 1, slot := 2, cont := [0xBC000000] } := by
  refine ⟨⟨⟨0, rfl⟩, rfl, by decide +kernel, by decide +kernel, by decide +kernel, by decide +kernel, by decide +kernel, by decide +kernel, by decide +kernel,
    by decide +kernel, by decide +kernel, by decide +kernel, by decide +kernel, by decide +kernel, by decide +kernel, by decide +kernel, by decide +kernel,
    by decide +kernel, by decide +kernel, ?_⟩, by decide +kernel⟩
  intro e h
  rw [List.mem_singleton.1 h]
  exact ⟨.halt, by decide +kernel⟩

theorem witness_invariant_keeps : Inv (mid 0 id id) ∧ ∃ t, step (mid 0 id id) = .next t := ⟨⟨rfl, rfl⟩, _, rfl⟩

theorem witness_pending_lands :
    let d : Dev := { dev0 with seqs := [(0, { seq0 with pend := [{ tgt := .reg 8, data := 42, en := 0xFF }, { tgt := .pred 1, data := predWrite 1 4 0xF |>.data }] })] }
    (d.seq 0).space.wf = true ∧ ((landDue 0 d).seq 0).spaceNum 8 8 = 42 ∧ ((landDue 0 d).seq 0).pred 1 = 0xF4 := by decide +kernel

theorem witness_safe_busy :
    let s := mid 0 (fun x => { x with pend := [{ tgt := .reg 8, data := 42, en := 0xFF, rdly := 2 }] }) id
    s.issue = some (iss 0) ∧ safeGate (landDue 0 s.base) 0 (slotNo (slotOf s (iss 0))) = .error (.trap { cause := Cause.safeBusy.code, slot := 0 }) := by decide +kernel

theorem witness_trap_entry :
    let d : Dev := { dev0 with seqs := [(0, { seq0 with pend := [{ tgt := .reg 8, data := 42, en := 0xFF, rdly := 2 }] })] }
    let t : TrapInfo := { cause := 1, slot := 2, cont := [5] }
    let x := d.seq 0
    d.placed = [] ∧ d.mem.wf = true ∧ d.mmu.watches = [] ∧ x.place.control = false ∧ x.owner = false ∧ t.cont.length ≤ 8 ∧ x.pend.length ≤ 192
      ∧ x.pc.seg % 64 = 0 ∧ x.pc.seg < 2 ^ 56 ∧ x.pc.idx < 128 ∧ x.bead.wave = none
      ∧ (∀ w ∈ x.pend, w.rdly ≤ 19 ∧ Tgt.ofCode ((takeTrap d 0 t).seq 0) w.tgt.code.1 (w.tgt.code.2 % 2 ^ 32) = some w.tgt)
      ∧ (takeTrap d 0 t).mem.num 2 1 = 2 := by decide +kernel

theorem witness_register_frame :
    registerOnly (.mul (.elem 3) (.elem 1) (.elem 2) false) ∧ (mid 0 id id).issue = some (iss 0)
      ∧ ∃ t, exec (.mul (.elem 3) (.elem 1) (.elem 2) false) (mid 0 id id) = .next t ∧ t.issue ≠ none :=
  ⟨.inl ⟨⟨.mul, 3, fun x y => x * y⟩, by simp [scalarBinary], .elem 3, .elem 1, .elem 2, false, rfl⟩, rfl, _, rfl, nofun⟩

/-- A store stream of one 8-byte element from address 16, its entry 0 with the low eight bytes enabled. -/
def stream0 : Strm := { kind := .st, col := 0, base := 16, stride := 8, esz := 8, cnt := 1, pk := false }

/-- The stream at the head of the order, its entry landed. -/
def storing (x : Seq) : Seq :=
  { x with ord := [{ id := 0, op := .stream stream0 }],
           cols := vset (.replicate 4 {}) 0 { saq := 1, sdRes := 1, sdAsg := 1, asgs := [(0, 1)], sdq := [{ idx := 0, data := some (0x1122, 0xFF) }] } }

theorem witness_store_effect :
    let d := (idle storing id).dev
    d.placed = [] ∧ d.splits = [] ∧ goesFar d 0 16 0x100010 = false ∧ d.mem.wf = true ∧ entryData (d.seq 0) 0 0 = some (0x1122, 0xFF)
      ∧ (storeAt 0 stream0 0x100010 d).mem.num 0x100010 8 = 0x1122 := by decide +kernel

theorem witness_store_waits :
    let d := (idle (fun x => { storing x with cols := vset (.replicate 4 {}) 0 { saq := 1, sdAsg := 1, asgs := [(0, 1)] } }) id).dev
    d.placed = [] ∧ d.mem.wf = true ∧ entryData (d.seq 0) 0 0 = none ∧ (let e := storeAt 0 stream0 0x100010 d; byteIn 0 e.mem 0x100017 e.placed.reverse = none ∧ byteIn 0 e.mem 0x100018 e.placed.reverse = some 0) := by decide +kernel

theorem witness_atomic_effect :
    let d : Dev := { dev0 with mem := Mem.write [] 0x100010 (toLe 8 41) }
    d.placed = [] ∧ d.mem.wf = true ∧ (1 : Nat) < 2 ^ (8 * 8) ∧ (0 : Nat) < 2 ^ (8 * 8)
      ∧ (place d (.rmw 0 0 0 16 true 1 0x100010 8 1 0)).mem.num 0x100010 8 = 42 := by decide +kernel

theorem witness_write_effect :
    let d : Dev := { dev0 with poison := [0x100001] }
    d.placed = [] ∧ d.mem.wf = true ∧ (placeBytes d 0 0x100000 [1, 2] false).poison = [] ∧ (placeBytes d 0 0x100000 [1, 2] false).mem.num 0x100000 2 = 0x201 := by decide +kernel

theorem witness_store_step :
    let s := idle storing id
    s.turn = .agent 0 0 ∧ (s.dev.seq 0).ord = [{ id := 0, op := .stream stream0 }] ∧ stream0.cnt ≤ stream0.next + 1 ∧ s.dev.placed = []
      ∧ s.dev.mem.wf = true ∧ headForbidden s.dev 0 = false ∧ goesFar s.dev 0 (stream0.addr 0) 0x100010 = false ∧ s.dev.splits = [] ∧ accessWay s.dev 0 (stream0.addr 0) = .here 0x100010 true true
      ∧ entryData (s.dev.seq 0) 0 0 = some (0x1122, 0xFF) ∧ (after (exec .storeElementPerform s)).dev.mem.num 0x100010 8 = 0x1122 := by decide +kernel

/-! ### Control, scalars and system registers -/

/-- What a chain of reads and checks gives, when it completes. -/
def runs {α : Type} (m : SlotM α) (x : Slot) : Option α := match m x with | .ok (v, _) => some v | .error _ => none

/-- The slot that it leaves. -/
def left {α : Type} (m : SlotM α) (x : Slot) : Slot := match m x with | .ok (_, y) => y | .error _ => x

/-- Scalars of the view w0 by number. -/
def scalars (l : List (Nat × Nat)) (x : Seq) : Seq := { x with space := l.foldl (fun m e => m.write (8 * e.1) (toLe 8 e.2)) x.space }

theorem witness_control_words :
    (mid 0 id id).issue = some (iss 0) ∧ (seqOf (slot 0 id id)).region.levels = [] ∧ safeGate (landDue 0 (mid 0 id id).base) 0 0 = .ok ()
      ∧ ((after (exec (.nop 4) (mid 0 id id))).issue.map (·.nop)) = some 5 := by decide +kernel

theorem witness_trap_guard : enabled (slot 0 id id) true = true ∧ enabled (slot 1 id id) true = false
    ∧ ((after (exec (.trap 9 true) (mid 0 id id))).issue.bind (·.after)) = some { cause := 0x11, slot := 0, cont := [9] }
    ∧ ((after (exec (.bkpt 9 true) (mid 1 id id))).issue.bind (·.after)) = none := by decide +kernel

theorem witness_nop_bundles :
    let s := idle (fun x => { x with nopLeft := 2 }) id
    nopReady s 0 false ∧ (s.dev.seq 0).nopLeft = 1 + 1 ∧ ((issueBundle 0 s).dev.seq 0).nopLeft = 1 :=
  ⟨⟨rfl, by decide +kernel, rfl, rfl, rfl, rfl, by decide +kernel, nofun, rfl, rfl, rfl⟩, rfl, by decide +kernel⟩

theorem witness_nop_last :
    let s := idle (fun x => { x with nopLeft := 1 }) id
    nopReady s 0 false ∧ (s.dev.seq 0).nopLeft = 0 + 1 ∧ (s.dev.seq 0).half = some seg ∧ (s.dev.seq 0).pc.idx + 1 < seg.bundles.length
      ∧ ((issueBundle 0 s).dev.seq 0).pc = { seg := 0x40, idx := 1 } :=
  ⟨⟨rfl, by decide +kernel, rfl, rfl, rfl, rfl, by decide +kernel, nofun, rfl, rfl, rfl⟩, rfl, rfl, by decide, by decide +kernel⟩

theorem witness_nop_one : exec (.nop 0) { mid 0 id id with issue := some { iss 0 with nop := 1 } }
    = .next (afterSlot { mid 0 id id with issue := some { iss 0 with nop := 1 } } (slotOf (mid 0 id id) { iss 0 with nop := 1 })) := rfl

theorem witness_nop_word :
    let s : State := { mid 0 id id with issue := some { iss 0 with rest := [(0, 3)] } }
    let t := after (exec (.nop 3) s)
    (s.dev.seq 0).stepMode = false ∧ t.issue = none ∧ (t.dev.seq 0).trap = none ∧ (t.dev.seq 0).want = none ∧ (t.dev.seq 0).nopLeft = 3 := by decide +kernel

theorem witness_branch : (mid 0 id id).issue = some (iss 0)
    ∧ ((after (exec (.brT 3 2 1) (mid 0 id id))).issue.bind (·.next)) = some { seg := 0x40, idx := 1 }
    ∧ ((after (exec (.brT 3 1 1) (mid 0 id id))).issue.bind (·.next)) = none
    ∧ ((after (exec (.brAny 0 1) (mid 0 id id))).issue.bind (·.next)) = some { seg := 0x40, idx := 1 }
    ∧ ((after (exec (.brNone 2 1) (mid 0 id id))).issue.bind (·.next)) = some { seg := 0x40, idx := 1 } := by decide +kernel

/-- s1 points at bundle 1 of the segment at hand. -/
def near1 : Seq → Seq := scalars [(1, 2 ^ 56 + 0x40)]

theorem witness_jump :
    runs (Op.rdS (.elem 1)) (slot 0 near1 id) = some (BitVec.ofNat 64 (2 ^ 56 + 0x40)) ∧ enabled (slot 0 near1 id) true = true
      ∧ ((after (exec (.jmp (.elem 1) true) (mid 0 near1 id))).issue.bind (·.next)) = some { seg := 0x40, idx := 1 } := by decide +kernel

theorem witness_jump_ok : jumpOk (slot 0 near1 id) (slot 0 near1 id) (2 ^ 56 + 0x40) := ⟨rfl, rfl, (by decide : (1 : Nat) < 3)⟩

theorem witness_jump_squashed : runs (Op.rdS (.elem 1)) (slot 1 near1 id) = some (BitVec.ofNat 64 (2 ^ 56 + 0x40)) ∧ enabled (slot 1 near1 id) true = false := by
  decide +kernel

/-- The segment has a jump-target table at address 0x1000 with one entry, bundle 0 of the segment at 0x80, which is expanded. -/
def tabled (x : Seq) : Seq :=
  { scalars [(1, 0x80)] x with half := some { seg with jt := true, jtAddr := 0x1000 }, other := some { seg with seg := 0x80 } }

/-- The table in memory. -/
def tableMem (d : Dev) : Dev := { d with mem := (Mem.write [] 0x101000 (toLe 8 1)).write 0x101008 (toLe 8 0x80) }

theorem witness_jump_far : jumpOk (slot 0 tabled tableMem) (left Op.jumpTable (slot 0 tabled tableMem)) 0x80 :=
  ⟨rfl, [0x80], { seg with seg := 0x80 }, rfl, ⟨0x80, List.mem_cons_self, rfl⟩, rfl, rfl, fun _ => (by decide : (0 : Nat) < 3)⟩

theorem witness_call :
    runs (do let v ← Op.rdS (.elem 1); let t ← Op.target 0 (.elem 2); return (v, t)) (slot 0 near1 id) = some (BitVec.ofNat 64 (2 ^ 56 + 0x40), .reg 16)
      ∧ (let y := withWrites (slot 0 near1 id) (scalarWrite (.reg 16) 1 (returnPtr (slot 0 near1 id)) true); jumpOk y y (2 ^ 56 + 0x40))
      ∧ pend (.call (.elem 2) (.elem 1) false) (mid 0 near1 id) = [{ tgt := .reg 16, data := BitVec.ofNat 256 (2 ^ 56 + 0x40), en := 0xFF, rdly := 1 }] :=
  ⟨rfl, ⟨rfl, rfl, (by decide : (1 : Nat) < 3)⟩, by decide +kernel⟩

theorem witness_jump_table :
    runs (do let t ← Op.target 0 (.elem 2); let l ← Op.jumpTable; return (t, l)) (slot 0 tabled tableMem) = some (.reg 16, [0x80])
      ∧ ([0x80] : List Nat)[(0#14).toNat]? = some 0x80
      ∧ pend (.jtab (.elem 2) 0 false) (mid 0 tabled tableMem) = [{ tgt := .reg 16, data := 0x80, en := 0xFF, rdly := 1 }] := by decide +kernel

theorem witness_loop_begins :
    runs (Op.rdS (.elem 1)) (slot 0 id id) = some 6 ∧ (6 : Nat) + 2 ≤ 2 ^ 32 - 1 ∧ (seqOf (slot 0 id id)).regs.loops.length < 6
      ∧ pend (.loop (.elem 1) 2 1) (mid 0 id id) =
        [{ tgt := .loopPush, data := BitVec.ofNat 256 (8 * 2 ^ 32 + 1 * 2 ^ 64), en := 0x1FF, rdly := 1 }, { tgt := .stage, data := 1, en := 3, rdly := 1 }] := by
  decide +kernel

theorem witness_loop_of_none : loopReady (slot 0 id id) 0 2 ∧ pend (.loopi 0 2 1) (mid 0 id id) = []
    ∧ ((after (exec (.loopi 0 2 1) (mid 0 id id))).issue.bind (·.next)) = some { seg := 0x40, idx := 2 } :=
  ⟨⟨by decide, nofun⟩, by decide +kernel, by decide +kernel⟩

theorem witness_loop_full_skips :
    loopReady (slot 0 (fun x => { x with regs := { x.regs with loops := .replicate 6 {} } }) id) 0 0
      ∧ ¬ loopReady (slot 0 (fun x => { x with regs := { x.regs with loops := .replicate 6 {} } }) id) 1 0 :=
  ⟨⟨by decide, nofun⟩, fun h => absurd (h.2 (by decide)) (by decide)⟩

/-- Inside a loop with n passes left. -/
def looping (n : BitVec 32) (x : Seq) : Seq := { x with regs := { x.regs with loops := [{ index := 4, remaining := n, first := 1 }], stage := 1 } }

theorem witness_loop_ends :
    (seqOf (slot 0 (looping 1) id)).regs.loops = { index := 4, remaining := 1, first := 1 } :: []
      ∧ pend (.endl 0) (mid 0 (looping 1) id) = [{ tgt := .loopPop, rdly := 1 }]
      ∧ (seqOf (slot 0 (looping 3) id)).regs.loops = { index := 4, remaining := 3, first := 1 } :: []
      ∧ pend (.endl 2) (mid 0 (looping 3) id) =
        [{ tgt := .loopSet, data := BitVec.ofNat 256 (2 * 2 ^ 32 + 5), en := 0xFF, rdly := 1 }, { tgt := .stage, data := 2, en := 3, rdly := 1 }]
      ∧ ((after (exec (.endl 2) (mid 0 (looping 3) id))).issue.bind (·.next)) = some { seg := 0x40, idx := 1 } := by decide +kernel

theorem witness_loop_reads :
    runs (Op.target 0 (.elem 2)) (slot 0 (looping 3) id) = some (.reg 16)
      ∧ pend (.mvi (.elem 2) 0) (mid 0 (looping 3) id) = [{ tgt := .reg 16, data := 4, en := 0xFF, rdly := 1 }]
      ∧ pend (.mvtc (.elem 2) 1) (mid 0 (looping 3) id) = [{ tgt := .reg 16, data := 0, en := 0xFF, rdly := 1 }] := by decide +kernel

theorem witness_scalar_operands :
    runs (do let a ← Op.rdS (.elem 1); let b ← Op.rdS (.elem 2); let t ← Op.target 0 (.elem 3); return (a, b, t)) (slot 0 id id) = some (6, 7, .reg 24)
      ∧ pend (.mul (.elem 3) (.elem 1) (.elem 2) false) (mid 0 id id) = [{ tgt := .reg 24, data := 42, en := 0xFF, rdly := 3 }]
      ∧ pend (.sub (.elem 3) (.elem 1) (.elem 2) false) (mid 0 id id) = [{ tgt := .reg 24, data := 0xFFFFFFFFFFFFFFFF, en := 0xFF, rdly := 1 }] := by decide +kernel

/-- A load-data entry waits in column 0. -/
def loaded (x : Seq) : Seq := { x with cols := vset (.replicate 4 {}) 0 { ldq := [{ id := 0, data := 35, elems := 1, filled := 1 }] } }

theorem witness_scalar_queues :
    runs (do let a ← Op.rdS (.queue 0); let b ← Op.rdS (.elem 2); let t ← Op.target 0 (.queue 0); return (a, b, t)) (slot 0 loaded id)
        = some (35, 7, .storeData 0 0)
      ∧ pend (.div (.queue 0) (.queue 0) (.elem 2) false) (mid 0 loaded id) =
        [{ tgt := .storeData 0 0, data := 5, en := BitVec.allOnes 32, rdly := 20 }]
      ∧ pend (.div (.queue 0) (.queue 0) (.elem 2) true) (mid 1 loaded id) =
        [{ tgt := .storeData 0 0, data := 5, en := 0, rdly := 20 }] := by decide +kernel

theorem witness_division_corners :
    pend (.div (.elem 3) (.elem 1) (.elem 4) false) (mid 0 id id) = [{ tgt := .reg 24, data := 0xFFFFFFFFFFFFFFFF, en := 0xFF, rdly := 20 }]
      ∧ pend (.rem (.elem 4) (.elem 1) (.elem 5) false) (mid 0 id id) = [{ tgt := .reg 32, data := 6, en := 0xFF, rdly := 20 }] := by decide +kernel

theorem witness_scalar_unary :
    runs (do let a ← Op.rdS (.elem 1); let t ← Op.target 0 (.elem 3); return (a, t)) (slot 0 id id) = some (6, .reg 24)
      ∧ pend (.addi (.elem 3) (.elem 1) 0x3FF) (mid 0 id id) = [{ tgt := .reg 24, data := 5, en := 0xFF, rdly := 1 }]
      ∧ pend (.clz (.elem 3) (.elem 4) false) (mid 0 id id) = [{ tgt := .reg 24, data := 64, en := 0xFF, rdly := 1 }]
      ∧ pend (.lui (.elem 1) 3 0x1234) (mid 0 id id) = [{ tgt := .reg 8, data := 0x1234000000000006, en := 0xFF, rdly := 1 }]
      ∧ pend (.movi (.elem 2) 0x3FFFD) (mid 0 id id) = [{ tgt := .reg 16, data := 0xFFFFFFFFFFFFFFFD, en := 0xFF, rdly := 1 }] := by decide +kernel

theorem witness_compare :
    runs (do let a ← Op.rdS (.elem 3); let b ← Op.rdS (.elem 1); return (a, b)) (slot 0 id id) = some (BitVec.ofNat 64 (2 ^ 63), 6)
      ∧ pend (.clt 4 (.elem 3) (.elem 1) false) (mid 0 id id) = [predWrite 4 (BitVec.allOnes 64) (BitVec.allOnes 64)]
      ∧ pend (.cltu 4 (.elem 3) (.elem 1) false) (mid 0 id id) = [predWrite 4 0 (BitVec.allOnes 64)] := by decide +kernel

theorem witness_predicates :
    pend (.pandn 4 1 3 false) (mid 0 id id) = [predWrite 4 0xFA (BitVec.allOnes 64)]
      ∧ pend (.pst 4 0 false) (mid 0 (looping 3) id) = [predWrite 4 (BitVec.allOnes 64) (BitVec.allOnes 64)]
      ∧ runs (Op.rdS (.elem 1)) (slot 0 id id) = some 6 ∧ pend (.pfirst 4 (.elem 1) false) (mid 0 id id) = [predWrite 4 0x3F (BitVec.allOnes 64)]
      ∧ runs (Op.target 0 (.elem 2)) (slot 0 id id) = some (.reg 16)
      ∧ pend (.spf (.elem 2) 3 false) (mid 0 id id) = [{ tgt := .reg 16, data := 5, en := 0xFF, rdly := 1 }] := by decide +kernel

theorem witness_view_writes :
    (seqOf (slot 0 id id)).owns (2 / 2) = true ∧ pend (.setbi 2 5 false) (mid 0 id id) = [{ tgt := .base 2, data := 5, en := 3, rdly := 2 }]
      ∧ runs (Op.rdS (.elem 1)) (slot 0 id id) = some 6 ∧ pend (.setb 2 (.elem 1) false) (mid 0 id id) = [{ tgt := .base 2, data := 6, en := 3, rdly := 2 }]
      ∧ (let f := scalars [(7, 0x0000000000020700)]
         runs (Op.rdS (.elem 7)) (slot 0 f id) = some 0x20700 ∧ viewCheck (seqOf (slot 0 f id)) 3 0x20700 = none ∧ ringIdle (seqOf (slot 0 f id)) = true
         ∧ pend (.setv 3 (.elem 7) false) (mid 0 f id) = [{ tgt := .view 3, data := 0x20700, en := 0xFF, rdly := 4 }]) := by decide +kernel

theorem witness_system_registers :
    runs (Op.rdS (.elem 1)) (slot 0 id id) = some 6 ∧ srAccess false 0x0C = .readWrite ∧ srRefuses (slot 0 id id).dev 0x0C 6 = false
      ∧ pend (.wrsr (.elem 1) 0x0C false) (mid 0 id id) = [{ tgt := .sysreg 0x0C, data := 6, en := 0xFF, rdly := 1 }]
      ∧ srAccess false 0 ≠ .unassigned ∧ runs (Op.target 0 (.elem 2)) (slot 0 id id) = some (.reg 16)
      ∧ srAccess true 0x63 = .writeOnly ∧ (let f := fun x : Seq => { x with place := { x.place with control := true } }
         srAccess true 0x61 = .readWrite ∧ srRefuses (slot 0 (scalars [(1, 0x1000)] ∘ f) id).dev 0x61 0x1000 = false)
      ∧ srAccess false 0x40 = .readWrite ∧ srRefuses (slot 0 id id).dev 0x40 4 = false ∧ srAccess false 0x20 = .read := by decide +kernel

/-! ### Memory access -/

/-- The device with page 1 of tenant 0 mapped as well, page 2 not mapped. -/
def pages (d : Dev) : Dev :=
  { d with mmu := { d.mmu with tlb := d.mmu.tlb ++ [{ die := 0, ten := 0, page := 1, res := .mapped true true 0x104000 },
                                                    { die := 0, ten := 0, page := 2, res := .unmapped }] } }

theorem foot_ok (i : Nat) (f : Seq → Seq) (g : Dev → Dev) (l : List (Nat × Nat)) (rd wr : Bool)
    (h : (l.all fun e => decide (e.1 < 2 ^ 56) && decide (pageFound (slot i f g) rd wr e.1 = some 0)) = true) : footOk (slot i f g) l rd wr := by
  intro e he
  simpa using List.all_eq_true.1 h e he

theorem witness_footprint_passes : footOk (slot 0 id id) [(0, 8), (16376, 8)] true true := foot_ok _ _ _ _ _ _ (by decide +kernel)

/-- Pages 0 to 4 of tenant 0: allowed, held by the check of this slot alone, not translated, refused, read only. -/
def fivePages (d : Dev) : Dev :=
  { d with mmu := { d.mmu with tlb := d.mmu.tlb ++ [{ die := 0, ten := 0, page := 3, res := .refused }, { die := 0, ten := 0, page := 4, res := .mapped true false 0x104000 }] } }

theorem witness_footprint_pages :
    let x := slot 0 (fun y => { y with checks := [(1, 0)] }) fivePages
    ((List.range 5).map fun k => pageFound x true true (16384 * k)) = [some 0, some 0, none, some 1, some 2]
      ∧ Op.footprint [(2 ^ 56, 8)] true false true x = .error (.trap { cause := 0x20, slot := 0, cont := [2 ^ 56, Config.accessKind 0] })
      ∧ Op.footprint [(0, 8), (49152, 8)] true false true x = .error (.trap { cause := 0x27, slot := 0 })
      ∧ Op.footprint [(0, 8), (65536, 8)] false true false x = .error (.trap { cause := 0x20, slot := 0, cont := [65536] }) := by
  refine ⟨by decide +kernel, rfl, rfl, rfl⟩

theorem witness_footprint_held : (match Op.footprint [(0, 8), (32768, 8)] true false true (slot 0 id fivePages) with
    | .error (.more d) => ((d.seq 0).checks.find? 0, (d.seq 0).checks.find? 2) | _ => (none, none)) = (some 0, none) := by decide +kernel

/-- s1 is an address, s2 a shape word. -/
def shaped (va w : Nat) : Seq → Seq := scalars [(1, va), (2, w)]

theorem stream_ok {x : Slot} {t : Strm} (a : t.base % t.esz = 0) (b : t.stride % t.esz = 0) (c : t.rc = 0) (k : t.kind ≠ .stCf)
    (n : (seqOf x).place.control = false) (f : t.kind.fullEmpty = false) (g : footOk x t.foot (!t.kind.store) t.kind.store) : streamOk x t :=
  ⟨a, b, fun _ => c, fun _ => n, fun h => absurd h k, fun h => absurd (f ▸ h) nofun, g⟩

/-- Two elements of eight bytes. -/
def shape2 : Nat := 8 * 2 ^ 32 + 2

theorem witness_loads : ∀ k ∈ [StrKind.ld, .ldCnt],
    streamOk (slot 0 (shaped 64 shape2) id) (Strm.ofShape k 0 0 3 5 64 shape2) := by
  intro k hk
  simp only [List.mem_cons, List.not_mem_nil, or_false] at hk
  rcases hk with rfl | rfl <;>
    exact stream_ok (by decide) (by decide) rfl nofun rfl rfl (foot_ok _ _ _ _ _ _ (by decide +kernel))

theorem witness_load_operands :
    runs (do let a ← Op.rdS (.elem 1); let b ← Op.rdS (.elem 2); return (a, b)) (slot 0 (shaped 64 shape2) id) = some (64, BitVec.ofNat 64 shape2)
      ∧ (seqOf (slot 0 (shaped 64 shape2) id)).region.levels = [] ∧ ((seqOf (slot 0 (shaped 64 shape2) id)).col 0).laq < 64
      ∧ ((after (exec (.ld 3 5 (.elem 1) (.elem 2)) (mid 0 (shaped 64 shape2) id))).dev.seq 0).ord.length = 1 := by decide +kernel

theorem witness_load_of_nothing : (Strm.ofShape .ld 0 0 3 5 64 (8 * 2 ^ 32)).cnt = 0
    ∧ streamOk (slot 0 (shaped 64 (8 * 2 ^ 32)) id) (Strm.ofShape .ld 0 0 3 5 64 (8 * 2 ^ 32)) :=
  ⟨by decide, stream_ok (by decide) (by decide) rfl nofun rfl rfl (foot_ok _ _ _ _ _ _ (by decide +kernel))⟩

/-- Two elements of sixteen bytes. -/
def shape16 : Nat := 16 * 2 ^ 32 + 2

theorem witness_full_empty : ∀ k ∈ [StrKind.ldFe, .ldFec, .stFf, .stFs],
    streamOk (slot 0 (shaped 64 shape16) id) (Strm.ofShape k 0 0 4 0 64 shape16) := by
  intro k hk
  simp only [List.mem_cons, List.not_mem_nil, or_false] at hk
  rcases hk with rfl | rfl | rfl | rfl <;>
    exact ⟨by decide, by decide, fun _ => rfl, fun _ => rfl, nofun, fun _ => ⟨by decide, by decide +kernel⟩, foot_ok _ _ _ _ _ _ (by decide +kernel)⟩

theorem witness_store : streamOk (slot 0 (shaped 64 shape2) id) (Strm.ofShape .st 0 0 3 0 64 shape2) :=
  stream_ok (by decide) (by decide) rfl nofun rfl rfl (foot_ok _ _ _ _ _ _ (by decide +kernel))

/-- A counted fill of one 256-byte unit that one reader consumes. -/
def shapeC : Nat := 8 * 2 ^ 32 + 2 ^ 24 + 2 ^ 23 + 32

theorem witness_counted_fill : streamOk (slot 0 (shaped 256 shapeC) id) (Strm.ofShape .stCf 0 0 3 0 256 shapeC) :=
  ⟨by decide, by decide, fun h => absurd rfl h, fun _ => rfl, fun _ => ⟨by decide, by decide, by decide, by decide +kernel, by decide +kernel⟩,
    nofun, foot_ok _ _ _ _ _ _ (by decide +kernel)⟩

/-- Inside one region level. -/
def inRegion (x : Seq) : Seq := { x with region := { x.region with levels := [{ restart := {}, limit := 1, loops := [], stage := 0, head := 0, tail := 0, np := 0, tags := [], sdRes := [] }] } }

theorem witness_store_room :
    deferOk (slot 0 (shaped 64 shape2) id) ∧ storesHeld (seqOf (slot 0 (shaped 64 shape2) id)) 0 < 64
      ∧ runs (Op.watch [(64, 8), (72, 8)]) (slot 0 (shaped 64 shape2) id) = some ()
      ∧ deferOk (slot 0 (inRegion ∘ shaped 64 shape2) id) ∧ (Strm.ofShape .st 0 0 3 0 64 shape2).entries ≤ 32
      ∧ runs (Op.watch [(64, 8), (72, 8)]) (slot 0 (inRegion ∘ shaped 64 shape2) id) = some () :=
  ⟨fun h => absurd rfl h, by decide +kernel, by decide +kernel, fun _ => by decide +kernel, by decide +kernel, by decide +kernel⟩

theorem witness_atomic :
    runs (do let a ← Op.rdS (.elem 2); let c ← Op.rdRun (.elem 2) 1; let b ← Op.rdS (.elem 1); return (a, c, b)) (slot 0 (shaped 64 5) id)
        = some (5, BitVec.ofNat 64 (2 ^ 63), 64)
      ∧ (64 : Nat) % 8 = 0 ∧ (64 : Nat) % 4 = 0 ∧ deferOk (slot 0 (shaped 64 5) id) ∧ ((seqOf (slot 0 (shaped 64 5) id)).col 0).laq < 64
      ∧ footOk (slot 0 (shaped 64 5) id) [(64, 8)] true true ∧ runs (Op.watch [(64, 8)]) (slot 0 (shaped 64 5) id) = some ()
      ∧ ((after (exec (.aadd (.elem 2) (.elem 1) 0 false false) (mid 0 (shaped 64 5) id))).dev.seq 0).ord.length = 1 :=
  ⟨by decide +kernel, rfl, rfl, fun h => absurd rfl h, by decide +kernel, foot_ok _ _ _ _ _ _ (by decide +kernel), by decide +kernel, by decide +kernel⟩

/-- In a region an atomic without a return is deferred. -/
theorem witness_atomic_deferred : deferOk (slot 0 (inRegion ∘ shaped 64 5) id)
    ∧ ((after (exec (.aadd (.elem 2) (.elem 1) 0 false true) (mid 0 (inRegion ∘ shaped 64 5) id))).dev.seq 0).region.deferred.length = 1 :=
  ⟨fun _ => by decide +kernel, by decide +kernel⟩

/-- The word at address 16 holds five. -/
def five (d : Dev) : Dev := { d with mem := Mem.write [] 0x100010 (toLe 8 5) }

theorem witness_wait_reads : waitReads (slot 0 (shaped 16 5) five) 16 8 0x100010 5 (slot 0 (shaped 16 5) five).dev :=
  ⟨by decide +kernel, ⟨true, by decide +kernel⟩, fun _ p h => absurd h (List.not_mem_nil), (toLe 8 5).map fun b => (b, false), Prod.ext (by decide +kernel) rfl, by decide +kernel⟩

theorem witness_wait_met :
    runs (do let a ← Op.rdS (.elem 1); let b ← Op.rdS (.elem 2); Op.atPlace; return (a, b)) (slot 0 (shaped 16 5) five) = some (16, 5)
      ∧ enabled (slot 0 (shaped 16 5) five) false = true ∧ footOk (slot 0 (shaped 16 5) five) [(16, 8)] true false
      ∧ waitReads (slot 0 (shaped 16 5) five) 16 8 0x100010 5 (slot 0 (shaped 16 5) five).dev
      ∧ pend (.mwaitGeu 3 (.elem 1) (.elem 2) false) (mid 0 (shaped 16 5) five) = [predWrite 3 (BitVec.allOnes 64) (BitVec.allOnes 64)] :=
  ⟨by decide +kernel, by decide +kernel, foot_ok _ _ _ _ _ _ (by decide +kernel), witness_wait_reads, by decide +kernel⟩

theorem witness_wait_requested :
    let f := fun x : Seq => { shaped 16 5 x with reqs := [.preempt] }
    (seqOf (slot 0 f five)).woke = none ∧ (seqOf (slot 0 f five)).reqs ≠ []
      ∧ pend (.mwaitNe 3 (.elem 1) (.elem 2) false) (mid 0 f five) = [predWrite 3 0 (BitVec.allOnes 64)] := by decide +kernel

theorem witness_wait_woken :
    let f := fun x : Seq => { shaped 16 5 x with woke := some true }
    (seqOf (slot 0 f five)).woke.isSome = true
      ∧ pend (.mwaitNe 3 (.elem 1) (.elem 2) false) (mid 0 f five) = [predWrite 3 (BitVec.allOnes 64) (BitVec.allOnes 64)] := by decide +kernel

theorem witness_wait_held : (seqOf (slot 0 (shaped 16 5) five)).woke = none ∧ (seqOf (slot 0 (shaped 16 5) five)).reqs = []
    ∧ ((after (exec (.mwaitNe 3 (.elem 1) (.elem 2) false) (mid 0 (shaped 16 5) five))).dev.seq 0).waitOn = some (0x100010, 5, 0) := by decide +kernel

theorem witness_squashed : enabled (slot 1 (shaped 16 5) id) true = false
    ∧ runs (do let a ← Op.rdS (.elem 1); let b ← Op.rdS (.elem 2); return (a, b)) (slot 1 (shaped 16 5) id) = some (16, 5) := by decide +kernel

theorem witness_fence : enabled (slot 0 id id) false = true
    ∧ ((after (exec (.fence 2 false) (mid 0 id id))).dev.seq 0).ord = [] ∧ ((after (exec (.fence 2 false) (mid 0 id id))).dev.seq 0).opCtr = 1 := by decide +kernel

/-- The launch holds its cluster's counters. -/
def granted (d : Dev) : Dev := { d with clusters := [(0, { grant := some 1 })] }

theorem witness_counters : countersHeld (slot 0 (shaped 256 5) granted) := ⟨rfl, rfl⟩

theorem witness_counter_operands :
    runs (do let a ← Op.rdV (.elem 1); let b ← Op.rdS (.elem 2); return (a, b)) (slot 0 (shaped 256 5) granted) = some (0, 5)
      ∧ deferOk (slot 0 (shaped 256 5) granted)
      ∧ vget ((after (exec (.cinc (.elem 1) (.elem 2) false) (mid 0 (shaped 256 5) granted))).dev.cluster 0).counters 0 0 = 160 :=
  ⟨by decide +kernel, fun h => absurd rfl h, by decide +kernel⟩

theorem witness_counter_none : ((List.range 32).filter fun l => (lanesOn (slot 1 id granted) true).getLsbD l) = [] := by decide +kernel

theorem witness_counter_snapshot :
    runs (Op.rdS (.elem 1)) (slot 0 (shaped 256 5) granted) = some 256 ∧ footOk (slot 0 (shaped 256 5) granted) [(256, 256)] false true
      ∧ runs (Op.watch [(256, 256)]) (slot 0 (shaped 256 5) granted) = some () :=
  ⟨by decide +kernel, foot_ok _ _ _ _ _ _ (by decide +kernel), by decide +kernel⟩

theorem witness_page_request :
    runs (do let a ← Op.rdS (.elem 1); let b ← Op.rdS (.elem 2); return (a, b)) (slot 0 (shaped 16384 16385) pages) = some (16384, 16385)
      ∧ footOk (slot 0 (shaped 16384 16385) pages) (rangePages 16384 16385) true false
      ∧ ((after (exec (.preq (.elem 1) (.elem 2) false) (mid 0 (shaped 16384 16385) pages))).dev.mmu.reqs.map (·.page)) = [2] :=
  ⟨by decide +kernel, foot_ok _ _ _ _ _ _ (by decide +kernel), by decide +kernel⟩

/-- A map entry of 16 KiB at offset 16 KiB. -/
def mapWord : Nat := 16384 * 2 ^ 32 + 16384

theorem map_apart : ∀ j e, j < 8 → j ≠ 1 → vget (lclOf (mapsAhead (slot 0 (shaped 16384 mapWord) pages)) 1 0).maps j none = some e →
    overlap 16384 16384 e.va e.len = false ∧ overlap 16384 16384 e.ofs e.len = false := by
  intro j e hj hn he
  have : ∀ j < 8, j ≠ 1 → ∀ e ∈ (vget (lclOf (mapsAhead (slot 0 (shaped 16384 mapWord) pages)) 1 0).maps j none).toList,
    overlap 16384 16384 e.va e.len = false ∧ overlap 16384 16384 e.ofs e.len = false := by decide +kernel
  exact this j hj hn e (by rw [he]; exact List.mem_cons_self)

theorem witness_map : mapOk (slot 0 (shaped 16384 mapWord) pages) 1 16384 16384 16384 ∧ (seqOf (slot 0 (shaped 16384 mapWord) pages)).place.control = false
    ∧ footOk (slot 0 (shaped 16384 mapWord) pages) (rangePages 16384 16384) true true
    ∧ ((after (exec (.smap 1 (.elem 1) (.elem 2) false) (mid 0 (shaped 16384 mapWord) pages))).dev.seq 0).ord.length ≤ 1 :=
  ⟨⟨rfl, rfl, rfl, rfl, by decide +kernel, map_apart⟩, rfl, foot_ok _ _ _ _ _ _ (by decide +kernel), by decide +kernel⟩

theorem witness_unmap : mapOk (slot 0 (shaped 0 0) pages) 0 0 0 0 := ⟨rfl, rfl, rfl, rfl⟩


theorem witness_map_ahead :
    let x := slot 0 (fun y => { y with ord := [{ id := 0, op := .map false 1 16384 16384 16384 }] }) pages
    inStash (mapsAhead x) 0 16384 8 = true ∧ inStash x.dev 0 16384 8 = false ∧ unitBytes x 16384 = 256 ∧ unitBytes x 32768 = 128 := by decide +kernel
/-! ### Scale loads, regions, checks, barriers, engines and parisons -/

theorem witness_read32 :
    let x := slot 0 (shaped 0 0) five
    accessWay x.dev 0 0 = .here 0x100000 true true ∧ awaitsSide (seqOf x) [(0, 32)] = false ∧ goesFar x.dev 0 0 0x100000 = false ∧ Op.selfSupplied x.base 0 0x100000 32 = none
      ∧ (loadBytes x.dev 0 0x100000 32).1 = some ((toLe 16 0 ++ toLe 8 5 ++ toLe 8 0).map fun b => (b, false)) := by decide +kernel

theorem witness_scale_load :
    headDry (slot 0 (shaped 0 0) five).base 0 = none ∧ (0 : Nat) % 32 = 0 ∧ inStash (mapsAhead (slot 0 (shaped 0 0) five)) 0 0 32 = true
      ∧ runs (do let a ← Op.rdS (.elem 1); Op.atPlace; let l ← Op.read32 0; return (a, l)) (slot 0 (shaped 0 0) five)
          = some (0, toLe 16 0 ++ toLe 8 5 ++ toLe 8 0)
      ∧ pend (.ldkH 2 (.elem 1)) (mid 0 (shaped 0 0) five) =
          [{ tgt := .scaleH 2, data := BitVec.ofNat 256 (5 * 2 ^ 128), en := BitVec.allOnes 32, rdly := 6 }] :=
  ⟨rfl, rfl, by decide +kernel, by decide +kernel, by decide +kernel⟩

theorem witness_region_opens : regionReady (slot 0 id id) ∧ (iss 0).retry = false ∧ (seqOf (slot 0 id id)).region.levels.length < 4
    ∧ ((after (exec (.rbegin 2) (mid 0 id id))).dev.seq 0).region.levels.map (·.limit) = [2] :=
  ⟨⟨rfl, rfl, by decide +kernel⟩, rfl, by decide +kernel, by decide +kernel⟩

theorem witness_region_retry :
    let s : State := { mid 0 inRegion id with issue := some { iss 0 with retry := true } }
    regionReady (slotOf s { iss 0 with retry := true }) ∧ (s.dev.seq 0).region.levels.length = 1
      ∧ ((after (exec (.rbegin 2) s)).dev.seq 0).region.levels.map (·.limit) = [1] :=
  ⟨⟨rfl, rfl, by decide +kernel⟩, by decide +kernel, by decide +kernel⟩

/-- A range of 32 bytes from byte 32. -/
def keepWord : Nat := 32 * 2 ^ 16 + 32

theorem witness_region_keeps :
    let f := inRegion ∘ shaped keepWord 0
    runs (Op.rdS (.elem 1)) (slot 0 f id) = some (BitVec.ofNat 64 keepWord) ∧ (seqOf (slot 0 f id)).region.levels ≠ []
      ∧ keepWord % 2 ^ 16 % 32 = 0 ∧ keepWord / 2 ^ 16 % 32 = 0 ∧ 0 < keepWord / 2 ^ 16 ∧ keepWord / 2 ^ 16 ≤ 16384
      ∧ keepWord % 2 ^ 16 + keepWord / 2 ^ 16 ≤ (seqOf (slot 0 f id)).owned
      ∧ ((seqOf (slot 0 f id)).region.undo.map fun u => u.2.2.length).sum + keepWord / 2 ^ 16 ≤ 16384
      ∧ ((after (exec (.rkeep (.elem 1)) (mid 0 f id))).dev.seq 0).region.undo.map (·.2.1) = [32] := by decide +kernel

theorem witness_region_ends : (seqOf (slot 0 inRegion id)).region.levels.length = 1
    ∧ ((after (exec .rend (mid 0 inRegion id))).dev.seq 0).region = { rend := some 0 } := by decide +kernel

/-- A store of entry 0 of column 0 that the region defers. -/
def deferring (x : Seq) : Seq := let y := inRegion x; { y with region := { y.region with deferred := [{ id := 0, level := 1, op := .binit 16 0 1 0 }] } }

theorem witness_region_releases :
    ((after (exec .rend (mid 0 deferring id))).dev.seq 0).ord.map (·.id) = [0] ∧ rendWaits ((after (exec .rend (mid 0 deferring id))).dev.seq 0) = true := by decide +kernel

theorem witness_check_equal :
    runs (do let a ← Op.rdS (.elem 1); let b ← Op.rdS (.elem 1); return (a, b)) (slot 0 id id) = some (6, 6) ∧ enabled (slot 0 id id) false = true
      ∧ (dinjEvent (seqOf (slot 0 id id)) [4]).1 = false ∧ (seqOf (slot 0 id id)).regs.dinj.getLsbD 4 = false
      ∧ (after (exec (.chk (.elem 1) (.elem 1) false) (mid 0 id id))).issue.isSome = true
      ∧ runs (do let a ← Op.rdV (.elem 1); let b ← Op.rdV (.elem 2); return (a, b)) (slot 0 id id) = some (0, 0) := by decide +kernel

theorem witness_check_mismatch :
    runs (do let a ← Op.rdS (.elem 1); let b ← Op.rdS (.elem 2); return (a, b)) (slot 0 id id) = some (6, 7)
      ∧ ((after (exec (.chk (.elem 1) (.elem 2) false) (mid 0 id id))).dev.seq 0).trap = some { cause := 0x46, slot := 0, cont := [0, 6, 7, 0] } := by decide +kernel

theorem witness_check_vectors :
    let f := fun x : Seq => { x with space := x.space.write 544 (toLe 8 3) }
    runs (do let a ← Op.rdV (.elem 1); let b ← Op.rdV (.elem 2); return (a, b)) (slot 0 f id) = some (3, 0)
      ∧ ((after (exec (.chkv (.elem 1) (.elem 2) false) (mid 0 f id))).dev.seq 0).trap = some { cause := 0x46, slot := 0, cont := [0, 3, 0, 0, 0, 0, 0, 0, 0, 0] } := by
  decide +kernel

theorem witness_barrier : barrierOk (slot 0 (shaped 16 5) five) 16 ∧ deferOk (slot 0 (shaped 16 5) five)
    ∧ runs (Op.watch [(16, 16)]) (slot 0 (shaped 16 5) five) = some () ∧ (5 : Nat) % 2 ^ 16 ≠ 0 ∧ (5 : Nat) / 2 ^ 16 % 2 ^ 16 = 0
    ∧ (after (exec (.binit (.elem 1) (.elem 2) false) (mid 0 (shaped 16 5) id))).dev.mem.num 0x10001A 2 = 5 :=
  ⟨⟨rfl, by decide +kernel⟩, fun h => absurd rfl h, by decide +kernel, by decide, by decide, by decide +kernel⟩

theorem witness_barrier_reads : waitReads (slot 0 (shaped 16 5) five) (16 + 8) 8 0x100018 0 (slot 0 (shaped 16 5) five).dev :=
  ⟨by decide +kernel, ⟨true, by decide +kernel⟩, fun _ p h => absurd h (List.not_mem_nil), (toLe 8 0).map fun b => (b, false), Prod.ext (by decide +kernel) rfl, by decide +kernel⟩

theorem witness_barrier_met : ((0 / 2 ^ 63 % 2 = 1) ≠ ((5#64).getLsbD 0 = true))
    ∧ pend (.bwait 3 (.elem 1) (.elem 2) false) (mid 0 (shaped 16 5) five) = [predWrite 3 (BitVec.allOnes 64) (BitVec.allOnes 64)] := by decide +kernel

theorem witness_barrier_waits : ¬ ((0 / 2 ^ 63 % 2 = 1) ≠ ((4#64).getLsbD 0 = true))
    ∧ runs (do let a ← Op.rdS (.elem 1); let b ← Op.rdS (.elem 2); Op.atPlace; return (a, b)) (slot 0 (shaped 16 4) five) = some (16, 4)
    ∧ ((after (exec (.bwait 3 (.elem 1) (.elem 2) false) (mid 0 (shaped 16 4) five))).dev.seq 0).waitOn = some (0x100018, 4, 2)
    ∧ pend (.bwait 3 (.elem 1) (.elem 2) false) (mid 0 (fun x => { shaped 16 4 x with reqs := [.park] }) five) = [predWrite 3 0 (BitVec.allOnes 64)] := by
  decide +kernel

/-- A copy of 64 bytes from address 0 to 256, a transform of one NOP pass, and its program. -/
def copyWords : List Nat := [0, 256, 8 * 2 ^ 60 + 8 * 2 ^ 56, 0, 0, 64]
def formWords : List Nat := [0, 256, 0, 32 * 2 ^ 32 + 32]

/-- s1 names a descriptor at byte 1024 of register space, s2 no barrier, s3 a program at byte 2048. -/
def described (l : List Nat) (x : Seq) : Seq :=
  let y := scalars [(1, 1024), (2, 0), (3, 2048)] x
  { y with space := y.space.write 1024 (l.map (toLe 8)).flatten }

theorem witness_copy_command :
    let x := slot 0 (described copyWords) granted
    runs (do let a ← Op.rdS (.elem 1); let b ← Op.rdS (.elem 2); return (a, b)) x = some (1024, 0) ∧ areaOk x 1024 16
      ∧ Op.copyFault (areaWords x 1024 16) = none ∧ commandOk x 1 0
      ∧ ((after (exec (.ecopy 1 (.elem 1) (.elem 2) false) (mid 0 (described copyWords) granted))).dev.cluster 0).copy1.queue.length = 1 :=
  ⟨by decide +kernel, ⟨rfl, by decide +kernel⟩, by decide +kernel, ⟨fun h => absurd rfl h, fun h => absurd rfl h, fun _ => by decide +kernel⟩, by decide +kernel⟩

theorem witness_transform_command :
    let x := slot 0 (described formWords) granted
    runs (do let d ← Op.rdS (.elem 3); let a ← Op.rdS (.elem 1); let b ← Op.rdS (.elem 2); return (d, a, b)) x = some (2048, 1024, 0)
      ∧ areaOk x 1024 16 ∧ areaOk x 2048 4 ∧ Op.xformFault (areaWords x 1024 16) = none
      ∧ (∀ v ∈ programOf (areaWords x 1024 16) (areaWords x 2048 4), Op.xformInsOk v = true) ∧ commandOk x 2 0
      ∧ ((after (exec (.exform (.elem 3) (.elem 1) (.elem 2) false) (mid 0 (described formWords) granted))).dev.cluster 0).xform.queue.length = 1 :=
  ⟨by decide +kernel, ⟨rfl, by decide +kernel⟩, ⟨rfl, by decide +kernel⟩, by decide +kernel, by decide +kernel,
    ⟨fun h => absurd rfl h, fun h => absurd rfl h, fun _ => by decide +kernel⟩, by decide +kernel⟩

/-- A parison of kernel 9 with a live block of 32 bytes from byte 0. -/
def head0 : Head := { flags := 1, kid := 9, cur := [], cdep := 0, lfmt := 1, ranges := [(0, 32)], llen := 32, parm := 0, rgen := 0, seq := 0, plan := 0 }

/-- Its header; 2995089607 is the CRC-32C of the header with zero there and of the live block, whose first byte is 77 (R327). -/
def headBytes : Bytes := head0.raw.take 72 ++ toLe 4 2995089607 ++ head0.raw.drop 76

/-- It stands at address 0. -/
def parisonMem (d : Dev) : Dev := { d with mem := (Mem.write [] 0x100000 headBytes).write 0x100100 (toLe 32 77) }

/-- s1 names the parison, s2 byte 4096 of register space as its destination. -/
def loading (x : Seq) : Seq := let y := scalars [(1, 0), (2, 4096)] x; { y with place := { y.place with kid := 9 } }

theorem witness_parison :
    let x := slot 0 loading parisonMem
    (0 : Nat) % 64 = 0 ∧ (4096 : Nat) % 32 = 0 ∧ (seqOf x).region.levels = [] ∧ (let c := (x.base.seq 0).col 0; c.laq = 0 ∧ c.fill = [] ∧ c.ldq = [])
      ∧ runs (do let a ← Op.rdRun (.elem 1) 0; let b ← Op.rdRun (.elem 1) 1; let t ← Op.target 0 (.elem 5); Op.atPlace; return (a, b, t)) x = some (0, 4096, .reg 40)
      ∧ headStatus false (some (4096, 16384)) headBytes = 0 ∧ headField headBytes 44 4 = 32 := by decide +kernel

/-- The header's eight pieces have their places already. -/
def headPieces : List Bytes := (List.range 8).map fun k => (headBytes.drop (32 * k)).take 32
def pieced (l : List Bytes) (f : Seq → Seq) : State :=
  let s := idle (fun x => { f x with pld := l.zipIdx.map fun e => (e.2, e.1) }) parisonMem
  { s with base := s.dev, issue := some { iss 0 with pld := 8 } }

theorem witness_parison_reads :
    let s := pieced (headPieces ++ [toLe 32 77]) loading
    runs (do let h ← Op.readRun 0 8 0; let l ← Op.readRun 0 1 8; return (h, l)) (slotOf s { iss 0 with pld := 9 }) = some (headBytes, toLe 32 77) := by
  decide +kernel

theorem witness_parison_pages : footOk (slot 0 loading parisonMem) ((List.range 8).map fun k => (32 * k, 32)) true false
    ∧ footOk (slot 0 loading parisonMem) [(256, 32)] true false := ⟨foot_ok _ _ _ _ _ _ (by decide +kernel), foot_ok _ _ _ _ _ _ (by decide +kernel)⟩

theorem witness_parison_refused : headStatus false (some (4096, 16384)) (toLe 256 0) = 1
    ∧ pend (.pld (.elem 5) (.elem 1)) (pieced (.replicate 8 (toLe 32 0)) loading) = [{ tgt := .reg 40, data := 1, en := 0xFF, rdly := 1 }] := by decide +kernel

theorem witness_cursor : runs (Op.target 0 (.elem 5)) (slot 0 id id) = some (.reg 40)
    ∧ pend (.pcur (.elem 5) 9) (mid 0 (fun x => { x with regs := { x.regs with cursor := vset x.regs.cursor 9 3 } }) id)
        = [{ tgt := .reg 40, data := 3, en := 0xFF, rdly := 1 }] := by decide +kernel

/-! ### Vectors -/

/-- v1 has the bytes 1 to 32, v2 sixteen FP32 ones and twos by halves. -/
def vectors (x : Seq) : Seq :=
  let floats : Bytes := (List.replicate 4 (toLe 4 0x3F800000) ++ List.replicate 4 (toLe 4 0x40000000)).flatten
  { x with space := (x.space.write 544 ((List.range 32).map fun k => BitVec.ofNat 8 (k + 1))).write 576 floats }

theorem witness_vector_operands :
    (runs (do let a ← Op.rdV (.elem 1); let b ← Op.rdV (.elem 2); let t ← Op.target 1 (.elem 3); return (lane 8 31 a, lane 32 7 b, t)) (slot 0 vectors id))
        = some (32, 0x40000000, .reg 608)
      ∧ (pend (.vadd .i8 (.elem 3) (.elem 1) (.elem 1) false) (mid 0 vectors id)).map (fun w => (w.tgt, lane 8 31 w.data, w.en, w.rdly)) =
        [(.reg 608, 64, BitVec.allOnes 32, 2)]
      ∧ (pend (.vadds .i8 (.elem 3) (.elem 1) (.elem 1) true) (mid 0 vectors id)).map (fun w => (w.en, lane 8 0 w.data, w.rdly)) = [(1, 2, 2)] := by
  decide +kernel

theorem witness_vector_float :
    (pend (.vfadd .f32 (.elem 3) (.elem 2) (.elem 2) false) (mid 0 vectors id)).map (fun w => (lane 32 0 w.data, lane 32 7 w.data, w.flags, w.rdly)) =
        [(0x40000000, 0x40800000, 0, 4)]
      ∧ (pend (.vrcp (.elem 3) (.elem 2) false) (mid 0 vectors id)).map (fun w => (lane 32 7 w.data, w.rdly)) = [(0x3F000000, 8)] := by decide +kernel

theorem witness_vector_fused :
    (runs (do let d ← Op.rdV (.elem 2); let a ← Op.rdV (.elem 2); let b ← Op.rdV (.elem 2); let t ← Op.target 1 (.elem 2); return (lane 32 0 d, lane 32 0 a, lane 32 0 b, t))
        (slot 0 vectors id)) = some (0x3F800000, 0x3F800000, 0x3F800000, .reg 576)
      ∧ (pend (.vfma .f32 (.elem 2) (.elem 2) (.elem 2) false) (mid 0 vectors id)).map (fun w => (lane 32 0 w.data, lane 32 7 w.data)) = [(0x40000000, 0x40C00000)] := by
  decide +kernel

theorem witness_vector_convert :
    (runs (do let a ← Op.rdV (.elem 2); let w ← Op.rdS (.elem 1); let t ← Op.target 1 (.elem 3); return (lane 32 0 a, w, t)) (slot 0 vectors id))
        = some (0x3F800000, 6, .reg 608)
      ∧ 256 / laneW .f32 ≤ 256 / laneW .bf16 ∧ 256 / laneW .bf16 < 256 / laneW .i8
      ∧ (pend (.vcvt .bf16 (.elem 3) (.elem 2) .f32 1 false) (mid 0 vectors id)).map (fun w => (lane 16 8 w.data, lane 16 15 w.data, w.en, w.rdly)) =
        [(0x3F80, 0x4000, 0xFFFF0000, 3)]
      ∧ (pend (.vcvt .i32 (.elem 3) (.elem 1) .i8 3 false) (mid 0 vectors id)).map (fun w => (lane 32 0 w.data, lane 32 7 w.data)) = [(25, 32)] := by decide +kernel

theorem witness_vector_blocks :
    (pend (.vzqe (.elem 3) (.elem 2) (.elem 1) false) (mid 0 vectors id)).map (fun w => (w.tgt, w.rdly)) = [(.reg 608, 3)]
      ∧ (pend (.vzqd (.elem 3) (.elem 1) (.elem 1) false) (mid 0 vectors id)).map (fun w => (w.tgt, w.rdly)) = [(.reg 608, 3)] := by decide +kernel

theorem witness_vector_permute :
    (pend (.vihi 0 (.elem 3) (.elem 1) (.elem 1) false) (mid 0 vectors id)).map (fun w => (lane 8 0 w.data, lane 8 1 w.data, lane 8 2 w.data)) = [(17, 17, 18)]
      ∧ (pend (.vsel .i8 (.elem 3) (.elem 1) (.elem 2)) (mid 0 vectors id)).map (fun w => (lane 8 0 w.data, lane 8 3 w.data)) = [(1, 0x3F)]
      ∧ (runs (do let c ← Op.rdS (.elem 2); let t ← Op.target 1 (.elem 3); return (c, t)) (slot 0 vectors id)) = some (7, .reg 608)
      ∧ (pend (.vbcast 2 (.elem 3) (.elem 2) false) (mid 0 vectors id)).map (fun w => (lane 32 7 w.data, w.rdly)) = [(7, 2)]
      ∧ (pend (.vpmask 0 (.elem 3) 3 false) (mid 0 vectors id)).map (fun w => (lane 8 0 w.data, lane 8 1 w.data, lane 8 2 w.data)) = [(255, 0, 255)] := by
  decide +kernel

theorem witness_vector_reduce :
    floatFmt (Op.reduceFmt .f32) = some (fmtOf .f32) ∧ floatFmt (Op.reduceFmt .i8) = none ∧ intRange .i8 = some (-128, 127)
      ∧ (pend (.vrsum .f32 (.elem 3) (.elem 2) false) (mid 0 vectors id)).map (fun w => (w.data, w.rdly)) = [(0x41400000, 8)]
      ∧ (pend (.vrmax .i8 (.elem 3) (.elem 1) true) (mid 0 vectors id)).map (fun w => (w.data, w.en, w.rdly)) = [(1, BitVec.allOnes 32, 3)] := by decide +kernel

theorem witness_vector_predicate :
    (pend (.vcmp .i8 4 3 (.elem 1) (.elem 2) false) (mid 0 vectors id)).map (fun w => (w.tgt, w.data.extractLsb' 0 8, w.rdly)) = [(.pred 3, 0x77, 2)]
      ∧ (pend (.vpnz 0 3 (.elem 2) true) (mid 0 vectors id)).map (fun w => (w.data.extractLsb' 0 1, w.data.extractLsb' 64 64)) = [(0, 1)]
      ∧ pend (.vpmsb 0 3 (.elem 2) true) (mid 1 vectors id) = [] ∧ floatFmt .u8 = none ∧ Op.laneCmp .u8 2 1 255 = (true, 0) := by decide +kernel

/-! ### The matrix unit and the bead array -/

/-- A ring of two tiles of 4 KiB from byte 1024. -/
def ringed (x : Seq) : Seq := { x with regs := { x.regs with views := vset x.regs.views 3 0x20904 } }

theorem witness_matrix_call :
    let x := slot 0 ringed id
    enabled x false = true ∧ enabled (slot 1 ringed id) true = false ∧ 16 * (5#6).toNat + 15 < (seqOf x).microWords
      ∧ viewCount (vget (seqOf x).regs.views 3 0) = 2 ∧ m7Of x = 0 ∧ (seqOf x).mx.queue.length + (seqOf x).mx.running.toList.length < 4
      ∧ ((after (exec (.mcall 5 false) (mid 0 ringed id))).dev.seq 0).mx.queue.length = 1 := by decide +kernel

theorem witness_matrix_barrier_in_region :
    let f := fun x : Seq => inRegion { ringed x with regs := { (ringed x).regs with mregs := vset x.regs.mregs 7 16 } }
    m7Of (slot 0 f id) = 16 ∧ (16 : Nat) % 16 = 0 ∧ (seqOf (slot 0 f id)).region.levels ≠ [] ∧ (seqOf (slot 0 f id)).region.deferred.length < 64
      ∧ ((after (exec (.mcall 5 false) (mid 0 f id))).dev.seq 0).region.deferred.length = 1 := by decide +kernel

theorem witness_matrix_registers :
    runs (Op.rdS (.elem 1)) (slot 0 id id) = some 6 ∧ pend (.mset 2 (.elem 1) false) (mid 0 id id) = [{ tgt := .mreg 2, data := 6, en := 0xFF, rdly := 1 }]
      ∧ runs (Op.target 0 (.elem 2)) (slot 0 id id) = some (.reg 16)
      ∧ pend (.mget (.elem 2) 3 false) (mid 0 (fun x => { x with regs := { x.regs with mregs := vset x.regs.mregs 3 9 } }) id)
          = [{ tgt := .reg 16, data := 9, en := 0xFF, rdly := 1 }] := by decide +kernel

/-- Two micro-words from address 16 to word 3. -/
def loadWord : Nat := 2 * 2 ^ 16 + 3

theorem witness_micro_load :
    let f := shaped 16 loadWord
    runs (do let a ← Op.rdS (.elem 1); let b ← Op.rdS (.elem 2); return (a, b)) (slot 0 f id) = some (16, BitVec.ofNat 64 loadWord)
      ∧ loadWord / 2 ^ 10 % 2 ^ 6 = 0 ∧ loadWord / 2 ^ 16 = 2 ∧ loadWord % 2 ^ 10 + 2 ≤ (seqOf (slot 0 f id)).microWords ∧ (16 : Nat) % 8 = 0
      ∧ ((after (exec (.mld (.elem 1) (.elem 2)) (mid 0 f id))).dev.seq 0).mx.queue.length = 1 := by decide +kernel

theorem witness_micro_load_pages : footOk (slot 0 (shaped 16 loadWord) id) [(16, 8), (24, 8)] true false := foot_ok _ _ _ _ _ _ (by decide +kernel)

/-- Two rows of 32 bytes with a stride of 32, their indices at byte 2048. -/
def gatherWord : Nat := 32 * 2 ^ 32 + 1 * 2 ^ 16 + 32

theorem witness_gather :
    let f := scalars [(1, 0), (2, gatherWord), (3, 2048)]
    runs (do let a ← Op.rdRun (.elem 1) 0; let b ← Op.rdRun (.elem 1) 1; let c ← Op.rdRun (.elem 1) 2; return (a, b, c)) (slot 0 f id)
        = some (0, BitVec.ofNat 64 gatherWord, 2048)
      ∧ gatherWord / 2 ^ 22 % 2 ^ 10 = 0 ∧ gatherWord / 2 ^ 10 % 2 ^ 6 = 0 ∧ 2 * 32 ≤ latchBytes (seqOf (slot 0 f id)) ∧ 2048 + 4 * 2 ≤ (seqOf (slot 0 f id)).share
      ∧ (∀ k ∈ (List.range 2).map fun r => (seqOf (slot 0 f id)).spaceNum (2048 + 4 * r) 4,
          addr64 0 ((k : Int) * 32) % 32 = 0 ∧ inStash (slot 0 f id).dev 0 (addr64 0 ((k : Int) * 32)) 32 = true)
      ∧ ((after (exec (.mgat 1 (.elem 1)) (mid 0 f id))).dev.seq 0).mx.queue.length = 1 := by decide +kernel

/-- FP32 rows of 128 bytes, without vectors. -/
def epiWord : Nat := 128 * 2 ^ 32 + 2 ^ 28
def epilogue : Seq → Seq := ringed ∘ scalars [(1, 0), (2, epiWord), (3, 0xFFFFFFFF), (4, 0)]

theorem witness_epilogue :
    let x := slot 0 epilogue id
    runs (do let a ← Op.rdRun (.elem 1) 0; let b ← Op.rdRun (.elem 1) 1; let c ← Op.rdRun (.elem 1) 2; let d ← Op.rdRun (.elem 1) 3; return (a, b, c, d)) x
        = some (0, BitVec.ofNat 64 epiWord, 0xFFFFFFFF, 0)
      ∧ epiWord / 2 ^ 28 % 16 = 1 ∧ epiWord / 2 ^ 23 % 4 = 0 ∧ epiWord % 2 ^ 23 = 0 ∧ (0xFFFFFFFF : Nat) / 2 ^ 16 = 0xFFFF ∧ sx 32 (epiWord / 2 ^ 32) = 128
      ∧ Op.outBits 1 = 32 ∧ ((seqOf x).col 0).saq < 64 ∧ runs (Op.watch (epiFoot x 0 128 1)) (epiQueued x 0) = some ()
      ∧ ((after (exec (.epi (.elem 1) false) (mid 0 epilogue id))).dev.seq 0).mx.epq.length = 1 := by decide +kernel

theorem witness_epilogue_pages : footOk (slot 0 epilogue id) (epiFoot (slot 0 epilogue id) 0 128 1) false true := foot_ok _ _ _ _ _ _ (by decide +kernel)

theorem witness_ring_waits :
    let f := fun x : Seq => { ringed x with mx := { x.mx with np := 2 } }
    (2 : Nat) ≤ viewCount (vget (seqOf (slot 0 f id)).regs.views 3 0) ∧ (2 : Nat) ≤ (seqOf (slot 0 f id)).mx.np
      ∧ (after (exec (.rwait 2) (mid 0 f id))).issue.map (·.rest) = some [(14, 0)]
      ∧ (seqOf (slot 0 f id)).mx.running = none ∧ (seqOf (slot 0 f id)).mx.queue = []
      ∧ (after (exec .rwaitIdle (mid 0 f id))).issue.map (·.rest) = some [(14, 0)] := by decide +kernel

theorem witness_bead_idle :
    (seqOf (slot 7 id id)).bead.st = .idle ∧ (dinjEvent (seqOf (slot 7 id id)) [1]).1 = false
      ∧ ((after (exec (.btwin 1023) (mid 7 id id))).dev.seq 0).bead.twin = 1023
      ∧ ((after (exec (.bmode 1) (mid 7 id id))).dev.seq 0).bead.mode = 1
      ∧ ((after (exec (.blnch (.elem 1)) (mid 7 vectors id))).dev.seq 0).bead.wave.map (·.inputs.take 2) = some [0x201, 0x403] := by decide +kernel

theorem witness_bead_row :
    runs (Op.rdS (.elem 1)) (slot 7 vectors id) = some 6 ∧ (6 : Nat) < 128 ∧ 6 < beadIns (seqOf (slot 7 vectors id))
      ∧ ((after (exec (.bload (.elem 1) (.elem 1)) (mid 7 vectors id))).dev.seq 0).bead.cell 6 31 = 32 := by decide +kernel

/-- A finished min wave whose input 0 is 5, with a delay of 3 from it to rod 1 and of 1 to rod 0. -/
def waved (x : Seq) : Seq :=
  { x with bead := { cells := [(0, 1), (1, 3)], st := .done, wave := some { inputs := [5], mode := 0, twin := 20, elapsed := 9 } } }

theorem witness_bead_reads :
    runs (Op.target 1 (.elem 3)) (slot 7 waved id) = some (.reg 608) ∧ (seqOf (slot 7 waved id)).bead.st ≠ .idle
      ∧ 16 * (0#6).toNat < beadRods (seqOf (slot 7 waved id))
      ∧ (pend (.bcap (.elem 3) 0) (mid 7 waved id)).map (fun w => (lane 16 0 w.data, lane 16 1 w.data, lane 16 2 w.data)) = [(6, 8, 1023)]
      ∧ (pend (.brank (.elem 3) 0 15) (mid 7 waved id)).map (fun w => (lane 16 0 w.data, lane 16 1 w.data, lane 16 2 w.data)) = [(0, 1, 0xFFFF)]
      ∧ runs (Op.target 0 (.elem 3)) (slot 7 waved id) = some (.reg 24)
      ∧ pend (.bstat (.elem 3)) (mid 7 waved id) = [{ tgt := .reg 24, data := BitVec.ofNat 256 (9 * 2 ^ 32 + 1023 * 2 ^ 10 + 2), en := 0xFF, rdly := 1 }] := by
  decide +kernel

/-- The running call after a micro-word. -/
def callAfter (i : Instr) (w : BitVec 64) (c : Call) : Option Call := ((after (exec i (idle (calling w c) id))).dev.seq 0).mx.running

theorem witness_call_turn (w : BitVec 64) (c : Call) : callTurn (idle (calling w c) id) 0 c := ⟨⟨0, rfl⟩, rfl, rfl⟩

theorem witness_micro_loops :
    (0 : Nat) < 2 ∧ ([false, false, false, false] : List Bool).getD 1 false = false ∧ 2 < ((idle (calling 0 {}) id).dev.seq 0).microWords
      ∧ (callAfter .mloop (BitVec.ofNat 64 (2 * 2 ^ 58 + 2 ^ 56 + 3 * 2 ^ 40 + 2 * 2 ^ 30)) {}).map (fun c => (c.lc, c.upc)) = some ([0, 3, 0, 0], 1)
      ∧ (callAfter .mloop (BitVec.ofNat 64 (2 * 2 ^ 58 + 2 ^ 56 + 0 * 2 ^ 40 + 2 * 2 ^ 30)) {}).map (fun c => (c.lc, c.upc)) = some ([0, 0, 0, 0], 3)
      ∧ (callAfter .mnext (BitVec.ofNat 64 (2 ^ 56 + 1 * 2 ^ 46)) { upc := 2, lc := [0, 2, 0, 0], act := [false, true, false, false] }).map (fun c => (c.lc, c.upc))
          = some ([0, 1, 0, 0], 1)
      ∧ (callAfter .mnext (BitVec.ofNat 64 (2 ^ 56 + 1 * 2 ^ 46)) { upc := 2, lc := [0, 1, 0, 0], act := [false, true, false, false] }).map (fun c => (c.act, c.upc))
          = some ([false, false, false, false], 3)
      ∧ (callAfter .madd (BitVec.ofNat 64 (1 * 2 ^ 55 + (2 ^ 32 - 1))) { wp := [0, 5, 0, 0, 0, 0, 0, 0] }).map (·.wp.getD 1 0) = some 4 := by decide +kernel

/-- A call with an open INT32 accumulation. -/
def accumulated : Call := { acc := some { fa := 8, fb := 8, elems := [7], part := [.fin false 0 0] } }

theorem witness_micro_publish :
    accumulated.acc.isSome = true ∧ ((after (exec .mpub (idle (calling 0x0800000000000000 accumulated) id))).dev.seq 0).mx.np = 1
      ∧ ((after (exec .mpub (idle (calling 0x0800000000000000 accumulated) id))).dev.seq 0).spaceNum 1024 4 = 7 := by decide +kernel

theorem witness_micro_end :
    let s := idle (calling 0 {}) id
    ({} : Call).acc = none ∧ ({} : Call).bar = 0 ∧ (s.dev.seq 0).region.deferred = [] ∧ (s.dev.seq 0).ord = [] ∧ (s.dev.seq 0).mx.queue = []
      ∧ ((after (exec .mend s)).dev.seq 0).mx.running = none ∧ (((after (exec .reservedMicroWord s)).dev.seq 0).mx.fault.map (·.cause)) = some 0x31 := by decide +kernel

/-- Products of INT8 over one k: row r of A is r + 1, column c of B is 2. -/
def mmacWord : BitVec 64 := BitVec.ofNat 64 (2 ^ 58 + 8 * 2 ^ 54 + 8 * 2 ^ 50 + 1 * 2 ^ 46 + 2 ^ 23)
def latched (x : Seq) : Seq :=
  let y := calling mmacWord {} x
  { y with mx := { y.mx with latch0 := some { rows := (List.range 32).map fun r => List.replicate 32 (BitVec.ofNat 8 (r + 1)) },
                             latch1 := some { rows := [List.replicate 32 2] } } }

theorem witness_multiply :
    let x := (idle latched id).dev.seq 0
    pairOk 8 8 = true ∧ (tileDims x).1 * (tileDims x).2 * accBytes (accOf 8 8) ≤ viewSize (vget x.regs.views 3 0) ∧ x.mx.np < viewCount (vget x.regs.views 3 0)
      ∧ (operand x {} true (fmtCode 8) 0 0 0 32 1).isSome = true ∧ (operand x {} false (fmtCode 8) 1 0 0 32 1).isSome = true := by decide +kernel

theorem witness_multiply_sum :
    ((((after (exec .mmac (idle latched id))).dev.seq 0).mx.running.bind (·.acc)).map fun a => (a.part.getD 33 (.fin false 0 0), a.partK)) =
      some (.fin false 4 0, 1) := by decide +kernel

/-! ### Near-data units -/

/-- What a chain of near-data operations gives, when it completes. -/
def nruns {α : Type} (m : NearM α) (c : NearCtx) : Option α := match m c with | .ok (v, _) => some v | .error _ => none

/-- Registers of the unit. -/
def gs (l : List (Nat × Nat)) (x : Near) : Near := { x with g := l.foldl (fun g e => vset g e.1 (BitVec.ofNat 64 e.2)) x.g }

/-- The unit's next word. -/
def wordOf (w : Nat) (x : Near) : Near := { x with iw := w }

/-- Unit 0 after its instruction. -/
def unitAfter (i : Instr) (f : Near → Near) (g : Dev → Dev) : Near := (after (exec i (unitState f g))).dev.unit 0

/-- Page 0 is in the bank group's own memory of unit 0. -/
def board (d : Dev) : Dev := { d with mmu := { d.mmu with tlb := [{ die := 0, ten := 0, page := 0, res := .mapped true true (2 ^ 40) }] } }

theorem witness_near_turn : nearTurn (unitState id id) 0 := ⟨⟨0, rfl⟩, rfl⟩

theorem witness_near_scalar :
    (vget (unitAfter (.gsub 3 1 2) id id).g 3 0, (unitAfter (.gsub 3 1 2) id id).pc, (unitAfter (.gsub 3 1 2) id id).ncyc) = (0xFFFFFFFFFFFFFFFE, 1, 1)
      ∧ vget (unitAfter (.gaddi 3 1 0x3FFFF) id id).g 3 0 = 2 ∧ vget (unitAfter (.gmovi 0 5) id id).g 0 0 = 0
      ∧ vget (unitAfter (.glui 1 1 0xABCD) id id).g 1 0 = 0xABCD0003
      ∧ (unitAfter (.gadd 3 1 2) (fun x => { x with gPsn := 2 }) id).gPsn = 10 := by decide +kernel

theorem witness_near_branch : gPoison near0 1 = false ∧ gPoison near0 2 = false ∧ (unitAfter (.blt 1 2 0x7FFF) (fun x => { x with pc := 1 }) id).pc = 0
    ∧ (unitAfter (.beq 1 2 5) id id).pc = 1 ∧ (unitAfter (.b 5) id id).pc = 5 := by decide +kernel

theorem witness_near_loop : (gOf near0 1).toNat < 2 ^ 32 ∧ near0.loops.length ≠ 6
    ∧ (unitAfter (.nloop 1 4) id id).loops = [{ index := 0, remaining := 3, first := 1 }] ∧ (unitAfter (.nloop 3 4) id id).pc = 5
    ∧ (unitAfter (.nloop 3 4) (fun x => { x with loops := .replicate 6 {} }) id).pc = 5 := by decide +kernel

/-- The unit inside a loop with n passes left. -/
def nlooping (n : BitVec 32) (x : Near) : Near := { x with loops := [{ index := 4, remaining := n, first := 1 }], pc := 3 }

theorem witness_near_loop_end : (unitAfter .nendl (nlooping 2) id).loops = [{ index := 5, remaining := 1, first := 1 }]
    ∧ (unitAfter .nendl (nlooping 2) id).pc = 1 ∧ (unitAfter .nendl (nlooping 1) id).loops = [] ∧ (unitAfter .nendl (nlooping 1) id).pc = 4
    ∧ (unitAfter .nlpop (nlooping 2) id).loops = [] ∧ vget (unitAfter (.gmvi 3 0) (nlooping 2) id).g 3 0 = 4 := by decide +kernel

theorem witness_near_drained : nearDrained (unitState id id).dev 0 := ⟨rfl, by decide +kernel, by decide +kernel⟩

theorem witness_near_ends :
    (∀ p ∈ ((unitState id id).dev.unit 0).ports.toList, NearOp.portOpen p = false)
      ∧ (unitAfter .nhalt id id).run = .done ∧ (unitAfter .nsafe (fun x => { x with reqs := [.preempt] }) id).run = .saved
      ∧ (unitAfter .ntrap (wordOf (9 * 2 ^ 6)) id).trap = some { cause := 0x11, cont := [9], after := true } ∧ (unitAfter .ntrap id id).pc = 1 := by decide +kernel

theorem witness_near_lanes :
    ((nLanes (unitAfter (.nadd 3 1 2 0) id id) 3).getD 0 (0, true), (nLanes (unitAfter (.nsub 3 2 1 0) (fun x => { x with nPsn := vset x.nPsn 1 1 }) id) 3).getD 0 (0, false))
        = ((16, false), (2, true))
      ∧ (nLanes (unitAfter (.nbcast 3 1 1) (fun x => { x with f := vset x.f 1 2 }) id) 3).map (·.1) = [0, 3] ++ List.replicate 14 0
      ∧ vget (unitAfter (.nget 3 2 0) id id).g 3 0 = 9 ∧ (nLanes (unitAfter (.nins 3 1 15) id id) 3).getD 15 (0, false) = (3, false)
      ∧ (nLanes (unitAfter (.ncvtF32I32 3 1 0 0) id id) 3).getD 0 (0, false) = (0x40E00000, false) := by decide +kernel

theorem witness_near_masks :
    (∀ i < 16, (maskOf near0 0).getLsbD i = true → ((nLanes near0 1).getD i (0, false)).2 = false ∧ ((nLanes near0 2).getD i (0, false)).2 = false)
      ∧ vget (unitAfter (.ncmpI32 2 1 1 2 0) id id).f 1 0 = 1 ∧ vget (unitAfter (.fNot 1 0) id id).f 1 0 = 0
      ∧ gPoison near0 1 = false ∧ vget (unitAfter (.fSet 1 1) id id).f 1 0 = 3 ∧ vget (unitAfter (.fGet 3 0) id id).g 3 0 = 0xFFFF
      ∧ vget (unitAfter (.nrsumI32 3 1 0) id id).g 3 0 = 7 ∧ vget (unitAfter (.nrminI32 3 1 1) (fun x => { x with f := vset x.f 1 1 }) id).g 3 0 = 7 := by
  decide +kernel

/-- A read port with two entries, both delivered: the bytes of the first are 1, of the second 2. -/
def reading (x : Near) : Near :=
  { x with ports := vset x.ports 0 { mode := some 0, base := 0, stride := 64, cnt := 2, got := 2, buf := [(List.replicate 64 1, []), (List.replicate 64 2, [1])] } }

theorem witness_port_pop :
    let p := vget ((unitState reading id).dev.unit 0).ports 0 {}
    p.mode = some 0 ∧ p.used < p.cnt ∧ p.refused = none ∧ p.owed = none ∧ p.bitmap = none ∧ p.buf = [(List.replicate 64 1, []), (List.replicate 64 2, [1])]
      ∧ nruns (NearOp.popRead 0) (nearCtx (unitState reading id) 0) = some (List.replicate 64 1, [])
      ∧ (nLanes (unitAfter (.nld 3 0) reading id) 3).getD 15 (0, true) = (0x01010101, false)
      ∧ iwField (wordOf 0 (reading near0)) 14 2 = 0 ∧ (unitAfter .ntab reading id).table.toNat % 2 ^ 16 = 0x0101 := by decide +kernel

/-- A stream of two entries from address 64. -/
def openWord : Nat := 64 * 2 ^ 32 + 2

theorem near_may (f : Near → Near) (g : Dev → Dev) (wr : Bool) (l : List Nat)
    (h : (l.all fun a => decide (a < 2 ^ 56) && decide (unitWay (unitState f g).dev 0 a ≠ .miss)
      && (if wr then (unitWay (unitState f g).dev 0 a).writes else (unitWay (unitState f g).dev 0 a).reads)) = true) : nearMay (nearCtx (unitState f g) 0) wr l := by
  intro a ha
  have := List.all_eq_true.1 h a ha
  simp only [Bool.and_eq_true, decide_eq_true_eq] at this
  cases wr <;> exact ⟨this.1.1, this.1.2, by simpa [nearCtx] using this.2⟩

theorem witness_port_opens :
    let f := gs [(1, 64), (2, openWord)]
    gPoison (f near0) 1 = false ∧ (64 : Nat) % 64 = 0 ∧ openWord % 2 ^ 30 = 2 ∧ openWord / 2 ^ 30 % 4 = 0 ∧ sx 32 (openWord / 2 ^ 32) = 64
      ∧ NearOp.portOpen (vget ((unitState f id).dev.unit 0).ports 1 {}) = false ∧ ((unitState f id).dev.unit 0).copies = []
      ∧ (vget (unitAfter (.nsopen 1 1 2) f id).ports 1 {}).mode = some 0 := by decide +kernel

theorem witness_port_may : nearMay (nearCtx (unitState (gs [(1, 64), (2, openWord)]) id) 0) false (entryAddrs 64 64 2)
    ∧ nearMay (nearCtx (unitState (gs [(1, 64), (2, openWord)]) id) 0) true (entryAddrs 64 64 2) :=
  ⟨near_may _ _ _ _ (by decide +kernel), near_may _ _ _ _ (by decide +kernel)⟩

theorem witness_port_apart : portApart ((unitState (fun x => { x with copies := [{ num := 0, dst := 4096, src := 8192, n := 2 }] }) id).dev.unit 0) (entryAddrs 64 64 2) := by
  have : ∀ a ∈ entryAddrs 64 64 2, NearOp.copyOver ((unitState (fun x => { x with copies := [{ num := 0, dst := 4096, src := 8192, n := 2 }] }) id).dev.unit 0) a 64 = false := by
    decide +kernel
  exact this

/-- A sparse stream of two pairs, the second stored, its bitmap at address 32. -/
def sparseWord : Nat := 64 * 2 ^ 32 + 2 * 2 ^ 30 + 4
def bitmap (d : Dev) : Dev := { d with mem := Mem.write [] 0x100020 [2] }

theorem witness_bitmap_may : nearMay (nearCtx (unitState (gs [(1, 64), (2, sparseWord), (3, 32)]) bitmap) 0) false ((NearOp.pieces 32 1).map (·.1))
    ∧ ∀ p ∈ NearOp.pieces 32 1, unitWay (unitState (gs [(1, 64), (2, sparseWord), (3, 32)]) bitmap).dev 0 p.1 ≠ .refused :=
  ⟨near_may _ _ _ _ (by decide +kernel), by decide +kernel⟩

theorem witness_port_sparse :
    let f := gs [(1, 64), (2, sparseWord), (3, 32)]
    sparseWord / 2 ^ 30 % 4 = 2 ∧ sparseWord % 2 ^ 30 % 2 = 0 ∧ (2#4).toNat ≤ 14 ∧ gPoison (f near0) 3 = false
      ∧ nruns (NearOp.read 32 1) (nearCtx (unitState f bitmap) 0) = some [(2, false)]
      ∧ (vget (unitAfter (.nsopen 1 1 2) f bitmap).ports 1 {}).bits = [false, true] := by decide +kernel

/-- A write port with room for one entry. -/
def writing (x : Near) : Near := { x with ports := vset x.ports 1 { mode := some 1, base := 64, stride := 64, cnt := 1 } }

theorem witness_port_push :
    let p := vget ((unitState writing id).dev.unit 0).ports 1 {}
    p.mode = some 1 ∧ p.used < p.cnt ∧ p.refused = none ∧ p.owed = none ∧ p.bitmap = none ∧ ((vget (unitAfter (.nst 1 1 0) writing id).ports 1 {}).out.map fun e => (e.num, e.addr, e.lanes.length)) = [(0, 64, 16)] := by
  decide +kernel

theorem witness_multiply_port :
    nruns (NearOp.popPair 0) (nearCtx (unitState reading id) 0) = some (some [(List.replicate 64 1, []), (List.replicate 64 2, [1])])
      ∧ (nLanes (unitAfter (.nmac .i8 4 0 2 0 0 true) reading id) 4).getD 0 (0, true) = (9, false)
      ∧ (nLanes (unitAfter (.nmac .i8 4 0 2 0 0 true) reading id) 4).getD 15 (0, true) = (18, true) := by decide +kernel

/-- A copy of two entries from address 0 to 128: g1, g2 and g3 are destination, source and count. -/
def copying : Near → Near := wordOf (1 * 2 ^ 18 + 2 * 2 ^ 14 + 3 * 2 ^ 10) ∘ gs [(1, 128), (2, 0), (3, 2)]

theorem witness_bank_copy :
    let x := (unitState copying board).dev.unit 0
    iwField x 18 4 = 1 ∧ iwField x 14 4 = 2 ∧ iwField x 10 4 = 3 ∧ x.gPsn = 0 ∧ (128 : Nat) % 64 = 0 ∧ NearOp.pendingOver x 128 128 = false ∧ NearOp.pendingOver x 0 128 = false
      ∧ (unitAfter .nbcp copying board).copies = [{ dst := 128, src := 0, n := 2 }] := by decide +kernel

theorem witness_bank_copy_local (va : Nat) (h : va = 128 ∨ va = 0) : nearLocal (nearCtx (unitState copying board) 0) va 2 := by
  intro k hk
  have : ∀ v ∈ [128, 0], ∀ j < 2, unitWay (unitState copying board).dev 0 (v + 64 * j) = .here (2 ^ 40 + (v + 64 * j)) true true
      ∧ unitLocal (unitState copying board).dev 0 (2 ^ 40 + (v + 64 * j)) = true := by decide +kernel
  exact ⟨_, true, true, this va (by rcases h with rfl | rfl <;> simp) k hk⟩

/-- A completion write of 7 to address 16. -/
def finishing : Near → Near := wordOf (1 * 2 ^ 14 + 2 * 2 ^ 10) ∘ gs [(1, 16), (2, 7)] ∘ fun x => { x with nst := 0x100 }

theorem witness_completion_write :
    let s := unitState finishing id
    iwField (s.dev.unit 0) 14 4 = 1 ∧ iwField (s.dev.unit 0) 10 4 = 2 ∧ (16 : Nat) % 16 = 0 ∧ unitWay s.dev 0 16 = .here 0x100010 true true
      ∧ (after (exec .cwr s)).dev.mem.num 0x100010 8 = 7 ∧ (after (exec .cwr s)).dev.mem.num 0x100018 8 = 0x100 ∧ (unitAfter .cwr finishing id).nst = 0 := by
  decide +kernel

theorem witness_completion_may : nearMay (nearCtx (unitState finishing id) 0) true [16] ∧ nearDrained (unitState finishing id).dev 0 :=
  ⟨near_may _ _ _ _ (by decide +kernel), rfl, by decide +kernel⟩

/-- A tiered object with one safe point of a unit, which keeps its first 32 bytes. -/
def obj0 : Obj :=
  { kid := 9, svn := 0, errm := 0, cov := 1, defparm := 0, keyid := [], tier := true,
    maps := [{ ctr := false, same := false, stash := 1, cores := [{ mode := 0, seqm := 1, entries := [(0x40, 0)] }] }],
    segs := [0x40], loadva := 0, sps := [], nearSps := [{ seg := 0, loc := 0, hand := true, ranges := [(0, 32)] }], nearEntry := 0, nearCode := [0], band := [] }

/-- The object is registered as object 1 of tenant 0. -/
def registered (d : Dev) : Dev := { d with objs := [(1, obj0)] }

/-- The unit is of kernel 9, and g1 names a parison. -/
def saving (va : Nat) : Near → Near := wordOf (1 * 2 ^ 14) ∘ gs [(1, va)] ∘ fun x => { x with kid := 9 }

theorem witness_parison_saves :
    let s := unitState (saving 64) registered
    let x := s.dev.unit 0
    iwField x 14 4 = 1 ∧ gPoison x 1 = false ∧ (64 : Nat) % 64 = 0
      ∧ nruns (NearOp.saveParison 64 0 false { flags := 1, kid := 9, cur := [], cdep := 0, lfmt := 1, ranges := [], llen := 0, parm := 0, rgen := 0, seq := 0, plan := 0 })
          (nearCtx s 0) = some () := by decide +kernel

theorem witness_parison_loads :
    nruns (NearOp.loadParison 64) (nearCtx (unitState (saving 64) registered) 0) = some 1
      ∧ vget (unitAfter .npload (wordOf (5 * 2 ^ 18) ∘ saving 64) registered).g 5 0 = 1 := by decide +kernel

theorem witness_unit_registers : unitReg ((unitState id id).dev.unit 0) 0 0x16 = some 0 ∧ near0.iw / 2 ^ 6 % 2 ^ 8 = 0
    ∧ (unitAfter .gwsr (wordOf (1 * 2 ^ 14)) id).nst = 3 := by decide +kernel

/-- A request to hand over at row 2 or later, its parison at address 0 and its completion word at 8192. -/
def asked (x : Near) : Near :=
  { x with kid := 9, loops := [{ index := 4, remaining := 2, first := 1 }], hand := some { seq := 5, dest := 0, pa := 0, cw := 8192, rmin := 2, rgen := 0 } }

theorem witness_handover_none : (near0.handDrain.getD near0.hand) = none ∧ (unitAfter .nhopt (fun x => { x with reqs := [.park] }) id).run = .parked := by decide +kernel

theorem witness_handover :
    let s := unitState asked registered
    let x := s.dev.unit 0
    (x.handDrain.getD x.hand).isSome = true ∧ bandEnd x = none ∧ ((x.loops.head?).map fun e => e.index.toNat) = some 4 ∧ (2 : Nat) ≤ x.band + 4
      ∧ nruns (do
          NearOp.saveParison 0 0 true { flags := 1, kid := 9, cur := [4], cdep := 1, lfmt := 1, ranges := [], llen := 0, parm := 0, rgen := 0, seq := 5, plan := 0 }
          NearOp.complete 8192 5)
          { dev := (drainBegin 0 s.dev).modUnit 0 fun y => { y with handDrain := none }, base := drainBegin 0 s.dev, u := 0, next := 1 } = some ()
      ∧ (unitAfter .nhopt asked registered).run = .done := by decide +kernel

theorem witness_handover_later :
    let f := fun x : Near => let y := asked x; { y with hand := y.hand.map fun r => { r with rmin := 9 }, reqs := [.park] }
    let x := (unitState f registered).dev.unit 0
    (x.handDrain.getD x.hand).map (·.rmin) = some 9 ∧ bandEnd x ≠ some x.pc ∧ x.band + ((x.loops.head?).map fun e => e.index.toNat).getD 0 < 9
      ∧ (unitAfter .nhopt f registered).run = .parked ∧ (unitAfter .nhopt f registered).hand.isSome = true := by decide +kernel

theorem witness_near_fetch_traps : ((unitAfter .illegalInstruction (wordOf 0xFFFFFFFF) id).trap.map fun t => (t.cause, t.cont)) = some (1, [0xFFFFFFFF])
    ∧ ((unitAfter .endOfCode (fun x => { x with pc := 2 }) id).trap.map fun t => (t.cause, t.cont)) = some (0x58, [2]) := by decide +kernel

/-! ### Steps of sequencers, the matrix unit, units, engines and ports -/

theorem witness_bundle_issue :
    let s := idle (fun x => { x with pc := { seg := 0x40, idx := 1 } }) id
    let d := broughtOn 0 s.dev
    let d0 := d.setSeq 0 (d.seq 0)
    readyToIssue s 0 seg [] [(0, 0), (2, 0)] ∧ checkBundle ((landDue 0 d0).seq 0) [(0, 0), (2, 0)] = .ok [(0, .nop 0), (2, .nop 0)]
      ∧ (∀ e ∈ [((0 : Nat), Instr.nop 0), (2, .nop 0)], ∀ k, e.2 ≠ .safe k ∧ e.2 ≠ .hopt k)
      ∧ interlocks d0 0 [(0, .nop 0), (2, .nop 0)] = .ok () ∧ (after (exec .bundleIssue s)).issue.map (·.rest) = some [(0, 0), (2, 0)] := by
  refine ⟨⟨⟨0, rfl⟩, rfl, by decide +kernel, by decide +kernel, by decide +kernel, by decide +kernel, by decide +kernel, by decide +kernel, by decide +kernel,
    by decide +kernel, by decide +kernel, by decide +kernel, by decide +kernel, by decide +kernel, by decide +kernel, by decide +kernel, by decide +kernel,
    by decide +kernel, by decide +kernel, nofun⟩, by decide +kernel, ?_, by decide +kernel, by decide +kernel⟩
  intro e h k
  simp only [List.mem_cons, List.not_mem_nil, or_false] at h
  rcases h with rfl | rfl <;> exact ⟨nofun, nofun⟩

theorem witness_segment :
    let s := idle (fun x => { x with want := some { seg := 0x80, idx := 0 } }) id
    (s.dev.seq 0).run ≠ .absent ∧ (s.dev.seq 0).want = some { seg := 0x80, idx := 0 } ∧ (expandSeg s.dev 0 0x80).isSome = true
      ∧ ((after (exec .segmentExpansionComplete s)).dev.seq 0).want = none := by decide +kernel

/-- A stream of some kind at the head of the order. -/
def streaming (t : Strm) (waits : Bool) (x : Seq) : Seq :=
  { x with ord := [{ id := 0, waits := waits, op := .stream t }],
           cols := vset (.replicate 4 {}) 0 { laq := 1, saq := 1, sdRes := 1, sdAsg := 1, asgs := [(0, 1)], sdq := [{ idx := 0, data := some (0x1122, 0xFF) }] } }

/-- A load stream of one 8-byte element from address 16. -/
def load0 : Strm := { kind := .ld, col := 0, base := 16, stride := 8, esz := 8, cnt := 1, pk := false }

theorem witness_load_element :
    let s := idle (streaming load0 false) five
    headStream (broughtOn 0 s.dev) 0 load0 ∧ accessWay (broughtOn 0 s.dev) 0 (load0.addr 0) = .here 0x100010 true true
      ∧ ((((after (exec .loadElementPerform s)).dev.seq 0).col 0).fill.map fun e => (e.data, e.filled)) = [(5, 1)] :=
  ⟨⟨by decide +kernel, _, _, rfl, rfl, rfl⟩, by decide +kernel, by decide +kernel⟩

theorem witness_store_element :
    let s := idle (streaming stream0 false) id
    headStream (broughtOn 0 s.dev) 0 stream0 ∧ accessWay (broughtOn 0 s.dev) 0 (stream0.addr 0) = .here 0x100010 true true :=
  ⟨⟨by decide +kernel, _, _, rfl, rfl, rfl⟩, by decide +kernel⟩

/-- An aadd of 1 at address 16 with its old value returned. -/
def atom0 : Atom := { op := 1, col := 0, addr := 16, wide := true, ret := true, y := 1 }
def atoming (x : Seq) : Seq := { x with ord := [{ id := 0, op := .atom atom0 }], cols := vset (.replicate 4 {}) 0 { laq := 1 } }

theorem witness_atomic_step :
    let s := idle atoming five
    ((broughtOn 0 s.dev).seq 0).ord = [{ id := 0, op := .atom atom0 }] 
      ∧ headHeld (broughtOn 0 s.dev) 0 = false
      ∧ accessWay (broughtOn 0 s.dev) 0 16 = .here 0x100010 true true ∧ (after (exec .atomicPerform s)).dev.mem.num 0x100010 8 = 6 := by decide +kernel

/-- An atomic of scope .cl has read 5 and has still to write 6. -/
theorem witness_atomic_second :
    let s := idle (fun x => { atoming x with ord := [{ id := 0, op := .atom { atom0 with sc := 0, ret := false, half := true } }] })
      fun d => { five d with splits := [{ own := 0, sc := 0, loc := 0x100010, n := 8, val := 6 }] }
    let d := broughtOn 0 s.dev
    headHeld d 0 = false ∧ (d.seq 0).ord.head?.map (fun o => match o.op with | .atom a => a.half | _ => false) = some true
      ∧ d.splits.find? (fun z => decide (z.own = 0)) = some { own := 0, sc := 0, loc := 0x100010, n := 8, val := 6 }
      ∧ (after (exec .atomicPerform s)).dev.mem.num 0x100010 8 = 6 := by decide +kernel

/-- Two reads are on their way to host memory, for different pages. -/
theorem witness_far_access :
    let s : State := { idle (fun x => { x with far := [.row 0 hostLoc (toLe 8 3) true, .row 0 (hostLoc + 16384) (toLe 8 4) true] }) id with turn := .agent 0 3 }
    (∀ z ∈ (s.dev.seq 0).far.take 1, z.range.2.1 / 16384 ≠ (hostLoc + 16384) / 16384)
      ∧ ((after (exec .storeElementPerform s)).dev.seq 0).far.length = 1 := by decide +kernel

theorem witness_store_resumes :
    let s := idle (fun x => { streaming stream0 true x with missWait := true }) id
    (s.dev.seq 0).ord = [{ id := 0, waits := true, op := .stream stream0 }] ∧ (s.dev.seq 0).missWait = true ∧ (s.dev.seq 0).storeMiss = none
      ∧ accessWay s.dev 0 (stream0.addr 0) = .here 0x100010 true true ∧ (after (exec .storeStreamResume s)).dev.mem.num 0x100010 8 = 0x1122 := by decide +kernel

/-- A load of full granules at address 16. -/
def load1 : Strm := { kind := .ldFe, col := 0, base := 16, stride := 16, esz := 16, cnt := 1, pk := false }
def fullOne (d : Dev) : Dev := { d with launches := [(1, { launch1 with clusters := launch1.clusters.map fun c => { c with full := [1] } })] }

theorem witness_full_wait_ends :
    let s := idle (streaming load1 true) fullOne
    (s.dev.seq 0).ord = [{ id := 0, waits := true, op := .stream load1 }] ∧ (s.dev.seq 0).missWait = false ∧ feReady s.dev 0 16 16 .ldFe = true
      ∧ seqWay s.dev 0 16 = .here 0x100010 true true ∧ accessWay s.dev 0 16 = .here 0x100010 true true
      ∧ ((after (exec .fullEmptyWaitEnd s)).dev.seq 0).ord = [] := by decide +kernel

theorem witness_entry_delivers :
    let s := idle (fun x => { x with cols := vset (.replicate 4 {}) 0 { laq := 1, fill := [{ id := 0, elems := 1, filled := 1, last := true }] } }) id
    ((s.dev.seq 0).col 0).fill = [{ id := 0, elems := 1, filled := 1, last := true }] ∧ ((s.dev.seq 0).col 0).ldq.length < 64
      ∧ (((after (exec .loadEntryDeliver s)).dev.seq 0).col 0).laq = 0 ∧ (((after (exec .loadEntryDeliver s)).dev.seq 0).col 0).ldq.length = 1 := by decide +kernel

theorem witness_wakes :
    let s := idle (fun x => { x with waitOn := some (0x100010, 5, 1) }) five
    let h := idle (fun x => { x with waitOn := some (hostLoc, 5, 0) }) id
    let b := idle (fun x => { x with waitOn := some (0x100010, 5, 2) }) five
    (s.dev.seq 0).waitOn = some (0x100010, 5, 1) ∧ readNow s.dev 0x100010 8 0 = some 5 ∧ hostBias s.dev 0x100010 = false
      ∧ ((after (exec .mwaitWake s)).dev.seq 0).woke = some true
      ∧ readNow h.dev hostLoc 8 0 = some 0 ∧ hostBias h.dev hostLoc = true ∧ ((after (exec .hostBiasMwaitPoll h)).dev.seq 0).woke = some true
      ∧ (5 : Nat) / 2 ^ 63 % 2 ≠ 5 % 2 ∧ ((after (exec .bwaitWake b)).dev.seq 0).woke = some true := by decide +kernel

theorem witness_requests :
    (idle id id).turn = .agent 0 0 ∧ ((idle id id).dev.seq 0).run = .running ∧ ReqKind.stop ∉ ((idle id id).dev.seq 0).reqs
      ∧ (idle id id).dev.launch? 1 = some launch1 ∧ launch1.st = .running
      ∧ ((after (exec .asyncRequest { idle (fun x => { x with owner := true }) id with turn := .request 0 .stop })).dev.seq 0).reqs = [.stop]
      ∧ ((after (exec .asyncRequest { idle id id with turn := .request 0 .preempt })).dev.launch? 1).map (·.st) = some .saving
      ∧ (let s : State := { unitState id (fun d => { d with launches := [(1, { launch1 with st := .parked })] }) with turn := .agent 2048 0 }
         (s.dev.unit (2048 - 2048)).run = .running ∧ ReqKind.park ∉ (s.dev.unit (2048 - 2048)).reqs
         ∧ ((after (exec .asyncRequest { s with turn := .request 2048 .park })).dev.unit 0).reqs = [.park]) := by decide +kernel

/-- A command at the head of the matrix unit's queue, or of the order, or both. -/
def commanding (l : List MCmd) (o : List OrdOp) (c : Option Call) (x : Seq) : Seq := { ringed x with mx := { x.mx with queue := l, running := c, np := 1, tags := [4] }, ord := o }

theorem witness_call_starts :
    let s := idle (commanding [.call { upc := 5 }] [] none) id
    (s.dev.seq 0).trap = none ∧ (s.dev.seq 0).mx.running = none ∧ (s.dev.seq 0).mx.queue = [.call { upc := 5 }] ∧ (s.dev.seq 0).mx.fault = none
      ∧ ((after (exec .matrixCallStart s)).dev.seq 0).mx.running = some { upc := 5 } := by decide +kernel

theorem witness_micro_store :
    let s := idle (commanding [.mld 0 16 3 1 [(0, toLe 8 7, [])]] [] none) id
    (∀ i, (s.dev.seq 0).ord.head?.map OrdOp.op ≠ some (.mld i)) ∧ ((after (exec .mldPerform s)).dev.seq 0).mx.store = [(3, 7)] := ⟨nofun, by decide +kernel⟩

theorem witness_micro_read :
    let s := idle (commanding [.mld 9 16 3 1 []] [{ id := 9, op := .mld 9 }] (some {})) five
    (s.dev.seq 0).mx.running = some {} ∧ (s.dev.seq 0).ord.head?.map OrdOp.op = some (.mld 9)
      ∧ headHeld (broughtOn 0 s.dev) 0 = false ∧ accessWay (broughtOn 0 s.dev) 0 16 ≠ .miss
      ∧ ((after (exec .mldPerform s)).dev.seq 0).mx.queue = [.mld 9 16 3 1 [(0, toLe 8 5, [])]] := by decide +kernel

theorem witness_gather_read :
    let s := idle (commanding [.mgat 9 1 0 32 32 [0] []] [{ id := 9, op := .mgat 9 }] (some {})) five
    (s.dev.seq 0).ord.head?.map OrdOp.op = some (.mgat 9) ∧ headHeld (broughtOn 0 s.dev) 0 = false ∧ accessWay (broughtOn 0 s.dev) 0 0 ≠ .miss
      ∧ ((after (exec .mgatPerform s)).dev.seq 0).ord = [] := by decide +kernel

theorem witness_gather_fills :
    let s := idle (commanding [.mgat 9 1 0 32 32 [0] [(0, toLe 32 5, [])]] [] none) five
    (∀ i, (s.dev.seq 0).ord.head?.map OrdOp.op ≠ some (.mgat i)) ∧ ((after (exec .mgatPerform s)).dev.seq 0).mx.latch1 = some { rows := [toLe 32 5] } :=
  ⟨nofun, by decide +kernel⟩

/-- An epilogue without vectors, FP32 rows of 128 bytes at address 0. -/
def epi0 : EpiDesc := { id := 9, dst := 0, rst := 128, ofmt := 1, rm := 0, sat := false, act := 0, scv := [], bsv := [], hasScale := false, hasBias := false, lo := 0, hi := 0 }

theorem witness_epilogue_row :
    let s := idle (fun x => let y := commanding [] [] none x; { y with mx := { y.mx with epq := [.epi epi0 31] } }) id
    (s.dev.seq 0).mx.np ≠ 0 ∧ (s.dev.seq 0).ord = []
      ∧ ((after (exec .epiPerform s)).dev.seq 0).mx.np = 0 := by decide +kernel

theorem witness_tile_free :
    let s := idle (fun x => let y := commanding [] [] none x; { y with mx := { y.mx with epq := [.rfree] } }) id
    (s.dev.seq 0).mx.epq = [.rfree] ∧ (s.dev.seq 0).mx.np ≠ 0 ∧ ((after (exec .rfreePerform s)).dev.seq 0).mx.np = 0 := by decide +kernel

theorem witness_wave_completes :
    let s := idle (fun x => { x with bead := { st := .run, wave := some { inputs := [5], mode := 0, twin := 20, elapsed := 9 } } }) id
    (s.dev.seq 0).bead.st = .run ∧ (s.dev.seq 0).run ≠ .halting ∧ ((after (exec .beadWaveComplete s)).dev.seq 0).bead.st = .done := by decide +kernel

/-- A port that has not delivered its entry from address 0. -/
def delivering (x : Near) : Near := { x with ports := vset x.ports 0 { mode := some 0, base := 0, stride := 64, cnt := 1 } }

theorem witness_port_delivers :
    let s := unitState delivering five
    let p := vget (s.dev.unit 0).ports 0 {}
    p.mode = some 0 ∧ p.got < storedEntries p ∧ NearOp.pendingOver (s.dev.unit 0) 0 64 = false ∧ p.bitmap = none ∧ unitWay s.dev 0 0 = .here 0x100000 true true
      ∧ (unitBytes (touch s.dev 0x100000) 0 0x100000 64).1.isSome = true ∧ (vget (unitAfter .portEntryDeliver delivering five).ports 0 {}).got = 1 := by decide +kernel

/-- A pushed entry of two lanes at address 0, the second poisoned. -/
def pushed (x : Near) : Near := { x with ports := vset x.ports 0 { mode := some 1, base := 0, stride := 64, cnt := 1, used := 1, out := [⟨5, 0, [(0, toLe 4 7, false), (4, toLe 4 8, true)]⟩] } }

theorem witness_port_performs :
    (vget ((unitState pushed id).dev.unit 0).ports 0 {}).out = [⟨5, 0, [(0, toLe 4 7, false), (4, toLe 4 8, true)]⟩] ∧ unitWay (unitState pushed id).dev 0 0 = .here 0x100000 true true
      ∧ (unitAfter .portWritePerform pushed id).unjoined = [⟨5, 0x100000, toLe 4 7, false⟩, ⟨5, 0x100004, toLe 4 8, true⟩] := by decide +kernel

theorem witness_bank_entry :
    let f := fun x : Near => { x with copies := [{ dst := 128, src := 0, n := 2 }] }
    unitWay (unitState f board).dev 0 0 = .here (2 ^ 40) true true ∧ unitWay (unitState f board).dev 0 128 = .here (2 ^ 40 + 128) true true
      ∧ unitLocal (unitState f board).dev 0 (2 ^ 40) = true ∧ unitLocal (unitState f board).dev 0 (2 ^ 40 + 128) = true
      ∧ (unitBytes (unitState f board).dev 0 (2 ^ 40) 64).1.isSome = true ∧ (unitAfter .nbcpEntryCopy f board).copies = [{ dst := 128, src := 0, n := 2, k := 1 }] := by decide +kernel

theorem witness_corrected : near0.run ≠ .absent ∧ (unitAfter .eccCorrectedResume id id).ncor = 1 := by decide +kernel

/-- A copy of 64 bytes from address 0 to 256 for the sequencer. -/
def cmd0 : Cmd := { owner := 0, launch := 1, desc := copyWords ++ List.replicate 10 0 }

/-- Cluster 0's copy engine 0 with a queue and a running command. -/
def engine (q : List Cmd) (r : Option Cmd) (d : Dev) : Dev := { d with clusters := [(0, { copy0 := { queue := q, running := r, rr := 3 } })] }

theorem witness_command_starts :
    let s := idle id (engine [cmd0] none)
    let g := engineOf (s.dev.cluster 0) 0
    g.running = none ∧ g.queue.find? (fun z => decide (z.owner = cmd0.owner)) = some cmd0 ∧ (∀ o ∈ (s.dev.seq 0).ord, cmd0.fork ≤ o.id) ∧ Placed.fork cmd0.owner cmd0.id ∉ (s.dev.seq 0).far
      ∧ (engineOf ((after (exec .engineCommandStart s)).dev.cluster 0) 0).running = some cmd0 := by decide +kernel

theorem witness_next_sequencer (y : Cmd)
    (h : (engineOf ((idle id (engine [cmd0] none)).dev.cluster 0) 0).queue.find? (fun z => decide (z.owner = y.owner)) = some y) :
    if (3 : Nat) < 0 then (y.owner ≤ 3 ∨ 0 ≤ y.owner) else (y.owner ≤ 3 ∧ 0 ≤ y.owner) := by
  have e : y = cmd0 := by simpa using List.mem_of_find?_eq_some (show [cmd0].find? _ = some y from h)
  subst e; decide

theorem witness_copy_row :
    let s := idle id (engine [] (some cmd0))
    workOf s.dev 0 0 false = some cmd0 ∧ (cmd0.desc.getD 2 0) / 2 ^ 42 % 2 ^ 8 = 0
      ∧ (match engRow cmd0 s.dev with | .ok (l, _) => l.length | .error _ => 0) = 64
      ∧ engDest cmd0 (rowPieces 256 (Op.memBytes 8 64)) 0 s.dev = .go 64 0
      ∧ ((engineOf ((after (exec .copyRow s)).dev.cluster 0) 0).running.map (·.row)) = some 1 := by
  and_intros <;> decide +kernel

/-- A transform of one NOP pass. -/
def cmd1 : Cmd := { owner := 0, launch := 1, xform := true, desc := formWords ++ List.replicate 12 0, prog := [0] }
def former (r : Option Cmd) (d : Dev) : Dev := { d with clusters := [(0, { xform := { running := r } })] }

theorem witness_transform_pass :
    let s : State := { idle id (former (some cmd1)) with turn := .agent 0 2 }
    workOf s.dev 0 2 true = some cmd1
      ∧ (match cmd1.prog.foldlM (fun b w => passStep 0 256 32 32 w b) ({ cmd := cmd1, dev := s.dev } : Pass) with | .ok _ => true | .error _ => false) = true
      ∧ ((engineOf ((after (exec .xformPass s)).dev.cluster 0) 2).running.map (·.row)) = some 1 := by decide +kernel

theorem witness_command_completes :
    let s := idle id (engine [] (some { cmd0 with row := 1, writes := [(0x100100, 9)] }))
    let b := idle id (engine [] (some { cmd0 with row := 1, bar := 16 }))
    let p := idle id (engine [] (some { cmd0 with row := 1, blocks := [{ dev := 3, ten := 0, gran := 0, bytes := [(0, 9)], count := 1 }] }))
    (∀ r ∈ (engineOf (s.dev.cluster 0) 0).running, r.over = true ∧ r.blocks = [] ∧ r.unacked = 0 ∧ r.fills = [] ∧ r.bar = 0)
      ∧ (after (exec .engineCommandComplete s)).dev.mem.get 0x100100 = 9
      ∧ translate (putRunning 0 0 none b.dev) (dieOf 0) 0 16 = .here 0x100010 true true
      ∧ readNow (putRunning 0 0 none b.dev) 0x100010 8 = some 0 ∧ readNow (putRunning 0 0 none b.dev) 0x100018 8 = some 0
      ∧ (∀ r ∈ (engineOf (p.dev.cluster 0) 0).running, r.over = true ∧ r.blocks ≠ []) := by decide +kernel

/-- Port 5 is up on four lanes to device 7. -/
def portUp (d : Dev) : Dev := { d with fleet := { d.fleet with ports := vset d.fleet.ports 5 { lanes := 4, st := 2, peer := 7 } } }
/-- Port 5 trains: towards device 7, again after a loss of lanes. -/
def portTrains (d : Dev) : Dev := { d with fleet := { d.fleet with ports := vset d.fleet.ports 5 { lanes := 0, st := 1, peer := 7 } } }
def portRetrains (d : Dev) : Dev := { d with fleet := { d.fleet with ports := vset d.fleet.ports 5 { lanes := 3, st := 1, peer := 7 } } }
/-- Port 5 is up to device 3. -/
def portUp3 (d : Dev) : Dev := { d with fleet := { d.fleet with ports := vset d.fleet.ports 5 { lanes := 4, st := 2, peer := 3 } } }

/-- Port 5 after a step with a second number. -/
def portAfter (i : Instr) (n : Nat) (g : Dev → Dev) : Nat × Nat × Nat :=
  let p := vget (after (exec i { idle id g with turn := .agent 5 n })).dev.fleet.ports 5 {}
  (p.lanes, p.st, p.peer)

theorem witness_ports :
    let p := vget (idle id portUp).dev.fleet.ports 5 {}
    (5 : Nat) < 48 ∧ 2 ≤ p.st ∧ 3 < p.lanes ∧ p.st ≠ 0 ∧ (portTo (idle id portUp).dev p.peer).isSome = true ∧ (∀ w ∈ (idle id portUp).dev.peerOut, w.dev ≠ p.peer)
      ∧ (idle id portUp).dev.form ≠ .cd ∧ portAfter .portLaneLoss 3 portUp = (3, 1, 7) ∧ portAfter .portDown 0 portUp = (0, 0, 7)
      ∧ portAfter .portUp 60 id = (0, 1, 7) ∧ portAfter .portUp 60 portTrains = (4, 2, 7) ∧ portAfter .portUp 60 portRetrains = (3, 3, 7) := by decide +kernel

/-- The header of a block of 16 plain bytes; 1987591167 is the CRC-32C of the bytes 5, 0, ..., 0 (R210, R327). -/
def blockHead (n : Nat) : Nat := n * 2 ^ 49 + 16 * 2 ^ 36 + 1987591167
def blockState (n : Nat) : State := { idle id portUp with turn := .block 5 0 16 (BitVec.ofNat 64 (blockHead n)) (toLe 16 5) }

theorem witness_block :
    openBlock (blockHead 16) (toLe 16 5) = some (toLe 16 5)
      ∧ translate { (idle id portUp).dev with drawn := 1 } 0 0 16 = .here 0x100010 true true ∧ openBlock (blockHead 32) (toLe 16 5) = none
      ∧ (after (exec .portBlockReceive (blockState 16))).dev.mem.num 0x100010 8 = 5 := by decide +kernel

theorem witness_peer :
    let s (op : PeerOp) : State := { idle id (portUp3 ∘ five) with turn := .peer 3 0 16 op }
    let d := (idle id (portUp3 ∘ five)).dev
    (portTo d 3).isSome = true ∧ translate (traffic 3 d) 0 0 16 = .here 0x100010 true true
      ∧ (after (exec .peerAccessArrival (s (.atomic 1 true 1 0 2 0)))).dev.mem.num 0x100010 8 = 6
      ∧ (loadBytes (traffic 3 d) peerAgent 0x100010 8).1.isSome = true
      ∧ ((after (exec .peerAccessArrival (s (.atomic 1 true 1 0 0 1)))).dev.splits.map fun x => (x.own, x.loc, x.n, x.val)) = [(peerAgent, 0x100010, 8, 6)]
      ∧ (after (exec .peerAccessArrival (s (.atomic 1 true 1 0 0 1)))).dev.mem.num 0x100010 8 = 5
      ∧ (after (exec .peerAccessArrival (s (.write [9])))).dev.mem.num 0x100010 8 = 9 ∧ (after (exec .peerAccessArrival (s (.read 8)))).dev.mem.num 0x100010 8 = 5 := by
  decide +kernel

theorem witness_ack :
    let s : State := { idle (fun x => { x with unacked := 1 }) (fun d => { portUp3 d with peerOut := [{ dev := 3, agent := 0, data := some [some 9] }] }) with turn := .ack 3 .ok }
    (portTo s.dev 3).isSome = true ∧ s.dev.peerOut.find? (fun w => decide (w.dev = 3) && w.data.isSome) = some { dev := 3, agent := 0, data := some [some 9] }
      ∧ ((after (exec .peerWriteAck s)).dev.seq 0).unacked = 0 := by decide +kernel

theorem witness_unit_ends :
    let f := fun x : Near => { x with run := .done, unjoined := [⟨5, 0x100000, toLe 4 7, false⟩] }
    ((unitState f id).dev.unit 0).run = .done ∧ (after (exec .unitEnd (unitState f id))).dev.mem.num 0x100000 4 = 7 := by decide +kernel

/-! ### Launches -/

/-- The state with launch 1 changed and its turn. -/
def launchState (f : Launch → Launch) (g : Dev → Dev) : State :=
  { idle id (fun d => g { d with launches := [(1, f launch1)] }) with turn := .agent 1 0 }

/-- The launch after a step. -/
def launchAfter (i : Instr) (f : Launch → Launch) (g : Dev → Dev) : Option Launch := (after (exec i (launchState f g))).dev.launch? 1

theorem witness_gang_starts :
    let s := launchState (fun x => { x with st := .placed }) id
    s.dev.fw.gstat = 1 ∧ (∀ x ∈ s.dev.launch? 1, x.st = .placed ∧ x.saved = false ∧ x.node = none ∧ earlierStarted s.dev x.ten x.strm x.seq = true)
      ∧ leaderFree s.dev = true ∧ ((after (exec .gangStart s)).dev.launch? 1).map (·.st) = some .running := by decide +kernel

/-- A replay whose node 0 is launch 1. -/
def replaying (d : Dev) : Dev := { d with replays := [(2, { ten := 0, strm := 0, seq := 1, gid := 3, gen := 1, nodes := [.runs 1] })] }

theorem witness_node_starts :
    let s := launchState (fun x => { x with st := .placed, node := some (2, 0) }) replaying
    (∀ x ∈ s.dev.launch? 1, x.node = some (2, 0)) ∧ (s.dev.replays.find? 2).map (·.tstart) = some 0
      ∧ ((after (exec .gangStart s)).dev.launch? 1).map (·.st) = some .running := by decide +kernel

/-- Tenant 0 has weight 1. -/
def weighed (d : Dev) : Dev := { d with tenants := vset d.tenants 0 { active := true, wgt := 1 } }

theorem witness_tick : (launchState id weighed).dev.fw.gstat = 1 ∧ busyTenants (launchState id weighed).dev = [0] ∧ columnsHeld (launchState id weighed).dev 0 = 4
    ∧ ((after (exec .tick10us (launchState id weighed))).dev.tenant 0).deficit = 10200 := by decide +kernel

theorem witness_candidate :
    let s := launchState (fun x => { x with st := .waiting }) fun d => { d with dtime := 10 ^ 8 }
    (∀ x ∈ s.dev.launch? 1, isCandidate s.dev x = true) ∧ ∀ x ∈ s.dev.launch? 1, x.age + 10000000 ≤ (now s.dev).1 := by
  refine ⟨by decide +kernel, fun x hx => ?_⟩
  have : x.age = 0 := by simp [launchState, idle, Dev.launch?, Tab.find?, dev0, launch1] at hx; subst hx; rfl
  rw [this]
  exact Nat.le_trans (by decide) (Nat.le_add_right (10 ^ 8) _)

theorem witness_sequencer_ends :
    let s := idle (fun x => { x with run := .halting }) id
    let e := advance 0 (ordFuel (s.dev.seq 0).ord) (endStarved 0 (advance 0 (ordFuel (s.dev.seq 0).ord) s.dev))
    s.dev.fw.gstat = 1 ∧ (s.dev.seq 0).run = .halting ∧ (e.seq 0).ord = [] ∧ quiet ((settle { e with placed := [] }).seq 0) = true
      ∧ ((after (exec .sequencerEndReport s)).dev.seq 0).run = .done := by decide +kernel

theorem witness_cluster_ends :
    let s : State := { launchState id fun d => { d with seqs := [(0, { seq0 with run := .done })] } with turn := .agent 1 0 }
    (∀ c ∈ launch1.clusters, c.reported = false ∧ c.away = false ∧ clusterNode s.dev 1 c = 0)
      ∧ (((after (exec .clusterNodeZero s)).dev.launch? 1).bind (·.clusters[0]?)).map (·.reported) = some true := by decide +kernel

/-- Everything of the launch has reported. -/
def reported (x : Launch) : Launch := { x with clusters := x.clusters.map fun c => { c with reported := true } }

theorem witness_launch_ends :
    let s := launchState reported id
    deviceNode (reported launch1) = 0 ∧ (reported launch1).posts = [] ∧ (∀ w ∈ s.dev.peerOut, w.agent ≠ launchAgent 1)
      ∧ mayComplete s.dev (launchAgent 1) = true ∧ (endLaunch 1 s.dev).isSome = true ∧ ((after (exec .launchEnd s)).dev.launch? 1) = none := by decide +kernel

theorem witness_context_save :
    let s := launchState (fun x => { x with st := .saving }) fun d => { d with seqs := [(0, { seq0 with run := .saved, sp := some 0 })] }
    (∀ x ∈ s.dev.launch? 1, x.st = .saving ∧ (∀ q ∈ seqsOf x, atRest (s.dev.seq q) = true) ∧ x.recs = []
      ∧ (∀ u ∈ x.units, (s.dev.unit u).run = .saved) ∧ (∀ c ∈ x.clusters, c.reported = true ∨ commandsOf s.dev c.phys 1 = 0) ∧ mapPages x = [(0, 0)])
      ∧ translate s.dev 0 0 0 = .here 0x100000 true true ∧ leaderFree s.dev = true := by decide +kernel

theorem witness_context_resume :
    let s := launchState (fun x => { x with st := .placed, saved := true }) id
    ∀ x ∈ s.dev.launch? 1, x.st = .placed ∧ x.saved = true ∧ blocksSound { s.dev with drawn := s.dev.drawn + 1 } x = true := by decide +kernel

/-- Sequencer 0 stands trapped; the table's entry for cause 1 is the given one. -/
def trapped (a : BitVec 8) (d : Dev) : Dev :=
  { d with seqs := [(0, { seq0 with run := .trapped, trap := some { cause := 1, act := a.toNat } })],
           tenants := vset d.tenants 0 { active := true, actions := vset (.replicate 256 0) 1 a } }

theorem witness_trap_actions :
    let s (a : BitVec 8) : State := { launchState id (trapped a) with turn := .agent 0 0 }
    mayComplete (s 0).dev 0 = true ∧ (waitingTrap (s 0).dev 0).map (fun w => (w.launch, w.cause, w.act % 4)) = some (1, 1, 0) ∧ (waitingTrap (s 1).dev 0).map (fun w => w.act % 4) = some 1
      ∧ (waitingTrap (s 6).dev 0).map (fun w => (w.act.testBit 2, w.act % 4)) = some (true, 2)
      ∧ ((after (exec .actionKill (s 0))).dev.launch? 1).map (fun x => (x.status, x.cause)) = some (0x11, 1)
      ∧ ((after (exec .actionPark (s 2))).dev.launch? 1).map (·.st) = some .parked := by decide +kernel

theorem witness_promotion :
    let s := launchState (fun x => { x with plan := 0x1000 }) id
    (∀ x ∈ s.dev.launch? 1, x.plan ≠ 0) ∧ ((after (exec .promotionBatchComplete s)).dev.launch? 1).map (·.gen) = some 1
      ∧ (after (exec .promotionBatchComplete s)).dev.mem.num 0x101020 8 = 1 := by decide +kernel

/-- A request to hand over to the top: parison at page 1, completion at address 16. -/
def request0 : HandReq := { seq := 5, dest := 0, pa := 16384, cw := 16, rmin := 2, rgen := 0 }

/-- A tiered launch whose climbing part runs on unit 0. -/
def climbing (x : Launch) : Launch := { x with climb := some 0, units := [0] }
def climber (d : Dev) : Dev := pages { d with near := [(0, near0)], objs := [(1, obj0)] }

/-- Pages 1 to 2 are writable, as the whole parison must be. -/
def writable (d : Dev) : Dev :=
  { d with mmu := { d.mmu with tlb := d.mmu.tlb.map fun e => if e.page = 2 then { e with res := .mapped true true 0x108000 } else e } }

theorem witness_handover_post :
    let s : State := { launchState climbing (writable ∘ climber) with turn := .hand 1 request0 }
    s.dev.fw.gstat = 1 ∧ (climbing launch1).climb = some 0 ∧ (s.dev.unit 0).launch = 1 ∧ (s.dev.unit 0).run = .running ∧ (s.dev.unit 0).part = 0
      ∧ request0.dest.toNat < unitTier 0 ∧ request0.dest.toNat ≤ 1 ∧ request0.pa.toNat % 64 = 0 ∧ request0.cw.toNat % 16 = 0
      ∧ (climbing launch1).handSeq < request0.seq.toNat ∧ request0.rgen.toNat ≤ (climbing launch1).gen
      ∧ (∀ j < 260, translate s.dev 0 0 (16384 + 64 * j) = .here (0x104000 + 64 * j) true true ∧ pinnedHbm s.dev 1 (0x104000 + 64 * j) = true)
      ∧ (translate s.dev 0 0 request0.cw.toNat).writes = true ∧ tget s.dev 0 4 4 = 0 ∧ s.dev.objs.find? 1 = some obj0
      ∧ ((after (exec .handoverRequestPost s)).dev.unit 0).hand = some request0 := by decide +kernel

/-- The request has been consumed, and the unit has gone; the parison's header names the destination. -/
def consumed (dest : Nat) (d : Dev) : Dev :=
  { climber d with near := [], mem := ((Mem.write [] 0x100010 (toLe 8 5)).write 0x100018 (toLe 8 1)).write 0x104006 (toLe 2 (4 * dest)),
                   tenants := vset d.tenants 0 { active := true, part := 1024 * 64, wgt := 1, sava := 2 ^ 40 } }
def posted (x : Launch) : Launch := { climbing x with posts := [request0], handSeq := 5, units := [], clusters := [] }

theorem witness_handover_resumes :
    let s (k : Nat) := launchState posted (consumed k)
    (posted launch1).posts.reverse.find? (fun r => decide (r.seq.toNat ≤ tget (s 0).dev 0 r.cw.toNat 8)) = some request0
      ∧ (s 0).dev.objs.find? 1 = some obj0 ∧ (posted launch1).st = .running ∧ ((s 0).dev.unit 0).run = .absent
      ∧ tget (s 1).dev 0 (16384 + 6) 2 / 4 % 4 = 1 ∧ (freeUnits (s 1).dev 1).take 1 = [0] ∧ tget (s 0).dev 0 (16384 + 6) 2 / 4 % 4 = 0
      ∧ (fit (dieCount (s 0).dev) (roomOf (s 0).dev []) (partition (s 0).dev 0).1 (partition (s 0).dev 0).2 obj0.maps).isSome = true
      ∧ ((after (exec .handoverResume (s 1))).dev.launch? 1).bind (·.climb) = some 0 := by decide +kernel


/-! ### Records of streams -/

/-- A record of n lines with fields: first byte, length in bytes, value. -/
def recOf (n : Nat) (l : List (Nat × Nat × Nat)) : Rec :=
  let v := ((1, 1, n) :: l).foldl (fun a e => a + 2 ^ (8 * e.1) * e.2.2) 0
  { words := (List.range (8 * n)).map fun i => BitVec.ofNat 64 (v / 2 ^ (64 * i)) }

/-- Tenant 0 active with its save area away from the pages in use, and an active stream. -/
def streamDev (ten m : Nat) (x : Strm8) : Dev :=
  { dev0 with tenants := vset (.replicate 17 {}) 0 { active := true, sarea := 0x200000, wgt := 1, part := 1024 * 64, sava := 2 ^ 40 },
              streams := [(ten * 8 + m, x)], mmu := (pages dev0).mmu, adma := 0x300000 }

/-- A stream with one line exposed. -/
def active0 : Strm8 := { size := 12, base := 0x1000, wix := 64, state := 1 }

/-- A record of tenant 0's stream 1 with its turn. -/
def recState (r : Rec) (g : Dev → Dev) : State := { dev := g (streamDev 0 1 active0), turn := .record 0 1 r }

/-- What the state after a step says of a stream: RIX, WIX, state and FCODE. -/
def streamAfter (ten m : Nat) (i : Instr) (s : State) : Nat × Nat × Nat × Nat :=
  let x := (after (exec i s)).dev.stream ten m
  (x.rix, x.wix, x.state, x.fcode)

theorem witness_record_turn (r : Rec) : recordTurn (recState r id) 0 1 r :=
  have h : (streamDev 0 1 active0).fw.gstat = 1 ∧ leaderFree (streamDev 0 1 active0) = true ∧ ((streamDev 0 1 active0).stream 0 1).state = 1 := by decide +kernel
  ⟨rfl, ⟨h.1, h.2.1⟩, h.2.2⟩

/-- A stream whose index word has been written. -/
def newsState (w : Nat) (x : Strm8) : State := { dev := streamDev 0 1 { x with news := [w] }, turn := .agent 0 1 }

theorem witness_index_writes :
    let s (w : Nat) := newsState w active0
    leaderFree (s 0).dev = true ∧ (s 0).dev.fw.gstat = 1 ∧ streamOn (s 0).dev 0 1 = true ∧ ((s 5).dev.stream 0 1).news = [5] ∧ (2 ^ 63 + 64) / 2 ^ 63 % 2 = 1
      ∧ streamAfter 0 1 .streamReset (s (2 ^ 63 + 64)) = (64, 64, 0, 0) ∧ streamAfter 0 1 .wixWrite (s 128) = (0, 128, 1, 0)
      ∧ streamAfter 0 1 .wixWrite (s 0) = (0, 64, 3, 3) ∧ streamAfter 0 1 .wixWrite (s 8192) = (0, 64, 3, 3)
      ∧ streamAfter 0 1 .wixWrite (newsState 128 { active0 with state := 3 }) = (0, 64, 3, 0) := by decide +kernel

/-- A held WAIT on the word at address 16. -/
def waiting (v kind : Nat) : State :=
  { dev := { streamDev 0 1 { active0 with state := 2, wait := some (16, v, kind) } with mem := Mem.write [] 0x100010 (toLe 8 7) }, turn := .agent 0 1 }

theorem witness_wait_goes_on :
    ((waiting 7 0).dev.stream 0 1).wait = some (16, 7, 0) ∧ translate (waiting 7 0).dev 0 0 16 = .here 0x100010 true true
      ∧ readNow (waiting 7 0).dev 0x100010 8 = some 7 ∧ streamAfter 0 1 .waitSatisfied (waiting 7 0) = (64, 64, 1, 0)
      ∧ streamAfter 0 1 .waitSatisfied (waiting 8 0) = (0, 64, 2, 0) ∧ streamAfter 0 1 .waitSatisfied (waiting 8 1) = (64, 64, 1, 0) := by decide +kernel

/-- A graph of one node with 64 parameter bytes, in generation 1. -/
def graph0 : Graph := { nodes := [{ obj := 1, prio := 0, lfl := 0, plen := 1, dep := 0, pofs := 64 }], gens := [(1, { parms := [List.replicate 64 3], addrs := [0x7000] })] }
def graphed (d : Dev) : Dev := { d with graphs := [(3, graph0)] }

/-- GPATCH of graph 3, node 0: two bytes at 4. -/
def patch0 : Rec := recOf 2 [(8, 1, 3), (10, 2, 2), (12, 4, 4), (64, 2, 0x0A09)]

theorem witness_patch_goes_on :
    let s : State := { dev := graphed (streamDev 0 1 { active0 with state := 2, patch := some patch0 }), turn := .agent 0 1 }
    (s.dev.stream 0 1).patch = some patch0 ∧ (patchGraph 0 patch0 s.dev).isSome = true ∧ streamAfter 0 1 .gpatchUnblock s = (128, 64, 1, 0) := by decide +kernel

/-- A replay of graph 3 with its nodes' states. -/
def replay3 (ns : List NodeSt) (g : Graph) : State :=
  { dev := { streamDev 0 1 active0 with graphs := [(3, g)], replays := [(2, { ten := 0, strm := 1, seq := 1, gid := 3, gen := 1, nodes := ns })], launches := [] },
    turn := .agent 2 (ns.length - 1) }
def graph1 : Graph := { graph0 with nodes := graph0.nodes ++ [{ obj := 1, prio := 0, lfl := 0, plen := 0, dep := 1, pofs := 0 }] }

theorem witness_graph_node :
    let s := replay3 [.idle] graph0
    let u := replay3 [.ended 0x11, .idle] graph1
    (∀ r ∈ s.dev.replays.find? 2, r.nodes[0]? = some .idle ∧ nodeReady r 0 = some true ∧ earlierStarted s.dev 0 1 1 = true)
      ∧ (s.dev.graphs.find? (graphKey 0 3)).isSome = true ∧ (∀ r ∈ u.dev.replays.find? 2, r.nodes[1]? = some .idle ∧ nodeReady r 1 = some false)
      ∧ (∀ e ∈ u.dev.replays, e.1 < 2 → e.2.ten ≠ 0 ∨ e.2.gid ≠ 3) := by decide +kernel

/-! ### CTRL -/

/-- Launch 1 is item 1 of stream 1 and stands as given; sequencer 0 stands as given. -/
def itemDev (st : LSt) (f : Seq → Seq) (d : Dev) : Dev :=
  { d with launches := [(1, { launch1 with strm := 1, st := st })], seqs := [(0, f seq0)] }
def ctrl (f : Seq → Seq) (st : LSt) : State := recState (recOf 1 [(9, 1, 1), (16, 8, 1)]) (itemDev st f)

theorem witness_ctrl :
    let s := ctrl id .running
    field (recOf 1 [(9, 1, 1), (16, 8, 1)]) 9 1 = 1 ∧ itemLaunches s.dev 0 1 1 = [1] ∧ (∀ x ∈ s.dev.launch? 1, 0 ∈ seqsOf x)
      ∧ ((after (exec .attach s)).dev.seq 0).reqs = [.stop] ∧ ((after (exec .detach s)).dev.seq 0).reqs = []
      ∧ ((after (exec .killRec s)).dev.launch? 1).map (·.status) = some 0x17 := by decide +kernel

theorem witness_release :
    let s := ctrl (fun x => { x with run := .trapped, trap := some { cause := 5 } }) .parked
    (∀ x ∈ s.dev.launch? 1, x.st = .parked ∧ ((seqsOf x).findSome? (fun q => (s.dev.seq q).trap)).map (·.cause) = some 5)
      ∧ ((after (exec .releaseKill s)).dev.launch? 1).map (fun x => (x.status, x.cause)) = some (0x11, 5)
      ∧ ((after (exec .releaseReplay s)).dev.launch? 1).map (·.st) = some .running := by decide +kernel

theorem witness_stopped :
    let s := ctrl (fun x => { x with run := .stopped }) .running
    (s.dev.seq 0).run = .stopped ∧ (replaySeq s.dev 0).isSome = true ∧ ((after (exec .stepRec s)).dev.seq 0).stepMode = true
      ∧ ((after (exec .continueRec s)).dev.seq 0).run = .running := by decide +kernel

theorem witness_action_set :
    let r := recOf 1 [(10, 1, 7), (11, 1, 6)]
    field r 11 1 = 6 ∧ vget ((after (exec .actionSet (recState r id))).dev.tenant 0).actions 7 0 = 6 := by decide +kernel

/-! ### Records of tenants -/

theorem witness_launch_record :
    let r := recOf 1 [(4, 4, 9), (8, 4, 1), (13, 1, 3), (24, 8, 64)]
    (field r 12 1, field r 24 8) = (0, 64) ∧ launchStatus (recState r id).dev 0 0 1 0 true = 0x14
      ∧ launchStatus (recState r fun d => { d with objs := [(1, obj0)], tenants := vset d.tenants 0 { d.tenant 0 with diagOk := true } }).dev 0 0 1 0 true = 0 := by
  decide +kernel

theorem witness_wait_record :
    let r := recOf 1 [(8, 8, 16), (16, 8, 7), (24, 1, 1)]
    field r 24 1 ≤ 1 ∧ field r 25 39 = 0 ∧ addrOk (recState r id).dev 0 16 8 false = true
      ∧ ((after (exec .waitRec (recState r id))).dev.stream 0 1).wait = some (16, 7, 1) ∧ streamAfter 0 1 .waitRec (recState r id) = (0, 64, 2, 0) := by
  decide +kernel

/-- REGISTER of object 5 or its removal, image at page 1, status at 16. -/
def register0 (n kind : Nat) : Rec := recOf 1 [(8, 8, 16384), (16, 8, n), (24, 4, 5), (28, 1, kind), (32, 8, 16)]

theorem witness_unload :
    let s (g : Dev → Dev) := recState (register0 0 1) g
    let f := field (register0 0 1)
    1 ≤ f 24 4 ∧ f 24 4 ≤ 4095 ∧ f 29 3 = 0 ∧ f 40 24 = 0 ∧ addrOk (s id).dev 0 16 8 true = true ∧ pagesHere 0 [16] (s id).dev true = .ok () ∧ f 28 1 = 1
      ∧ (after (exec .register (s id))).dev.mem.num 0x100010 8 = 0x22
      ∧ (after (exec .register (s fun d => { d with objs := [(5, obj0)] }))).dev.objs = []
      ∧ (after (exec .register (s fun d => { d with objs := [(5, obj0)], launches := [(1, { launch1 with obj := 5 })] }))).dev.mem.num 0x100010 8 = 0x21 := by
  decide +kernel

theorem witness_register_refused :
    let s := recState (register0 512 0) id
    let f := field (register0 512 0)
    f 28 1 = 0 ∧ s.dev.objs.find? 5 = none ∧ 512 ≤ f 16 8 ∧ f 16 8 ≤ 2 ^ 30 ∧ pagesOf (f 8 8) (f 16 8) = [16384] ∧ addrOk s.dev 0 16384 1 false = true
      ∧ loadStatus s.dev (List.replicate 512 0) = 1 ∧ (after (exec .register s)).dev.mem.num 0x100010 8 = 1 := by decide +kernel

/-- A number whose bytes from lo are those of v. -/
def at_ (lo v : Nat) : Nat := 2 ^ (8 * lo) * v

/-- The digest of the public key 0x1234567 G, little-endian, and r and s of its ECDSA P-384 signature of the image's bytes 0 to 639, which
were worked out by another program from R315's standards. -/
def keyDigest : Nat := 0xc3b57d27ccdc793b2f07aef9ecac5e536714cbe4b860c77e8bd948b1946914d7a4b099f4e978d8752407fa846592fff8
def sigR : Nat := 0x1070acda8e6521888c728ee8befd106d3845b17d6069338358b82baf64447f4cd129bd78b89822911c91a79c5974f2e8
def sigS : Nat := 0xb77ee03b7243359551b00d7ccd5b712033df8dcbbdb6b39d6234767bed09e2af6d93ab1af74cd7cd73d333c6a913e7aa

/-- An object image of one cluster with one sequencer that halts: header, section table, cluster map at 320, core code at 512,
signature at 640 (R309 to R311, R74, R75, R315). -/
def image0 : Bytes :=
  toLe 896 (at_ 0 0x5A4C4B4F + at_ 4 1 + at_ 8 7 + at_ 34 1 + at_ 36 2 + at_ 40 256 + at_ 48 640
    + at_ 256 1 + at_ 264 320 + at_ 268 168 + at_ 272 2 + at_ 280 512 + at_ 284 128
    + at_ 320 1 + at_ 329 1 + at_ 340 4096 + at_ 512 0x800 + at_ 584 (0xFFFF000000000001) + at_ 592 1 + at_ 593 0x00400000
    + at_ 640 keyDigest + at_ 688 sigR + at_ 736 sigS)

/-- The key of the image's signature is in slot 0 of the code trust list. -/
def trusted (d : Dev) : Dev :=
  { d with fleet := { d.fleet with keys := vset d.fleet.keys 0 { digest := some (toLe 48 keyDigest) } }, mem := Mem.write d.mem 0x104000 image0 }

theorem witness_register_accepted : loadStatus (trusted (streamDev 0 1 active0)) image0 = 0 := by decide +kernel

theorem witness_register_unsigned :
    loadStatus (trusted (streamDev 0 1 active0)) ((image0.take 783) ++ [0#8] ++ image0.drop 784) = 2 := by decide +kernel

theorem witness_register_image :
    let s := recState (register0 896 0) trusted
    (match copyIn 0 16384 896 s.dev with | .ok (b, d) => (b, d.drawn) | .error _ => ([], 0)) = (image0, s.dev.drawn) ∧ readable s.dev 0 16384 896 = true
      ∧ (placements image0).map (·.1) = [0x800]
      ∧ pagesHere 0 ((placements image0).flatMap fun p => pagesOf p.1 p.2.length) s.dev true = .ok () ∧ (objOf image0).segs = [0x800] := by decide +kernel

/-- The body of a graph of one node with 64 parameter bytes, at page 1. -/
def graphBody (d : Dev) : Dev := { d with mem := (Mem.write d.mem 0x104000 (toLe 2 1)).write 0x104010 (toLe 24 (at_ 0 1 + at_ 6 1 + at_ 16 128)) }

theorem witness_gdef :
    let r := recOf 1 [(8, 1, 3), (16, 8, 16384), (24, 8, 16)]
    let s := recState r graphBody
    let got (n : Nat) (d : Dev) : Bytes × Dev := match copyIn 0 16384 n d with | .ok e => e | .error d => ([], d)
    let (h, d1) := got 16 s.dev
    let (b, d2) := got 80 d1
    field r 8 1 ≠ 0 ∧ field r 9 7 = 0 ∧ field r 32 32 = 0 ∧ addrOk s.dev 0 16 8 true = true ∧ addrOk s.dev 0 16384 1 false = true
      ∧ s.dev.graphs.find? (graphKey 0 3) = none ∧ h.length = 16 ∧ readable s.dev 0 16384 16 = true ∧ leNat (h.take 2) = 1 ∧ leNat (h.drop 2) = 0
      ∧ b.length = 80 ∧ readable d1 0 16384 80 = true ∧ (List.range 1).mapM (nodeOf b) = some [{ obj := 1, prio := 0, lfl := 0, plen := 1, dep := 0, pofs := 128 }]
      ∧ readable d2 0 (16384 + 128) 64 = true ∧ (match copyParms 0 16384 [{ obj := 1, prio := 0, lfl := 0, plen := 1, dep := 0, pofs := 128 }] d2 with | .ok (l, _) => l | .error _ => []) = [List.replicate 64 0] ∧ ((after (exec .gdef s)).dev.graphs.map fun e => (e.1, e.2.cur)) = [(3, 1)]
      ∧ (after (exec .gdef s)).dev.mem.num 0x100010 8 = 0 := by decide +kernel

theorem witness_graph :
    let r := recOf 1 [(8, 1, 3), (24, 8, 64)]
    let s := recState r graphed
    field r 8 1 ≠ 0 ∧ field r 9 15 = 0 ∧ field r 32 32 = 0 ∧ addrOk s.dev 0 64 64 true = true ∧ s.dev.graphs.find? (graphKey 0 3) = some graph0
      ∧ (after (exec .graph s)).dev.replays.length = 1 := by decide +kernel

/-- Four replays hold a generation each. -/
def fullGens (d : Dev) : Dev :=
  { graphed d with replays := [(1, { ten := 0, strm := 1, seq := 1, gid := 3, gen := 1 }), (2, { ten := 0, strm := 1, seq := 2, gid := 3, gen := 2 }),
                               (3, { ten := 0, strm := 1, seq := 3, gid := 3, gen := 3 }), (4, { ten := 0, strm := 1, seq := 4, gid := 3, gen := 4 })] }

theorem witness_gpatch :
    let s (g : Dev → Dev) := recState patch0 g
    let f := field patch0
    1 ≤ f 10 2 ∧ f 10 2 ≤ 256 ∧ f 16 48 = 0 ∧ recLen patch0 = 1 + (f 10 2 + 63) / 64 ∧ (s graphed).dev.graphs.find? (graphKey 0 3) = some graph0
      ∧ (graph0.nodes[0]?).map (·.plen) = some 1 ∧ f 12 4 + f 10 2 ≤ 64 * 1 ∧ (patchGraph 0 patch0 (s fullGens).dev).isNone = true
      ∧ ((after (exec .gpatch (s graphed))).dev.graphs.map fun e => (e.2.cur, e.2.gens.map fun g => (g.1, g.2.parms.map (·.take 6)))) = [(2, [(2, [[3, 3, 3, 3, 9, 10]])])]
      ∧ ((after (exec .gpatch (s fullGens))).dev.stream 0 1).state = 2 := by decide +kernel

theorem witness_nop_stepped :
    let s := idle (fun x => { x with nopLeft := 2, stepMode := true }) id
    nopReady s 0 true ∧ (s.dev.seq 0).nopLeft = 1 + 1
      ∧ (((issueBundle 0 s).dev.seq 0).trap.map fun t => (t.cause, t.cont)) = some (0x13, [1]) :=
  ⟨⟨rfl, by decide +kernel, rfl, rfl, rfl, rfl, by decide +kernel, nofun, rfl, rfl, rfl⟩, rfl, by decide +kernel⟩

theorem witness_nop_word_stepped :
    let s : State := { mid 0 (fun x => { x with stepMode := true }) id with issue := some { iss 0 with rest := [(0, 3)] } }
    (s.dev.seq 0).run = .running ∧ (s.dev.seq 0).stepMode = true ∧ (after (exec (.nop 3) s)).issue = none
      ∧ (((after (exec (.nop 3) s)).dev.seq 0).trap.map fun t => (t.cause, t.cont)) = some (0x13, [3]) := by decide +kernel

/-! ### Records of the admin stream -/

/-- A record of the admin stream with its turn. -/
def adminState (r : Rec) (g : Dev → Dev) : State := { dev := g (streamDev 16 0 active0), turn := .record 16 0 r }

theorem witness_admin_turn (r : Rec) : recordTurn (adminState r id) 16 0 r :=
  have h : (streamDev 16 0 active0).fw.gstat = 1 ∧ leaderFree (streamDev 16 0 active0) = true ∧ ((streamDev 16 0 active0).stream 16 0).state = 1 := by decide +kernel
  ⟨rfl, ⟨h.1, h.2.1⟩, h.2.2⟩

/-- TSET that makes tenant 1 active, and one that removes tenant 0. -/
def tset1 : Rec := recOf 1 [(8, 1, 1), (9, 1, 1), (10, 1, 2), (11, 1, 5), (12, 1, 3), (16, 4, 77), (20, 4, 64 + 1024 * 64), (24, 8, 2 ^ 29), (32, 8, 4096), (40, 4, 6), (48, 8, 8), (56, 8, 2 ^ 41)]
def tset0 : Rec := recOf 1 [(8, 1, 0)]

theorem witness_tset :
    let f := field tset1
    let s := adminState tset1 id
    f 8 1 ≤ 15 ∧ f 10 1 ≤ 3 ∧ f 12 1 ≤ 3 ∧ f 13 3 = 0 ∧ f 44 4 = 0 ∧ f 9 1 = 1 ∧ f 11 1 ≠ 0 ∧ f 16 4 < 2 ^ 20 ∧ 6 ≤ f 40 4 ∧ f 40 4 ≤ 16 ∧ partOk s.dev 1 (f 20 4) = true
      ∧ f 24 8 % 2 ^ 28 = 0 ∧ f 24 8 + 2 ^ 28 ≤ Config.hbmBytes ∧ f 32 8 % 4096 = 0 ∧ f 48 8 % 8 = 0 ∧ f 56 8 % 2 ^ 28 = 0 ∧ f 56 8 < 2 ^ 56
      ∧ resident s.dev 1 = false ∧ usedColumns s.dev 1 = [] ∧ field tset0 9 1 = 0
      ∧ ((after (exec .tset s)).dev.tenant 1).wgt = 5 ∧ ((after (exec .tset s)).dev.tenant 1).pasid = 77 ∧ vget ((after (exec .tset s)).dev.tenant 1).actions 0x26 0 = 1
      ∧ ((after (exec .tset (adminState tset0 id))).dev.tenant 0).active = false := by decide +kernel

theorem witness_tkill :
    let r := recOf 1 []
    field r 8 1 ≤ 15 ∧ field r 9 55 = 0 ∧ ((after (exec .tkill (adminState r id))).dev.launch? 1).map (·.status) = some 0x17 := by decide +kernel

/-- CTXW of a tenant: heap of 2 MiB at 0 onto 1 GiB, save area of 64 MiB at 2 GiB. -/
def ctxw (k : Nat) : Rec :=
  recOf 2 [(9, 1, k), (16, 8, 0x100010), (32, 8, 2 ^ 21), (40, 8, 2 ^ 30), (48, 1, 3), (56, 8, 2 ^ 31), (64, 8, 2 ^ 26), (72, 8, 2 ^ 40)]

theorem witness_ctxw :
    let f := field (ctxw 1)
    let s (k : Nat) := adminState (ctxw k) id
    f 9 1 ≤ 15 ∧ f 10 6 = 0 ∧ statOk (s 1).dev (f 16 8) = true ∧ spareZero (ctxw 1) [(24, 25), (56, 24)] ∧ spareZero (ctxw 0) [(24, 25), (56, 24)]
      ∧ f 24 8 % 2 ^ 21 = 0 ∧ f 32 8 % 2 ^ 21 = 0 ∧ f 32 8 ≤ 2 ^ 56 ∧ f 24 8 ≤ f 32 8 ∧ f 40 8 % 2 ^ 21 = 0 ∧ f 40 8 + (f 32 8 - f 24 8) ≤ Config.hbmBytes
      ∧ f 48 1 ≤ 3 ∧ f 56 8 % 2 ^ 21 = 0 ∧ f 64 8 % 2 ^ 21 = 0 ∧ 64 * 2 ^ 20 ≤ f 64 8 ∧ f 56 8 + f 64 8 ≤ Config.hbmBytes ∧ f 72 8 % 2 ^ 21 = 0 ∧ f 72 8 < 2 ^ 56
      ∧ resident (s 0).dev 0 = true ∧ resident (s 1).dev 1 = false
      ∧ (∀ j < 16, j ≠ 1 → ∀ x ∈ tenantRanges ((s 1).dev.tenant j), overlap x.1 x.2 (f 40 8) (f 32 8 - f 24 8) = false ∧ overlap x.1 x.2 (f 56 8) (f 64 8) = false)
      ∧ (after (exec .ctxw (s 0))).dev.mem.num 0x100010 8 = 2 ∧ ((after (exec .ctxw (s 1))).dev.tenant 1).hofs = 2 ^ 30 ∧ ((after (exec .ctxw (s 1))).dev.tenant 1).hperm = 3 := by
  unfold spareZero; decide +kernel

/-- The status that a MEM record leaves. -/
def answerOf (i : Instr) (r : Rec) (g : Dev → Dev) : Nat := (after (exec i (adminState r g))).dev.mem.num 0x100010 8

/-- Tenant 2's heap lies where tenant 1's is asked for; tenant 1's launch keeps a save area at 4 GiB. -/
def beside (d : Dev) : Dev := { d with tenants := vset d.tenants 2 { active := true, wgt := 1, hlim := 2 ^ 21, hofs := 2 ^ 30 } }
def saveHeld (d : Dev) : Dev :=
  { d with tenants := vset d.tenants 1 { active := true, wgt := 1, svpa := 2 ^ 32, svlen := 2 ^ 26 },
           launches := d.launches ++ [(2, { launch1 with ten := 1, st := .waiting, recs := [(0, 16384)] })] }
/-- CTXW of tenant 1 with a heap limit that is no multiple of 2 MiB. -/
def ctxwOdd : Rec := recOf 2 [(9, 1, 1), (16, 8, 0x100010), (32, 8, 2 ^ 20), (40, 8, 2 ^ 30), (48, 1, 3), (56, 8, 2 ^ 31), (64, 8, 2 ^ 26), (72, 8, 2 ^ 40)]

theorem witness_ctxw_answers :
    spareZero ctxwOdd [(24, 25), (56, 24)] ∧ field ctxwOdd 32 8 % 2 ^ 21 ≠ 0 ∧ answerOf .ctxw ctxwOdd id = 1
      ∧ saveLive (adminState (ctxw 1) saveHeld).dev 1 = true ∧ field (ctxw 1) 56 8 ≠ ((adminState (ctxw 1) saveHeld).dev.tenant 1).svpa
      ∧ answerOf .ctxw (ctxw 1) saveHeld = 2 ∧ (2 ^ 30, 2 ^ 21) ∈ tenantRanges ((adminState (ctxw 1) beside).dev.tenant 2)
      ∧ (adminState (ctxw 1) beside).dev.mmu.scrubs = [] ∧ answerOf .ctxw (ctxw 1) beside = 3 := by
  unfold spareZero; decide +kernel

/-- PWIN 2 of a tenant: peers 3 and 4, 32 KiB at 64 MiB; and one that removes the window. -/
def pwin (k np : Nat) : Rec :=
  recOf 2 (if np = 0 then [(9, 1, k), (16, 8, 0x100010), (24, 1, 2)]
    else [(9, 1, k), (16, 8, 0x100010), (24, 1, 2), (25, 1, np), (27, 1, 3), (28, 4, 5), (32, 8, 2 ^ 26), (40, 8, 32768), (48, 8, 4096), (56, 2, 3), (58, 2, 4)])

theorem witness_pwin :
    let f := field (pwin 1 2)
    let s (k np : Nat) := adminState (pwin k np) id
    spareZero (pwin 1 2) [(24, 64)] ∧ spareZero (pwin 1 0) [(24, 64)] ∧ f 24 1 ≤ 15 ∧ f 25 1 = 2 ∧ field (pwin 1 0) 25 1 = 0 ∧ f 26 1 = 0 ∧ f 27 1 ≤ 3 ∧ f 28 4 ≤ 15
      ∧ f 32 8 % 16384 = 0 ∧ f 40 8 ≠ 0 ∧ f 40 8 % 16384 = 0 ∧ f 32 8 + f 40 8 ≤ 2 ^ 56 ∧ f 48 8 % 4096 = 0
      ∧ (∀ j < 16, if j < f 25 1 then f (56 + 2 * j) 2 ≤ 511 else f (56 + 2 * j) 2 = 0) ∧ resident (s 1 2).dev 1 = false ∧ resident (s 0 0).dev 0 = true
      ∧ overlap (f 32 8) (f 40 8) ((s 1 2).dev.tenant 1).hbase (((s 1 2).dev.tenant 1).hlim - ((s 1 2).dev.tenant 1).hbase) = false
      ∧ (∀ j < 16, j ≠ f 24 1 → vget ((s 1 2).dev.tenant 1).wins j none = none)
      ∧ ((vget ((after (exec .pwin (s 1 2))).dev.tenant 1).wins 2 none).map fun w => (w.peers, w.rctx)) = some ([3, 4], 5)
      ∧ (after (exec .pwin (s 0 0))).dev.mem.num 0x100010 8 = 2 ∧ vget ((after (exec .pwin (s 1 0))).dev.tenant 1).wins 2 none = none := by
  unfold spareZero; decide +kernel

/-- A pull window of tenant 1 over two pages that translate to the frames 20 and 21; one of mode 2; tenant 1's heap lies at the window. -/
def pullWin (mode : Nat) : Rec :=
  recOf 2 [(9, 1, 1), (16, 8, 0x100010), (24, 1, 2), (25, 1, 1), (26, 1, mode), (27, 1, 1), (32, 8, 2 ^ 26), (40, 8, 32768), (48, 8, 4096), (56, 2, 3)]
def windowed (d : Dev) : Dev :=
  { d with mmu := { d.mmu with tlb := d.mmu.tlb ++ [{ die := 0, ten := 1, page := 4096, res := .mapped true true (frameLoc 20), size := 1 }] } }
def heaped (d : Dev) : Dev := { d with tenants := vset d.tenants 1 { active := true, wgt := 1, hbase := 2 ^ 26, hlim := 2 ^ 26 + 2 ^ 21 } }

theorem witness_pwin_answers :
    spareZero (pullWin 1) [(24, 64)] ∧ spareZero (pullWin 2) [(24, 64)] ∧ answerOf .pwin (pullWin 2) id = 1 ∧ answerOf .pwin (pullWin 0) heaped = 3
      ∧ windowKnown (adminState (pullWin 1) windowed).dev 1 (2 ^ 26) 32768 = true
      ∧ windowFrames (adminState (pullWin 1) windowed).dev 1 (2 ^ 26) 32768 = [20, 21]
      ∧ ((after (exec .pwin (adminState (pullWin 1) windowed))).dev.frame 20).home = 6 ∧ ((after (exec .pwin (adminState (pullWin 1) windowed))).dev.frame 21).home = 6 := by
  unfold spareZero; decide +kernel

/-- Frame 8 belongs to tenant 1, frame 9 to tenant 0. -/
def owned (d : Dev) : Dev := { d with mmu := { d.mmu with frames := [(8, { owner := some 1, home := 0 }), (9, { owner := some 0, home := 0 })] } }

theorem witness_frames :
    let b := recOf 2 [(9, 1, 1), (16, 8, 0x100010), (24, 8, 8), (32, 4, 1), (36, 1, 1)]
    let f := recOf 2 [(9, 1, 1), (16, 8, 0x100010), (24, 8, 8), (32, 4, 1)]
    let s (r : Rec) := adminState r owned
    field b 32 4 ≠ 0 ∧ field b 32 4 ≤ 2 ^ 20 ∧ field b 24 8 + field b 32 4 ≤ 2 ^ 28
      ∧ (∀ e ∈ (s b).dev.mmu.frames, 8 ≤ e.1 → e.1 < 9 → ∀ o ∈ e.2.owner, o = 1) ∧ spareZero b [(24, 13)] ∧ field b 36 1 ≤ 1 ∧ spareZero f [(24, 12)]
      ∧ (after (exec .bias (s b))).dev.mmu.flips = some (8, 1, 0x100010, true)
      ∧ (after (exec .free (s f))).dev.mmu.scrubs = [{ base := frameLoc 8, len := 16384, frame := some 8, stat := some (0x100010, 0) }] := by
  unfold spareZero; decide +kernel

theorem witness_memory_refused :
    let z := recOf 2 [(9, 1, 1), (16, 8, 0x100010), (24, 8, 8)]
    let w := recOf 2 [(16, 8, 0x100010), (24, 1, 2), (28, 4, 20), (32, 4, 10)]
    spareZero z [(24, 13)] ∧ spareZero z [(24, 12)] ∧ field z 32 4 = 0 ∧ answerOf .bias z id = 1 ∧ answerOf .free z id = 1
      ∧ spareZero w [(24, 1), (28, 8), (40, 16)] ∧ ¬ field w 28 4 < field w 32 4 ∧ answerOf .wmark w id = 1 := by
  unfold spareZero; decide +kernel

theorem witness_wmark :
    let r := recOf 2 [(16, 8, 0x100010), (24, 1, 2), (28, 4, 10), (32, 4, 20), (40, 8, 16384)]
    spareZero r [(24, 1), (28, 8), (40, 16)] ∧ field r 9 1 = 0 ∧ field r 24 1 ≤ 3 ∧ field r 28 4 < field r 32 4 ∧ field r 40 8 % 16384 = 0 ∧ field r 48 8 % 16384 = 0
      ∧ vget (after (exec .wmark (adminState r id))).dev.mmu.high 2 0 = 20 := by
  unfold spareZero; decide +kernel

/-! ### Translation, requests, moves, flips and scrubs -/

/-- The device with an outside step's turn. -/
def outside (t : Turn) (g : Dev → Dev) : State := { dev := g (streamDev 0 1 active0), turn := t }

/-- What some die's cache holds of a tenant's page after a step. -/
def entryAfter (i : Instr) (s : State) (ten page : Nat) : Option AtsRes := pageEntry (after (exec i s)).dev ten page

/-- Host addresses that lead to device-physical 0x108000 and to managed frame 4 (R373). -/
def hbmAt : Nat := (outside .none id).dev.bar2.1 + 0x108000
def frameAt : Nat := (outside .none id).dev.hdm1.1 + 4 * 16384

theorem witness_ats :
    let t (r : AtsRes) (n : Nat) : State := outside (.ats 1 0 (BitVec.ofNat 64 (5 * 16384)) r n) id
    let m := (t .unmapped 0).dev
    1 < dieCount m ∧ (∀ e ∈ m.mmu.tlb, e.die = 1 → e.covers 0 5 = true → e.res = .unmapped) ∧ m.mmu.refused = [] ∧ (BitVec.ofNat 64 (5 * 16384)).toNat / 16384 = 5
      ∧ atsValue m 0 (.mapped true false hbmAt) = .mapped true false 0x108000 ∧ frameOf 0x108000 = none ∧ frameOf (frameLoc 4) = some 4 ∧ scrubbing m 4 = false
      ∧ atsValue m 0 (.mapped true true frameAt) = .mapped true true (frameLoc 4) ∧ atsValue m 0 .unmapped = .unmapped ∧ atsValue m 0 .refused = .refused
      ∧ entryAfter .atsCompletion (t (.mapped true false hbmAt) 0) 0 5 = some (.mapped true false 0x108000)
      ∧ ((after (exec .atsCompletion (t (.mapped true true frameAt) 0))).dev.frame 4).owner = some 0
      ∧ entryAfter .atsCompletion (t (.mapped true false frameAt) 1) 0 5 = some (.mapped true false (frameLoc 5))
      ∧ entryAfter .atsCompletion (t .refused 0) 0 5 = some .refused ∧ entryAfter .atsCompletion (t .unmapped 0) 0 5 = some .unmapped := by decide +kernel

theorem witness_ats_invalidate :
    let s := outside (.inval 0 16384 16385) id
    entryAfter .atsInvalidate s 0 1 = none ∧ (entryAfter .atsInvalidate s 0 0).isSome = true := by decide +kernel

/-- A request for page 7 of tenant 0, and what the cache holds of it. -/
def requested (sent : Bool) (res : AtsRes) (x : Frame) (d : Dev) : Dev :=
  { d with mmu := { d.mmu with reqs := [{ ten := 0, page := 7, write := false, sent := sent }], tlb := d.mmu.tlb ++ [{ die := 0, ten := 0, page := 7, res := res }],
                               frames := [(4, x)] } }

/-- The state at the request. -/
def atRequest (sent : Bool) (res : AtsRes) (x : Frame) : State := outside (.agent 0 0) (requested sent res x)

theorem witness_page_answers :
    let m := AtsRes.mapped true true (frameLoc 4)
    let s := atRequest false m
    (∀ r : AtsRes, r ∈ [AtsRes.refused, .unmapped, m] → pageEntry (atRequest false r {}).dev 0 7 = some r) ∧ (s {}).dev.mmu.dead = [] ∧ (s {}).dev.frame 4 = {}
      ∧ ((s {}).dev.mmu.reqs.filter fun x => decide (x.ten = 0) && x.sent) = [] ∧ placeTier (s {}).dev = some 0
      ∧ (after (exec .pageRequest (atRequest false .unmapped {}))).dev.mmu.reqs.map (·.sent) = [true]
      ∧ (after (exec .pageRequest (atRequest false .refused {}))).dev.mmu.reqs = [] ∧ (after (exec .pageRequest (s { home := 0 }))).dev.mmu.reqs = []
      ∧ ((after (exec .pageRequest (s { home := 6 }))).dev.frame 4).pull = true ∧ ((after (exec .pageRequest (s { home := 4 }))).dev.frame 4).home = 0
      ∧ ((after (exec .pageRequest (s {}))).dev.frame 4).accessed = true := by decide +kernel

theorem witness_pri :
    let s (a : PriAns) : State := outside (.pri 0 (BitVec.ofNat 64 (7 * 16384)) a) (requested true .unmapped {})
    (s .success).dev.mmu.reqs.find? (fun r => decide (r.ten = 0) && decide (r.page = 7) && r.sent) = some { ten := 0, page := 7, write := false, sent := true }
      ∧ (after (exec .priResponse (s .success))).dev.mmu.reqs.map (·.sent) = [false] ∧ entryAfter .priResponse (s .success) 0 7 = none
      ∧ entryAfter .priResponse (s .invalid) 0 7 = some .refused ∧ (after (exec .priResponse (s .failure))).dev.mmu.dead = [0]
      ∧ (after (exec .priReset { s .failure with turn := .agent 0 0, dev := (after (exec .priResponse (s .failure))).dev })).dev.mmu.dead = [] := by decide +kernel

theorem witness_age :
    let s := outside (.agent 0 0) fun d => { d with mmu := { d.mmu with frames := [(4, { age := 255 }), (5, { age := 9, accessed := true })] } }
    s.dev.fw.gstat = 1 ∧ (after (exec .frameAgeTick s)).dev.mmu.frames.map (·.2.age) = [255, 0] := by decide +kernel

/-- The CXL pool is small and above its mark; two of its frames have homes there; the host pool has room. -/
def crowded (d : Dev) : Dev :=
  { d with mmu := { d.mmu with pools := vset (vset d.mmu.pools 1 (0, 16384 * 4)) 2 (0, 16384 * 4), low := vset d.mmu.low 2 3, high := vset d.mmu.high 2 4,
                               frames := [(4, { home := 2, age := 1 }), (5, { home := 2, age := 7 })] } }

theorem witness_demotion :
    let s := outside (.agent 2 0) crowded
    freeFrames s.dev 2 < lowMark s.dev 2 ∧ victimFrame s.dev 2 = some 5 ∧ demoteTier s.dev 2 = some 3 ∧ 0 < freeFrames s.dev 3
      ∧ ((after (exec .frameMove s)).dev.frame 5).home = 3 ∧ vget (after (exec .frameMove s)).dev.mmu.demoting 2 false = true := by decide +kernel

/-- Launch 1 is tiered and maps frame 4 read-only at home 4. -/
def promotable (d : Dev) : Dev :=
  { d with launches := [(1, { launch1 with plan := 0x1000 })],
           mmu := { d.mmu with frames := [(4, { owner := some 0, home := 4 })], tlb := d.mmu.tlb ++ [{ die := 0, ten := 0, page := 7, res := .mapped true false (frameLoc 4) }] } }

theorem witness_promote :
    let s := outside (.agent 18 4) promotable
    (∀ x ∈ s.dev.launch? ((18 - 16) / 2), x.plan ≠ 0 ∧ x.st = .running ∧ (s.dev.frame 4).owner = some x.ten ∧ readOnlyFrame s.dev x.ten 4 = true)
      ∧ 18 % 2 < (s.dev.frame 4).home ∧ (s.dev.frame 4).home ≤ 4 ∧ 0 < freeFrames s.dev (18 % 2) ∧ scrubbing s.dev 4 = false
      ∧ (after (exec .frameMove s)).dev.frame 4 = { owner := some 0, home := 0, pins := [1] } := by decide +kernel

/-- Frame 4 is being pulled. -/
def pulling (d : Dev) : Dev := { d with mmu := { d.mmu with frames := [(4, { owner := some 0, home := 6, pull := true })] } }

theorem witness_pull :
    let s := outside (.pull 4 (List.replicate 16384 0)) pulling
    placeTier s.dev = some 0 ∧ (s.dev.frame 4).home = 6 ∧ (s.dev.frame 4).pull = true ∧ (List.replicate 16384 (0 : Byte)).length = 16384
      ∧ ((after (exec .pullFail (outside (.agent 4 0) pulling))).dev.frame 4).home = 7 := by
  refine ⟨by decide +kernel, by decide +kernel, by decide +kernel, List.length_replicate, by decide +kernel⟩

theorem witness_flip :
    let s (n : Nat) := outside (.agent 0 0) fun d => { owned d with mmu := { (owned d).mmu with flips := some (8, n, 0x100010, false) } }
    placedIn (s 1).dev (frameLoc 8) 16384 = false ∧ farIn (s 1).dev (frameLoc 8) 16384 = false ∧ ((after (exec .biasFlip (s 1))).dev.frame 8).devBias = false ∧ (after (exec .biasFlip (s 1))).dev.mmu.flips = none
      ∧ (after (exec .biasFlip (s 2))).dev.mmu.flips = some (9, 1, 0x100010, false) := by decide +kernel

theorem witness_scrub :
    let s := outside (.agent 0 0) fun d =>
      { owned d with mem := Mem.write [] (frameLoc 8) [5, 6], mmu := { (owned d).mmu with scrubs := [{ base := frameLoc 8, len := 16384, frame := some 8, stat := some (0x100010, 9) }] } }
    placedIn s.dev (frameLoc 8) 16384 = false ∧ farIn s.dev (frameLoc 8) 16384 = false ∧ (after (exec .frameScrub s)).dev.mem.num (frameLoc 8) 2 = 0
      ∧ (after (exec .frameScrub s)).dev.mem.num 0x100010 8 = 9 ∧ (after (exec .frameScrub s)).dev.mmu.frames.map (·.1) = [9] := by decide +kernel

/-! ### Firmware and fleet -/

/-- FWUP of an image of 64 KiB at 1 MiB with its status at 8. -/
def fwup0 : Rec := recOf 2 [(8, 8, 0x100000), (16, 8, 65536), (24, 8, 0x200000), (32, 4, 5), (40, 8, 8)]

theorem witness_fwup :
    let f := field fwup0
    let d := (adminState fwup0 id).dev
    (f 16 8 % 4096 = 0 ∧ 65536 ≤ f 16 8 ∧ f 16 8 ≤ 2 ^ 24 ∧ 1 ≤ f 32 4 ∧ f 32 4 ≤ 10000 ∧ f 36 4 = 0 ∧ f 48 16 = 0 ∧ f 112 16 = 0 ∧ f 8 8 % 4096 = 0
        ∧ f 8 8 + f 16 8 ≤ hbmSize d ∧ f 24 8 % 4096 = 0 ∧ f 24 8 + 4096 ≤ hbmSize d ∧ f 40 8 % 8 = 0 ∧ physOk d (f 40 8) 8 = true)
      ∧ statusPending d = false ∧ recordTurn (adminState fwup0 id) 16 0 fwup0 := ⟨by decide +kernel, by decide +kernel, witness_admin_turn _⟩

/-- A core whose write of the switch register is still to land. -/
def switchWrite (d : Dev) : Dev := { d with seqs := [(1024, { seq0 with place := { granules := 16, control := true }, pend := [{ tgt := .sysreg 0x63, data := 0x10000, en := 0xFF, rdly := 1 }] })] }

theorem witness_check_and_switch :
    let s (g : Dev → Dev) := outside (.agent 0 0) g
    let chk := s fun d => { d with fw := { d.fw with pendChk := some (1024, 0x1000, 5, []) } }
    let sw := s fun d => { d with seqs := [], fw := { d.fw with pendFsw := some (1024, 0x10000), ucnt := 3 } }
    settledBefore chk.dev 1024 5 [] = true ∧ (after (exec .fchkWrite chk)).dev.fw.checking = some 0x1000
      ∧ settledBefore sw.dev 1024 (sw.dev.seq 1024).opCtr ((sw.dev.seq 1024).cols.toList.map (·.sdAsg)) = true ∧ (sw.dev.seq 1024).unacked = 0
      ∧ sw.dev.fw.pendChk = none ∧ sw.dev.placed = [] ∧ sw.dev.splits = []
      ∧ (after (exec .slotSwitch sw)).dev.fw.act = 1 ∧ (after (exec .slotSwitch sw)).dev.fw.ucnt = 4 ∧ (after (exec .slotSwitch sw)).dev.fw.gstat = 2
      ∧ (after (exec .slotSwitch sw)).dev.seqs.length = 16 := by decide +kernel

theorem witness_heartbeat :
    let s (v : Option Word) := outside (.agent 0 0) fun d => { d with fw := { d.fw with ucnt := 4, switching := some (0, []), gstat := 2, pendFhb := v } }
    (landSysreg 1024 0x64 4 (s none).dev).fw.pendFhb = some 4 ∧ (landSysreg 1024 0x64 5 (s none).dev).fw.pendFhb = none ∧ (s (some 4)).dev.placed = []
      ∧ (after (exec .fhbWrite (s (some 4)))).dev.fw.gstat = 1 ∧ (after (exec .fhbWrite (s none))).dev.fw.gstat = 2
      ∧ (after (exec .heartbeatTimeout (s none))).dev.fw.switching = none ∧ (after (exec .heartbeatTimeout (s (some 4)))).dev.fw.switching.isSome = true := by
  decide +kernel

theorem witness_check_completes :
    let s := outside (.agent 0 0) fun d => { d with fw := { d.fw with checking := some 0x1000 } }
    s.dev.fw.checking = some 0x1000 ∧ (after (exec .firmwareCheckComplete s)).dev.fw.checking = none := by decide +kernel

theorem witness_switch_write :
    let s := outside (.agent 0 0) switchWrite
    (List.find? (fun e : Nat × Seq => decide (1024 ≤ e.1) && e.2.pend.any fun w => decide (w.tgt = .sysreg 0x63)) s.dev.seqs).map (·.1) = some 1024
      ∧ (after (exec .fswWrite s)).dev.fw.pendFsw = some (1024, 0x10000) := by decide +kernel

theorem witness_reset :
    let s (off : Bool) := outside (.agent 0 0) fun d =>
      { d with fleet := { d.fleet with off := off, plim := 700, unprotNext := true }, fw := { d.fw with act := 1, ucnt := 9 } }
    let r (off : Bool) := (after (exec .reset (s off))).dev
    (r true).fw.gstat = 1 ∧ (r true).fw.act = 1 ∧ (r true).fw.ucnt = 0 ∧ (r true).fleet.plim = 1500 ∧ (r true).fleet.unprot = false ∧ (r true).adma = 0
      ∧ (r false).fw.ucnt = 9 ∧ (r false).fleet.plim = 700 ∧ (r false).fleet.unprot = true ∧ (r false).adma = 0x300000 ∧ (r true).mem.wf = true := by decide +kernel

/-- A FLEET record: its fields beside the status address 0x100010. -/
def fleetRec (n : Nat) (l : List (Nat × Nat × Nat)) : Rec := recOf n ((16, 8, 0x100010) :: l)

theorem witness_fleet_records :
    let ok (r : Rec) : Bool := decide (field r 9 7 = 0) && statOk (adminState r id).dev (field r 16 8)
    let p (a : Nat) := fleetRec 2 [(24, 2, a), (28, 1, 80)]
    let ras := fleetRec 2 [(24, 1, 3)]
    let adv (k v : Nat) := fleetRec 2 [(24, 1, k), (32, 8, v)]
    let add := fleetRec 2 [(25, 1, 2), (32, 48, 77)]
    let rev := fleetRec 2 [(25, 1, 2)]
    let stat (i : Instr) (r : Rec) (g : Dev → Dev) := (after (exec i (adminState r g))).dev.mem.num 0x100010 8
    ok (p 400) ∧ ok ras ∧ ok (adv 0 5) ∧ ok add ∧ ok rev ∧ spareZero (p 400) [(24, 5)] ∧ spareZero ras [(24, 1)] ∧ spareZero (adv 0 5) [(24, 1), (32, 8)]
      ∧ spareZero (adv 2 5) [(24, 1), (32, 8)] ∧ spareZero add [(24, 2), (32, 48)] ∧ spareZero rev [(24, 2)]
      ∧ stat .power (p 200) id = 1 ∧ stat .advance (adv 2 5) id = 1 ∧ stat .keyrev rev id = 1 ∧ stat .advance (adv 0 5) (fun d => { d with fleet := { d.fleet with secc := [7] } }) = 1
      ∧ (after (exec .ras (adminState ras id))).dev.fleet.unprotNext = true ∧ (after (exec .advance (adminState (adv 1 5) id))).dev.fleet.fwsc = [5]
      ∧ (vget (after (exec .keyadd (adminState add id))).dev.fleet.keys 2 {}).digest = some (toLe 48 77) := by
  unfold spareZero; decide +kernel

/-- Readings of an arbiter step: the package draws 1600 W, die 1 most, and it stands at 100 degrees. -/
def sensors0 : Sensors :=
  { pkg := 1600000, mod := 0, diePower := [100, 200, 100, 100], temp := [400, 800, 400, 400], sram := [800, 800, 800, 800], coreRail := [800, 800, 800, 800] }

theorem witness_arbiter :
    let s := outside (.sensors sensors0) id
    s.turn = .sensors sensors0 ∧ powerLimit s.dev sensors0 = 1500000 ∧ dieCount s.dev = 4
      ∧ firstDie [0, 1, 2, 3] (fun i j => decide (sensors0.diePower.getD j 0 < sensors0.diePower.getD i 0)) = some 1
      ∧ (dieOfFleet (lower 1 (lower 1 s.dev)) 1).grant = 950 := by decide +kernel

theorem witness_monitors :
    let s (j : Nat) (g : Dev → Dev) := outside (.agent 1 j) g
    1 < dieCount (s 0 id).dev ∧ 1 < pairCount (s 0 id).dev ∧ (dieOfFleet (s 0 id).dev 1).tcrit = false ∧ (s 0 id).dev.fleet.failed.getLsbD 1 = false
      ∧ (s 0 id).dev.fleet.unprot = false ∧ (dieOfFleet (s 0 (modDie 1 fun y => { y with decTed := true })).dev 1).decTed = true
      ∧ (dieOfFleet (after (exec .droopStretch (s 0 id))).dev 1).reasons = 16 ∧ (dieOfFleet (after (exec .tcritReached (s 0 id))).dev 1).grant = 400
      ∧ (after (exec .thermalShutdown (s 0 id))).dev.fleet.off = true := by decide +kernel

/-! ### The host -/

theorem witness_host :
    let w (fn off : Nat) (l : Bytes) := outside (.hostWrite fn off l) id
    let r (fn off n : Nat) := outside (.hostRead fn off n) id
    let reads (s : State) : Nat := leNat (after (exec .hostWindowRead s)).dev.hostRead
    windowLoc (w 0 64 [7]).dev 0 64 1 = some 0x200040 ∧ windowLoc (r 16 0x100000 8).dev 16 0x100000 8 = some 0x100000
      ∧ nowBytes (r 16 0x100000 8).dev 0x100000 8 = some (List.replicate 8 0) ∧ (after (exec .hostWindowWrite (w 0 64 [7]))).dev.mem.num 0x200040 1 = 7
      ∧ reads (r 48 0x10 8) = 1 ∧ reads (r 48 0x18 8) = 0x300000 ∧ reads (r 48 0x110 8) = 1500 + 2 ^ 16 * 2000 + 2 ^ 32 * 95
      ∧ reads (r 48 0x280 8) = 1024 * 64 + 2 ^ 32 ∧ reads (r 32 0 8) = 2 ^ 8 ∧ reads (r 33 0 8) = 1 := by decide +kernel

theorem witness_cxl :
    let s (a : Nat) (x : HostAcc) := outside (.cxl a x) owned
    let p := (s 0 (.read 4)).dev
    resultLoc p (p.hdm0.1 + 0x100000) 4 = some 0x100000 ∧ resultLoc p (p.hdm1.1 + 8 * 16384) 2 = some (frameLoc 8) ∧ resultLoc p 64 2 = some (hostLoc + 64)
      ∧ frameOf 0x100000 = none ∧ frameOf (hostLoc + 64) = none ∧ frameOf (frameLoc 8) = some 8 ∧ (p.frame 8).home ≤ 3 ∧ frameLoc 8 % 16384 + 2 ≤ 16384
      ∧ (after (exec .hostCxlMemAccess (s (p.hdm0.1 + 0x100000) (.write [5, 6])))).dev.mem.num 0x100000 2 = 0x0605
      ∧ (after (exec .hostCxlMemAccess (s 64 (.write [5, 6])))).dev.mem.num (hostLoc + 64) 2 = 0x0605
      ∧ (after (exec .hostCxlMemAccess (s (p.hdm1.1 + 8 * 16384) (.write [5, 6])))).dev.mem.num (frameLoc 8) 2 = 0x0605
      ∧ (after (exec .hostCxlMemAccess { s (p.hdm0.1 + 0x100000) (.read 1) with dev := { p with mem := Mem.write [] 0x100000 [9] } })).dev.hostRead = [9] := by decide +kernel

/-- A byte of the MSI-X table of PF0 is kept, and a write of another register changes nothing (R347, R348). -/
theorem witness_bar0 :
    let s (off : Nat) := outside (.hostWrite 48 off [7]) id
    inTable 16 0x8000 = true ∧ inTable 16 0x10 = false ∧ (s 0).dev.msixPend = [] ∧ (after (exec .bar0Write (s 0x8000))).dev.msix.length = 1
      ∧ (after (exec .bar0Write (s 0x10))).dev.msix = [] := by decide +kernel

theorem witness_measurement :
    let s := outside (.agent 1 0) fun d => { d with fw := { d.fw with meas := #v[[1, 2], [3]] } }
    (after (exec .spdmGetMeasurements s)).dev.hostRead = [1, 2] := by decide +kernel
/-! ### The Sylvote form of dot_f32 (the worked example of R321) -/

/-- A record of n bytes: type, number and body. -/
def sylRec (t k n : Nat) (body : Nat) : Bytes := toLe 2 t ++ toLe 2 k ++ toLe 4 n ++ toLe (n - 8) body

def dotForm : Bytes :=
  toLe 16 (1 + at_ 4 12)
    ++ sylRec 1 0 24 1
    ++ sylRec 2 0 40 (at_ 0 1 + at_ 1 1 + at_ 8 8 + at_ 20 1) ++ sylRec 2 1 40 (at_ 0 1 + at_ 1 1 + at_ 8 16 + at_ 20 1)
    ++ sylRec 2 2 40 (at_ 0 1 + at_ 1 1 + at_ 8 24 + at_ 24 1)
    ++ sylRec 3 0 48 (1 + at_ 1 2 + at_ 8 1 + at_ 12 1 + at_ 24 1 + at_ 28 0xFFFFFFFF + at_ 32 1 + at_ 36 0xFFFFFFFF)
    ++ sylRec 4 0 32 (at_ 5 1 + at_ 8 1) ++ sylRec 4 1 32 (at_ 0 1 + at_ 5 1 + at_ 8 1) ++ sylRec 4 2 32 (at_ 0 2 + at_ 4 2 + at_ 5 1)
    ++ sylRec 5 0 24 (at_ 2 1 + at_ 4 2 + at_ 8 1 + at_ 10 0xFFFF)
    ++ sylRec 6 0 24 (at_ 1 1 + at_ 8 1) ++ sylRec 6 1 40 (1 + at_ 1 1 + at_ 2 1 + at_ 8 2 + at_ 16 1) ++ sylRec 6 2 16 4

def dotRecs : List SylRec := (sylRecords 12 (dotForm.drop 16)).getD []

/-- Parameters n = 2, x at 0x100, y at 0x200 and the result at 0x300; x is 2, 3 and y is 3, 5 in FP32. -/
def dotMem : Mem :=
  ((Mem.write [] 0 (toLe 32 (at_ 0 2 + at_ 8 0x100 + at_ 16 0x200 + at_ 24 0x300))).write 0x100 (toLe 8 (at_ 0 0x40000000 + at_ 4 0x40400000))).write 0x200
    (toLe 8 (at_ 0 0x40400000 + at_ 4 0x40A00000))

theorem test_dot_form : sylvoteOk false dotForm = true ∧ sylvoteOk true dotForm = false ∧ paramValues dotRecs dotMem 0 = [2] := by decide +kernel

theorem test_dot_order :
    let i (k : Int) : Inst := { stmt := 0, point := [k] }
    isInst dotRecs [2] (i 1) = true ∧ isInst dotRecs [2] (i 2) = false ∧ runsBefore dotRecs [2] (i 0) (i 1) = true ∧ runsBefore dotRecs [2] (i 1) (i 0) = false
      ∧ ordered dotRecs [2] (i 0) (i 1) = false := by decide +kernel

/-- 2 times 3 and 3 times 5 make 21. -/
theorem test_dot_runs :
    (runInsts 0 dotRecs 0 dotMem [{ stmt := 0, point := [0] }, { stmt := 0, point := [1] }]).map (fun m => m.num 0x300 4) = some 0x41A80000 := by decide +kernel


end Sys2Proof.Tests
end

section
/-! What a fetch finds where nothing is in its way, one lemma per kind of fetch (R32, R84, R164, R284, R353). -/

namespace Sys2Proof.Proofs
open Machine Claim

theorem step_of_fetch {s t : State} {i : Instr} (h : fetch s = .run i t) : step s = exec i t := by
  simp only [step, h]

theorem fetch_inBundle {s : State} {iss : Issue} (hp : s.dev.fleet.off = false) (hi : s.issue = some iss) : fetch s = fetchSlot iss s := by
  simp [fetch, hp, hi]

theorem fetch_betweenBundles {s : State} {p : Pick} {l : List Pick} (hp : s.dev.fleet.off = false) (hi : s.issue = none)
    (ha : s.agenda = p :: l) : fetch s = fetchPick p { s with agenda := l } := by
  simp [fetch, hp, hi, nextPick, ha]

theorem fetchSlot_word {s : State} {iss : Issue} {i w : Nat} {l : List (Nat × Nat)} {ins : Instr} (hr : iss.rest = (i, w) :: l)
    (hw : decodeCore w = .ok ins) : fetchSlot iss s = .run ins s := by
  simp only [fetchSlot, hr, hw]

/-- A record's turn comes only from its stream (log 79); every other named step runs with its turn. -/
theorem fetchPick_ev {s : State} {i : Instr} {u : Turn} (hu : ∀ a b r, u ≠ .record a b r) : fetchPick (.ev i u) s = .run i { s with turn := u } := by
  cases u with
  | record a b r => exact absurd rfl (hu a b r)
  | _ => rfl

theorem fetchNear_word {s : State} {u w : Nat} {ins : Instr} (hrun : (s.dev.unit u).run = .running) (hstart : (s.dev.unit u).start = none)
    (hcode : (s.dev.unit u).code[(s.dev.unit u).pc]? = some w) (hw : decodeNear w = some ins) :
    fetchNear u s = .run ins { s with turn := .agent u 0, dev := s.dev.modUnit u fun y => { y with iw := w } } := by
  simp [fetchNear, hrun, hstart, hcode, hw]

/-- A micro-word of the share that is not poisoned is taken (R169, R184, R243). -/
theorem microBlocked_eq_none {d : Dev} {q : Nat} {c : Call} (hrun : (d.seq q).mx.running = some c) (htrap : (d.seq q).trap = none)
    (hshare : c.upc < (d.seq q).microWords) (hclean : c.upc ∉ (d.seq q).mx.poisoned) : microBlocked q d = none := by
  simp [microBlocked, hrun, unitsRun, htrap, Nat.not_le.mpr hshare, hclean]

theorem fetchMicro_word {s : State} {q : Nat} {c : Call} {ins : Instr} (hrun : (s.dev.seq q).mx.running = some c)
    (htrap : (s.dev.seq q).trap = none) (hfree : microBlocked q s.dev = none)
    (hw : decodeMicro ((s.dev.seq q).mx.store.find c.upc 0).toNat = some ins) : fetchMicro q s = .run ins { s with turn := .agent q 0 } := by
  simp only [fetchMicro, hrun, unitsRun, htrap, hfree, hw]
  rfl

/-- The header word of the record at a stream's RIX (R354). -/
def headerAt (d : Dev) (ten m : Nat) : Nat := gget d (streamByte d ten m (d.stream ten m).rix) 8

/-- LEN of a header (R354). -/
def headerLen (h : Nat) : Nat := h / 2 ^ 8 % 2 ^ 8

/-- The record of len blocks at a stream's RIX (R353). -/
def recordAt (d : Dev) (ten m len : Nat) : Rec :=
  { words := (List.range (8 * len)).map fun k => BitVec.ofNat 64 (gget d (streamByte d ten m ((d.stream ten m).rix + 8 * k)) 8) }

/-- An exposed record whose header keeps the rules runs as its record's step (R353, R354, R356). -/
theorem fetchRecord_exposed {s : State} {ten m : Nat} {ins : Instr} (hlead : leaderTurn s.dev) (hon : streamOn s.dev ten m = true)
    (hstate : (s.dev.stream ten m).state = 1) (hdue : statusDue s.dev ten = false)
    (hblock : (s.dev.stream ten m).rix + 64 ≤ (s.dev.stream ten m).wix) (halign : (s.dev.stream ten m).rix % 64 = 0)
    (htype : typeOk ten (headerAt s.dev ten m % 2 ^ 8) = true)
    (hlen : lenOk (headerAt s.dev ten m % 2 ^ 8) (headerLen (headerAt s.dev ten m)) = true)
    (hring : (s.dev.stream ten m).rix % 2 ^ (s.dev.stream ten m).size + 64 * headerLen (headerAt s.dev ten m) ≤ 2 ^ (s.dev.stream ten m).size)
    (hzero : headerAt s.dev ten m / 2 ^ 16 % 2 ^ 16 = 0)
    (hwhole : (s.dev.stream ten m).rix + 64 * headerLen (headerAt s.dev ten m) ≤ (s.dev.stream ten m).wix)
    (hstep : recordStep (headerAt s.dev ten m % 2 ^ 8) (field (recordAt s.dev ten m (headerLen (headerAt s.dev ten m))) 8 1) = some ins) :
    fetchRecord ten m s = .run ins { s with turn := .record ten m (recordAt s.dev ten m (headerLen (headerAt s.dev ten m))) } := by
  obtain ⟨hgaffer, hfree⟩ := hlead
  simp only [headerAt, headerLen, recordAt, field] at htype hlen hring hzero hwhole hstep ⊢
  simp only [fetchRecord, bits, pow_zero, Nat.div_one, gafferRuns, hgaffer, hfree, hon, hstate, hdue, htype, hlen, hzero, halign,
    Nat.not_lt.mpr hblock, Nat.not_lt.mpr hring, Nat.not_lt.mpr hwhole, hstep]
  simp

/-- Settles O1: with power, a step is `exec` of what its fetch finds. -/
theorem stepRunsTheDecodedInstruction : Obligations.StepRunsTheDecodedInstruction := by
  unfold Obligations.StepRunsTheDecodedInstruction
  intro s hp
  refine ⟨fun iss i w l ins hi hr hw => step_of_fetch ((fetch_inBundle hp hi).trans (fetchSlot_word hr hw)), fun p l hi ha => ?_⟩
  have hfetch := fetch_betweenBundles hp hi ha
  refine ⟨?named, ?unit, ?matrix, ?record⟩
  case named =>
    rintro i u rfl hu
    exact step_of_fetch (hfetch.trans (fetchPick_ev hu))
  case unit =>
    rintro u w ins rfl hrun hstart hcode hw
    exact step_of_fetch (hfetch.trans (fetchNear_word hrun hstart hcode hw))
  case matrix =>
    rintro q c ins rfl hrun htrap hshare hclean hw
    exact step_of_fetch (hfetch.trans (fetchMicro_word hrun htrap (microBlocked_eq_none hrun htrap hshare hclean) hw))
  case record =>
    rintro ten m ins rfl hlead hon hstate hdue x h len r hblock halign htype hlen hring hzero hwhole hstep
    exact step_of_fetch (hfetch.trans (fetchRecord_exposed hlead hon hstate hdue hblock halign htype hlen hring hzero hwhole hstep))

end Sys2Proof.Proofs
end

section
/-! A step of the device, of the Gaffer or of its leader that can happen leaves what it answers (R348, R395, R403). -/

namespace Sys2Proof.Proofs
open Machine Claim

variable {s : State} {f : Turn → Dev → Option Dev} {e : Dev}

theorem runEvent_became (h : f s.turn s.dev = some e) : runEvent s f = became s e := by
  simp only [runEvent, h, Option.getD_some, became]

theorem runGaffer_became (hg : s.dev.fw.gstat = 1) (h : f s.turn s.dev = some e) : runGaffer s f = became s e :=
  runEvent_became (by simp [gafferRuns, hg, h])

theorem runLeader_became (hl : leaderTurn s.dev) (h : f s.turn s.dev = some e) : runLeader s f = became s e :=
  runGaffer_became hl.1 (by simp [hl.2, h])

end Sys2Proof.Proofs
end

section
/-! What a tick leaves of a tenant (R363, R365). -/

namespace Sys2Proof.Proofs
open Machine Claim

theorem tenant_modTenant_ne (d : Dev) {t n : Nat} (h : n ≠ t) (f : Tenant → Tenant) : (d.modTenant t f).tenant n = d.tenant n := by
  simp [Dev.tenant, Dev.modTenant, vget_vset, h]

/-- Updates of different tenants, none of which reads another: each tenant is updated once. -/
theorem tenant_foldl_modTenant (g : Dev → Nat → Tenant → Tenant) (hg : ∀ d t k f, g (d.modTenant k f) t = g d t) {l : List Nat}
    (hl : l.Nodup) (h17 : ∀ t ∈ l, t < 17) (d : Dev) (n : Nat) :
    (l.foldl (fun d t => d.modTenant t (g d t)) d).tenant n = if n ∈ l then g d n (d.tenant n) else d.tenant n := by
  induction l generalizing d with
  | nil => simp
  | cons t l ih =>
    obtain ⟨ht, hl⟩ := List.nodup_cons.mp hl
    rw [List.foldl_cons, ih hl fun k hk => h17 k (List.mem_cons_of_mem t hk), hg]
    by_cases hn : n = t
    · subst hn
      simp [ht, Dev.tenant_modTenant d (h17 n List.mem_cons_self)]
    · simp [hn, tenant_modTenant_ne d hn]

/-- A tenant x at a tick of the device d, whose columns e holds (R365). -/
def ticked (d e : Dev) (t : Nat) (x : Tenant) : Tenant :=
  if (busyTenants d).contains t then
    { x with deficit := max (-(2 ^ 40)) (min (2 ^ 40) (x.deficit
        + (10240 * x.wgt / ((busyTenants d).map fun b => (d.tenant b).wgt).sum : Nat) - 10 * (columnsHeld e t : Nat))) }
  else { x with deficit := 0 }

theorem deficits_eq (d : Dev) : deficits d = (List.range 16).foldl (fun e t => e.modTenant t (ticked d e t)) d := rfl

theorem ticked_eq (d : Dev) (n : Nat) : ticked d d n (d.tenant n) = { d.tenant n with deficit := deficitAfter d n } := by
  by_cases hb : n ∈ busyTenants d <;> simp [ticked, deficitAfter, hb]

/-- A tick gives each tenant its deficit of R365 and leaves the rest of it. -/
theorem deficits_tenant (d : Dev) {n : Nat} (hn : n < 16) : (deficits d).tenant n = { d.tenant n with deficit := deficitAfter d n } := by
  rw [deficits_eq, tenant_foldl_modTenant (ticked d) (fun _ _ _ _ => rfl) List.nodup_range
    (fun t ht => Nat.lt_succ_of_lt (List.mem_range.mp ht)), if_pos (List.mem_range.mpr hn), ticked_eq]

theorem tick10us_became {s : State} (hg : s.dev.fw.gstat = 1) :
    exec .tick10us s = became s (pass (deficits ((List.range 16).foldl (fun f n => flushEvents n 256 f)
      (s.dev.replays.foldl (fun f e => tryReplay e.1 f) (killRefused s.dev))))) := by
  show execTick10us s = _
  refine runGaffer_became hg ?_
  rfl

end Sys2Proof.Proofs
end

section
/-! What each step in the life of a launch leaves where it can happen (R13, R93, R363, R366, R387, R388). -/

namespace Sys2Proof.Proofs
open Machine Claim

variable {s : State} {l k : Nat} {x : Launch}

/-- A launch whose gang is released, at the time that is read (R13). -/
def gangReleased (l : Nat) (x : Launch) (d : Dev) : Dev :=
  (releaseGang x (now d).2).modLaunch l fun x => { x with st := .running, tstart := (now d).1 }

theorem gangStart_single (ht : s.turn = .agent l k) (hlead : leaderTurn s.dev) (hx : s.dev.launch? l = some x) (hst : x.st = .placed)
    (hsaved : x.saved = false) (hnode : x.node = none) (he : earlierStarted s.dev x.ten x.strm x.seq = true) :
    exec .gangStart s = became s (gangReleased l x s.dev) := by
  show execGangStart s = _
  refine runLeader_became hlead ?_
  simp [ht, hx, hst, hsaved, hnode, he, gangReleased]

/-- The node of a replay does not wait for earlier items: its replay has (R355, R361). -/
theorem gangStart_node {n j : Nat} (ht : s.turn = .agent l k) (hlead : leaderTurn s.dev) (hx : s.dev.launch? l = some x)
    (hst : x.st = .placed) (hsaved : x.saved = false) (hnode : x.node = some (n, j)) :
    exec .gangStart s = became s (replayBegins (now s.dev).1 n (gangReleased l x s.dev)) := by
  show execGangStart s = _
  refine runLeader_became hlead ?_
  simp [ht, hx, hst, hsaved, hnode, gangReleased]

theorem replayBegins_eq {d : Dev} {t n : Nat} {r : Replay} (hr : d.replays.find? n = some r) :
    replayBegins t n d = if r.tstart = 0 ∧ replayStarted d r = true then { d with replays := d.replays.put n { r with tstart := t } } else d := by
  simp [replayBegins, hr]

/-- Reading the time makes nothing a candidate. -/
theorem isCandidate_now (d : Dev) (x : Launch) : isCandidate (now d).2 x = isCandidate d x := rfl

theorem candidateBlockTimeout_became (ht : s.turn = .agent l k) (hg : s.dev.fw.gstat = 1) (hx : s.dev.launch? l = some x)
    (hc : isCandidate s.dev x = true) (hage : x.age + 10000000 ≤ (now s.dev).1) :
    exec .candidateBlockTimeout s = became s (pass ((now s.dev).2.modLaunch l fun x => { x with blocks := true })) := by
  show execCandidateBlockTimeout s = _
  refine runGaffer_became hg ?_
  simp [ht, hx, isCandidate_now, hc, Nat.not_lt.mpr hage]

/-- The device once a halting sequencer's order has gone on and its starved streams have ended (R93, R122). -/
def drainedOf (l : Nat) (d : Dev) : Dev := endStarved l (advance l (ordFuel (d.seq l).ord) d)

theorem sequencerEndReport_became (ht : s.turn = .agent l k) (hrun : (s.dev.seq l).run = .halting) (hq : quiet ((drainedOf l s.dev).seq l) = true) :
    exec .sequencerEndReport s = became s (((drainedOf l s.dev).modLaunch ((drainedOf l s.dev).seq l).place.launch fun y =>
        { y with qimb := y.qimb + (imbalances ((drainedOf l s.dev).seq l)).1, ovrd := y.ovrd + (imbalances ((drainedOf l s.dev).seq l)).2 }).modSeq l
      fun y => { y with run := .done, cols := .replicate 4 {}, bead := beadReset y.bead, reqs := [], halted := false }) := by
  unfold drainedOf at hq ⊢
  show execSequencerEndReport s = _
  refine runEvent_became ?_
  simp [ht, hrun, hq]

/-- The device once the sequencers of a launch's cluster have left it, and its counter bank is free (R366). -/
def clusterFreed (l : Nat) (c : LCl) (d : Dev) : Dev :=
  let e := c.seqs.foldl (leaveColumns l) d
  if c.ctr then e.modCluster c.phys fun y => { y with grant := none } else e

theorem clusterNodeZero_became {c : LCl} (ht : s.turn = .agent l k) (hx : s.dev.launch? l = some x) (hc : x.clusters[k]? = some c)
    (hreported : c.reported = false) (haway : c.away = false) (hzero : clusterNode s.dev l c = 0) :
    exec .clusterNodeZero s = became s (endHeld l ((clusterFreed l c s.dev).modLaunch l fun x =>
      { x with undr := x.undr + (countedLeft (c.seqs.flatMap fun q => (s.dev.seq q).lines) + countedLeft c.blocks),
               clusters := x.clusters.set k { c with reported := true, maps := .replicate 8 none, full := [], blocks := [] } })) := by
  show execClusterNodeZero s = _
  refine runEvent_became ?_
  simp [ht, hx, hc, hreported, haway, hzero, endHeld, clusterFreed]

theorem launchEnd_became {f : Dev} (ht : s.turn = .agent l k) (hg : s.dev.fw.gstat = 1) (hx : s.dev.launch? l = some x)
    (hwaiting : x.st ≠ .waiting) (hplaced : x.st ≠ .placed) (hzero : deviceNode x = 0) (hposts : x.posts = [])
    (hwrites : writesOver l s.dev = true) (hmay : mayComplete s.dev (launchAgent l) = true) (hf : endLaunch l s.dev = some f) :
    exec .launchEnd s = became s (pass (completed (launchAgent l) f)) := by
  show execLaunchEnd s = _
  refine runGaffer_became hg ?_
  simp [ht, hx, hwaiting, hplaced, hzero, hposts, hwrites, hmay, hf]

theorem writesOver_iff (l : Nat) (d : Dev) : writesOver l d = true ↔ ∀ w ∈ d.peerOut, w.agent ≠ launchAgent l := by
  simp [writesOver]

/-- A free draw changes no translation. -/
theorem translate_draw (d : Dev) (die ten va : Nat) : translate d.draw.2 die ten va = translate d die ten va := rfl

/-- A launch all of whose mapped pages are at home or not yet known is saved, unless its state cannot be read (R387, R388, log 4). -/
theorem contextSave_became (ht : s.turn = .agent l k) (hg : s.dev.fw.gstat = 1) (hx : s.dev.launch? l = some x) (hst : x.st = .saving)
    (hseqs : ∀ q ∈ seqsOf x, atRest (s.dev.seq q) = true) (hunits : ∀ u ∈ x.units, (s.dev.unit u).run = .saved)
    (hengines : ∀ c ∈ x.clusters, c.reported = true ∨ commandsOf s.dev c.phys l = 0)
    (hrecs : ∀ r ∈ x.recs, ∀ p ∈ s.dev.placed, overlap (contextLoc s.dev x.ten + r.1) r.2 p.range.2.1 p.range.2.2 = false)
    (hpages : ∀ p ∈ mapPages x, translate s.dev p.1 x.ten p.2 ≠ .refused ∧ ∀ f r w, translate s.dev p.1 x.ten p.2 ≠ .absent f r w) :
    exec .contextSave s = became s (if s.dev.draw.1 % 4 = 1 then contextFailed l s.dev.draw.2 else pass (saveLaunch l x s.dev.draw.2.draw.2)) := by
  show execContextSave s = _
  refine runGaffer_became hg ?_
  simp only [ht, hx]
  rw [if_neg]
  case hnc =>
    simp only [hst, Bool.not_eq_true', Bool.not_eq_false, Bool.and_eq_true, List.all_eq_true, Bool.or_eq_true, decide_eq_true_eq]
    exact ⟨⟨⟨⟨trivial, hseqs⟩, hunits⟩, hengines⟩, hrecs⟩
  by_cases hread : s.dev.draw.1 % 4 = 1
  · simp only [hread, if_true]
  · rw [if_neg hread, if_neg hread, if_neg]
    rw [List.filter_eq_nil_iff.mpr]
    · simp
    · intro p hp
      obtain ⟨hrefused, habsent⟩ := hpages p hp
      simp only [translate_draw]
      cases hway : translate s.dev p.1 x.ten p.2 with
      | refused => exact absurd hway hrefused
      | absent f r w => exact absurd hway (habsent f r w)
      | _ => simp

/-- The launch on its new columns: counters, sequencers and units as they were saved (R31, R388). -/
def restored (l : Nat) (x : Launch) (d : Dev) : Dev :=
  let e := (x.clusters.filter fun c => !c.reported).foldl (fun f c => match c.savedCtr with
    | some v => f.modCluster c.phys fun y => { y with counters := v }
    | none => f) d
  let f := x.units.foldl (fun f u => f.modUnit u fun y => if y.run = .parked then { y with run := .running } else y) ((seqsOf x).foldl (restoreSeq x) e)
  f.modLaunch l fun x => { x with st := .running, saved := false, ctx := [], nctx := [] }

theorem contextResume_became (ht : s.turn = .agent l k) (hg : s.dev.fw.gstat = 1) (hx : s.dev.launch? l = some x) (hst : x.st = .placed)
    (hsaved : x.saved = true) :
    exec .contextResume s = became s (if s.dev.draw.1 % 4 = 1 ∨ blocksSound s.dev.draw.2 x = false then contextFailed l s.dev.draw.2
      else restored l x s.dev.draw.2) := by
  show execContextResume s = _
  refine runGaffer_became hg ?_
  by_cases hfail : s.dev.draw.1 % 4 = 1 ∨ blocksSound s.dev.draw.2 x = false
  · simp [ht, hx, hst, hsaved, hfail]
  · simp [ht, hx, hst, hsaved, hfail, restored] <;> rfl

theorem promotionBatchComplete_became (ht : s.turn = .agent l k) (hg : s.dev.fw.gstat = 1) (hx : s.dev.launch? l = some x) (hplan : x.plan ≠ 0) :
    exec .promotionBatchComplete s =
      became s ((tput s.dev x.ten (x.plan + 32) 8 (x.gen + 1)).modLaunch l fun x => { x with gen := x.gen + 1 }) := by
  show execPromotionBatchComplete s = _
  refine runGaffer_became hg ?_
  simp [ht, hx, hplan]

end Sys2Proof.Proofs
end

section
/-! What the action of a trap that waits leaves, as the table names it (R369, R370). -/

namespace Sys2Proof.Proofs
open Machine Claim

variable {s : State} {a k : Nat} {w : Waiting}

/-- The device once the record of a waiting trap stands and its event is told, where FWD is set (R369). -/
def told (a kind : Nat) (w : Waiting) (d : Dev) : Dev :=
  if w.act.testBit 2 then launchEvent (missRecord a d) w.launch kind w.cause w.addr w.sqid else missRecord a d

theorem withAction_eq {d : Dev} {act kind : Nat} {f : Waiting → Dev → Dev} (hw : waitingTrap d a = some w) (hmay : mayComplete d a = true)
    (hact : w.act % 4 = act) : withAction a act kind f d = some (completed a (f w (told a kind w d))) := by
  simp [withAction, hw, hmay, hact, told, Waiting.fwd, bit_eq]

theorem actionKill_became (ht : s.turn = .agent a k) (hg : s.dev.fw.gstat = 1) (hw : waitingTrap s.dev a = some w)
    (hmay : mayComplete s.dev a = true) (hact : w.act % 4 = 0) :
    exec .actionKill s = became s (completed a (killLaunch w.launch 0x11 w.cause (told a 1 w s.dev))) := by
  show execActionKill s = _
  refine runGaffer_became hg ?_
  simp only [ht]
  exact withAction_eq hw hmay hact

theorem actionReplay_became (ht : s.turn = .agent a k) (hg : s.dev.fw.gstat = 1) (hw : waitingTrap s.dev a = some w)
    (hmay : mayComplete s.dev a = true) (hact : w.act % 4 = 1) :
    exec .actionReplay s = became s (completed a (replayAgent a w.launch w.cause w.count (told a 1 w s.dev))) := by
  show execActionReplay s = _
  refine runGaffer_became hg ?_
  simp only [ht]
  exact withAction_eq hw hmay hact

/-- A store-miss that is parked waits for the release of its launch (R370). -/
theorem actionPark_became (ht : s.turn = .agent a k) (hg : s.dev.fw.gstat = 1) (hw : waitingTrap s.dev a = some w)
    (hmay : mayComplete s.dev a = true) (hact : w.act % 4 = 2) :
    exec .actionPark s = became s (completed a (parkLaunch a w.launch
      (if a < 4096 then told a 2 w s.dev else (told a 2 w s.dev).modSeq (a - 4096) fun z => { z with missAct := 3 }))) := by
  show execActionPark s = _
  refine runGaffer_became hg ?_
  simp only [ht]
  exact withAction_eq hw hmay hact

/-- A launch parks with every sequencer and unit of it (R370). -/
theorem parkLaunch_eq {d : Dev} {l : Nat} {y : Launch} (hy : d.launch? l = some y) :
    let ask (r : List ReqKind) : List ReqKind := if r.contains .park then r else r ++ [.park]
    let e := (seqsOf y).foldl (fun f q => f.modSeq q fun z => if q = a then { z with run := .parked }
      else if z.run = .running || z.run = .trapped then { z with reqs := ask z.reqs } else z) d
    let f := y.units.foldl (fun f u => f.modUnit u fun z => if unitAgent u = a then { z with run := .parked }
      else if z.run = .running || z.run = .trapped then { z with reqs := ask z.reqs } else z) e
    parkLaunch a l d = pass (f.modLaunch l fun z => { z with st := .parked }) := by
  simp only [parkLaunch, hy]

end Sys2Proof.Proofs
end

section
/-! Hand-over between tiers: a request of the climbing unit, and what goes on where it was consumed (R332, R334). -/

namespace Sys2Proof.Proofs
open Machine Claim

variable {s : State} {l k : Nat} {x : Launch} {rq : HandReq} {o : Obj}

theorem handoverRequestPost_became {u : Nat} (ht : s.turn = .hand l rq) (hg : s.dev.fw.gstat = 1) (hx : s.dev.launch? l = some x)
    (hclimb : x.climb = some u) (ho : s.dev.objs.find? x.obj = some o) (hok : requestOk s.dev l x o u rq = true) :
    exec .handoverRequestPost s = became s ((s.dev.modUnit u fun y => { y with hand := some rq }).modLaunch l fun x =>
      { x with posts := x.posts ++ [rq], handSeq := rq.seq.toNat }) := by
  show execHandoverRequestPost s = _
  refine runGaffer_became hg ?_
  simp [ht, hx, hclimb, ho, hok]

/-- A request that keeps R332's rules: its unit climbs, its fields are in range, its parison and its tiles stand where it is bound. -/
theorem requestOk_of {d : Dev} {u : Nat} (hlaunch : (d.unit u).launch = l) (hpart : (d.unit u).part = 0) (hthere : (d.unit u).run ≠ .absent)
    (hgoes : (d.unit u).run ≠ .done) (htier : rq.dest.toNat < unitTier u) (hdest : rq.dest.toNat ≤ 1) (hpa : rq.pa.toNat % 64 = 0)
    (hcw : rq.cw.toNat % 16 = 0) (hseq : x.handSeq < rq.seq.toNat) (hgen : rq.rgen.toNat ≤ x.gen)
    (hparison : ∀ j < 260, ∃ loc r, translate d 0 x.ten (rq.pa.toNat + 64 * j) = .here loc r true ∧ pinnedHbm d l loc = true)
    (hrecord : (translate d 0 x.ten rq.cw.toNat).writes = true)
    (htiles : ∀ i < tget d x.ten (x.plan + 4) 4 - rq.rmin.toNat, ∀ a ∈ Config.tiles o.kid x.parm (rq.rmin.toNat + i),
      tileAt d l x.ten rq.dest.toNat a = true) : requestOk d l x o u rq = true := by
  have hhere : ∀ j < 260, (match translate d 0 x.ten (rq.pa.toNat + 64 * j) with | .here loc _ true => pinnedHbm d l loc | _ => false) = true := by
    intro j hj
    obtain ⟨loc, r, hway, hpin⟩ := hparison j hj
    rw [hway]
    exact hpin
  unfold requestOk
  simp only [Bool.and_eq_true, decide_eq_true_eq, List.all_eq_true, List.mem_range, List.mem_flatMap]
  refine ⟨⟨⟨⟨⟨⟨⟨⟨⟨⟨⟨⟨hlaunch, hpart⟩, hthere⟩, hgoes⟩, htier⟩, hdest⟩, hpa⟩, hcw⟩, hseq⟩, hgen⟩, hhere⟩, hrecord⟩, ?_⟩
  rintro a ⟨i, hi, ha⟩
  exact htiles i hi a ha

/-- The climbing unit of a launch has gone (R334). -/
def climberGone (d : Dev) (l : Nat) (x : Launch) : Prop :=
  ∃ u, x.climb = some u ∧ ((d.unit u).launch ≠ l ∨ (d.unit u).part ≠ 0 ∨ (d.unit u).run = .done ∨ (d.unit u).run = .absent)

theorem climberGone.unless {d : Dev} (h : climberGone d l x) :
    ∃ u, x.climb = some u ∧ ((d.unit u).launch = l → (d.unit u).part = 0 → (d.unit u).run ≠ .done → (d.unit u).run = .absent) := by
  obtain ⟨u, hu, hgone⟩ := h
  exact ⟨u, hu, by tauto⟩

/-- The tier that the parison of a request names for its part (R326). -/
def boundFor (d : Dev) (x : Launch) (rq : HandReq) : Nat := bits (tget d x.ten (rq.pa.toNat + 6) 2) 2 2

/-- The status of a consumed request in the completion record (R303, R334). -/
def handedStatus (d : Dev) (x : Launch) (rq : HandReq) : Nat := tget d x.ten (rq.cw.toNat + 8) 8

/-- The fresh standing request of a unit that takes a part which request rq has handed over (R332, R334). -/
def standsAfter (l : Nat) (x : Launch) (rq : HandReq) : HandReq := standing x.ten l (max x.handSeq rq.seq.toNat + 1) x.gen

/-- A board unit u has taken the part and runs (R334). -/
def resumedOnBoard (o : Obj) (l : Nat) (x : Launch) (u : Nat) (rq : HandReq) (d : Dev) : Dev :=
  ((takeUnit o l x u ((x.units.filter fun v => decide (v < 512)).length) 0 rq.pa.toNat x.plan (some (standsAfter l x rq)) d).modUnit u fun y =>
    { y with run := .running }).modLaunch l fun z =>
      { z with climb := some u, posts := [standsAfter l x rq], handSeq := max x.handSeq rq.seq.toNat, handStatus := z.handStatus ++ [handedStatus d x rq] }

/-- The top gang of a launch has its columns and the parison that it starts from (R334). -/
def topPlaced (o : Obj) (l : Nat) (x : Launch) (f : List (Nat × List Nat)) (rq : HandReq) (d : Dev) : Dev :=
  takeClusters l o f (d.modLaunch l fun z =>
    { z with hpa := rq.pa.toNat, climb := none, posts := [], handStatus := z.handStatus ++ [handedStatus d x rq] })

section resume
variable (ht : s.turn = .agent l k) (hg : s.dev.fw.gstat = 1) (hx : s.dev.launch? l = some x)
  (hrq : x.posts.reverse.find? (fun r => decide (r.seq.toNat ≤ tget s.dev x.ten r.cw.toNat 8)) = some rq)
  (ho : s.dev.objs.find? x.obj = some o) (hst : x.st = .running) (hgone : climberGone s.dev l x)
include ht hg hx hrq ho hst hgone

theorem handoverResume_board {u : Nat} {us : List Nat} (hdest : boundFor s.dev x rq = 1) (hfree : freeUnits s.dev 1 = u :: us) :
    exec .handoverResume s = became s (resumedOnBoard o l x u rq s.dev) := by
  obtain ⟨v, hclimb, hgone⟩ := hgone.unless
  show execHandoverResume s = _
  refine runGaffer_became hg ?_
  simp only [boundFor] at hdest
  simpa [ht, hx, hrq, ho, hst, hclimb, hdest, hfree, resumedOnBoard, standsAfter, handedStatus] using hgone

theorem handoverResume_top {f : List (Nat × List Nat)} {y : Launch} (hdest : boundFor s.dev x rq ≠ 1)
    (hfit : fit (dieCount s.dev) (roomOf s.dev []) (partition s.dev x.ten).1 (partition s.dev x.ten).2 o.maps = some f)
    (hy : (topPlaced o l x f rq s.dev).launch? l = some y) : exec .handoverResume s = became s (releaseGang y (topPlaced o l x f rq s.dev)) := by
  obtain ⟨v, hclimb, hgone⟩ := hgone.unless
  show execHandoverResume s = _
  refine runGaffer_became hg ?_
  simp only [boundFor] at hdest
  simp only [topPlaced, handedStatus] at hy
  simpa [ht, hx, hrq, ho, hst, hclimb, hdest, hfit, hy, topPlaced, handedStatus] using hgone

end resume

end Sys2Proof.Proofs
end

section
/-! The statement about the steps of launches. -/

namespace Sys2Proof.Proofs
open Machine Claim

/-- Settles O53: each step of a launch leaves what its lemma says, and nothing else. -/
theorem launchStepResults : Obligations.LaunchStepResults := by
  unfold Obligations.LaunchStepResults
  refine ⟨fun s l k ht hg => ⟨?gang, ?tick, ?block, ?halt, ?cluster, ?launchEnd, ?save, ?resume, ?action, ?promote⟩,
    fun s l x hg hx => ⟨?post, ?handover⟩⟩
  case gang =>
    intro x hx hst hsaved hfree
    exact ⟨fun hnode he => gangStart_single ht ⟨hg, hfree⟩ hx hst hsaved hnode he,
      fun n j r hnode hr => (gangStart_node ht ⟨hg, hfree⟩ hx hst hsaved hnode).trans (congrArg (became s) (replayBegins_eq hr))⟩
  case tick => exact ⟨tick10us_became hg, fun n hn => deficits_tenant _ hn⟩
  case block => exact fun x hx hc hage => candidateBlockTimeout_became ht hg hx hc hage
  case halt => exact fun hrun hq => sequencerEndReport_became ht hrun hq
  case cluster => exact fun x c hx hc hreported haway hzero => clusterNodeZero_became ht hx hc hreported haway hzero
  case launchEnd =>
    exact fun x f hx hwaiting hplaced hzero hposts hwrites hmay hf =>
      launchEnd_became ht hg hx hwaiting hplaced hzero hposts ((writesOver_iff l s.dev).mpr hwrites) hmay hf
  case save => exact fun x hx hst hseqs hunits hengines hrecs hpages => contextSave_became ht hg hx hst hseqs hunits hengines hrecs hpages
  case resume => exact fun x hx hst hsaved => contextResume_became ht hg hx hst hsaved
  case action =>
    intro w hw hmay
    exact ⟨actionKill_became ht hg hw hmay, actionReplay_became ht hg hw hmay,
      fun y hact hy => (actionPark_became ht hg hw hmay hact).trans (congrArg (fun d => became s (completed l d)) (parkLaunch_eq hy))⟩
  case promote => exact fun x hx hplan => promotionBatchComplete_became ht hg hx hplan
  case post =>
    intro rq u o ht hclimb ho hlaunch hpart hthere hgoes htier hdest hpa hcw hseq hgen hparison hrecord htiles
    exact handoverRequestPost_became ht hg hx hclimb ho
      (requestOk_of hlaunch hpart hthere hgoes htier hdest hpa hcw hseq hgen hparison hrecord htiles)
  case handover =>
    intro k rq o ht hrq ho hst hgone hclimb
    obtain ⟨v, hv⟩ := Option.ne_none_iff_exists'.mp hclimb
    have hgone : climberGone s.dev l x := ⟨v, hv, hgone v hv⟩
    exact ⟨fun u us hdest hfree => handoverResume_board ht hg hx hrq ho hst hgone hdest hfree,
      fun f y hdest hfit hy => handoverResume_top ht hg hx hrq ho hst hgone hdest hfit hy⟩

end Sys2Proof.Proofs
end

section
/-! FP32 operands by class, and what the one-lane functions make of each class (R39, R40, R143, R144). -/

namespace Sys2Proof.Proofs
open Machine Claim

/-! ### Classes of FP32 lanes (R38 to R40) -/

theorem fp32_decode_posZero : fp32.decode 0 = .fin false 0 (-149) := by decide
theorem fp32_decode_negZero : fp32.decode 0x80000000 = .fin true 0 (-149) := by decide
theorem fp32_decode_posInf : fp32.decode 0x7F800000 = .inf false := by decide
theorem fp32_decode_negInf : fp32.decode 0xFF800000 = .inf true := by decide

/-- The lane holds an FP32 NaN (R40). -/
def IsNan32 (a : Nat) : Prop := a / 2 ^ 23 % 2 ^ 8 = 255 ∧ a % 2 ^ 23 ≠ 0

/-- What a NaN operand gives: the canonical NaN, with NV when it is signalling (R40). -/
def nan32Res (a : Nat) : LaneRes := (0x7FC00000, if a / 2 ^ 22 % 2 = 1 then 0 else flagNV)

theorem fp32_decode_nan {a : Nat} (h : IsNan32 a) : fp32.decode a = .nan !bit a 22 := by
  obtain ⟨he, hm⟩ := h
  have hquiet : bit (a % 2 ^ 23) 22 = bit a 22 := by
    simp only [bit, decide_eq_decide]
    omega
  simp only [FloatFmt.decode, fp32, bits, pow_zero, Nat.div_one, he, hm, hquiet]
  rfl

theorem fp32_isNan_eq_false {a : Nat} (h : ¬ IsNan32 a) : (fp32.decode a).isNan = false := by
  unfold IsNan32 at h
  simp only [FloatFmt.decode, fp32, bits]
  split_ifs <;> simp_all [Machine.Num.isNan]

/-- A lane below zero is a finite number with its sign set, or minus infinity. -/
theorem fp32_decode_below {a : Nat} (hlo : 0x80000000 < a) (hhi : a < 0xFF800000) : ∃ m e, fp32.decode a = .fin true m e ∧ m ≠ 0 := by
  have hsign : bit a 31 = true := by simp only [bit, decide_eq_true_eq]; omega
  have hexp : bits a 23 8 ≠ 255 := by simp only [bits]; omega
  by_cases h0 : bits a 23 8 = 0
  · refine ⟨bits a 0 23, _, by simp [FloatFmt.decode, fp32, hsign, h0]; rfl, ?_⟩
    simp only [bits] at h0 ⊢
    omega
  · exact ⟨2 ^ 23 + bits a 0 23, _, by simp [FloatFmt.decode, fp32, hsign, hexp, h0]; rfl, by omega⟩

theorem invalid_eq_false {x : Machine.Num} (h : x.isNan = false) : x.invalid = false := by
  cases x with
  | nan i => exact absurd h (by simp [Machine.Num.isNan])
  | _ => rfl

theorem invalid_nan (i : Bool) : (Machine.Num.nan i).invalid = i := rfl

theorem flagIf_signalling (a : Nat) : flagIf (!bit a 22) flagNV = (nan32Res a).2 := by
  by_cases h : a / 2 ^ 22 % 2 = 1 <;> simp only [flagIf, bit, nan32Res, h, decide_true, decide_false, Bool.not_true, Bool.not_false,
    if_true, if_false, Bool.false_eq_true]

/-! ### The one-lane functions by class of their operand (R144) -/

section lanes
variable {rm : Nat} {sat s i : Bool} {a m : Nat} {e : Int}

theorem laneRcp_nan (h : fp32.decode a = .nan i) : laneRcp rm sat a = (fp32.nanBits, flagIf i flagNV) := by simp only [laneRcp, h]
theorem laneRcp_inf (h : fp32.decode a = .inf s) : laneRcp rm sat a = (fp32.signed s 0, 0) := by simp only [laneRcp, h]
theorem laneRcp_zero (h : fp32.decode a = .fin s 0 e) : laneRcp rm sat a = (fp32.signed s fp32.infBits, flagDZ) := by
  simp only [laneRcp, h, if_true]

theorem laneRsqrt_nan (h : fp32.decode a = .nan i) : laneRsqrt rm sat a = (fp32.nanBits, flagIf i flagNV) := by simp only [laneRsqrt, h]
theorem laneRsqrt_inf (h : fp32.decode a = .inf s) : laneRsqrt rm sat a = if s then (fp32.nanBits, flagNV) else (0, 0) := by
  simp only [laneRsqrt, h]
theorem laneRsqrt_zero (h : fp32.decode a = .fin s 0 e) : laneRsqrt rm sat a = (fp32.signed s fp32.infBits, flagDZ) := by
  simp only [laneRsqrt, h, if_true]
theorem laneRsqrt_below (h : fp32.decode a = .fin true m e) (hm : m ≠ 0) : laneRsqrt rm sat a = (fp32.nanBits, flagNV) := by
  simp only [laneRsqrt, h, hm, if_false, if_true]

theorem laneLog2_nan (h : fp32.decode a = .nan i) : laneLog2 rm a = (fp32.nanBits, flagIf i flagNV) := by simp only [laneLog2, h]
theorem laneLog2_inf (h : fp32.decode a = .inf s) : laneLog2 rm a = if s then (fp32.nanBits, flagNV) else (fp32.infBits, 0) := by
  simp only [laneLog2, h]
theorem laneLog2_zero (h : fp32.decode a = .fin s 0 e) : laneLog2 rm a = (fp32.signed true fp32.infBits, flagDZ) := by
  simp only [laneLog2, h, if_true]
theorem laneLog2_below (h : fp32.decode a = .fin true m e) (hm : m ≠ 0) : laneLog2 rm a = (fp32.nanBits, flagNV) := by
  simp only [laneLog2, h, hm, if_false, if_true]

theorem laneExp2_nan (h : fp32.decode a = .nan i) : laneExp2 rm sat a = (fp32.nanBits, flagIf i flagNV) := by simp only [laneExp2, h]
theorem laneExp2_inf (h : fp32.decode a = .inf s) : laneExp2 rm sat a = if s then (0, 0) else (fp32.infBits, 0) := by simp only [laneExp2, h]

/-- What has no rest is not rounded up, in any mode. -/
theorem roundsUp_exact (mode : Nat) (neg : Bool) (n : Nat) : roundsUp mode neg n 0 = false := by
  unfold roundsUp
  split <;> simp

/-- One is exact in every mode (R42). -/
theorem fp32_roundFin_one : fp32.roundFin rm sat false 1 0 false = (0x3F800000, 0) := by
  have hlen : bitLen 1 = 1 := by decide
  have hcut : cutAt 1 0 false (-23) = (2 ^ 23, 0) := by decide
  simp [FloatFmt.roundFin, FloatFmt.largest, FloatFmt.signed, fp32, hlen, hcut, roundsUp_exact, flagIf]

/-- 2^0 is exact (R59). -/
theorem laneExp2_zero (h : fp32.decode a = .fin s 0 e) : laneExp2 rm sat a = (0x3F800000, 0) := by
  simp only [laneExp2, h]
  rw [← fp32_roundFin_one (rm := rm) (sat := sat)]
  simp [exp2Fin, scaled]

end lanes

/-! ### Signs, minima and maxima (R143, R144) -/

section picks
variable {f : FloatFmt} {larger neg i : Bool} {a b : Nat}

theorem floatSign_nan (h : f.decode a = .nan i) : floatSign f neg a = (f.nanBits, flagIf i flagNV) := by
  simp [floatSign, h, Machine.Num.isNan, Machine.Num.invalid]

theorem floatSign_number (h : (f.decode a).isNan = false) :
    floatSign f neg a = (f.signed (neg && !bit a (f.ebits + f.mbits)) (bits a 0 (f.ebits + f.mbits)), 0) := by
  simp [floatSign, h]

theorem floatPick_nan_left (ha : f.decode a = .nan i) (hb : (f.decode b).isNan = false) :
    floatPick f larger a b = (f.nanBits, flagIf i flagNV) := by
  simp [floatPick, ha, Machine.Num.isNan, invalid_nan, invalid_eq_false hb]

theorem floatPick_nan_right (ha : f.decode a = .nan i) (hb : (f.decode b).isNan = false) :
    floatPick f larger b a = (f.nanBits, flagIf i flagNV) := by
  simp [floatPick, ha, Machine.Num.isNan, invalid_nan, invalid_eq_false hb]

/-- Of two zeros the negative one is the smaller. -/
theorem floatPick_zeros {s t : Bool} {e g : Int} (ha : f.decode a = .fin s 0 e) (hb : f.decode b = .fin t 0 g) :
    floatPick f larger a b = (if s == larger then b else a, 0) := by
  have hcmp : Machine.Num.cmp (.fin s 0 e) (.fin t 0 g) = .eq := by
    simp [Machine.Num.cmp, scaled, compare, compareOfLessAndEq]
  simp [floatPick, ha, hb, hcmp, Machine.Num.isNan, Machine.Num.isNeg]

theorem fp32_unsigned_bits : fp32.signed false (bits a 0 31) = a % 2 ^ 31 := by simp only [FloatFmt.signed, bits, pow_zero, Nat.div_one]; rfl

theorem fp32_signed_bits : fp32.signed (!bit a 31) (bits a 0 31) = (a + 2 ^ 31) % 2 ^ 32 := by
  have hsigned : fp32.signed (!bit a 31) (bits a 0 31) = if a / 2 ^ 31 % 2 = 1 then a % 2 ^ 31 else a % 2 ^ 31 + 2 ^ 31 := by
    simp only [FloatFmt.signed, fp32, bits, pow_zero, Nat.div_one, bit, Bool.not_eq_true', decide_eq_false_iff_not, ite_not]
  rw [hsigned]
  split <;> omega

end picks

/-- Every one-lane function takes a NaN to the canonical NaN (R40). -/
theorem lanes_nan {rm : Nat} {sat : Bool} {a : Nat} (h : IsNan32 a) :
    laneRcp rm sat a = nan32Res a ∧ laneRsqrt rm sat a = nan32Res a ∧ laneExp2 rm sat a = nan32Res a ∧ laneLog2 rm a = nan32Res a := by
  have hd := fp32_decode_nan h
  have hr : ((fp32.nanBits, flagIf (!bit a 22) flagNV) : LaneRes) = nan32Res a := by rw [flagIf_signalling]; rfl
  exact ⟨(laneRcp_nan hd).trans hr, (laneRsqrt_nan hd).trans hr, (laneExp2_nan hd).trans hr, (laneLog2_nan hd).trans hr⟩

theorem picks_nan {a : Nat} (h : IsNan32 a) :
    (∀ neg, floatSign fp32 neg a = nan32Res a) ∧ ∀ larger b, ¬ IsNan32 b → floatPick fp32 larger a b = nan32Res a ∧ floatPick fp32 larger b a = nan32Res a := by
  have hd := fp32_decode_nan h
  have hr : ((fp32.nanBits, flagIf (!bit a 22) flagNV) : LaneRes) = nan32Res a := by rw [flagIf_signalling]; rfl
  exact ⟨fun neg => (floatSign_nan hd).trans hr, fun larger b hb =>
    ⟨(floatPick_nan_left hd (fp32_isNan_eq_false hb)).trans hr, (floatPick_nan_right hd (fp32_isNan_eq_false hb)).trans hr⟩⟩

/-- Settles O32: each class of operand by its decoded number. -/
theorem floatSpecialValues : Obligations.FloatSpecialValues := by
  unfold Obligations.FloatSpecialValues
  intro rm sat
  refine ⟨laneRcp_zero fp32_decode_posZero, laneRcp_zero fp32_decode_negZero, laneRcp_inf fp32_decode_posInf, laneRcp_inf fp32_decode_negInf,
    laneRsqrt_zero fp32_decode_posZero, laneRsqrt_zero fp32_decode_negZero, laneRsqrt_inf fp32_decode_posInf,
    laneExp2_inf fp32_decode_negInf, laneExp2_inf fp32_decode_posInf, laneExp2_zero fp32_decode_posZero, laneExp2_zero fp32_decode_negZero,
    laneLog2_zero fp32_decode_posZero, laneLog2_zero fp32_decode_negZero, laneLog2_inf fp32_decode_posInf,
    ?below, ⟨?nan, ?sign⟩,
    floatPick_zeros fp32_decode_posZero fp32_decode_negZero, floatPick_zeros fp32_decode_negZero fp32_decode_posZero,
    floatPick_zeros fp32_decode_posZero fp32_decode_negZero, floatPick_zeros fp32_decode_negZero fp32_decode_posZero⟩
  case below =>
    intro a hlo hhi
    obtain hlt | rfl := Nat.lt_or_eq_of_le hhi
    · obtain ⟨m, e, hd, hm⟩ := fp32_decode_below hlo hlt
      exact ⟨laneRsqrt_below hd hm, laneLog2_below hd hm⟩
    · exact ⟨laneRsqrt_inf fp32_decode_negInf, laneLog2_inf fp32_decode_negInf⟩
  case nan =>
    intro a _ hnan
    obtain ⟨hrcp, hrsqrt, hexp2, hlog2⟩ := lanes_nan (rm := rm) (sat := sat) hnan
    obtain ⟨hsign, hpick⟩ := picks_nan hnan
    exact ⟨hrcp, hrsqrt, hexp2, hlog2, hsign, fun larger b _ hb => hpick larger b hb⟩
  case sign =>
    intro a _ hnan
    have hd := fp32_isNan_eq_false hnan
    exact ⟨(floatSign_number hd).trans (congrArg (·, 0) fp32_unsigned_bits), (floatSign_number hd).trans (congrArg (·, 0) fp32_signed_bits)⟩

end Sys2Proof.Proofs
end

section
/-! A micro-word at the turn of its running call: what an mmac leaves, and how a reserved word ends the call (R168, R184). -/

namespace Sys2Proof.Proofs
open Machine Claim

variable {s : State} {q : Nat} {c : Call}

theorem unitsRun_of_callTurn (ht : callTurn s q c) : unitsRun s.dev q = true := by
  obtain ⟨_, _, htrap⟩ := ht
  simp [unitsRun, htrap]

/-- A micro-operation that can go on leaves what it answers (R166). -/
theorem runMicro_callTurn {f : Nat → Nat → Call → Dev → Option Dev} {e : Dev} (ht : callTurn s q c)
    (hf : f q ((s.dev.seq q).mx.store.find c.upc 0).toNat c s.dev = some e) : runMicro s f = became s e := by
  have hrun := unitsRun_of_callTurn ht
  obtain ⟨⟨i, hturn⟩, hcall, _⟩ := ht
  simp only [runMicro, hturn, hcall]
  exact runEvent_became (by simpa [hrun] using hf)

/-- A changed sequencer whose running call then goes on. -/
theorem became_setCall (s : State) (q : Nat) (f : Seq → Seq) (c : Call) :
    became s (setCall q c (s.dev.setSeq q (f (s.dev.seq q)))) = .next (microLeft s q f c) := by
  simp [became, setCall, microLeft, Dev.modSeq]

/-- The scale fields of an operand that R168 accepts are not refused. -/
theorem zqFields_ok {f kx wp k : Nat} (h : if f = 11 then wp % 32 = 0 ∧ kx + (k - 1) / 32 ≤ 7 else kx = 0) :
    (if f = 11 then decide (wp % 32 ≠ 0) || decide (7 < kx + (k - 1) / 32) else decide (kx ≠ 0)) = false := by
  split at h <;> simp_all

/-- The fault that a reserved micro-word of a call leaves for the next bundle (R184). -/
def reservedFault (s : State) (q : Nat) (c : Call) : TrapInfo :=
  { cause := Cause.matrixFault.code, upc := c.upc, cont := [c.pc.ptr, c.upc, ((s.dev.seq q).mx.store.find c.upc 0).toNat] }

/-- A sequencer whose call is abandoned with a fault (R184). -/
def callAbandoned (t : TrapInfo) (x : Seq) : Seq := { x with mx := { x.mx with running := none, queue := [], fault := some t } }

theorem discardQueue_nil (q : Nat) (d : Dev) : discardQueue q [] d = some d := rfl

/-- A call without a barrier, behind which nothing waits, ends with nothing to tell (R184). -/
theorem callEnd_silent {d : Dev} (hbar : c.bar = 0) (hdef : (d.seq q).region.deferred = []) (hord : (d.seq q).ord = []) (code : Nat) :
    callEnd q c code d = some d := by
  simp [callEnd, hdef, hord, callArrive, hbar]

theorem reservedMicroWord_became (ht : callTurn s q c) (hbar : c.bar = 0) (hdef : (s.dev.seq q).region.deferred = [])
    (hord : (s.dev.seq q).ord = []) (hqueue : (s.dev.seq q).mx.queue = []) :
    exec .reservedMicroWord s = became s (s.dev.modSeq q (callAbandoned (reservedFault s q c))) := by
  have hrun := unitsRun_of_callTurn ht
  obtain ⟨⟨i, hturn⟩, hcall, _⟩ := ht
  show execReservedMicroWord s = _
  refine runEvent_became ?_
  simp only [hturn, hrun, if_true, callFault, hcall, callEnd_silent hbar hdef hord, Option.bind_some, hqueue, discardQueue_nil, Option.map_some]
  rfl

/-- Settles O43: an accepted mmac passes every check and goes on with its accumulation; a reserved word abandons the call. -/
theorem multiplyAccumulateResults : Obligations.MultiplyAccumulateResults := by
  unfold Obligations.MultiplyAccumulateResults
  intro s q c ht
  refine ⟨?mmac, fun hbar hdef hord hqueue => reservedMicroWord_became ht hbar hdef hord hqueue⟩
  case mmac =>
    intro fa fb asrc bsrc ka kb k wa wb m n af gw a b hpair hasrc hbsrc hza hzb hopen hsize hfree ha hb o products r psn ovf marked
    have hchange : (match c.acc with | some a => decide (a.fa ≠ fa) || decide (a.fb ≠ fb) | none => false) = false := by
      cases hacc : c.acc with
      | none => rfl
      | some o =>
        obtain ⟨hfa, hfb⟩ := hopen o hacc
        simp [hfa, hfb]
    refine Eq.trans ?_ (became_setCall s q marked _)
    show execMmac s = _
    refine runMicro_callTurn ht ?_
    refine (if_neg ?accepted).trans ((if_neg (Nat.not_le.mpr hfree)).trans ?result)
    case accepted =>
      have hzqA := zqFields_ok hza
      have hzqB := zqFields_ok hzb
      simp only [Bool.not_eq_true, Bool.or_eq_false_iff, decide_eq_false_iff_not]
      exact ⟨⟨⟨⟨⟨⟨(Bool.not_eq_false' ..).mpr hpair, hasrc⟩, hbsrc⟩, hzqA⟩, hzqB⟩, hchange⟩, Nat.not_lt.mpr hsize⟩
    case result =>
      split
      next a' b' ha' hb' =>
        obtain rfl : a = a' := Option.some.inj (ha.symm.trans ha')
        obtain rfl : b = b' := Option.some.inj (hb.symm.trans hb')
        simp only [Bool.and_eq_true, decide_eq_true_eq]
        rfl
      next hnone => exact absurd hb (hnone a b ha)

end Sys2Proof.Proofs
end

section
/-! What the shared operations of near-data instructions do, one rule each (R281 to R308): from the result of each part the result of
the instruction follows by rewriting. -/

namespace Sys2Proof.Proofs
open Machine Claim

/-! ### Running an instruction -/

section run
variable {α β : Type} {x y : NearCtx}

@[simp] theorem near_pure_app (a : α) (x : NearCtx) : (pure a : NearM α) x = .ok (a, x) := rfl
@[simp] theorem near_bind_app (m : NearM α) (f : α → NearM β) (x : NearCtx) : (m >>= f) x = (m x).bind fun p => f p.1 p.2 := rfl
@[simp] theorem near_map_app (f : α → β) (m : NearM α) (x : NearCtx) : (f <$> m) x = (m x).bind fun p => .ok (f p.1, p.2) := by
  show (m x >>= fun p => pure (f p.1, p.2)) = _
  rfl
@[simp] theorem near_ok_bind {ε : Type} (a : α) (f : α → Except ε β) : (Except.ok a : Except ε α).bind f = f a := rfl
@[simp] theorem near_error_bind {ε : Type} (e : ε) (f : α → Except ε β) : (Except.error e : Except ε α).bind f = .error e := rfl
@[simp] theorem near_get_app (x : NearCtx) : (get : NearM NearCtx) x = .ok (x, x) := rfl

/-- An instruction whose meaning leaves a context completes with it (R289, R306). -/
theorem runNear_ok {s : State} {u : Nat} {f : NearM Unit} (ht : nearTurn s u) (hf : f (nearCtx s u) = .ok ((), y)) (hu : y.u = u) :
    runNear f s = .next (ctxLeft s y) := by
  obtain ⟨⟨i, hturn⟩, hrun⟩ := ht
  simp only [nearCtx] at hf
  simp only [runNear, hturn, hrun, if_true, nearRun, hf, ctxLeft, nearAfter, hu]

/-- An instruction that only changes its unit goes on to the next word. -/
theorem runNear_unit {s : State} {u : Nat} {f : NearM Unit} {g : Near → Near} (ht : nearTurn s u)
    (hf : f (nearCtx s u) = .ok ((), withUnit (nearCtx s u) g)) : runNear f s = .next (unitLeft s u g) :=
  runNear_ok ht hf rfl

end run

/-! ### The unit and its registers (R282, R292) -/

section registers
variable {x : NearCtx}

@[simp] theorem withUnit_u (x : NearCtx) (f : Near → Near) : (withUnit x f).u = x.u := rfl
@[simp] theorem withUnit_unit (x : NearCtx) (f : Near → Near) : (withUnit x f).dev.unit x.u = f (x.dev.unit x.u) := by simp [withUnit]
@[simp] theorem withUnit_withUnit (x : NearCtx) (f g : Near → Near) : withUnit (withUnit x f) g = withUnit x fun z => g (f z) := by
  simp [withUnit]

@[simp] theorem nearCtx_unit (s : State) (u : Nat) : (nearCtx s u).dev.unit (nearCtx s u).u = s.dev.unit u := rfl

/-- Two changes that agree on the unit as it stands leave the same. -/
theorem withUnit_congr {f g : Near → Near} (h : f (x.dev.unit x.u) = g (x.dev.unit x.u)) : withUnit x f = withUnit x g := by
  simp only [withUnit, Dev.modUnit, h]

@[simp] theorem near_me_app (x : NearCtx) : NearOp.me x = .ok (x.dev.unit x.u, x) := rfl
@[simp] theorem near_modMe_app (f : Near → Near) (x : NearCtx) : NearOp.modMe f x = .ok ((), withUnit x f) := rfl
@[simp] theorem near_mask_app (r : BitVec 3) (x : NearCtx) : NearOp.mask r x = .ok (maskOf (x.dev.unit x.u) r, x) := rfl
@[simp] theorem near_flags_app (f : BitVec 24) (x : NearCtx) : NearOp.flags f x = .ok ((), withUnit x (withFlags f)) := rfl
@[simp] theorem near_putLanes_app (r : BitVec 4) (l : List (Nat × Bool)) (x : NearCtx) : NearOp.putLanes r l x = .ok ((), withUnit x (withN r l)) := rfl
@[simp] theorem near_port_app (p : BitVec 2) (x : NearCtx) : NearOp.port p x = .ok (vget (x.dev.unit x.u).ports p.toNat {}, x) := rfl
@[simp] theorem near_modPort_app (p : BitVec 2) (f : Port → Port) (x : NearCtx) : NearOp.modPort p f x = .ok ((), withUnit x (withPort p f)) := rfl
@[simp] theorem near_nextWrite_app (x : NearCtx) : NearOp.nextWrite x = .ok ((x.dev.unit x.u).writes, withUnit x numbered) := by
  simp [NearOp.nextWrite]
  rfl

theorem near_stallUnless_app {c : Bool} (h : c = true) (x : NearCtx) : NearOp.stallUnless c x = .ok ((), x) := by
  subst h
  rfl

theorem near_gClean_app {r : BitVec 4} (h : gPoison (x.dev.unit x.u) r = false) : NearOp.gClean r x = .ok ((gOf (x.dev.unit x.u) r).toNat, x) := by
  have hg : NearOp.g r x = .ok ((gOf (x.dev.unit x.u) r, gPoison (x.dev.unit x.u) r), x) := by
    by_cases hr : r = 0#4 <;> simp [NearOp.g, gOf, gPoison, hr]
  simp [NearOp.gClean, hg, h]

theorem near_lanes_app (r : BitVec 4) (x : NearCtx) : NearOp.lanes r x = .ok (nLanes (x.dev.unit x.u) r, x) := by
  have hlanes : ((lanesOf 32 16 (vget (x.dev.unit x.u).n r.toNat 0).toNat).zipIdx.map fun e =>
      (e.1, (vget (x.dev.unit x.u).nPsn r.toNat 0).getLsbD e.2)) = nLanes (x.dev.unit x.u) r := by
    refine List.ext_getElem (by simp [lanesOf, nLanes]) fun i _ _ => ?_
    simp [lanesOf, nLanes, bits]
  simp only [NearOp.lanes, near_bind_app, near_me_app, near_ok_bind, near_pure_app, hlanes]

end registers

/-! ### Memory (R281, R297) -/

theorem firstDenied_eq_none {x : NearCtx} {wr : Bool} {l : List Nat} (h : nearMay x wr l) : NearOp.firstDenied x.dev x.u wr l = none := by
  rw [NearOp.firstDenied, List.findSome?_eq_none_iff]
  intro a ha
  obtain ⟨hlow, hmiss, hmay⟩ := h a ha
  simp only [if_neg (Nat.not_le.mpr hlow), if_neg hmiss]
  cases wr <;> exact if_pos hmay

theorem near_allowed_app {x : NearCtx} {wr : Bool} {l : List Nat} (h : nearMay x wr l) : NearOp.allowed wr l x = .ok ((), x) := by
  simp [NearOp.allowed, firstDenied_eq_none h]

theorem near_read_nothing (va : Nat) (x : NearCtx) : NearOp.read va 0 x = .ok ([], x) := by
  have hpend : NearOp.pendingOver (x.dev.unit x.u) va 0 = false := by
    simp only [NearOp.pendingOver, overlap, Nat.lt_irrefl, decide_false, Bool.and_false, List.any_eq_false]
    simp
  have hcopy : NearOp.copyOver (x.dev.unit x.u) va 0 = false := by simp [NearOp.copyOver, overlap]
  simp [NearOp.read, hpend, hcopy, near_stallUnless_app, NearOp.pieces]

end Sys2Proof.Proofs
end

section
/-! An instruction of a unit stays with its unit, whatever it reads. -/

namespace Sys2Proof.Proofs
open Machine Claim

/-- A meaning that leaves the unit's number as it was. -/
def KeepsUnit {α : Type} (m : NearM α) : Prop := ∀ x a y, m x = .ok (a, y) → y.u = x.u

section rules
variable {α β : Type}

theorem keepsUnit_pure (a : α) : KeepsUnit (pure a : NearM α) := by
  rintro x b y h
  obtain ⟨rfl, rfl⟩ := Prod.mk.inj (Except.ok.inj h)
  rfl

theorem keepsUnit_of_rule {m : NearM α} {f : NearCtx → α} {g : NearCtx → NearCtx} (h : ∀ x, m x = .ok (f x, g x)) (hg : ∀ x, (g x).u = x.u) :
    KeepsUnit m := by
  rintro x a y hm
  obtain ⟨rfl, rfl⟩ := Prod.mk.inj (Except.ok.inj ((h x).symm.trans hm))
  exact hg x

theorem keepsUnit_of_error {m : NearM α} (h : ∀ x, ∃ e, m x = .error e) : KeepsUnit m := by
  intro x a y hm
  obtain ⟨e, he⟩ := h x
  exact absurd (he.symm.trans hm) (by simp)

theorem KeepsUnit.bind {m : NearM α} {f : α → NearM β} (hm : KeepsUnit m) (hf : ∀ a, KeepsUnit (f a)) : KeepsUnit (m >>= f) := by
  intro x b z h
  rw [near_bind_app] at h
  cases hx : m x with
  | error e => simp [hx] at h
  | ok p =>
    simp only [hx, near_ok_bind] at h
    exact (hf p.1 p.2 b z h).trans (hm x p.1 p.2 hx)

theorem KeepsUnit.mapM {f : α → NearM β} (hf : ∀ a, KeepsUnit (f a)) (l : List α) : KeepsUnit (l.mapM f) := by
  induction l with
  | nil => exact keepsUnit_pure []
  | cons a l ih =>
    rw [List.mapM_cons]
    exact (hf a).bind fun b => ih.bind fun c => keepsUnit_pure _

end rules

theorem keepsUnit_get : KeepsUnit (get : NearM NearCtx) := keepsUnit_of_rule near_get_app fun _ => rfl
theorem keepsUnit_me : KeepsUnit NearOp.me := keepsUnit_of_rule near_me_app fun _ => rfl
theorem keepsUnit_modDev (f : Dev → Dev) : KeepsUnit (NearOp.modDev f) := keepsUnit_of_rule (g := fun x => { x with dev := f x.dev }) (fun _ => rfl) fun _ => rfl
theorem keepsUnit_port (p : BitVec 2) : KeepsUnit (NearOp.port p) := keepsUnit_of_rule (near_port_app p) fun _ => rfl
theorem keepsUnit_modPort (p : BitVec 2) (f : Port → Port) : KeepsUnit (NearOp.modPort p f) := keepsUnit_of_rule (near_modPort_app p f) fun _ => rfl
theorem keepsUnit_trap {α : Type} (c : Cause) (l : List Nat) : KeepsUnit (NearOp.trap c l : NearM α) := keepsUnit_of_error fun _ => ⟨_, rfl⟩
theorem keepsUnit_stall {α : Type} : KeepsUnit (NearOp.stall : NearM α) := keepsUnit_of_error fun _ => ⟨_, rfl⟩

theorem keepsUnit_stallUnless (c : Bool) : KeepsUnit (NearOp.stallUnless c) := by
  cases c
  · exact keepsUnit_stall
  · exact keepsUnit_pure ()

theorem keepsUnit_portTrap {α : Type} (c : Cause) (p : BitVec 2) : KeepsUnit (NearOp.portTrap c p : NearM α) := by
  refine (keepsUnit_port p).bind fun x => ?_
  split
  · exact keepsUnit_trap c _
  · exact keepsUnit_get.bind fun y => keepsUnit_trap c _

theorem keepsUnit_portOk (p : BitVec 2) : KeepsUnit (NearOp.portOk p) := by
  refine (keepsUnit_port p).bind fun x => ?_
  split
  · exact keepsUnit_trap _ _
  · exact keepsUnit_trap _ _
  · exact keepsUnit_stallUnless _

theorem keepsUnit_pop (p : BitVec 2) (n : Nat) : KeepsUnit (NearOp.pop p n) := by
  refine (keepsUnit_portOk p).bind fun _ => (keepsUnit_port p).bind fun x => ?_
  split
  · exact keepsUnit_stall
  · exact (keepsUnit_modPort p _).bind fun _ => keepsUnit_pure _

theorem keepsUnit_popRead (p : BitVec 2) : KeepsUnit (NearOp.popRead p) := by
  refine (keepsUnit_port p).bind fun x => ?_
  split
  · exact keepsUnit_portTrap _ p
  · split
    · exact keepsUnit_portTrap _ p
    · exact (keepsUnit_pop p 1).bind fun l => (keepsUnit_modPort p _).bind fun _ => keepsUnit_pure _
  · exact keepsUnit_portTrap _ p

theorem keepsUnit_popPair (p : BitVec 2) : KeepsUnit (NearOp.popPair p) := by
  refine (keepsUnit_port p).bind fun x => ?_
  split
  · exact keepsUnit_portTrap _ p
  · exact keepsUnit_portTrap _ p
  · dsimp only
    split
    case' isTrue => refine (keepsUnit_portOk p).bind fun _ => ?_
    all_goals
      split
      · exact keepsUnit_portTrap _ p
      · split
        · exact (keepsUnit_pop p 2).bind fun l => (keepsUnit_modPort p _).bind fun _ => keepsUnit_pure _
        · exact (keepsUnit_pure _).bind fun _ => (keepsUnit_modPort p _).bind fun _ => keepsUnit_pure _
  · split
    · exact keepsUnit_portTrap _ p
    · exact (keepsUnit_pop p 2).bind fun l => (keepsUnit_modPort p _).bind fun _ => keepsUnit_pure _

theorem keepsUnit_atPeer (va : Nat) : KeepsUnit (NearOp.atPeer va) := keepsUnit_get.bind fun _ => keepsUnit_pure _

theorem keepsUnit_resident (va : Nat) (wr : Bool) : KeepsUnit (NearOp.resident va wr) := by
  refine keepsUnit_get.bind fun x => ?_
  split
  · exact keepsUnit_pure _
  · exact keepsUnit_of_error fun _ => ⟨_, rfl⟩
  · exact keepsUnit_trap _ _
  · exact keepsUnit_stall

theorem keepsUnit_read (va n : Nat) : KeepsUnit (NearOp.read va n) := by
  refine keepsUnit_me.bind fun _ => keepsUnit_me.bind fun _ => (keepsUnit_stallUnless _).bind fun _ => KeepsUnit.bind (.mapM (fun p => ?_) _) fun l => keepsUnit_pure _
  refine (keepsUnit_atPeer p.1).bind fun q => ?_
  split
  · exact keepsUnit_get.bind fun x => (keepsUnit_modDev _).bind fun _ => keepsUnit_pure _
  · refine (keepsUnit_resident p.1 false).bind fun loc => keepsUnit_get.bind fun x => ?_
    split
    · exact (keepsUnit_modDev _).bind fun _ => keepsUnit_pure _
    · exact keepsUnit_stall

end Sys2Proof.Proofs
end

section
/-! Stream ports: opening, popping, pushing, and broadcast multiply-accumulate (R295, R297 to R301, R307). -/

namespace Sys2Proof.Proofs
open Machine Claim

variable {s : State} {u : Nat} {x : NearCtx} {a d : BitVec 2}

/-- A port that nothing keeps from being popped or pushed (R298). -/
structure PortFree (p : Port) : Prop where
  refused : p.refused = none
  owed : p.owed = none
  bitmap : p.bitmap = none

theorem near_portOk_app (h : PortFree (vget (x.dev.unit x.u).ports a.toNat {})) : NearOp.portOk a x = .ok ((), x) := by
  simp [NearOp.portOk, h.refused, h.owed, h.bitmap, near_stallUnless_app]

theorem vset_vset {α : Type} {n : Nat} (v : Vector α n) (i : Nat) (y z : α) : vset (vset v i y) i z = vset v i z := by simp [vset]

theorem withPort_withPort (p : BitVec 2) (f g : Port → Port) (z : Near) : withPort p g (withPort p f z) = withPort p (fun q => g (f q)) z := by
  have hp : p.toNat < 4 := p.isLt
  simp [withPort, vget_vset, hp, vset_vset]

/-- Two changes that agree on the port as it stands leave the same. -/
theorem withPort_congr {p : BitVec 2} {f g : Port → Port} {z : Near} (h : f (vget z.ports p.toNat {}) = g (vget z.ports p.toNat {})) :
    withPort p f z = withPort p g z := by
  simp only [withPort, h]

theorem popRead_delivered {e : Bytes × List Nat} {l : List (Bytes × List Nat)} (hmode : (vget (x.dev.unit x.u).ports a.toNat {}).mode = some 0)
    (hleft : (vget (x.dev.unit x.u).ports a.toNat {}).used < (vget (x.dev.unit x.u).ports a.toNat {}).cnt)
    (hfree : PortFree (vget (x.dev.unit x.u).ports a.toNat {})) (hbuf : (vget (x.dev.unit x.u).ports a.toNat {}).buf = e :: l) :
    NearOp.popRead a x = .ok (e, withUnit x (withPort a fun p => { p with buf := p.buf.drop 1, used := p.used + 1 })) := by
  simp [NearOp.popRead, NearOp.pop, hmode, Nat.not_le.mpr hleft, near_portOk_app hfree, hbuf, withPort_withPort]

theorem execNld_eq (ht : nearTurn s u) {e : Bytes × List Nat} {y : NearCtx} (hpop : NearOp.popRead a (nearCtx s u) = .ok (e, y)) (d : BitVec 4) :
    exec (.nld d a) s = .next (ctxLeft s (withUnit y (withN d (entryLanes e)))) := by
  show execNld d a s = _
  refine runNear_ok ht ?_ (keepsUnit_popRead a _ _ _ hpop)
  simp [hpop]

theorem execNtab_eq (ht : nearTurn s u) {e : Bytes × List Nat} {y : NearCtx} (hpop : NearOp.popRead a (nearCtx s u) = .ok (e, y))
    (ha : iwField (s.dev.unit u) 14 2 = a) :
    exec .ntab s = .next (ctxLeft s (withUnit y fun z => { z with table := BitVec.ofNat 256 (leNat (e.1.take 32)) })) := by
  have hport : BitVec.ofNat 2 (bits (s.dev.unit u).iw 14 4) = a := by
    rw [← ha]
    apply BitVec.eq_of_toNat_eq
    simp only [iwField, bits, BitVec.toNat_ofNat]
    omega
  show execNtab s = _
  refine runNear_ok ht ?_ (keepsUnit_popRead a _ _ _ hpop)
  simp [hport, hpop]

theorem execNst_eq (ht : nearTurn s u) (hmode : (vget (s.dev.unit u).ports d.toNat {}).mode = some 1)
    (hleft : (vget (s.dev.unit u).ports d.toNat {}).used < (vget (s.dev.unit u).ports d.toNat {}).cnt)
    (hfree : PortFree (vget (s.dev.unit u).ports d.toNat {})) (a : BitVec 4) (f : BitVec 3) :
      let x := s.dev.unit u
      let m := maskOf x f
      let on := (nLanes x a).zipIdx.filter fun e => m.getLsbD e.2
      exec (.nst d a f) s = .next (unitLeft s u fun y => withFlags
        (BitVec.ofNat 24 (256 * packLanes 1 ((nLanes x a).zipIdx.map fun e => (m.getLsbD e.2 && e.1.2).toNat)))
        (withPort d (fun p => { p with used := p.used + 1,
                                       out := p.out ++ [⟨x.writes, addr64 p.base (p.used * p.stride), on.map fun e => (4 * e.2, toLe 4 e.1.1, e.1.2)⟩] }) (numbered y))) := by
  intro x m on
  show execNst d a f s = _
  refine runNear_unit ht ?_
  simp [hmode, Nat.not_le.mpr hleft, near_portOk_app (x := nearCtx s u) hfree, near_lanes_app]
  rfl

theorem execNmac_eq (ht : nearTurn s u) {pair : Option (List (Bytes × List Nat))} {y : NearCtx} (hpop : NearOp.popPair a (nearCtx s u) = .ok (pair, y))
    (t : Fmt) (d b : BitVec 4) (f j : BitVec 3) (z : Bool) :
    exec (.nmac t d a b f j z) s = .next (ctxLeft s (withUnit y (multiplied t d b f j z pair))) := by
  show execNmac t d a b f j z s = _
  refine runNear_ok ht ?_ (keepsUnit_popPair a _ _ _ hpop)
  simp only [near_bind_app, hpop, near_ok_bind, near_me_app, near_mask_app, near_lanes_app, near_putLanes_app, near_flags_app, withUnit_withUnit]
  exact congrArg (fun z => Except.ok ((), z)) (withUnit_congr rfl)

end Sys2Proof.Proofs
end

section
/-! Opening a port: an accepted shape takes its pairs from the bitmap, if it is sparse, and the port is open (R297). -/

namespace Sys2Proof.Proofs
open Machine Claim

/-- What an nsopen opens a port with: its base, and the fields of its shape word (R297). -/
structure Shape where
  mode : Nat
  base : Nat
  stride : Int
  cnt : Nat

namespace Shape

/-- The shape in two registers of a unit. -/
def ofRegs (x : Near) (a b : BitVec 4) : Shape :=
  { mode := (gOf x b).toNat / 2 ^ 30 % 4, base := (gOf x a).toNat, stride := sx 32 ((gOf x b).toNat / 2 ^ 32), cnt := (gOf x b).toNat % 2 ^ 30 }

/-- Bytes of its bitmap: none for a dense stream. -/
def mapBytes (p : Shape) : Nat := if p.mode = 2 then ceilDiv (p.cnt / 2) 8 else 0
/-- The pairs that a bitmap gives it. -/
def pairs (p : Shape) (map : List (Byte × Bool)) : List Bool := bitmapPairs map (if p.mode = 2 then p.cnt / 2 else 0)
/-- The addresses of its stored entries. -/
def addrs (p : Shape) (map : List (Byte × Bool)) : List Nat :=
  entryAddrs p.base p.stride (if p.mode = 2 then 2 * ((p.pairs map).filter id).length else p.cnt)
/-- The port that it opens. -/
def opened (p : Shape) (map : List (Byte × Bool)) : Port → Port := portOpened p.mode p.base p.stride p.cnt (p.pairs map)

/-- A shape that R297 accepts: an aligned stride and base, a mode that there is, and an even count for a sparse stream. -/
structure Accepted (p : Shape) (b : BitVec 4) : Prop where
  stride : p.stride % 64 = 0
  base : p.base % 64 = 0
  mode : p.mode ≠ 3
  sparse : p.mode = 2 → p.cnt % 2 = 0 ∧ b.toNat ≤ 14

/-- What an nsopen of this shape does on port d once its registers are read, with its bitmap at bm. -/
def opens (p : Shape) (d : BitVec 2) (bm : Nat) : NearM Unit := do
  NearOp.allowed false ((NearOp.pieces bm p.mapBytes).map (·.1))
  let x ← get
  match (NearOp.pieces bm p.mapBytes).find? fun q => decide (unitWay x.dev x.u q.1 = .refused) with
  | some r =>
    let u ← NearOp.me
    NearOp.stallUnless (!NearOp.copyOver u bm p.mapBytes)
    NearOp.modPort d fun q =>
      { mode := some p.mode, base := p.base, stride := p.stride, cnt := p.cnt, out := q.out, bitmap := some bm, refused := some (alignDown r.1 16384) }
  | none =>
    let map ← NearOp.read bm p.mapBytes
    match map.zipIdx.find? fun e => e.1.2 with
    | some e => NearOp.trap .poison [bm + e.2]
    | none =>
      NearOp.allowed (decide (p.mode = 1)) (p.addrs map)
      let u ← NearOp.me
      NearOp.stallUnless ((p.addrs map).all fun x => !NearOp.copyOver u x 64)
      NearOp.modPort d (p.opened map)

variable {p : Shape} {s : State} {u bm : Nat} {a b : BitVec 4} {d : BitVec 2} {x y : NearCtx} {map : List (Byte × Bool)}

/-- A bitmap that can be read, without poison, opens the port with the pairs that it gives. -/
theorem opens_app (hmap : nearMay x false ((NearOp.pieces bm p.mapBytes).map (·.1)))
    (hway : ∀ q ∈ NearOp.pieces bm p.mapBytes, unitWay x.dev x.u q.1 ≠ .refused) (hread : NearOp.read bm p.mapBytes x = .ok (map, y))
    (hclean : ∀ e ∈ map, e.2 = false) (hmay : nearMay y (decide (p.mode = 1)) (p.addrs map)) (hapart : portApart (y.dev.unit y.u) (p.addrs map)) :
    p.opens d bm x = .ok ((), withUnit y (withPort d (p.opened map))) := by
  have hrefused : ((NearOp.pieces bm p.mapBytes).find? fun q => decide (unitWay x.dev x.u q.1 = .refused)) = none :=
    List.find?_eq_none.mpr fun q hq => by simpa using hway q hq
  have hpoison : (map.zipIdx.find? fun e => e.1.2) = none :=
    List.find?_eq_none.mpr fun e he => by simp [hclean e.1 (List.fst_mem_of_mem_zipIdx he)]
  have hcopies : ((p.addrs map).all fun a => !NearOp.copyOver (y.dev.unit y.u) a 64) = true :=
    List.all_eq_true.mpr fun a ha => by simp [hapart a ha]
  simp only [opens, near_bind_app, near_allowed_app hmap, near_ok_bind, near_get_app, hrefused, hread, hpoison, near_allowed_app hmay, near_me_app,
    near_stallUnless_app hcopies, near_modPort_app]

/-- A dense stream reads no bitmap. -/
theorem opens_dense_app (hmode : p.mode < 2) (hmay : nearMay x (decide (p.mode = 1)) (entryAddrs p.base p.stride p.cnt))
    (hapart : portApart (x.dev.unit x.u) (entryAddrs p.base p.stride p.cnt)) :
    p.opens d 0 x = .ok ((), withUnit x (withPort d (portOpened p.mode p.base p.stride p.cnt []))) := by
  have hbytes : p.mapBytes = 0 := if_neg hmode.ne
  have hpairs : p.opened [] = portOpened p.mode p.base p.stride p.cnt [] := by simp [opened, pairs, bitmapPairs, hmode.ne]
  have haddrs : p.addrs [] = entryAddrs p.base p.stride p.cnt := by simp [addrs, hmode.ne]
  have hpieces : NearOp.pieces 0 p.mapBytes = [] := by rw [hbytes]; rfl
  rw [← hpairs]
  refine opens_app ?_ ?_ ?_ ?_ (haddrs ▸ hmay) (haddrs ▸ hapart)
  · rw [hpieces]; exact fun _ h => absurd h List.not_mem_nil
  · rw [hpieces]; exact fun _ h => absurd h List.not_mem_nil
  · rw [hbytes]; exact near_read_nothing 0 x
  · exact fun _ h => absurd h List.not_mem_nil

/-- A sparse stream takes its pairs, and with them its stored entries, from its bitmap. -/
theorem opens_sparse_app (hmode : p.mode = 2) (hmap : nearMay x false ((NearOp.pieces bm (ceilDiv (p.cnt / 2) 8)).map (·.1)))
    (hway : ∀ q ∈ NearOp.pieces bm (ceilDiv (p.cnt / 2) 8), unitWay x.dev x.u q.1 ≠ .refused)
    (hread : NearOp.read bm (ceilDiv (p.cnt / 2) 8) x = .ok (map, y)) (hclean : ∀ e ∈ map, e.2 = false)
    (hmay : nearMay y false (entryAddrs p.base p.stride (2 * ((bitmapPairs map (p.cnt / 2)).filter id).length)))
    (hapart : portApart (y.dev.unit y.u) (entryAddrs p.base p.stride (2 * ((bitmapPairs map (p.cnt / 2)).filter id).length))) :
    p.opens d bm x = .ok ((), withUnit y (withPort d (portOpened 2 p.base p.stride p.cnt (bitmapPairs map (p.cnt / 2))))) := by
  have hbytes : p.mapBytes = ceilDiv (p.cnt / 2) 8 := if_pos hmode
  have hpairs : p.pairs map = bitmapPairs map (p.cnt / 2) := by simp only [pairs, hmode, if_true]
  have haddrs : p.addrs map = entryAddrs p.base p.stride (2 * ((bitmapPairs map (p.cnt / 2)).filter id).length) := by
    simp only [addrs, hmode, if_true, hpairs]
  have hdense : decide (p.mode = 1) = false := by simp [hmode]
  have hopened : p.opened map = portOpened 2 p.base p.stride p.cnt (bitmapPairs map (p.cnt / 2)) := by rw [opened, hmode, hpairs]
  rw [← hopened]
  exact opens_app (hbytes ▸ hmap) (hbytes ▸ hway) (hbytes ▸ hread) hclean (by rwa [hdense, haddrs]) (haddrs ▸ hapart)

end Shape

section nsopen
variable {s : State} {u bm : Nat} {a b : BitVec 4} {d : BitVec 2} {y : NearCtx}

theorem sx_bits (n v lo : Nat) : sx n (bits v lo n) = sx n (v / 2 ^ lo) := by simp [sx, bits]

theorem bits_zero (v n : Nat) : bits v 0 n = v % 2 ^ n := by simp [bits]

/-- An accepted nsopen on a port that is not open leaves what its shape opens. -/
theorem execNsopen_eq (ht : nearTurn s u) (ha : gPoison (s.dev.unit u) a = false) (hb : gPoison (s.dev.unit u) b = false)
    (hshape : (Shape.ofRegs (s.dev.unit u) a b).Accepted b) (hclosed : NearOp.portOpen (vget (s.dev.unit u).ports d.toNat {}) = false)
    (hbm : (if (Shape.ofRegs (s.dev.unit u) a b).mode = 2 then NearOp.gClean (b + 1) else pure 0) (nearCtx s u) = .ok (bm, nearCtx s u))
    (hopens : (Shape.ofRegs (s.dev.unit u) a b).opens d bm (nearCtx s u) = .ok ((), y)) (hy : y.u = u) :
    exec (.nsopen d a b) s = .next (ctxLeft s y) := by
  obtain ⟨hstride, hbase, hmode, hsparse⟩ := hshape
  show execNsopen d a b s = _
  refine runNear_ok ht ?_ hy
  simp only [near_bind_app, near_gClean_app (x := nearCtx s u) ha, near_gClean_app (x := nearCtx s u) hb, near_ok_bind, nearCtx_unit, sx_bits, bits_zero]
  have hlegal : ¬ (decide (sx 32 ((gOf (s.dev.unit u) b).toNat / 2 ^ 32) % 64 ≠ 0) || decide (bits (gOf (s.dev.unit u) b).toNat 30 2 = 3)
      || (decide (bits (gOf (s.dev.unit u) b).toNat 30 2 = 2)
        && (decide ((gOf (s.dev.unit u) b).toNat % 2 ^ 30 % 2 = 1) || decide (14 < b.toNat)))) = true := by
    simp only [Bool.or_eq_true, Bool.and_eq_true, decide_eq_true_eq]
    rintro ((h | h) | ⟨h, hodd | hlast⟩)
    · exact h hstride
    · exact hmode h
    · exact absurd (hodd.symm.trans (hsparse h).1) Nat.one_ne_zero
    · exact absurd hlast (Nat.not_lt.mpr (hsparse h).2)
  rw [if_neg hlegal]
  simp only [near_bind_app, near_port_app, near_ok_bind, nearCtx_unit, hclosed]
  have haligned : ¬ (gOf (s.dev.unit u) a).toNat % 64 ≠ 0 := not_not.mpr hbase
  rw [if_neg Bool.false_ne_true, if_neg haligned]
  by_cases hsp : (Shape.ofRegs (s.dev.unit u) a b).mode = 2
  · have hbits : bits (gOf (s.dev.unit u) b).toNat 30 2 = 2 := hsp
    rw [if_pos hsp] at hbm
    rw [if_pos hbits]
    simp only [near_bind_app, hbm, near_ok_bind]
    exact hopens
  · have hbits : bits (gOf (s.dev.unit u) b).toNat 30 2 ≠ 2 := hsp
    rw [if_neg hsp] at hbm
    rw [if_neg hbits]
    obtain ⟨rfl, -⟩ := Prod.mk.inj (Except.ok.inj hbm)
    exact hopens

end nsopen


/-- Settles O48: each port instruction runs by the rules of its parts, and one that pops stays with its unit. -/
theorem nearPortResults : Obligations.NearPortResults := by
  unfold Obligations.NearPortResults
  intro s u ht
  refine ⟨?read, ?opens, fun a e y hpop => ⟨fun d => execNld_eq ht hpop d, fun ha => execNtab_eq ht hpop ha⟩,
    fun d a f hmode hleft hrefused howed hbitmap => execNst_eq ht hmode hleft ⟨hrefused, howed, hbitmap⟩ a f,
    fun a pair y hpop t d b f j z => execNmac_eq ht hpop t d b f j z⟩
  case read =>
    intro a e l hmode hleft hrefused howed hbitmap hbuf
    refine ⟨_, popRead_delivered (x := nearCtx s u) hmode hleft ⟨hrefused, howed, hbitmap⟩ hbuf, ?_, rfl⟩
    exact (withUnit_unit (nearCtx s u) _).trans (withPort_congr (by simp only [nearCtx_unit, hbuf, List.drop_one, List.tail_cons]))
  case opens =>
    intro d a b ha hb base cnt mode stride hbase hstride hclosed
    refine ⟨fun hmode hmay hapart => ?dense, fun map y hmode heven hlast hclean => ?sparse⟩
    case dense =>
      exact execNsopen_eq ht ha hb ⟨hstride, hbase, (hmode.trans (by decide)).ne, fun h => absurd h hmode.ne⟩ hclosed (if_neg hmode.ne ▸ rfl)
        (Shape.opens_dense_app (p := Shape.ofRegs (s.dev.unit u) a b) hmode hmay hapart) rfl
    case sparse =>
      intro bm nb pairs ads hmap hway hread hpoison hmay hapart
      exact execNsopen_eq ht ha hb ⟨hstride, hbase, hmode.trans_ne (by decide), fun _ => ⟨heven, hlast⟩⟩ hclosed
        ((congrFun (if_pos hmode) _).trans (near_gClean_app (x := nearCtx s u) hclean))
        (Shape.opens_sparse_app (p := Shape.ofRegs (s.dev.unit u) a b) hmode hmap hway hread hpoison hmay hapart)
        (keepsUnit_read _ _ _ _ _ hread)

end Sys2Proof.Proofs
end

section
/-! Bringing the single order forward fills in what reads wait for, and leaves the rest of every sequencer (R249, R250). -/

namespace Sys2Proof.Proofs
open Machine Claim

/-- A change of one register that a map does not see. -/
theorem map_vset_vget {α β : Type} {n : Nat} (v : Vector α n) (i : Nat) (dflt : α) {f : α → α} {g : α → β} (h : ∀ a, g (f a) = g a) :
    (vset v i (f (vget v i dflt))).map g = v.map g := by
  ext k hk
  by_cases hki : i = k
  · subst hki
    simp [vset, vget, hk, h]
  · simp [vset, hki]

/-- A column without the load-data entries being filled. -/
def unfilled (c : Col) : Col := { c with fill := [] }

/-- A sequencer without what reads fill in: load-data entries being filled, and the queue of its matrix unit. -/
def unread (s : Seq) : Seq := { s with cols := s.cols.map unfilled, mx := { s.mx with queue := [] } }

theorem unread_col (s : Seq) (c : Nat) : (unread s).col c = unfilled (s.col c) := by
  by_cases hc : c < 4 <;> simp [Seq.col, unread, vget, hc, unfilled]

theorem unread_modCol {f : Col → Col} (h : ∀ x, unfilled (f x) = unfilled x) (s : Seq) (c : Nat) :
    unread (s.modCol c f) = unread s := by
  simp only [unread, Seq.modCol, Seq.col, map_vset_vget s.cols c {} h]

/-- Nothing but what reads fill in has changed in any sequencer, and nothing in the firmware's registers. -/
structure Undisturbed (d e : Dev) : Prop where
  seq : ∀ k, unread (e.seq k) = unread (d.seq k)
  fw : e.fw = d.fw

namespace Undisturbed
variable {d e f : Dev}

theorem refl (d : Dev) : Undisturbed d d := ⟨fun _ => rfl, rfl⟩
theorem trans (h : Undisturbed d e) (k : Undisturbed e f) : Undisturbed d f := ⟨fun q => (k.seq q).trans (h.seq q), k.fw.trans h.fw⟩
theorem of_eq (hseqs : e.seqs = d.seqs) (hfw : e.fw = d.fw) : Undisturbed d e := ⟨fun k => by simp only [Dev.seq, hseqs], hfw⟩

theorem foldl {α : Type} {g : Dev → α → Dev} (h : ∀ d a, Undisturbed d (g d a)) (l : List α) (d : Dev) : Undisturbed d (l.foldl g d) := by
  induction l generalizing d with
  | nil => exact refl d
  | cons a l ih => exact (h d a).trans (ih _)

theorem modSeq {g : Seq → Seq} (h : ∀ s, unread (g s) = unread s) (d : Dev) (q : Nat) : Undisturbed d (d.modSeq q g) := by
  refine ⟨fun k => ?_, rfl⟩
  by_cases hk : k = q
  · subst hk
    rw [Dev.seq_modSeq, h]
  · rw [Dev.seq_modSeq_ne d g hk]

theorem fillElem (own col ent elem n v : Nat) (psn : Option Nat) (d : Dev) : Undisturbed d (fillElem own col ent elem n v psn d) := by
  unfold Machine.fillElem
  refine modSeq (fun s => unread_modCol (fun x => ?_) s col) d own
  rfl

theorem fillPart (own id k : Nat) (b : Bytes) (psn : List Nat) (d : Dev) : Undisturbed d (fillPart own id k b psn d) := by
  unfold Machine.fillPart
  refine modSeq (fun s => ?_) d own
  rfl

theorem of_readIn {me : Nat} {done later : List Placed} {loc n : Nat} {b : Option (List (Byte × Bool))}
    (h : readIn me d done later loc n = (b, e)) : Undisturbed d e := by
  unfold readIn at h
  split at h
  · exact (Prod.mk.inj h).2 ▸ refl d
  · split at h <;> exact (Prod.mk.inj h).2 ▸ of_eq rfl rfl

theorem resolve (l done : List Placed) (d : Dev) : Undisturbed d (resolve done d l).2 := by
  induction l generalizing done d with
  | nil => exact refl d
  | cons p l ih =>
    cases p <;> simp only [Machine.resolve]
    case load =>
      split <;> rename_i h
      · exact ((of_readIn h).trans (fillElem ..)).trans (ih _ _)
      · exact (of_readIn h).trans (ih _ _)
    case rmw =>
      split <;> rename_i h
      · split
        · exact ((of_readIn h).trans (fillElem ..)).trans (ih _ _)
        · exact (of_readIn h).trans (ih _ _)
      · exact (of_readIn h).trans (ih _ _)
    case arrive =>
      split <;> rename_i h <;> exact (of_readIn h).trans (ih _ _)
    case part =>
      split <;> rename_i h
      · exact ((of_readIn h).trans (fillPart ..)).trans (ih _ _)
      · exact (of_readIn h).trans (ih _ _)
    all_goals exact ih _ _

theorem landBytes (d : Dev) (loc : Nat) (l : List (Option Byte)) : Undisturbed d (landBytes d loc l) := by
  refine foldl (fun d e => ?_) _ d
  split
  · exact of_eq rfl rfl
  · exact refl d

theorem wixSeen (loc n : Nat) (d : Dev) : Undisturbed d (wixSeen loc n d) := by
  refine foldl (fun d t => ?_) _ d
  split
  · refine foldl (fun d m => ?_) _ d
    split
    · exact of_eq rfl rfl
    · exact refl d
  · exact refl d

theorem of_land {p : Placed} (h : land d p = some e) : Undisturbed d e := by
  unfold land at h
  split at h <;> simp only [Option.some.injEq, reduceCtorEq] at h <;> subst h
  · exact (landBytes ..).trans (wixSeen ..)
  · rename_i loc b psn
    refine Undisturbed.trans (Undisturbed.trans (landBytes d loc (b.map some)) ?_) (wixSeen _ _ _)
    split
    · exact of_eq rfl rfl
    · exact refl _
  · refine Undisturbed.trans ?_ (wixSeen _ _ _)
    exact of_eq rfl rfl
  · exact refl _

theorem drain (l held : List Placed) (d : Dev) : Undisturbed d (drain held d l).2 := by
  induction l generalizing d held with
  | nil => exact refl d
  | cons p l ih =>
    unfold Machine.drain
    split
    · next e he =>
      split at he
      · cases he
      · exact (of_land he).trans (ih _ _)
    · exact ih _ _

theorem settle (d : Dev) : Undisturbed d (settle d) :=
  ((resolve _ _ d).trans (drain _ _ _)).trans (of_eq rfl rfl)

end Undisturbed

end Sys2Proof.Proofs
end

section
/-! What one landing write leaves of each part of its sequencer, said once, field by field (R71, R73, R109). -/

namespace Sys2Proof.Proofs
open Machine Claim

/-! ### The parts -/

/-- The registers after a write lands, but for the flags that it sets. -/
def regsAfter (w : PWrite) (r : Regs) : Regs :=
  let v : Word := w.data.setWidth 64
  { r with
    preds := match w.tgt with
      | .pred n => if n = 0 then r.preds else
        vset r.preds n ((vget r.preds n 0 &&& ~~~(w.data.extractLsb' 64 64)) ||| (w.data.extractLsb' 0 64 &&& w.data.extractLsb' 64 64))
      | _ => r.preds
    stage := if w.tgt = .stage then w.data.setWidth 16 else r.stage
    views := match w.tgt with | .view n => vset r.views n v | _ => r.views
    bases := match w.tgt with | .base n => vset r.bases n (w.data.setWidth 16) | _ => r.bases
    mregs := match w.tgt with | .mreg n => vset r.mregs n v | _ => r.mregs
    scaleK := match w.tgt with
      | .scaleS n => vset r.scaleK n ((vget r.scaleK n 0).extractLsb' 256 256 ++ w.data)
      | .scaleH n => vset r.scaleK n (w.data ++ (vget r.scaleK n 0).setWidth 256)
      | _ => r.scaleK
    scaleTab := if w.tgt = .scaleTab then w.data else r.scaleTab
    loops := landedLoops [w] r.loops
    rmc := if w.tgt = .sysreg 0x0C then v else r.rmc
    rmv := if w.tgt = .sysreg 0x0D then v &&& 0x00FFFFFFFFFFC001 else r.rmv
    fctl := if w.tgt = .sysreg 0x10 then v &&& 0x07 else r.fctl
    fstat := if w.tgt = .sysreg 0x11 then v &&& 0x3F else r.fstat
    est := if w.tgt = .sysreg 0x12 then v &&& 0xFF else r.est
    rbk := if w.tgt = .sysreg 0x17 then v else r.rbk
    dinj := if w.tgt = .sysreg 0x40 then v &&& 0xFFFF00FF0000001F else r.dinj
    dfir := if w.tgt = .sysreg 0x41 then v else r.dfir
    wpa := match w.tgt with | .sysreg n => if 0x48 ≤ n ∧ n ≤ 0x4B then vset r.wpa (n - 0x48) (v &&& 0x00FFFFFFFFFFFFE0) else r.wpa | _ => r.wpa
    wpc := match w.tgt with | .sysreg n => if 0x4C ≤ n ∧ n ≤ 0x4F then vset r.wpc (n - 0x4C) (v &&& 0x3FF) else r.wpc | _ => r.wpc }

/-- The firmware's registers after a write of sequencer q, as it stands, lands. -/
def fwAfter (q : Nat) (s : Seq) (w : PWrite) (f : Fw) : Fw :=
  let v : Word := w.data.setWidth 64
  { f with
    fhsa := if w.tgt = .sysreg 0x61 then v else f.fhsa
    frbp := if w.tgt = .sysreg 0x62 then v else f.frbp
    pendFsw := if w.tgt = .sysreg 0x63 then some (q, v) else f.pendFsw
    pendFhb := if w.tgt = .sysreg 0x64 then
        (if f.switching.isSome && decide (bits v.toNat 0 32 = f.ucnt % 2 ^ 32) then some v else f.pendFhb) else f.pendFhb
    pendChk := if w.tgt = .sysreg 0x65 then
        (if f.checking.isSome || f.pendChk.isSome then f.pendChk else some (q, v.toNat, s.opCtr, s.cols.toList.map (·.sdAsg))) else f.pendChk }

/-- Head, tail, published count and tags of the ring. -/
def ringMarks (m : Matrix) : Nat × Nat × Nat × List Nat := (m.head, m.tail, m.np, m.tags)

/-- The empty ring of a view w3 (R174). -/
def emptyRing (w3 : Word) : Nat × Nat × Nat × List Nat := (0, 0, 0, List.replicate (viewCount w3) 0)

/-- What a write to register space leaves there. -/
def spaceAfter (w : PWrite) (s : Seq) : Mem :=
  match w.tgt with
  | .reg a => (s.putSpace a (if w.keep = 0 then (toLe 32 w.data.toNat).zipIdx.map fun e => (e.1, w.en.getLsbD e.2) else regBytes s a w)).space
  | _ => s.space

/-- The store-data entries of a column (R68). -/
def entries (c : Col) : List SdEnt := c.sdq ++ c.held

/-- A store-data entry of column c after a write lands. -/
def entryAfter (c : Nat) (w : PWrite) (g : SdEnt) : SdEnt :=
  { g with data := if w.tgt = .storeData c g.idx then some (w.data, w.en) else g.data }

/-- What the write w of sequencer q leaves of its sequencer and of the firmware's registers. -/
structure Landed (q : Nat) (w : PWrite) (d e : Dev) : Prop where
  regs : (e.seq q).regs = regsAfter w (d.seq q).regs
  fw : e.fw = fwAfter q (d.seq q) w d.fw
  ring : ringMarks (e.seq q).mx = if w.tgt = .view 3 then emptyRing (w.data.setWidth 64) else ringMarks (d.seq q).mx
  space : (e.seq q).space = spaceAfter w (d.seq q)
  place : (e.seq q).place = (d.seq q).place
  pend : (e.seq q).pend = (d.seq q).pend
  opCtr : (e.seq q).opCtr = (d.seq q).opCtr
  assigned : (e.seq q).cols.toList.map (·.sdAsg) = (d.seq q).cols.toList.map (·.sdAsg)
  used : ∀ c, ((e.seq q).col c).sdUsed = ((d.seq q).col c).sdUsed
  /-- an entry that is held has come from one before -/
  held : ∀ c, ∀ f ∈ entries ((e.seq q).col c), ∃ g ∈ entries ((d.seq q).col c), f = entryAfter c w g
  /-- an entry stays, or leaves with its data and the places of all its elements -/
  kept : ∀ c, ∀ g ∈ entries ((d.seq q).col c), entryAfter c w g ∈ entries ((e.seq q).col c)
    ∨ ((entryAfter c w g).data.isSome = true ∧ g.idx < ((d.seq q).col c).sdUsed)

/-! ### System registers (R109) -/

/-- The system registers that a sequencer has of its own, of those that can be written. -/
def ownSysregs : List Nat := [0x0C, 0x0D, 0x10, 0x11, 0x12, 0x17, 0x40, 0x41, 0x48, 0x49, 0x4A, 0x4B, 0x4C, 0x4D, 0x4E, 0x4F]

section sysregs
variable {q n : Nat} {d : Dev} {data : BitVec 256} {en : BitVec 32} {fl : BitVec 6} {rdly : Nat} {keep : Word}

theorem landSysreg_own_seq (hn : n ∈ ownSysregs) :
    (landSysreg q n (data.setWidth 64) d).seq q = { d.seq q with regs := regsAfter ⟨.sysreg n, data, en, fl, rdly, keep⟩ (d.seq q).regs } := by
  simp only [ownSysregs, List.mem_cons, List.not_mem_nil, or_false] at hn
  rcases hn with rfl | rfl | rfl | rfl | rfl | rfl | rfl | rfl | rfl | rfl | rfl | rfl | rfl | rfl | rfl | rfl <;>
    exact (Dev.seq_setSeq ..).trans rfl

theorem landSysreg_own_fw (hn : n ∈ ownSysregs) :
    (landSysreg q n (data.setWidth 64) d).fw = fwAfter q (d.seq q) ⟨.sysreg n, data, en, fl, rdly, keep⟩ d.fw := by
  simp only [ownSysregs, List.mem_cons, List.not_mem_nil, or_false] at hn
  rcases hn with rfl | rfl | rfl | rfl | rfl | rfl | rfl | rfl | rfl | rfl | rfl | rfl | rfl | rfl | rfl | rfl <;> rfl

/-- A write of any other system register leaves all but the firmware's registers. -/
theorem landSysreg_other (hn : n ∉ ownSysregs) :
    landSysreg q n (data.setWidth 64) d = { d with fw := fwAfter q (d.seq q) ⟨.sysreg n, data, en, fl, rdly, keep⟩ d.fw } := by
  simp only [ownSysregs, List.mem_cons, List.not_mem_nil, or_false, not_or] at hn
  obtain ⟨h0C, h0D, h10, h11, h12, h17, h40, h41, h48, h49, h4A, h4B, h4C, h4D, h4E, h4F⟩ := hn
  have hwpa : ¬ (0x48 ≤ n ∧ n ≤ 0x4B) := by omega
  have hwpc : ¬ (0x4C ≤ n ∧ n ≤ 0x4F) := by omega
  by_cases h61 : n = 0x61
  · subst h61; rfl
  by_cases h62 : n = 0x62
  · subst h62; rfl
  by_cases h63 : n = 0x63
  · subst h63; rfl
  by_cases h64 : n = 0x64
  · subst h64
    by_cases hbeat : (d.fw.switching.isSome && decide (bits (data.setWidth 64 : Word).toNat 0 32 = d.fw.ucnt % 2 ^ 32)) = true
    · exact (if_pos hbeat).trans (by simp only [fwAfter, hbeat, if_true]; rfl)
    · exact (if_neg hbeat).trans (by simp only [fwAfter, hbeat]; rfl)
  by_cases h65 : n = 0x65
  · subst h65; rfl
  simp only [landSysreg, fwAfter, Tgt.sysreg.injEq, h0C, h0D, h10, h11, h12, h17, h40, h41, h61, h62, h63, h64, h65, if_false, Bool.and_eq_true,
    decide_eq_true_eq, if_neg hwpa, if_neg hwpc]

theorem regsAfter_other (hn : n ∉ ownSysregs) (r : Regs) : regsAfter ⟨.sysreg n, data, en, fl, rdly, keep⟩ r = r := by
  simp only [ownSysregs, List.mem_cons, List.not_mem_nil, or_false, not_or] at hn
  obtain ⟨h0C, h0D, h10, h11, h12, h17, h40, h41, h48, h49, h4A, h4B, h4C, h4D, h4E, h4F⟩ := hn
  have hwpa : ¬ (0x48 ≤ n ∧ n ≤ 0x4B) := by omega
  have hwpc : ¬ (0x4C ≤ n ∧ n ≤ 0x4F) := by omega
  simp only [regsAfter, landedLoops, List.foldl_cons, List.foldl_nil, Tgt.sysreg.injEq, reduceCtorEq, h0C, h0D, h10, h11, h12, h17, h40, h41,
    if_false, if_neg hwpa, if_neg hwpc]

end sysregs

/-! ### One landing -/

section bits
variable {m : Nat} (x : BitVec m) (lo n : Nat)

theorem ofNat_bits : BitVec.ofNat n (bits x.toNat lo n) = x.extractLsb' lo n := by
  apply BitVec.eq_of_toNat_eq
  simp [bits, Nat.shiftRight_eq_div_pow]

theorem ofNat_low : BitVec.ofNat n x.toNat = x.extractLsb' 0 n := by
  apply BitVec.eq_of_toNat_eq
  simp

end bits

/-- The low half of a scale register replaced. -/
theorem setBits_low (k : BitVec 512) (v : BitVec 256) : BitVec.ofNat 512 (setBits k.toNat 0 256 v.toNat) = k.extractLsb' 256 256 ++ v := by
  apply BitVec.eq_of_toNat_eq
  have hv := v.isLt
  have hk := k.isLt
  rw [BitVec.toNat_append, ← Nat.shiftLeft_add_eq_or_of_lt hv]
  simp only [setBits, bits, pow_zero, Nat.div_one, Nat.mul_one, BitVec.toNat_ofNat, BitVec.extractLsb'_toNat, Nat.shiftRight_eq_div_pow,
    Nat.shiftLeft_eq]
  omega

theorem setBits_high (k : BitVec 512) (v : BitVec 256) : BitVec.ofNat 512 (setBits k.toNat 256 256 v.toNat) = v ++ k.setWidth 256 := by
  apply BitVec.eq_of_toNat_eq
  have hv := v.isLt
  have hk := k.isLt
  rw [BitVec.toNat_append, ← Nat.shiftLeft_add_eq_or_of_lt (BitVec.isLt _)]
  simp only [setBits, bits, BitVec.toNat_ofNat, BitVec.toNat_setWidth, Nat.shiftLeft_eq]
  omega

theorem entryAfter_eq {w : PWrite} (hw : ∀ c i, w.tgt ≠ .storeData c i) (c : Nat) (g : SdEnt) : entryAfter c w g = g := by
  simp only [entryAfter, hw c g.idx, if_false]

/-- What no landing but that of store data changes. -/
structure SameRest (s t : Seq) : Prop where
  place : t.place = s.place
  pend : t.pend = s.pend
  opCtr : t.opCtr = s.opCtr
  cols : t.cols = s.cols

theorem Landed.of_seq {q : Nat} {w : PWrite} {d e : Dev} {t : Seq} (hw : ∀ c i, w.tgt ≠ .storeData c i) (hseq : e.seq q = t)
    (hfw : e.fw = fwAfter q (d.seq q) w d.fw) (hregs : t.regs = regsAfter w (d.seq q).regs)
    (hring : ringMarks t.mx = if w.tgt = .view 3 then emptyRing (w.data.setWidth 64) else ringMarks (d.seq q).mx)
    (hspace : t.space = spaceAfter w (d.seq q)) (hrest : SameRest (d.seq q) t) : Landed q w d e := by
  subst hseq
  have hcol : ∀ c, (e.seq q).col c = (d.seq q).col c := fun c => by simp only [Seq.col, hrest.cols]
  exact {
    regs := hregs, fw := hfw, ring := hring, space := hspace, place := hrest.place, pend := hrest.pend, opCtr := hrest.opCtr
    assigned := by rw [hrest.cols]
    used := fun c => by rw [hcol]
    held := fun c f hf => ⟨f, hcol c ▸ hf, (entryAfter_eq hw c f).symm⟩
    kept := fun c g hg => .inl (by rw [entryAfter_eq hw, hcol]; exact hg) }

theorem Landed.setSeq {q : Nat} {w : PWrite} {d : Dev} {t : Seq} (hw : ∀ c i, w.tgt ≠ .storeData c i) (hsys : ∀ n, w.tgt ≠ .sysreg n)
    (hregs : t.regs = regsAfter w (d.seq q).regs)
    (hring : ringMarks t.mx = if w.tgt = .view 3 then emptyRing (w.data.setWidth 64) else ringMarks (d.seq q).mx)
    (hspace : t.space = spaceAfter w (d.seq q)) (hrest : SameRest (d.seq q) t) : Landed q w d (d.setSeq q t) :=
  .of_seq hw (Dev.seq_setSeq ..) (by simp only [Dev.setSeq_fw, fwAfter, hsys, if_false]) hregs hring hspace hrest

/-! ### Store data (R68, R250) -/

theorem col_modCol (s : Seq) (c k : Nat) (f : Col → Col) : (s.modCol c f).col k = if k = c ∧ c < 4 then f (s.col c) else s.col k := by
  simp only [Seq.modCol, Seq.col, vget_vset]

/-- A change of a column that a part of it does not see. -/
theorem col_modCol_part {α : Type} {π : Col → α} {f : Col → Col} (h : ∀ x, π (f x) = π x) (s : Seq) (c k : Nat) :
    π ((s.modCol c f).col k) = π (s.col k) := by
  rw [col_modCol]
  split
  · next hk => rw [h, hk.1]
  · rfl

theorem cols_modCol_part {α : Type} {π : Col → α} {f : Col → Col} (h : ∀ x, π (f x) = π x) (s : Seq) (c : Nat) :
    (s.modCol c f).cols.toList.map π = s.cols.toList.map π := by
  rw [← Vector.toList_map, ← Vector.toList_map]
  exact congrArg Vector.toList (map_vset_vget s.cols c {} h)

/-- An entry that has its data once entry i has. -/
def fillEntry (i : Nat) (v : BitVec 256) (en : BitVec 32) (e : SdEnt) : SdEnt := if e.idx = i then { e with data := some (v, en) } else e

/-- A column once its entry i has its data. -/
def fillCol (i : Nat) (v : BitVec 256) (en : BitVec 32) (x : Col) : Col :=
  { x with sdq := x.sdq.map (fillEntry i v en), held := x.held.map (fillEntry i v en) }

theorem entries_fillCol (i : Nat) (v : BitVec 256) (en : BitVec 32) (x : Col) : entries (fillCol i v en x) = (entries x).map (fillEntry i v en) := by
  simp only [entries, fillCol, List.map_append]

/-- An entry leaves a column that is trimmed only with its data and the places of all its elements. -/
theorem mem_trimCol {s : Seq} {c k : Nat} {g : SdEnt} (hg : g ∈ entries (s.col k)) :
    g ∈ entries ((trimCol s c).col k) ∨ (g.data.isSome = true ∧ g.idx < (s.col k).sdUsed) := by
  rw [trimCol, col_modCol]
  split
  · next hk =>
    obtain ⟨rfl, -⟩ := hk
    by_cases hdone : g.data.isSome = true ∧ g.idx < (s.col k).sdUsed
    · exact .inr hdone
    · left
      have hstays : (g.data.isSome && decide (g.idx < (s.col k).sdUsed) && !asideEntry s k g.idx) = false := by
        rw [Bool.and_eq_false_iff, Bool.and_eq_false_iff, decide_eq_false_iff_not, ← Bool.not_eq_true]
        tauto
      simp only [entries, List.mem_append] at hg
      simp only [entries, List.mem_append, List.mem_filter, hstays, Bool.not_false, Bool.true_and, and_true, Bool.not_eq_true']
      by_cases hmoves : (g.data.isSome && deferredEntry s k g.idx) = true
      · exact .inr (hg.elim (fun h => .inr ⟨h, hmoves⟩) .inl)
      · exact hg.elim (fun h => .inl ⟨h, by simpa using hmoves⟩) fun h => .inr (.inl h)
  · exact .inl hg

theorem mem_of_trimCol {s : Seq} {c k : Nat} {f : SdEnt} (hf : f ∈ entries ((trimCol s c).col k)) : f ∈ entries (s.col k) := by
  rw [trimCol, col_modCol] at hf
  split at hf
  · next hk =>
    obtain ⟨rfl, -⟩ := hk
    simp only [entries, List.mem_append, List.mem_filter] at hf ⊢
    tauto
  · exact hf

theorem fillEntry_eq (c i : Nat) {w : PWrite} (hw : w.tgt = .storeData c i) (g : SdEnt) : fillEntry i w.data w.en g = entryAfter c w g := by
  by_cases hg : g.idx = i
  · simp [fillEntry, entryAfter, hw, hg]
  · simp [fillEntry, entryAfter, hw, hg, Ne.symm hg]

theorem entryAfter_other {c k i : Nat} {w : PWrite} (hw : w.tgt = .storeData c i) (hk : k ≠ c) (g : SdEnt) : entryAfter k w g = g := by
  simp [entryAfter, hw, Ne.symm hk]

theorem entries_of_ge (s : Seq) {k : Nat} (hk : ¬ k < 4) : entries (s.col k) = [] := by simp [Seq.col, vget, hk, entries]

/-- The entries of every column after store data of column c have landed in them. -/
theorem entries_modCol_fillCol (s : Seq) (c i k : Nat) {w : PWrite} (hw : w.tgt = .storeData c i) :
    entries ((s.modCol c (fillCol i w.data w.en)).col k) = (entries (s.col k)).map (entryAfter k w) := by
  rw [col_modCol]
  split
  · next hk =>
    obtain ⟨rfl, -⟩ := hk
    rw [entries_fillCol]
    exact List.map_congr_left fun g _ => fillEntry_eq k i hw g
  · next hk =>
    by_cases hkc : k = c
    · rw [entries_of_ge s fun h => hk ⟨hkc, hkc ▸ h⟩]
      rfl
    · rw [List.map_congr_left fun g _ => entryAfter_other hw hkc g, List.map_id']

/-- A sequencer whose entry i of column c has its data, before the order goes forward. -/
def dataLanded (q c i : Nat) (v : BitVec 256) (en : BitVec 32) (s : Seq) : Seq :=
  trimCol { s.modCol c (fillCol i v en) with far := s.far.map (Placed.landed q c i v en) } c

theorem landData_undisturbed (q c i : Nat) (v : BitVec 256) (en : BitVec 32) (d : Dev) :
    Undisturbed (d.modSeq q (dataLanded q c i v en)) (landData q c i v en d) := by
  unfold landData
  refine Undisturbed.trans ?_ (Undisturbed.settle _)
  exact Undisturbed.of_eq rfl rfl

/-- A part of a sequencer that reads do not fill in. -/
theorem part_of_unread {α : Type} {π : Seq → α} (h : ∀ s, π (unread s) = π s) {s t : Seq} (hst : unread s = unread t) : π s = π t :=
  (h s).symm.trans ((congrArg π hst).trans (h t))

/-- A part of a column that loads do not fill in. -/
theorem part_of_unread_col {α : Type} {π : Col → α} (h : ∀ x, π (unfilled x) = π x) {s t : Seq} (hst : unread s = unread t) (k : Nat) :
    π (s.col k) = π (t.col k) := by
  rw [← h, ← h (t.col k), ← unread_col, ← unread_col, hst]

theorem assigned_unread (s : Seq) : (unread s).cols.toList.map (·.sdAsg) = s.cols.toList.map (·.sdAsg) := by
  rw [unread, Vector.toList_map, List.map_map]
  rfl

theorem dataLanded_assigned (q c i : Nat) (v : BitVec 256) (en : BitVec 32) (s : Seq) :
    (dataLanded q c i v en s).cols.toList.map (·.sdAsg) = s.cols.toList.map (·.sdAsg) := by
  rw [dataLanded, trimCol, cols_modCol_part]
  case h => exact fun _ => rfl
  exact cols_modCol_part (f := fillCol i v en) (fun _ => rfl) s c

theorem dataLanded_used (q c i k : Nat) (v : BitVec 256) (en : BitVec 32) (s : Seq) :
    ((dataLanded q c i v en s).col k).sdUsed = (s.col k).sdUsed := by
  rw [dataLanded, trimCol, col_modCol_part (π := Col.sdUsed)]
  case h => exact fun _ => rfl
  exact col_modCol_part (π := Col.sdUsed) (f := fillCol i v en) (fun _ => rfl) s c k

theorem regsAfter_storeData {w : PWrite} {c i : Nat} (hw : w.tgt = .storeData c i) (r : Regs) : regsAfter w r = r := by
  simp only [regsAfter, hw, landedLoops, List.foldl_cons, List.foldl_nil, reduceCtorEq, if_false]

theorem fwAfter_storeData {q : Nat} {s : Seq} {w : PWrite} {c i : Nat} (hw : w.tgt = .storeData c i) (f : Fw) : fwAfter q s w f = f := by
  simp only [fwAfter, hw, reduceCtorEq, if_false]

theorem landData_landed (q : Nat) (d : Dev) (w : PWrite) (c i : Nat) (hw : w.tgt = .storeData c i) :
    Landed q w d (landData q c i w.data w.en d) := by
  obtain ⟨hseq, hfw⟩ := landData_undisturbed q c i w.data w.en d
  have hseq := (hseq q).trans (congrArg unread (Dev.seq_modSeq ..))
  have hused := fun k => dataLanded_used q c i k w.data w.en (d.seq q)
  have hassigned := dataLanded_assigned q c i w.data w.en (d.seq q)
  have hfilled := fun k => entries_modCol_fillCol (d.seq q) c i k hw
  have hsub : ∀ k f, f ∈ entries ((dataLanded q c i w.data w.en (d.seq q)).col k) → f ∈ (entries ((d.seq q).col k)).map (entryAfter k w) :=
    fun k f hf => hfilled k ▸ mem_of_trimCol hf
  have hkept : ∀ k f, f ∈ (entries ((d.seq q).col k)).map (entryAfter k w) → f ∈ entries ((dataLanded q c i w.data w.en (d.seq q)).col k)
      ∨ (f.data.isSome = true ∧ f.idx < ((d.seq q).col k).sdUsed) := by
    intro k f hf
    rw [← hfilled k] at hf
    rw [← col_modCol_part (π := Col.sdUsed) (f := fillCol i w.data w.en) (fun _ => rfl) (d.seq q) c k]
    exact mem_trimCol hf
  generalize landData q c i w.data w.en d = e at hseq hfw ⊢
  have hentries := part_of_unread_col (π := entries) (fun _ => rfl) hseq
  exact {
    regs := by
      rw [regsAfter_storeData hw]
      exact (part_of_unread (π := Seq.regs) (fun _ => rfl) hseq).trans rfl
    fw := by
      rw [hfw, fwAfter_storeData hw]
      rfl
    ring := by
      rw [if_neg (by simp [hw])]
      exact (part_of_unread (π := fun s => ringMarks s.mx) (fun _ => rfl) hseq).trans rfl
    space := by
      rw [show spaceAfter w (d.seq q) = (d.seq q).space by simp only [spaceAfter, hw]]
      exact (part_of_unread (π := Seq.space) (fun _ => rfl) hseq).trans rfl
    place := (part_of_unread (π := Seq.place) (fun _ => rfl) hseq).trans rfl
    pend := (part_of_unread (π := Seq.pend) (fun _ => rfl) hseq).trans rfl
    opCtr := (part_of_unread (π := Seq.opCtr) (fun _ => rfl) hseq).trans rfl
    assigned := (part_of_unread (π := fun s => s.cols.toList.map (·.sdAsg)) assigned_unread hseq).trans hassigned
    used := fun k => (part_of_unread_col (π := Col.sdUsed) (fun _ => rfl) hseq k).trans (hused k)
    held := fun k f hf => by
      obtain ⟨g, hg, rfl⟩ := List.mem_map.mp (hsub k f (hentries k ▸ hf))
      exact ⟨g, hg, rfl⟩
    kept := fun k g hg => by
      rw [hentries]
      exact hkept k _ (List.mem_map_of_mem hg) }

theorem landOne_landed (q : Nat) (d : Dev) (w : PWrite) : Landed q w d (landOne q d w) := by
  obtain ⟨tgt, data, en, fl, rdly, keep⟩ := w
  cases tgt with
  | reg a => exact .setSeq (by simp) (by simp) rfl rfl rfl ⟨rfl, rfl, rfl, rfl⟩
  | pred n =>
    by_cases hn : n = 0
    · subst hn
      exact .of_seq (by simp) rfl rfl rfl rfl rfl ⟨rfl, rfl, rfl, rfl⟩
    · have hland : landOne q d ⟨.pred n, data, en, fl, rdly, keep⟩ = _ := if_neg hn
      rw [hland]
      refine .setSeq (by simp) (by simp) ?_ rfl rfl ⟨rfl, rfl, rfl, rfl⟩
      simp only [regsAfter, hn, if_false, ofNat_bits, ofNat_low, Seq.pred]
      rfl
  | view n =>
    refine .setSeq (by simp) (by simp) rfl ?_ rfl ⟨rfl, rfl, rfl, rfl⟩
    by_cases hn : n = 3
    · subst hn
      rfl
    · simp only [hn, if_false, Tgt.view.injEq]
  | base n => exact .setSeq (by simp) (by simp) rfl rfl rfl ⟨rfl, rfl, rfl, rfl⟩
  | mreg n => exact .setSeq (by simp) (by simp) rfl rfl rfl ⟨rfl, rfl, rfl, rfl⟩
  | stage => exact .setSeq (by simp) (by simp) rfl rfl rfl ⟨rfl, rfl, rfl, rfl⟩
  | loopPush =>
    refine .setSeq (by simp) (by simp) ?_ rfl rfl ⟨rfl, rfl, rfl, rfl⟩
    simp only [ofNat_bits, ofNat_low]
    rfl
  | loopSet =>
    refine .setSeq (by simp) (by simp) ?_ rfl rfl ⟨rfl, rfl, rfl, rfl⟩
    simp only [ofNat_bits, ofNat_low]
    rfl
  | loopPop => exact .setSeq (by simp) (by simp) rfl rfl rfl ⟨rfl, rfl, rfl, rfl⟩
  | scaleS n =>
    refine .setSeq (by simp) (by simp) ?_ rfl rfl ⟨rfl, rfl, rfl, rfl⟩
    simp only [setBits_low]
    rfl
  | scaleH n =>
    refine .setSeq (by simp) (by simp) ?_ rfl rfl ⟨rfl, rfl, rfl, rfl⟩
    simp only [setBits_high]
    rfl
  | scaleTab => exact .setSeq (by simp) (by simp) rfl rfl rfl ⟨rfl, rfl, rfl, rfl⟩
  | storeData c i => exact landData_landed q d _ c i rfl
  | sysreg n =>
    by_cases hn : n ∈ ownSysregs
    · exact .of_seq (by simp) (landSysreg_own_seq hn) (landSysreg_own_fw hn) rfl rfl rfl ⟨rfl, rfl, rfl, rfl⟩
    · have hdev := landSysreg_other (q := q) (d := d) (data := data) (en := en) (fl := fl) (rdly := rdly) (keep := keep) hn
      rw [show landOne q d ⟨.sysreg n, data, en, fl, rdly, keep⟩ = _ from hdev]
      exact .of_seq (by simp) rfl rfl (regsAfter_other hn _).symm rfl rfl ⟨rfl, rfl, rfl, rfl⟩

end Sys2Proof.Proofs
end

section
/-! What several writes that land in turn leave of each part of their sequencer and of the firmware's registers (R71, R73). -/

namespace Sys2Proof.Proofs
open Machine Claim

/-! ### Registers -/

/-- The registers after writes that land in this order, but for the flags that they set. -/
def regsLanded (l : List PWrite) (r : Regs) : Regs := l.foldl (fun r w => regsAfter w r) r

/-- What each landing makes of a part of a state by itself, the landings in turn make of it. -/
theorem foldl_part {α β : Type} {π : α → β} {f : α → PWrite → α} {g : β → PWrite → β} (h : ∀ x w, π (f x w) = g (π x) w)
    (l : List PWrite) (x : α) : π (l.foldl f x) = l.foldl g (π x) :=
  (List.foldl_hom π fun x w => (h x w).symm).symm

/-- A register that takes the data of its own writes holds those of the last. -/
theorem regsLanded_part {β : Type} {π : Regs → β} {t : Tgt} {f : BitVec 256 → β}
    (h : ∀ w r, π (regsAfter w r) = if w.tgt = t then f w.data else π r) (l : List PWrite) (r : Regs) :
    π (regsLanded l r) = landed t f l (π r) :=
  foldl_part (fun r w => h w r) l r

/-- A write of a register file, read at a number in range. -/
theorem vget_vset_lt {α : Type} {n k : Nat} (v : Vector α n) (i : Nat) (x dflt : α) (hk : k < n) :
    vget (vset v i x) k dflt = if i = k then x else vget v k dflt := by
  rw [vget_vset]
  by_cases h : i = k
  · subst h
    simp [hk]
  · simp [h, Ne.symm h]

section
variable (l : List PWrite) (r : Regs) {n : Nat}

theorem regsLanded_view (hn : n < 4) : vget (regsLanded l r).views n 0 = landed (.view n) (·.setWidth 64) l (vget r.views n 0) := by
  refine regsLanded_part (π := fun r => vget r.views n 0) (fun w r => ?_) l r
  simp only [regsAfter]
  split
  · next m hm => simp only [hm, vget_vset_lt _ _ _ _ hn, Tgt.view.injEq]
  · next hm => rw [if_neg (hm n)]

theorem regsLanded_base (hn : n < 8) : vget (regsLanded l r).bases n 0 = landed (.base n) (·.setWidth 16) l (vget r.bases n 0) := by
  refine regsLanded_part (π := fun r => vget r.bases n 0) (fun w r => ?_) l r
  simp only [regsAfter]
  split
  · next m hm => simp only [hm, vget_vset_lt _ _ _ _ hn, Tgt.base.injEq]
  · next hm => rw [if_neg (hm n)]

theorem regsLanded_mreg (hn : n < 8) : vget (regsLanded l r).mregs n 0 = landed (.mreg n) (·.setWidth 64) l (vget r.mregs n 0) := by
  refine regsLanded_part (π := fun r => vget r.mregs n 0) (fun w r => ?_) l r
  simp only [regsAfter]
  split
  · next m hm => simp only [hm, vget_vset_lt _ _ _ _ hn, Tgt.mreg.injEq]
  · next hm => rw [if_neg (hm n)]

theorem append_low (a b : BitVec 256) : (a ++ b).setWidth 256 = b := BitVec.setWidth_append_eq_right

theorem append_high (a b : BitVec 256) : (a ++ b).extractLsb' 256 256 = a := BitVec.extractLsb'_append_eq_left

/-- A landing in the upper half of a scale register leaves its lower half, and one in the lower half takes it. -/
theorem regsLanded_scaleS (hn : n < 8) :
    (vget (regsLanded l r).scaleK n 0).setWidth 256 = landed (.scaleS n) id l ((vget r.scaleK n 0).setWidth 256) := by
  refine regsLanded_part (π := fun r => (vget r.scaleK n 0).setWidth 256) (fun w r => ?_) l r
  simp only [regsAfter]
  split
  · next m hm =>
    simp only [hm, vget_vset_lt _ _ _ _ hn, Tgt.scaleS.injEq, apply_ite (BitVec.setWidth 256), append_low, id]
  · next m hm =>
    rw [hm, vget_vset_lt _ _ _ _ hn, apply_ite (BitVec.setWidth 256), append_low, if_neg (show Tgt.scaleH m ≠ .scaleS n by simp)]
    split
    · next h => rw [h]
    · rfl
  · next hm _ => rw [if_neg (hm n)]

theorem regsLanded_scaleH (hn : n < 8) :
    (vget (regsLanded l r).scaleK n 0).extractLsb' 256 256 = landed (.scaleH n) id l ((vget r.scaleK n 0).extractLsb' 256 256) := by
  refine regsLanded_part (π := fun r => (vget r.scaleK n 0).extractLsb' 256 256) (fun w r => ?_) l r
  simp only [regsAfter]
  split
  · next m hm =>
    rw [hm, vget_vset_lt _ _ _ _ hn, apply_ite (BitVec.extractLsb' 256 256), append_high, if_neg (show Tgt.scaleS m ≠ .scaleH n by simp)]
    split
    · next h => rw [h]
    · rfl
  · next m hm =>
    simp only [hm, vget_vset_lt _ _ _ _ hn, Tgt.scaleH.injEq, apply_ite (BitVec.extractLsb' 256 256), append_high, id]
  · next _ hm => rw [if_neg (hm n)]

theorem regsLanded_stage : (regsLanded l r).stage = landed .stage (·.setWidth 16) l r.stage :=
  regsLanded_part (π := Regs.stage) (fun _ _ => rfl) l r

theorem regsLanded_scaleTab : (regsLanded l r).scaleTab = landed .scaleTab id l r.scaleTab :=
  regsLanded_part (π := Regs.scaleTab) (fun _ _ => rfl) l r

theorem regsLanded_loops : (regsLanded l r).loops = landedLoops l r.loops :=
  foldl_part (π := Regs.loops) (fun _ _ => rfl) l r

theorem regsLanded_pred (hn : 1 ≤ n) (hn' : n < 16) : vget (regsLanded l r).preds n 0 = landedPred l n (vget r.preds n 0) := by
  refine foldl_part (π := fun r => vget r.preds n 0) (fun r w => ?_) l r
  simp only [regsAfter]
  split
  · next m hm =>
    simp only [hm, Tgt.pred.injEq]
    by_cases hmn : m = n
    · subst hmn
      rw [if_neg (by omega), if_pos rfl, vget_vset_lt _ _ _ _ hn', if_pos rfl]
    · rw [if_neg hmn]
      split
      · rfl
      · rw [vget_vset_lt _ _ _ _ hn', if_neg hmn]
  · next hm => rw [if_neg (hm n)]

/-! ### System registers (R109) -/

/-- A system register of which every bit is kept. -/
theorem landedSys_whole (k : Nat) (v : Word) : landedSys k (BitVec.allOnes 64) l v = landed (.sysreg k) (·.setWidth 64) l v := by
  simp only [landedSys, BitVec.and_allOnes]

theorem regsLanded_rmc : (regsLanded l r).rmc = landedSys 0x0C (BitVec.allOnes 64) l r.rmc :=
  (regsLanded_part (π := Regs.rmc) (fun _ _ => rfl) l r).trans (landedSys_whole ..).symm

theorem regsLanded_rmv : (regsLanded l r).rmv = landedSys 0x0D 0x00FFFFFFFFFFC001 l r.rmv :=
  regsLanded_part (π := Regs.rmv) (fun _ _ => rfl) l r

theorem regsLanded_fctl : (regsLanded l r).fctl = landedSys 0x10 0x07 l r.fctl :=
  regsLanded_part (π := Regs.fctl) (fun _ _ => rfl) l r

theorem regsLanded_fstat : (regsLanded l r).fstat = landedSys 0x11 0x3F l r.fstat :=
  regsLanded_part (π := Regs.fstat) (fun _ _ => rfl) l r

theorem regsLanded_est : (regsLanded l r).est = landedSys 0x12 0xFF l r.est :=
  regsLanded_part (π := Regs.est) (fun _ _ => rfl) l r

theorem regsLanded_rbk : (regsLanded l r).rbk = landedSys 0x17 (BitVec.allOnes 64) l r.rbk :=
  (regsLanded_part (π := Regs.rbk) (fun _ _ => rfl) l r).trans (landedSys_whole ..).symm

theorem regsLanded_dinj : (regsLanded l r).dinj = landedSys 0x40 0xFFFF00FF0000001F l r.dinj :=
  regsLanded_part (π := Regs.dinj) (fun _ _ => rfl) l r

theorem regsLanded_dfir : (regsLanded l r).dfir = landedSys 0x41 (BitVec.allOnes 64) l r.dfir :=
  (regsLanded_part (π := Regs.dfir) (fun _ _ => rfl) l r).trans (landedSys_whole ..).symm

/-- The registers of a file of four that starts at system register b. -/
theorem vget_fileWrite {v : Vector Word 4} {b m j : Nat} (x : Word) (hj : j < 4) :
    vget (if b ≤ m ∧ m ≤ b + 3 then vset v (m - b) x else v) j 0 = if m = b + j then x else vget v j 0 := by
  by_cases hm : m = b + j
  · subst hm
    rw [if_pos (by omega), if_pos rfl, vget_vset_lt _ _ _ _ hj, if_pos (by omega)]
  · rw [if_neg hm]
    split
    · rw [vget_vset_lt _ _ _ _ hj, if_neg (by omega)]
    · rfl

theorem regsLanded_wpa {j : Nat} (hj : j < 4) :
    vget (regsLanded l r).wpa j 0 = landedSys (0x48 + j) 0x00FFFFFFFFFFFFE0 l (vget r.wpa j 0) := by
  refine regsLanded_part (π := fun r => vget r.wpa j 0) (fun w r => ?_) l r
  simp only [regsAfter]
  split
  · next m hm =>
    simp only [hm, Tgt.sysreg.injEq]
    exact vget_fileWrite _ hj
  · next hm => rw [if_neg (hm _)]

theorem regsLanded_wpc {j : Nat} (hj : j < 4) :
    vget (regsLanded l r).wpc j 0 = landedSys (0x4C + j) 0x3FF l (vget r.wpc j 0) := by
  refine regsLanded_part (π := fun r => vget r.wpc j 0) (fun w r => ?_) l r
  simp only [regsAfter]
  split
  · next m hm =>
    simp only [hm, Tgt.sysreg.injEq]
    exact vget_fileWrite _ hj
  · next hm => rw [if_neg (hm _)]

end

/-! ### What the landings leave of the sequencer -/

/-- Writes of sequencer q land in this order. -/
def landInTurn (q : Nat) (l : List PWrite) (d : Dev) : Dev := l.foldl (landOne q) d

section
variable (q : Nat) (l : List PWrite) (d : Dev)

theorem landInTurn_regs : ((landInTurn q l d).seq q).regs = regsLanded l (d.seq q).regs :=
  foldl_part (π := fun d => (d.seq q).regs) (fun d w => (landOne_landed q d w).regs) l d

theorem landInTurn_pend : ((landInTurn q l d).seq q).pend = (d.seq q).pend :=
  (foldl_part (π := fun d => (d.seq q).pend) (g := fun p _ => p) (fun d w => (landOne_landed q d w).pend) l d).trans (List.foldl_fixed ..)

theorem landInTurn_owned : ((landInTurn q l d).seq q).owned = (d.seq q).owned :=
  (foldl_part (π := fun d => (d.seq q).owned) (f := landOne q) (g := fun p _ => p)
    (fun d w => by simp only [Seq.owned, (landOne_landed q d w).place]) l d).trans (List.foldl_fixed ..)

theorem landInTurn_fhsa : (landInTurn q l d).fw.fhsa = landedSys 0x61 (BitVec.allOnes 64) l d.fw.fhsa :=
  (foldl_part (π := fun d => d.fw.fhsa) (fun d w => by rw [(landOne_landed q d w).fw]; rfl) l d).trans (landedSys_whole ..).symm

theorem landInTurn_frbp : (landInTurn q l d).fw.frbp = landedSys 0x62 (BitVec.allOnes 64) l d.fw.frbp :=
  (foldl_part (π := fun d => d.fw.frbp) (fun d w => by rw [(landOne_landed q d w).fw]; rfl) l d).trans (landedSys_whole ..).symm

theorem landInTurn_pendFsw :
    (landInTurn q l d).fw.pendFsw = landed (.sysreg 0x63) (fun v => some (q, v.setWidth 64)) l d.fw.pendFsw :=
  foldl_part (π := fun d => d.fw.pendFsw) (fun d w => by rw [(landOne_landed q d w).fw]; rfl) l d

/-! ### The ring (R174) -/

theorem landInTurn_ring :
    ringMarks ((landInTurn q l d).seq q).mx = landed (.view 3) (fun v => emptyRing (v.setWidth 64)) l (ringMarks (d.seq q).mx) :=
  foldl_part (π := fun d => ringMarks (d.seq q).mx) (fun d w => (landOne_landed q d w).ring) l d

end

/-- A register to which no write is due holds what it held. -/
theorem landed_of_ne {α : Type} {t : Tgt} {f : BitVec 256 → α} {l : List PWrite} (h : ∀ w ∈ l, w.tgt ≠ t) (v : α) : landed t f l v = v := by
  induction l with
  | nil => rfl
  | cons w l ih =>
    rw [landed, List.foldl_cons, if_neg (h w List.mem_cons_self)]
    exact ih fun w hw => h w (List.mem_cons_of_mem _ hw)

/-- What the last write due leaves of two registers comes of the same data, whatever they held. -/
theorem landed_map {α β : Type} {t : Tgt} {f : BitVec 256 → α} (g : α → β) {l : List PWrite} (h : ∃ w ∈ l, w.tgt = t) (v : β) (u : α) :
    landed t (fun x => g (f x)) l v = g (landed t f l u) := by
  induction l generalizing v u with
  | nil => simp at h
  | cons w l ih =>
    simp only [landed, List.foldl_cons] at ih ⊢
    by_cases hl : ∃ w ∈ l, w.tgt = t
    · exact ih hl _ _
    · have hw : w.tgt = t := by simpa [hl] using h
      have hne : ∀ w ∈ l, w.tgt ≠ t := fun w hw hwt => hl ⟨w, hw, hwt⟩
      rw [if_pos hw, if_pos hw]
      exact (landed_of_ne (f := fun x => g (f x)) hne _).trans (congrArg g (landed_of_ne (f := f) hne _).symm)

/-! ### Register space (R73, R139) -/

/-- A byte of register space after bytes with their enables were written in turn. -/
theorem get_foldl_set (l : List (Byte × Bool)) (a n j k : Nat) (m : Mem) (hm : m.wf = true) (hk : k < n) :
    ((l.zipIdx j).foldl (fun m e => if e.1.2 && decide (a + e.2 < n) then m.set (a + e.2) e.1.1 else m) m).get k
      = if a + j ≤ k then ((l[k - (a + j)]?.filter (·.2)).map (·.1)).getD (m.get k) else m.get k := by
  induction l generalizing j m with
  | nil => simp
  | cons e l ih =>
    rw [List.zipIdx_cons, List.foldl_cons]
    have hwf : (if e.2 && decide (a + j < n) then m.set (a + j) e.1 else m).wf = true := by
      split
      · exact Mem.wf_set hm _ _
      · exact hm
    have hget : (if e.2 && decide (a + j < n) then m.set (a + j) e.1 else m).get k = if k = a + j ∧ e.2 = true then e.1 else m.get k := by
      split
      · next h =>
        simp only [Bool.and_eq_true, decide_eq_true_eq] at h
        simp [Mem.get_set hm, h.1]
      · next h =>
        simp only [Bool.and_eq_true, decide_eq_true_eq] at h
        rw [if_neg (by rintro ⟨rfl, he⟩; exact h ⟨he, hk⟩)]
    rw [ih _ _ hwf, hget]
    rcases Nat.lt_trichotomy k (a + j) with hlt | rfl | hgt
    · simp only [show ¬ a + (j + 1) ≤ k by omega, show ¬ a + j ≤ k by omega, show k ≠ a + j by omega, false_and, if_false]
    · rw [if_neg (show ¬ a + (j + 1) ≤ a + j by omega), if_pos le_rfl, Nat.sub_self, List.getElem?_cons_zero]
      cases he : e.2 <;> simp [Option.filter, he]
    · rw [if_pos (show a + (j + 1) ≤ k by omega), if_pos hgt.le, if_neg (fun h => hgt.ne' h.1),
        show k - (a + j) = k - (a + (j + 1)) + 1 by omega, List.getElem?_cons_succ]

theorem byteAt_putSpace {s : Seq} (hs : s.space.wf = true) (a : Nat) (l : List (Byte × Bool)) {k : Nat} (hk : k < s.owned) :
    (s.putSpace a l).byteAt k = if a ≤ k then ((l[k - a]?.filter (·.2)).map (·.1)).getD (s.byteAt k) else s.byteAt k := by
  have hget := get_foldl_set l a s.owned 0 k s.space hs hk
  simp only [Nat.add_zero] at hget
  simp only [Seq.byteAt, hk, if_true]
  exact (if_pos hk).trans hget

theorem getElem?_toLe (n v i : Nat) : (toLe n v)[i]? = if i < n then some (BitVec.ofNat 8 (v / 2 ^ (8 * i))) else none := by
  induction n generalizing v i with
  | zero => simp [toLe]
  | succ n ih =>
    cases i with
    | zero => simp [toLe]
    | succ i =>
      rw [toLe, List.getElem?_cons_succ, ih, Nat.div_div_eq_div_mul, show 256 * 2 ^ (8 * i) = 2 ^ (8 * (i + 1)) by rw [Nat.mul_add, pow_add]; omega]
      simp

theorem getElem?_toLe_word (x : BitVec 256) (i : Nat) : (toLe 32 x.toNat)[i]? = if i < 32 then some (x.extractLsb' (8 * i) 8) else none := by
  rw [getElem?_toLe]
  congr 2
  apply BitVec.eq_of_toNat_eq
  simp [Nat.shiftRight_eq_div_pow]

end Sys2Proof.Proofs
end

section
/-! The writes due at a bundle's start land (R64, R68, R71, R73). -/

namespace Sys2Proof.Proofs
open Machine Claim

/-! ### Bytes of register space -/

theorem keepMask_zero {w : PWrite} (h : w.keep = 0) (i : Nat) : keepMask w i = 0#8 := by simp [keepMask, h]

theorem byte_nothing_kept (b c : Byte) : (b &&& ~~~0#8) ||| (c &&& 0#8) = b := by
  rw [BitVec.and_zero, BitVec.or_zero, BitVec.not_zero, BitVec.and_allOnes]

/-- A byte that a write of register space reaches: what it leaves there, where it enables it. -/
theorem landedByte_reg {w : PWrite} {a k : Nat} (hw : w.tgt = .reg a) (b : Byte) :
    landedByte [w] k b = if a ≤ k then if k - a < 32 ∧ w.en.getLsbD (k - a) = true then
      (w.data.extractLsb' (8 * (k - a)) 8 &&& ~~~keepMask w (k - a)) ||| (b &&& keepMask w (k - a)) else b else b := by
  simp only [landedByte, List.foldl_cons, List.foldl_nil, hw]
  by_cases ha : a ≤ k
  · simp only [ha, true_and, if_true, show k < a + 32 ↔ k - a < 32 by omega]
  · simp only [ha, false_and, if_false]

/-- The bytes, with their enables, that a write of register space lands. -/
def regWrite (s : Seq) (a : Nat) (w : PWrite) : List (Byte × Bool) :=
  if w.keep = 0 then (toLe 32 w.data.toNat).zipIdx.map fun e => (e.1, w.en.getLsbD e.2) else regBytes s a w

theorem getElem?_spaceBytes (s : Seq) (a n i : Nat) : (s.spaceBytes a n)[i]? = if i < n then some (s.byteAt (a + i)) else none := by
  by_cases h : i < n <;> simp [Seq.spaceBytes, h]

theorem getElem?_regWrite (s : Seq) (a i : Nat) (w : PWrite) : (regWrite s a w)[i]? = if i < 32 then
    some ((w.data.extractLsb' (8 * i) 8 &&& ~~~keepMask w i) ||| (s.byteAt (a + i) &&& keepMask w i), w.en.getLsbD i) else none := by
  unfold regWrite
  split
  · next hkeep =>
    rw [List.getElem?_map, List.getElem?_zipIdx, getElem?_toLe_word, keepMask_zero hkeep, byte_nothing_kept]
    by_cases h : i < 32 <;> simp [h]
  · rw [regBytes, List.getElem?_map, List.getElem?_zipIdx, List.zip, List.getElem?_zipWith, getElem?_toLe_word, getElem?_spaceBytes]
    by_cases h : i < 32 <;> simp [h, keepMask]

theorem byteAt_landOne (q : Nat) (d : Dev) (w : PWrite) {k : Nat} (hs : (d.seq q).space.wf = true) (hk : k < (d.seq q).owned) :
    ((landOne q d w).seq q).byteAt k = landedByte [w] k ((d.seq q).byteAt k) := by
  have hland := landOne_landed q d w
  have hbyte : ((landOne q d w).seq q).byteAt k = { d.seq q with space := spaceAfter w (d.seq q) }.byteAt k := by
    unfold Seq.byteAt Seq.owned
    rw [hland.place, hland.space]
  rw [hbyte]
  unfold spaceAfter
  split
  · next a ha =>
    refine (byteAt_putSpace hs a (regWrite (d.seq q) a w) hk).trans ?_
    rw [landedByte_reg ha, getElem?_regWrite]
    by_cases hak : a ≤ k
    · simp only [hak, if_true, Nat.add_sub_cancel' hak]
      generalize w.en.getLsbD (k - a) = enabled
      by_cases hlt : k - a < 32 <;> cases enabled <;> simp [hlt, Option.filter]
    · simp only [hak, if_false]
  · simp only [landedByte, List.foldl_cons, List.foldl_nil]

theorem landOne_wf (q : Nat) (d : Dev) (w : PWrite) (hs : (d.seq q).space.wf = true) : ((landOne q d w).seq q).space.wf = true := by
  rw [(landOne_landed q d w).space]
  unfold spaceAfter
  split
  · exact putSpace_wf hs _ _
  · exact hs

theorem landInTurn_byteAt (q : Nat) (l : List PWrite) (d : Dev) {k : Nat} (hs : (d.seq q).space.wf = true) (hk : k < (d.seq q).owned) :
    ((landInTurn q l d).seq q).byteAt k = landedByte l k ((d.seq q).byteAt k) := by
  induction l generalizing d with
  | nil => rfl
  | cons w l ih =>
    have howned : k < ((landOne q d w).seq q).owned := by
      have h := landInTurn_owned q [w] d
      rw [landInTurn, List.foldl_cons, List.foldl_nil] at h
      rwa [h]
    exact (ih _ (landOne_wf q d w hs) howned).trans (congrArg (landedByte l k) (byteAt_landOne q d w hs hk))

/-! ### The check that is wanted (R397) -/

section
variable (q : Nat) (l : List PWrite) (d : Dev)

/-- A check that is wanted stays so. -/
theorem landInTurn_pendChk_some {p : Nat × Nat × Nat × List Nat} (h : d.fw.pendChk = some p) : (landInTurn q l d).fw.pendChk = some p := by
  induction l generalizing d with
  | nil => exact h
  | cons w l ih =>
    refine ih (landOne q d w) ?_
    rw [(landOne_landed q d w).fw]
    simp only [fwAfter, h, Option.isSome_some, Bool.or_true, if_true, ite_self]

/-- While no check is wanted or runs, the first write of fchk is the one that is wanted. -/
theorem landInTurn_pendChk {w : PWrite} (hrun : d.fw.checking = none) (hwant : d.fw.pendChk = none)
    (hw : l.find? (fun w => decide (w.tgt = .sysreg 0x65)) = some w) : (landInTurn q l d).fw.pendChk
      = some (q, (w.data.setWidth 64).toNat, (d.seq q).opCtr, (d.seq q).cols.toList.map (·.sdAsg)) := by
  induction l generalizing d with
  | nil => cases hw
  | cons v l ih =>
    have hland := landOne_landed q d v
    by_cases hv : v.tgt = .sysreg 0x65
    · obtain rfl : v = w := by simpa [hv] using hw
      refine landInTurn_pendChk_some q l _ ?_
      simp [hland.fw, fwAfter, hv, hrun, hwant]
    · rw [← hland.opCtr, ← hland.assigned]
      refine ih (landOne q d v) ?_ ?_ ?_
      · rw [hland.fw]
        exact hrun
      · rw [hland.fw]
        exact (if_neg hv).trans hwant
      · simpa [hv] using hw

/-! ### Store data (R68) -/

/-- A store-data entry of column c after writes that land in this order. -/
def entryLanded (c : Nat) (l : List PWrite) (g : SdEnt) : SdEnt := l.foldl (fun g w => entryAfter c w g) g

variable (c : Nat) (g : SdEnt)

theorem entryLanded_idx : (entryLanded c l g).idx = g.idx :=
  (foldl_part (π := SdEnt.idx) (f := fun g w => entryAfter c w g) (g := fun i _ => i) (fun _ _ => rfl) l g).trans (List.foldl_fixed ..)

theorem entryLanded_data : (entryLanded c l g).data
    = l.foldl (fun v w => if w.tgt = .storeData c g.idx then some (w.data, w.en) else v) g.data := by
  induction l generalizing g with
  | nil => rfl
  | cons w l ih => exact ih (entryAfter c w g)

/-- An entry has data only where it had or one of the writes has brought them. -/
theorem data_of_entryLanded (h : (entryAfter c w g).data.isSome = true) : g.data.isSome = true ∨ w.tgt = .storeData c g.idx := by
  by_cases hw : w.tgt = .storeData c g.idx
  · exact .inr hw
  · exact .inl (by simpa [entryAfter, hw] using h)

theorem landInTurn_held {f : SdEnt} (hf : f ∈ entries (((landInTurn q l d).seq q).col c)) :
    ∃ g ∈ entries ((d.seq q).col c), f = entryLanded c l g := by
  induction l generalizing d with
  | nil => exact ⟨f, hf, rfl⟩
  | cons w l ih =>
    obtain ⟨h, hh, rfl⟩ := ih (landOne q d w) hf
    obtain ⟨g, hg, rfl⟩ := (landOne_landed q d w).held c h hh
    exact ⟨g, hg, rfl⟩

/-- An entry stays, or leaves with its data and the places of all its elements. -/
theorem landInTurn_kept (hg : g ∈ entries ((d.seq q).col c)) : entryLanded c l g ∈ entries (((landInTurn q l d).seq q).col c)
    ∨ ((g.data.isSome = true ∨ ∃ w ∈ l, w.tgt = .storeData c g.idx) ∧ g.idx < ((d.seq q).col c).sdUsed) := by
  induction l generalizing d g with
  | nil => exact .inl hg
  | cons w l ih =>
    have hland := landOne_landed q d w
    have hdata : (entryAfter c w g).data.isSome = true → g.data.isSome = true ∨ ∃ v ∈ w :: l, v.tgt = .storeData c g.idx := fun h =>
      (data_of_entryLanded c g h).imp_right fun hw => ⟨w, List.mem_cons_self, hw⟩
    rcases hland.kept c g hg with hstays | ⟨hfull, hplaced⟩
    · refine (ih (landOne q d w) (entryAfter c w g) hstays).imp_right fun ⟨hfull, hplaced⟩ => ⟨?_, hland.used c ▸ hplaced⟩
      rcases hfull with hfull | ⟨v, hv, hvt⟩
      · exact hdata hfull
      · exact .inr ⟨v, List.mem_cons_of_mem _ hv, hvt⟩
    · exact .inr ⟨hdata hfull, hplaced⟩

end

/-! ### The start of a bundle (R71) -/

/-- The pending writes of a sequencer that are due. -/
def dueWrites (s : Seq) : List PWrite := s.pend.filter fun w => decide (w.rdly = 0)

/-- The device once the due writes of sequencer q have left its pending ones. -/
def dueTaken (q : Nat) (d : Dev) : Dev := d.setSeq q { d.seq q with pend := (d.seq q).pend.filter fun w => decide (w.rdly ≠ 0) }

/-- A sequencer after flags have landed. -/
def withFlags (f : BitVec 6) (s : Seq) : Seq := { s with regs := { s.regs with fstat := landFlags s.regs.fstat f } }

theorem withFlags_zero (s : Seq) : withFlags 0 s = s := by simp [withFlags, landFlags]

section
variable (q : Nat) (d : Dev)

/-- Writes land in turn, and then their flags. -/
theorem landList_seq (l : List PWrite) : (landList q l d).seq q = withFlags (flagsOr (l.map (·.flags))) ((landInTurn q l d).seq q) := by
  by_cases h : flagsOr (l.map (·.flags)) = 0
  · have hland : landList q l d = landInTurn q l d := if_pos h
    rw [hland, h, withFlags_zero]
  · have hland : landList q l d = _ := if_neg h
    rw [hland]
    exact Dev.seq_setSeq ..

theorem landList_fw (l : List PWrite) : (landList q l d).fw = (landInTurn q l d).fw := by
  by_cases h : flagsOr (l.map (·.flags)) = 0
  · have hland : landList q l d = landInTurn q l d := if_pos h
    rw [hland]
  · have hland : landList q l d = _ := if_neg h
    rw [hland]
    rfl

theorem landDue_seq : (landDue q d).seq q
    = withFlags (flagsOr ((dueWrites (d.seq q)).map (·.flags))) ((landInTurn q (dueWrites (d.seq q)) (dueTaken q d)).seq q) :=
  landList_seq ..

theorem landDue_fw : (landDue q d).fw = (landInTurn q (dueWrites (d.seq q)) (dueTaken q d)).fw := landList_fw ..

theorem dueTaken_seq : (dueTaken q d).seq q = { d.seq q with pend := (d.seq q).pend.filter fun w => decide (w.rdly ≠ 0) } := Dev.seq_setSeq ..

/-- The registers at a bundle's start, but for the flags that land. -/
theorem landDue_regs : ((landDue q d).seq q).regs = { regsLanded (dueWrites (d.seq q)) (d.seq q).regs with
    fstat := landFlags (regsLanded (dueWrites (d.seq q)) (d.seq q).regs).fstat (flagsOr ((dueWrites (d.seq q)).map (·.flags))) } := by
  rw [landDue_seq, withFlags, landInTurn_regs, dueTaken_seq]

theorem landDue_ring : ringMarks ((landDue q d).seq q).mx
    = landed (.view 3) (fun v => emptyRing (v.setWidth 64)) (dueWrites (d.seq q)) (ringMarks (d.seq q).mx) := by
  have h := landInTurn_ring q (dueWrites (d.seq q)) (dueTaken q d)
  rw [dueTaken_seq] at h
  rw [landDue_seq]
  exact h

theorem landDue_ring_of_view (h : ∃ w ∈ dueWrites (d.seq q), w.tgt = .view 3) :
    ringMarks ((landDue q d).seq q).mx = emptyRing (vget ((landDue q d).seq q).regs.views 3 0) := by
  rw [landDue_ring, landDue_regs, regsLanded_view _ _ (by decide)]
  exact landed_map emptyRing h _ _

theorem landDue_byteAt {k : Nat} (hs : (d.seq q).space.wf = true) (hk : k < (d.seq q).owned) :
    ((landDue q d).seq q).byteAt k = landedByte (dueWrites (d.seq q)) k ((d.seq q).byteAt k) := by
  have h := landInTurn_byteAt q (dueWrites (d.seq q)) (dueTaken q d) (k := k) (by rw [dueTaken_seq]; exact hs) (by rw [dueTaken_seq]; exact hk)
  rw [dueTaken_seq] at h
  rw [landDue_seq]
  exact h

theorem landDue_pend : ((landDue q d).seq q).pend = (d.seq q).pend.filter fun w => decide (w.rdly ≠ 0) := by
  rw [landDue_seq, withFlags, landInTurn_pend, dueTaken_seq]

theorem landDue_pendChk {w : PWrite} (hrun : d.fw.checking = none) (hwant : d.fw.pendChk = none)
    (hw : (dueWrites (d.seq q)).find? (fun w => decide (w.tgt = .sysreg 0x65)) = some w) :
    (landDue q d).fw.pendChk = some (q, (w.data.setWidth 64).toNat, (d.seq q).opCtr, (d.seq q).cols.toList.map (·.sdAsg)) := by
  rw [landDue_fw, landInTurn_pendChk q _ (dueTaken q d) hrun hwant hw, dueTaken_seq]

theorem landDue_held (c : Nat) {f : SdEnt} (hf : f ∈ entries (((landDue q d).seq q).col c)) :
    ∃ g ∈ entries ((d.seq q).col c), g.idx = f.idx
      ∧ f.data = (dueWrites (d.seq q)).foldl (fun v w => if w.tgt = .storeData c f.idx then some (w.data, w.en) else v) g.data := by
  rw [landDue_seq] at hf
  obtain ⟨g, hg, rfl⟩ := landInTurn_held q _ (dueTaken q d) c hf
  rw [dueTaken_seq] at hg
  exact ⟨g, hg, (entryLanded_idx ..).symm, by rw [entryLanded_data, entryLanded_idx]⟩

theorem landDue_left (c : Nat) {g : SdEnt} (hg : g ∈ entries ((d.seq q).col c))
    (hleft : ∀ f ∈ entries (((landDue q d).seq q).col c), f.idx ≠ g.idx) :
    (g.data.isSome = true ∨ ∃ w ∈ dueWrites (d.seq q), w.tgt = .storeData c g.idx) ∧ g.idx < ((d.seq q).col c).sdUsed := by
  rw [landDue_seq] at hleft
  have hkept := landInTurn_kept q (dueWrites (d.seq q)) (dueTaken q d) c g (by rw [dueTaken_seq]; exact hg)
  rw [dueTaken_seq] at hkept
  rcases hkept with hstays | hdone
  · exact absurd (entryLanded_idx ..) (hleft _ hstays)
  · exact hdone

end

/-- Settles O7: one landing's effect on each part of the sequencer (`landOne_landed`), and by induction that of all due writes in turn. -/
theorem pendingWritesLand : Obligations.PendingWritesLand := by
  unfold Obligations.PendingWritesLand
  intro d q x due e y
  have hregs : y.regs = _ := landDue_regs q d
  have hfw : e.fw = _ := landDue_fw q d
  refine ⟨fun hs k hk => landDue_byteAt q d hs hk, landDue_pend q d, ?preds, rfl, ?stage, ?views, ?emptied, ?ringKept, ?files, ?scaleTab,
    ?loops, ?rmc, ?rmv, ?fctl, ?est, ?fstat, ?rbk, ?dinj, ?dfir, ?watch, ?fhsa, ?frbp, ?fsw, fun hrun hwant w => landDue_pendChk q d hrun hwant,
    fun c f => landDue_held q d c, fun c g => landDue_left q d c, rfl, rfl, rfl⟩
  case preds =>
    intro n hn hn'
    have hpred : ∀ s : Seq, s.pred n = vget s.regs.preds n 0 := fun s => if_neg (by omega)
    rw [hpred, hpred, hregs]
    exact regsLanded_pred _ _ hn hn'
  case emptied =>
    intro h
    simpa only [ringMarks, emptyRing, Prod.mk.injEq] using landDue_ring_of_view q d h
  case ringKept =>
    intro h
    simpa only [ringMarks, Prod.mk.injEq] using (landDue_ring q d).trans (landed_of_ne h _)
  case views =>
    intro n hn
    rw [hregs]
    exact regsLanded_view _ _ hn
  case files =>
    intro n hn
    rw [hregs]
    exact ⟨regsLanded_base _ _ hn, regsLanded_mreg _ _ hn, regsLanded_scaleS _ _ hn, regsLanded_scaleH _ _ hn⟩
  case watch =>
    intro j hj
    rw [hregs]
    exact ⟨regsLanded_wpa _ _ hj, regsLanded_wpc _ _ hj⟩
  case fstat =>
    rw [hregs]
    exact congrArg (landFlags · _) (regsLanded_fstat _ _)
  case stage => rw [hregs]; exact regsLanded_stage _ _
  case scaleTab => rw [hregs]; exact regsLanded_scaleTab _ _
  case loops => rw [hregs]; exact regsLanded_loops _ _
  case rmc => rw [hregs]; exact regsLanded_rmc _ _
  case rmv => rw [hregs]; exact regsLanded_rmv _ _
  case fctl => rw [hregs]; exact regsLanded_fctl _ _
  case est => rw [hregs]; exact regsLanded_est _ _
  case rbk => rw [hregs]; exact regsLanded_rbk _ _
  case dinj => rw [hregs]; exact regsLanded_dinj _ _
  case dfir => rw [hregs]; exact regsLanded_dfir _ _
  case fhsa => rw [hfw]; exact landInTurn_fhsa q _ _
  case frbp => rw [hfw]; exact landInTurn_frbp q _ _
  case fsw => rw [hfw]; exact landInTurn_pendFsw q _ _

end Sys2Proof.Proofs
end

section
/-! A word of disjoint fields: what is read of it, and that its fields in their places are the word again (R81, R284). -/

namespace Sys2Proof.Proofs

/-- A word with v put in at bit p. -/
def putField (b v p : Nat) : Nat := b + v * 2 ^ p

@[simp] theorem pack_cons (b v p : Nat) (l : List (Nat × Nat)) : pack b ((v, p) :: l) = pack (putField b v p) l := rfl
@[simp] theorem pack_nil (b : Nat) : pack b [] = b := rfl

/-! ### Reading a field (R81) -/

theorem fld_lt (w lo n : Nat) : fld w lo n < 2 ^ n := Nat.mod_lt _ (by positivity)

/-- A number put in at bits that are free carries into no bit above them. -/
theorem putField_div {b v p k lo : Nat} (hv : v < 2 ^ k) (hb : fld b p k = 0) (h : p + k ≤ lo) : putField b v p / 2 ^ lo = b / 2 ^ lo := by
  obtain ⟨j, rfl⟩ := Nat.exists_eq_add_of_le h
  have hfree : b / 2 ^ p = 2 ^ k * (b / 2 ^ p / 2 ^ k) := by
    have := Nat.div_add_mod (b / 2 ^ p) (2 ^ k)
    rw [fld] at hb
    omega
  simp only [pow_add, ← Nat.div_div_eq_div_mul, putField, Nat.add_mul_div_right _ _ (show 0 < 2 ^ p by positivity)]
  congr 1
  rw [hfree, Nat.mul_add_div (by positivity), Nat.div_eq_of_lt hv, Nat.mul_div_cancel_left _ (by positivity), Nat.add_zero]

theorem fld_putField_below {b v p lo n : Nat} (h : lo + n ≤ p) : fld (putField b v p) lo n = fld b lo n := by
  obtain ⟨j, rfl⟩ := Nat.exists_eq_add_of_le h
  rw [fld, fld, putField, show v * 2 ^ (lo + n + j) = v * 2 ^ j * 2 ^ n * 2 ^ lo by ring, Nat.add_mul_div_right _ _ (by positivity),
    Nat.add_mul_mod_self_right]

theorem fld_putField_above {b v p k lo n : Nat} (hv : v < 2 ^ k) (hb : fld b p k = 0) (h : p + k ≤ lo) :
    fld (putField b v p) lo n = fld b lo n := by
  rw [fld, fld, putField_div hv hb h]

theorem fld_putField_same {b v p n : Nat} (hv : v < 2 ^ n) (hb : fld b p n = 0) : fld (putField b v p) p n = v := by
  rw [fld] at hb
  rw [fld, putField, Nat.add_mul_div_right _ _ (by positivity), Nat.add_mod, hb, Nat.zero_add, Nat.mod_mod, Nat.mod_eq_of_lt hv]

/-- What n bits from bit lo on are after v, k bits wide, was put in at bit p: what they were, or v, where its bits were free. -/
@[simp] def readPut (b v k p lo n : Nat) : Nat :=
  if lo + n ≤ p then fld b lo n
  else if p + k ≤ lo ∧ fld b p k = 0 then fld b lo n
  else if lo = p ∧ k ≤ n ∧ fld b p n = 0 then v
  else putField b v p / 2 ^ lo % 2 ^ n

theorem fld_putField {v k : Nat} (hv : v < 2 ^ k) (b p lo n : Nat) : fld (putField b v p) lo n = readPut b v k p lo n := by
  unfold readPut
  split
  · next h => exact fld_putField_below h
  split
  · next h => exact fld_putField_above hv h.2 h.1
  split
  · next h =>
    obtain ⟨rfl, hk, hb⟩ := h
    exact fld_putField_same (hv.trans_le (Nat.pow_le_pow_right (by decide) hk)) hb
  · rfl

theorem lt_of_fld_eq_zero {w lo : Nat} (h : ∀ n, fld w lo n = 0) : w < 2 ^ lo := by
  have hw := h w
  rw [fld, Nat.mod_eq_of_lt ((Nat.div_le_self ..).trans_lt Nat.lt_two_pow_self)] at hw
  exact Nat.lt_of_div_eq_zero (by positivity) hw

@[simp] theorem fld_ofNat (b lo n : Nat) : fld (no_index (OfNat.ofNat b)) lo n = OfNat.ofNat b / 2 ^ lo % 2 ^ n := rfl

/-! ### The operand types and their fields (R67, R36, R86) -/

theorem opnd_toField_lt (a : Opnd) : a.toField < 2 ^ 7 := by
  cases a with
  | elem n => exact n.isLt.trans (by decide)
  | queue q => simp only [Opnd.toField]; omega
  | rot odd n => cases odd <;> simp only [Opnd.toField, Bool.toNat_false, Bool.toNat_true] <;> omega

@[simp] theorem opnd_ofField_toField (a : Opnd) : Opnd.ofField a.toField = a := by
  cases a with
  | elem n => simp [Opnd.toField, Opnd.ofField, n.isLt]
  | queue q => fin_cases q <;> rfl
  | rot odd n => fin_cases n <;> cases odd <;> rfl

theorem opnd_toField_ofField {f : Nat} (h : f < 2 ^ 7) : (Opnd.ofField f).toField = f := by
  unfold Opnd.ofField
  split
  · rfl
  split
  · simp only [Opnd.toField]; omega
  · by_cases hb : 32 ≤ f % 64
    · simp only [Opnd.toField, hb, decide_true, Bool.toNat_true]; omega
    · simp only [Opnd.toField, hb, decide_false, Bool.toNat_false]; omega

theorem opnd_toField_fld (w lo : Nat) : (Opnd.ofField (fld w lo 7)).toField = fld w lo 7 := opnd_toField_ofField (fld_lt ..)

theorem fmt_toField_lt (f : Fmt) : f.toField < 2 ^ 4 := by cases f <;> decide

@[simp] theorem fmt_ofField_toField (f : Fmt) : Fmt.ofField f.toField = f := by cases f <;> rfl

theorem fmt_toField_ofField {f : Nat} (h : f < 15) : (Fmt.ofField f).toField = f := by interval_cases f <;> rfl

@[simp] theorem accepts_toField (l : List Fmt) (f : Fmt) : Fmt.accepts l f.toField = l.contains f := by
  rw [Fmt.accepts, fmt_ofField_toField]
  cases f <;> rfl

theorem accepts_iff {l : List Fmt} {f : Nat} : Fmt.accepts l f = true ↔ f < 15 ∧ l.contains (Fmt.ofField f) = true := by
  simp only [Fmt.accepts, Bool.and_eq_true, decide_eq_true_eq]

@[simp] theorem decide_toNat_eq_one (m : Bool) : decide (m.toNat = 1) = m := by cases m <;> rfl

@[simp] theorem toNat_lt_of_le {k m : Nat} (x : BitVec k) (h : 2 ^ k ≤ m) : x.toNat < m := x.isLt.trans_le h

@[simp] theorem toNat_le_one (x : BitVec 1) : x.toNat ≤ 1 := Nat.le_of_lt_succ x.isLt

theorem flag_toNat (w lo : Nat) : (flag w lo).toNat = fld w lo 1 := by
  have hlt := fld_lt w lo 1
  by_cases h : fld w lo 1 = 1
  · simp [flag, h]
  · simp only [flag, h, decide_false, Bool.toNat_false]; omega

theorem fld_mod {w lo n m : Nat} (h : 2 ^ n ≤ m) : fld w lo n % m = fld w lo n := Nat.mod_eq_of_lt ((fld_lt ..).trans_le h)

section
variable (b p lo n : Nat)

@[simp] theorem fld_putField_bitVec {k : Nat} (x : BitVec k) : fld (putField b x.toNat p) lo n = readPut b x.toNat k p lo n :=
  fld_putField x.isLt ..
@[simp] theorem fld_putField_opnd (x : Opnd) : fld (putField b x.toField p) lo n = readPut b x.toField 7 p lo n :=
  fld_putField (opnd_toField_lt x) ..
@[simp] theorem fld_putField_fmt (x : Fmt) : fld (putField b x.toField p) lo n = readPut b x.toField 4 p lo n :=
  fld_putField (fmt_toField_lt x) ..
@[simp] theorem fld_putField_bool (x : Bool) : fld (putField b x.toNat p) lo n = readPut b x.toNat 1 p lo n :=
  fld_putField x.toNat_lt ..

end

/-! ### A word from its fields -/

/-- What stands from bit k on. -/
def rest (w k : Nat) : Nat := w / 2 ^ k

theorem rest_zero (w : Nat) : rest w 0 = w := Nat.div_one w

theorem fld_add_rest (w lo n : Nat) : fld w lo n + rest w (lo + n) * 2 ^ n = rest w lo := by
  rw [fld, rest, rest, pow_add, ← Nat.div_div_eq_div_mul, Nat.mul_comm]
  exact Nat.mod_add_div ..

theorem fld_eq_iff (w lo n c : Nat) : fld w lo n = c ↔ rest w lo = c + rest w (lo + n) * 2 ^ n := by
  have h := fld_add_rest w lo n
  omega

/-- Putting a word's field in its place adds what stands from its lowest bit on and takes what stands above it away: over all fields of
a word the sum telescopes. -/
theorem putField_fld_add (b w lo n x y : Nat) : putField b (fld w lo n) lo + x = w + y
    ↔ b + (rest w lo * 2 ^ lo + x) = w + (rest w (lo + n) * 2 ^ (lo + n) + y) := by
  have h : rest w lo * 2 ^ lo = fld w lo n * 2 ^ lo + rest w (lo + n) * 2 ^ (lo + n) := by
    rw [← fld_add_rest w lo n, pow_add]
    ring
  rw [putField]
  omega

end Sys2Proof.Proofs
end

section
/-! Reading the word of a well-formed instruction gives the instruction back, family by family of the two encoding tables (R83, R284). -/

namespace Sys2Proof.Proofs

/-- The decoder reads the instruction back from its word, if it has one and is well formed. -/
def Reads (enc : Instr → Option Nat) (dec : Nat → Option Instr) (i : Instr) : Prop :=
  ∀ w, WellFormed i → enc i = some w → w < 2 ^ 32 ∧ dec w = some i

abbrev CoreReads : Instr → Prop := Reads encodeCore decCoreMajor
abbrev NearReads : Instr → Prop := Reads encodeNear decodeNear

section
variable {enc : Instr → Option Nat} {dec : Nat → Option Instr} {i : Instr}

theorem reads_of_none (h : enc i = none) : Reads enc dec i := by
  intro w _ hw
  rw [h] at hw
  cases hw

/-- A decoder sees only the fields of a word. -/
theorem reads_of_fields {v : Nat} (he : enc i = some v) (hend : ∀ n, fld v 32 n = 0)
    (hdec : ∀ w, (∀ lo n, fld w lo n = fld v lo n) → WellFormed i → dec w = some i) : Reads enc dec i := by
  intro w hi hw
  obtain rfl : v = w := Option.some.inj (he.symm.trans hw)
  exact ⟨lt_of_fld_eq_zero hend, hdec v (fun _ _ => rfl) hi⟩

end

/-- Majors 0x00 to 0x03: control. -/
theorem coreReads_control :
    (∀ n, CoreReads (.nop n))
    ∧ (∀ i ∈ [Instr.halt, .lpop], CoreReads i)
    ∧ (∀ op ∈ [Instr.bkpt, .trap], ∀ c m, CoreReads (op c m))
    ∧ (∀ op ∈ [Instr.safe, .hopt], ∀ k, CoreReads (op k))
    ∧ (∀ op ∈ [Instr.brT, .brF], ∀ p l t, CoreReads (op p l t))
    ∧ (∀ op ∈ [Instr.brAny, .brNone, .brAll, .brNall], ∀ p t, CoreReads (op p t))
    ∧ (∀ op ∈ [Instr.jmp, .ret], ∀ a m, CoreReads (op a m))
    ∧ (∀ d a m, CoreReads (.call d a m))
    ∧ (∀ d n m, CoreReads (.jtab d n m))
    ∧ (∀ a n t, CoreReads (.loop a n t))
    ∧ (∀ c n t, CoreReads (.loopi c n t))
    ∧ (∀ n, CoreReads (.endl n))
    ∧ (∀ op ∈ [Instr.mvi, .mvtc], ∀ d n, CoreReads (op d n)) := by
  simp only [List.forall_mem_cons, List.not_mem_nil, IsEmpty.forall_iff, implies_true, and_true]
  and_intros
  all_goals
    intros
    refine reads_of_fields rfl (by simp) fun w hf hi => ?_
    simp only [WellFormed, instrWf, decide_eq_true_eq] at hi
    simp [decCoreMajor, decCore00, decCore01, decCore02, decCore03, need, flag, hf, hi]

/-- Majors 0x04 and 0x05: predicates and compares. -/
theorem coreReads_predicates :
    (∀ op ∈ [Instr.pand, .por, .pxor, .pandn], ∀ d a b m, CoreReads (op d a b m))
    ∧ (∀ op ∈ [Instr.pnot, .pst], ∀ d a m, CoreReads (op d a m))
    ∧ (∀ op ∈ [Instr.pfirst, .pfs], ∀ d a m, CoreReads (op d a m))
    ∧ (∀ d a m, CoreReads (.spf d a m))
    ∧ (∀ op ∈ [Instr.stw, .str], ∀ a m, CoreReads (op a m))
    ∧ (∀ op ∈ [Instr.ceq, .cne, .clt, .cle, .cltu, .cleu, .ctst], ∀ d a b m, CoreReads (op d a b m)) := by
  simp only [List.forall_mem_cons, List.not_mem_nil, IsEmpty.forall_iff, implies_true, and_true]
  and_intros
  all_goals
    intros
    refine reads_of_fields rfl (by simp) fun w hf _ => ?_
    simp [decCoreMajor, decCore04, decCore05, need, flag, hf]

/-- Majors 0x06 to 0x09: scalars. -/
theorem coreReads_scalars :
    (∀ op ∈ [Instr.add, .sub, .mul, .mulh, .mulhu, .and, .or, .xor, .andn, .shl, .shr, .sar, .min, .max, .minu, .maxu, .div, .divu, .rem,
        .remu], ∀ d a b m, CoreReads (op d a b m))
    ∧ (∀ op ∈ [Instr.addi, .andi, .ori], ∀ d a i, CoreReads (op d a i))
    ∧ (∀ op ∈ [Instr.shli, .shri, .sari], ∀ d a n, CoreReads (op d a n))
    ∧ (∀ d i, CoreReads (.movi d i))
    ∧ (∀ d h c, CoreReads (.lui d h c))
    ∧ (∀ op ∈ [Instr.clz, .popc, .ctz], ∀ d a m, CoreReads (op d a m)) := by
  simp only [List.forall_mem_cons, List.not_mem_nil, IsEmpty.forall_iff, implies_true, and_true]
  and_intros
  all_goals
    intros
    refine reads_of_fields rfl (by simp) fun w hf _ => ?_
    simp [decCoreMajor, decCore06, decCore07, decCore08, decCore09, need, flag, hf]

/-- Majors 0x0A to 0x0C: bases, views, system registers and streams. -/
theorem coreReads_views :
    (∀ d a m, CoreReads (.setb d a m))
    ∧ (∀ d i m, CoreReads (.setbi d i m))
    ∧ (∀ d a m, CoreReads (.setv d a m))
    ∧ (∀ op ∈ [Instr.rdsr, .wrsr], ∀ d r m, CoreReads (op d r m))
    ∧ (∀ op ∈ [Instr.ld, .ldCnt, .ldFe, .ldFec], ∀ e p a b, CoreReads (op e p a b))
    ∧ (∀ op ∈ [Instr.st, .stCf, .stFf, .stFs], ∀ e a b, CoreReads (op e a b)) := by
  simp only [List.forall_mem_cons, List.not_mem_nil, IsEmpty.forall_iff, implies_true, and_true]
  and_intros
  all_goals
    intros
    refine reads_of_fields rfl (by simp) fun w hf hi => ?_
    simp only [WellFormed, instrWf, decide_eq_true_eq] at hi
    simp [decCoreMajor, decCore0A, decCore0B, decCore0C, need, flag, hf, hi]

/-- Majors 0x0D to 0x10: atomics, waits, counters and scale loads. -/
theorem coreReads_atomics :
    (∀ op ∈ [Instr.aswap, .aadd, .aand, .aor, .axor, .amin, .amax, .aminu, .amaxu, .acas], ∀ d a s w n, CoreReads (op d a s w n))
    ∧ (∀ s m, CoreReads (.fence s m))
    ∧ (∀ op ∈ [Instr.mwaitNe, .mwaitGeu], ∀ d a b m, CoreReads (op d a b m))
    ∧ (∀ op ∈ [Instr.preq, .cinc], ∀ a b m, CoreReads (op a b m))
    ∧ (∀ op ∈ [Instr.smap, .smape], ∀ d a b m, CoreReads (op d a b m))
    ∧ (∀ a m, CoreReads (.csnap a m))
    ∧ (∀ op ∈ [Instr.ldkS, .ldkH], ∀ d a, CoreReads (op d a))
    ∧ (∀ a, CoreReads (.ldkt a)) := by
  simp only [List.forall_mem_cons, List.not_mem_nil, IsEmpty.forall_iff, implies_true, and_true]
  and_intros
  all_goals
    intros
    refine reads_of_fields rfl (by simp) fun w hf hi => ?_
    simp only [WellFormed, instrWf, Bool.and_eq_true, decide_eq_true_eq] at hi
    simp [decCoreMajor, decCore0D, decCore0E, decCore0F, decCore10, need, flag, hf, hi]

/-- Majors 0x11 to 0x14: regions, checks, barriers, engines and parisons. -/
theorem coreReads_regions :
    (∀ n, CoreReads (.rbegin n))
    ∧ (∀ a, CoreReads (.rkeep a))
    ∧ CoreReads .rend
    ∧ (∀ op ∈ [Instr.chk, .chkv, .binit, .barr], ∀ a b m, CoreReads (op a b m))
    ∧ (∀ d a b m, CoreReads (.bwait d a b m))
    ∧ (∀ d a b m, CoreReads (.ecopy d a b m))
    ∧ (∀ d a b m, CoreReads (.exform d a b m))
    ∧ (∀ d a, CoreReads (.pld d a))
    ∧ (∀ d n, CoreReads (.pcur d n)) := by
  simp only [List.forall_mem_cons, List.not_mem_nil, IsEmpty.forall_iff, implies_true, and_true]
  and_intros
  all_goals
    intros
    refine reads_of_fields rfl (by simp) fun w hf hi => ?_
    simp only [WellFormed, instrWf, decide_eq_true_eq] at hi
    simp [decCoreMajor, decCore11, decCore12, decCore13, decCore14, need, flag, hf, hi]

/-- Majors 0x18 to 0x1F: integer vectors. -/
theorem coreReads_integers :
    (∀ op ∈ [Instr.vadd, .vsub, .vadds, .vsubs, .vmul, .vmin, .vmax], ∀ f d a b m, CoreReads (op f d a b m))
    ∧ (∀ op ∈ [Instr.vand, .vor, .vxor, .vandn], ∀ d a b m, CoreReads (op d a b m))
    ∧ (∀ op ∈ [Instr.vshl, .vshr, .vsar], ∀ l d a b m, CoreReads (op l d a b m)) := by
  simp only [List.forall_mem_cons, List.not_mem_nil, IsEmpty.forall_iff, implies_true, and_true]
  and_intros
  all_goals
    intros
    refine reads_of_fields rfl (by simp) fun w hf hi => ?_
    simp only [WellFormed, instrWf] at hi
    simp [decCoreMajor, decCore18, decCore19, decCore1A, decCore1B, decCore1C, decCore1D, decCore1E, decCore1F, need, flag, hf, hi,
      -List.contains_cons, -List.contains_eq_mem]

/-- Majors 0x20 to 0x28: floating-point vectors and conversions. -/
theorem coreReads_floats :
    (∀ op ∈ [Instr.vfadd, .vfsub, .vfmul, .vfma, .vfnms, .vfmin, .vfmax], ∀ f d a b m, CoreReads (op f d a b m))
    ∧ (∀ op ∈ [Instr.vrcp, .vrsqrt, .vexp2, .vlog2, .vfabsF64, .vfabsF32, .vfabsF16, .vfnegF64, .vfnegF32, .vfnegF16], ∀ d a m, CoreReads
        (op d a m))
    ∧ (∀ f d a s p m, CoreReads (.vcvt f d a s p m)) := by
  simp only [List.forall_mem_cons, List.not_mem_nil, IsEmpty.forall_iff, implies_true, and_true]
  and_intros
  all_goals
    intros
    refine reads_of_fields rfl (by simp) fun w hf hi => ?_
    simp only [WellFormed, instrWf, Bool.and_eq_true] at hi
    simp [decCoreMajor, decCore20, decCore21, decCore22, decCore23, decCore24, decCore25, decCore26, decCore27, decCore28, need, flag, hf, hi,
      -List.contains_cons, -List.contains_eq_mem]

/-- Majors 0x29 to 0x2E: permutes, reductions and masks. -/
theorem coreReads_lanes :
    (∀ op ∈ [Instr.vzqe, .vzqd], ∀ d a b m, CoreReads (op d a b m))
    ∧ (∀ op ∈ [Instr.vperm, .vilo, .vihi], ∀ l d a b m, CoreReads (op l d a b m))
    ∧ (∀ l d a m, CoreReads (.vbcast l d a m))
    ∧ (∀ op ∈ [Instr.vrsum, .vrmax, .vrmin], ∀ f d a m, CoreReads (op f d a m))
    ∧ (∀ f c p a b m, CoreReads (.vcmp f c p a b m))
    ∧ (∀ f d a b, CoreReads (.vsel f d a b))
    ∧ (∀ l d a m, CoreReads (.vpmask l d a m))
    ∧ (∀ op ∈ [Instr.vpmsb, .vpnz], ∀ l d a m, CoreReads (op l d a m)) := by
  simp only [List.forall_mem_cons, List.not_mem_nil, IsEmpty.forall_iff, implies_true, and_true]
  and_intros
  all_goals
    intros
    refine reads_of_fields rfl (by simp) fun w hf hi => ?_
    simp only [WellFormed, instrWf, Bool.and_eq_true, decide_eq_true_eq] at hi
    simp [decCoreMajor, decCore29, decCore2A, decCore2B, decCore2C, decCore2D, decCore2E, need, flag, hf, hi,
      -List.contains_cons, -List.contains_eq_mem]

/-- Majors 0x30 to 0x33: the matrix unit and the bead array. -/
theorem coreReads_matrix :
    (∀ n m, CoreReads (.mcall n m))
    ∧ (∀ d a m, CoreReads (.mset d a m))
    ∧ (∀ d a m, CoreReads (.mget d a m))
    ∧ (∀ op ∈ [Instr.mld, .bload], ∀ a b, CoreReads (op a b))
    ∧ (∀ d a, CoreReads (.mgat d a))
    ∧ (∀ a m, CoreReads (.epi a m))
    ∧ (∀ m, CoreReads (.rfree m))
    ∧ (∀ n, CoreReads (.rwait n))
    ∧ (∀ i ∈ [Instr.rwaitIdle, .brst], CoreReads i)
    ∧ (∀ n, CoreReads (.bmode n))
    ∧ (∀ i, CoreReads (.btwin i))
    ∧ (∀ op ∈ [Instr.blnch, .bstat], ∀ a, CoreReads (op a))
    ∧ (∀ d g, CoreReads (.bcap d g))
    ∧ (∀ d g k, CoreReads (.brank d g k)) := by
  simp only [List.forall_mem_cons, List.not_mem_nil, IsEmpty.forall_iff, implies_true, and_true]
  and_intros
  all_goals
    intros
    refine reads_of_fields rfl (by simp) fun w hf hi => ?_
    simp only [WellFormed, instrWf] at hi
    simp [decCoreMajor, decCore30, decCore31, decCore32, decCore33, need, flag, hf, hi]

/-- Opcodes 0x01 to 0x07: scalars and control. -/
theorem nearReads_scalars :
    (∀ op ∈ [Instr.gadd, .gsub, .gmul, .gand, .gor, .gxor, .gshl, .gshr, .gsar, .gmin, .gmax, .gminu, .gmaxu], ∀ d a b, NearReads (op d a
        b))
    ∧ (∀ d a i, NearReads (.gaddi d a i))
    ∧ (∀ d i, NearReads (.gmovi d i))
    ∧ (∀ d h c, NearReads (.glui d h c))
    ∧ (∀ op ∈ [Instr.beq, .bne, .blt, .bge, .bltu, .bgeu], ∀ a b o, NearReads (op a b o))
    ∧ (∀ o, NearReads (.b o))
    ∧ (∀ i ∈ [Instr.nhalt, .nendl, .nlpop], NearReads i)
    ∧ (∀ d n, NearReads (.gmvi d n))
    ∧ (∀ a o, NearReads (.nloop a o)) := by
  simp only [List.forall_mem_cons, List.not_mem_nil, IsEmpty.forall_iff, implies_true, and_true]
  and_intros
  all_goals
    intros
    refine reads_of_fields rfl (by simp) fun w hf hi => ?_
    simp only [WellFormed, instrWf, decide_eq_true_eq] at hi
    simp [decodeNear, decNear01, decNear02, decNear03, decNear04, decNear05, decNear06, decNear07, need, hf, hi]

/-- Opcodes 0x08 to 0x0B: lanes. -/
theorem nearReads_lanes :
    (∀ op ∈ [Instr.nadd, .nsub, .nmul, .nmin, .nmax, .nminu, .nmaxu, .nand, .nor, .nxor, .nshl, .nshr, .nsar, .nfadd, .nfsub, .nfmul, .nfma,
        .nfmin, .nfmax], ∀ d a b f, NearReads (op d a b f))
    ∧ (∀ op ∈ [Instr.ncvtI32F32, .ncvtF32I32], ∀ d a f r, NearReads (op d a f r))
    ∧ (∀ op ∈ [Instr.ncmpI32, .ncmpF32], ∀ c d a b f, NearReads (op c d a b f)) := by
  simp only [List.forall_mem_cons, List.not_mem_nil, IsEmpty.forall_iff, implies_true, and_true]
  and_intros
  all_goals
    intros
    refine reads_of_fields rfl (by simp) fun w hf hi => ?_
    simp only [WellFormed, instrWf, decide_eq_true_eq] at hi
    simp [decodeNear, decNear08, decNear09, decNear0A, decNear0B, need, hf, hi]

/-- Opcodes 0x0C to 0x0E: masks and reductions. -/
theorem nearReads_masks :
    (∀ op ∈ [Instr.fAnd, .fOr, .fXor, .fAndn], ∀ d a b, NearReads (op d a b))
    ∧ (∀ d a, NearReads (.fNot d a))
    ∧ (∀ d a, NearReads (.fSet d a))
    ∧ (∀ d a, NearReads (.fGet d a))
    ∧ (∀ op ∈ [Instr.nbcast, .nmov, .nrsumI32, .nrsumF32, .nrmaxI32, .nrminI32, .nrmaxF32], ∀ d a f, NearReads (op d a f))
    ∧ (∀ op ∈ [Instr.nget, .nins], ∀ d a l, NearReads (op d a l)) := by
  simp only [List.forall_mem_cons, List.not_mem_nil, IsEmpty.forall_iff, implies_true, and_true]
  and_intros
  all_goals
    intros
    refine reads_of_fields rfl (by simp) fun w hf _ => ?_
    simp [decodeNear, decNear0C, decNear0D, decNear0E, need, hf]

/-- Opcodes 0x0F to 0x14: ports and registers. -/
theorem nearReads_ports :
    (∀ t d a b f j z, NearReads (.nmac t d a b f j z))
    ∧ (∀ d a b, NearReads (.nsopen d a b))
    ∧ (∀ d a, NearReads (.nld d a))
    ∧ (∀ d a f, NearReads (.nst d a f))
    ∧ (∀ d r, NearReads (.grsr d r)) := by
  and_intros
  all_goals
    intros
    refine reads_of_fields rfl (by simp) fun w hf hi => ?_
    simp only [WellFormed, instrWf, Bool.and_eq_true] at hi
    simp [decodeNear, decNear0F, decNear10, decNear14, need, flag, hf, hi,
      -List.contains_cons, -List.contains_eq_mem]

/-- Every instruction of the core set is of one of the families; any other has no word. -/
theorem coreReads (i : Instr) : CoreReads i := by
  have hcontrol := coreReads_control
  have hpredicates := coreReads_predicates
  have hscalars := coreReads_scalars
  have hviews := coreReads_views
  have hatomics := coreReads_atomics
  have hregions := coreReads_regions
  have hintegers := coreReads_integers
  have hfloats := coreReads_floats
  have hlanes := coreReads_lanes
  have hmatrix := coreReads_matrix
  simp only [List.forall_mem_cons, List.not_mem_nil, IsEmpty.forall_iff, implies_true, and_true] at *
  cases i
  any_goals simp only [hcontrol, hpredicates, hscalars, hviews, hatomics, hregions, hintegers, hfloats, hlanes, hmatrix]
  all_goals exact reads_of_none rfl

theorem nearReads (i : Instr) : NearReads i := by
  have hscalars := nearReads_scalars
  have hlanes := nearReads_lanes
  have hmasks := nearReads_masks
  have hports := nearReads_ports
  simp only [List.forall_mem_cons, List.not_mem_nil, IsEmpty.forall_iff, implies_true, and_true] at *
  cases i
  any_goals simp only [hscalars, hlanes, hmasks, hports]
  all_goals exact reads_of_none rfl

end Sys2Proof.Proofs
end

section
/-! Every word that a decoder reads is the word of its instruction (R83, R284). -/

namespace Sys2Proof.Proofs

/-- Every instruction that may be read has the property. -/
def Gives (P : Instr → Prop) (o : Option Instr) : Prop := ∀ i, o = some i → P i

section
variable {P : Instr → Prop} {i : Instr} {c : Bool}

theorem gives_none : Gives P none ↔ True := by simp [Gives]
theorem gives_some : Gives P (some i) ↔ P i := by simp [Gives]
theorem gives_need : Gives P (need c i) ↔ (c = true → P i) := by simp [Gives, need]

end

/-- The instruction is well formed, and w is its word. -/
def CoreWord (w : Nat) (i : Instr) : Prop := WellFormed i ∧ encodeCore i = some w

/-- The instruction is well formed, and w is its word, if it carries its operands. -/
def NearWord (w : Nat) (i : Instr) : Prop := WellFormed i ∧ ∀ v, encodeNear i = some v → v = w

theorem coreWord_of {w v : Nat} {i : Instr} (he : encodeCore i = some v) (hi : instrWf i = true) (hv : v + 0 = w + 0) : CoreWord w i :=
  ⟨hi, he.trans (congrArg some hv)⟩

theorem rest_end {w : Nat} (hw : w < 2 ^ 32) : rest w 32 = 0 := Nat.div_eq_of_lt hw

theorem mod_of_lt_six {f m : Nat} (h : f < 6) (hm : 6 ≤ m) : f % m = f := Nat.mod_eq_of_lt (h.trans_le hm)
theorem mod_of_lt_ten {f m : Nat} (h : f < 10) (hm : 10 ≤ m) : f % m = f := Nat.mod_eq_of_lt (h.trans_le hm)

/-- Each case of the major map: what the decoder has checked is the instruction's own condition, and the fields that it has read, with
the fixed bits, make up the word. -/
theorem coreWord_of_decode {w : Nat} (hw : w < 2 ^ 32) : Gives (CoreWord w) (decCoreMajor w) := by
  have hend := rest_end hw
  unfold decCoreMajor
  split
  any_goals
    simp only [decCore00, decCore01, decCore02, decCore03, decCore04, decCore05, decCore06, decCore07, decCore08, decCore09, decCore0A,
      decCore0B, decCore0C, decCore0D, decCore0E, decCore0F, decCore10, decCore11, decCore12, decCore13, decCore14, decCore18,
      decCore19, decCore1A, decCore1B, decCore1C, decCore1D, decCore1E, decCore1F, decCore20, decCore21, decCore22, decCore23,
      decCore24, decCore25, decCore26, decCore27, decCore28, decCore29, decCore2A, decCore2B, decCore2C, decCore2D, decCore2E,
      decCore30, decCore31, decCore32, decCore33]
    repeat' split
  any_goals
    simp only [gives_need, gives_some, gives_none, Bool.and_eq_true, decide_eq_true_eq, accepts_iff] at *
  all_goals
    intros
    refine coreWord_of rfl ?wf ?word
    case wf =>
      simp only [instrWf, BitVec.toNat_ofNat, Nat.reducePow, Nat.reduceLeDiff, le_refl, fld_mod, mod_of_lt_ten,
        decide_true, Bool.and_self, *]
    case word =>
      simp only [pack_cons, pack_nil, opnd_toField_fld, fmt_toField_ofField, flag_toNat, BitVec.toNat_ofNat, Nat.mod_eq_of_lt, fld_mod,
        mod_of_lt_ten, Nat.reducePow, Nat.reduceLeDiff, le_refl, putField_fld_add, *]
      simp only [fld_eq_iff, Nat.reduceAdd, rest_zero] at *
      omega

theorem nearWord_of_decode {w : Nat} (hw : w < 2 ^ 32) : Gives (NearWord w) (decodeNear w) := by
  have hend := rest_end hw
  unfold decodeNear
  split
  any_goals
    simp only [decNear01, decNear02, decNear03, decNear04, decNear05, decNear06, decNear07, decNear08, decNear09, decNear0A, decNear0B,
      decNear0C, decNear0D, decNear0E, decNear0F, decNear10, decNear11, decNear12, decNear13, decNear14]
    repeat' split
  any_goals
    simp only [gives_need, gives_some, gives_none, Bool.and_eq_true, decide_eq_true_eq, accepts_iff] at *
  all_goals
    intros
    refine ⟨?wf, fun v hv => ?word⟩
    case wf =>
      simp only [WellFormed, instrWf, BitVec.toNat_ofNat, Nat.reducePow, Nat.reduceLeDiff, le_refl, fld_mod, mod_of_lt_six,
        decide_true, Bool.and_self, *]
    case word =>
      cases hv
      all_goals
        apply Nat.add_right_cancel (m := 0)
        simp only [pack_cons, pack_nil, fmt_toField_ofField, flag_toNat, BitVec.toNat_ofNat, Nat.mod_eq_of_lt, mod_of_lt_six, fld_mod, Nat.reducePow,
          Nat.reduceLeDiff, le_refl, putField_fld_add, *]
        simp only [fld_eq_iff, Nat.reduceAdd, rest_zero] at *
        omega

theorem decodeCore_eq_ok {w : Nat} {i : Instr} : decodeCore w = .ok i ↔ decCoreMajor w = some i := by
  have hreserved : 0x38 ≤ fld w 26 6 → decCoreMajor w = none := by
    intro h
    unfold decCoreMajor
    split
    rotate_right
    · rfl
    all_goals omega
  unfold decodeCore
  split
  · next h => simp [hreserved h]
  · cases decCoreMajor w <;> simp

/-- Settles O3: reading is the inverse of writing on the well-formed instructions, and writing the inverse of reading on the words. -/
theorem encodingRoundTrip : Obligations.EncodingRoundTrip := by
  unfold Obligations.EncodingRoundTrip
  refine ⟨fun i w hi => ⟨fun h => ?_, nearReads i w hi⟩, fun i w hw => ⟨fun h => ?_, nearWord_of_decode hw i⟩⟩
  · obtain ⟨hlt, hdec⟩ := coreReads i w hi h
    exact ⟨hlt, decodeCore_eq_ok.mpr hdec⟩
  · exact coreWord_of_decode hw i (decodeCore_eq_ok.mp h)

end Sys2Proof.Proofs
end

section
/-! The two statements of chapter 03 that evaluate: the words of the spec's encodings, and the state after reset. -/

namespace Sys2Proof.Proofs

open Machine Claim

/-- Settles O2: each word evaluates to its instruction. -/
theorem wordsOfTheSpecDecode : Obligations.WordsOfTheSpecDecode := by
  unfold Obligations.WordsOfTheSpecDecode
  and_intros <;> rfl

/-- A vector of one value holds it at every index when that value is what an index out of range gives. -/
theorem vget_replicate {α : Type} (n i : Nat) (x : α) : vget (Vector.replicate n x) i x = x := by
  by_cases h : i < n <;> simp [vget, h]

/-- Every predicate of a fresh sequencer is zero, but p0, which reads as all ones (R69). -/
theorem pred_fresh (n : Nat) : ({} : Seq).pred n = if n = 0 then BitVec.allOnes 64 else 0 := by
  unfold Seq.pred
  rw [show ({} : Seq).regs.preds = Vector.replicate 16 0 from rfl, vget_replicate]

/-- Every byte of a fresh sequencer's register space is zero (R66, log 5). -/
theorem byteAt_fresh (a : Nat) : ({} : Seq).byteAt a = 0 := by
  unfold Seq.byteAt
  split <;> rfl

/-- Settles O5: every part of the state after reset is its start value; only the predicates and the bytes of register space are
families, which hold one value throughout. -/
theorem resetHasInvariant : Obligations.ResetHasInvariant := by
  unfold Obligations.ResetHasInvariant
  exact ⟨⟨rfl, rfl⟩, rfl, rfl, rfl, rfl, rfl, rfl, rfl, rfl, fun _ => rfl, ⟨_, rfl⟩, rfl, rfl, rfl, rfl, pred_fresh, byteAt_fresh⟩

end Sys2Proof.Proofs
end

section
/-! The frame of the instructions that read and write operands alone: what a slot's operations change of the device besides the
queues and the pending writes of the sequencer that issues (R68 to R71). -/

namespace Sys2Proof.Proofs

open Machine Claim Laws

/-- Two sequencers that differ at most in their queues and in pending writes that the second has beyond the first's. -/
def SeqQueued (s t : Seq) : Prop := { t with cols := s.cols, pend := s.pend } = s ∧ ∃ l, t.pend = s.pend ++ l

theorem SeqQueued.refl (s : Seq) : SeqQueued s s := ⟨rfl, [], (List.append_nil _).symm⟩

theorem SeqQueued.trans {s t u : Seq} (h : SeqQueued s t) (k : SeqQueued t u) : SeqQueued s u := by
  obtain ⟨hrest, l, hl⟩ := h
  obtain ⟨krest, l', hl'⟩ := k
  refine ⟨?_, l ++ l', by rw [hl', hl, List.append_assoc]⟩
  rw [← hrest, ← krest]

/-- Two slots of one bundle whose devices differ at most in the queues and the added pending writes of the sequencer that issues. -/
structure Queued (x y : Slot) : Prop where
  iss : y.iss = x.iss
  base : y.base = x.base
  dev : { y.dev with seqs := x.dev.seqs } = x.dev
  others : ∀ k, k ≠ x.iss.q → y.dev.seq k = x.dev.seq k
  own : SeqQueued (seqOf x) (seqOf y)

theorem Queued.refl (x : Slot) : Queued x x := ⟨rfl, rfl, rfl, fun _ _ => rfl, .refl _⟩

theorem Queued.trans {x y z : Slot} (h : Queued x y) (k : Queued y z) : Queued x z where
  iss := k.iss.trans h.iss
  base := k.base.trans h.base
  dev := by rw [← h.dev, ← k.dev]
  others n hn := (k.others n (by rwa [h.iss])).trans (h.others n hn)
  own := h.own.trans k.own

/-- A meaning that, when it completes, has changed nothing but queues and pending writes. -/
structure QueuesOnly {α : Type} (m : SlotM α) : Prop where
  queued : ∀ x a y, m x = .ok (a, y) → Queued x y

namespace QueuesOnly

variable {α β : Type}

/-- A meaning that only reads. -/
theorem of_reads {m : SlotM α} (h : ∀ x, ∃ a, m x = .ok (a, x)) : QueuesOnly m := by
  refine ⟨fun x a y hm => ?_⟩
  obtain ⟨b, hb⟩ := h x
  obtain ⟨-, rfl⟩ := Prod.mk.inj (Except.ok.inj (hb.symm.trans hm))
  exact .refl x

theorem pure (a : α) : QueuesOnly (Pure.pure a : SlotM α) := of_reads fun _ => ⟨a, rfl⟩
theorem get : QueuesOnly (MonadState.get : SlotM Slot) := of_reads fun x => ⟨x, rfl⟩
theorem slotNo : QueuesOnly Op.slotNo := of_reads fun x => ⟨_, slotNo_app x⟩
theorem me : QueuesOnly Op.me := of_reads fun x => ⟨_, me_app x⟩
theorem guard (m : Bool) : QueuesOnly (Op.guard m) := of_reads fun x => ⟨_, guard_app m x⟩
theorem enabled (m : Bool) : QueuesOnly (Op.enabled m) := of_reads fun x => ⟨_, enabled_app m x⟩

/-- A meaning that ends the bundle never completes. -/
theorem of_abort {m : SlotM α} (h : ∀ x, ∃ e, m x = .error e) : QueuesOnly m := by
  refine ⟨fun x a y hm => ?_⟩
  obtain ⟨e, he⟩ := h x
  rw [he] at hm
  cases hm

theorem abort (e : Abort) : QueuesOnly (Op.abort e : SlotM α) := of_abort fun _ => ⟨e, rfl⟩
theorem stall : QueuesOnly (Op.stall : SlotM α) := abort _
theorem trap (c : Cause) (l : List Nat) : QueuesOnly (Op.trap c l : SlotM α) := of_abort fun x => ⟨_, trap_app c l x⟩

theorem bind {m : SlotM α} {f : α → SlotM β} (hm : QueuesOnly m) (hf : ∀ a, QueuesOnly (f a)) : QueuesOnly (m >>= f) := by
  refine ⟨fun x b z h => ?_⟩
  cases hx : m x with
  | error e => rw [bind_error hx] at h; cases h
  | ok r =>
    obtain ⟨a, y⟩ := r
    rw [bind_ok hx] at h
    exact (hm.queued x a y hx).trans ((hf a).queued y b z h)

theorem ite {c : Prop} [Decidable c] {m k : SlotM α} (hm : QueuesOnly m) (hk : QueuesOnly k) : QueuesOnly (if c then m else k) := by
  split
  · exact hm
  · exact hk

/-- A change of the sequencer's own queues, or pending writes added to its others. -/
theorem modMe {f : Seq → Seq} (h : ∀ s, SeqQueued s (f s)) : QueuesOnly (Op.modMe f) := by
  refine ⟨fun x a y hm => ?_⟩
  obtain ⟨-, rfl⟩ := Prod.mk.inj (Except.ok.inj ((modMe_app f x).symm.trans hm))
  refine ⟨rfl, rfl, rfl, fun k hk => Dev.seq_modSeq_ne _ _ hk, ?_⟩
  show SeqQueued _ ((x.dev.modSeq x.iss.q f).seq x.iss.q)
  rw [Dev.seq_modSeq]
  exact h _

/-! ### Operands and results (R67, R68, R70, R71) -/

theorem modCol (c : Nat) (f : Col → Col) : QueuesOnly (Op.modMe fun s => s.modCol c f) :=
  modMe fun _ => ⟨rfl, [], (List.append_nil _).symm⟩

theorem pend (t : Tgt) (n : Nat) (v : BitVec 256) (en : BitVec 32) (fl : BitVec 6) (k : Word) : QueuesOnly (Op.pend t n v en fl k) :=
  modMe fun _ => ⟨rfl, _, rfl⟩

theorem putPred (n lat : Nat) (v mask : Word) (fl : BitVec 6) : QueuesOnly (Op.putPred n lat v mask fl) := pend ..

theorem put (t : Tgt) (lat : Nat) (v : BitVec 256) (en : BitVec 32) (fl : BitVec 6) (k : Word) : QueuesOnly (Op.put t lat v en fl k) := by
  unfold Op.put
  split
  · exact pend ..
  · exact ite (pure _) (pend ..)

theorem putS (t : Tgt) (lat : Nat) (v : Word) (on : Bool) : QueuesOnly (Op.putS t lat v on) := by
  unfold Op.putS
  split <;> exact put ..

theorem predResult (d : BitVec 4) (v : Word) (on : Bool) : QueuesOnly (Op.predResult d v on) := ite (putPred ..) (pure _)

theorem putLanes (t : Tgt) (lat w : Nat) (on : Nat → Bool) (l : List LaneRes) : QueuesOnly (Op.putLanes t lat w on l) :=
  bind me fun _ => put ..

theorem pop (q : Nat) : QueuesOnly (Op.pop q) := by
  refine bind me fun s => ?_
  split
  · exact stall
  · split
    · exact trap ..
    · refine bind slotNo fun i => ?_
      split
      · exact abort _
      · split
        · exact abort _
        · exact bind (modCol ..) fun _ => ite (bind (putPred ..) fun _ => pure _) (pure _)

theorem reserve (q : Nat) : QueuesOnly (Op.reserve q) :=
  bind me fun _ => ite stall (bind (modCol ..) fun _ => pure _)

theorem locate (view : Nat) (o : Opnd) (j : Nat) : QueuesOnly (Op.locate view o j) := by
  refine bind slotNo fun i => bind me fun s => ?_
  split
  · exact pure _
  · exact trap ..

theorem rdS (o : Opnd) : QueuesOnly (Op.rdS o) := by
  refine bind (locate ..) fun l => ?_
  split
  · exact bind (pop _) fun _ => pure _
  · exact bind me fun _ => pure _

theorem rdV (o : Opnd) : QueuesOnly (Op.rdV o) := by
  refine bind (locate ..) fun l => ?_
  split
  · exact pop _
  · exact bind me fun _ => pure _

theorem target (view : Nat) (o : Opnd) : QueuesOnly (Op.target view o) := by
  refine bind (locate ..) fun l => ?_
  split
  · exact bind (reserve _) fun _ => pure _
  · exact pure _

theorem mode : QueuesOnly Op.mode := bind me fun _ => pure _

/-! ### The shared meanings of the instructions (R102 to R107, R139 to R152) -/

theorem predLogic (d a b : BitVec 4) (m : Bool) (f : Word → Word → Word) : QueuesOnly (Op.predLogic d a b m f) :=
  bind me fun _ => bind (enabled m) fun _ => predResult ..

theorem compare (d : BitVec 4) (a b : Opnd) (m : Bool) (f : Word → Word → Bool) : QueuesOnly (Op.compare d a b m f) :=
  bind (rdS a) fun _ => bind (rdS b) fun _ => bind (enabled m) fun _ => predResult ..

theorem scalar2 (lat : Nat) (d a b : Opnd) (m : Bool) (f : Word → Word → Word) : QueuesOnly (Op.scalar2 lat d a b m f) :=
  bind (rdS a) fun _ => bind (rdS b) fun _ => bind (target 0 d) fun _ => bind (enabled m) fun _ => putS ..

theorem scalar1 (lat : Nat) (d a : Opnd) (m : Bool) (f : Word → Word) : QueuesOnly (Op.scalar1 lat d a m f) :=
  bind (rdS a) fun _ => bind (target 0 d) fun _ => bind (enabled m) fun _ => putS ..

theorem loopField (d : Opnd) (n : Nat) (f : LoopEnt → BitVec 32) : QueuesOnly (Op.loopField d n f) :=
  bind me fun _ => bind (target 0 d) fun _ => putS ..

theorem lanes2 (lat w : Nat) (d a b : Opnd) (m : Bool) (f : Nat → Nat → LaneRes) : QueuesOnly (Op.lanes2 lat w d a b m f) :=
  bind (rdV a) fun _ => bind (rdV b) fun _ => bind (target 1 d) fun _ => bind (guard m) fun _ => putLanes ..

theorem lanes1 (lat w : Nat) (d a : Opnd) (m : Bool) (f : Nat → LaneRes) : QueuesOnly (Op.lanes1 lat w d a m f) :=
  bind (rdV a) fun _ => bind (target 1 d) fun _ => bind (guard m) fun _ => putLanes ..

theorem float2 (f : Fmt) (d a b : Opnd) (m : Bool) (g : Bool → Machine.Num → Machine.Num → Machine.Num) : QueuesOnly (Op.float2 f d a b m g) :=
  bind mode fun _ => lanes2 ..

theorem float3 (f : Fmt) (d a b : Opnd) (m : Bool) (g : Bool → Machine.Num → Machine.Num → Machine.Num → Machine.Num) :
    QueuesOnly (Op.float3 f d a b m g) :=
  bind mode fun _ => bind (rdV d) fun _ => bind (rdV a) fun _ => bind (rdV b) fun _ => bind (target 1 d) fun _ =>
    bind (guard m) fun _ => putLanes ..

theorem permute (w : Nat) (d a b : Opnd) (m : Bool) (f : List Nat → List Nat → Nat → Nat) : QueuesOnly (Op.permute w d a b m f) :=
  bind (rdV a) fun _ => bind (rdV b) fun _ => bind (target 1 d) fun _ => bind (guard m) fun _ => putLanes ..

theorem reduce (f : Fmt) (lat : Nat) (d a : Opnd) (m : Bool) (id : Nat) (comb : Nat → Nat → LaneRes) : QueuesOnly (Op.reduce f lat d a m id comb) :=
  bind (rdV a) fun _ => bind (target 1 d) fun _ => bind (guard m) fun _ => put ..

theorem reducePick (f : Fmt) (d a : Opnd) (m larger : Bool) : QueuesOnly (Op.reducePick f d a m larger) := by
  unfold Op.reducePick
  simp only
  split <;> exact reduce ..

theorem putBits (p : Nat) (m : Bool) (l : List (Bool × BitVec 6)) : QueuesOnly (Op.putBits p m l) :=
  bind (guard m) fun _ => ite (putPred ..) (pure _)

end QueuesOnly

/-! ### The instructions -/

/-- An instruction whose meaning changes nothing but queues and pending writes. -/
def InstrQueuesOnly (i : Instr) : Prop := ∃ f : SlotM Unit, QueuesOnly f ∧ ∀ s, exec i s = runSlot f s

open QueuesOnly

theorem scalarBinary_queuesOnly : ∀ b ∈ scalarBinary, ∀ d a c m, InstrQueuesOnly (b.ins d a c m) := by
  simp only [scalarBinary, List.forall_mem_cons, List.not_mem_nil, false_imp_iff, implies_true, and_true]
  and_intros <;> exact fun d a c m => ⟨_, scalar2 .., fun _ => rfl⟩

theorem scalarUnary_queuesOnly (k : BitVec 10) (n : BitVec 6) : ∀ b ∈ scalarUnary k n, ∀ d a m, InstrQueuesOnly (b.ins d a m) := by
  simp only [scalarUnary, List.forall_mem_cons, List.not_mem_nil, false_imp_iff, implies_true, and_true]
  and_intros <;> exact fun d a m => ⟨_, scalar1 .., fun _ => rfl⟩

theorem scalarCompares_queuesOnly : ∀ b ∈ scalarCompares, ∀ d a c m, InstrQueuesOnly (b.1 d a c m) := by
  simp only [scalarCompares, List.forall_mem_cons, List.not_mem_nil, false_imp_iff, implies_true, and_true]
  and_intros <;> exact fun d a c m => ⟨_, QueuesOnly.compare .., fun _ => rfl⟩

theorem predLogic_queuesOnly : ∀ b ∈ Claim.predLogic, ∀ d a c m, InstrQueuesOnly (b.1 d a c m) := by
  simp only [Claim.predLogic, List.forall_mem_cons, List.not_mem_nil, false_imp_iff, implies_true, and_true]
  and_intros <;> exact fun d a c m => ⟨_, QueuesOnly.predLogic .., fun _ => rfl⟩

theorem vectorIntegers_queuesOnly (f : Fmt) (l : BitVec 2) : ∀ b ∈ vectorIntegers f l, ∀ d a c m, InstrQueuesOnly (b.ins d a c m) := by
  simp only [vectorIntegers, List.forall_mem_cons, List.not_mem_nil, false_imp_iff, implies_true, and_true]
  and_intros <;> exact fun d a c m => ⟨_, lanes2 .., fun _ => rfl⟩

theorem vectorFloats_queuesOnly (f : Fmt) (rm : Nat) (sat : Bool) : ∀ b ∈ vectorFloats f rm sat, ∀ d a c m, InstrQueuesOnly (b.ins d a c m) := by
  simp only [vectorFloats, List.forall_mem_cons, List.not_mem_nil, false_imp_iff, implies_true, and_true]
  exact ⟨fun d a c m => ⟨_, float2 .., fun _ => rfl⟩, fun d a c m => ⟨_, float2 .., fun _ => rfl⟩, fun d a c m => ⟨_, float2 .., fun _ => rfl⟩,
    fun d a c m => ⟨_, lanes2 .., fun _ => rfl⟩, fun d a c m => ⟨_, lanes2 .., fun _ => rfl⟩⟩

theorem vectorFused_queuesOnly (f : Fmt) (rm : Nat) (sat : Bool) : ∀ b ∈ vectorFused f rm sat, ∀ d a c m, InstrQueuesOnly (b.1 d a c m) := by
  simp only [vectorFused, List.forall_mem_cons, List.not_mem_nil, false_imp_iff, implies_true, and_true]
  exact ⟨fun d a c m => ⟨_, float3 .., fun _ => rfl⟩, fun d a c m => ⟨_, float3 .., fun _ => rfl⟩⟩

theorem vectorUnary_queuesOnly (rm : Nat) (sat : Bool) : ∀ b ∈ vectorUnary rm sat, ∀ d a m, InstrQueuesOnly (b.ins d a m) := by
  simp only [vectorUnary, List.forall_mem_cons, List.not_mem_nil, false_imp_iff, implies_true, and_true]
  refine ⟨?_, ?_, ?_, ?_, ?signs⟩
  case signs => and_intros <;> exact fun d a m => ⟨_, lanes1 .., fun _ => rfl⟩
  all_goals exact fun d a m => ⟨_, bind mode fun _ => lanes1 .., fun _ => rfl⟩

theorem vectorPermutes_queuesOnly (l : BitVec 2) : ∀ b ∈ vectorPermutes l, ∀ d a c m, InstrQueuesOnly (b.1 d a c m) := by
  simp only [vectorPermutes, List.forall_mem_cons, List.not_mem_nil, false_imp_iff, implies_true, and_true]
  and_intros <;> exact fun d a c m => ⟨_, permute .., fun _ => rfl⟩

theorem execVcvt_queuesOnly (f : Fmt) (d a : Opnd) (g : Fmt) (k : BitVec 2) (m : Bool) : InstrQueuesOnly (.vcvt f d a g k m) :=
  ⟨_, bind mode fun _ => bind (rdV a) fun _ => bind (target 1 d) fun _ => bind (guard m) fun _ => ite (putLanes ..) (putLanes ..), fun _ => rfl⟩

theorem execVrsum_queuesOnly (f : Fmt) (d a : Opnd) (m : Bool) : InstrQueuesOnly (.vrsum f d a m) := by
  refine ⟨_, bind mode fun r => ?_, fun _ => rfl⟩
  simp only
  split <;> exact reduce ..

/-- Every instruction of the frame has such a meaning. -/
theorem registerOnly_queuesOnly {i : Instr} (h : registerOnly i) : InstrQueuesOnly i := by
  rcases h with ⟨b, hb, d, a, c, m, rfl⟩ | ⟨k, n, b, hb, d, a, m, rfl⟩ | ⟨b, hb, d, a, c, m, rfl⟩ | ⟨b, hb, d, a, c, m, rfl⟩
    | ⟨f, l, b, hb, d, a, c, m, rfl⟩ | ⟨f, b, hb, d, a, c, m, rfl⟩ | ⟨f, b, hb, d, a, c, m, rfl⟩ | ⟨b, hb, d, a, m, rfl⟩ | ⟨l, b, hb, d, a, c, m, rfl⟩
    | ⟨d, k, rfl⟩ | ⟨d, h, c, rfl⟩ | ⟨d, n, rfl | rfl⟩ | ⟨d, p, m, rfl⟩ | ⟨d, m, rfl⟩ | ⟨a, m, rfl⟩ | ⟨p, k, m, rfl⟩ | ⟨p, a, m, rfl | rfl⟩
    | ⟨f, d, a, g, k, m, rfl⟩ | ⟨d, a, b, m, rfl | rfl⟩ | ⟨f, d, a, b, rfl⟩ | ⟨l, d, a, m, rfl⟩ | ⟨l, d, p, m, rfl⟩ | ⟨f, d, a, m, rfl | rfl | rfl⟩
    | ⟨f, c, p, a, b, m, rfl⟩ | ⟨l, p, a, m, rfl | rfl⟩
  · exact scalarBinary_queuesOnly b hb d a c m
  · exact scalarUnary_queuesOnly k n b hb d a m
  · exact scalarCompares_queuesOnly b hb d a c m
  · exact predLogic_queuesOnly b hb d a c m
  · exact vectorIntegers_queuesOnly f l b hb d a c m
  · exact vectorFloats_queuesOnly f 0 false b hb d a c m
  · exact vectorFused_queuesOnly f 0 false b hb d a c m
  · exact vectorUnary_queuesOnly 0 false b hb d a m
  · exact vectorPermutes_queuesOnly l b hb d a c m
  · exact ⟨_, bind (target 0 d) fun _ => putS .., fun _ => rfl⟩
  · exact ⟨_, scalar1 .., fun _ => rfl⟩
  · exact ⟨_, loopField .., fun _ => rfl⟩
  · exact ⟨_, loopField .., fun _ => rfl⟩
  · exact ⟨_, bind (target 0 d) fun _ => bind me fun _ => bind (enabled m) fun _ => putS .., fun _ => rfl⟩
  · exact ⟨_, bind (target 0 d) fun _ => bind me fun _ => bind (enabled m) fun _ => putS .., fun _ => rfl⟩
  · exact ⟨_, bind (rdS a) fun _ => bind (enabled m) fun _ => ite (pend ..) (pure _), fun _ => rfl⟩
  · exact ⟨_, bind me fun _ => bind get fun _ => bind (enabled m) fun _ => predResult .., fun _ => rfl⟩
  · exact ⟨_, bind (rdS a) fun _ => bind (enabled m) fun _ => predResult .., fun _ => rfl⟩
  · exact ⟨_, bind (rdS a) fun _ => bind (enabled m) fun _ => predResult .., fun _ => rfl⟩
  · exact execVcvt_queuesOnly f d a g k m
  · exact ⟨_, bind mode fun _ => bind (rdV a) fun _ => bind (rdS b) fun _ => bind (target 1 d) fun _ => bind (guard m) fun _ => bind me fun _ => putLanes ..,
      fun _ => rfl⟩
  · exact ⟨_, bind mode fun _ => bind (rdV a) fun _ => bind (rdS b) fun _ => bind (target 1 d) fun _ => bind (guard m) fun _ => bind me fun _ => putLanes ..,
      fun _ => rfl⟩
  · exact ⟨_, bind (guard true) fun _ => bind (rdV a) fun _ => bind (rdV b) fun _ => bind (target 1 d) fun _ => putLanes .., fun _ => rfl⟩
  · exact ⟨_, bind (rdS a) fun _ => bind (target 1 d) fun _ => bind (guard m) fun _ => putLanes .., fun _ => rfl⟩
  · exact ⟨_, bind me fun _ => bind (target 1 d) fun _ => bind (guard m) fun _ => putLanes .., fun _ => rfl⟩
  · exact execVrsum_queuesOnly f d a m
  · exact ⟨_, reducePick .., fun _ => rfl⟩
  · exact ⟨_, reducePick .., fun _ => rfl⟩
  · exact ⟨_, bind (rdV a) fun _ => bind (rdV b) fun _ => putBits .., fun _ => rfl⟩
  · exact ⟨_, bind (rdV a) fun _ => putBits .., fun _ => rfl⟩
  · exact ⟨_, bind (rdV a) fun _ => putBits .., fun _ => rfl⟩

/-! ### A bundle that is still in progress -/

/-- A bundle that takes no effect is over. -/
theorem endBundle_issue (s : State) (q : Nat) (a : Abort) : (endBundle s q a).issue = none := rfl

/-- A bundle whose last slot has run is over, whatever its end is. -/
theorem finish_issue (s : State) (iss : Issue) : (finish s iss).issue = none := by
  unfold finish
  extract_lets d q x h target place _ _ entry
  clear_value place
  split
  · rfl
  · rfl
  · extract_lets _ _ _ _ x d fell done again rest r run
    have hrest : rest.issue = none := by
      unfold rest
      split_ifs <;> rfl
    have hr : r.issue = none := by
      unfold r
      split
      · rfl
      · exact hrest
    split
    · rfl
    · rfl
    · split
      · split
        · exact hr
        · rfl
      · exact hrest

/-- A slot that leaves its bundle in progress is followed by the next slot. -/
theorem nextSlot_of_issue {s : State} {iss : Issue} (h : (nextSlot s iss).issue ≠ none) :
    nextSlot s iss = { s with issue := some { iss with rest := iss.rest.drop 1 } } := by
  unfold nextSlot at h ⊢
  simp only at h ⊢
  split_ifs at h ⊢ with hr
  · exact absurd (finish_issue ..) h
  · rfl

/-- A slot of an instruction in progress that leaves its bundle in progress has completed, and the next slot's turn comes. -/
theorem runSlot_inProgress {f : SlotM Unit} {s t : State} {iss : Issue} (hi : s.issue = some iss) (h : runSlot f s = .next t)
    (ht : t.issue ≠ none) : ∃ x, f (slotOf s iss) = .ok ((), x)
      ∧ t = { s with dev := x.dev, issue := some { x.iss with rest := x.iss.rest.drop 1 } } := by
  cases hf : f (slotOf s iss) with
  | error a =>
    obtain rfl := Host.Outcome.next.inj ((runSlot_error hi hf).symm.trans h)
    exact absurd (endBundle_issue ..) ht
  | ok r =>
    obtain rfl := Host.Outcome.next.inj ((runSlot_ok hi hf).symm.trans h)
    exact ⟨r.2, rfl, nextSlot_of_issue ht⟩

/-- Settles O9: the instruction's meaning changes nothing but queues and pending writes, and a bundle still in progress has kept what it
left. -/
theorem registerOnlyFrame : Obligations.RegisterOnlyFrame := by
  unfold Obligations.RegisterOnlyFrame
  intro i s t iss hr hi he ht
  obtain ⟨f, hf, hexec⟩ := registerOnly_queuesOnly hr
  obtain ⟨x, hx, rfl⟩ := runSlot_inProgress hi ((hexec s).symm.trans he) ht
  obtain ⟨hiss, -, hdev, hothers, hown⟩ := hf.queued _ _ _ hx
  have hmem : x.dev.mem = s.dev.mem := by
    show _ = (slotOf s iss).dev.mem
    rw [← hdev]
  simp only [seqOf, hiss, slotOf] at hown
  exact ⟨by simp only [hiss, slotOf], rfl, rfl, rfl, hdev, fun a => congrArg (fun m : Mem => m.get a) hmem, hothers, hown⟩

end Sys2Proof.Proofs
end

section
/-! Major 0x0A: index bases, views and system registers (R65, R108, R109). -/

namespace Sys2Proof.Proofs

open Machine Claim Laws

/-- Where a result goes is resolved in the same bundle. -/
theorem target_iss {view : Nat} {o : Opnd} {x y : Slot} {t : Tgt} (h : Op.target view o x = .ok (t, y)) : y.iss = x.iss :=
  ((QueuesOnly.target view o).queued _ _ _ h).iss

variable {s : State} {iss : Issue} {a d : Opnd} {r : BitVec 7} {m : Bool} {w : Word} {x y : Slot} {t : Tgt}

/-- An index base of an owned column is left to land (R108). -/
theorem setBase_app {k : Nat} {v : BitVec 16} {on : Bool} (h : on = true → (seqOf x).owns (k / 2) = true) :
    Op.setBase k v on x = .ok ((), withWrites x (if on then [{ tgt := .base k, data := v.setWidth 256, en := 3, rdly := 2 }] else [])) := by
  cases on with
  | false => rfl
  | true =>
    simp only [Op.setBase, if_true]
    rw [bind_ok (me_app x), bind_ok (check_pass (h rfl)), pend_app]

/-- A view that R65 accepts is left to land (R108). -/
theorem exec_setv {k : BitVec 2} (hi : s.issue = some iss) (ha : Op.rdS a (slotOf s iss) = .ok (w, x))
    (h : enabled x m = true → viewCheck (seqOf x) k.toNat w = none ∧ (k = 3 → ringIdle (seqOf x) = true)) :
    exec (.setv k a m) s = .next (afterSlot s (withWrites x
      (if enabled x m then [{ tgt := .view k.toNat, data := w.setWidth 256, en := 0xFF, rdly := 4 }] else []))) := by
  refine runSlot_ok hi ?_
  rw [bind_ok ha, bind_ok (enabled_app m x)]
  cases hon : enabled x m with
  | false => rfl
  | true =>
    obtain ⟨hview, hring⟩ := h hon
    have hfree : (decide (k.toNat ≠ 3) || ringIdle (seqOf x)) = true := by
      by_cases hk : k = 3
      · simp [hring hk]
      · simp [show k.toNat ≠ 3 from fun h => hk (BitVec.eq_of_toNat_eq h)]
    simp only [if_true]
    rw [bind_ok (me_app x), hview]
    simp only
    rw [bind_ok (check_pass hfree), pend_app]
    rfl

/-- A register that the context may read goes to the destination (R109). -/
theorem exec_rdsr (hi : s.issue = some iss) (hr : srAccess (seqOf (slotOf s iss)).place.control r.toNat ≠ .unassigned)
    (hon : enabled (slotOf s iss) m = true → (r.toNat = 0x40 ∨ r.toNat = 0x41 → (seqOf (slotOf s iss)).place.diag = true)
        ∧ (0x20 ≤ r.toNat ∧ r.toNat ≤ 0x27 → (seqOf (slotOf s iss)).owns ((r.toNat - 0x20) / 2) = true))
    (ht : Op.target 0 d (slotOf s iss) = .ok (t, y)) :
    exec (.rdsr d r m) s = .next (afterSlot s (withWrites y (scalarWrite t 1 (BitVec.ofNat 64 (srRead y.dev iss.q r.toNat)) (enabled (slotOf s iss) m)))) := by
  refine runSlot_ok hi ?_
  have hput : (Op.target 0 d >>= fun t => Op.sqid >>= fun q => Op.dev >>= fun e => Op.putS t 1 (BitVec.ofNat 64 (srRead e q r.toNat)) (enabled (slotOf s iss) m))
      (slotOf s iss) = .ok ((), withWrites y (scalarWrite t 1 (BitVec.ofNat 64 (srRead y.dev iss.q r.toNat)) (enabled (slotOf s iss) m))) := by
    rw [bind_ok ht, bind_ok (sqid_app y), bind_ok (dev_app y), putS_app, target_iss ht]
    rfl
  rw [bind_ok (me_app _), if_neg hr]
  simp only
  rw [bind_ok (enabled_app m _)]
  cases hen : enabled (slotOf s iss) m with
  | false => rw [hen] at hput; exact hput
  | true =>
    obtain ⟨hdiag, hcol⟩ := hon hen
    rw [hen] at hput
    simp only [if_true]
    rw [bind_ok (check_pass (by simpa [or_iff_not_imp_left] using hcol)), bind_ok (check_pass (by simpa [or_iff_not_imp_left] using hdiag))]
    exact hput

/-- A value that a register's own rule takes is left for it (R109). -/
theorem exec_wrsr (hi : s.issue = some iss) (ha : Op.rdS a (slotOf s iss) = .ok (w, x))
    (hr : srAccess (seqOf (slotOf s iss)).place.control r.toNat = .readWrite ∨ srAccess (seqOf (slotOf s iss)).place.control r.toNat = .writeOnly)
    (h : enabled x m = true → (r.toNat = 0x40 ∨ r.toNat = 0x41 → (seqOf (slotOf s iss)).place.diag = true) ∧ srRefuses x.dev r.toNat w = false) :
    exec (.wrsr a r m) s = .next (afterSlot s (withWrites x
      (if enabled x m then [{ tgt := .sysreg r.toNat, data := w.setWidth 256, en := 0xFF, rdly := 1 }] else []))) := by
  refine runSlot_ok hi ?_
  rw [bind_ok (me_app _)]
  rcases hr with hr | hr
  all_goals
    simp only [hr]
    rw [bind_ok ha, bind_ok (enabled_app m x)]
    cases hen : enabled x m with
    | false => rfl
    | true =>
      obtain ⟨hdiag, hok⟩ := h hen
      simp only [if_true]
      rw [bind_ok (check_pass (by simpa [or_iff_not_imp_left] using hdiag)), bind_ok (dev_app x), if_neg (by simp [hok])]
      rfl

/-- Settles O17: the meanings of the five instructions where their checks pass. -/
theorem baseViewAndSystemRegisterWrites : Obligations.BaseViewAndSystemRegisterWrites := by
  unfold Obligations.BaseViewAndSystemRegisterWrites
  intro s iss m hi
  refine ⟨fun k i hown => ?_, fun a w x ha => ⟨fun k hown => ?_, fun k h => exec_setv hi ha h, fun r hr h => exec_wrsr hi ha hr h⟩,
    fun d r t y hr hon ht => exec_rdsr hi hr hon ht⟩
  · refine runSlot_ok hi ?_
    rw [bind_ok (enabled_app m _), setBase_app hown, BitVec.setWidth_setWidth (by decide)]
  · refine runSlot_ok hi ?_
    rw [bind_ok ha, bind_ok (enabled_app m x), setBase_app hown]

end Sys2Proof.Proofs
end

section
/-! Major 0x0C: store streams as they issue (R112 to R126, R238). -/

namespace Sys2Proof.Proofs

open Machine Claim Laws

variable {x y w : Slot} {t : Strm}

/-! ### What the sequencer is after a change of it -/

theorem seqOf_withSeq (x : Slot) (f : Seq → Seq) : seqOf (withSeq x f) = f (seqOf x) := Dev.seq_modSeq ..

theorem seqOf_withIss {f : Issue → Issue} (h : (f x.iss).q = x.iss.q) : seqOf (withIss x f) = seqOf x := by
  simp only [seqOf, withIss, h]

theorem withSeq_withSeq (x : Slot) (f g : Seq → Seq) : withSeq (withSeq x f) g = withSeq x fun s => g (f s) := by
  simp only [withSeq, Dev.modSeq_modSeq]

/-- Changes that agree on the sequencer are one change. -/
theorem withSeq_congr {f g : Seq → Seq} (h : f (seqOf x) = g (seqOf x)) : withSeq x f = withSeq x g := by
  simp only [withSeq, Dev.modSeq]
  exact congrArg (fun s : Seq => ({ x with dev := x.dev.setSeq x.iss.q s } : Slot)) h

/-! ### The order (R238, R247) -/

/-- A slot whose order has gone forward as far as it can. -/
def advanced (x : Slot) : Slot := { x with dev := advance x.iss.q 64 x.dev }

/-- An operation enters the order, or the deferral buffer of an open region (R238). -/
theorem order_app (op : MOp) (x : Slot) : Op.order op x = .ok ((), orderedIn x op) := by
  unfold Op.order
  rw [bind_ok (sqid_app x), bind_ok (me_app x)]
  by_cases hl : (seqOf x).region.levels = []
  · have henter : (Op.modMe (fun s => enterOrder s op) >>= fun _ => Op.modDev (advance x.iss.q 64)) x
        = .ok ((), advanced (withSeq x fun s => enterOrder s op)) := by
      rw [bind_ok (modMe_app ..), modDev_app]
      rfl
    simp only [hl, List.length_nil, if_true]
    rw [henter]
    unfold orderedIn
    rw [if_pos hl]
    cases op with
    | epi e r =>
      refine congrArg (fun z => Except.ok ((), advanced z)) ?_
      rw [epilogued, withSeq_withSeq]
      exact withSeq_congr (by simp only [enterOrder, hl, List.length_nil])
    | rfree c => rfl
    | _ => exact congrArg (fun z => Except.ok ((), advanced z)) (withSeq_congr (by simp only [enterOrder, hl, List.length_nil]))
  · simp only [List.length_eq_zero_iff, hl, if_false, modMe_app]
    unfold orderedIn
    rw [if_neg hl]
    exact congrArg (fun z => Except.ok ((), z)) (withSeq_congr rfl)

/-- What runs only under a condition, and then changes nothing. -/
theorem when_app {α : Type} {c : Prop} [Decidable c] {m : SlotM Unit} {k : Unit → SlotM α} {r : Except Abort (α × Slot)}
    (hm : c → m x = .ok ((), x)) (hk : k () x = r) : (if c then m >>= k else k ()) x = r := by
  split
  · next hc => rw [bind_ok (hm hc), hk]
  · exact hk

/-! ### The checks of a stream (R112, R116, R124, R126) -/

theorem shapeOk_of (h : streamOk x t) : t.shapeOk = true := by
  obtain ⟨hbase, hstride, hrc, -⟩ := h
  simp only [Strm.shapeOk, hbase, hstride, decide_true, Bool.true_and, Bool.or_eq_true, decide_eq_true_eq]
  exact or_iff_not_imp_left.mpr hrc

theorem notControl_app {l : List Nat} (h : (seqOf x).place.control = false) : Op.notControl l x = .ok ((), x) := by
  unfold Op.notControl
  rw [bind_ok (me_app x), h]
  rfl

theorem countedOk_of (h : streamOk x t) (hk : t.kind = .stCf) :
    (t.countedOk fun a => if inStash (mapsAhead x) x.iss.q a 1 then 256 else 128) = true := by
  obtain ⟨-, -, -, -, hcounted, -⟩ := h
  obtain ⟨hstride, hpk, hrc, hbase, hfoot⟩ := hcounted hk
  simp only [Strm.countedOk, hstride, hpk, hrc, decide_true, Bool.true_and, Bool.and_eq_true, decide_eq_true_eq, List.all_eq_true, alignDown]
  exact ⟨hbase, fun e he => ⟨decide_eq_true (hfoot e he).1, decide_eq_true (hfoot e he).2⟩⟩

/-- A stream that the checks accept passes them and changes nothing. -/
theorem checkStream_pass (v : Nat) (h : streamOk x t) : Op.checkStream t v x = .ok ((), x) := by
  obtain ⟨-, -, -, hcontrol, -, hfe, hfoot⟩ := id h
  unfold Op.checkStream
  rw [bind_ok (sqid_app x), bind_ok (check_pass (shapeOk_of h))]
  refine when_app (fun hc => notControl_app (hcontrol (by simpa [or_assoc] using hc))) ?_
  simp only
  rw [bind_ok (mapped_app x)]
  refine when_app (fun hk => check_pass (countedOk_of h hk)) (when_app (fun hk => check_pass ?_) (foot_pass hfoot))
  obtain ⟨hsize, hin⟩ := hfe hk
  simpa [hsize] using hin

/-! ### A store's push (R114, R120, R238) -/

theorem inRegion_app (x : Slot) : Op.inRegion x = .ok (!(seqOf x).region.levels.isEmpty, x) := rfl

theorem deferRoom_pass (h : deferOk x) : Op.deferRoom x = .ok ((), x) := by
  unfold Op.deferRoom
  rw [bind_ok (me_app x)]
  by_cases hl : (seqOf x).region.levels = []
  · rw [if_neg (by simp [hl])]
    rfl
  · rw [if_pos (by simp [hl])]
    exact check_pass (decide_eq_true (h hl))

/-- What the watchpoints set leaves the sequencer's columns and the region's levels (R390). -/
theorem watch_leaves {l : List (Nat × Nat)} (h : Op.watch l y = .ok ((), w)) :
    (seqOf w).cols = (seqOf y).cols ∧ (seqOf w).region.levels = (seqOf y).region.levels := by
  unfold Op.watch at h
  rw [bind_ok (me_app y)] at h
  simp only at h
  generalize List.filterMap _ (List.range 4) = fires at h
  cases fires with
  | nil =>
    cases h
    exact ⟨rfl, rfl⟩
  | cons f fires =>
    obtain ⟨j, a⟩ := f
    simp only at h
    rw [bind_ok (modMe_app ..)] at h
    split at h
    · rw [modIss_app] at h
      cases h
      rw [seqOf_withIss rfl, seqOf_withSeq]
      exact ⟨rfl, rfl⟩
    · rw [modMe_app, withSeq_withSeq] at h
      cases h
      rw [seqOf_withSeq]
      exact ⟨rfl, rfl⟩

/-- The entries that a store stream of elements takes, and its place behind the others, as the push makes them. -/
def enterStore (inside : Bool) (n : Nat) (t : Strm) : SlotM Unit := do
  if 0 < t.cnt then
    Op.modMe fun s => trimCol (s.modCol t.col fun c =>
      { c with saq := if inside then c.saq else c.saq + 1, sdAsg := c.sdAsg + t.entries, asgs := c.asgs ++ [(c.sdAsg, t.entries)] }) t.col
    Op.order (.stream { t with ent0 := n })
    Op.modMe fun s => trimCol s t.col

theorem enterStore_app (t : Strm) (w : Slot) :
    enterStore (!(seqOf w).region.levels.isEmpty) ((seqOf w).col t.col).sdAsg t w = .ok ((), if t.cnt = 0 then w else queueStore w t) := by
  unfold enterStore
  by_cases hcnt : t.cnt = 0
  · rw [if_neg (by simp [hcnt]), if_pos hcnt]
    rfl
  · rw [if_pos (Nat.pos_of_ne_zero hcnt), if_neg hcnt, bind_ok (modMe_app ..), bind_ok (order_app ..), modMe_app]
    refine congrArg (fun z => Except.ok ((), withSeq (orderedIn z _) fun s => trimCol s t.col)) (withSeq_congr ?_)
    by_cases hl : (seqOf w).region.levels = [] <;> simp [hl]

/-- An accepted push leaves what its watchpoints set, and for elements the stream behind the others of its column (R114, R390). -/
theorem pushStore_app {k : StrKind} {z : BitVec 3} {a b : Opnd} {v : Slot} {va vb : Word} (ha : Op.rdS a v = .ok (va, x)) (hb : Op.rdS b x = .ok (vb, y))
    (ht : t = Strm.ofShape k (slotNo y / 2) (slotNo y) z.toNat 0 va.toNat vb.toNat) (hok : streamOk y t) (hdefer : deferOk y)
    (hheld : (seqOf y).region.levels = [] → storesHeld (seqOf y) t.col < 64) (hsize : (seqOf y).region.levels ≠ [] → t.entries ≤ 32)
    (hwatch : Op.watch t.foot y = .ok ((), w)) :
    Op.pushStore k z a b v = .ok ((), if t.cnt = 0 then w else queueStore w t) := by
  have henter := enterStore_app t w
  obtain ⟨hcols, hlevels⟩ := watch_leaves hwatch
  rw [Seq.col, hcols, hlevels] at henter
  unfold Op.pushStore
  rw [bind_ok ha, bind_ok hb, bind_ok (slotNo_app y)]
  simp only [← ht]
  rw [bind_ok (checkStream_pass _ hok), bind_ok (inRegion_app y)]
  by_cases hl : (seqOf y).region.levels = []
  · rw [if_neg (by simp [hl]), bind_ok (deferRoom_pass hdefer), bind_ok (me_app y), if_pos (by simp [hl]), bind_ok (me_app y),
      bind_ok (hold_pass (decide_eq_true (hheld hl))), bind_ok hwatch]
    exact henter
  · rw [if_pos (by simp [hl]), bind_ok (m := Op.rgs) rfl, bind_ok (check_pass (decide_eq_true (hsize hl))), bind_ok (deferRoom_pass hdefer), bind_ok (me_app y),
      if_neg (by simp [hl]), bind_ok hwatch]
    exact henter

/-- Settles O20: the four instructions are one push. -/
theorem storeStreamResults : Obligations.StoreStreamResults := by
  unfold Obligations.StoreStreamResults
  intro e he z a b s iss va vb x y w hi ha hb t hok hdefer hheld hsize hwatch
  have hpush : exec (e.1 z a b) s = runSlot (Op.pushStore e.2 z a b) s := by
    simp only [streamStores, List.mem_cons, List.not_mem_nil, or_false] at he
    rcases he with rfl | rfl | rfl | rfl <;> rfl
  rw [hpush]
  exact runSlot_ok hi (pushStore_app ha hb rfl hok hdefer hheld hsize hwatch)

end Sys2Proof.Proofs
end

section
/-! Where an access of a sequencer goes, after a change of its queues and its order alone. -/

namespace Sys2Proof.Proofs

open Machine Claim

/-- A change of a sequencer that keeps its place and its counted lines. -/
def KeepsWays (f : Seq → Seq) : Prop := ∀ s, (f s).place = s.place ∧ (f s).lines = s.lines

variable {f : Seq → Seq}

theorem seqWay_modSeq (hf : KeepsWays f) (d : Dev) (q va : Nat) : seqWay (d.modSeq q f) q va = seqWay d q va := by
  simp only [seqWay, Dev.seq_modSeq, (hf _).1]
  rfl

theorem lclOf_modSeq (d : Dev) (q l i : Nat) : lclOf (d.modSeq q f) l i = lclOf d l i := rfl

theorem inStash_modSeq (hf : KeepsWays f) (d : Dev) (q va n : Nat) : inStash (d.modSeq q f) q va n = inStash d q va n := by
  simp only [inStash, Dev.seq_modSeq, (hf _).1, lclOf_modSeq]

theorem accessWay_modSeq (hf : KeepsWays f) (d : Dev) (q va : Nat) : accessWay (d.modSeq q f) q va = accessWay d q va := by
  simp only [accessWay, unitAt, inStash_modSeq hf, seqWay_modSeq hf, Dev.seq_modSeq, (hf _).1, (hf _).2, lclOf_modSeq]

theorem feReady_modSeq (hf : KeepsWays f) (d : Dev) (q va n : Nat) (k : StrKind) : feReady (d.modSeq q f) q va n k = feReady d q va n k := by
  simp only [feReady, Dev.seq_modSeq, (hf _).1, lclOf_modSeq]

theorem accessWay_entryFor (q : Nat) (t : Strm) (d : Dev) (va : Nat) : accessWay (entryFor q t d) q va = accessWay d q va := by
  unfold entryFor
  split
  · unfold newEnt
    apply accessWay_modSeq
    exact fun _ => ⟨rfl, rfl⟩
  · rfl

end Sys2Proof.Proofs
end

section
/-! A bundle that comes to its checks (R71, R84). -/

namespace Sys2Proof.Proofs

open Machine Claim

/-- What the checks of a bundle leave, when its sequencer runs and nothing else comes first: the bundle takes effect, or the device stands
as it did before the writes that are due. -/
def issueChecked (q : Nat) (b : List (Nat × Nat)) (s : State) : State :=
  let x := s.dev.seq q
  let d := s.dev.setSeq q x
  let d1 := landDue q d
  match checkBundle (d1.seq q) b with
  | .error t => endBundle { s with base := d } q (.trap t)
  | .ok is =>
    let safe := is.find? fun e => match e.2 with | .safe _ => true | .hopt _ => true | _ => false
    match (match safe with | some e => safeGate d1 q e.1 | none => .ok ()) with
    | .error a => endBundle { s with base := d } q a
    | .ok _ =>
      match interlocks d q is with
      | .error a => endBundle { s with base := d } q a
      | .ok _ =>
        let iss : Issue := { q := q, rest := b, pc := x.pc, retry := x.region.retrying, pld := x.pld.length }
        let d1 := d1.modSeq q fun x => { x with region := { x.region with retrying := false } }
        if b.isEmpty then finish { s with base := d, dev := d1 } iss else { s with base := d, dev := d1, issue := some iss }

theorem bundleIssue_checked {s : State} {q : Nat} {h : Half} {l r : List (Nat × Nat)} (hr : readyToIssue s q h l r) :
    exec .bundleIssue s = .next (issueChecked q (l ++ r) { s with dev := broughtOn q s.dev }) := by
  obtain ⟨⟨k, hturn⟩, hissue, hlead, hforbid, hswitch, hrun, hstep, hsafe, hrend, hforeign, hwatch, hfault, hhalted, hnop, hfall, hhalf, hseg, hbundle, -, -⟩ := hr
  show execBundleIssue s = _
  unfold execBundleIssue
  have hbrought : advance q (ordFuel (s.dev.seq q).ord) s.dev = broughtOn q s.dev := rfl
  simp only [hturn, hlead, hbrought]
  generalize broughtOn q s.dev = d at *
  have hforeign' : ((d.seq q).foreignDue && decide ((d.seq q).owedForeign ≠ 0)) = false := by
    simpa [Bool.and_eq_false_iff, or_iff_not_imp_left] using hforeign
  have hbring : bring (d.seq q) = .ok (d.seq q) := by simp only [bring, hhalf, hseg, if_true]
  have hbundle' : ((d.seq q).half.map (·.bundles)).bind (fun l => l[(d.seq q).pc.idx]?) = some (l ++ r) := by simp [hhalf, hbundle]
  simp only [hforbid, issueBundle, hrun, hissue, hswitch, hstep, hsafe, hrend, hwatch, hfault, hhalted, hnop, hfall, hbring, hbundle', hforeign',
    Bool.false_eq_true, if_false, reduceCtorEq, decide_false, Bool.false_and, Bool.or_self, ne_eq, not_true_eq_false, Option.isSome_none,
    lt_self_iff_false]
  rfl

/-- A bundle whose checks pass lands the writes that are due and begins with its first slot (R71). -/
theorem bundleIssue_begun {s : State} {q : Nat} {h : Half} {b : List (Nat × Nat)} {is : List (Nat × Instr)} (hr : readyToIssue s q h [] b) (hb : b ≠ [])
    (hcheck : checkBundle ((landDue q ((broughtOn q s.dev).setSeq q ((broughtOn q s.dev).seq q))).seq q) b = .ok is)
    (hsafe : ∀ e ∈ is, ∀ k, e.2 ≠ .safe k ∧ e.2 ≠ .hopt k)
    (hlocks : interlocks ((broughtOn q s.dev).setSeq q ((broughtOn q s.dev).seq q)) q is = .ok ()) :
    let x := (broughtOn q s.dev).seq q
    let d0 := (broughtOn q s.dev).setSeq q x
    exec .bundleIssue s = .next { s with
      dev := (landDue q d0).modSeq q (fun y => { y with region := { y.region with retrying := false } }), base := d0,
      issue := some { q := q, rest := b, pc := x.pc, retry := x.region.retrying, pld := x.pld.length } } := by
  have hnone : (is.find? fun e => match e.2 with | .safe _ => true | .hopt _ => true | _ => false) = none := by
    rw [List.find?_eq_none]
    intro e he
    have hne := hsafe e he
    split
    · next k hk => exact absurd hk (hne k).1
    · next k hk => exact absurd hk (hne k).2
    · decide
  rw [bundleIssue_checked hr]
  simp only [issueChecked, List.nil_append, hcheck, hnone, hlocks, List.isEmpty_iff, hb, if_false]

end Sys2Proof.Proofs
end

section
/-! Steps of a sequencer's order (R113 to R128, R247 to R251, R265). -/

namespace Sys2Proof.Proofs

open Machine Claim

variable {s : State} {d e : Dev} {q c k : Nat} {t : Strm} {f : Dev → Option Dev}

theorem not_forbidden_of_not_held (h : headHeld d q = false) : headForbidden d q = false := (Bool.or_eq_false_iff.mp h).2

/-- A step of an order whose head may take its place is made between what needs no step of its own. -/
theorem orderStep_eq (hheld : headHeld (broughtOn q d) q = false) (hf : f (broughtOn q d) = some e) :
    orderStep q f d = some (advance q (ordFuel (d.seq q).ord) e) := by
  show (if headForbidden (broughtOn q d) q = true then _ else if headHeld (broughtOn q d) q = true then _ else (f (broughtOn q d)).map _) = _
  rw [not_forbidden_of_not_held hheld, hheld, hf]
  rfl

/-- A stream at the head of an order needs a step of its own: nothing goes forward before it. -/
theorem advance_stream {o : OrdOp} {l : List OrdOp} (ho : (d.seq q).ord = o :: l) (ht : o.op = .stream t) (n : Nat) : advance q n d = d := by
  cases n with
  | zero => rfl
  | succ n =>
    unfold advance
    split
    · rfl
    · simp only [autoHead, ho, ht]

theorem farTurn_lt (h : k < 2) : farTurn k = none := if_neg (Nat.not_le.mpr h)

theorem farTurn_add (k : Nat) : farTurn (k + 2) = some k := if_pos (Nat.le_add_left 2 k)

theorem isLoad_ld (hk : t.kind = .ld) : (MOp.stream t).isLoad = true := by simp only [MOp.isLoad, hk]
theorem isLoad_ldFe (hk : t.kind = .ldFe) : (MOp.stream t).isLoad = true := by simp only [MOp.isLoad, hk]
theorem isLoad_st (hk : t.kind = .st) : (MOp.stream t).isLoad = false := by simp only [MOp.isLoad, hk]

/-! ### Elements -/

/-- A load that may read memory at a location does so; it has its entry first (R113). -/
theorem loadMem_entryFor {loc : Nat} {w : Bool} (hway : accessWay d q (t.addr t.next) = .here loc true w) :
    (loadMem q t.col (((entryFor q t d).seq q).entCtr - 1) (t.next % t.per) (t.addr t.next) t.esz true (entryFor q t d)).map (nextElem q t)
      = some (elementRead q t loc d) := by
  simp only [loadMem, (accessWay_entryFor q t d (t.addr t.next)).trans hway]
  rfl

theorem loadElem_ld {loc : Nat} {w : Bool} (hk : t.kind = .ld) (hway : accessWay d q (t.addr t.next) = .here loc true w) :
    loadElem q t d = some (elementRead q t loc d) := by
  simp only [loadElem, hk]
  exact loadMem_entryFor hway

/-- An element of a full/empty load whose granules are full (R126). -/
theorem loadElem_ldFe {loc loc2 : Nat} {w w2 : Bool} (hk : t.kind = .ldFe) (hfull : feReady d q (t.addr t.next) t.esz .ldFe = true)
    (hseq : seqWay d q (t.addr t.next) = .here loc2 true w2) (hway : accessWay d q (t.addr t.next) = .here loc true w) :
    loadElem q t d = some (elementRead q t loc d) := by
  simp only [loadElem, hk, hseq, hfull, if_true]
  exact loadMem_entryFor hway

theorem storeElem_st {loc : Nat} {r : Bool} (hk : t.kind = .st) (hway : accessWay d q (t.addr t.next) = .here loc r true) :
    storeElem q t d = some (nextElem q t (storeAt q t loc d)) := by
  simp only [storeElem, hk, storeMem, hway]

theorem loadElementPerform_became {loc : Nat} {w : Bool} (hturn : s.turn = .agent q c) (hc : c < 2) (hhead : headStream (broughtOn q s.dev) q t)
    (hk : t.kind = .ld) (hway : accessWay (broughtOn q s.dev) q (t.addr t.next) = .here loc true w) :
    exec .loadElementPerform s = became s (advance q (ordFuel (s.dev.seq q).ord) (elementRead q t loc (broughtOn q s.dev))) := by
  obtain ⟨hheld, o, l, hord, hop, hwaits⟩ := hhead
  show execLoadElementPerform s = _
  unfold execLoadElementPerform
  refine runEvent_became ?_
  simp only [hturn, farTurn_lt hc]
  refine orderStep_eq hheld ?_
  simp only [headOp, hord, List.head?_cons, hop, isLoad_ld hk, hwaits, loadElem_ld hk hway, Bool.not_true, Bool.or_self, Bool.false_eq_true, if_false]

theorem storeElementPerform_became {loc : Nat} {r : Bool} (hturn : s.turn = .agent q 0) (hhead : headStream (broughtOn q s.dev) q t)
    (hk : t.kind = .st) (hway : accessWay (broughtOn q s.dev) q (t.addr t.next) = .here loc r true) :
    exec .storeElementPerform s
      = became s (advance q (ordFuel (s.dev.seq q).ord) (nextElem q t (storeAt q t loc (broughtOn q s.dev)))) := by
  obtain ⟨hheld, o, l, hord, hop, hwaits⟩ := hhead
  show execStoreElementPerform s = _
  unfold execStoreElementPerform
  refine runEvent_became ?_
  simp only [hturn, zero_ne_one, if_false, farTurn_lt Nat.zero_lt_two]
  refine orderStep_eq hheld ?_
  simp only [headOp, hord, List.head?_cons, hop, isLoad_st hk, hwaits, storeElem_st hk hway, Bool.or_self, Bool.false_eq_true, if_false]

/-- A store that waited for its page takes its place when the page is there (R121). -/
theorem storeStreamResume_became {loc : Nat} {r : Bool} {o : OrdOp} {l : List OrdOp} (hturn : s.turn = .agent q c) (hord : (s.dev.seq q).ord = o :: l)
    (hop : o.op = .stream t) (hk : t.kind = .st) (hmiss : (s.dev.seq q).missWait = true) (hnone : (s.dev.seq q).storeMiss = none)
    (hway : accessWay s.dev q (t.addr t.next) = .here loc r true) :
    let e := s.dev.setSeq q { s.dev.seq q with missWait := false, ord := { o with waits := false } :: l }
    headHeld e q = false →
    exec .storeStreamResume s = became s (advance q (ordFuel (s.dev.seq q).ord) (nextElem q t (storeAt q t loc e))) := by
  intro e hheld
  have hord' : (e.seq q).ord = { o with waits := false } :: l := by simp [e]
  have hbrought : broughtOn q e = e := advance_stream hord' hop _
  have hway' : accessWay e q (t.addr t.next) = .here loc r true :=
    (accessWay_modSeq (f := fun y => { y with missWait := false, ord := { o with waits := false } :: l }) (fun _ => ⟨rfl, rfl⟩) s.dev q _).trans hway
  have hstep : headStep q e = some (nextElem q t (storeAt q t loc e)) := by
    simp only [headStep, hord', hheld, hop, isLoad_st hk, storeElem_st hk hway', Bool.false_eq_true, if_false]
  have horder := orderStep_eq (f := headStep q) (d := e) (by rwa [hbrought]) (by rwa [hbrought])
  show execStoreStreamResume s = _
  unfold execStoreStreamResume
  refine runEvent_became ?_
  simp only [hturn, hord]
  rw [if_neg (by simp [hmiss, hnone]), if_pos (by simp [hop, MOp.nextAddrs, hway])]
  refine horder.trans ?_
  simp only [hord', ordFuel, List.map_cons]

/-- A full/empty load that waited goes on when its granules are full (R126, R251). -/
theorem fullEmptyWaitEnd_became {loc loc2 : Nat} {w w2 : Bool} {o : OrdOp} {l : List OrdOp} (hturn : s.turn = .agent q c)
    (hord : (s.dev.seq q).ord = o :: l) (hop : o.op = .stream t) (hk : t.kind = .ldFe) (hwaits : o.waits = true) (hmiss : (s.dev.seq q).missWait = false)
    (hfull : feReady s.dev q (t.addr t.next) t.esz .ldFe = true) (hseq : seqWay s.dev q (t.addr t.next) = .here loc2 true w2)
    (hway : accessWay s.dev q (t.addr t.next) = .here loc true w) :
    let e := s.dev.modSeq q fun y => { y with ord := { o with waits := false } :: l }
    headHeld e q = false → exec .fullEmptyWaitEnd s = became s (advance q (ordFuel (s.dev.seq q).ord) (elementRead q t loc e)) := by
  intro e hheld
  have hkeeps : KeepsWays fun y => { y with ord := { o with waits := false } :: l } := fun _ => ⟨rfl, rfl⟩
  have hord' : (e.seq q).ord = { o with waits := false } :: l := by simp [e]
  have hbrought : broughtOn q e = e := advance_stream hord' hop _
  have hstep : headStep q e = some (elementRead q t loc e) := by
    simp only [headStep, hord', hheld, hop, isLoad_ldFe hk, Bool.false_eq_true, if_false, if_true]
    exact loadElem_ldFe hk ((feReady_modSeq hkeeps ..).trans hfull) ((seqWay_modSeq hkeeps ..).trans hseq) ((accessWay_modSeq hkeeps ..).trans hway)
  have horder := orderStep_eq (f := headStep q) (d := e) (by rwa [hbrought]) (by rwa [hbrought])
  show execFullEmptyWaitEnd s = _
  unfold execFullEmptyWaitEnd
  refine runEvent_became ?_
  simp only [hturn, hord]
  split
  · next x hx =>
    obtain rfl : x = t := MOp.stream.inj (hx.symm.trans hop)
    rw [if_neg (by simp [hwaits, hmiss, hk, hfull])]
    refine horder.trans ?_
    simp only [hord', ordFuel, List.map_cons]
  · next hx => exact absurd hop (hx t)

/-! ### Atomics -/

variable {a : Atom} {o : OrdOp} {l : List OrdOp}

theorem atomPerform_whole {loc : Nat} (hsy : a.sc = 2 → (d.seq q).far = [] ∧ (d.seq q).unacked = 0) (hway : accessWay d q a.addr = .here loc true true) :
    atomPerform q a d = some (atomPlaced q a loc d) := by
  have hfree : (a.sc = 2 && (!(d.seq q).far.isEmpty || decide ((d.seq q).unacked ≠ 0))) = false := by
    by_cases h : a.sc = 2 <;> simp [h, hsy]
  simp only [atomPerform, hfree, hway, atomPlaced, leaveQueue]
  cases a.ret <;> rfl

theorem atomicPerform_became (hturn : s.turn = .agent q c) (hc : c < 2) (hord : ((broughtOn q s.dev).seq q).ord = o :: l) (hop : o.op = .atom a)
    (hwaits : o.waits = false) (hheld : headHeld (broughtOn q s.dev) q = false)
    (hstep : (if a.half then atomWrite q (broughtOn q s.dev) else if c = 1 then atomRead q a (broughtOn q s.dev) else atomPerform q a (broughtOn q s.dev)) = some e) :
    exec .atomicPerform s = became s (advance q (ordFuel (s.dev.seq q).ord) e) := by
  show execAtomicPerform s = _
  unfold execAtomicPerform
  refine runEvent_became ?_
  simp only [hturn, farTurn_lt hc]
  refine orderStep_eq hheld ?_
  simp only [headOp, hord, List.head?_cons, hop, hwaits, Bool.false_eq_true, if_false]
  exact hstep

/-! ### Accesses on their way to the host (R265) -/

/-- The accesses of a sequencer that are left when access k has its place: the commands that forked behind it alone are free. -/
def farLeft (k : Nat) (y : Seq) : Seq := { y with far := (y.far.eraseIdx k).dropWhile fun z => match z with | .fork .. => true | _ => false }

theorem farStep_eq {fits : Placed → Bool} {p : Placed} (hp : (d.seq q).far[k]? = some p) (hfits : fits p = true)
    (hpage : ∀ z ∈ (d.seq q).far.take k, z.range.2.1 / 16384 ≠ p.range.2.1 / 16384) :
    farStep q k fits d = some (perform (d.modSeq q (farLeft k)) p) := by
  have hany : (((d.seq q).far.take k).any fun o => decide (o.range.2.1 / 16384 = p.range.2.1 / 16384)) = false := by
    simpa [List.any_eq_false] using hpage
  simp only [farStep, hp, hfits, hany]
  rfl

/-- The accesses to the host that the step of store elements takes: writes, but no atomic and no fork of a command. -/
def farWrite : Placed → Bool
  | .rmw .. => false
  | .fork .. => false
  | p => !p.isRead

section
variable {p : Placed} (hturn : s.turn = .agent q (k + 2)) (hp : (s.dev.seq q).far[k]? = some p)
  (hpage : ∀ z ∈ (s.dev.seq q).far.take k, z.range.2.1 / 16384 ≠ p.range.2.1 / 16384)
include hturn hp hpage

theorem loadElementPerform_far (h : p.isRead = true) : exec .loadElementPerform s = became s (perform (s.dev.modSeq q (farLeft k)) p) := by
  show execLoadElementPerform s = _
  refine runEvent_became ?_
  simp only [hturn, farTurn_add]
  exact farStep_eq hp h hpage

theorem storeElementPerform_far (h : farWrite p = true) : exec .storeElementPerform s = became s (perform (s.dev.modSeq q (farLeft k)) p) := by
  show execStoreElementPerform s = _
  refine runEvent_became ?_
  simp only [hturn, farTurn_add, Nat.reduceEqDiff, if_false]
  exact farStep_eq hp h hpage

theorem atomicPerform_far {o col e va op b m y y2 : Nat} {ret : Bool} (h : p = .rmw o col e va ret op b m y y2) :
    exec .atomicPerform s = became s (perform (s.dev.modSeq q (farLeft k)) p) := by
  subst h
  show execAtomicPerform s = _
  refine runEvent_became ?_
  simp only [hturn, farTurn_add]
  exact farStep_eq hp rfl hpage
end

end Sys2Proof.Proofs
end

section
/-! Entries, waits, segments and requests (R24, R78, R113, R131, R194, R370, R392). -/

namespace Sys2Proof.Proofs

open Machine Claim

variable {s : State} {q c : Nat}

theorem segmentExpansionComplete_became {p : Pc} {h : Half} (hturn : s.turn = .agent q c) (hrun : (s.dev.seq q).run ≠ .absent)
    (hwant : (s.dev.seq q).want = some p) (hseg : expandSeg s.dev q p.seg = some h) :
    exec .segmentExpansionComplete s = became s (touchCode q h (s.dev.setSeq q { s.dev.seq q with other := some h, want := none })) := by
  show execSegmentExpansionComplete s = _
  refine runEvent_became ?_
  simp only [hturn]
  rw [if_neg hrun]
  simp only [hwant, Option.bind_some, hseg, Option.map_some]

theorem loadEntryDeliver_became {e : LdEnt} {l : List LdEnt} (hturn : s.turn = .agent q c) (hfill : ((s.dev.seq q).col c).fill = e :: l)
    (hwhole : e.elems ≤ e.filled) (hroom : ((s.dev.seq q).col c).ldq.length < 64) :
    exec .loadEntryDeliver s = became s (s.dev.modSeq q fun y => y.modCol c fun z =>
      { z with fill := l, ldq := z.ldq ++ [e], laq := if e.last then z.laq - 1 else z.laq }) := by
  show execLoadEntryDeliver s = _
  refine runEvent_became ?_
  simp only [hturn, hfill]
  rw [if_neg (by simp [hwhole, hroom])]

/-! ### Waits -/

/-- A wait whose condition holds of what stands ends (R131, R194). -/
theorem wake_eq {loc value kind v : Nat} {fits : Nat → Nat → Bool} {d : Dev} (hwait : (d.seq q).waitOn = some (loc, value, kind)) (hfits : fits loc kind = true)
    (hread : readNow d loc 8 q = some v) (hmet : waitMet kind value v = true) : wake q fits d = some (d.setSeq q { d.seq q with woke := some true }) := by
  simp only [wake, hwait, hfits, hread, hmet, Bool.not_true, Bool.false_eq_true, if_false, if_true]

theorem waitMet_mwait {kind value v : Nat} (h : (kind = 0 ∧ v ≠ value) ∨ (kind = 1 ∧ value ≤ v)) : kind < 2 ∧ waitMet kind value v = true := by
  rcases h with ⟨rfl, h⟩ | ⟨rfl, h⟩
  · exact ⟨by decide, decide_eq_true h⟩
  · exact ⟨by decide, decide_eq_true h⟩

theorem waitMet_bwait {value v : Nat} (h : v / 2 ^ 63 % 2 ≠ value % 2) : waitMet 2 value v = true := by
  show (bit v 63 != bit value 0) = true
  have := Nat.mod_two_eq_zero_or_one (v / 2 ^ 63)
  have := Nat.mod_two_eq_zero_or_one value
  simp [bit]
  omega

/-! ### Requests -/

section
variable {k : ReqKind} {y : Launch} (hturn : s.turn = .request q k)
include hturn

theorem asyncRequest_seq_preempt (hq : q < 2048) (hrun : (s.dev.seq q).run = .running) (hy : s.dev.launch? (s.dev.seq q).place.launch = some y)
    (hk : k = .preempt) (hst : y.st = .running) : exec .asyncRequest s = became s (preempt s.dev (s.dev.seq q).place.launch) := by
  subst hk
  show execAsyncRequest s = _
  refine runEvent_became ?_
  simp [hturn, Nat.not_le.mpr hq, hrun, hy, hst]

theorem asyncRequest_seq (hq : q < 2048) (hrun : (s.dev.seq q).run = .running) (hy : s.dev.launch? (s.dev.seq q).place.launch = some y)
    (hk : (k = .park ∧ y.st = .parked) ∨ (k = .stop ∧ (s.dev.seq q).owner = true)) (hnew : k ∉ (s.dev.seq q).reqs) :
    exec .asyncRequest s = became s (s.dev.modSeq q fun z => { z with reqs := z.reqs ++ [k] }) := by
  show execAsyncRequest s = _
  refine runEvent_became ?_
  rcases hk with ⟨rfl, hst⟩ | ⟨rfl, howner⟩
  · simp [hturn, Nat.not_le.mpr hq, hrun, hy, hst, hnew]
  · simp [hturn, Nat.not_le.mpr hq, hrun, howner, hnew]

theorem asyncRequest_unit_preempt (hq : 2048 ≤ q) (hrun : (s.dev.unit (q - 2048)).run = .running)
    (hy : s.dev.launch? (s.dev.unit (q - 2048)).launch = some y) (hk : k = .preempt) (hst : y.st = .running) :
    exec .asyncRequest s = became s (preempt s.dev (s.dev.unit (q - 2048)).launch) := by
  subst hk
  show execAsyncRequest s = _
  refine runEvent_became ?_
  simp [hturn, hq, hrun, hy, hst]

theorem asyncRequest_unit_park (hq : 2048 ≤ q) (hrun : (s.dev.unit (q - 2048)).run = .running)
    (hy : s.dev.launch? (s.dev.unit (q - 2048)).launch = some y) (hk : k = .park) (hst : y.st = .parked) (hnew : k ∉ (s.dev.unit (q - 2048)).reqs) :
    exec .asyncRequest s = became s (s.dev.modUnit (q - 2048) fun z => { z with reqs := z.reqs ++ [k] }) := by
  subst hk
  show execAsyncRequest s = _
  refine runEvent_became ?_
  simp [hturn, hq, hrun, hy, hst, hnew]
end

/-! ### The steps -/

/-- Settles O50: each step by the lemma about it. -/
theorem memoryStepResults : Obligations.MemoryStepResults := by
  unfold Obligations.MemoryStepResults
  intro s q c hturn
  refine ⟨?issue, ?segment, ?load, ?store, ?atomic, ?far, ?resume, ?fullEmpty, ?deliver, ?waits, ?requests⟩
  case issue => exact fun h b is hr hb hcheck hsafe hlocks => bundleIssue_begun hr hb hcheck hsafe hlocks
  case segment => exact fun p h hrun hwant hseg => segmentExpansionComplete_became hturn hrun hwant hseg
  case load => exact fun t loc w hc hhead hk hway => loadElementPerform_became hturn hc hhead hk hway
  case store => exact fun t loc r hc hhead hk hway => storeElementPerform_became (hc ▸ hturn) hhead hk hway
  case atomic =>
    intro a o l hord hop hwaits hheld
    refine ⟨fun loc hc hhalf hsy hway => ?_, fun y hc hhalf hsplit => ?_⟩
    · subst hc
      refine atomicPerform_became hturn (by decide) hord hop hwaits hheld ?_
      rw [hhalf, if_neg Bool.false_ne_true, if_neg (by decide)]
      exact atomPerform_whole hsy hway
    · refine atomicPerform_became hturn hc hord hop hwaits hheld ?_
      rw [hhalf, if_pos rfl, atomWrite, hsplit, Option.map_some]
  case far =>
    rintro i k p hc hp hpage hi
    subst hc
    rcases hi with ⟨rfl, hread⟩ | ⟨rfl, _, _, _, _, rfl⟩ | ⟨rfl, _, _, _, _, _, _, _, _, rfl⟩ | ⟨rfl, _, _, _, _, _, _, rfl⟩
      | ⟨rfl, _, _, _, _, _, _, _, _, _, _, hrmw⟩
    · exact loadElementPerform_far hturn hp hpage hread
    · exact storeElementPerform_far hturn hp hpage rfl
    · exact storeElementPerform_far hturn hp hpage rfl
    · exact storeElementPerform_far hturn hp hpage rfl
    · exact atomicPerform_far hturn hp hpage hrmw
  case resume =>
    exact fun t loc r o l hord hop hk hmiss hnone hway => storeStreamResume_became hturn hord hop hk hmiss hnone hway
  case fullEmpty =>
    exact fun t loc loc2 w w2 o l hord hop hk hwaits hmiss hfull hseq hway =>
      fullEmptyWaitEnd_became hturn hord hop hk hwaits hmiss hfull hseq hway
  case deliver => exact fun e l hfill hwhole hroom => loadEntryDeliver_became hturn hfill hwhole hroom
  case waits =>
    intro loc value kind v hwait hread
    refine ⟨fun hmet => ⟨fun hbias => ?_, fun hbias => ?_⟩, fun hkind hmet => ?_⟩
    · obtain ⟨hkind, hwaitMet⟩ := waitMet_mwait hmet
      show execMwaitWake s = _
      refine runEvent_became ?_
      simp only [hturn]
      exact wake_eq hwait (by simp [hkind, hbias]) hread hwaitMet
    · obtain ⟨hkind, hwaitMet⟩ := waitMet_mwait hmet
      show execHostBiasMwaitPoll s = _
      refine runEvent_became ?_
      simp only [hturn]
      exact wake_eq hwait (by simp [hkind, hbias]) hread hwaitMet
    · subst hkind
      show execBwaitWake s = _
      refine runEvent_became ?_
      simp only [hturn]
      exact wake_eq hwait rfl hread (waitMet_bwait hmet)
  case requests =>
    intro k y
    refine ⟨fun hq hrun hy => ⟨fun hk hst => ?_, fun hk hnew => ?_⟩, fun hq hrun hy => ⟨fun hk hst => ?_, fun hk hst hnew => ?_⟩⟩
    · exact asyncRequest_seq_preempt rfl hq hrun hy hk hst
    · exact asyncRequest_seq rfl hq hrun hy hk hnew
    · exact asyncRequest_unit_preempt rfl hq hrun hy hk hst
    · exact asyncRequest_unit_park rfl hq hrun hy hk hst hnew

end Sys2Proof.Proofs
end

section
/-! Bytes that stand in memory, and the numbers in them (R385). -/

namespace Sys2Proof.Proofs

open Machine Claim

/-- The bytes stand in memory from an address on. -/
def Holds (m : Mem) (a : Nat) (l : Bytes) : Prop := m.read a l.length = l

variable {m : Mem} {a n v : Nat} {l : Bytes}

theorem holds_iff : Holds m a l ↔ ∀ i < l.length, m.get (a + i) = l.getD i 0 := by
  unfold Holds Mem.read
  rw [List.ext_getElem_iff]
  simp only [List.length_map, List.length_range, List.getElem_map, List.getElem_range, true_and]
  refine forall_congr' fun i => ⟨fun h hi => ?_, fun h hi _ => ?_⟩
  · rw [h hi hi, List.getD_eq_getElem _ _ hi]
  · rw [h hi, List.getD_eq_getElem _ _ hi]

theorem holds_write (h : m.wf = true) (a : Nat) (l : Bytes) : Holds (m.write a l) a l := by
  rw [holds_iff]
  intro i hi
  rw [Mem.get_write h, if_pos (by omega), Nat.add_sub_cancel_left]

theorem holds_append {k : Bytes} : Holds m a (l ++ k) ↔ Holds m a l ∧ Holds m (a + l.length) k := by
  simp only [holds_iff, List.length_append]
  refine ⟨fun h => ⟨fun i hi => ?_, fun i hi => ?_⟩, fun h i hi => ?_⟩
  · rw [h i (by omega), List.getD_append _ _ _ _ hi]
  · rw [Nat.add_assoc, h (l.length + i) (by omega), List.getD_append_right _ _ _ _ (by omega), Nat.add_sub_cancel_left]
  · by_cases hl : i < l.length
    · rw [List.getD_append _ _ _ _ hl, h.1 i hl]
    · rw [List.getD_append_right _ _ _ _ (by omega), ← h.2 (i - l.length) (by omega)]
      congr 1
      omega

/-- Runs of n bytes that stand one behind the other. -/
theorem Holds.of_flatten {ls : List Bytes} (hn : ∀ k ∈ ls, k.length = n) (h : Holds m a ls.flatten) {k : Nat} (hk : ls[k]? = some l) :
    Holds m (a + n * k) l := by
  induction ls generalizing a k with
  | nil => simp at hk
  | cons x ls ih =>
    rw [List.flatten_cons, holds_append, hn x List.mem_cons_self] at h
    cases k with
    | zero =>
      obtain rfl : x = l := by simpa using hk
      exact h.1
    | succ k =>
      have := ih (fun k hk => hn k (List.mem_cons_of_mem x hk)) h.2 (by simpa using hk)
      rwa [Nat.add_assoc, Nat.add_comm n, ← Nat.mul_succ] at this

theorem Holds.num (h : Holds m a (toLe n v)) : m.num a n = v % 2 ^ (8 * n) := by
  unfold Holds at h
  rw [length_toLe] at h
  rw [Mem.num, h, leNat_toLe]

/-- A number among bytes that have been read is the one in memory. -/
theorem leNat_read {lo k : Nat} (h : lo + k ≤ n) : leNat (((m.read a n).drop lo).take k) = m.num (a + lo) k := by
  rw [Mem.num]
  congr 1
  apply List.ext_getElem
  · simp [Mem.read]
    omega
  · intro i _ _
    simp [Mem.read, Nat.add_assoc]

end Sys2Proof.Proofs
end

section
/-! A write of the Gaffer on a device on which nothing is outstanding: its bytes stand in memory at once (R249, R353). -/

namespace Sys2Proof.Proofs

open Machine Claim

variable {d : Dev} {own loc : Nat} {l : Bytes}

/-- What the update of a stream leaves, seeing a write of a WIX word leaves. -/
theorem wixSeen_part {α : Type} (π : Dev → α) (h : ∀ d t m f, π (d.modStream t m f) = π d) (loc n : Nat) (d : Dev) : π (wixSeen loc n d) = π d := by
  have fold {β : Type} (f : Dev → β → Dev) (hf : ∀ d b, π (f d b) = π d) (l : List β) (d : Dev) : π (l.foldl f d) = π d := by
    induction l generalizing d with
    | nil => rfl
    | cons b l ih => rw [List.foldl_cons, ih, hf]
  unfold wixSeen
  refine fold _ (fun d t => ?_) _ d
  split
  · refine fold _ (fun d m => ?_) _ d
    split
    · exact h ..
    · rfl
  · rfl

/-- Bytes that land change the memory and its poison marks alone. -/
theorem landBytes_some (d : Dev) (loc : Nat) (l : Bytes) : ∃ p, landBytes d loc (l.map some) = { d with mem := d.mem.write loc l, poison := p } := by
  have key : ∀ (l : Bytes) (k : Nat) (d : Dev), ∃ p, (((l.map some).zipIdx k).foldl (fun d e =>
      match e.1 with
      | some b => { d with mem := d.mem.set (loc + e.2) b, poison := d.poison.filter fun a => decide (a ≠ loc + e.2) }
      | none => d) d) = { d with mem := d.mem.write (loc + k) l, poison := p } := by
    intro l
    induction l with
    | nil => exact fun k d => ⟨d.poison, rfl⟩
    | cons b l ih => exact fun k d => ih (k + 1) { d with mem := d.mem.set (loc + k) b, poison := d.poison.filter fun a => decide (a ≠ loc + k) }
  exact key l 0 d

/-- A row of bytes that stand, alone in the order, goes to memory. -/
theorem settle_row (h : d.placed = [.row own loc l false]) : settle d = { wixSeen loc l.length (landBytes d loc (l.map some)) with placed := [] } := by
  simp [settle, h, resolve, drain, staysBehind, land]

theorem noteWrite_unwatched (h : d.mmu.watches = []) (own loc n : Nat) : noteWrite d own loc n = touch d loc := by
  have hw : (touch d loc).mmu.watches = [] := by
    unfold touch
    split
    · exact h
    · exact h
  rw [noteWrite, hw, List.foldl_nil]

/-- With nothing outstanding, no divided atomic and no watch, bytes are written in one place. -/
theorem placeBytes_alone (hp : d.placed = []) (hs : d.splits = []) (hw : d.mmu.watches = []) (own loc : Nat) (l : Bytes) :
    (placeBytes d own loc l).mem = d.mem.write loc l ∧ (placeBytes d own loc l).placed = [] ∧ (placeBytes d own loc l).seqs = d.seqs
    ∧ (placeBytes d own loc l).tenants = d.tenants := by
  have hplace : place d (.row own loc l false)
      = { wixSeen loc l.length (landBytes { d with placed := [.row own loc l false] } loc (l.map some)) with placed := [] } := by
    rw [← settle_row rfl]
    simp [place, closeSplits, hs, hp]
  obtain ⟨p, hland⟩ := landBytes_some { d with placed := [.row own loc l false] } loc l
  rw [hland] at hplace
  have hunwatched : (place d (.row own loc l false)).mmu.watches = [] := by
    rw [hplace]
    exact (wixSeen_part (fun d => d.mmu.watches) (fun _ _ _ _ => rfl) loc _ _).trans hw
  have hperform : placeBytes d own loc l = touch (place d (.row own loc l false)) loc := noteWrite_unwatched hunwatched own loc l.length
  have htouch {α : Type} (π : Dev → α) (h : ∀ d n f, π (d.modFrame n f) = π d) : π (placeBytes d own loc l) = π (place d (.row own loc l false)) := by
    rw [hperform]
    unfold touch
    split
    · exact h ..
    · rfl
  refine ⟨(htouch Dev.mem fun _ _ _ => rfl).trans ?_, (htouch Dev.placed fun _ _ _ => rfl).trans ?_, (htouch Dev.seqs fun _ _ _ => rfl).trans ?_,
    (htouch Dev.tenants fun _ _ _ => rfl).trans ?_⟩ <;> rw [hplace]
  · exact wixSeen_part Dev.mem (fun _ _ _ _ => rfl) ..
  · exact wixSeen_part Dev.seqs (fun _ _ _ _ => rfl) ..
  · exact wixSeen_part Dev.tenants (fun _ _ _ _ => rfl) ..

end Sys2Proof.Proofs
end

section
/-! The record of a trap in memory, and the sequencer that a replay brings back from it (R385, R386). -/

namespace Sys2Proof.Proofs

open Machine Claim

variable {m : Mem} {a q : Nat} {t : TrapInfo}

@[simp] theorem length_recordHead {fl sqid pc npw time lsn seq : Nat} : (recordHead t fl sqid pc npw time lsn seq).length = 112 := by
  simp [recordHead, List.length_flatten, Function.comp_def]

@[simp] theorem length_waveBytes (b : Bead) : (waveBytes b).length = 400 := by
  unfold waveBytes
  split
  · exact length_toLe ..
  · simp [List.length_flatten, Function.comp_def]

@[simp] theorem length_pWriteBytes (w : PWrite) : w.bytes.length = 48 := by simp [PWrite.bytes]

theorem length_pendBytes (l : List PWrite) : (l.map PWrite.bytes).flatten.length = 48 * l.length := by
  simp [List.length_flatten, Function.comp_def, Nat.mul_comm]

/-- The fields of a record's header. -/
theorem Holds.head {fl sqid pc npw time lsn seq : Nat} (h : Holds m a (recordHead t fl sqid pc npw time lsn seq)) :
    m.num a 2 = t.cause % 2 ^ 16 ∧ m.num (a + 2) 1 = t.slot % 2 ^ 8 ∧ m.num (a + 3) 1 = fl % 2 ^ 8 ∧ m.num (a + 4) 4 = sqid % 2 ^ 32
    ∧ m.num (a + 8) 8 = pc % 2 ^ 64 ∧ m.num (a + 18) 2 = npw % 2 ^ 16 ∧ ∀ k < 8, m.num (a + 48 + 8 * k) 8 = t.cont.getD k 0 % 2 ^ 64 := by
  simp only [recordHead, holds_append, List.length_append, length_toLe] at h
  obtain ⟨⟨⟨⟨⟨⟨⟨⟨⟨⟨⟨hcause, hslot⟩, hfl⟩, hsqid⟩, hpc⟩, -⟩, hnpw⟩, -⟩, -⟩, -⟩, -⟩, hcont⟩ := h
  refine ⟨hcause.num, hslot.num, hfl.num, hsqid.num, hpc.num, hnpw.num, fun k hk => ?_⟩
  exact (hcont.of_flatten (n := 8) (by simp) (by simp [List.getElem?_range hk])).num

/-- The fields of a pending write's entry. -/
theorem Holds.entry {w : PWrite} (h : Holds m a w.bytes) :
    m.num a 32 = w.data.toNat ∧ m.num (a + 32) 1 = w.tgt.code.1 % 2 ^ 8 ∧ m.num (a + 33) 1 = w.rdly % 2 ^ 8 ∧ m.num (a + 34) 1 = w.flags.toNat
    ∧ m.num (a + 36) 4 = w.en.toNat ∧ m.num (a + 40) 4 = w.tgt.code.2 % 2 ^ 32 := by
  simp only [PWrite.bytes, holds_append, List.length_append, length_toLe, List.length_singleton] at h
  obtain ⟨⟨⟨⟨⟨⟨⟨hdata, hkind⟩, hrdly⟩, hflags⟩, -⟩, hen⟩, htgt⟩, -⟩ := h
  refine ⟨hdata.num.trans (Nat.mod_eq_of_lt w.data.isLt), hkind.num, hrdly.num, hflags.num.trans (Nat.mod_eq_of_lt ?_),
    hen.num.trans (Nat.mod_eq_of_lt w.en.isLt), htgt.num⟩
  exact w.flags.isLt.trans (by norm_num)

/-! ### What the Gaffer reads of it -/

section
variable {d : Dev}

/-- With nothing outstanding, the bytes read now are those of memory. -/
theorem nowBytes_alone (h : d.placed = []) (loc n : Nat) : nowBytes d loc n = some (d.mem.read loc n) := by
  have hspan : (span loc n).mapM (fun b => some (d.mem.get b)) = some (d.mem.read loc n) := by
    have hpure : ∀ l : List Nat, l.mapM (fun b => some (d.mem.get b)) = some (l.map d.mem.get) := fun l => by
      induction l with
      | nil => rfl
      | cons b l ih => simp [ih]
    rw [hpure]
    simp [span, Mem.read, Function.comp_def]
  rw [nowBytes, bytesIn, h, List.reverse_nil]
  exact hspan

theorem ggetBytes_alone (h : d.placed = []) (loc n : Nat) : ggetBytes d loc n = d.mem.read loc n := by
  rw [ggetBytes, nowBytes_alone h, Option.getD_some]

theorem gget_alone (h : d.placed = []) (loc n : Nat) : gget d loc n = d.mem.num loc n := by
  rw [gget, readNow, nowBytes_alone h]
  rfl

theorem code_kind_le (g : Tgt) : g.code.1 ≤ 4 := by cases g <;> simp [Tgt.code]

/-- The entry of a pending write names the write, half bytes that it keeps included, where the write is still pending at its place. -/
theorem entryAt_of_holds {x : Seq} {k loc : Nat} {w : PWrite} (hd : d.placed = []) (h : Holds d.mem loc w.bytes) (hk : x.pend[k]? = some w)
    (hr : w.rdly ≤ 19) (hc : Tgt.ofCode x w.tgt.code.1 (w.tgt.code.2 % 2 ^ 32) = some w.tgt) : entryAt d x k loc = (some w, true) := by
  obtain ⟨hdata, hkind, hrdly, hflags, hen, htgt⟩ := h.entry
  have hle := code_kind_le w.tgt
  rw [Nat.mod_eq_of_lt (by omega)] at hkind hrdly
  unfold entryAt
  rw [ggetBytes_alone hd]
  simp only [leNat_read (show 32 + 1 ≤ 48 by norm_num), leNat_read (show 40 + 4 ≤ 48 by norm_num), leNat_read (show 0 + 32 ≤ 48 by norm_num),
    leNat_read (show 36 + 4 ≤ 48 by norm_num), leNat_read (show 34 + 1 ≤ 48 by norm_num), leNat_read (show 33 + 1 ≤ 48 by norm_num), Nat.add_zero,
    hdata, hkind, hrdly, hflags, hen, htgt, hc, hk, Option.map_some]
  simp [hle, hr, Option.filter_some]

/-- The code pointer of a program counter names it. -/
theorem ofPtr_ptr {p : Pc} (h64 : p.seg % 64 = 0) (hseg : p.seg < 2 ^ 56) (hidx : p.idx < 128) : Pc.ofPtr (p.ptr % 2 ^ 64) = p := by
  obtain ⟨seg, idx⟩ := p
  simp only [Pc.ofPtr, Pc.ptr, bits, Pc.mk.injEq] at *
  omega

/-- Bit 5 of the flags of a record tells that the program ran off its segment. -/
theorem bit_falloff (t : TrapInfo) : bit (t.fl false false % 2 ^ 8) 5 = t.falloff := by
  cases hr : t.retries <;> cases ha : t.after <;> cases hs : t.stalled <;> cases hf : t.falloff <;> simp [TrapInfo.fl, bit, hr, ha, hs, hf]

end

end Sys2Proof.Proofs
end

section
/-! Taking a trap, and going on from it, on a device on which nothing is outstanding (R385, R386). -/

namespace Sys2Proof.Proofs

open Machine Claim

variable {d : Dev} {q : Nat} {t : TrapInfo}

/-- A sequencer stopped by a trap. -/
def trapTaken (d : Dev) (q : Nat) (t : TrapInfo) : Machine.Seq :=
  let x := d.seq q
  { x with trap := some { t with act := actionEntry d x.place.ten t.cause }, run := if x.owner then .stopped else .trapped,
           trapCount := if decide (x.trapLast = (t.cause, x.pc)) then x.trapCount + 1 else 1, trapLast := (t.cause, x.pc),
           woke := none, waitOn := none, pld := [], checks := [], reqs := if x.owner then x.reqs.filter (· ≠ .stop) else x.reqs }

/-- The device whose sequencer q a trap has stopped, before its record is written. -/
def trapCounted (d : Dev) (q : Nat) (t : TrapInfo) : Dev :=
  (d.setSeq q (trapTaken d q t)).modLaunch (d.seq q).place.launch fun l => { l with traps := l.traps + 1 }

/-- Taking a trap of a core that is no control core. -/
theorem takeTrap_eq (hc : (d.seq q).place.control = false) : takeTrap d q t =
    let e := writeRecord (trapCounted d q t) q t
    if (d.seq q).owner then launchEvent e (d.seq q).place.launch 1 t.cause (recordVa e q) q else holdItem q e :=
  if_neg (by rw [hc]; exact Bool.false_ne_true)

@[simp] theorem trapCounted_seqs : (trapCounted d q t).seqs = d.seqs.put q (trapTaken d q t) := Dev.modLaunch_seqs ..

@[simp] theorem trapCounted_seq : (trapCounted d q t).seq q = trapTaken d q t := (congrArg (·.find q {}) trapCounted_seqs).trans (Dev.seq_setSeq ..)

/-- The record of a trap: header, bead wave and pending writes. -/
def recordOf (x : Machine.Seq) (q : Nat) (t : TrapInfo) (time seq : Nat) : Bytes :=
  recordHead t (t.fl false false) q x.pc.ptr x.pend.length time x.place.lsn.toNat seq ++ waveBytes x.bead ++ (x.pend.map PWrite.bytes).flatten

theorem length_recordOf {x : Machine.Seq} {time seq : Nat} : (recordOf x q t time seq).length = 512 + 48 * x.pend.length := by
  rw [recordOf, List.length_append, List.length_append, length_recordHead, length_waveBytes, length_pendBytes]

/-- A held item changes the firmware's list alone. -/
theorem holdItem_part {α : Type} (π : Dev → α) (h : ∀ d w, π { d with fw := w } = π d) (n : Nat) : π (holdItem n d) = π d := by
  unfold holdItem
  split
  · rfl
  · exact h ..

theorem trapCounted_tenants : (trapCounted d q t).tenants = d.tenants := Dev.modLaunch_tenants ..
theorem trapCounted_mem : (trapCounted d q t).mem = d.mem := Dev.modLaunch_mem ..
theorem trapCounted_placed : (trapCounted d q t).placed = d.placed := Dev.modLaunch_placed ..
theorem trapCounted_splits : (trapCounted d q t).splits = d.splits := Dev.modLaunch_splits ..
theorem trapCounted_mmu : (trapCounted d q t).mmu = d.mmu := Dev.modLaunch_mmu ..

/-- The record of a sequencer without an owner, as it is written. -/
theorem writeRecord_eq (ho : (d.seq q).owner = false) (hl : (d.seq q).pend.length ≤ 192) :
    ∃ time seq, writeRecord d q t = placeBytes (now d).2 gafferAgent (recordLoc d q) (recordOf (d.seq q) q t time seq) := by
  have htake : (d.seq q).pend.take 192 = (d.seq q).pend := List.take_of_length_le hl
  have hseq : (now d).2.seq q = d.seq q := rfl
  have hloc : recordLoc (now d).2 q = recordLoc d q := rfl
  refine ⟨(now d).1, ((now d).2.launch? (d.seq q).place.launch).elim 0 (·.seq), ?_⟩
  unfold writeRecord recordOf
  simp only [hseq, hloc, htake, ho]
  cases (now d).2.launch? (d.seq q).place.launch <;> rfl

theorem writeRecord_alone (hp : d.placed = []) (hs : d.splits = []) (hw : d.mmu.watches = []) (ho : (d.seq q).owner = false)
    (hl : (d.seq q).pend.length ≤ 192) :
    let e := writeRecord d q t
    (∃ time seq, e.mem = d.mem.write (recordLoc d q) (recordOf (d.seq q) q t time seq)) ∧ e.placed = [] ∧ e.seqs = d.seqs ∧ e.tenants = d.tenants := by
  obtain ⟨time, seq, heq⟩ := writeRecord_eq (t := t) ho hl
  obtain ⟨hmem, hrest⟩ := placeBytes_alone (d := (now d).2) hp hs hw gafferAgent (recordLoc d q) (recordOf (d.seq q) q t time seq)
  rw [heq]
  exact ⟨⟨time, seq, hmem⟩, hrest⟩

/-- What taking a trap leaves. -/
theorem takeTrap_alone (hp : d.placed = []) (hs : d.splits = []) (hw : d.mmu.watches = []) (hc : (d.seq q).place.control = false)
    (ho : (d.seq q).owner = false) (hl : (d.seq q).pend.length ≤ 192) :
    let e := takeTrap d q t
    (∃ time seq, e.mem = d.mem.write (recordLoc d q) (recordOf (d.seq q) q t time seq)) ∧ e.placed = [] ∧ e.tenants = d.tenants
    ∧ e.seq q = trapTaken d q t ∧ ∀ k, k ≠ q → e.seq k = d.seq k := by
  have heq : takeTrap d q t = holdItem q (writeRecord (trapCounted d q t) q t) := (takeTrap_eq hc).trans (if_neg (by rw [ho]; exact Bool.false_ne_true))
  have hloc : recordLoc (trapCounted d q t) q = recordLoc d q := by
    rw [recordLoc, trapCounted_seq, Dev.tenant, trapCounted_tenants]
    rfl
  obtain ⟨⟨time, seq, hmem⟩, hplaced, hseqs, htenants⟩ := writeRecord_alone (d := trapCounted d q t) (t := t) (trapCounted_placed.trans hp)
    (trapCounted_splits.trans hs) (by rw [trapCounted_mmu, hw]) (by rw [trapCounted_seq]; exact ho) (by rw [trapCounted_seq]; exact hl)
  simp only [heq]
  have hseqs' := (holdItem_part Dev.seqs (fun _ _ => rfl) q).trans (hseqs.trans trapCounted_seqs)
  refine ⟨⟨time, seq, ?_⟩, (holdItem_part Dev.placed (fun _ _ => rfl) q).trans hplaced,
    (holdItem_part Dev.tenants (fun _ _ => rfl) q).trans (htenants.trans trapCounted_tenants), ?_, fun k hk => ?_⟩
  · rw [holdItem_part Dev.mem (fun _ _ => rfl), hmem, hloc, trapCounted_seq, trapCounted_mem]
    rfl
  · exact (congrArg (·.find q {}) hseqs').trans (Dev.seq_setSeq ..)
  · exact (congrArg (·.find k {}) hseqs').trans (Dev.seq_setSeq_ne d _ hk)

/-! ### Going on from the record -/

/-- The pending writes of a record are those that a sequencer has pending. -/
theorem entries_of_holds {x : Machine.Seq} {loc : Nat} (hd : d.placed = []) (h : Holds d.mem loc (x.pend.map PWrite.bytes).flatten)
    (hw : ∀ w ∈ x.pend, w.rdly ≤ 19 ∧ Tgt.ofCode x w.tgt.code.1 (w.tgt.code.2 % 2 ^ 32) = some w.tgt) :
    ((List.range x.pend.length).map fun k => entryAt d x k (loc + 48 * k)) = x.pend.map fun w => (some w, true) := by
  apply List.ext_getElem
  · simp
  · intro k hk hk'
    rw [List.length_map] at hk'
    simp only [List.getElem_map, List.getElem_range]
    have hget : x.pend[k]? = some x.pend[k] := List.getElem?_eq_getElem hk'
    obtain ⟨hr, hc⟩ := hw _ (List.getElem_mem hk')
    exact entryAt_of_holds hd (h.of_flatten (by simp) (by simp [hget])) hget hr hc

/-- A record without a bead wave holds none. -/
theorem waveAt_of_holds {b : Bead} {loc : Nat} (hd : d.placed = []) (hb : b.wave = none) (h : Holds d.mem (loc + 112) (waveBytes b)) :
    waveAt d loc = none := by
  have hbytes : waveBytes b = toLe 1 0 ++ toLe 399 0 := by
    rw [waveBytes, hb]
    rfl
  rw [hbytes, holds_append] at h
  rw [waveAt, gget_alone hd, h.1.num]
  rfl

/-- A replay of a record as it was written brings back the sequencer, running and without a trap. -/
theorem replaySeq_of_holds {time seq : Nat} (hd : d.placed = []) (hcont : (d.seq q).place.control = false)
    (h : Holds d.mem (recordLoc d q) (recordOf (d.seq q) q t time seq)) (hl : (d.seq q).pend.length ≤ 192) (h64 : (d.seq q).pc.seg % 64 = 0)
    (hseg : (d.seq q).pc.seg < 2 ^ 56) (hidx : (d.seq q).pc.idx < 128) (hwave : (d.seq q).bead.wave = none)
    (hw : ∀ w ∈ (d.seq q).pend, w.rdly ≤ 19 ∧ Tgt.ofCode (d.seq q) w.tgt.code.1 (w.tgt.code.2 % 2 ^ 32) = some w.tgt) :
    replaySeq d q = some (d.setSeq q { d.seq q with run := .running, trap := none, falloff := t.falloff }) := by
  rw [recordOf, holds_append, holds_append, List.length_append, length_recordHead, length_waveBytes] at h
  obtain ⟨⟨hhead, hbead⟩, hpend⟩ := h
  obtain ⟨-, -, hfl, -, hpc, hnpw, -⟩ := hhead.head
  rw [Nat.mod_eq_of_lt (by omega)] at hnpw
  have hes := entries_of_holds hd hpend hw
  have hptr := ofPtr_ptr h64 hseg hidx
  have hnone := waveAt_of_holds hd hwave hbead
  unfold replaySeq
  simp only [hcont, gget_alone hd, hnpw, hes, hnone, hpc, hptr, hfl, bit_falloff, Nat.not_lt.mpr hl, hwave]
  simp [Function.comp_def]

end Sys2Proof.Proofs
end

section
/-! A bundle with a reserved word (R84, R155). -/

namespace Sys2Proof.Proofs

open Machine Claim

/-- What lands leaves a sequencer its place, and so its columns. -/
theorem landDue_owns (q : Nat) (d : Dev) (c : Nat) : ((landDue q d).seq q).owns c = (d.seq q).owns c := by
  have hplace : ((landDue q d).seq q).place = (d.seq q).place := by
    have hland (l : List PWrite) (d : Dev) : ((landInTurn q l d).seq q).place = (d.seq q).place :=
      (foldl_part (π := fun d => (d.seq q).place) (f := landOne q) (g := fun p _ => p) (fun d w => (landOne_landed q d w).place) l d).trans
        (List.foldl_fixed ..)
    rw [landDue_seq]
    exact (hland ..).trans (congrArg (·.place) (dueTaken_seq ..))
  exact congrArg (fun p => Seq.owns { place := p } c) hplace

/-- No word of major 0x2F is an instruction. -/
theorem decodeCore_major2F {w : Nat} (h : w / 2 ^ 26 = 0x2F) : decodeCore w = .error .illegal := by
  have hfld : fld w 26 6 = 47 := by
    simp only [fld]
    omega
  simp only [decodeCore, decCoreMajor, hfld]
  rfl

theorem checkSlot_major2F {x : Machine.Seq} {only : Bool} {i w : Nat} (h : w / 2 ^ 26 = 0x2F) : checkSlot x only i w = .error (slotTrap .illegal i [w]) := by
  simp only [checkSlot, decodeCore_major2F h]

/-- The first slot whose check fails, behind slots that pass, is the one that traps. -/
theorem mapM_error_of_append {α β ε : Type} {f : α → Except ε β} {l r : List α} {a : α} {e : ε} (hl : ∀ b ∈ l, ∃ c, f b = .ok c) (ha : f a = .error e) :
    (l ++ a :: r).mapM f = .error e := by
  induction l with
  | nil => simp [ha, bind, Except.bind]
  | cons b l ih =>
    obtain ⟨c, hc⟩ := hl b List.mem_cons_self
    simp [hc, ih fun b hb => hl b (List.mem_cons_of_mem _ hb), bind, Except.bind]

theorem checkBundle_error {x : Machine.Seq} {l r : List (Nat × Nat)} {i w : Nat} {t : TrapInfo} (howns : ∀ e ∈ l ++ (i, w) :: r, x.owns (e.1 / 2) = true)
    (hl : ∀ e ∈ l, ∃ ins, checkSlot x (decide ((l ++ (i, w) :: r).length = 1)) e.1 e.2 = .ok ins)
    (hw : checkSlot x (decide ((l ++ (i, w) :: r).length = 1)) i w = .error t) : checkBundle x (l ++ (i, w) :: r) = .error t := by
  have hnone : (l ++ (i, w) :: r).find? (fun e => !x.owns (e.1 / 2)) = none := by
    rw [List.find?_eq_none]
    intro e he
    simp [howns e he]
  rw [checkBundle, hnone]
  refine mapM_error_of_append (fun e he => ?_) ?_
  · obtain ⟨ins, hins⟩ := hl e he
    exact ⟨(e.1, ins), by rw [hins]; rfl⟩
  · rw [hw]
    rfl

/-- A bundle whose checks fail ends in the precise trap of the first slot that fails (R84); the writes that were due have not landed. -/
theorem bundleIssue_trapped {s : State} {q i w : Nat} {h : Half} {l r : List (Nat × Nat)} {t : TrapInfo} (hr : readyToIssue s q h l ((i, w) :: r))
    (hw : ∀ x only, checkSlot x only i w = .error t) :
    let d := broughtOn q s.dev
    exec .bundleIssue s = .next { s with issue := none, base := {}, dev := takeTrap ((d.setSeq q (d.seq q)).modSeq q stepCycle) q t } := by
  rw [bundleIssue_checked hr]
  obtain ⟨-, -, -, -, -, -, -, -, -, -, -, -, -, -, -, -, -, -, howns, hl⟩ := hr
  have hcheck : checkBundle ((landDue q ((broughtOn q s.dev).setSeq q ((broughtOn q s.dev).seq q))).seq q) (l ++ (i, w) :: r) = .error t :=
    checkBundle_error (fun e he => by rw [landDue_owns, Dev.seq_setSeq]; exact howns e he) hl (hw ..)
  simp only [issueChecked, hcheck]
  rfl

/-- A safe point whose gate does not open ends its bundle as the gate tells (R25, R95). -/
theorem runSlot_safePoint_error {s : State} {iss : Issue} {hand : Bool} {k : Nat} {a : Abort} (hs : s.issue = some iss)
    (hgate : safeGate (landDue iss.q s.base) iss.q (slotNo (slotOf s iss)) = .error a) :
    runSlot (Op.safePoint hand k) s = .next (endBundle s iss.q a) := by
  refine Laws.runSlot_error hs ?_
  unfold Op.safePoint
  rw [Laws.bind_ok (Laws.get_app _), Laws.bind_ok (Laws.slotNo_app _)]
  have hiss : safeGate (landDue (slotOf s iss).iss.q (slotOf s iss).base) (slotOf s iss).iss.q (slotNo (slotOf s iss)) = .error a := hgate
  rw [hiss]
  rfl

end Sys2Proof.Proofs
end

section
/-! The obligation about traps (R84, R95, R385, R386). -/

namespace Sys2Proof.Proofs

open Machine Claim

/-- Settles O8. The first two clauses are the ends of bundles whose checks or safe-point gate fail; the third reads the fields of the
record that stands in memory, and replays it. -/
theorem trapEntryAndReturn : Obligations.TrapEntryAndReturn := by
  unfold Obligations.TrapEntryAndReturn
  refine ⟨fun s q i w h l r _ hmajor hr => bundleIssue_trapped hr fun _ _ => checkSlot_major2F hmajor,
    fun s iss k t hs hgate => ⟨runSlot_safePoint_error hs hgate, runSlot_safePoint_error hs hgate⟩, ?_⟩
  intro d q t hp hsplits hwf hwatch hcont howner hitems hlen x e a
  obtain ⟨⟨time, seq, hmem⟩, hplaced, htenants, hseq, hother⟩ := takeTrap_alone (t := t) hp hsplits hwatch hcont howner hlen
  have hrecord : Holds e.mem a (recordOf x q t time seq) := by
    rw [show e.mem = _ from hmem]
    exact holds_write hwf ..
  have hloc : recordLoc e q = a := by
    rw [recordLoc, show e.seq q = _ from hseq, Dev.tenant, show e.tenants = _ from htenants]
    rfl
  obtain ⟨hcause, hslot, hfl, hsqid, hpc, hnpw, hcontent⟩ := (holds_append.mp (holds_append.mp hrecord).1).1.head
  have hpend : Holds e.mem (a + 512) (x.pend.map PWrite.bytes).flatten := by
    have h := (holds_append.mp hrecord).2
    rwa [List.length_append, length_recordHead, length_waveBytes] at h
  have hrun : (e.seq q).run = .trapped := by
    rw [show e.seq q = _ from hseq]
    exact if_neg (by rw [howner]; exact Bool.false_ne_true)
  refine ⟨hrun, congrArg (·.trap) hseq, congrArg (·.regs) hseq, congrArg (·.space) hseq, congrArg (·.pend) hseq, congrArg (·.pc) hseq,
    congrArg (·.cols) hseq, congrArg (·.ord) hseq, hother, hcause, hslot, hfl, hsqid, hpc, ?_, hcontent, fun k w hk => ?_, fun b hb => ?_, ?_⟩
  · exact hnpw.trans (Nat.mod_eq_of_lt (hlen.trans_lt (by norm_num)))
  · have h := hpend.of_flatten (n := 48) (by simp) (k := k) (l := w.bytes) (by simp [hk])
    rwa [Holds, length_pWriteBytes] at h
  · have hout : b < recordLoc d q ∨ recordLoc d q + 512 + 48 * (d.seq q).pend.length ≤ b := hb
    rw [show e.mem = _ from hmem, Mem.get_write hwf, length_recordOf, if_neg (by omega)]
  · intro h64 hseg hidx hwave hw
    have hreplay := replaySeq_of_holds (d := e) (q := q) (t := t) (time := time) (seq := seq) hplaced (by rw [hseq]; exact hcont)
      (by rw [hloc, hseq]; exact hrecord) (by rw [hseq]; exact hlen) (by rw [hseq]; exact h64) (by rw [hseq]; exact hseg)
      (by rw [hseq]; exact hidx) (by rw [hseq]; exact hwave) (by rw [hseq]; rw [hseq] at hw; exact hw)
    exact ⟨_, hreplay, Dev.seq_setSeq .., rfl⟩

end Sys2Proof.Proofs
end

section
/-! What the resolution of an operand leaves of the slot's sequencer (R67, R68). -/

namespace Sys2Proof.Proofs

open Machine Claim Laws

variable {x y : Slot}

theorem Queued.regs (h : Queued x y) : (seqOf y).regs = (seqOf x).regs := (congrArg Seq.regs h.own.1 :)

theorem Queued.pred (h : Queued x y) (n : Nat) : (seqOf y).pred n = (seqOf x).pred n := by
  simp only [Seq.pred, h.regs]

theorem Queued.slotNo (h : Queued x y) : slotNo y = slotNo x := by
  simp only [Claim.slotNo, h.iss]

/-- The guard reads a predicate, which no operand changes (R70). -/
theorem Queued.enabled (h : Queued x y) (m : Bool) : enabled y m = enabled x m := by
  simp only [Claim.enabled, lanesOn, h.pred, h.slotNo]

theorem queued_target {view : Nat} {o : Opnd} {t : Tgt} (h : Op.target view o x = .ok (t, y)) : Queued x y :=
  (QueuesOnly.target view o).queued _ _ _ h

/-- p0 reads as all ones (R69). -/
theorem pred_eq (s : Seq) (p : BitVec 4) : s.pred p.toNat = if p = 0 then BitVec.allOnes 64 else vget s.regs.preds p.toNat 0 := by
  by_cases hp : p = 0
  · simp [Seq.pred, hp]
  · have hn : p.toNat ≠ 0 := fun h => hp (BitVec.eq_of_toNat_eq h)
    simp only [Seq.pred, hp, hn, if_false]

end Sys2Proof.Proofs
end

section
/-! The scalar instructions (R104 to R107): the value that each computes, and what it leaves to land. -/

namespace Sys2Proof.Proofs

open Machine Claim Laws

/-! ### Values (R104, R107) -/

theorem divS_eq (x y : Word) : divS x y = if y = 0 then BitVec.allOnes 64 else BitVec.ofInt 64 (x.toInt.tdiv y.toInt) := by
  simp only [divS, ofS_eq, sInt_eq]

theorem remS_eq (x y : Word) : remS x y = if y = 0 then x else BitVec.ofInt 64 (x.toInt.tmod y.toInt) := by
  simp only [remS, ofS_eq, sInt_eq]

theorem mulHigh_eq (x y : Word) : ofS (sInt x * sInt y / (2 ^ 64 : Nat)) = BitVec.ofInt 64 (x.toInt * y.toInt / 2 ^ 64) := by
  simp only [ofS_eq, sInt_eq]
  rfl

theorem ite_sle (x y u v : Word) : (if x.sle y then u else v) = if x.toInt ≤ y.toInt then u else v := by
  simp only [BitVec.sle, decide_eq_true_eq]

theorem ite_ule (x y u v : Word) : (if x.ule y then u else v) = if x.toNat ≤ y.toNat then u else v := by
  simp only [BitVec.ule, decide_eq_true_eq]

/-- A number with a field replaced, as what lies above the field, the field and what lies below it. -/
theorem setBits_eq (v lo n x : Nat) : setBits v lo n x = 2 ^ lo * (2 ^ n * (v / 2 ^ lo / 2 ^ n) + x % 2 ^ n) + v % 2 ^ lo := by
  have hv : v = 2 ^ lo * (2 ^ n * (v / 2 ^ lo / 2 ^ n)) + v % 2 ^ lo + v / 2 ^ lo % 2 ^ n * 2 ^ lo := by
    calc v = 2 ^ lo * (2 ^ n * (v / 2 ^ lo / 2 ^ n) + v / 2 ^ lo % 2 ^ n) + v % 2 ^ lo := by rw [Nat.div_add_mod, Nat.div_add_mod]
      _ = _ := by ring
  have hrest : v - v / 2 ^ lo % 2 ^ n * 2 ^ lo = 2 ^ lo * (2 ^ n * (v / 2 ^ lo / 2 ^ n)) + v % 2 ^ lo := Nat.sub_eq_of_eq_add hv
  rw [setBits, bits, hrest]
  ring

theorem testBit_setBits (v lo n x j : Nat) :
    (setBits v lo n x).testBit j = if lo ≤ j ∧ j < lo + n then x.testBit (j - lo) else v.testBit j := by
  rw [setBits_eq, Nat.testBit_two_pow_mul_add _ (Nat.mod_lt _ (Nat.two_pow_pos _)), Nat.testBit_two_pow_mul_add _ (Nat.mod_lt _ (Nat.two_pow_pos _))]
  by_cases hlow : j < lo
  · simp [hlow, Nat.testBit_mod_two_pow]
  · by_cases hfield : j < lo + n
    · have hin : j - lo < n := by omega
      simp [hlow, hfield, hin, Nat.testBit_mod_two_pow]
    · have hin : ¬ j - lo < n := by omega
      have hj : j - lo - n + n + lo = j := by omega
      simp [hlow, hfield, hin, Nat.testBit_div_two_pow, hj]

/-- Bits lo + 15 to lo of a word replaced (R106). -/
theorem setBits_word (x : Word) (lo : Nat) (c : BitVec 16) : BitVec.ofNat 64 (setBits x.toNat lo 16 c.toNat)
    = (x &&& ~~~((0xFFFF#64) <<< lo)) ||| (c.setWidth 64 <<< lo) := by
  have hones (k : Nat) : (0xFFFF#64).getLsbD k = decide (k < 16) := by
    rw [show (0xFFFF#64) = (BitVec.allOnes 16).setWidth 64 by decide, BitVec.getLsbD_setWidth, BitVec.getLsbD_allOnes, ← Bool.decide_and]
    exact decide_eq_decide.mpr (by omega)
  refine BitVec.eq_of_getLsbD_eq fun j hj => ?_
  simp only [BitVec.getLsbD_ofNat, BitVec.getLsbD_or, BitVec.getLsbD_and, BitVec.getLsbD_not, BitVec.getLsbD_shiftLeft, BitVec.getLsbD_setWidth,
    testBit_setBits, hones, hj, decide_true, Bool.true_and, BitVec.testBit_toNat]
  by_cases hlow : j < lo
  · simp [hlow, Nat.not_le.mpr hlow]
  · by_cases hfield : j - lo < 16
    · simp [hlow, hfield, Nat.not_lt.mp hlow, show j < lo + 16 by omega, show j - lo < 64 by omega]
    · simp [hlow, hfield, show ¬ j < lo + 16 by omega, BitVec.getLsbD_of_ge c (j - lo) (by omega)]

/-! ### Bit counts (R107) -/

/-- The leading zeros of a number of n bits are those above its highest one. -/
theorem leadingZeros_eq (n v : Nat) (hv : v < 2 ^ n) :
    ((List.range n).takeWhile fun k => !v.testBit (n - 1 - k)).length = n - bitLen v := by
  induction n with
  | zero => simp
  | succ n ih =>
    have hpos := Nat.two_pow_pos n
    rw [List.range_succ_eq_map, List.takeWhile_cons]
    by_cases htop : 2 ^ n ≤ v
    · have hbit : v.testBit n = true := by
        have hdiv : v / 2 ^ n = 1 := Nat.div_eq_of_lt_le (by omega) (by omega)
        simp [Nat.testBit_eq_decide_div_mod_eq, hdiv]
      have hlog : Nat.log2 v = n := (Nat.log2_eq_iff (by omega)).mpr ⟨htop, hv⟩
      simp [hbit, bitLen, show v ≠ 0 by omega, hlog]
    · have hlt : v < 2 ^ n := Nat.lt_of_not_le htop
      have hlen : bitLen v ≤ n := by
        unfold bitLen
        split
        · exact Nat.zero_le n
        · next hne => exact (Nat.log2_lt hne).mpr hlt
      have hshift : (fun k => !v.testBit (n + 1 - 1 - k)) ∘ Nat.succ = fun k => !v.testBit (n - 1 - k) := by
        funext k
        simp only [Function.comp_apply, Nat.succ_eq_add_one]
        congr 2
        omega
      rw [List.takeWhile_map, hshift]
      simp only [Nat.add_sub_cancel, Nat.sub_zero, Nat.testBit_lt_two_pow hlt, Bool.not_false, if_true, List.length_cons, List.length_map, ih hlt]
      omega

/-- Trailing zeros counted from bit i on. -/
theorem ctzFrom_eq (v n i : Nat) : ctzFrom v n i = i + ((List.range' i n).takeWhile fun k => !v.testBit k).length := by
  induction n generalizing i with
  | zero => rfl
  | succ n ih =>
    simp only [ctzFrom, bit_eq, List.range'_succ, List.takeWhile_cons]
    cases v.testBit i
    · simp [ih]; omega
    · simp

theorem countZeros_high (x : Word) :
    BitVec.ofNat 64 (64 - bitLen x.toNat) = BitVec.ofNat 64 ((List.range 64).takeWhile fun k => !x.getLsbD (63 - k)).length := by
  exact congrArg _ (leadingZeros_eq 64 x.toNat x.isLt).symm

theorem countZeros_low (x : Word) :
    BitVec.ofNat 64 (ctzFrom x.toNat 64 0) = BitVec.ofNat 64 ((List.range 64).takeWhile fun k => !x.getLsbD k).length := by
  rw [ctzFrom_eq, Nat.zero_add, ← List.range_eq_range']
  rfl

theorem countOnes (x : Word) : BitVec.ofNat 64 (popCount x.toNat 64) = BitVec.ofNat 64 ((List.range 64).filter fun k => x.getLsbD k).length := by
  simp only [popCount, bit_eq]
  rfl

/-! ### The shared meanings -/

variable {v x y z : Slot} {a b d : Opnd} {va vb : Word} {t : Tgt}

/-- An instruction of two scalars leaves its value for its destination (R104). -/
theorem scalar2_app {m : Bool} {lat : Nat} {f : Word → Word → Word} (ha : Op.rdS a v = .ok (va, x)) (hb : Op.rdS b x = .ok (vb, y))
    (ht : Op.target 0 d y = .ok (t, z)) :
    Op.scalar2 lat d a b m f v = .ok ((), withWrites z (scalarWrite t lat (f va vb) (enabled z m))) := by
  unfold Op.scalar2
  rw [bind_ok ha, bind_ok hb, bind_ok ht, bind_ok (enabled_app m z), putS_app]

/-- An instruction of one scalar leaves its value for its destination (R105, R107). -/
theorem scalar1_app {m : Bool} {lat : Nat} {f : Word → Word} (ha : Op.rdS a v = .ok (va, x)) (ht : Op.target 0 d x = .ok (t, y)) :
    Op.scalar1 lat d a m f v = .ok ((), withWrites y (scalarWrite t lat (f va) (enabled y m))) := by
  unfold Op.scalar1
  rw [bind_ok ha, bind_ok ht, bind_ok (enabled_app m y), putS_app]

/-! ### The tables of instructions -/

theorem runSlot_scalar2_congr {lat : Nat} {m : Bool} {f g : Word → Word → Word} {s : State} (h : ∀ x y, f x y = g x y) :
    runSlot (Op.scalar2 lat d a b m f) s = runSlot (Op.scalar2 lat d a b m g) s := by
  rw [show f = g from funext₂ h]

theorem runSlot_scalar1_congr {lat : Nat} {m : Bool} {f g : Word → Word} {s : State} (h : ∀ x, f x = g x) :
    runSlot (Op.scalar1 lat d a m f) s = runSlot (Op.scalar1 lat d a m g) s := by
  rw [show f = g from funext h]

/-- Each instruction of two scalars computes its value of R104 or R107. -/
theorem scalarBinary_meaning : ∀ e ∈ scalarBinary, ∀ (d a b : Opnd) (m : Bool) (s : State),
    exec (e.ins d a b m) s = runSlot (Op.scalar2 e.lat d a b m e.val) s := by
  simp only [scalarBinary, List.forall_mem_cons, List.not_mem_nil, false_imp_iff, implies_true, and_true]
  refine ⟨?_, ?_, ?_, fun _ _ _ _ _ => runSlot_scalar2_congr mulHigh_eq, ?_, ?_, ?_, ?_, ?_, ?_, ?_, ?_,
    fun _ _ _ _ _ => runSlot_scalar2_congr fun x y => ite_sle x y x y, fun _ _ _ _ _ => runSlot_scalar2_congr fun x y => ite_sle x y y x,
    fun _ _ _ _ _ => runSlot_scalar2_congr fun x y => ite_ule x y x y, fun _ _ _ _ _ => runSlot_scalar2_congr fun x y => ite_ule x y y x,
    fun _ _ _ _ _ => runSlot_scalar2_congr divS_eq, ?_, fun _ _ _ _ _ => runSlot_scalar2_congr remS_eq, ?_⟩
  all_goals exact fun _ _ _ _ _ => rfl

/-- Each instruction of one scalar computes its value of R105 or R107. -/
theorem scalarUnary_meaning (i : BitVec 10) (n : BitVec 6) : ∀ e ∈ scalarUnary i n, ∀ (d a : Opnd) (m : Bool) (s : State),
    exec (e.ins d a m) s = runSlot (Op.scalar1 1 d a (m && e.guarded) e.val) s := by
  simp only [scalarUnary, List.forall_mem_cons, List.not_mem_nil, false_imp_iff, implies_true, and_true, Bool.and_false, Bool.and_true]
  refine ⟨?_, ?_, ?_, ?_, ?_, ?_, fun _ _ _ _ => runSlot_scalar1_congr countZeros_high, fun _ _ _ _ => runSlot_scalar1_congr countOnes,
    fun _ _ _ _ => runSlot_scalar1_congr countZeros_low⟩
  all_goals exact fun _ _ _ _ => rfl

/-- An instruction without a guard is enabled (R70). -/
theorem enabled_unguarded (x : Slot) : enabled x false = true := by simp [enabled, lanesOn]

/-- Settles O16: the shared meanings of two and of one scalar, with the value that each instruction gives them. -/
theorem scalarArithmeticResults : Obligations.ScalarArithmeticResults := by
  unfold Obligations.ScalarArithmeticResults
  refine ⟨fun e he d a b m s iss va vb t x y z hi ha hb ht => ?binary, fun s iss hi => ⟨fun i n e he d a m va t x y ha ht => ?unary,
    fun d i t y ht => ?movi, fun d h c va t x y ha ht => ?lui⟩⟩
  case binary =>
    rw [scalarBinary_meaning e he]
    exact runSlot_ok hi (scalar2_app ha hb ht)
  case unary =>
    rw [scalarUnary_meaning i n e he]
    exact runSlot_ok hi (scalar1_app ha ht)
  case movi =>
    refine runSlot_ok hi ?_
    rw [bind_ok ht, putS_app]
  case lui =>
    have hlui := runSlot_ok hi (scalar1_app (m := false) (lat := 1) (f := fun x => BitVec.ofNat 64 (setBits x.toNat (16 * h.toNat) 16 c.toNat)) ha ht)
    rw [enabled_unguarded, setBits_word] at hlui
    exact hlui

end Sys2Proof.Proofs
end

section
/-! Compares and predicate logic (R101 to R103). -/

namespace Sys2Proof.Proofs

open Machine Claim Laws

variable {v x y : Slot} {a b : Opnd} {va vb : Word} {s : State} {iss : Issue}

/-- A compare leaves all ones or zero (R103). -/
theorem compare_app {d : BitVec 4} {m : Bool} {f : Word → Word → Bool} (ha : Op.rdS a v = .ok (va, x)) (hb : Op.rdS b x = .ok (vb, y)) :
    Op.compare d a b m f v = .ok ((), withWrites y (predWrites d (allOnesIf (f va vb)) (enabled y m))) := by
  unfold Op.compare
  rw [bind_ok ha, bind_ok hb, bind_ok (enabled_app m y), predResult_app]
  rfl

/-- Predicate logic leaves the result on the predicates as they are read at issue (R102). -/
theorem predLogic_app (d a b : BitVec 4) (m : Bool) (f : Word → Word → Word) (v : Slot) : Op.predLogic d a b m f v
    = .ok ((), withWrites v (predWrites d (f ((seqOf v).pred a.toNat) ((seqOf v).pred b.toNat)) (enabled v m))) := by
  unfold Op.predLogic
  rw [bind_ok (me_app v), bind_ok (enabled_app m v), predResult_app]

theorem scalarCompares_meaning : ∀ e ∈ scalarCompares, ∀ (d : BitVec 4) (a b : Opnd) (m : Bool) (s : State),
    exec (e.1 d a b m) s = runSlot (Op.compare d a b m e.2) s := by
  simp only [scalarCompares, List.forall_mem_cons, List.not_mem_nil, false_imp_iff, implies_true, and_true]
  and_intros <;> exact fun _ _ _ _ _ => rfl

/-- Predicate logic, pnot on its one predicate, leaves its result (R102). -/
theorem exec_predLogic (hi : s.issue = some iss) : ∀ e ∈ Claim.predLogic, ∀ (d a b : BitVec 4) (m : Bool),
    exec (e.1 d a b m) s = .next (afterSlot s (withWrites (slotOf s iss)
      (predWrites d (e.2 ((seqOf (slotOf s iss)).pred a.toNat) ((seqOf (slotOf s iss)).pred b.toNat)) (enabled (slotOf s iss) m)))) := by
  simp only [Claim.predLogic, List.forall_mem_cons, List.not_mem_nil, false_imp_iff, implies_true, and_true]
  and_intros <;> exact fun d a b m => runSlot_ok hi (predLogic_app d a _ m _ _)

theorem exec_pst (hi : s.issue = some iss) (d k : BitVec 4) (m : Bool) :
    exec (.pst d k m) s = .next (afterSlot s (withWrites (slotOf s iss)
      (predWrites d (allOnesIf ((iss.loopSt.getD (seqOf (slotOf s iss)).regs.stage).getLsbD k.toNat)) (enabled (slotOf s iss) m)))) := by
  refine runSlot_ok hi ?_
  rw [bind_ok (me_app _), bind_ok (get_app _), bind_ok (enabled_app m _), predResult_app]
  rfl

theorem exec_pfirst (hi : s.issue = some iss) (ha : Op.rdS a (slotOf s iss) = .ok (va, x)) (d : BitVec 4) (m : Bool) :
    exec (.pfirst d a m) s = .next (afterSlot s (withWrites x
      (predWrites d (BitVec.ofNat 64 (2 ^ (if va.toNat < 64 then va.toNat else 64) - 1)) (enabled x m)))) := by
  have hmin : min va.toNat 64 = if va.toNat < 64 then va.toNat else 64 := by
    split <;> omega
  refine runSlot_ok hi ?_
  rw [bind_ok ha, bind_ok (enabled_app m x), predResult_app, hmin]

theorem exec_pfs (hi : s.issue = some iss) (ha : Op.rdS a (slotOf s iss) = .ok (va, x)) (d : BitVec 4) (m : Bool) :
    exec (.pfs d a m) s = .next (afterSlot s (withWrites x (predWrites d va (enabled x m)))) := by
  refine runSlot_ok hi ?_
  rw [bind_ok ha, bind_ok (enabled_app m x), predResult_app]

theorem exec_stw (hi : s.issue = some iss) (ha : Op.rdS a (slotOf s iss) = .ok (va, x)) (m : Bool) :
    exec (.stw a m) s = .next (afterSlot s (withWrites x
      (if enabled x m then [{ tgt := .stage, data := va.setWidth 256, en := 3, rdly := 1 }] else []))) := by
  refine runSlot_ok hi ?_
  rw [bind_ok ha, bind_ok (enabled_app m x)]
  cases enabled x m <;> rfl

theorem exec_spf {t : Tgt} (hi : s.issue = some iss) (ht : Op.target 0 a (slotOf s iss) = .ok (t, y)) (p : BitVec 4) (m : Bool) :
    exec (.spf a p m) s = .next (afterSlot s (withWrites y
      (scalarWrite t 1 ((seqOf (slotOf s iss)).pred p.toNat) (enabled (slotOf s iss) m)))) := by
  have hq := queued_target ht
  refine runSlot_ok hi ?_
  rw [bind_ok ht, bind_ok (me_app y), bind_ok (enabled_app m y), putS_app, hq.pred, hq.enabled]

theorem exec_str {t : Tgt} (hi : s.issue = some iss) (ht : Op.target 0 a (slotOf s iss) = .ok (t, y)) (m : Bool) :
    exec (.str a m) s = .next (afterSlot s (withWrites y
      (scalarWrite t 1 ((seqOf (slotOf s iss)).regs.stage.setWidth 64) (enabled (slotOf s iss) m)))) := by
  have hq := queued_target ht
  refine runSlot_ok hi ?_
  rw [bind_ok ht, bind_ok (me_app y), bind_ok (enabled_app m y), putS_app, hq.regs, hq.enabled]

/-- Settles O15: the shared meanings of compares and predicate logic, and the instructions that have one of their own. -/
theorem compareAndPredicateResults : Obligations.CompareAndPredicateResults := by
  unfold Obligations.CompareAndPredicateResults
  refine ⟨fun e he d a b m s iss va vb x y hi ha hb => ?compare, fun s iss d m hi => ?_⟩
  case compare =>
    rw [scalarCompares_meaning e he]
    exact runSlot_ok hi (compare_app ha hb)
  simp only [← pred_eq]
  exact ⟨fun e he a b => exec_predLogic hi e he d a b m, fun k => exec_pst hi d k m,
    fun a w x ha => ⟨exec_pfirst hi ha d m, exec_pfs hi ha d m, exec_stw hi ha m⟩, fun a p t y ht => ⟨exec_spf hi ht p m, exec_str hi ht m⟩⟩

end Sys2Proof.Proofs
end

section
/-! Control words (R92 to R95). -/

namespace Sys2Proof.Proofs

open Machine Claim Laws

variable {s : State} {iss : Issue}

/-- A nop counts the bundles as which its bundle issues (R92). -/
theorem exec_nop (hi : s.issue = some iss) (n : BitVec 14) :
    exec (.nop n) s = .next (afterSlot s (withIss (slotOf s iss) fun i => { i with nop := n.toNat + 1 })) := by
  show execNop n s = _
  exact runSlot_ok hi (modIss_app _ _)

/-- An enabled trap is taken after the bundle, unless a lower slot has left one (R94). -/
theorem trapAfter_app (m : Bool) (c : Cause) (code : Nat) (x : Slot) : Op.trapAfter m c code x = .ok ((), if enabled x m then
    withIss x fun i => { i with after := i.after.or (some { cause := c.code, slot := slotNo x, cont := [code] }) } else x) := by
  unfold Op.trapAfter
  rw [bind_ok (enabled_app m x)]
  cases enabled x m <;> rfl

/-- A safe point whose gate opens marks its bundle (R25, R95). -/
theorem safePoint_app {hand : Bool} {k : Nat} {x : Slot} (h : safeGate (landDue x.iss.q x.base) x.iss.q (slotNo x) = .ok ()) :
    Op.safePoint hand k x = .ok ((), withIss x fun i => { i with safe := some (hand, k) }) := by
  unfold Op.safePoint
  rw [bind_ok (get_app x), bind_ok (slotNo_app x), h]
  rfl

/-- A halt outside every region ends the sequencer at its bundle's end (R93). -/
theorem exec_halt (hi : s.issue = some iss) (hl : (seqOf (slotOf s iss)).region.levels = []) :
    exec .halt s = .next (afterSlot s (withIss (slotOf s iss) fun i => { i with halt := true })) := by
  refine runSlot_ok hi ?_
  rw [bind_ok (me_app _), bind_ok (check_pass (by simp [hl])), modIss_app]

/-- Settles O11: what the meaning of each control word leaves of the bundle in progress. -/
theorem controlWordResults : Obligations.ControlWordResults := by
  unfold Obligations.ControlWordResults
  intro s iss hi
  exact ⟨exec_nop hi, exec_halt hi, fun c m => runSlot_ok hi (trapAfter_app m .breakpoint _ _),
    fun c m => runSlot_ok hi (trapAfter_app m .software _ _),
    fun k hgate => ⟨runSlot_ok hi (safePoint_app hgate), runSlot_ok hi (safePoint_app hgate)⟩⟩

end Sys2Proof.Proofs
end

section
/-! Branches, jumps, calls, returns and the jump table (R77, R78, R96 to R98). -/

namespace Sys2Proof.Proofs

open Machine Claim Laws

variable {s : State} {iss : Issue} {a d : Opnd} {m : Bool} {w : Word} {x y z : Slot} {t : Tgt}

/-- A branch tests its sequencer as it stands at issue (R96). -/
theorem runSlot_branch (hi : s.issue = some iss) (c : Seq → Bool) (t : Nat) :
    runSlot (Op.me >>= fun x => Op.branchIf (c x) t) s = .next (afterSlot s
      (if c (seqOf (slotOf s iss)) then withIss (slotOf s iss) fun i => { i with next := some { i.pc with idx := t } } else slotOf s iss)) := by
  refine runSlot_ok hi ?_
  rw [bind_ok (me_app _), branchIf_app]

/-- A jump through an accepted code pointer makes the pointed bundle the next one (R77, R78, R98). -/
theorem jumpTo_app {v : Nat} (h : jumpOk x z v) : Op.jumpTo v x = .ok ((), jumped z v) := by
  obtain ⟨hbad, hseg⟩ := h
  unfold Op.jumpTo
  rw [bind_ok (check_pass (by simp [hbad]))]
  simp only
  rw [bind_ok (me_app x), bind_ok (get_app x)]
  by_cases hcur : (Pc.ofPtr v).seg = x.iss.pc.seg
  · obtain ⟨rfl, hidx⟩ := (if_pos hcur).mp hseg
    rw [if_pos hcur, bind_ok (check_pass (by simpa using hidx)), bind_ok (slotNo_app z), modIss_app]
    rfl
  · obtain ⟨l, o, htable, ⟨e, he, heseg⟩, hother, hoseg, hidx⟩ := (if_neg hcur).mp hseg
    rw [if_neg hcur, bind_ok htable, bind_ok (check_pass (List.any_eq_true.mpr ⟨e, he, by simpa using heseg⟩)), hother]
    simp only
    rw [if_neg (not_not.mpr hoseg)]
    cases hobad : o.bad with
    | true => rfl
    | false =>
      simp only [Bool.not_false, if_true]
      rw [bind_ok (check_pass (by simpa using hidx hobad)), bind_ok (slotNo_app z), modIss_app]
      rfl

/-- The bundle that follows, as a call finds it (R97). -/
theorem returnPtr_eq (x : Slot) :
    returnPtr x = BitVec.ofNat 64 ((((seqOf x).half.bind fun h => fallThrough h x.iss.pc).getD { seg := 0 }).ptr) := by
  unfold returnPtr
  cases (seqOf x).half with
  | none => exact (by decide : (0 : Word) = BitVec.ofNat 64 (({ seg := 0 } : Pc).ptr))
  | some h => rfl

/-- An enabled jmp or ret jumps, a squashed one reads its operand alone (R97). -/
theorem exec_jump (hi : s.issue = some iss) (ha : Op.rdS a (slotOf s iss) = .ok (w, x)) :
    (enabled x m = true → jumpOk x z w.toNat →
      exec (.jmp a m) s = .next (afterSlot s (jumped z w.toNat)) ∧ exec (.ret a m) s = .next (afterSlot s (jumped z w.toNat)))
    ∧ (enabled x m = false → exec (.jmp a m) s = .next (afterSlot s x) ∧ exec (.ret a m) s = .next (afterSlot s x)) := by
  have hret : exec (.ret a m) s = exec (.jmp a m) s := rfl
  rw [hret]
  refine ⟨fun hon hok => and_self_iff.mpr (runSlot_ok hi ?_), fun hoff => and_self_iff.mpr (runSlot_ok hi ?_)⟩
  · rw [bind_ok ha, bind_ok (enabled_app m x), if_pos hon, jumpTo_app hok]
  · rw [bind_ok ha, bind_ok (enabled_app m x), hoff]
    rfl

/-- A call leaves the return pointer for its destination, and jumps if it is enabled (R97). -/
theorem exec_call (hi : s.issue = some iss) (ha : Op.rdS a (slotOf s iss) = .ok (w, x)) (ht : Op.target 0 d x = .ok (t, y)) :
    (enabled x m = true → jumpOk (withWrites y (scalarWrite t 1 (returnPtr x) true)) z w.toNat →
      exec (.call d a m) s = .next (afterSlot s (jumped z w.toNat)))
    ∧ (enabled x m = false → exec (.call d a m) s = .next (afterSlot s (withWrites y (scalarWrite t 1 (returnPtr x) false)))) := by
  have hq := queued_target ht
  refine ⟨fun hon hok => runSlot_ok hi ?_, fun hoff => runSlot_ok hi ?_⟩
  all_goals
    rw [bind_ok ha, bind_ok (me_app x), bind_ok (enabled_app m x), bind_ok ht, bind_ok (get_app y), hq.iss, ← returnPtr_eq, bind_ok (putS_app ..)]
  · rw [hon, if_pos rfl, jumpTo_app hok]
  · rw [hoff]
    rfl

/-- An enabled jtab leaves an entry of the segment's table, a squashed one the squashed form of it (R97, R98). -/
theorem exec_jtab (hi : s.issue = some iss) (n : BitVec 14) {l : List Nat} {v : Nat} (ht : Op.target 0 d (slotOf s iss) = .ok (t, y)) :
    (enabled (slotOf s iss) m = true → Op.jumpTable y = .ok (l, z) → l[n.toNat]? = some v →
      exec (.jtab d n m) s = .next (afterSlot s (withWrites z (scalarWrite t 1 (BitVec.ofNat 64 v) true))))
    ∧ (enabled (slotOf s iss) m = false → exec (.jtab d n m) s = .next (afterSlot s (withWrites y (scalarWrite t 1 0 false)))) := by
  refine ⟨fun hon htable hv => runSlot_ok hi ?_, fun hoff => runSlot_ok hi ?_⟩
  all_goals rw [bind_ok (enabled_app m _), bind_ok ht]
  · rw [if_pos hon, bind_ok htable, hv]
    exact putS_app ..
  · rw [hoff]
    exact putS_app ..

/-- Settles O13: the branches by the predicate as it is read at issue, and each jump by the code pointer that it takes. -/
theorem branchAndJumpResults : Obligations.BranchAndJumpResults := by
  unfold Obligations.BranchAndJumpResults
  refine ⟨fun s iss p l t hi => ?branches, fun s iss hi => ⟨fun a m v x z ha => exec_jump hi ha, fun d a m v x y z t ha ht => exec_call hi ha ht,
    fun d n m t y z l v ht => exec_jtab hi n ht⟩⟩
  simp only [← pred_eq]
  exact ⟨runSlot_branch hi (fun y => (y.pred p.toNat).getLsbD l.toNat) _, runSlot_branch hi (fun y => !(y.pred p.toNat).getLsbD l.toNat) _,
    runSlot_branch hi (fun y => decide (y.pred p.toNat ≠ 0)) _, runSlot_branch hi (fun y => decide (y.pred p.toNat = 0)) _,
    runSlot_branch hi (fun y => decide (y.pred p.toNat = BitVec.allOnes 64)) _,
    runSlot_branch hi (fun y => decide (y.pred p.toNat ≠ BitVec.allOnes 64)) _⟩

end Sys2Proof.Proofs
end

section
/-! The loop-index stack and st (R99, R100). -/

namespace Sys2Proof.Proofs

open Machine Claim Laws

variable {s : State} {iss : Issue} {a d : Opnd} {w : Word} {x y : Slot} {t : Tgt}

/-- A loop begins, or its body is skipped (R100). -/
theorem loopStart_app {n nstg t : Nat} (h : loopReady x n nstg) : Op.loopStart n nstg t x = .ok ((), loopBegun x n nstg t) := by
  obtain ⟨hcount, hroom⟩ := h
  unfold Op.loopStart loopBegun
  rw [bind_ok (me_app x), bind_ok (check_pass (by simp; omega))]
  by_cases hn : n = 0
  · rw [if_pos hn, if_pos hn]
    rfl
  · rw [if_neg hn, if_neg hn, bind_ok (check_pass (by simpa using hroom hn)), bind_ok (get_app x)]
    simp only
    rw [bind_ok (pend_app ..)]
    by_cases hst : nstg = 0
    · subst hst
      rfl
    · rw [if_pos (Nat.pos_of_ne_zero hst), if_neg hst, bind_ok (pend_app ..)]
      rfl

/-- One pass less (R100). -/
theorem passesLeft_eq (r : BitVec 32) : (r.toNat + 2 ^ 32 - 1) % 2 ^ 32 = (r - 1).toNat := by
  have h1 : (1 : BitVec 32).toNat = 1 := rfl
  rw [BitVec.toNat_sub, h1]
  omega

/-- Index and remaining passes of an entry, as they are left to land (R100). -/
theorem loopCounts_eq (index r : BitVec 32) :
    BitVec.ofNat 256 ((index.toNat + 1) % 2 ^ 32 + r.toNat * 2 ^ 32) = (0#192 ++ r ++ (index + 1) : BitVec 256) := by
  have hr := r.isLt
  have hi := (index + 1).isLt
  apply BitVec.eq_of_toNat_eq
  rw [BitVec.toNat_append, ← Nat.shiftLeft_add_eq_or_of_lt hi, BitVec.toNat_append, ← Nat.shiftLeft_add_eq_or_of_lt hr]
  have h1 : (1 : BitVec 32).toNat = 1 := rfl
  simp only [BitVec.toNat_ofNat, BitVec.toNat_add, h1, Nat.shiftLeft_eq]
  omega

/-- The next st of a loop with stages (R100): it moves up by one, takes in whether a pass is still to begin, and is cut to NSTG + 1 bits. -/
def nextStage (st : BitVec 16) (g r : Nat) : BitVec 16 := (st <<< 1 ||| (if g < r then 1 else 0)) &&& BitVec.ofNat 16 (2 ^ (g + 1) - 1)

theorem toNat_nextStage (st : BitVec 16) (g : BitVec 4) (r : Nat) :
    (nextStage st g.toNat r).toNat = (st.toNat * 2 + if g.toNat < r then 1 else 0) % 2 ^ (g.toNat + 1) := by
  have hpow : 2 ^ (g.toNat + 1) ∣ 2 ^ 16 := Nat.pow_dvd_pow 2 (by have := g.isLt; omega)
  have hle := Nat.le_of_dvd (by norm_num) hpow
  have hpos := Nat.two_pow_pos (g.toNat + 1)
  have hbit : (if g.toNat < r then 1 else 0 : BitVec 16).toNat = if g.toNat < r then 1 else 0 := by split <;> rfl
  have hone : (if g.toNat < r then 1 else 0 : Nat) < 2 := by split <;> decide
  rw [nextStage, BitVec.toNat_and, BitVec.toNat_or, BitVec.toNat_shiftLeft, BitVec.toNat_ofNat, hbit, Nat.shiftLeft_eq,
    Nat.mod_eq_of_lt (a := 2 ^ (g.toNat + 1) - 1) (by omega), Nat.and_two_pow_sub_one_eq_mod]
  generalize (if g.toNat < r then 1 else 0 : Nat) = b at hone
  have hor : st.toNat * 2 ^ 1 % 2 ^ 16 ||| b = (st.toNat * 2 + b) % 2 ^ 16 := by
    rw [show st.toNat * 2 ^ 1 % 2 ^ 16 = 2 ^ 1 * (st.toNat % 2 ^ 15) by omega, ← Nat.two_pow_add_eq_or_of_lt (by omega)]
    omega
  rw [hor, Nat.mod_mod_of_dvd _ hpow]

/-- While passes remain the index rises and the body begins again (R100). -/
theorem loopEnd_again {e : LoopEnt} {l : List LoopEnt} (g : BitVec 4) (h : (seqOf x).regs.loops = e :: l) (hr : e.remaining - 1 ≠ 0) :
    Op.loopEnd g.toNat x = .ok ((), loopEnded x e g.toNat) := by
  have hpos : 0 < (e.remaining - 1).toNat := Nat.pos_of_ne_zero fun h => hr (BitVec.eq_of_toNat_eq h)
  unfold Op.loopEnd loopEnded
  rw [bind_ok (me_app x), h]
  simp only [passesLeft_eq, hpos, hr, if_true, if_false, loopCounts_eq, ← toNat_nextStage, BitVec.ofNat_toNat, BitVec.setWidth_eq]
  rw [bind_ok (pend_app ..)]
  by_cases hg : g.toNat = 0
  · rw [if_neg (by omega), if_pos hg]
    rfl
  · rw [if_pos (by omega), if_neg hg, bind_ok (pend_app ..)]
    rfl

/-- At the last pass the entry is popped (R100). -/
theorem loopEnd_last {e : LoopEnt} {l : List LoopEnt} (g : BitVec 4) (h : (seqOf x).regs.loops = e :: l) (hr : e.remaining - 1 = 0) :
    Op.loopEnd g.toNat x = .ok ((), loopEnded x e g.toNat) := by
  have hzero : (e.remaining - 1).toNat = 0 := by rw [hr]; rfl
  unfold Op.loopEnd loopEnded
  rw [bind_ok (me_app x), h]
  simp only [passesLeft_eq, hzero, lt_self_iff_false, if_false]
  rw [bind_ok (pend_app ..), if_pos hr]
  by_cases hg : g.toNat = 0
  · rw [if_neg (by omega), if_pos hg]
    rfl
  · rw [if_pos (by omega), if_neg hg, bind_ok (pend_app ..)]
    rfl

/-- One pass of a loop ends (R100). -/
theorem loopEnd_app {e : LoopEnt} {l : List LoopEnt} (g : BitVec 4) (h : (seqOf x).regs.loops = e :: l) :
    Op.loopEnd g.toNat x = .ok ((), loopEnded x e g.toNat) := by
  by_cases hr : e.remaining - 1 = 0
  · exact loopEnd_last g h hr
  · exact loopEnd_again g h hr

/-- A field of an entry goes to the destination, 0 of an inactive one (R100). -/
theorem loopField_app {n : Nat} {f : LoopEnt → BitVec 32} (h0 : f {} = 0) (ht : Op.target 0 d x = .ok (t, y)) :
    Op.loopField d n f x = .ok ((), withWrites y (scalarWrite t 1 ((f (((seqOf x).regs.loops[n]?).getD {})).setWidth 64) true)) := by
  have hf : (((seqOf x).regs.loops[n]?).map f).getD 0 = f (((seqOf x).regs.loops[n]?).getD {}) := by
    cases (seqOf x).regs.loops[n]? with
    | none => exact h0.symm
    | some e => rfl
  unfold Op.loopField
  rw [bind_ok (me_app x)]
  simp only [hf]
  rw [bind_ok ht, putS_app]

/-- Settles O14: what the meaning of each loop instruction leaves. -/
theorem loopResults : Obligations.LoopResults := by
  unfold Obligations.LoopResults
  refine fun s iss hi => ⟨fun a g t v x ha hready => runSlot_ok hi ?loop, fun c g t hready => runSlot_ok hi (loopStart_app hready),
    fun g e l hl => ⟨runSlot_ok hi (loopEnd_app g hl), runSlot_ok hi ?lpop⟩,
    fun d n t y ht => ⟨runSlot_ok hi (loopField_app rfl ht), runSlot_ok hi (loopField_app rfl ht)⟩⟩
  case loop => rw [bind_ok ha, loopStart_app hready]
  case lpop => rw [bind_ok (me_app _), bind_ok (check_pass (by simp [hl])), pend_app]

end Sys2Proof.Proofs
end

section
/-! What the writes that land leave of the course of their sequencer: whether it runs, its PC and half, and the bundles of a nop (R71). -/

namespace Sys2Proof.Proofs

open Machine Claim

/-- The course of a sequencer. -/
def course (s : Seq) : Run × Pc × Option Half × Nat × Bool := (s.run, s.pc, s.half, s.nopLeft, s.stepMode)

theorem landOne_course (q : Nat) (d : Dev) (w : PWrite) : course ((landOne q d w).seq q) = course (d.seq q) := by
  obtain ⟨tgt, data, en, fl, rdly, keep⟩ := w
  cases tgt with
  | pred n =>
    by_cases hn : n = 0
    · subst hn
      rfl
    · have hland : landOne q d ⟨.pred n, data, en, fl, rdly, keep⟩ = _ := if_neg hn
      rw [hland, Dev.seq_setSeq]
      rfl
  | storeData c i =>
    have hread := ((landData_undisturbed q c i data en d).seq q).trans (congrArg unread (Dev.seq_modSeq ..))
    exact (part_of_unread (π := course) (fun _ => rfl) hread).trans rfl
  | sysreg n =>
    by_cases hn : n ∈ ownSysregs
    · exact (congrArg course (landSysreg_own_seq (en := en) (fl := fl) (rdly := rdly) (keep := keep) hn)).trans rfl
    · exact (congrArg (fun e : Dev => course (e.seq q)) (landSysreg_other (en := en) (fl := fl) (rdly := rdly) (keep := keep) hn)).trans rfl
  | _ => exact (congrArg course (Dev.seq_setSeq ..)).trans rfl

theorem landDue_course (q : Nat) (d : Dev) : course ((landDue q d).seq q) = course (d.seq q) := by
  have hturn : course ((landInTurn q (dueWrites (d.seq q)) (dueTaken q d)).seq q) = course ((dueTaken q d).seq q) :=
    (foldl_part (π := fun d : Dev => course (d.seq q)) (g := fun p _ => p) (landOne_course q) _ _).trans (List.foldl_fixed ..)
  rw [landDue_seq]
  exact hturn.trans ((congrArg course (dueTaken_seq q d)).trans rfl)

section
variable (q : Nat) (d : Dev)

theorem landDue_run : ((landDue q d).seq q).run = (d.seq q).run := congrArg (·.1) (landDue_course q d)
theorem landDue_pc : ((landDue q d).seq q).pc = (d.seq q).pc := congrArg (·.2.1) (landDue_course q d)
theorem landDue_half : ((landDue q d).seq q).half = (d.seq q).half := congrArg (·.2.2.1) (landDue_course q d)
theorem landDue_nopLeft : ((landDue q d).seq q).nopLeft = (d.seq q).nopLeft := congrArg (·.2.2.2.1) (landDue_course q d)
theorem landDue_stepMode : ((landDue q d).seq q).stepMode = (d.seq q).stepMode := congrArg (·.2.2.2.2) (landDue_course q d)

end

end Sys2Proof.Proofs
end

section
/-! The bundles of a nop (R71, R92): how a bundle that leaves further ones ends, and how each of those issues. -/

namespace Sys2Proof.Proofs

open Machine Claim Laws

variable {s : State} {iss : Issue} {q k : Nat}

theorem modSeq_setSeq (d : Dev) (q : Nat) (x : Seq) (f : Seq → Seq) : (d.setSeq q x).modSeq q f = d.setSeq q (f x) := by simp [Dev.modSeq]

/-- A bundle that leaves nothing to its end but the count of its nop: no trap, no halt, no safe point, no block of a pld. -/
structure Plain (iss : Issue) : Prop where
  after : iss.after = none
  halt : iss.halt = false
  watch : iss.watch = none
  safe : iss.safe = none
  block : iss.block = []

/-- A bundle that leaves further ones ends where it is (R92). -/
theorem finish_further (h : Plain iss) (hnop : 1 < iss.nop) (hstep : (s.dev.seq iss.q).stepMode = false) :
    finish s iss = { s with issue := none, base := {}, dev := s.dev.modSeq iss.q (nopIssued (iss.nop - 1)) } := by
  obtain ⟨hafter, hhalt, hwatch, hsafe, hblock⟩ := h
  unfold finish
  simp only [hafter, hhalt, hwatch, hsafe, hblock, hnop, decide_true, Bool.or_true, if_true, List.foldl_nil, Bool.false_eq_true, if_false,
    Option.isSome_none]
  exact (if_neg fun hmode => Bool.false_ne_true (hstep.symm.trans hmode)).trans rfl

/-- A debugger's step of such a bundle takes its trap, which names the bundles left (R92, R393). -/
theorem finish_further_stepped (h : Plain iss) (hnop : 1 < iss.nop) (hrun : (s.dev.seq iss.q).run = .running)
    (hstep : (s.dev.seq iss.q).stepMode = true) :
    finish s iss = { s with issue := none, base := {}, dev := nopStepped (iss.nop - 1) iss.q s.dev } := by
  obtain ⟨hafter, hhalt, hwatch, hsafe, hblock⟩ := h
  have hmode : (issued (s.dev.seq iss.q)).stepMode = true := hstep
  have hgoes : (issued (s.dev.seq iss.q)).run = .running := hrun
  have hleft : iss.nop - 1 ≠ 0 := by omega
  unfold finish nopStepped
  simp only [hafter, hhalt, hwatch, hsafe, hblock, hnop, hleft, decide_true, Bool.or_true, if_true, List.foldl_nil, Bool.false_eq_true,
    if_false, Option.isSome_none, Dev.seq_setSeq]
  rw [if_pos hmode, if_neg (not_not.mpr hgoes)]
  simp only [modSeq_setSeq]
  rfl

/-- A bundle that leaves none goes on to the next one of its segment (R78). -/
theorem finish_next {h : Half} (hp : Plain iss) (hnop : iss.nop = 1) (hnext : iss.next = none) (hpc : iss.pc = (s.dev.seq iss.q).pc)
    (hhalf : (s.dev.seq iss.q).half = some h) (hseg : h.seg = (s.dev.seq iss.q).pc.seg) (hidx : (s.dev.seq iss.q).pc.idx + 1 < h.bundles.length)
    (hstep : (s.dev.seq iss.q).stepMode = false) :
    finish s iss = { s with issue := none, base := {}, dev := s.dev.modSeq iss.q fun x =>
      { nopIssued 0 x with pc := { x.pc with idx := x.pc.idx + 1 } } } := by
  obtain ⟨hafter, hhalt, hwatch, hsafe, hblock⟩ := hp
  have hgo : fallThrough h (s.dev.seq iss.q).pc = some { (s.dev.seq iss.q).pc with idx := (s.dev.seq iss.q).pc.idx + 1 } := if_pos hidx
  have hget (k : Half) : (s.dev.seq iss.q).half.getD k = h := by rw [hhalf, Option.getD_some]
  unfold finish
  simp only [hafter, hhalt, hwatch, hsafe, hblock, hnop, hnext, hpc, hget, hgo, hseg, lt_self_iff_false, decide_false, Bool.or_false,
    if_true, List.foldl_nil, Bool.false_eq_true, if_false, Option.isSome_none]
  exact (if_neg fun hmode => Bool.false_ne_true (hstep.symm.trans hmode)).trans rfl

/-- Nothing comes before the further bundles of a nop (R92). -/
theorem issueBundle_nop {stepped : Bool} (h : nopReady s q stepped) (hleft : 0 < (s.dev.seq q).nopLeft) :
    issueBundle q s = finish { s with base := s.dev, dev := landDue q s.dev }
      { q := q, rest := [], pc := ((landDue q s.dev).seq q).pc, nop := (s.dev.seq q).nopLeft } := by
  obtain ⟨hissue, hswitch, hrun, -, hstep, hsafe, hrend, hforeign, hwatch, hfault, hhalted⟩ := h
  have hforeign' : ((s.dev.seq q).foreignDue && decide ((s.dev.seq q).owedForeign ≠ 0)) = false := by
    simpa [Bool.and_eq_false_iff, or_iff_not_imp_left] using hforeign
  unfold issueBundle
  simp only [hissue, hswitch, hrun, hstep, hsafe, hrend, hwatch, hfault, hhalted, hforeign', hleft, Bool.false_eq_true, if_false, if_true,
    reduceCtorEq, decide_false, Bool.false_and, Bool.or_self, ne_eq, not_true_eq_false, Option.isSome_none, nopBundle, landDue_nopLeft]

/-- A nop alone in its bundle ends it (R92). -/
theorem exec_nop_alone {j w : Nat} (hi : s.issue = some iss) (hrest : iss.rest = [(j, w)]) (n : BitVec 14) :
    exec (.nop n) s = .next (finish s { iss with rest := [], nop := n.toNat + 1 }) := by
  rw [exec_nop hi]
  simp [afterSlot, nextSlot, withIss, slotOf, hrest]

/-- A nop 1 leaves its bundle as it is (R92). -/
theorem exec_nop_one (hi : s.issue = some iss) (hnop : iss.nop = 1) : exec (.nop 0) s = .next (afterSlot s (slotOf s iss)) := by
  rw [exec_nop hi]
  obtain ⟨q, rest, pc, next, nslot, loopSt, after, safe, halt, nop, retry, watch, block, pld⟩ := iss
  subst hnop
  rfl

/-- Settles O12: the nop's own bundle, a nop 1, and the further bundles of a nop. -/
theorem nopIssuesItsBundles : Obligations.NopIssuesItsBundles := by
  unfold Obligations.NopIssuesItsBundles
  refine ⟨fun s iss j w n hi hrest hafter hhalt hwatch hsafe hblock hstep hn => ?first, fun s iss hi hnop => exec_nop_one hi hnop,
    fun s q k hready hleft => ⟨fun hk => ?further, fun hk => ⟨?last, fun h hhalf hseg hidx => ?goes⟩⟩⟩
  case first =>
    rw [exec_nop_alone hi hrest, finish_further (iss := { iss with rest := [], nop := n.toNat + 1 }) ⟨hafter, hhalt, hwatch, hsafe, hblock⟩
      (Nat.succ_lt_succ hn) hstep]
    rfl
  all_goals
    have ⟨hissue, _, _, hstep, _⟩ := hready
    have hmode := (landDue_stepMode q s.dev).trans hstep
    rw [issueBundle_nop hready (by omega), hleft]
  case further =>
    rw [finish_further ⟨rfl, rfl, rfl, rfl, rfl⟩ (Nat.succ_lt_succ hk) hmode, hissue]
    rfl
  case last =>
    subst hk
    rfl
  case goes =>
    subst hk
    have hpc := landDue_pc q s.dev
    have hhalf' := (landDue_half q s.dev).trans hhalf
    generalize landDue q s.dev = e at hpc hhalf' hmode ⊢
    rw [finish_next ⟨rfl, rfl, rfl, rfl, rfl⟩ rfl rfl rfl hhalf' (by rw [hpc]; exact hseg) (by rw [hpc]; exact hidx) hmode, hissue]

end Sys2Proof.Proofs
end

section
/-! Streams while the leader is free: index writes, waits, graph patches and graph nodes (R352, R353, R358, R361). -/

namespace Sys2Proof.Proofs

open Machine Claim Laws

variable {s : State} {ten m : Nat}

/-- A stream that a write of WIX with RST restarts at its index (R353). -/
def restarted (base size w : Nat) (l : List Nat) (y : Strm8) : Strm8 :=
  { y with base := base, size := size, rix := w % 2 ^ 63, wix := w % 2 ^ 63, fcode := 0, state := if blockOk base size then 1 else 0,
           wait := none, patch := none, news := l, due := false }

theorem streamReset_became {w : Nat} {l : List Nat} (ht : s.turn = .agent ten m) (hlead : leaderTurn s.dev)
    (hnews : (s.dev.stream ten m).news = w :: l) (hon : streamOn s.dev ten m = true) (hrst : w / 2 ^ 63 % 2 = 1) :
    exec .streamReset s = became s (putBlock ten m 0 (s.dev.modStream ten m
      (restarted (gget s.dev (blockLoc s.dev ten m + 16) 8) (gget s.dev (blockLoc s.dev ten m + 24) 1) w l))) := by
  show execStreamReset s = _
  refine runLeader_became hlead ?_
  simp only [ht, hnews, hon, bit, hrst, decide_true, Bool.not_true, Bool.or_self, Bool.false_eq_true, if_false]
  rfl

theorem wixWrite_became {w : Nat} {l : List Nat} (ht : s.turn = .agent ten m) (hlead : leaderTurn s.dev)
    (hnews : (s.dev.stream ten m).news = w :: l) (hon : streamOn s.dev ten m = true) (hrst : w / 2 ^ 63 % 2 = 0) :
    let x := s.dev.stream ten m
    let e := s.dev.modStream ten m fun y => { y with news := l }
    exec .wixWrite s = became s (if x.state ≠ 1 ∧ x.state ≠ 2 then e
      else if w < x.wix ∨ x.rix + 2 ^ x.size < w then streamFault ten m 3 0 e else e.modStream ten m fun y => { y with wix := w }) := by
  intro x e
  show execWixWrite s = _
  refine runLeader_became hlead ?_
  have hbit : bit w 63 = false := by rw [bit, hrst]; rfl
  simp only [ht, hnews, hon, hbit, Bool.not_true, Bool.or_self, Bool.false_eq_true, if_false, Bool.and_eq_true, Bool.or_eq_true, decide_eq_true_eq,
    apply_ite some]
  rfl

/-- A stream that waits goes on when the word that is here meets its condition (R358). -/
theorem waitSatisfied_became {va v kind loc n : Nat} {wr : Bool} (ht : s.turn = .agent ten m) (hlead : leaderTurn s.dev)
    (hwait : (s.dev.stream ten m).wait = some (va, v, kind)) (hway : translate s.dev 0 ten va = .here loc true wr)
    (hread : readNow s.dev loc 8 = some n) (hmet : if kind = 0 then v ≤ n else n ≠ v) :
    exec .waitSatisfied s = became s (pass (takePast ten m 1 (putState ten m
      ((touch s.dev loc).modStream ten m fun y => { y with wait := none, state := 1 })))) := by
  show execWaitSatisfied s = _
  refine runLeader_became hlead ?_
  have hword : waitWord s.dev ten va = some (n, touch s.dev loc) := by simp [waitWord, hway, hread]
  have hmet' : (if kind = 0 then decide (v ≤ n) else decide (n ≠ v)) = true := by
    split at hmet
    · next h => simp [h, hmet]
    · next h => simp [h, hmet]
  simp only [ht, hwait, hway, hword, hmet', if_true]

/-- A graph patch that waited is made once a generation is free (R361). -/
theorem gpatchUnblock_became {r : Rec} {e : Dev} (ht : s.turn = .agent ten m) (hlead : leaderTurn s.dev)
    (hpatch : (s.dev.stream ten m).patch = some r) (he : patchGraph ten r s.dev = some e) :
    exec .gpatchUnblock s = became s (pass (takePast ten m (recLen r) (putState ten m
      (e.modStream ten m fun y => { y with patch := none, state := 1 })))) := by
  show execGpatchUnblock s = _
  refine runLeader_became hlead ?_
  simp only [ht, hpatch, he, Option.map_some]

section node
variable {r : Replay} {g : Graph} {n : GNode}

/-- A node that starts has no replay of its graph before its own (R361). -/
theorem no_earlier_replay {d : Dev} (h : ∀ e ∈ d.replays, e.1 < ten → e.2.ten ≠ r.ten ∨ e.2.gid ≠ r.gid) :
    (d.replays.any fun e => decide (e.1 < ten) && decide (e.2.ten = r.ten) && decide (e.2.gid = r.gid)) = false := by
  simp only [List.any_eq_false, Bool.and_eq_true, decide_eq_true_eq]
  rintro e he ⟨⟨hlt, hten⟩, hgid⟩
  exact (h e he hlt).elim (fun hne => hne hten) fun hne => hne hgid

/-- The launch of a graph's node (R361). -/
def nodeLaunch (k j : Nat) (r : Replay) (g : Graph) (n : GNode) : Launch :=
  { ten := r.ten, strm := r.strm, seq := r.seq, tag := r.tag, obj := r.ten * 4096 + min n.obj 4096 % 4096, prio := n.prio,
    diag := n.lfl.testBit 0, notify := n.lfl.testBit 1,
    parm := if n.plen = 0 then 0 else ((g.gens.find? r.gen).map fun x => x.addrs.getD j 0).getD 0, age := r.age, node := some (k, j) }

/-- A launch that has come into being waits, unless it has a status: then it is to end (R357). -/
theorem newLaunch_draining (secc : Nat) (x : Launch) (d : Dev) :
    (((newLaunch secc x d).2.launch? (newLaunch secc x d).1).any fun y => decide (y.st = .draining))
      = !decide (launchStatus d secc x.ten x.obj x.prio x.diag = 0) := by
  simp only [newLaunch, Dev.launch?, Tab.find?_put, if_true, Option.any_some]
  by_cases h : launchStatus d secc x.ten x.obj x.prio x.diag = 0 <;> simp [h]

variable (ht : s.turn = .agent ten m) (hlead : leaderTurn s.dev) (hr : s.dev.replays.find? ten = some r) (hidle : r.nodes[m]? = some .idle)
  (hg : s.dev.graphs.find? (graphKey r.ten r.gid) = some g) (hn : g.nodes[m]? = some n)
  (hfirst : ∀ e ∈ s.dev.replays, e.1 < ten → e.2.ten ≠ r.ten ∨ e.2.gid ≠ r.gid)
  (hstarted : earlierStarted s.dev r.ten r.strm r.seq = true)
include ht hlead hr hidle hg hn hfirst hstarted

/-- A node with a failed predecessor ends (R361). -/
theorem graphNodeStart_failed (hready : nodeReady r n.dep = some false) :
    exec .graphNodeStart s = became s (tryReplay ten
      { s.dev with replays := s.dev.replays.put ten { r with nodes := r.nodes.set m (.ended 0x16) } }) := by
  show execGraphNodeStart s = _
  refine runLeader_became hlead ?_
  simp only [ht, hr, hidle, hg, hn, no_earlier_replay hfirst, hstarted, hready, Bool.not_true, Bool.or_self, Bool.false_eq_true, if_false]

/-- A node whose predecessors have ended well becomes a launch (R361). -/
theorem graphNodeStart_begun (hready : nodeReady r n.dep = some true) :
    let made := newLaunch r.secc (nodeLaunch ten m r g n) s.dev
    let e : Dev := { made.2 with replays := made.2.replays.put ten { r with nodes := r.nodes.set m (.runs made.1) } }
    exec .graphNodeStart s = became s (pass (if launchStatus s.dev r.secc r.ten (r.ten * 4096 + min n.obj 4096 % 4096) n.prio
        (n.lfl.testBit 0) = 0 then e
      else tryEnd made.1 (replayBegins (now e).1 ten (now e).2))) := by
  intro made e
  show execGraphNodeStart s = _
  refine runLeader_became hlead ?_
  simp only [ht, hr, hidle, hg, hn, no_earlier_replay hfirst, hstarted, hready, bit_eq, Bool.not_true, Bool.or_self, Bool.false_eq_true, if_false]
  show some (pass (if ((e.launch? made.1).any fun y => decide (y.st = .draining)) = true then _ else e)) = _
  have hdrain : ((e.launch? made.1).any fun y => decide (y.st = .draining))
      = !decide (launchStatus s.dev r.secc r.ten (r.ten * 4096 + min n.obj 4096 % 4096) n.prio (n.lfl.testBit 0) = 0) :=
    newLaunch_draining r.secc (nodeLaunch ten m r g n) s.dev
  rw [hdrain]
  by_cases hst : launchStatus s.dev r.secc r.ten (r.ten * 4096 + min n.obj 4096 % 4096) n.prio (n.lfl.testBit 0) = 0
  · rw [if_pos hst, if_neg (by rw [decide_eq_true hst]; decide)]
  · rw [if_neg hst, if_pos (by rw [decide_eq_false hst]; decide)]
    rfl

end node

end Sys2Proof.Proofs
end

section
/-! CTRL records on an item, on its parked launches, and on its sequencers (R362, R370, R392, R393). -/

namespace Sys2Proof.Proofs

open Machine Claim Laws

variable {s : State} {ten m : Nat} {r : Rec}

/-- The launches of the item that a CTRL record names (R362). -/
def itemOf (d : Dev) (ten : Nat) (r : Rec) : List Nat := itemLaunches d ten (field r 9 1) (field r 16 8)

/-- A CTRL operation on an item of streams 0 to 7 is taken with what it does (R362). -/
theorem control_taken {f : Nat → Nat → Nat → Rec → Dev → Dev} (h : recordTurn s ten m r) (hstrm : field r 9 1 ≤ 7) :
    Machine.control s f = recordTaken s ten m r (f ten (field r 9 1) (field r 16 8) r s.dev) := by
  unfold Machine.control
  exact record_done h (if_neg (Nat.not_lt.mpr hstrm))

theorem releaseReplay_taken (h : recordTurn s ten m r) (hstrm : field r 9 1 ≤ 7) :
    exec .releaseReplay s = recordTaken s ten m r ((itemOf s.dev ten r).foldl (fun e l => releaseLaunch l e) s.dev) := by
  show execReleaseReplay s = _
  exact control_taken h hstrm

/-- A parked launch that is to be killed ends with the cause that parked it (R362, R370). -/
theorem releaseKill_taken {l : Nat} {x : Launch} {c : TrapInfo} (h : recordTurn s ten m r) (hstrm : field r 9 1 ≤ 7)
    (hitem : itemOf s.dev ten r = [l]) (hx : s.dev.launch? l = some x) (hst : x.st = .parked)
    (htrap : (seqsOf x).findSome? (fun q => (s.dev.seq q).trap) = some c) :
    exec .releaseKill s = recordTaken s ten m r (killLaunch l 0x11 c.cause s.dev) := by
  show execReleaseKill s = _
  have hcause : (seqsOf x).findSome? (fun q => (s.dev.seq q).trap.map (·.cause)) = some c.cause :=
    (List.map_findSome? (g := fun t : TrapInfo => t.cause)).symm.trans (by rw [htrap]; rfl)
  refine (control_taken h hstrm).trans ?_
  rw [show itemLaunches s.dev ten (field r 9 1) (field r 16 8) = [l] from hitem]
  simp [hx, hst, hcause]

theorem killRec_taken (h : recordTurn s ten m r) (hstrm : field r 9 1 ≤ 7) :
    exec .killRec s = recordTaken s ten m r (killItem ten (field r 9 1) (field r 16 8) 0x17 s.dev) := by
  show execKillRec s = _
  exact control_taken h hstrm

/-- A record that sets an action writes the entry of its cause (R362, R369). -/
theorem actionSet_taken (h : recordTurn s ten m r) (hlt : field r 11 1 < 8) (hact : field r 11 1 % 4 ≠ 3) :
    exec .actionSet s = recordTaken s ten m r (s.dev.modTenant ten fun t =>
      { t with actions := vset t.actions (field r 10 1) (BitVec.ofNat 8 (field r 11 1)) }) := by
  show execActionSet s = _
  refine record_done h ?_
  rw [field] at hlt hact
  simp [Nat.not_le.mpr hlt, hact, field]

/-- A stopped sequencer goes on from its record (R386, R392). -/
theorem resumeStopped_of_replay {q : Nat} {d e : Dev} (hrun : (d.seq q).run = .stopped) (he : replaySeq d q = some e) : resumeStopped q d = e := by
  simp [resumeStopped, hrun, he]

theorem resumeStopped_of_not_stopped {q : Nat} {d : Dev} (hrun : (d.seq q).run ≠ .stopped) : resumeStopped q d = d := if_pos hrun

/-! ### On a sequencer of the item (R392, R393) -/

/-- A sequencer without its owner and without the request to stop (R392). -/
def givenBack (x : Seq) : Seq := { x with owner := false, reqs := x.reqs.filter (· ≠ .stop) }

section onSequencer
variable {e : Dev} (h : recordTurn s ten m r) (hstrm : field r 9 1 ≤ 7)
  (hq : ∃ l ∈ itemOf s.dev ten r, ∃ x, s.dev.launch? l = some x ∧ field r 24 4 ∈ seqsOf x)
include h hstrm hq

/-- A debugger's operation on a sequencer of the item is taken with what it does (R392). -/
theorem debugger_taken (f : Nat → Dev → Dev) : debugger s f = recordTaken s ten m r (f (field r 24 4) s.dev) := by
  refine (control_taken h hstrm).trans (congrArg _ (if_pos ?_))
  obtain ⟨l, hl, x, hx, hmem⟩ := hq
  exact List.any_eq_true.mpr ⟨l, hl, by rw [hx]; exact List.contains_iff_mem.mpr hmem⟩

theorem attach_taken : exec .attach s = recordTaken s ten m r (s.dev.modSeq (field r 24 4) fun x =>
    { x with owner := true, reqs := if x.run ≠ .stopped && !x.reqs.contains .stop then x.reqs ++ [.stop] else x.reqs }) := by
  show execAttach s = _
  exact debugger_taken h hstrm hq _

theorem detach_taken (hrun : (s.dev.seq (field r 24 4)).run ≠ .stopped) :
    exec .detach s = recordTaken s ten m r (s.dev.modSeq (field r 24 4) givenBack) := by
  show execDetach s = _
  refine (debugger_taken h hstrm hq _).trans (congrArg _ (resumeStopped_of_not_stopped ?_))
  rwa [Dev.seq_modSeq]

/-- A stopped sequencer that is given back goes on (R392). -/
theorem detach_stopped_taken (hrun : (s.dev.seq (field r 24 4)).run = .stopped)
    (he : replaySeq (s.dev.modSeq (field r 24 4) givenBack) (field r 24 4) = some e) : exec .detach s = recordTaken s ten m r e := by
  show execDetach s = _
  refine (debugger_taken h hstrm hq _).trans (congrArg _ (resumeStopped_of_replay ?_ he))
  rwa [Dev.seq_modSeq]

/-- A stopped sequencer that is stepped goes on for one bundle (R393). -/
theorem stepRec_taken (hrun : (s.dev.seq (field r 24 4)).run = .stopped) (he : replaySeq s.dev (field r 24 4) = some e) :
    exec .stepRec s = recordTaken s ten m r (e.modSeq (field r 24 4) fun x => { x with stepMode := decide (x.run = .running) }) := by
  show execStepRec s = _
  refine (debugger_taken h hstrm hq _).trans (congrArg _ ((if_neg (not_not.mpr hrun)).trans ?_))
  rw [resumeStopped_of_replay hrun he]

theorem continueRec_taken (hrun : (s.dev.seq (field r 24 4)).run = .stopped) (he : replaySeq s.dev (field r 24 4) = some e) :
    exec .continueRec s = recordTaken s ten m r e := by
  show execContinueRec s = _
  exact (debugger_taken h hstrm hq _).trans (congrArg _ (resumeStopped_of_replay hrun he))

end onSequencer

end Sys2Proof.Proofs
end

section
/-! The statement about streams and CTRL. -/

namespace Sys2Proof.Proofs

open Machine Claim

variable {s : State} {iss : Issue} {q k : Nat}

/-- A stepped nop alone in its bundle takes the trap of its step (R92, R393). -/
theorem exec_nop_stepped {j w : Nat} {n : BitVec 14} (hi : s.issue = some iss) (hrest : iss.rest = [(j, w)]) (hp : Plain iss)
    (hrun : (s.dev.seq iss.q).run = .running) (hstep : (s.dev.seq iss.q).stepMode = true) (hn : 0 < n.toNat) :
    exec (.nop n) s = .next { s with issue := none, base := {}, dev := nopStepped n.toNat iss.q s.dev } := by
  obtain ⟨hafter, hhalt, hwatch, hsafe, hblock⟩ := hp
  rw [exec_nop_alone hi hrest, finish_further_stepped (iss := { iss with rest := [], nop := n.toNat + 1 }) ⟨hafter, hhalt, hwatch, hsafe, hblock⟩
    (Nat.succ_lt_succ hn) hrun hstep]
  rfl

/-- A stepped further bundle of a nop takes the trap of its step (R92, R393). -/
theorem issueBundle_nop_stepped (hready : nopReady s q true) (hleft : (s.dev.seq q).nopLeft = k + 1) (hk : 0 < k) :
    issueBundle q s = { s with base := {}, dev := nopStepped k q (landDue q s.dev) } := by
  have ⟨hissue, _, hrun, hstep, _⟩ := hready
  rw [issueBundle_nop hready (by omega), hleft, finish_further_stepped ⟨rfl, rfl, rfl, rfl, rfl⟩ (Nat.succ_lt_succ hk)
    ((landDue_run q s.dev).trans hrun) ((landDue_stepMode q s.dev).trans hstep), hissue]
  rfl

/-- Settles O54: the steps of streams while the leader is free, the stepped bundles of a nop, and the CTRL records. -/
theorem streamAndControlResults : Obligations.StreamAndControlResults := by
  unfold Obligations.StreamAndControlResults
  exact ⟨fun s ten m ht hlead => ⟨fun w l hnews hon => ⟨streamReset_became ht hlead hnews hon, wixWrite_became ht hlead hnews hon⟩,
      fun va v kind loc n wr hwait hway hread hmet => waitSatisfied_became ht hlead hwait hway hread hmet,
      fun r e hpatch he => gpatchUnblock_became ht hlead hpatch he,
      fun r g n hr hidle hg hn hfirst hstarted => ⟨graphNodeStart_failed ht hlead hr hidle hg hn hfirst hstarted,
        graphNodeStart_begun ht hlead hr hidle hg hn hfirst hstarted⟩⟩,
    fun s iss j w n hi hrest hafter hhalt hwatch hsafe hblock hrun hstep hn =>
      exec_nop_stepped hi hrest ⟨hafter, hhalt, hwatch, hsafe, hblock⟩ hrun hstep hn,
    fun s q k hready hleft hk => issueBundle_nop_stepped hready hleft hk,
    fun s ten m r h => ⟨fun hstrm => ⟨releaseReplay_taken h hstrm, fun l x c hitem hx hst htrap => releaseKill_taken h hstrm hitem hx hst htrap,
      killRec_taken h hstrm, fun hq => ⟨attach_taken h hstrm hq, fun hrun => detach_taken h hstrm hq hrun,
        fun e hrun he => detach_stopped_taken h hstrm hq hrun he,
        fun e hrun he => ⟨stepRec_taken h hstrm hq hrun he, continueRec_taken h hstrm hq hrun he⟩⟩⟩, actionSet_taken h⟩⟩

end Sys2Proof.Proofs
end

section
/-! The check of a footprint: what each of its outcomes answers (R116, R375, R376, R379). -/

namespace Sys2Proof.Proofs

open Machine Claim Laws

variable {x : Slot} {l : List (Nat × Nat)} {rd wr named : Bool}

/-- What the check of a footprint finds for each of its addresses. -/
def footFound (x : Slot) (l : List (Nat × Nat)) (rd wr : Bool) : List (Nat × Option Nat) := l.map fun a => (a.1, pageFound x rd wr a.1)

/-- The key under which a slot's finding for the page of an address is kept. -/
def findingKey (x : Slot) (a : Nat) : Nat := slotNo x * 2 ^ 60 + a / 16384

/-- The findings that stand while the bundle is held for the other pages (R376). -/
def findingsKept (x : Slot) (found : List (Nat × Option Nat)) (t : Tab Nat) : Tab Nat :=
  found.foldl (fun t w => match w.2 with | some v => t.put (findingKey x w.1) v | none => t) t

theorem findingsKept_cons_some (w : Nat × Option Nat) (found : List (Nat × Option Nat)) (t : Tab Nat) {v : Nat} (hv : w.2 = some v) :
    findingsKept x (w :: found) t = findingsKept x found (t.put (findingKey x w.1) v) := by
  simp only [findingsKept, List.foldl_cons, hv]

theorem findingsKept_cons_none (w : Nat × Option Nat) (found : List (Nat × Option Nat)) (t : Tab Nat) (hv : w.2 = none) :
    findingsKept x (w :: found) t = findingsKept x found t := by
  simp only [findingsKept, List.foldl_cons, hv]

/-- A finding that is kept stays, whatever is put in beside it. -/
theorem findingsKept_stays {found : List (Nat × Option Nat)} {t : Tab Nat} {k : Nat} (h : t.find? k ≠ none) : (findingsKept x found t).find? k ≠ none := by
  induction found generalizing t with
  | nil => exact h
  | cons w found ih =>
    cases hv : w.2 with
    | none => rw [findingsKept_cons_none w found t hv]; exact ih h
    | some v =>
      rw [findingsKept_cons_some w found t hv]
      refine ih ?_
      rw [Tab.find?_put]
      split
      · exact Option.some_ne_none v
      · exact h

/-- Every finding is kept. -/
theorem findingsKept_of_mem {found : List (Nat × Option Nat)} {t : Tab Nat} {w : Nat × Option Nat} (hw : w ∈ found) (hv : w.2 ≠ none) :
    (findingsKept x found t).find? (findingKey x w.1) ≠ none := by
  induction found generalizing t with
  | nil => cases hw
  | cons z found ih =>
    rcases List.mem_cons.mp hw with rfl | hw
    · obtain ⟨v, hsome⟩ := Option.ne_none_iff_exists'.mp hv
      rw [findingsKept_cons_some w found t hsome]
      refine findingsKept_stays ?_
      rw [Tab.find?_put, if_pos rfl]
      exact Option.some_ne_none v
    · cases hz : z.2 with
      | none => rw [findingsKept_cons_none z found t hz]; exact ih hw
      | some v => rw [findingsKept_cons_some z found t hz]; exact ih hw

/-- What a footprint's record says of the access kind, where it names it (R137, R187). -/
def kindItem (wr named : Bool) : List Nat := if named then [Config.accessKind (if wr then 1 else 0)] else []

/-- An address beyond 2^56 is a permission trap with the first such address (R116). -/
theorem footprint_far {e : Nat × Nat} (he : l.find? (fun a => decide (2 ^ 56 ≤ a.1)) = some e) :
    Op.footprint l rd wr named x = .error (.trap { cause := 0x20, slot := slotNo x, cont := e.1 :: kindItem wr named }) := by
  unfold Op.footprint
  rw [bind_ok (get_app x), bind_ok (slotNo_app x)]
  simp only [he]
  rfl

/-- Addresses below 2^56 answer by what is found for their pages (log 65). -/
theorem footprint_near (hnear : ∀ e ∈ l, e.1 < 2 ^ 56) :
    Op.footprint l rd wr named x =
      if (footFound x l rd wr).any (fun w => w.2.isNone) then
        .error (.more (x.base.modSeq x.iss.q fun s => { s with checks := findingsKept x (footFound x l rd wr) s.checks }))
      else if (footFound x l rd wr).any (fun w => decide (w.2 = some 1)) then .error (.trap { cause := 0x27, slot := slotNo x, cont := [] })
      else match (footFound x l rd wr).find? fun w => decide (w.2 = some 2) with
        | some w => .error (.trap { cause := 0x20, slot := slotNo x, cont := w.1 :: kindItem wr named })
        | none => .ok ((), x) := by
  have hfar : (l.find? fun a => decide (2 ^ 56 ≤ a.1)) = none := by
    simp only [List.find?_eq_none, decide_eq_true_eq, Nat.not_le]
    exact hnear
  unfold Op.footprint
  rw [bind_ok (get_app x), bind_ok (slotNo_app x)]
  simp only [hfar, pageFound_eq]
  show (if (footFound x l rd wr).any (fun w => w.2.isNone) = true then _ else if (footFound x l rd wr).any (fun w => decide (w.2 = some 1)) = true then _
    else _ : SlotM Unit) x = _
  split
  · rfl
  · split
    · rfl
    · show (match (footFound x l rd wr).find? fun w => decide (w.2 = some 2) with
        | some w => Op.trap .permission (w.1 :: kindItem wr named)
        | none => pure () : SlotM Unit) x = _
      cases (footFound x l rd wr).find? fun w => decide (w.2 = some 2) <;> rfl

theorem footFound_any_isNone : (footFound x l rd wr).any (fun w => w.2.isNone) = true ↔ ¬ ∀ e ∈ l, pageFound x rd wr e.1 ≠ none := by
  simp [footFound]

theorem footFound_any_refused : (footFound x l rd wr).any (fun w => decide (w.2 = some 1)) = true ↔ ¬ ∀ e ∈ l, pageFound x rd wr e.1 ≠ some 1 := by
  simp [footFound]

theorem footFound_find_denied {e : Nat × Nat} (he : l.find? (fun a => decide (pageFound x rd wr a.1 = some 2)) = some e) :
    (footFound x l rd wr).find? (fun w => decide (w.2 = some 2)) = some (e.1, pageFound x rd wr e.1) := by
  rw [footFound, List.find?_map]
  exact congrArg (Option.map fun a : Nat × Nat => (a.1, pageFound x rd wr a.1)) he

/-- Settles O18: addresses beyond 2^56 first, then by what is found for the pages. -/
theorem footprintAnswers : Obligations.FootprintAnswers := by
  unfold Obligations.FootprintAnswers
  intro x l rd wr named kind trap r near known unrefused
  refine ⟨foot_pass, fun e he => footprint_far he, fun hnear hknown => ?_, fun hnear hknown hrefused => ?_, fun e hnear hknown hunrefused he => ?_⟩
  · refine ⟨findingsKept x (footFound x l rd wr) (x.base.seq x.iss.q).checks,
      (footprint_near hnear).trans (if_pos (footFound_any_isNone.mpr hknown)), fun e he hfound => ?_⟩
    exact findingsKept_of_mem (w := (e.1, pageFound x rd wr e.1)) (List.mem_map_of_mem he) hfound
  · refine (footprint_near hnear).trans ?_
    rw [if_neg (fun h => footFound_any_isNone.mp h hknown), if_pos (footFound_any_refused.mpr hrefused)]
  · refine (footprint_near hnear).trans ?_
    rw [if_neg (fun h => footFound_any_isNone.mp h hknown), if_neg (fun h => footFound_any_refused.mp h hunrefused), footFound_find_denied he]
    rfl

end Sys2Proof.Proofs
end

section
/-! Major 0x0B: load streams as they issue (R112 to R126). -/

namespace Sys2Proof.Proofs

open Machine Claim Laws

variable {x y w : Slot} {t : Strm}

/-- An operation that even an open region performs at its issue enters the order (R238). -/
theorem orderNow_app (op : MOp) (x : Slot) : Op.orderNow op x = .ok ((), ordered x op) := rfl

theorem notInRegion_pass (h : (seqOf x).region.levels = []) : Op.notInRegion x = .ok ((), x) := by
  unfold Op.notInRegion
  rw [bind_ok (inRegion_app x), h]
  rfl

/-- A stream of elements takes one place of its column's load-address queue and enters the order, as the push makes it (R114). -/
def enterLoad (t : Strm) : SlotM Unit := do
  if 0 < t.cnt then
    Op.modMe fun s => s.modCol t.col fun c => { c with laq := c.laq + 1 }
    Op.orderNow (.stream t)

theorem enterLoad_app (t : Strm) (y : Slot) :
    enterLoad t y = .ok ((), if t.cnt = 0 then y else ordered (queueLoad y t.col) (.stream t)) := by
  unfold enterLoad
  by_cases hcnt : t.cnt = 0
  · rw [if_neg (by simp [hcnt]), if_pos hcnt]
    rfl
  · rw [if_pos (Nat.pos_of_ne_zero hcnt), if_neg hcnt, bind_ok (modMe_app ..), orderNow_app]
    rfl

/-- An accepted push leaves the stream in the order (R114 to R116). -/
theorem pushLoad_app {k : StrKind} {z : BitVec 3} {p : BitVec 4} {a b : Opnd} {v : Slot} {va vb : Word} (ha : Op.rdS a v = .ok (va, x))
    (hb : Op.rdS b x = .ok (vb, y)) (ht : t = Strm.ofShape k (slotNo y / 2) (slotNo y) z.toNat p.toNat va.toNat vb.toNat)
    (houtside : k = .ldFec → (seqOf y).region.levels = []) (hok : streamOk y t) (hroom : ((seqOf y).col t.col).laq < 64) :
    Op.pushLoad k z p a b v = .ok ((), if t.cnt = 0 then y else ordered (queueLoad y t.col) (.stream t)) := by
  unfold Op.pushLoad
  rw [bind_ok ha, bind_ok hb, bind_ok (slotNo_app y)]
  simp only [← ht]
  refine when_app (fun hk => notInRegion_pass (houtside hk)) ?_
  rw [bind_ok (checkStream_pass _ hok), bind_ok (me_app y), bind_ok (hold_pass (decide_eq_true hroom))]
  exact enterLoad_app t y

/-- Settles O19: the four instructions are one push. -/
theorem loadStreamResults : Obligations.LoadStreamResults := by
  unfold Obligations.LoadStreamResults
  intro e he z p a b s iss va vb x y hi ha hb t houtside hok hroom
  have hpush : exec (e.1 z p a b) s = runSlot (Op.pushLoad e.2 z p a b) s := by
    simp only [streamLoads, List.mem_cons, List.not_mem_nil, or_false] at he
    rcases he with rfl | rfl | rfl | rfl <;> rfl
  rw [hpush]
  exact runSlot_ok hi (pushLoad_app ha hb rfl houtside hok hroom)

end Sys2Proof.Proofs
end

section
/-! Major 0x0D: atomics as they issue (R127, R128, R238). -/

namespace Sys2Proof.Proofs

open Machine Claim Laws

variable {x x2 y w : Slot}

/-- One of two meanings, by a condition, and then what goes on from its value. -/
theorem choice_ok {α β : Type} {c : Prop} [Decidable c] {m k : SlotM α} {f : α → SlotM β} {u v : Slot} {r : α}
    (h : (if c then m else k) u = .ok (r, v)) : (if c then m >>= f else k >>= f) u = f r v := by
  by_cases hc : c
  · rw [if_pos hc] at h ⊢
    exact bind_ok h
  · rw [if_neg hc] at h ⊢
    exact bind_ok h

/-- Bytes of an atomic's operands (R127). -/
def atomBytes (wide : Bool) : Nat := if wide then 8 else 4

/-- What an atomic takes of the load-address queue: one place outside a region, none in one (R128, R238). -/
def atomQueued (y w : Slot) : Slot := if (seqOf y).region.levels = [] then queueLoad w (slotNo y / 2) else w

/-- An accepted atomic enters the order or the deferral buffer, with its operands cut to its width (R127, R238). -/
theorem atomic_app {op : Nat} {sc : BitVec 2} {d a : Opnd} {wide ret : Bool} {v : Slot} {vd v2 va : Word} (hd : Op.rdS d v = .ok (vd, x))
    (h2 : (if op = 9 then Op.rdRun d 1 else pure 0) x = .ok (v2, x2)) (ha : Op.rdS a x2 = .ok (va, y)) (halign : va.toNat % atomBytes wide = 0)
    (hfoot : footOk y [(va.toNat, atomBytes wide)] true true) (hdefer : deferOk y)
    (hroom : (seqOf y).region.levels = [] → ((seqOf y).col (slotNo y / 2)).laq < 64) (hret : (seqOf y).region.levels ≠ [] → ret = false)
    (hwatch : Op.watch [(va.toNat, atomBytes wide)] y = .ok ((), w)) :
    Op.atomic op sc d a wide ret v = .ok ((), orderedIn (atomQueued y w) (.atom
      { op := op, sc := sc.toNat, col := slotNo y / 2, slot := slotNo y, addr := va.toNat, wide := wide, ret := ret,
        y := vd.toNat % (if wide then 2 ^ 64 else 2 ^ 32), y2 := v2.toNat % (if wide then 2 ^ 64 else 2 ^ 32) })) := by
  have hcheck : decide (va.toNat % (if wide = true then 8 else 4) = 0) = true := decide_eq_true halign
  have hfoot' : Op.footprint [(va.toNat, if wide = true then 8 else 4)] true true true y = .ok ((), y) := foot_pass hfoot
  have hwatch' : Op.watch [(va.toNat, if wide = true then 8 else 4)] y = .ok ((), w) := hwatch
  unfold Op.atomic
  rw [bind_ok hd, choice_ok h2]
  beta_reduce
  rw [bind_ok ha, bind_ok (slotNo_app y)]
  refine when_app (fun hr => notInRegion_pass ?_) ?_
  · by_contra hl
    rw [hret hl] at hr
    cases hr
  beta_reduce
  rw [bind_ok (check_pass hcheck), bind_ok hfoot', bind_ok (deferRoom_pass hdefer), bind_ok (inRegion_app y), atomQueued]
  by_cases hl : (seqOf y).region.levels = []
  · rw [if_pos (by simp [hl]), bind_ok (me_app y), bind_ok (hold_pass (decide_eq_true (hroom hl)))]
    beta_reduce
    rw [bind_ok hwatch', if_pos (by simp [hl]), bind_ok (modMe_app ..), if_pos hl]
    exact order_app ..
  · rw [if_neg (by simp [hl])]
    beta_reduce
    rw [bind_ok hwatch', if_neg (by simp [hl]), if_neg hl]
    exact order_app ..

/-- Settles O21: the ten instructions are one meaning. -/
theorem atomicResults : Obligations.AtomicResults := by
  unfold Obligations.AtomicResults
  intro e he d a sc narrow noret s iss vd v2 va x x2 y w hi hd h2 ha n halign hfoot hdefer hroom hret hwatch r
  have hatomic : exec (e.1 d a sc narrow noret) s = runSlot (Op.atomic e.2 sc d a (!narrow) (!noret)) s := by
    simp only [atomics, List.mem_cons, List.not_mem_nil, or_false] at he
    rcases he with rfl | rfl | rfl | rfl | rfl | rfl | rfl | rfl | rfl | rfl <;> rfl
  have hn : n = atomBytes (!narrow) := by cases narrow <;> rfl
  have hmask : 2 ^ (8 * n) = if !narrow then 2 ^ 64 else 2 ^ 32 := by cases narrow <;> rfl
  rw [hatomic, hmask]
  rw [hn] at halign hfoot hwatch
  refine runSlot_ok hi ?_
  exact atomic_app hd h2 ha halign hfoot hdefer hroom (fun hl => by rw [hret hl]; rfl) hwatch

end Sys2Proof.Proofs
end

section
/-! Reads at their place in the order (R131, R162, R265). -/

namespace Sys2Proof.Proofs

open Machine Claim Laws

variable {x y z w : Slot} {va n loc v : Nat} {e : Dev}

/-- No access of the sequencer's own to the same host page is on its way (R265). -/
theorem hostPage_clear (h : goesFar x.dev x.iss.q va loc = true → ∀ p ∈ (seqOf x).far, p.range.2.1 / 16384 ≠ loc / 16384) :
    (!goesFar x.dev x.iss.q va loc || (seqOf x).far.all fun p => decide (p.range.2.1 / 16384 ≠ loc / 16384)) = true := by
  cases hfar : goesFar x.dev x.iss.q va loc with
  | false => rfl
  | true => simpa using h hfar

/-- What a wait whose bytes stand leaves: its predicate, or the bundle held (R131). -/
def waitEnd (r : Slot) (p : BitVec 4) (met : Bool) (on : Nat × Nat × Nat) : Except Abort (Unit × Slot) :=
  if met || (seqOf r).woke.isSome then .ok ((), withWrites r (predWrites p (BitVec.allOnes 64) true))
  else if !(seqOf r).reqs.isEmpty then .ok ((), withWrites r (predWrites p 0 true))
  else .error (.stall (some on))

/-- A wait at its place reads its bytes and ends by them (R131). -/
theorem waitOn_reads {p : BitVec 4} {met : Nat → Bool} {kind value : Nat} (h : waitReads z va n loc v e) :
    Op.waitOn p va n met kind value z = waitEnd { z with dev := touch e loc } p (met v) (loc, value, kind) := by
  obtain ⟨hside, ⟨wr, hway⟩, hfar, l, hload, hv⟩ := h
  unfold Op.waitOn
  rw [bind_ok (sqid_app z)]
  simp only
  rw [bind_ok (me_app z), bind_ok (hold_pass (by rw [hside]; rfl)), bind_ok (dev_app z)]
  simp only [hway]
  rw [bind_ok (dev_app z), bind_ok (me_app z), bind_ok (hold_pass (hostPage_clear hfar)), bind_ok (dev_app z)]
  simp only [hload]
  rw [bind_ok (modDev_app ..)]
  simp only [hv]
  rw [bind_ok (me_app _), waitEnd]
  split
  · rfl
  · split <;> rfl

/-- The bytes of a load at its place, and what it does besides (R117, R162). -/
theorem load32_reads {wr : Bool} {l : List (Byte × Bool)} (hway : accessWay x.dev x.iss.q va = .here loc true wr)
    (hside : awaitsSide (seqOf x) [(va, 32)] = false) (hself : Op.selfSupplied x.base x.iss.q loc 32 = none)
    (hload : loadBytes x.dev x.iss.q loc 32 = (some l, e)) (hgood : anyBad l = false)
    (hfar : goesFar x.dev x.iss.q va loc = true → ∀ p ∈ (seqOf x).far, p.range.2.1 / 16384 ≠ loc / 16384) :
    Op.load32 va x = .ok ((plain l, fun d => touch (loadBytes d x.iss.q loc 32).2 loc), x) := by
  unfold Op.load32
  rw [bind_ok (sqid_app x), bind_ok (slotNo_app x), bind_ok (me_app x), bind_ok (hold_pass (by rw [hside]; rfl))]
  simp only
  rw [bind_ok (dev_app x)]
  simp only [hway]
  rw [bind_ok (dev_app x), bind_ok (me_app x), bind_ok (hold_pass (hostPage_clear hfar)), bind_ok (get_app x)]
  simp only [hself, hload, hgood, Bool.false_eq_true, if_false]
  rfl

theorem read32_reads {wr : Bool} {l : List (Byte × Bool)} (hway : accessWay x.dev x.iss.q va = .here loc true wr)
    (hside : awaitsSide (seqOf x) [(va, 32)] = false) (hself : Op.selfSupplied x.base x.iss.q loc 32 = none)
    (hload : loadBytes x.dev x.iss.q loc 32 = (some l, e)) (hgood : anyBad l = false)
    (hfar : goesFar x.dev x.iss.q va loc = true → ∀ p ∈ (seqOf x).far, p.range.2.1 / 16384 ≠ loc / 16384) :
    Op.read32 va x = .ok (plain l, { x with dev := touch e loc }) := by
  unfold Op.read32
  rw [bind_ok (load32_reads hway hside hself hload hgood hfar)]
  simp only
  rw [bind_ok (modDev_app ..), hload]
  rfl

/-- A scale load leaves the 32 bytes at its place to land (R161, R162). -/
theorem scaleLoad_app {t : Tgt} {a : Opnd} {u : Slot} {va : Word} {l : Bytes} (ha : Op.rdS a u = .ok (va, x)) (halign : va.toNat % 32 = 0)
    (hstash : inStash (mapsAhead x) x.iss.q va.toNat 32 = true) (hdry : headDry x.base x.iss.q = none) (hplace : Op.atPlace x = .ok ((), y))
    (hread : Op.read32 va.toNat y = .ok (l, z)) :
    Op.scaleLoad t a u = .ok ((), withWrites z [{ tgt := t, data := BitVec.ofNat 256 (leNat l), en := BitVec.allOnes 32, rdly := 6 }]) := by
  unfold Op.scaleLoad
  rw [bind_ok ha, bind_ok (slotNo_app x), bind_ok (mapped_app x), bind_ok (sqid_app x), bind_ok (check_pass (by rw [halign, hstash]; rfl)),
    bind_ok (get_app x), bind_ok (sqid_app x)]
  simp only [hdry]
  rw [bind_ok hplace, bind_ok hread, pend_app]

/-- Settles O24: the read at its place, and the three instructions as one scale load. -/
theorem scaleLoadResults : Obligations.ScaleLoadResults := by
  unfold Obligations.ScaleLoadResults
  refine ⟨fun va loc w x l d hway hside hself hload hgood hfar => read32_reads hway hside hself hload hgood hfar,
    fun a s iss va x y z l hi ha halign hstash hdry hplace hread => ?_⟩
  have hscale (t : Tgt) := runSlot_ok hi (scaleLoad_app (t := t) ha halign hstash hdry hplace hread)
  exact ⟨fun k => ⟨hscale _, hscale _⟩, hscale _⟩

end Sys2Proof.Proofs
end

section
/-! Majors 0x0E and 0x0F: fences, waits on memory and routing counters (R129 to R134). -/

namespace Sys2Proof.Proofs

open Machine Claim Laws

variable {x y z w : Slot} {s : State} {iss : Issue} {m : Bool} {a b : Opnd} {va vb : Word}

theorem exec_fence {sc : BitVec 2} (hi : s.issue = some iss) :
    exec (.fence sc m) s = .next (afterSlot s (if enabled (slotOf s iss) m then ordered (slotOf s iss) (.fence (decide (sc = 2))) else slotOf s iss)) := by
  refine runSlot_ok hi ?_
  rw [bind_ok (enabled_app m _)]
  cases enabled (slotOf s iss) m with
  | false => rfl
  | true => exact orderNow_app ..

section mwait
variable {p : BitVec 4} {met : Nat → Nat → Bool} {kind : Nat} {u : Slot} (ha : Op.rdS a u = .ok (va, x)) (hb : Op.rdS b x = .ok (vb, y))
include ha hb

theorem mwait_squashed (hon : enabled y m = false) : Op.mwait p a b m met kind u = .ok ((), y) := by
  unfold Op.mwait
  rw [bind_ok ha, bind_ok hb, bind_ok (enabled_app m y), hon]
  rfl

/-- An mwait that is enabled, aligned and readable ends at its place by the bytes it reads (R131). -/
theorem mwait_reads {loc v : Nat} {d : Dev} (hon : enabled y m = true) (halign : va.toNat % 8 = 0) (hfoot : footOk y [(va.toNat, 8)] true false)
    (hplace : Op.atPlace y = .ok ((), z)) (hreads : waitReads z va.toNat 8 loc v d) :
    Op.mwait p a b m met kind u = waitEnd { z with dev := touch d loc } p (met v vb.toNat) (loc, vb.toNat, kind) := by
  unfold Op.mwait
  rw [bind_ok ha, bind_ok hb, bind_ok (enabled_app m y), hon]
  simp only [if_true]
  rw [bind_ok (slotNo_app y), bind_ok (check_pass (decide_eq_true halign)), bind_ok (foot_pass hfoot), bind_ok hplace]
  exact waitOn_reads hreads

end mwait

/-- The two waits on memory are one meaning. -/
theorem memoryWaits_meaning {e : (BitVec 4 → Opnd → Opnd → Bool → Instr) × (Nat → Nat → Bool) × Nat} (he : e ∈ memoryWaits) (p : BitVec 4)
    (a b : Opnd) (m : Bool) (s : State) : exec (e.1 p a b m) s = runSlot (Op.mwait p a b m e.2.1 e.2.2) s := by
  simp only [memoryWaits, List.mem_cons, List.not_mem_nil, or_false] at he
  rcases he with rfl | rfl <;> rfl

theorem counterGrant_pass (h : countersHeld x) : Op.counterGrant x = .ok ((), x) := by
  obtain ⟨hcore, hgrant⟩ := h
  unfold Op.counterGrant
  rw [bind_ok (dev_app x), bind_ok (sqid_app x), bind_ok (me_app x), hcore, hgrant]
  exact check_pass (by simp)

/-- The lanes that a cinc increments for (R134). -/
def lanesEnabled (y : Slot) (m : Bool) : List Nat := (List.range 32).filter fun l => (lanesOn y m).getLsbD l

/-- The index that a lane of a cinc holds (R134). -/
def laneIndex (v : BitVec 256) (l : Nat) : Nat := v.toNat / 2 ^ (8 * l) % 256

section cinc
variable {v : BitVec 256} {c : Word} (hi : s.issue = some iss) (hv : Op.rdV a (slotOf s iss) = .ok (v, x)) (hb : Op.rdS b x = .ok (c, y))
include hi hv hb

/-- A cinc none of whose lanes is enabled is not checked for its grant (log 73). -/
theorem exec_cinc_squashed (hnone : lanesEnabled y m = []) : exec (.cinc a b m) s = .next (afterSlot s y) := by
  refine runSlot_ok hi ?_
  rw [bind_ok hv, bind_ok hb, bind_ok (guard_app m y)]
  show (if (!(lanesEnabled y m).isEmpty) = true then _ else _ : SlotM Unit) y = _
  rw [hnone]
  rfl

theorem exec_cinc (hsome : lanesEnabled y m ≠ []) (hheld : countersHeld y) (hindex : ∀ l ∈ lanesEnabled y m, laneIndex v l < 64 ∨ laneIndex v l = 255)
    (hdefer : deferOk y) :
    exec (.cinc a b m) s = .next (afterSlot s (orderedIn y (.cinc
      (((lanesEnabled y m).filter fun l => decide (laneIndex v l ≠ 255)).map fun l => (laneIndex v l, c.toNat % 2 ^ 32))))) := by
  have hlanes : (!(lanesEnabled y m).isEmpty) = true := by simpa using hsome
  have hnone : (((lanesEnabled y m).map fun l => (l, bits v.toNat (8 * l) 8)).filter fun e => decide (e.2 ≠ 0xFF)).find? (fun e => decide (64 ≤ e.2))
      = none := by
    rw [List.find?_eq_none]
    intro e he
    obtain ⟨hmem, hne⟩ := List.mem_filter.mp he
    obtain ⟨l, hl, rfl⟩ := List.mem_map.mp hmem
    rcases hindex l hl with h | h
    · exact fun h64 => absurd h (Nat.not_lt.mpr (of_decide_eq_true h64))
    · exact absurd h (of_decide_eq_true hne)
  refine runSlot_ok hi ?_
  rw [bind_ok hv, bind_ok hb, bind_ok (guard_app m y)]
  show (if (!(lanesEnabled y m).isEmpty) = true then _ else _ : SlotM Unit) y = _
  rw [if_pos hlanes, bind_ok (counterGrant_pass hheld)]
  show (match (((lanesEnabled y m).map fun l => (l, bits v.toNat (8 * l) 8)).filter fun e => decide (e.2 ≠ 0xFF)).find? (fun e => decide (64 ≤ e.2)) with
    | some _ => _
    | none => _ : SlotM Unit) y = _
  rw [hnone]
  simp only
  rw [bind_ok (deferRoom_pass hdefer), order_app, List.filter_map, List.map_map]
  simp only [Function.comp_def, bits_zero]
  rfl
end cinc

/-- What the watchpoints set leaves the slot its number (R390). -/
theorem watch_slotNo {l : List (Nat × Nat)} (h : Op.watch l y = .ok ((), w)) : slotNo w = slotNo y := by
  unfold Op.watch at h
  rw [bind_ok (me_app y)] at h
  simp only at h
  generalize List.filterMap _ (List.range 4) = fires at h
  cases fires with
  | nil => cases h; rfl
  | cons f fires =>
    obtain ⟨j, a⟩ := f
    simp only at h
    rw [bind_ok (modMe_app ..)] at h
    split at h
    · rw [modIss_app] at h
      cases h
      rfl
    · rw [modMe_app] at h
      cases h
      rfl

section csnap
variable {c : Word} (hi : s.issue = some iss) (ha : Op.rdS a (slotOf s iss) = .ok (c, x))
include hi ha

theorem exec_csnap_squashed (hon : enabled x m = false) : exec (.csnap a m) s = .next (afterSlot s x) := by
  refine runSlot_ok hi ?_
  rw [bind_ok ha, bind_ok (enabled_app m x), hon]
  rfl

theorem exec_csnap (hon : enabled x m = true) (hheld : countersHeld x) (halign : c.toNat % 256 = 0) (hfoot : footOk x [(c.toNat, 256)] false true)
    (hdefer : deferOk x) (hwatch : Op.watch [(c.toNat, 256)] x = .ok ((), w)) :
    exec (.csnap a m) s = .next (afterSlot s (orderedIn w (.csnap c.toNat (slotNo x / 2)))) := by
  refine runSlot_ok hi ?_
  rw [bind_ok ha, bind_ok (enabled_app m x), if_pos hon, bind_ok (counterGrant_pass hheld), bind_ok (slotNo_app x),
    bind_ok (check_pass (decide_eq_true halign)), bind_ok (foot_pass hfoot), bind_ok (deferRoom_pass hdefer), bind_ok hwatch, bind_ok (slotNo_app w),
    order_app, watch_slotNo hwatch]
end csnap

/-- Settles O22: each instruction by its meaning where its checks pass. -/
theorem fenceWaitAndCounterResults : Obligations.FenceWaitAndCounterResults := by
  unfold Obligations.FenceWaitAndCounterResults
  refine ⟨⟨fun sc m s iss hi => exec_fence hi, fun e he p a b m s iss va vb x y hi ha hb =>
      ⟨fun hon => ?_, fun z loc v d hon halign hfoot hplace hreads => ?_⟩⟩,
    fun s iss m hi => ⟨fun a b v c x y hv hb => ⟨exec_cinc_squashed hi hv hb, exec_cinc hi hv hb⟩,
      fun a c x w ha => ⟨exec_csnap_squashed hi ha, exec_csnap hi ha⟩⟩⟩
  · rw [memoryWaits_meaning he]
    exact runSlot_ok hi (mwait_squashed ha hb hon)
  · have hwait := mwait_reads (p := p) (met := e.2.1) (kind := e.2.2) ha hb hon halign hfoot hplace hreads
    rw [memoryWaits_meaning he]
    refine ⟨fun hmet => runSlot_ok hi (hwait.trans (if_pos (by simpa using hmet))), fun hunmet hwoke hreqs => runSlot_ok hi (hwait.trans ?_),
      fun hunmet hwoke hreqs => runSlot_error hi (hwait.trans ?_)⟩
    · rw [waitEnd, if_neg (by simp [hunmet, hwoke]), if_pos (by simpa using hreqs)]
    · rw [waitEnd, if_neg (by simp [hunmet, hwoke]), if_neg (by simp [hreqs])]

end Sys2Proof.Proofs
end

section
/-! Page requests and stash maps (R131, R132). -/

namespace Sys2Proof.Proofs

open Machine Claim Laws

variable {x y : Slot} {s : State} {iss : Issue} {m : Bool} {a b : Opnd} {va vb : Word} {k ofs len : Nat}

section preq
variable (hi : s.issue = some iss) (ha : Op.rdS a (slotOf s iss) = .ok (va, x)) (hb : Op.rdS b x = .ok (vb, y))
include hi ha hb

theorem exec_preq_squashed (hon : enabled y m = false) : exec (.preq a b m) s = .next (afterSlot s y) := by
  refine runSlot_ok hi ?_
  rw [bind_ok ha, bind_ok hb, bind_ok (enabled_app m y), hon]
  rfl

theorem exec_preq (hon : enabled y m = true) (hsize : vb.toNat ≤ 2 ^ 30) (hfoot : footOk y (rangePages va.toNat vb.toNat) true false) :
    exec (.preq a b m) s = .next (afterSlot s { y with dev := pagesRequested y (rangePages va.toNat vb.toNat) }) := by
  refine runSlot_ok hi ?_
  rw [bind_ok ha, bind_ok hb, bind_ok (enabled_app m y), if_pos hon, bind_ok (slotNo_app y), bind_ok (check_pass (decide_eq_true hsize))]
  simp only
  rw [bind_ok (foot_pass hfoot), bind_ok (sqid_app y), bind_ok (me_app y), modDev_app]
  rfl
end preq

/-- The other entries of a stash map than entry k (R132). -/
def otherMaps (c : LCl) (k : Nat) : List MapEnt := c.maps.toList.zipIdx.filterMap fun e => if e.2 = k then none else e.1

theorem mem_otherMaps {c : LCl} {e : MapEnt} (h : e ∈ otherMaps c k) : ∃ j, j < 8 ∧ j ≠ k ∧ vget c.maps j none = some e := by
  obtain ⟨⟨o, j⟩, hmem, hsome⟩ := List.mem_filterMap.mp h
  obtain ⟨hj, hget⟩ := List.getElem?_eq_some_iff.mp (List.mem_zipIdx_iff_getElem?.mp hmem)
  simp only at hsome
  split at hsome
  · cases hsome
  · next hne =>
    subst hsome
    refine ⟨j, by simpa using hj, hne, ?_⟩
    have hget' : c.maps[j]? = some (some e) := Vector.getElem?_eq_some_iff.mpr ⟨by simpa using hj, by simpa using hget⟩
    rw [vget, hget']
    rfl

/-- An entry that R132 accepts lies apart from the others. -/
theorem mapOk_apart {va : Nat} (h : mapOk x k va len ofs) (hlen : len ≠ 0) :
    ((otherMaps (lclOf (mapsAhead x) (seqOf x).place.launch (seqOf x).place.lcl) k).all fun e =>
      !overlap va len e.va e.len && !overlap ofs len e.ofs e.len) = true := by
  obtain ⟨-, -, -, hentry⟩ := h
  rw [if_neg hlen] at hentry
  rw [List.all_eq_true]
  intro e he
  obtain ⟨j, hj, hne, hget⟩ := mem_otherMaps he
  obtain ⟨hva, hofs⟩ := hentry.2.2 j e hj hne hget
  rw [hva, hofs]
  rfl

/-- The check of a stash-map entry, as it is made by the map that goes ahead (R132). -/
def mapCheck (x : Slot) (k va len ofs : Nat) : Bool :=
  let c := lclOf (mapsAhead x) (seqOf x).place.launch (seqOf x).place.lcl
  decide (va % 16384 = 0) && decide (ofs % 16384 = 0) && decide (len % 16384 = 0)
    && (if len = 0 then (vget c.maps k none).isSome
      else !(vget c.maps k none).isSome && ((otherMaps c k).all fun e => !overlap va len e.va e.len && !overlap ofs len e.ofs e.len)
        && decide (ofs + len ≤ c.share * 2 ^ 18))

theorem mapCheck_of {va : Nat} (h : mapOk x k va len ofs) : mapCheck x k va len ofs = true := by
  obtain ⟨hva, hofs, hlen, hentry⟩ := id h
  unfold mapCheck
  by_cases h0 : len = 0
  · rw [if_pos h0] at hentry
    simp only [hva, hofs, h0, hentry, decide_true, Bool.and_self, if_true]
  · rw [if_neg h0] at hentry
    obtain ⟨hfree, hshare, -⟩ := hentry
    simp only [hva, hofs, hlen, h0, hfree, hshare, mapOk_apart h h0, decide_true, Bool.and_self, Bool.not_false, if_false]

section stashMap
variable {empty : Bool} {u : Slot} (ha : Op.rdS a u = .ok (va, x)) (hb : Op.rdS b x = .ok (vb, y))
include ha hb

theorem stashMap_squashed (hon : enabled y m = false) : Op.stashMap empty k a b m u = .ok ((), y) := by
  unfold Op.stashMap
  rw [bind_ok ha, bind_ok hb, bind_ok (enabled_app m y), hon]
  rfl

/-- An accepted entry enters the order (R132, R394). -/
theorem stashMap_app (hon : enabled y m = true) (houtside : (seqOf y).region.levels = []) (hcore : (seqOf y).place.control = false)
    (hmap : mapOk y k va.toNat (vb.toNat / 2 ^ 32) (vb.toNat % 2 ^ 32)) (hfoot : footOk y (rangePages va.toNat (vb.toNat / 2 ^ 32)) true true) :
    Op.stashMap empty k a b m u = .ok ((), ordered y (.map empty k va.toNat (vb.toNat / 2 ^ 32) (vb.toNat % 2 ^ 32))) := by
  have hlen : bits vb.toNat 32 32 = vb.toNat / 2 ^ 32 := Nat.mod_eq_of_lt (by have := vb.isLt; omega)
  have hofs : bits vb.toNat 0 32 = vb.toNat % 2 ^ 32 := bits_zero ..
  have horder (op : MOp) (hop : orderedIn y op = ordered y op) : Op.order op y = .ok ((), ordered y op) := hop ▸ order_app op y
  unfold Op.stashMap
  rw [bind_ok ha, bind_ok hb, bind_ok (enabled_app m y), if_pos hon, bind_ok (notInRegion_pass houtside), bind_ok (notControl_app hcore),
    bind_ok (me_app y), bind_ok (mapped_app y)]
  simp only [hlen, hofs]
  refine (bind_ok (check_pass (mapCheck_of hmap))).trans ?_
  rw [bind_ok (foot_pass hfoot)]
  exact horder _ (if_pos houtside)
end stashMap

/-- Settles O23: each instruction by its meaning where its checks pass. -/
theorem pageRequestAndMapResults : Obligations.PageRequestAndMapResults := by
  unfold Obligations.PageRequestAndMapResults
  intro a b m s iss va vb x y hi ha hb
  refine ⟨fun hon => ⟨exec_preq_squashed hi ha hb hon, fun k => ⟨runSlot_ok hi (stashMap_squashed ha hb hon), runSlot_ok hi (stashMap_squashed ha hb hon)⟩⟩,
    exec_preq hi ha hb, fun k hon houtside hcore hmap hfoot => ?_⟩
  exact ⟨runSlot_ok hi (stashMap_app ha hb hon houtside hcore hmap hfoot), runSlot_ok hi (stashMap_app ha hb hon houtside hcore hmap hfoot)⟩

end Sys2Proof.Proofs
end

section
/-! Engines at work (R190, R195 to R206): each step's own effect. -/

namespace Sys2Proof.Proofs

open Machine Claim Laws

/-! ### Round robin (R195) -/

theorem mem_insertNat (x y : Nat) (l : List Nat) : y ∈ insertNat x l ↔ y = x ∨ y ∈ l := by
  induction l with
  | nil => simp [insertNat]
  | cons z l ih =>
    unfold insertNat
    split
    · simp
    · split
      · next h => subst h; simp
      · simp only [List.mem_cons, ih]
        tauto

theorem mem_insertNats (xs l : List Nat) (y : Nat) : y ∈ insertNats l xs ↔ y ∈ l ∨ y ∈ xs := by
  induction xs generalizing l with
  | nil => simp [insertNats]
  | cons x xs ih =>
    show y ∈ insertNats (insertNat x l) xs ↔ _
    rw [ih, mem_insertNat, List.mem_cons]
    tauto

/-- Numbers put in stay in rising order. -/
theorem insertNat_rising {l : List Nat} (h : l.Pairwise (· < ·)) (x : Nat) : (insertNat x l).Pairwise (· < ·) := by
  induction l with
  | nil => simp [insertNat]
  | cons z l ih =>
    obtain ⟨hz, hl⟩ := List.pairwise_cons.mp h
    unfold insertNat
    split
    · next hx => exact List.pairwise_cons.mpr ⟨fun y hy => (List.mem_cons.mp hy).elim (fun e => e ▸ hx) fun hy => hx.trans (hz y hy), h⟩
    · split
      · exact h
      · refine List.pairwise_cons.mpr ⟨fun y hy => ?_, ih hl⟩
        rcases (mem_insertNat x y l).mp hy with rfl | hy
        · omega
        · exact hz y hy

theorem insertNats_rising {l : List Nat} (h : l.Pairwise (· < ·)) (xs : List Nat) : (insertNats l xs).Pairwise (· < ·) := by
  induction xs generalizing l with
  | nil => exact h
  | cons x xs ih => exact ih (insertNat_rising h x)

/-- Of entries in rising order of their keys, the first above a mark, or else the first of all. -/
theorem find_above_or_head {α : Type} {key : α → Nat} {l : List α} {rr : Nat} {x : α} (hl : l.Pairwise fun a b => key a < key b) (hx : x ∈ l)
    (hfirst : ∀ y ∈ l, if rr < key x then key y ≤ rr ∨ key x ≤ key y else key y ≤ rr ∧ key x ≤ key y) :
    (l.find? fun y => decide (rr < key y)).or l.head? = some x := by
  obtain ⟨a, b, rfl⟩ := List.append_of_mem hx
  have hbefore : ∀ y ∈ a, key y < key x := fun y hy => (List.pairwise_append.mp hl).2.2 y hy x List.mem_cons_self
  by_cases hr : rr < key x
  · have hnone : ∀ y ∈ a, ¬ rr < key y := fun y hy => by
      have h := hfirst y (List.mem_append_left _ hy)
      rw [if_pos hr] at h
      have := hbefore y hy
      omega
    have hfind : ((a ++ x :: b).find? fun y => decide (rr < key y)) = some x :=
      List.find?_eq_some_iff_append.mpr ⟨by simpa using hr, a, b, rfl, fun y hy => by simpa using hnone y hy⟩
    rw [hfind]
    rfl
  · have hnone : ((a ++ x :: b).find? fun y => decide (rr < key y)) = none := by
      rw [List.find?_eq_none]
      intro y hy
      have h := hfirst y hy
      rw [if_neg hr] at h
      simpa using h.1
    have hempty : a = [] := List.eq_nil_iff_forall_not_mem.mpr fun y hy => by
      have h := hfirst y (List.mem_append_left _ hy)
      rw [if_neg hr] at h
      have := hbefore y hy
      omega
    rw [hnone, hempty]
    rfl

variable {s : State} {c e : Nat} {x r : Cmd}

/-- A command that is the oldest of its sequencer in its engine's queue (R195). -/
def oldestIn (l : List Cmd) (y : Cmd) : Prop := l.find? (fun z => decide (z.owner = y.owner)) = some y

/-- A command before whose fork every operation of its sequencer has its place, at the host too (R195, R196). -/
def forkReady (d : Dev) (y : Cmd) : Prop := (∀ o ∈ (d.seq y.owner).ord, y.fork ≤ o.id) ∧ Placed.fork y.owner y.id ∉ (d.seq y.owner).far

/-- The check of it that an engine makes. -/
def readyBit (d : Dev) (y : Cmd) : Bool :=
  (d.seq y.owner).ord.all (fun o => decide (y.fork ≤ o.id)) && !(d.seq y.owner).far.contains (.fork y.owner y.id)

theorem readyBit_iff (d : Dev) (y : Cmd) : readyBit d y = true ↔ forkReady d y := by
  simp [readyBit, forkReady]

/-- The oldest ready command of each sequencer, by sequencer. -/
def readyHeads (d : Dev) (l : List Cmd) : List Cmd :=
  (insertNats [] (l.map (·.owner))).filterMap fun q => (l.find? fun x => decide (x.owner = q)).filter (readyBit d)

theorem mem_readyHeads {d : Dev} {l : List Cmd} {y : Cmd} : y ∈ readyHeads d l ↔ oldestIn l y ∧ forkReady d y := by
  simp only [readyHeads, List.mem_filterMap, Option.filter_eq_some_iff, mem_insertNats, List.not_mem_nil, false_or, List.mem_map, ← readyBit_iff]
  refine ⟨?_, fun ⟨hold, hready⟩ => ⟨y.owner, ⟨y, List.mem_of_find?_eq_some hold, rfl⟩, hold, hready⟩⟩
  rintro ⟨q, -, hfind, hready⟩
  obtain rfl : y.owner = q := by simpa using List.find?_some hfind
  exact ⟨hfind, hready⟩

theorem readyHeads_rising (d : Dev) (l : List Cmd) : (readyHeads d l).Pairwise fun a b => a.owner < b.owner := by
  refine List.Pairwise.filterMap _ (fun q k hqk a ha b hb => ?_) (insertNats_rising List.Pairwise.nil _)
  have hown {q : Nat} {a : Cmd} (h : (l.find? fun x => decide (x.owner = q)).filter (readyBit d) = some a) : a.owner = q := by
    simpa using List.find?_some (Option.filter_eq_some_iff.mp h).1
  rw [hown ha, hown hb]
  exact hqk

/-- An idle engine takes the ready command of the next sequencer after the last one served (R195). -/
theorem engineCommandStart_became {g : Engine} (hturn : s.turn = .agent c e) (hg : engineOf (s.dev.cluster c) e = g) (hidle : g.running = none)
    (hold : oldestIn g.queue x) (hready : forkReady s.dev x)
    (hfirst : ∀ y, oldestIn g.queue y → forkReady s.dev y →
      if g.rr < x.owner then y.owner ≤ g.rr ∨ x.owner ≤ y.owner else y.owner ≤ g.rr ∧ x.owner ≤ y.owner) :
    exec .engineCommandStart s = became s (s.dev.modCluster c fun y =>
      setEngine y e { queue := g.queue.erase x, running := some x, rr := x.owner }) := by
  show execEngineCommandStart s = _
  refine runEvent_became ?_
  have hpick := find_above_or_head (readyHeads_rising s.dev g.queue) (mem_readyHeads.mpr ⟨hold, hready⟩)
    fun y hy => hfirst y (mem_readyHeads.mp hy).1 (mem_readyHeads.mp hy).2
  simp only [hturn, hg, hidle, Option.isSome_none, Bool.false_eq_true, if_false]
  show (match ((readyHeads s.dev g.queue).find? fun x => decide (g.rr < x.owner)).or (readyHeads s.dev g.queue).head? with
    | none => none
    | some x => some (s.dev.modCluster c fun y => setEngine y e { queue := g.queue.erase x, running := some x, rr := x.owner })) = _
  rw [hpick]

/-! ### Rows and passes (R199 to R205) -/

/-- A code that is noted under a condition (R190). -/
theorem note_if (p : Prop) [Decidable p] (r : Cmd) (k : Nat) :
    (if p then r.note k else r) = { r with err := if r.err = 0 ∧ p then k else r.err } := by
  unfold Cmd.note
  by_cases hp : p
  · by_cases he : r.err = 0
    · rw [if_pos hp, if_pos he, if_pos ⟨he, hp⟩]
    · rw [if_pos hp, if_neg he, if_neg fun h => he h.1]
  · rw [if_neg hp, if_neg fun h => hp h.2]

/-- A copy row outside counted blocks whose reads and destination stand is written, outside the order (R199, R200, R202). -/
theorem copyRow_became {l : List (Nat × Bool × BitVec 6)} {d1 : Dev} {k : Nat} (hturn : s.turn = .agent c e) (hwork : workOf s.dev c e false = some r)
    (hplain : bits (r.desc.getD 2 0) 42 8 = 0) (hrow : engRow r s.dev = .ok (l, d1))
    (hdest : engDest r (rowPieces (addr64 (r.desc.getD 1 0) (nestOffset r.desc false r.row))
      (Op.memBytes (bits (r.desc.getD 2 0) 56 4) (bits (r.desc.getD 5 0) 0 32))) 0 d1 = .go k 0) :
    exec .copyRow s = became s (putRunning c e (some (engWrite d1 (rowPieces (addr64 (r.desc.getD 1 0) (nestOffset r.desc false r.row)) k)
      (packRow (elemBits (fmtCode (bits (r.desc.getD 2 0) 56 4))) (l.map fun v => (v.1, v.2.1)))
      { r with flags := r.flags ||| flagsOr (l.map (·.2.2)), err := if r.err = 0 ∧ (∃ v ∈ l, v.2.1 = true) then 0x40 else r.err }).nextRow) d1) := by
  show execCopyRow s = _
  refine runEvent_became ?_
  simp only [hturn, hwork, hplain, ne_eq, not_true_eq_false, decide_false, Bool.false_and, Bool.false_eq_true, if_false, hrow, hdest, note_if,
    List.any_eq_true]

/-- A pass whose reads and destinations stand is made whole (R204, R205). -/
theorem xformPass_became {a : Pass} (hturn : s.turn = .agent c e) (hwork : workOf s.dev c 2 true = some r)
    (hpass : r.prog.foldlM (fun b w => passStep ((r.desc.getD 0 0 : Int) + nestOffset r.desc true r.row) ((r.desc.getD 1 0 : Int) + nestOffset r.desc false r.row)
      (sx 32 (bits (r.desc.getD 3 0) 32 32)) (sx 32 (bits (r.desc.getD 3 0) 0 32)) w b) ({ cmd := r, dev := s.dev } : Pass) = .ok a) :
    exec .xformPass s = became s (putRunning c 2 (some { a.cmd with row := a.cmd.row + 1 }) a.dev) := by
  show execXformPass s = _
  refine runEvent_became ?_
  simp only [hturn, hwork, hpass]
  rfl

/-! ### Completion (R190, R202, R267) -/

/-- The device after a command without fills has joined its writes (R267). -/
def cmdJoined (c e : Nat) (r : Cmd) (d : Dev) : Dev :=
  r.writes.foldl (fun d w => placeBytes d (engineAgent (3 * c + e)) w.1 [w.2] (r.poisoned.contains w.1)) (putRunning c e none d)

section complete
variable (hturn : s.turn = .agent c e) (hrun : (engineOf (s.dev.cluster c) e).running = some r) (hover : r.over = true)
include hturn hrun hover

theorem engineCommandComplete_sent (hblocks : r.blocks ≠ []) : exec .engineCommandComplete s
    = became s (putRunning c e (some (sendBlocks (3 * c + e) r s.dev).1) (sendBlocks (3 * c + e) r s.dev).2) := by
  show execEngineCommandComplete s = _
  refine runEvent_became ?_
  simp only [hturn, hrun, hover, Bool.not_true, Bool.false_eq_true, if_false, List.isEmpty_eq_false_iff.mpr hblocks, Bool.not_false, if_true]
  rfl

variable {j : Dev} (hblocks : r.blocks = []) (hacked : r.unacked = 0) (hfills : r.fills = [])
include hblocks hacked hfills

/-- A command whose acknowledgements are there joins its writes and arrives where its barrier leads (R190, R267). -/
theorem engineCommandComplete_joined
    (harrive : arrive (engineAgent (3 * c + e)) (dieOf r.owner) r.ten r.bar r.bytes r.err r.flags (cmdJoined c e r s.dev) = some j) :
    exec .engineCommandComplete s = became s j := by
  have hjoin : joinCmd (engineNo c e) r (putRunning c e none s.dev) = (r, cmdJoined c e r s.dev) := by
    unfold joinCmd
    rw [hfills]
    rfl
  show execEngineCommandComplete s = _
  refine runEvent_became ?_
  simp only [hturn, hrun, hover, hblocks, hacked, hjoin, Bool.not_true, Bool.false_eq_true, if_false, List.isEmpty_nil, ne_eq, not_true_eq_false]
  exact (congrArg (fun o => Option.or o _) harrive).trans (Option.some_or ..)

theorem engineCommandComplete_silent (hbar : r.bar = 0) : exec .engineCommandComplete s = became s (cmdJoined c e r s.dev) :=
  engineCommandComplete_joined hturn hrun hover hblocks hacked hfills (if_pos hbar)

theorem engineCommandComplete_arrived {loc : Nat} {rd wr : Bool} (hbar : r.bar ≠ 0)
    (hway : translate (cmdJoined c e r s.dev) (dieOf r.owner) r.ten r.bar = .here loc rd wr) :
    exec .engineCommandComplete s
      = became s (perform (cmdJoined c e r s.dev) (.arrive (engineAgent (3 * c + e)) loc r.bytes r.err r.flags)) := by
  refine engineCommandComplete_joined hturn hrun hover hblocks hacked hfills ((if_neg hbar).trans ?_)
  rw [hway]

end complete

end Sys2Proof.Proofs
end

section
/-! Fabric ports and peers: each step's own effect (R128, R210, R263, R264, R418). -/

namespace Sys2Proof.Proofs

open Machine Claim Laws

variable {s : State}

/-- A message to the host leaves the writes that are on their way to peers (R347). -/
theorem signalMsi_peerOut (fn v : Nat) (d : Dev) : (signalMsi fn v d).peerOut = d.peerOut := by
  unfold signalMsi sendMsi
  split
  · rfl
  · split <;> rfl

theorem fleetEvent_peerOut (k : Nat) (d : Dev) : (fleetEvent k d).peerOut = d.peerOut := signalMsi_peerOut ..

section lanes
variable {p n : Nat} {x : FPort} (hturn : s.turn = .agent p n) (hp : p < 48) (hx : vget s.dev.fleet.ports p {} = x)
include hturn hp hx

theorem portLaneLoss_became (hpeer : (portTo s.dev x.peer).isSome = true) (hst : x.st ≠ 0)
    (hn : 0 < n) (hlanes : n < x.lanes) :
    exec .portLaneLoss s = became s (fleetEvent 6 (modPortOf p (fun y =>
      { y with lanes := n, st := 1,
               err := BitVec.ofNat 64 (setBits y.err.toNat 0 32 (y.err.toNat % 2 ^ 32 + Config.freeNat s.dev.drawn)) })
      { s.dev with drawn := s.dev.drawn + 1 })) := by
  show execPortLaneLoss s = _
  refine runEvent_became ?_
  simp only [hturn, hx]
  rw [if_neg (by simp [hst, Nat.not_le.mpr hp, Nat.ne_of_gt hn, Nat.not_le.mpr hlanes, Option.isSome_iff_ne_none.mp hpeer])]
  simp only [bits_zero]
  rfl

/-- A port goes down; nothing was on its way to its peer (R418). -/
theorem portDown_became (hst : x.st ≠ 0) (hout : ∀ w ∈ s.dev.peerOut, w.dev ≠ x.peer) :
    exec .portDown s = became s (fleetEvent 7 (modPortOf p (fun y => { y with lanes := 0, st := 0 }) s.dev)) := by
  have hnone : ((fleetEvent 7 (modPortOf p (fun y => { y with lanes := 0, st := 0 }) s.dev)).peerOut.filter
      fun o => decide (o.dev = x.peer) && o.data.isSome) = [] := by
    rw [fleetEvent_peerOut, List.filter_eq_nil_iff]
    exact fun o ho => by simp [hout o ho]
  show execPortDown s = _
  refine runEvent_became ?_
  simp only [hturn, hx]
  rw [if_neg (by simp [hst, Nat.not_le.mpr hp]), hnone]
  rfl

theorem portUp_became (hform : s.dev.form ≠ .cd) (hlow : 0 < n % 8) (hhigh : n % 8 ≤ 4) (hpeer : n / 8 < 512) (hst : x.st < 2) :
    exec .portUp s = became s (modPortOf p (fun y => if y.st = 0 then { y with lanes := 0, st := 1, peer := n / 8 }
      else if y.lanes = 0 then { y with lanes := n % 8, st := 2, peer := n / 8 } else { y with st := 3 }) s.dev) := by
  show execPortUp s = _
  refine runEvent_became ?_
  simp only [hturn, hx]
  rw [if_neg (by simp [hform, Nat.not_le.mpr hp, Nat.ne_of_gt hlow, Nat.not_lt.mpr hhigh, Nat.not_le.mpr hpeer, Nat.not_le.mpr hst])]

end lanes

/-! ### Blocks (R210, R211) -/

/-- The device when a port has received a block: how many flits it took is free (R418, log 4). -/
def blockReceived (port : Nat) (d : Dev) : Dev :=
  modPortOf port (fun y => { y with rxf := y.rxf + BitVec.ofNat 64 (Config.freeNat d.drawn) }) { d with drawn := d.drawn + 1 }

section block
variable {port ten : Nat} {dst hdr : Word} {payload : Bytes} (hturn : s.turn = .block port ten dst hdr payload) (hup : 2 ≤ (vget s.dev.fleet.ports port {}).st)
include hturn hup

theorem portBlockReceive_good {l : Bytes} {loc : Nat} {rd : Bool} (hopen : openBlock hdr.toNat payload = some l)
    (hway : translate (blockReceived port s.dev) 0 ten dst.toNat = .here loc rd true) :
    exec .portBlockReceive s = became s (placeBytes (blockReceived port s.dev) peerAgent loc l) := by
  show execPortBlockReceive s = _
  refine runEvent_became ?_
  simp only [hturn]
  rw [if_neg (Nat.not_lt.mpr hup)]
  show (match openBlock hdr.toNat payload with
    | none => _
    | some l => match translate (blockReceived port s.dev) 0 ten dst.toNat with
      | .here loc _ true => some (placeBytes (blockReceived port s.dev) peerAgent loc l)
      | .absent _ _ true => _
      | _ => none) = _
  rw [hopen, hway]

theorem portBlockReceive_bad (hopen : openBlock hdr.toNat payload = none) :
    exec .portBlockReceive s = became s (modPortOf port (fun y =>
      { y with err := BitVec.ofNat 64 (setBits y.err.toNat 32 32 (y.err.toNat / 2 ^ 32 % 2 ^ 32 + 1)) }) (blockReceived port s.dev)) := by
  show execPortBlockReceive s = _
  refine runEvent_became ?_
  simp only [hturn, hopen]
  rw [if_neg (Nat.not_lt.mpr hup)]
  rfl

end block

/-! ### Peers (R128, R263, R264) -/

section peer
variable {dev ten loc : Nat} {va : Word} {op : PeerOp} {rd wr : Bool} (hturn : s.turn = .peer dev ten va op) (hport : (portTo s.dev dev).isSome = true)
  (hway : translate (traffic dev s.dev) 0 ten va.toNat = .here loc rd wr)
include hturn hport hway

theorem peerAccessArrival_read {n : Nat} (hop : op = .read n) (hrd : rd = true) :
    exec .peerAccessArrival s = became s (closeSplits peerAgent loc n (touch (traffic dev s.dev) loc)) := by
  subst hop hrd
  show execPeerAccessArrival s = _
  refine runEvent_became ?_
  simp only [hturn, Option.isNone_eq_false_iff.mpr hport, Bool.false_eq_true, if_false, hway]

theorem peerAccessArrival_write {l : Bytes} (hop : op = .write l) (hwr : wr = true) :
    exec .peerAccessArrival s = became s (placeBytes (traffic dev s.dev) peerAgent loc l) := by
  subst hop hwr
  show execPeerAccessArrival s = _
  refine runEvent_became ?_
  simp only [hturn, Option.isNone_eq_false_iff.mpr hport, Bool.false_eq_true, if_false, hway]

theorem peerAccessArrival_atomic {o : Nat} {wide : Bool} {y y2 : Word} {sc part : Nat} {d : Dev} (hop : op = .atomic o wide y y2 sc part) (hrd : rd = true)
    (hwr : wr = true)
    (hatomic : peerAtomic o loc (if wide then 8 else 4) (y.toNat % 2 ^ (8 * if wide then 8 else 4)) (y2.toNat % 2 ^ (8 * if wide then 8 else 4)) sc part
      (traffic dev s.dev) = some d) : exec .peerAccessArrival s = became s d := by
  subst hop hrd hwr
  show execPeerAccessArrival s = _
  refine runEvent_became ?_
  simp only [hturn, Option.isNone_eq_false_iff.mpr hport, Bool.false_eq_true, if_false, hway]
  exact hatomic

end peer

theorem peerAtomic_whole {o loc n v w sc part : Nat} {d : Dev} (h : 2 ≤ sc ∨ part = 0) :
    peerAtomic o loc n v w sc part d = some (perform d (.rmw peerAgent 0 0 0 false o loc n v w)) := if_pos (by simpa using h)

/-- The read of a divided atomic of a peer takes its place alone (R128, R264). -/
theorem peerAtomic_read {o loc n v w sc part : Nat} {d e : Dev} {l : List (Byte × Bool)} (hsc : sc < 2) (hpart : part = 1)
    (hload : loadBytes d peerAgent loc n = (some l, e)) :
    peerAtomic o loc n v w sc part d
      = some { e with splits := e.splits ++ [{ own := peerAgent, sc := sc, loc := loc, n := n, val := atomNew o n (leNat (plain l)) v w }] } := by
  subst hpart
  unfold peerAtomic
  rw [if_neg (by simp [Nat.not_le.mpr hsc]), if_pos rfl, hload]

/-- An acknowledgement frees the oldest write to its peer (R264). -/
theorem peerWriteAck_became {dev : Nat} {o : PeerOut} (hturn : s.turn = .ack dev .ok) (hport : (portTo s.dev dev).isSome = true)
    (hout : s.dev.peerOut.find? (fun w => decide (w.dev = dev) && w.data.isSome) = some o) (hagent : o.agent < 2048) :
    exec .peerWriteAck s
      = became s ((traffic dev { s.dev with peerOut := s.dev.peerOut.erase o }).modSeq o.agent fun y => { y with unacked := y.unacked - 1 }) := by
  show execPeerWriteAck s = _
  refine runEvent_became ?_
  simp only [hturn, hout]
  rw [if_neg (by simp [Option.isSome_iff_ne_none.mp hport]), if_neg (by simp), acknowledge, if_pos hagent]
  rfl

/-- Settles O52: each step by the lemma about it. -/
theorem engineAndPortStepResults : Obligations.EngineAndPortStepResults := by
  unfold Obligations.EngineAndPortStepResults
  intro s c e d g p
  refine ⟨fun hturn => ⟨fun x hidle hold hready hfirst => engineCommandStart_became hturn rfl hidle hold hready hfirst,
      fun r l d1 k hwork hplain hrow hdest => ?_, fun r a hwork hpass => ?_,
      fun r hrun hover => ⟨engineCommandComplete_sent hturn hrun hover, fun hblocks hacked hfills =>
        ⟨engineCommandComplete_silent hturn hrun hover hblocks hacked hfills,
          fun loc rd wr hbar hway => engineCommandComplete_arrived hturn hrun hover hblocks hacked hfills hbar hway⟩⟩,
      fun hc hpeer hst hn hlanes => portLaneLoss_became hturn hc rfl hpeer hst hn hlanes,
      fun hc hst hout => portDown_became hturn hc rfl hst hout,
      fun hform hc hlow hhigh hpeer hst => portUp_became hturn hc rfl hform hlow hhigh hpeer hst⟩,
    fun port ten dst hdr payload hturn hup => ⟨fun l loc rd hopen hway => portBlockReceive_good hturn hup hopen hway,
      portBlockReceive_bad hturn hup⟩,
    fun dev ten loc va op rd wr hturn hport hway => ⟨fun n hop hrd => peerAccessArrival_read hturn hport hway hop hrd,
      fun l hop hwr => peerAccessArrival_write hturn hport hway hop hwr, fun o wide y y2 sc part hop hrd hwr =>
        ⟨fun hwhole => peerAccessArrival_atomic hturn hport hway hop hrd hwr (peerAtomic_whole hwhole),
          fun l t2 hsc hpart hload => peerAccessArrival_atomic hturn hport hway hop hrd hwr (peerAtomic_read hsc hpart hload)⟩⟩,
    fun dev o hturn hport hout hagent => peerWriteAck_became hturn hport hout hagent⟩
  · refine (copyRow_became hturn hwork hplain hrow (k := k) ?_).trans ?_
    · rw [bits_zero]
      exact hdest
    · simp only [Cmd.nextRow]
      rfl
  · refine xformPass_became hturn hwork ?_
    rw [bits_zero]
    exact hpass

end Sys2Proof.Proofs
end

section
/-! An access that takes its place on a device on which nothing is outstanding (R127, R243, R249, R250). -/

namespace Sys2Proof.Proofs

open Machine Claim

variable {d e : Dev} {p : Placed} {a q own loc n : Nat} {t : Strm}

/-! ### What landing bytes leave -/

/-- The byte that some bytes from a location on give an address. -/
def landsAt (loc : Nat) (l : List (Option Byte)) (a : Nat) : Option Byte := if loc ≤ a then l[a - loc]?.join else none

theorem landsAt_nil (loc a : Nat) : landsAt loc [] a = none := by simp [landsAt]

theorem landsAt_cons (loc : Nat) (b : Option Byte) (l : List (Option Byte)) (a : Nat) :
    landsAt loc (b :: l) a = if a = loc then b else landsAt (loc + 1) l a := by
  unfold landsAt
  rcases Nat.lt_trichotomy a loc with h | rfl | h
  · rw [if_neg (by omega), if_neg (by omega), if_neg (by omega)]
  · simp
  · rw [if_pos (by omega), if_neg (by omega), if_pos (by omega), show a - loc = a - (loc + 1) + 1 by omega]
    rfl

/-- Bytes that land, one at a time. -/
theorem landBytes_cons (d : Dev) (loc : Nat) (b : Option Byte) (l : List (Option Byte)) :
    landBytes d loc (b :: l) = landBytes (landBytes d loc [b]) (loc + 1) l := by
  have hfold : ∀ (l : List (Option Byte)) (k : Nat) (d : Dev), (l.zipIdx (k + 1)).foldl (fun d e =>
      match e.1 with
      | some b => { d with mem := d.mem.set (loc + e.2) b, poison := d.poison.filter fun a => decide (a ≠ loc + e.2) }
      | none => d) d = (l.zipIdx k).foldl (fun d e =>
      match e.1 with
      | some b => { d with mem := d.mem.set (loc + 1 + e.2) b, poison := d.poison.filter fun a => decide (a ≠ loc + 1 + e.2) }
      | none => d) d := by
    intro l
    induction l with
    | nil => exact fun _ _ => rfl
    | cons c l ih =>
      intro k d
      simp only [List.zipIdx_cons, List.foldl_cons, ih, show loc + 1 + k = loc + (k + 1) by omega]
  exact hfold l 0 _

/-- A byte after bytes have landed: the last one that was given, or else the old one. -/
theorem get_landBytes (h : d.mem.wf = true) (loc : Nat) (l : List (Option Byte)) (a : Nat) :
    (landBytes d loc l).mem.get a = (landsAt loc l a).getD (d.mem.get a) := by
  induction l generalizing d loc with
  | nil => rw [landsAt_nil]; rfl
  | cons b l ih =>
    rw [landBytes_cons, ih (landBytes_wf h ..), landsAt_cons]
    by_cases ha : a = loc
    · subst ha
      have hout : landsAt (a + 1) l a = none := if_neg (by omega)
      rw [hout, if_pos rfl]
      cases b with
      | none => rfl
      | some v => exact (Mem.get_set h ..).trans (if_pos rfl)
    · rw [if_neg ha]
      refine congrArg (landsAt (loc + 1) l a).getD ?_
      cases b with
      | none => rfl
      | some v => exact (Mem.get_set h ..).trans (if_neg ha)

/-- The poison marks of the bytes that land go, and the others stay (R243). -/
theorem mem_poison_landBytes (d : Dev) (loc : Nat) (l : List (Option Byte)) (a : Nat) :
    a ∈ (landBytes d loc l).poison ↔ a ∈ d.poison ∧ landsAt loc l a = none := by
  induction l generalizing d loc with
  | nil => simp only [landsAt_nil, and_true]; rfl
  | cons b l ih =>
    rw [landBytes_cons, ih, landsAt_cons]
    have hone : a ∈ (landBytes d loc [b]).poison ↔ a ∈ d.poison ∧ (a = loc → b = none) := by
      cases b with
      | none => simp [landBytes]
      | some v => simp [landBytes, List.mem_filter]
    rw [hone]
    by_cases ha : a = loc
    · subst ha
      have hout : landsAt (a + 1) l a = none := if_neg (by omega)
      simp [hout]
    · simp [ha]

theorem landsAt_some (loc : Nat) (l : Bytes) (a : Nat) :
    landsAt loc (l.map some) a = if loc ≤ a ∧ a < loc + l.length then some (l.getD (a - loc) 0) else none := by
  unfold landsAt
  by_cases h : loc ≤ a
  · by_cases hl : a < loc + l.length
    · have hi : a - loc < l.length := by omega
      simp [h, hl, hi]
    · have hi : l.length ≤ a - loc := by omega
      simp [h, hl, hi]
  · simp [h]

/-- The bytes of a store's data that their enables let land (R70, R113). -/
theorem landsAt_store (loc off n : Nat) (v : BitVec 256) (en : BitVec 32) (a : Nat) :
    landsAt loc (storeBytes off n v en) a = if loc ≤ a ∧ a < loc + n ∧ en.getLsbD (off + (a - loc)) = true
      then some (v.extractLsb' (8 * (off + (a - loc))) 8) else none := by
  unfold landsAt storeBytes
  by_cases h : loc ≤ a
  · by_cases hn : a < loc + n
    · have hi : a - loc < n := by omega
      simp [h, hn, hi]
    · have hi : n ≤ a - loc := by omega
      simp [h, hn, hi]
  · simp [h]

/-! ### Taking a place with nothing outstanding -/

theorem closeSplits_undivided (hs : d.splits = []) (a loc n : Nat) : closeSplits a loc n d = d := by
  rw [closeSplits, hs]
  rfl

theorem place_undivided (hp : d.placed = []) (hs : d.splits = []) (p : Placed) : place d p = settle { d with placed := [p] } := by
  unfold place
  rw [closeSplits_undivided hs]
  simp only [hp, List.nil_append]

/-- One operation that is left when reads, atomics and arrivals are resolved goes to memory if its bytes stand. -/
theorem settle_resolved (h : resolve [] d d.placed = ([p], e)) :
    settle d = match land e p with
      | some f => { f with placed := [] }
      | none => { e with placed := [p] } := by
  have hfree : staysBehind p [] = false := by cases p <;> rfl
  unfold settle
  rw [h]
  simp only [drain, hfree, Bool.false_eq_true, if_false]
  cases land e p <;> rfl

/-- A part of the device that has nothing of the marks that a write leaves: a frame's for the age tick, and a watchpoint's (R380, R391). -/
structure Unmarked {α : Type} (π : Dev → α) : Prop where
  frame : ∀ d k f, π (d.modFrame k f) = π d
  watch : ∀ (d : Dev) q c o, π (d.setSeq q { d.seq q with regs := { (d.seq q).regs with wpc := c }, owedForeign := o }) = π d

section part
variable {α : Type} {π : Dev → α}

theorem noteWrite_part (hπ : Unmarked π) (d : Dev) (own loc n : Nat) : π (noteWrite d own loc n) = π d := by
  have htouch : π (touch d loc) = π d := by
    unfold touch
    split
    · exact hπ.frame ..
    · rfl
  unfold noteWrite
  refine Eq.trans ?_ htouch
  generalize (touch d loc).mmu.watches = ws
  generalize touch d loc = d'
  induction ws generalizing d' with
  | nil => rfl
  | cons w ws ih =>
    rw [List.foldl_cons, ih]
    simp only
    split
    · exact hπ.watch ..
    · rfl

theorem perform_write (hread : p.isRead = false) (d : Dev) : perform d p = noteWrite (place d p) p.range.1 p.range.2.1 p.range.2.2 := by
  unfold perform
  simp only [hread, Bool.false_eq_true, if_false]

/-- A write that takes its place with nothing outstanding. -/
theorem perform_alone_part (hπ : Unmarked π) (hp : d.placed = []) (hs : d.splits = []) (hread : p.isRead = false) :
    π (perform d p) = π (settle { d with placed := [p] }) := by
  rw [perform_write hread, noteWrite_part hπ, place_undivided hp hs]

end part

/-! ### Stores (R114, R250) -/

/-- The store of a stream's next element at a location. -/
def elementStore (q : Nat) (t : Strm) (loc : Nat) (d : Dev) : Placed :=
  .store q t.col (t.ent0 + t.next / t.per) (t.next % t.per * t.esz) t.next loc t.esz (entryData (d.seq q) t.col (t.ent0 + t.next / t.per))

theorem useEntry_part {α : Type} (π : Dev → α) (h : ∀ (d : Dev) q c f, π (d.modSeq q fun s => trimCol (s.modCol c f) c) = π d) (q : Nat) (t : Strm)
    (d : Dev) : π (useEntry q t d) = π d := by
  unfold useEntry
  split
  · exact h ..
  · rfl

/-- What fills in reads leaves the order. -/
theorem undisturbed_ord (h : Undisturbed d e) (k : Nat) : (e.seq k).ord = (d.seq k).ord :=
  show (unread (e.seq k)).ord = (unread (d.seq k)).ord from congrArg Seq.ord (h.seq k)

/-- A store whose data have not landed makes its bytes unknown, and has no part in the others. -/
theorem placedByte_store_none (a own col ent off elem loc n : Nat) :
    placedByte a (.store own col ent off elem loc n none) = if loc ≤ a ∧ a < loc + n then some none else none := by
  by_cases ha : loc ≤ a ∧ a < loc + n
  · simp [placedByte, Placed.range, ha]
  · rw [if_neg ha]
    exact if_pos (by rw [← Bool.decide_and]; exact congrArg not (decide_eq_false ha))

section store
variable (hp : d.placed = []) (hs : d.splits = []) (hnear : goesFar d q (t.addr t.next) loc = false)
include hp hs hnear

/-- What a store element leaves of the device but its sequencer's queues is what its place leaves (R250). -/
theorem storeAt_part {α : Type} {π : Dev → α} (hπ : Unmarked π)
    (hcol : ∀ (d : Dev) q c f, π (d.modSeq q fun s => trimCol (s.modCol c f) c) = π d) :
    π (storeAt q t loc d) = π (settle { d with placed := [elementStore q t loc d] }) := by
  have hput : putOut d (t.addr t.next) (elementStore q t loc d) = perform d (elementStore q t loc d) := by
    unfold putOut
    exact if_neg (by rw [show goesFar d (elementStore q t loc d).range.1 (t.addr t.next) (elementStore q t loc d).range.2.1 = false from hnear]; decide)
  show π (useEntry q t (putOut d (t.addr t.next) (elementStore q t loc d))) = _
  rw [useEntry_part π hcol, hput, perform_alone_part hπ hp hs rfl]

theorem storeAt_mem : (storeAt q t loc d).mem = (settle { d with placed := [elementStore q t loc d] }).mem :=
  storeAt_part hp hs hnear (π := Dev.mem) ⟨fun _ _ _ => rfl, fun _ _ _ _ => rfl⟩ fun _ _ _ _ => rfl

theorem storeAt_placed : (storeAt q t loc d).placed = (settle { d with placed := [elementStore q t loc d] }).placed :=
  storeAt_part hp hs hnear (π := Dev.placed) ⟨fun _ _ _ => rfl, fun _ _ _ _ => rfl⟩ fun _ _ _ _ => rfl

/-- A store element leaves the order of its sequencer. -/
theorem storeAt_ord (k : Nat) : ((storeAt q t loc d).seq k).ord = (d.seq k).ord := by
  have hmodSeq (d : Dev) (q : Nat) (f : Seq → Seq) (hf : ∀ s, (f s).ord = s.ord) : ((d.modSeq q f).seq k).ord = (d.seq k).ord := by
    by_cases hk : k = q
    · subst hk
      rw [Dev.seq_modSeq, hf]
    · rw [Dev.seq_modSeq_ne d f hk]
  refine (storeAt_part hp hs hnear (π := fun d => (d.seq k).ord) ⟨fun _ _ _ => rfl, fun d q c o => ?_⟩ fun d q c f => ?_).trans
    (undisturbed_ord (Undisturbed.settle { d with placed := [elementStore q t loc d] }) k)
  · exact hmodSeq d q (fun s => { s with regs := { s.regs with wpc := c }, owedForeign := o }) fun _ => rfl
  · exact hmodSeq d q _ fun _ => rfl

/-- A store element whose data stand writes its enabled bytes (R250). -/
theorem storeAt_written (hwf : d.mem.wf = true) {v : BitVec 256} {en : BitVec 32}
    (hdata : entryData (d.seq q) t.col (t.ent0 + t.next / t.per) = some (v, en)) :
    (storeAt q t loc d).placed = [] ∧ ∀ a, (storeAt q t loc d).mem.get a =
      if loc ≤ a ∧ a < loc + t.esz ∧ en.getLsbD (t.next % t.per * t.esz + (a - loc)) = true
        then v.extractLsb' (8 * (t.next % t.per * t.esz + (a - loc))) 8 else d.mem.get a := by
  have hland : land { d with placed := [elementStore q t loc d] } (elementStore q t loc d) = some (wixSeen loc t.esz
      (landBytes { d with placed := [elementStore q t loc d] } loc (storeBytes (t.next % t.per * t.esz) t.esz v en))) := by
    simp only [elementStore, hdata, land]
  have hsettle := settle_resolved (d := { d with placed := [elementStore q t loc d] }) rfl
  rw [hland] at hsettle
  rw [storeAt_placed hp hs hnear, storeAt_mem hp hs hnear, hsettle]
  refine ⟨rfl, fun a => ?_⟩
  show (wixSeen _ _ _).mem.get a = _
  rw [wixSeen_mem, get_landBytes (by exact hwf), landsAt_store]
  split <;> rfl

/-- A store element whose data have not landed makes its bytes unknown (R250). -/
theorem storeAt_awaits (hdata : entryData (d.seq q) t.col (t.ent0 + t.next / t.per) = none) :
    (storeAt q t loc d).mem = d.mem ∧ ∀ k a, byteIn k (storeAt q t loc d).mem a (storeAt q t loc d).placed.reverse
      = if loc ≤ a ∧ a < loc + t.esz then none else some (d.mem.get a) := by
  have hsettle := settle_resolved (d := { d with placed := [elementStore q t loc d] }) rfl
  have hland : land { d with placed := [elementStore q t loc d] } (elementStore q t loc d) = none := by
    rw [elementStore, hdata]
    rfl
  rw [hland] at hsettle
  rw [storeAt_placed hp hs hnear, storeAt_mem hp hs hnear, hsettle]
  refine ⟨rfl, fun k a => ?_⟩
  show byteIn k d.mem a [elementStore q t loc d] = _
  rw [elementStore, hdata]
  unfold byteIn
  rw [placedByte_store_none]
  by_cases ha : loc ≤ a ∧ a < loc + t.esz
  · simp only [if_pos ha, ite_self]
  · simp only [if_neg ha, byteIn]

end store

/-! ### Rows of bytes (R243) -/

theorem mem_span (loc n a : Nat) : a ∈ span loc n ↔ loc ≤ a ∧ a < loc + n := by
  simp only [span, List.mem_map, List.mem_range]
  exact ⟨fun ⟨i, hi, h⟩ => by omega, fun h => ⟨a - loc, by omega, by omega⟩⟩

/-- Bytes that have landed with their poison (R243). -/
def rowLanded (d : Dev) (loc : Nat) (l : Bytes) (psn : Bool) : Dev :=
  let e := landBytes d loc (l.map some)
  if psn then { e with poison := insertNats e.poison (span loc l.length) } else e

theorem get_rowLanded (hwf : d.mem.wf = true) (loc : Nat) (l : Bytes) (psn : Bool) (a : Nat) :
    (rowLanded d loc l psn).mem.get a = if loc ≤ a ∧ a < loc + l.length then l.getD (a - loc) 0 else d.mem.get a := by
  have hget : (landBytes d loc (l.map some)).mem.get a = if loc ≤ a ∧ a < loc + l.length then l.getD (a - loc) 0 else d.mem.get a := by
    rw [get_landBytes hwf, landsAt_some]
    split <;> rfl
  cases psn <;> exact hget

theorem mem_poison_rowLanded (d : Dev) (loc : Nat) (l : Bytes) (psn : Bool) (a : Nat) :
    a ∈ (rowLanded d loc l psn).poison ↔ if loc ≤ a ∧ a < loc + l.length then psn = true else a ∈ d.poison := by
  have hmem : a ∈ (landBytes d loc (l.map some)).poison ↔ a ∈ d.poison ∧ ¬ (loc ≤ a ∧ a < loc + l.length) := by
    rw [mem_poison_landBytes, landsAt_some]
    simp
  by_cases ha : loc ≤ a ∧ a < loc + l.length
  · rw [if_pos ha]
    cases psn with
    | false => exact hmem.trans (by simp [ha])
    | true => exact ((mem_insertNats ..).trans (or_congr hmem (mem_span ..))).trans (by simp [ha])
  · rw [if_neg ha]
    cases psn with
    | false => exact hmem.trans (and_iff_left ha)
    | true => exact ((mem_insertNats ..).trans (or_congr hmem (mem_span ..))).trans ((or_iff_left ha).trans (and_iff_left ha))

/-- A write of bytes with nothing outstanding writes them and sets or clears their poison (R243). -/
theorem placeBytes_written (hp : d.placed = []) (hs : d.splits = []) (hwf : d.mem.wf = true) (own loc : Nat) (l : Bytes) (psn : Bool) :
    (placeBytes d own loc l psn).placed = []
    ∧ (∀ a, (placeBytes d own loc l psn).mem.get a = if loc ≤ a ∧ a < loc + l.length then l.getD (a - loc) 0 else d.mem.get a)
    ∧ ∀ a, a ∈ (placeBytes d own loc l psn).poison ↔ if loc ≤ a ∧ a < loc + l.length then psn = true else a ∈ d.poison := by
  have hsettle : settle { d with placed := [.row own loc l psn] }
      = { wixSeen loc l.length (rowLanded { d with placed := [.row own loc l psn] } loc l psn) with placed := [] } :=
    settle_resolved (d := { d with placed := [.row own loc l psn] }) rfl
  have hpart {α : Type} (π : Dev → α) (hπ : Unmarked π) :
      π (placeBytes d own loc l psn)
        = π { wixSeen loc l.length (rowLanded { d with placed := [.row own loc l psn] } loc l psn) with placed := [] } :=
    (perform_alone_part hπ hp hs rfl).trans (congrArg π hsettle)
  have hmem := (hpart Dev.mem ⟨fun _ _ _ => rfl, fun _ _ _ _ => rfl⟩).trans (wixSeen_mem ..)
  have hpoison := (hpart Dev.poison ⟨fun _ _ _ => rfl, fun _ _ _ _ => rfl⟩).trans (wixSeen_part Dev.poison (fun _ _ _ _ => rfl) ..)
  refine ⟨hpart Dev.placed ⟨fun _ _ _ => rfl, fun _ _ _ _ => rfl⟩, fun a => ?_, fun a => ?_⟩
  · rw [hmem]
    exact get_rowLanded (d := { d with placed := [.row own loc l psn] }) hwf ..
  · rw [hpoison]
    exact mem_poison_rowLanded ..

/-! ### Atomics (R127) -/

theorem atomNew_lt {op n x y y2 : Nat} (hx : x < 2 ^ (8 * n)) (hy : y < 2 ^ (8 * n)) (hy2 : y2 < 2 ^ (8 * n)) : atomNew op n x y y2 < 2 ^ (8 * n) := by
  unfold atomNew
  simp only
  split
  · exact hy
  · exact Nat.mod_lt _ (Nat.two_pow_pos _)
  · exact Nat.and_lt_two_pow _ hy
  · exact Nat.or_lt_two_pow hx hy
  · exact Nat.xor_lt_two_pow hx hy
  all_goals split <;> assumption

/-- Bytes that nothing outstanding and no forked agent has a part in are read from memory (R196, R250). -/
theorem readIn_alone (hfree : ∀ a, loc ≤ a → a < loc + n → unjoined d [] a = []) (me : Nat) :
    ∃ b, readIn me d [] [] loc n = (some b, d) ∧ leNat (plain b) = d.mem.num loc n := by
  have hbytes : bytesIn me d.mem [] loc n = some (d.mem.read loc n) := nowBytes_alone (d := { d with placed := [] }) rfl loc n
  have hnone : ((span loc n).any fun a => !(unjoined d [] a).isEmpty) = false := by
    rw [List.any_eq_false]
    intro a ha
    obtain ⟨hlo, hhi⟩ := (mem_span loc n a).mp ha
    simp [hfree a hlo hhi]
  refine ⟨(d.mem.read loc n).zipIdx.map fun e => (e.1, poisonIn d (loc + e.2) []), ?_, ?_⟩
  · unfold readIn
    simp only [hbytes, hnone, Bool.false_eq_true, if_false]
  · rw [plain, List.map_map]
    exact congrArg leNat (List.zipIdx_map_fst ..)

/-- An atomic with nothing outstanding writes its new value over the old in one place (R127). -/
theorem place_rmw_alone {col ent va op y y2 : Nat} {ret : Bool} (hp : d.placed = []) (hs : d.splits = [])
    (hfree : ∀ a, loc ≤ a → a < loc + n → unjoined d [] a = []) :
    (place d (.rmw own col ent va ret op loc n y y2)).placed = []
    ∧ (place d (.rmw own col ent va ret op loc n y y2)).mem = d.mem.write loc (toLe n (atomNew op n (d.mem.num loc n) y y2)) := by
  obtain ⟨b, hread, hnum⟩ := readIn_alone (d := { d with placed := [.rmw own col ent va ret op loc n y y2] }) hfree own
  have hresolve : ∃ e : Dev, e.mem = d.mem ∧ resolve [] { d with placed := [.rmw own col ent va ret op loc n y y2] } [.rmw own col ent va ret op loc n y y2]
      = ([.kept own loc (toLe n (atomNew op n (d.mem.num loc n) y y2))], e) := by
    simp only [resolve, hread, hnum]
    refine ⟨_, ?_, rfl⟩
    cases ret <;> rfl
  obtain ⟨e, hmem, hresolve⟩ := hresolve
  rw [place_undivided hp hs, settle_resolved hresolve]
  refine ⟨rfl, ?_⟩
  show (wixSeen _ _ _).mem = _
  rw [wixSeen_mem, ← hmem]

/-! ### The last element of a store stream -/

theorem advance_nil (h : (d.seq q).ord = []) (n : Nat) : advance q n d = d := by
  cases n with
  | zero => rfl
  | succ n =>
    unfold advance
    split
    · rfl
    · simp only [autoHead, h]

/-- The last element of a store stream ends it (R114). -/
theorem nextElem_last (hk : t.kind = .st) (hlast : t.cnt ≤ t.next + 1) :
    nextElem q t d = (popHead q d).modSeq q fun s => s.modCol t.col fun c => { c with saq := c.saq - 1 } := by
  unfold nextElem
  rw [if_neg (Nat.not_lt.mpr hlast)]
  simp only [hk]

theorem headHeld_free (hside : (d.seq q).side = []) (hforbidden : headForbidden d q = false) : headHeld d q = false := by
  unfold headHeld awaitsSide
  rw [hside, hforbidden]
  rfl

/-- Settles O10: each access by what it leaves where nothing is outstanding, and the last element of a store stream by its step. -/
theorem memoryAccessEffects : Obligations.MemoryAccessEffects := by
  unfold Obligations.MemoryAccessEffects
  refine ⟨fun d q loc t hp hs hwf hnear => ⟨fun v en hdata => storeAt_written hp hs hnear hwf hdata, storeAt_awaits hp hs hnear⟩,
    fun d own col ent va op loc n y y2 ret hp hs hwf hfree hy hy2 _ => ?_,
    fun d own loc l psn hp hs hwf => placeBytes_written hp hs hwf own loc l psn,
    fun s q loc r o t v en hturn hord hop hkind hwaits hlast hp hs hwf hside hnear hforbidden hway hdata => ?_⟩
  · obtain ⟨hplaced, hmem⟩ := place_rmw_alone (own := own) (col := col) (ent := ent) (va := va) (op := op) (ret := ret) hp hs hfree
    refine ⟨hplaced, ?_, fun a ha => ?_⟩
    · rw [hmem, Mem.num_write hwf, Nat.mod_eq_of_lt (atomNew_lt ?_ hy hy2)]
      exact (leNat_lt _).trans_eq (by rw [Mem.length_read])
    · rw [hmem, Mem.get_write hwf, if_neg (by rw [length_toLe]; omega)]
  · have hbrought : broughtOn q s.dev = s.dev := advance_stream hord hop _
    have hhead : headStream (broughtOn q s.dev) q t := by
      rw [hbrought]
      exact ⟨headHeld_free hside hforbidden, o, [], hord, hop, hwaits⟩
    have hstep := storeElementPerform_became hturn hhead hkind (by rwa [hbrought])
    rw [hbrought, nextElem_last hkind hlast] at hstep
    have hempty : (((popHead q (storeAt q t loc s.dev)).modSeq q fun s => s.modCol t.col fun c => { c with saq := c.saq - 1 }).seq q).ord = [] := by
      rw [Dev.seq_modSeq, Seq.modCol_ord, popHead, Dev.seq_modSeq, storeAt_ord hp hs hnear, hord]
      rfl
    rw [advance_nil hempty] at hstep
    exact ⟨_, hstep, hempty, (storeAt_written hp hs hnear hwf hdata).2⟩

end Sys2Proof.Proofs
end

section
/-! A trap that is taken stays with its sequencer, whatever its record and its event bring forward (R83, R155, R371, R385). -/

namespace Sys2Proof.Proofs

open Machine Claim

variable {d : Dev} {q : Nat} {t : TrapInfo}

/-- The trap that each sequencer holds. -/
def traps (d : Dev) : Nat → Option TrapInfo := fun k => (d.seq k).trap

theorem traps_eq_of_seqs {e : Dev} (h : e.seqs = d.seqs) : traps e = traps d := by
  unfold traps Dev.seq
  rw [h]

/-- A sequencer replaced by one with the same trap. -/
theorem traps_setSeq (d : Dev) (q : Nat) {x : Machine.Seq} (h : x.trap = (d.seq q).trap) : traps (d.setSeq q x) = traps d := by
  funext k
  by_cases hk : k = q
  · subst hk
    rw [traps, Dev.seq_setSeq, h, traps]
  · rw [traps, Dev.seq_setSeq_ne d x hk, traps]

theorem traps_undisturbed {e : Dev} (h : Undisturbed d e) : traps e = traps d := funext fun k => (congrArg Seq.trap (h.seq k) :)

theorem traps_foldl {α : Type} {f : Dev → α → Dev} (h : ∀ d a, traps (f d a) = traps d) (l : List α) (d : Dev) : traps (l.foldl f d) = traps d :=
  (List.foldl_hom traps (g₁ := f) (g₂ := fun p _ => p) fun d a => (h d a).symm).symm.trans (List.foldl_fixed ..)

theorem unmarked_traps : Unmarked traps := ⟨fun _ _ _ => traps_eq_of_seqs rfl, fun d q _ _ => traps_setSeq d q rfl⟩

theorem traps_closeSplit (d : Dev) (x : Split) : traps (closeSplit d x) = traps d := by
  unfold closeSplit
  rw [noteWrite_part unmarked_traps, traps_undisturbed (Undisturbed.settle _)]
  split
  · exact traps_eq_of_seqs rfl
  · exact (traps_eq_of_seqs rfl).trans (traps_setSeq d x.own rfl)

/-- An operation that takes its place changes no sequencer's trap (R249, R391). -/
theorem traps_perform (d : Dev) (p : Placed) : traps (perform d p) = traps d := by
  have hplace (d : Dev) : traps (place d p) = traps d := by
    rw [place, traps_undisturbed (Undisturbed.settle _), traps_eq_of_seqs rfl]
    exact traps_foldl traps_closeSplit _ d
  unfold perform
  simp only
  split
  · rw [hplace, touch]
    split <;> rfl
  · rw [noteWrite_part unmarked_traps, hplace]

theorem traps_placeBytes (d : Dev) (own loc : Nat) (l : Bytes) (psn : Bool) : traps (placeBytes d own loc l psn) = traps d := traps_perform ..

theorem traps_writeRecord (d : Dev) (q : Nat) (t : TrapInfo) : traps (writeRecord d q t) = traps d :=
  (traps_placeBytes ..).trans (traps_eq_of_seqs rfl)

/-! ### Events (R371) -/

theorem traps_signalMsi (fn v : Nat) (d : Dev) : traps (signalMsi fn v d) = traps d := by
  unfold signalMsi sendMsi
  split_ifs <;> exact traps_eq_of_seqs rfl

theorem traps_writeEvent (d : Dev) (ten : Nat) (e : Event) : traps (writeEvent d ten e) = traps d := by
  unfold writeEvent gput
  rw [traps_signalMsi, traps_eq_of_seqs (Dev.modTenant_seqs ..), traps_placeBytes, traps_placeBytes]

theorem traps_flushEvents (ten n : Nat) (d : Dev) : traps (flushEvents ten n d) = traps d := by
  induction n generalizing d with
  | zero => rfl
  | succ n ih =>
    unfold flushEvents
    split
    · rfl
    · split
      · rw [ih, traps_writeEvent, traps_eq_of_seqs (Dev.modTenant_seqs ..)]
      · rfl

theorem traps_launchEvent (d : Dev) (l kind cause rc sqid : Nat) : traps (launchEvent d l kind cause rc sqid) = traps d := by
  unfold launchEvent
  split
  · unfold postEvent
    simp only
    split_ifs
    · rw [traps_writeEvent, traps_flushEvents]
    · rw [traps_eq_of_seqs (Dev.modTenant_seqs ..), traps_flushEvents]
    · rw [traps_eq_of_seqs (Dev.modTenant_seqs ..), traps_flushEvents]
  · rfl

/-- A sequencer that takes a trap holds it, with the action that its tenant's table has for the cause (R369, R385). -/
theorem takeTrap_trap (d : Dev) (q : Nat) (t : TrapInfo) :
    ((takeTrap d q t).seq q).trap = some { t with act := actionEntry d (d.seq q).place.ten t.cause } := by
  cases hcontrol : (d.seq q).place.control with
  | true =>
    have heq : takeTrap d q t = d.setSeq q (trapTaken d q t) := if_pos hcontrol
    rw [heq, Dev.seq_setSeq]
    rfl
  | false =>
    have hrecord : traps (writeRecord (trapCounted d q t) q t) q = (trapTaken d q t).trap := by
      rw [traps_writeRecord, traps, trapCounted_seq]
    refine Eq.trans ?_ hrecord
    rw [takeTrap_eq hcontrol]
    simp only
    split
    · exact congrFun (traps_launchEvent ..) q
    · exact congrFun (holdItem_part traps (fun _ _ => traps_eq_of_seqs rfl) q) q

/-- Settles O4: the decoder has no instruction of the major, and the check that fails is the bundle's trap. -/
theorem unassignedMajorTraps : Obligations.UnassignedMajorTraps := by
  unfold Obligations.UnassignedMajorTraps
  intro w _ hmajor
  refine ⟨decodeCore_major2F hmajor, fun s q i h l r hr => ?_⟩
  exact ⟨_, _, bundleIssue_trapped hr fun _ _ => checkSlot_major2F hmajor, rfl, takeTrap_trap .., rfl⟩

end Sys2Proof.Proofs
end

section
/-! The shared meanings of vector instructions, and the integer and floating-point instructions (R139 to R144). -/

namespace Sys2Proof.Proofs

open Machine Claim Laws

variable {v u x y z : Slot} {a b d : Opnd} {vd va vb : BitVec 256} {t : Tgt} {s : State} {iss : Issue} {m : Bool} {lat w : Nat}

/-- A slot that leaves a result of lanes of w bits under its guard (R70, R139). -/
def lanesLeft (z : Slot) (t : Tgt) (lat w : Nat) (m : Bool) (f : Nat → LaneRes) : Slot :=
  withWrites z (vectorWrite z t lat w (fun i => (lanesOn z m).getLsbD i) ((List.range (256 / w)).map f))

/-- The rounding mode of a sequencer and whether it saturates (R43). -/
def modeOf (x : Machine.Seq) : Nat × Bool := (x.regs.fctl.toNat % 4, x.regs.fctl.getLsbD 2)

theorem mode_app (x : Slot) : Op.mode x = .ok (modeOf (seqOf x), x) := by
  unfold Op.mode
  rw [bind_ok (me_app x), rmOf, bits_zero]
  rfl

theorem runSlot_congr {f g : SlotM Unit} (hi : s.issue = some iss) (h : f (slotOf s iss) = g (slotOf s iss)) : runSlot f s = runSlot g s := by
  cases hg : g (slotOf s iss) with
  | ok r => rw [runSlot_ok hi hg, runSlot_ok hi (h.trans hg)]
  | error e => rw [runSlot_error hi hg, runSlot_error hi (h.trans hg)]

/-- A meaning that begins with the mode of fctl goes by it as it stands at issue (R43). -/
theorem runSlot_mode {k : Nat × Bool → SlotM Unit} (hi : s.issue = some iss) :
    runSlot (Op.mode >>= k) s = runSlot (k (modeOf (seqOf (slotOf s iss)))) s :=
  runSlot_congr hi (bind_ok (mode_app _))

/-! ### The shared meanings -/

/-- Where the destination is known, lanes are left under the guard. -/
theorem guarded_putLanes (f : Nat → LaneRes) :
    (do let g ← Op.guard m; Op.putLanes t lat w (fun i => g.getLsbD i) ((List.range (256 / w)).map f)) z = .ok ((), lanesLeft z t lat w m f) := by
  rw [bind_ok (guard_app m z), putLanes_app]
  rfl

theorem lanes2_app {f : Nat → Nat → LaneRes} (ha : Op.rdV a v = .ok (va, x)) (hb : Op.rdV b x = .ok (vb, y)) (ht : Op.target 1 d y = .ok (t, z)) :
    Op.lanes2 lat w d a b m f v = .ok ((), lanesLeft z t lat w m fun i => f (lane w i va) (lane w i vb)) := by
  unfold Op.lanes2
  rw [bind_ok ha, bind_ok hb, bind_ok ht]
  exact guarded_putLanes _

theorem lanes1_app {f : Nat → LaneRes} (ha : Op.rdV a v = .ok (va, x)) (ht : Op.target 1 d x = .ok (t, z)) :
    Op.lanes1 lat w d a m f v = .ok ((), lanesLeft z t lat w m fun i => f (lane w i va)) := by
  unfold Op.lanes1
  rw [bind_ok ha, bind_ok ht]
  exact guarded_putLanes _

/-- A fused operation reads its third operand, the destination's lanes, first (R143). -/
theorem float3_app {f : Fmt} {g : Bool → Machine.Num → Machine.Num → Machine.Num → Machine.Num} (hd : Op.rdV d v = .ok (vd, u))
    (ha : Op.rdV a u = .ok (va, x)) (hb : Op.rdV b x = .ok (vb, y)) (ht : Op.target 1 d y = .ok (t, z)) :
    let num (e : BitVec 256) (i : Nat) : Machine.Num := (fmtOf f).decode (lane (laneW f) i e)
    let mode := modeOf (seqOf v)
    Op.float3 f d a b m g v = .ok ((), lanesLeft z t 4 (laneW f) m fun i =>
      (fmtOf f).arith mode.1 mode.2 (g (decide (mode.1 = 2)) (num va i) (num vb i) (num vd i))) := by
  unfold Op.float3
  rw [bind_ok (mode_app v)]
  simp only
  rw [bind_ok hd, bind_ok ha, bind_ok hb, bind_ok ht]
  exact guarded_putLanes _

/-! ### Integers, bits and shifts (R141, R142) -/

/-- Clamping to the range of a format (R141). -/
theorem intClamp_eq (f : Fmt) (g : Int → Int → Int) (p q : Nat) : intClamp f g p q = (clamped f (g (intOf f p) (intOf f q)), 0) := by
  have hrange : ((intRange f).getD (0, 0)).1 ≤ ((intRange f).getD (0, 0)).2 := by cases f <;> decide
  have hclamp {lo hi : Int} (h : lo ≤ hi) (n : Int) : (clampInt lo hi n).1 = max lo (min hi n) := by
    unfold clampInt
    split_ifs <;> omega
  simp only [intClamp, clamped, wrap, hclamp hrange]

theorem runSlot_lanes2_congr {f g : Nat → Nat → LaneRes} (h : ∀ p q, f p q = g p q) :
    runSlot (Op.lanes2 lat w d a b m f) s = runSlot (Op.lanes2 lat w d a b m g) s := by
  rw [show f = g from funext₂ h]

theorem vectorIntegers_meaning (f : Fmt) (l : BitVec 2) : ∀ e ∈ vectorIntegers f l, ∀ (d a b : Opnd) (m : Bool) (s : State),
    exec (e.ins d a b m) s = runSlot (Op.lanes2 e.lat e.w d a b m e.val) s := by
  simp only [vectorIntegers, List.forall_mem_cons, List.not_mem_nil, false_imp_iff, implies_true, and_true]
  refine ⟨?_, ?_, ?_, fun _ _ _ _ _ => runSlot_lanes2_congr (intClamp_eq f (· + ·)), fun _ _ _ _ _ => runSlot_lanes2_congr (intClamp_eq f (· - ·)),
    ?_, ?_, ?_, ?_, ?_, ?_, ?_, ?_, ?_⟩
  all_goals exact fun _ _ _ _ _ => rfl

/-- Settles O30: each instruction is the shared meaning of two elements with its own lane result. -/
theorem vectorIntegerResults : Obligations.VectorIntegerResults := by
  unfold Obligations.VectorIntegerResults
  intro f l e he d a b m s iss va vb x y z t hi ha hb ht
  rw [vectorIntegers_meaning f l e he]
  exact runSlot_ok hi (lanes2_app ha hb ht)

/-! ### Floating point (R143, R144) -/

section mode
variable (hi : s.issue = some iss) (d a b : Opnd) (m : Bool)
include hi

theorem vectorFloats_meaning (f : Fmt) : ∀ e ∈ vectorFloats f (modeOf (seqOf (slotOf s iss))).1 (modeOf (seqOf (slotOf s iss))).2,
    exec (e.ins d a b m) s = runSlot (Op.lanes2 e.lat e.w d a b m e.val) s := by
  simp only [vectorFloats, List.forall_mem_cons, List.not_mem_nil, false_imp_iff, implies_true, and_true]
  exact ⟨runSlot_mode hi, runSlot_mode hi, runSlot_mode hi, rfl, rfl⟩

theorem vectorUnary_meaning : ∀ e ∈ vectorUnary (modeOf (seqOf (slotOf s iss))).1 (modeOf (seqOf (slotOf s iss))).2,
    exec (e.ins d a m) s = runSlot (Op.lanes1 e.lat e.w d a m e.val) s := by
  simp only [vectorUnary, List.forall_mem_cons, List.not_mem_nil, false_imp_iff, implies_true, and_true]
  exact ⟨runSlot_mode hi, runSlot_mode hi, runSlot_mode hi, runSlot_mode hi, rfl, rfl, rfl, rfl, rfl, rfl⟩

/-- A fused instruction leaves its lanes four bundles later (R143). -/
theorem exec_vectorFused (f : Fmt) : ∀ e ∈ vectorFused f (modeOf (seqOf (slotOf s iss))).1 (modeOf (seqOf (slotOf s iss))).2,
    Op.rdV d (slotOf s iss) = .ok (vd, u) → Op.rdV a u = .ok (va, x) → Op.rdV b x = .ok (vb, y) → Op.target 1 d y = .ok (t, z) →
    exec (e.1 d a b m) s = .next (afterSlot s (lanesLeft z t 4 (laneW f) m fun i =>
      e.2 (lane (laneW f) i va) (lane (laneW f) i vb) (lane (laneW f) i vd))) := by
  simp only [vectorFused, List.forall_mem_cons, List.not_mem_nil, false_imp_iff, implies_true, and_true]
  and_intros <;> exact fun hd ha hb ht => runSlot_ok hi (float3_app hd ha hb ht)

end mode

/-- Settles O31: each instruction is a shared meaning in the mode of fctl at issue. -/
theorem vectorFloatResults : Obligations.VectorFloatResults := by
  unfold Obligations.VectorFloatResults
  intro f d a b m s iss hi
  refine ⟨fun e he va vb x y z t ha hb ht => ?floats, fun e he vd va vb u x y z t hd ha hb ht => exec_vectorFused hi d a b m f e he hd ha hb ht,
    fun e he va x z t ha ht => ?unary⟩
  case floats =>
    rw [vectorFloats_meaning hi d a b m f e he]
    exact runSlot_ok hi (lanes2_app ha hb ht)
  case unary =>
    rw [vectorUnary_meaning hi d a m e he]
    exact runSlot_ok hi (lanes1_app ha ht)

end Sys2Proof.Proofs
end

section
/-! Conversions and ZQ4 (R145 to R148). -/

namespace Sys2Proof.Proofs

open Machine Claim Laws

variable {x y z : Slot} {a b d : Opnd} {va : BitVec 256} {wb : Word} {t : Tgt} {s : State} {iss : Issue} (m : Bool)

/-- A block word's part, shift byte and scale byte (R146). -/
theorem blockWord_eq (n : Nat) : Op.blockWord n = (n / 2 ^ 16 % 8, n / 2 ^ 8 % 256, n % 256) := by
  unfold Op.blockWord
  rw [bits_zero]
  rfl

section vcvt
variable (hi : s.issue = some iss) (ha : Op.rdV a (slotOf s iss) = .ok (va, x)) (ht : Op.target 1 d x = .ok (t, z)) (f src : Fmt) (p : BitVec 2)
include hi ha ht

/-- To at least as many lanes: the source's lanes fill one part of the destination (R145). -/
theorem exec_vcvt_narrow (h : 256 / laneW src ≤ 256 / laneW f) :
    let ns := 256 / laneW src
    let mode := modeOf (seqOf (slotOf s iss))
    exec (.vcvt f d a src p m) s = .next (afterSlot s (withWrites z (vectorWrite z t 3 (laneW f)
      (fun i => (lanesOn z m).getLsbD i && decide (p.toNat * ns ≤ i) && decide (i < p.toNat * ns + ns))
      ((List.range (256 / laneW f)).map fun i =>
        if p.toNat * ns ≤ i ∧ i < p.toNat * ns + ns then laneCvt f src mode.1 mode.2 (laneOf src va (i - p.toNat * ns)) else (0, 0))))) := by
  refine runSlot_ok hi ?_
  rw [bind_ok (mode_app _)]
  simp only
  rw [bind_ok ha, bind_ok ht, bind_ok (guard_app m z)]
  simp only [h, if_true, putLanes_app, Bool.and_eq_true, decide_eq_true_eq]

/-- To fewer lanes: one part of the source fills the destination (R145). -/
theorem exec_vcvt_wide (h : 256 / laneW f < 256 / laneW src) :
    let mode := modeOf (seqOf (slotOf s iss))
    exec (.vcvt f d a src p m) s = .next (afterSlot s (lanesLeft z t 3 (laneW f) m fun i =>
      laneCvt f src mode.1 mode.2 (laneOf src va (p.toNat * (256 / laneW f) + i)))) := by
  refine runSlot_ok hi ?_
  rw [bind_ok (mode_app _)]
  simp only
  rw [bind_ok ha, bind_ok ht, bind_ok (guard_app m z)]
  simp only [Nat.not_le.mpr h, if_false, putLanes_app, lanesLeft]

end vcvt

section zq4
variable (hi : s.issue = some iss) (ha : Op.rdV a (slotOf s iss) = .ok (va, x)) (hb : Op.rdS b x = .ok (wb, y)) (ht : Op.target 1 d y = .ok (t, z))
include hi ha hb ht

/-- The eight lanes of A are encoded into one part of the destination (R147, R148). -/
theorem exec_vzqe :
    let p := wb.toNat / 2 ^ 16 % 8
    exec (.vzqe d a b m) s = .next (afterSlot s (withWrites z (vectorWrite z t 3 4
      (fun i => decide (8 * p ≤ i) && decide (i < 8 * p + 8) && (lanesOn z m).getLsbD (i - 8 * p))
      ((List.range 64).map fun i => if 8 * p ≤ i ∧ i < 8 * p + 8
        then laneZqe (seqOf z).regs.scaleTab.toNat (wb.toNat / 2 ^ 8 % 256) (wb.toNat % 256) (modeOf (seqOf (slotOf s iss))).1 (lane 32 (i - 8 * p) va)
        else (0, 0))))) := by
  refine runSlot_ok hi ?_
  rw [bind_ok (mode_app _)]
  simp only
  rw [bind_ok ha, bind_ok hb]
  simp only [blockWord_eq]
  rw [bind_ok ht, bind_ok (guard_app m z), bind_ok (me_app z)]
  simp only [putLanes_app, Bool.and_eq_true, decide_eq_true_eq]
  rfl

/-- One part of A is decoded into the eight lanes of the destination (R147). -/
theorem exec_vzqd :
    let mode := modeOf (seqOf (slotOf s iss))
    exec (.vzqd d a b m) s = .next (afterSlot s (lanesLeft z t 3 32 m fun i => (fmtOf .f32).arith mode.1 mode.2
      (zqValue (seqOf z).regs.scaleTab.toNat (wb.toNat / 2 ^ 8 % 256) (wb.toNat % 256) (lane 4 (8 * (wb.toNat / 2 ^ 16 % 8) + i) va)))) := by
  refine runSlot_ok hi ?_
  rw [bind_ok (mode_app _)]
  simp only
  rw [bind_ok ha, bind_ok hb]
  simp only [blockWord_eq]
  rw [bind_ok ht, bind_ok (guard_app m z), bind_ok (me_app z), putLanes_app]
  rfl

end zq4

/-- Settles O33: each conversion by what it leaves. -/
theorem vectorConversionResults : Obligations.VectorConversionResults := by
  unfold Obligations.VectorConversionResults
  intro d a b m s iss va x hi
  exact fun ha => ⟨fun f src p t z ht => ⟨exec_vcvt_narrow m hi ha ht f src p, exec_vcvt_wide m hi ha ht f src p⟩,
    fun w y z t hb ht => ⟨exec_vzqe m hi ha hb ht, exec_vzqd m hi ha hb ht⟩⟩

end Sys2Proof.Proofs
end

section
/-! Permutes, broadcasts, selects and masks (R149, R153, R154). -/

namespace Sys2Proof.Proofs

open Machine Claim Laws

variable {v x y z : Slot} {a b d : Opnd} {va vb : BitVec 256} {t : Tgt} {s : State} {iss : Issue} {m : Bool} {w n i : Nat}

theorem length_lanesOf (w n v : Nat) : (lanesOf w n v).length = n := by simp [lanesOf]

theorem getD_lanesOf {v : BitVec 256} (h : i < n) : (lanesOf w n v.toNat).getD i 0 = lane w i v := by
  simp [lanesOf, h, bits, lane]

/-- A permute chooses among the lanes of its two elements (R149). -/
theorem permute_app {f : List Nat → List Nat → Nat → Nat} {g : Nat → Nat}
    (hfg : ∀ i < 256 / w, f (lanesOf w (256 / w) va.toNat) (lanesOf w (256 / w) vb.toNat) i = g i)
    (ha : Op.rdV a v = .ok (va, x)) (hb : Op.rdV b x = .ok (vb, y)) (ht : Op.target 1 d y = .ok (t, z)) :
    Op.permute w d a b m f v = .ok ((), lanesLeft z t 2 w m fun i => (g i, 0)) := by
  have hlanes : ((List.range (256 / w)).map fun i => (f (lanesOf w (256 / w) va.toNat) (lanesOf w (256 / w) vb.toNat) i, (0 : BitVec 6)))
      = (List.range (256 / w)).map fun i => (g i, 0) :=
    List.map_congr_left fun i hi => by rw [hfg i (List.mem_range.mp hi)]
  unfold Op.permute
  rw [bind_ok ha, bind_ok hb, bind_ok ht]
  simp only [hlanes]
  exact guarded_putLanes _

theorem exec_vectorPermutes (hi : s.issue = some iss) (ha : Op.rdV a (slotOf s iss) = .ok (va, x)) (hb : Op.rdV b x = .ok (vb, y))
    (ht : Op.target 1 d y = .ok (t, z)) (l : BitVec 2) : ∀ e ∈ vectorPermutes l,
    exec (e.1 d a b m) s = .next (afterSlot s (lanesLeft z t 2 (8 * 2 ^ l.toNat) m fun i => (e.2 va vb i, 0))) := by
  simp only [vectorPermutes, List.forall_mem_cons, List.not_mem_nil, false_imp_iff, implies_true, and_true]
  refine ⟨runSlot_ok hi (permute_app (fun i hlt => ?perm) ha hb ht), runSlot_ok hi (permute_app (fun i hlt => ?low) ha hb ht),
    runSlot_ok hi (permute_app (fun i hlt => ?high) ha hb ht)⟩
  case perm =>
    rw [length_lanesOf, getD_lanesOf hlt, getD_lanesOf (Nat.mod_lt _ (Nat.zero_lt_of_lt hlt))]
  case low =>
    rw [getD_lanesOf (by omega), getD_lanesOf (by omega)]
  case high =>
    rw [length_lanesOf, getD_lanesOf (by omega), getD_lanesOf (by omega)]

/-- A select writes every lane, and goes by its guard as it stands at issue (R153). -/
theorem exec_vsel (hi : s.issue = some iss) (ha : Op.rdV a (slotOf s iss) = .ok (va, x)) (hb : Op.rdV b x = .ok (vb, y))
    (ht : Op.target 1 d y = .ok (t, z)) (f : Fmt) :
    exec (.vsel f d a b) s = .next (afterSlot s (withWrites z (vectorWrite z t 2 (laneW f) (fun _ => true) ((List.range (256 / laneW f)).map fun i =>
      (laneOf f (if (lanesOn (slotOf s iss) true).getLsbD i then va else vb) i, 0))))) := by
  refine runSlot_ok hi ?_
  rw [bind_ok (guard_app true _), bind_ok ha, bind_ok hb, bind_ok ht, putLanes_app]

theorem exec_vbcast {c : Word} (hi : s.issue = some iss) (ha : Op.rdS a (slotOf s iss) = .ok (c, x)) (ht : Op.target 1 d x = .ok (t, z)) (l : BitVec 2) :
    exec (.vbcast l d a m) s = .next (afterSlot s (lanesLeft z t 2 (8 * 2 ^ l.toNat) m fun _ => (c.toNat % 2 ^ (8 * 2 ^ l.toNat), 0))) := by
  refine runSlot_ok hi ?_
  rw [bind_ok ha, bind_ok ht]
  simp only [bits_zero]
  exact guarded_putLanes _

theorem exec_vpmask (hi : s.issue = some iss) (ht : Op.target 1 d (slotOf s iss) = .ok (t, z)) (l : BitVec 2) (p : BitVec 4) :
    exec (.vpmask l d p m) s = .next (afterSlot s (lanesLeft z t 2 (8 * 2 ^ l.toNat) m fun i =>
      (if ((seqOf (slotOf s iss)).pred p.toNat).getLsbD i then 2 ^ (8 * 2 ^ l.toNat) - 1 else 0, 0))) := by
  refine runSlot_ok hi ?_
  rw [bind_ok (me_app _)]
  simp only
  rw [bind_ok ht]
  exact guarded_putLanes _

/-- Settles O34: each instruction by the lanes that it leaves. -/
theorem vectorPermuteResults : Obligations.VectorPermuteResults := by
  unfold Obligations.VectorPermuteResults
  intro d m s iss l hi
  exact ⟨fun a b va vb x y z t ha hb ht => ⟨exec_vectorPermutes hi ha hb ht l, exec_vsel hi ha hb ht⟩,
    fun a c x z t ha ht => exec_vbcast hi ha ht l, fun p z t ht => exec_vpmask hi ht l p⟩

end Sys2Proof.Proofs
end

section
/-! Reductions (R150, R151). -/

namespace Sys2Proof.Proofs

open Machine Claim Laws

variable {v x z : Slot} {a d : Opnd} {va : BitVec 256} {t : Tgt} {s : State} {iss : Issue} {m : Bool}

/-- A result of a whole element is written to whatever destination (R151). -/
theorem put_whole_app (t : Tgt) (lat n : Nat) (fl : BitVec 6) (x : Slot) :
    Op.put t lat (BitVec.ofNat 256 n) (BitVec.allOnes 32) fl 0 x = .ok ((), withWrites x (elementWrite t lat n fl)) := by
  rw [put_app]
  cases t <;> rfl

/-- What enters the tree of a reduction: the enabled lanes in the result format, and the identity for the others (R151). -/
def reduceEnter (f : Fmt) (z : Slot) (m : Bool) (va : BitVec 256) (id : Nat) : List LaneRes := (List.range (256 / laneW f)).map fun i =>
  if (lanesOn z m).getLsbD i then (if f = Op.reduceFmt f then (laneOf f va i, 0) else laneCvt (Op.reduceFmt f) f 0 false (laneOf f va i)) else (id, 0)

/-- The slot that a reduction leaves: the value of its tree in the whole element (R151). -/
def reduced (f : Fmt) (z : Slot) (t : Tgt) (m : Bool) (va : BitVec 256) (lat id : Nat) (comb : Nat → Nat → LaneRes) : Slot :=
  let q := Op.tree comb 7 ((reduceEnter f z m va id).map (·.1)) (flagsOr ((reduceEnter f z m va id).map (·.2)))
  withWrites z (elementWrite t lat q.1 q.2)

theorem reduce_app {f : Fmt} {lat id : Nat} {comb : Nat → Nat → LaneRes} (ha : Op.rdV a v = .ok (va, x)) (ht : Op.target 1 d x = .ok (t, z)) :
    Op.reduce f lat d a m id comb v = .ok ((), reduced f z t m va lat id comb) := by
  have henter : ((List.range (256 / laneW f)).map fun i => if !(lanesOn z m).getLsbD i then (id, 0)
      else if f = Op.reduceFmt f then (laneOf f va i, 0) else laneCvt (Op.reduceFmt f) f 0 false (laneOf f va i)) = reduceEnter f z m va id :=
    List.map_congr_left fun i _ => by cases (lanesOn z m).getLsbD i <;> rfl
  unfold Op.reduce
  rw [bind_ok ha, bind_ok ht, bind_ok (guard_app m z)]
  simp only [henter, put_whole_app]
  rfl

theorem reducePick_float {f : Fmt} {g : FloatFmt} (hg : floatFmt (Op.reduceFmt f) = some g) (larger : Bool) :
    Op.reducePick f d a m larger = Op.reduce f 8 d a m (g.signed larger g.infBits) (floatPick g larger) := by
  simp only [Op.reducePick, hg]

theorem reducePick_int {f : Fmt} {lo hi : Int} (hg : floatFmt (Op.reduceFmt f) = none) (hr : intRange f = some (lo, hi)) (larger : Bool) :
    Op.reducePick f d a m larger = Op.reduce f 3 d a m (wrap (laneW (Op.reduceFmt f)) (if larger then lo else hi))
      (intWrap (Op.reduceFmt f) fun p q => if larger then max p q else min p q) := by
  simp only [Op.reducePick, hg, hr]
  rfl

/-- The three reductions in a floating-point result format. -/
theorem exec_reduce_float {f : Fmt} {g : FloatFmt} (hi : s.issue = some iss) (ha : Op.rdV a (slotOf s iss) = .ok (va, x)) (ht : Op.target 1 d x = .ok (t, z))
    (hg : floatFmt (Op.reduceFmt f) = some g) :
    let mode := modeOf (seqOf (slotOf s iss))
    exec (.vrsum f d a m) s = .next (afterSlot s (reduced f z t m va 8 (g.signed true 0)
      fun p q => g.arith mode.1 mode.2 (Machine.Num.add (decide (mode.1 = 2)) (g.decode p) (g.decode q))))
    ∧ exec (.vrmax f d a m) s = .next (afterSlot s (reduced f z t m va 8 (g.signed true g.infBits) (floatPick g true)))
    ∧ exec (.vrmin f d a m) s = .next (afterSlot s (reduced f z t m va 8 (g.signed false g.infBits) (floatPick g false))) := by
  refine ⟨(runSlot_mode hi).trans (runSlot_ok hi ?_), runSlot_ok hi ?_, runSlot_ok hi ?_⟩
  · simp only [hg]
    exact reduce_app ha ht
  · rw [reducePick_float hg]
    exact reduce_app ha ht
  · rw [reducePick_float hg]
    exact reduce_app ha ht

/-- The three reductions in an integer result format; a maximum or minimum starts from the end of the source format (log 82). -/
theorem exec_reduce_int {f : Fmt} {lo hi : Int} (hs : s.issue = some iss) (ha : Op.rdV a (slotOf s iss) = .ok (va, x)) (ht : Op.target 1 d x = .ok (t, z))
    (hg : floatFmt (Op.reduceFmt f) = none) (hr : intRange f = some (lo, hi)) :
    let r := Op.reduceFmt f
    exec (.vrsum f d a m) s = .next (afterSlot s (reduced f z t m va 3 0 (intWrap r (· + ·))))
    ∧ exec (.vrmax f d a m) s = .next (afterSlot s (reduced f z t m va 3 (wrap (laneW r) lo) (intWrap r max)))
    ∧ exec (.vrmin f d a m) s = .next (afterSlot s (reduced f z t m va 3 (wrap (laneW r) hi) (intWrap r min))) := by
  refine ⟨(runSlot_mode hs).trans (runSlot_ok hs ?_), runSlot_ok hs ?_, runSlot_ok hs ?_⟩
  · simp only [hg]
    exact reduce_app ha ht
  · rw [reducePick_int hg hr]
    exact reduce_app ha ht
  · rw [reducePick_int hg hr]
    exact reduce_app ha ht

/-- Settles O35: each reduction by the class of its result format. -/
theorem vectorReductionResults : Obligations.VectorReductionResults := by
  unfold Obligations.VectorReductionResults
  intro f d a m s iss va x z t hi ha ht
  exact ⟨fun g hg => exec_reduce_float hi ha ht hg, fun hg lo hi' hr => exec_reduce_int hi ha ht hg hr⟩

end Sys2Proof.Proofs
end

section
/-! Vector compares and tests of lanes (R152, R154). -/

namespace Sys2Proof.Proofs

open Machine Claim Laws

variable {x y : Slot} {a b : Opnd} {va vb : BitVec 256} {s : State} {iss : Issue} {m : Bool}

/-- Lanes' bits leave the write of the enabled ones; with none enabled nothing (R152). -/
theorem putBits_app (p : BitVec 4) (m : Bool) (l : List (Bool × BitVec 6)) (x : Slot) :
    Op.putBits p.toNat m l x = .ok ((), withWrites x (bitsWrite x p m l)) := by
  unfold Op.putBits bitsWrite
  rw [bind_ok (guard_app m x)]
  simp only [ne_eq, ite_not]
  split_ifs <;> rfl

theorem exec_vcmp (hi : s.issue = some iss) (ha : Op.rdV a (slotOf s iss) = .ok (va, x)) (hb : Op.rdV b x = .ok (vb, y)) (f : Fmt) (c : BitVec 3)
    (p : BitVec 4) : exec (.vcmp f c p a b m) s = .next (afterSlot s (withWrites y (bitsWrite y p m
      ((List.range (256 / laneW f)).map fun i => Op.laneCmp f c.toNat (laneOf f va i) (laneOf f vb i))))) := by
  refine runSlot_ok hi ?_
  rw [bind_ok ha, bind_ok hb, putBits_app]

/-- The top bit of a lane is set when the lane is in the upper half of its range. -/
theorem bit_lane_top {w : Nat} (hw : 0 < w) (v : BitVec 256) (i : Nat) : bit v.toNat (i * w + w - 1) = decide (2 ^ (w - 1) ≤ lane w i v) := by
  obtain ⟨n, rfl⟩ := Nat.exists_eq_add_one.mpr hw
  rw [bit, lane, Nat.add_sub_cancel, show i * (n + 1) + (n + 1) - 1 = i * (n + 1) + n by omega, pow_add, ← Nat.div_div_eq_div_mul]
  generalize v.toNat / 2 ^ (i * (n + 1)) = u
  have hsplit : u % 2 ^ (n + 1) = u % 2 ^ n + 2 ^ n * (u / 2 ^ n % 2) := by rw [pow_succ, Nat.mod_mul]
  have hlow : u % 2 ^ n < 2 ^ n := Nat.mod_lt _ (Nat.two_pow_pos n)
  rw [decide_eq_decide, hsplit]
  rcases Nat.mod_two_eq_zero_or_one (u / 2 ^ n) with h | h <;> rw [h] <;> omega

theorem exec_vpmsb (hi : s.issue = some iss) (ha : Op.rdV a (slotOf s iss) = .ok (va, x)) (l : BitVec 2) (p : BitVec 4) :
    let w := 8 * 2 ^ l.toNat
    exec (.vpmsb l p a m) s = .next (afterSlot s (withWrites x (bitsWrite x p m
      ((List.range (256 / w)).map fun i => (decide (2 ^ (w - 1) ≤ lane w i va), 0))))) := by
  refine runSlot_ok hi ?_
  rw [bind_ok ha]
  have hw : 0 < 8 * 2 ^ l.toNat := Nat.mul_pos (by decide) (Nat.two_pow_pos _)
  simp only [putBits_app, bit_lane_top hw]

theorem exec_vpnz (hi : s.issue = some iss) (ha : Op.rdV a (slotOf s iss) = .ok (va, x)) (l : BitVec 2) (p : BitVec 4) :
    let w := 8 * 2 ^ l.toNat
    exec (.vpnz l p a m) s = .next (afterSlot s (withWrites x (bitsWrite x p m
      ((List.range (256 / w)).map fun i => (decide (lane w i va ≠ 0), 0))))) := by
  refine runSlot_ok hi ?_
  rw [bind_ok ha]
  exact putBits_app ..

/-! ### Compares of integer lanes (R152) -/

theorem numOf_int {f : Fmt} (hf : floatFmt f = none) (n : Nat) : numOf f n = Machine.Num.ofInt (intOf f n) := by simp only [numOf, hf]

theorem isNan_ofInt (n : Int) : (Machine.Num.ofInt n).isNan = false := rfl

/-- Integers as numbers are ordered as integers. -/
theorem cmp_ofInt (p q : Int) : Machine.Num.cmp (Machine.Num.ofInt p) (Machine.Num.ofInt q) = compare p q := by
  have hscaled (n : Int) : scaled (decide (n < 0)) n.natAbs 0 0 = n := by
    simp only [scaled, sub_self, Int.toNat_zero, pow_zero, Nat.mul_one, decide_eq_true_eq]
    split <;> omega
  simp only [Machine.Num.cmp, Machine.Num.ofInt, le_refl, if_true, hscaled]

/-- Settles O36: each instruction by the bits that it leaves, and the conditions by the order of the integers. -/
theorem vectorPredicateResults : Obligations.VectorPredicateResults := by
  unfold Obligations.VectorPredicateResults
  refine ⟨fun p m s iss a va x hi ha => ⟨fun f c b vb y hb => exec_vcmp hi ha hb f c p, fun l => ⟨exec_vpmsb hi ha l p, exec_vpnz hi ha l p⟩⟩,
    fun f hf _ p q => ?_⟩
  simp only [Op.laneCmp, numOf_int hf, isNan_ofInt, cmp_ofInt, Bool.or_self, Bool.false_eq_true, if_false]
  simp only [compare_eq_iff_eq, compare_lt_iff_lt, compare_gt_iff_gt, ne_eq, not_lt, and_self]

end Sys2Proof.Proofs
end

section
/-! Major 0x30: matrix calls and m registers (R163 to R165, R238). -/

namespace Sys2Proof.Proofs

open Machine Claim Laws

variable {s : State} {iss : Issue} {x y : Slot} {m : Bool}

/-- What runs only under a condition that does not hold is passed over. -/
theorem pass_app {α : Type} {c : Prop} [Decidable c] {m k : SlotM α} {r : Except Abort (α × Slot)} (hc : ¬ c) (hk : k x = r) :
    (if c then m else k) x = r := by rwa [if_neg hc]

/-- A command enters the matrix unit's queue where it has room (R164). -/
theorem matrixQueue_app (c : MCmd) (h : matrixRoom x) : Op.matrixQueue c x = .ok ((), matrixQueued x c) := by
  have hused : decide ((seqOf x).mx.used < 4) = true := decide_eq_true (h : (seqOf x).mx.used < 4)
  unfold Op.matrixQueue
  rw [bind_ok (me_app x), bind_ok (hold_pass hused), modMe_app]
  rfl

/-- A call takes its number: in a region its arrival at a barrier takes an entry of the deferral buffer (R238). -/
def callNumbered (x y : Slot) : Slot :=
  if (seqOf x).region.levels ≠ [] ∧ m7Of x ≠ 0 then orderedIn y (.mbarr (seqOf x).opCtr (m7Of x) none)
  else withSeq y fun s => { s with opCtr := s.opCtr + 1 }

/-- The number that a call takes once it is queued, as mcall gives it (R165, R238). -/
def numberCall (x : Slot) : SlotM Unit :=
  if !(seqOf x).region.levels.isEmpty && m7Of x ≠ 0 then Op.order (.mbarr (seqOf x).opCtr (m7Of x) none)
  else Op.modMe fun x => { x with opCtr := x.opCtr + 1 }

theorem numberCall_app (x y : Slot) : numberCall x y = .ok ((), callNumbered x y) := by
  unfold numberCall callNumbered
  by_cases h : (seqOf x).region.levels ≠ [] ∧ m7Of x ≠ 0
  · rw [if_pos (by simpa using h), if_pos h, order_app]
  · rw [if_neg (by simpa using h), if_neg h, modMe_app]

/-- An mcall that its checks accept queues its call (R164, R165). -/
theorem exec_mcall {n : BitVec 6} (hi : s.issue = some iss) (hx : slotOf s iss = x) (hon : enabled x m = true)
    (hstore : 16 * n.toNat + 15 < (seqOf x).microWords) (hring : 0 < viewCount (vget (seqOf x).regs.views 3 0))
    (hring64 : viewCount (vget (seqOf x).regs.views 3 0) ≤ 64) (hhigh : m7Of x < 2 ^ 56) (hlow : m7Of x % 16 = 0) (hroom : matrixRoom x)
    (hdefer : m7Of x ≠ 0 → deferOk x) :
    exec (.mcall n m) s = .next (afterSlot s (callNumbered x (matrixQueued x (.call (callOf x n.toNat))))) := by
  have hbar : bits (m7Of x) 56 8 = 0 ∧ bits (m7Of x) 0 4 = 0 := ⟨by rw [bits, Nat.div_eq_of_lt hhigh, Nat.zero_mod], (bits_zero ..).trans hlow⟩
  refine runSlot_ok hi ?_
  rw [hx, bind_ok (enabled_app m x), if_pos hon, bind_ok (me_app x)]
  simp only
  rw [bind_ok (check_pass (decide_eq_true hstore))]
  refine pass_app (by simp only [Bool.or_eq_true, decide_eq_true_eq]; omega) (pass_app ?_ ?_)
  · simp only [Bool.or_eq_true, decide_eq_true_eq, not_or, not_not]
    exact hbar
  rw [bind_ok (inRegion_app x)]
  refine when_app (fun h => deferRoom_pass (hdefer (of_decide_eq_true ((Bool.and_eq_true_iff.mp h).2)))) ?_
  rw [bind_ok (get_app x), bind_ok (slotNo_app x), bind_ok (matrixQueue_app _ hroom)]
  exact numberCall_app x _

theorem exec_mcall_squashed (n : BitVec 6) (hi : s.issue = some iss) (hoff : enabled (slotOf s iss) m = false) :
    exec (.mcall n m) s = .next (afterSlot s (slotOf s iss)) := by
  refine runSlot_ok hi ?_
  rw [bind_ok (enabled_app m _), hoff]
  rfl

theorem exec_mset {a : Opnd} {v : Word} (hi : s.issue = some iss) (ha : Op.rdS a (slotOf s iss) = .ok (v, y)) (d : BitVec 3) :
    exec (.mset d a m) s = .next (afterSlot s (withWrites y
      (if enabled y m then [{ tgt := .mreg d.toNat, data := v.setWidth 256, en := 0xFF, rdly := 1 }] else []))) := by
  refine runSlot_ok hi ?_
  rw [bind_ok ha, bind_ok (enabled_app m y)]
  cases enabled y m with
  | false => rfl
  | true => exact pend_app ..

theorem exec_mget {d : Opnd} {t : Tgt} (hi : s.issue = some iss) (ht : Op.target 0 d (slotOf s iss) = .ok (t, y)) (a : BitVec 3) :
    exec (.mget d a m) s = .next (afterSlot s (withWrites y (scalarWrite t 1 (vget (seqOf y).regs.mregs a.toNat 0) (enabled y m)))) := by
  refine runSlot_ok hi ?_
  rw [bind_ok ht, bind_ok (me_app y), bind_ok (enabled_app m y), putS_app]

/-- Settles O37: an accepted mcall queues its call, a squashed one nothing; mset and mget leave their writes. -/
theorem matrixCallResults : Obligations.MatrixCallResults := by
  unfold Obligations.MatrixCallResults
  intro s iss m hi x
  refine ⟨fun n => ⟨exec_mcall_squashed n hi, ?_⟩, fun d a v y ha => exec_mset hi ha d, fun d a t y ht => exec_mget hi ht a⟩
  intro hon hstore hring hring64 hhigh hlow hroom hdefer y
  exact exec_mcall hi rfl hon hstore hring hring64 hhigh hlow hroom hdefer

end Sys2Proof.Proofs
end

section
/-! Major 0x31: the loads of the micro store and of the latches as they issue (R164, R170 to R172). -/

namespace Sys2Proof.Proofs

open Machine Claim Laws

variable {s : State} {iss : Issue} {u x y : Slot}

/-- The highest bits of a value, from one on, are its field there when they are few enough (R171, R179). -/
theorem bits_of_div_lt {v lo n : Nat} (h : v / 2 ^ lo < 2 ^ n) : bits v lo n = v / 2 ^ lo := Nat.mod_eq_of_lt h

theorem bits_of_lt {v lo n : Nat} (h : v < 2 ^ lo) : bits v lo n = 0 := by rw [bits, Nat.div_eq_of_lt h, Nat.zero_mod]

/-- An mld that its checks accept enters the queue, and the order, with its words still to be read (R164, R171). -/
theorem exec_mld {a b : Opnd} {va vb : Word} (hi : s.issue = some iss) (ha : Op.rdS a (slotOf s iss) = .ok (va, x)) (hb : Op.rdS b x = .ok (vb, y))
    {first count : Nat} (hfirst : vb.toNat % 2 ^ 10 = first) (hcount : vb.toNat / 2 ^ 16 = count)
    (hspare : vb.toNat / 2 ^ 10 % 2 ^ 6 = 0) (hlt : count < 2 ^ 11) (hpos : 0 < count) (hstore : first + count ≤ (seqOf y).microWords)
    (halign : va.toNat % 8 = 0) (hfoot : footOk y ((List.range count).map fun k => (va.toNat + 8 * k, 8)) true false) (hroom : matrixRoom y) :
    exec (.mld a b) s = .next (afterSlot s (ordered (matrixQueued y (.mld (seqOf y).opCtr va.toNat first count [])) (.mld (seqOf y).opCtr))) := by
  have hfield : bits vb.toNat 0 10 = first := (bits_zero ..).trans hfirst
  have hwords : bits vb.toNat 16 11 = count := (bits_of_div_lt (hcount ▸ hlt)).trans hcount
  have hhigh : bits vb.toNat 27 37 = 0 := bits_of_lt (by omega)
  refine runSlot_ok hi ?_
  rw [bind_ok ha, bind_ok hb, bind_ok (slotNo_app y), bind_ok (me_app y)]
  simp only [hfield, hwords]
  refine pass_app ?_ ?_
  · simp only [Bool.or_eq_true, decide_eq_true_eq, not_or, not_not]
    exact ⟨⟨hspare, hhigh⟩, Nat.ne_of_gt hpos⟩
  rw [bind_ok (check_pass (decide_eq_true hstore)), bind_ok (check_pass (decide_eq_true halign)), bind_ok (foot_pass hfoot),
    bind_ok (matrixQueue_app _ hroom), orderNow_app]

/-- An mgat that its checks accept enters the queue, and the order, with its indices as they stand (R164, R172). -/
theorem exec_mgat {j : BitVec 1} {a : Opnd} {base w ix : Word} (hi : s.issue = some iss) (hbase : Op.rdRun a 0 (slotOf s iss) = .ok (base, u))
    (hw : Op.rdRun a 1 u = .ok (w, x)) (hix : Op.rdRun a 2 x = .ok (ix, y)) {rows rb : Nat} {stride : Int} {idx : List Nat}
    (hrows : w.toNat / 2 ^ 16 % 2 ^ 6 + 1 = rows) (hrb : w.toNat % 2 ^ 10 = rb) (hstride : sx 32 (w.toNat / 2 ^ 32) = stride)
    (hidx : ((List.range rows).map fun r => (seqOf y).spaceNum (ix.toNat + 4 * r) 4) = idx)
    (hspare : w.toNat / 2 ^ 22 % 2 ^ 10 = 0 ∧ w.toNat / 2 ^ 10 % 2 ^ 6 = 0) (hrow : rb % 32 = 0 ∧ 32 ≤ rb ∧ rb ≤ 512)
    (hlatch : rows * rb ≤ latchBytes (seqOf y)) (hixSpace : ix.toNat < 2 ^ 16 ∧ ix.toNat % 4 = 0) (hshare : ix.toNat + 4 * rows ≤ (seqOf y).share)
    (hin : ∀ k ∈ idx, addr64 base.toNat ((k : Int) * stride) % 32 = 0
      ∧ inStash (mapsAhead y) y.iss.q (addr64 base.toNat ((k : Int) * stride)) rb = true) (hroom : matrixRoom y) :
    exec (.mgat j a) s = .next (afterSlot s (ordered (matrixQueued y (.mgat (seqOf y).opCtr j.toNat base.toNat stride rb idx []))
      (.mgat (seqOf y).opCtr))) := by
  have hfield : bits w.toNat 16 6 + 1 = rows := hrows
  have hbytes : bits w.toNat 0 10 = rb := (bits_zero ..).trans hrb
  have hstep : sx 32 (bits w.toNat 32 32) = stride := (sx_bits ..).trans hstride
  have hfound : (idx.map fun (k : Nat) => addr64 base.toNat ((k : Int) * stride)).find?
      (fun p => !(decide (p % 32 = 0) && inStash (mapsAhead y) y.iss.q p rb)) = none := by
    rw [List.find?_eq_none]
    rintro p hp
    obtain ⟨k, hk, rfl⟩ := List.mem_map.mp hp
    obtain ⟨halign, hstash⟩ := hin k hk
    simp [halign, hstash]
  refine runSlot_ok hi ?_
  rw [bind_ok hbase, bind_ok hw, bind_ok hix, bind_ok (slotNo_app y), bind_ok (me_app y)]
  simp only [hfield, hbytes, hstep]
  obtain ⟨hspareHigh, hspareLow⟩ := hspare
  obtain ⟨hrow32, hrowMin, hrowMax⟩ := hrow
  obtain ⟨hlt, halign⟩ := hixSpace
  refine pass_app ?_ (pass_app ?_ ?_)
  · simp only [Bool.or_eq_true, decide_eq_true_eq, not_or, not_not, not_lt]
    exact ⟨⟨⟨⟨⟨hspareHigh, hspareLow⟩, hrow32⟩, hrowMin⟩, hrowMax⟩, hlatch⟩
  · simp only [Bool.or_eq_true, decide_eq_true_eq, not_or, not_not]
    exact ⟨bits_of_lt hlt, halign⟩
  rw [bind_ok (check_pass (decide_eq_true hshare)), bind_ok (mapped_app y), bind_ok (sqid_app y)]
  simp only [hidx, hfound]
  rw [bind_ok (matrixQueue_app _ hroom), orderNow_app]

/-- Settles O38: the two loads where their checks pass. -/
theorem matrixLoadResults : Obligations.MatrixLoadResults := by
  unfold Obligations.MatrixLoadResults
  intro s iss hi
  refine ⟨?mld, ?mgat⟩
  case mld =>
    intro a b va vb x y ha hb first count hspare hlt hpos hstore halign hfoot hroom
    exact exec_mld hi ha hb rfl rfl hspare hlt hpos hstore halign hfoot hroom
  case mgat =>
    intro j a base w ix u x y hbase hw hix rows rb stride idx hspare hspare' hrow hrowMin hrowMax hlatch hlt halign hshare hin hroom
    exact exec_mgat hi hbase hw hix rfl rfl rfl rfl ⟨hspare, hspare'⟩ ⟨hrow, hrowMin, hrowMax⟩ hlatch ⟨hlt, halign⟩ hshare hin hroom

end Sys2Proof.Proofs
end

section
/-! Major 0x32: the epilogue's commands as they issue, and the waits (R178 to R182). -/

namespace Sys2Proof.Proofs

open Machine Claim Laws

variable {s : State} {iss : Issue} {x y z : Slot} {m : Bool}

/-! ### The descriptor of an epi (R179) -/

/-- A vector of an epi inside the share has its values as earlier writes leave them (R179, R180). -/
theorem epiVector_app {v n : Nat} (h : v ≠ 0xFFFF → v * 32 + 4 * n ≤ (seqOf y).share) : Op.epiVector v n y = .ok (epiValues y v n, y) := by
  unfold Op.epiVector epiValues
  by_cases hv : v = 0xFFFF
  · rw [if_pos hv, if_pos hv]
    rfl
  · rw [if_neg hv, if_neg hv, bind_ok (get_app y)]
    simp only
    rw [bind_ok (me_app y), bind_ok (check_pass (decide_eq_true (h hv)))]
    rfl

/-- The descriptor of an epi, from the four scalars that name it (R179). -/
def epiOf (y : Slot) (dst w v c : Word) : EpiDesc :=
  { id := (seqOf y).opCtr, dst := dst.toNat, rst := sx 32 (w.toNat / 2 ^ 32), ofmt := w.toNat / 2 ^ 28 % 16, rm := w.toNat / 2 ^ 26 % 4,
    sat := w.getLsbD 25, act := w.toNat / 2 ^ 23 % 4, scv := epiValues y (v.toNat / 2 ^ 16) (tileDims (seqOf y)).2,
    bsv := epiValues y (v.toNat % 2 ^ 16) (tileDims (seqOf y)).2, hasScale := decide (v.toNat / 2 ^ 16 ≠ 0xFFFF),
    hasBias := decide (v.toNat % 2 ^ 16 ≠ 0xFFFF), lo := c.toNat % 2 ^ 32, hi := c.toNat / 2 ^ 32, col := slotNo y / 2 }

/-- The bytes that an epi of the descriptor stores (R181). -/
def epiBytes (y : Slot) (dst w : Word) : List (Nat × Nat) :=
  epiFoot y dst.toNat (sx 32 (w.toNat / 2 ^ 32)) (w.toNat / 2 ^ 28 % 16)

/-- A descriptor that R179 accepts, whose rows the context may write (R116, R179). -/
structure EpiOk (y : Slot) (dst w v c : Word) : Prop where
  fmt : w.toNat / 2 ^ 28 % 16 ≠ 6 ∧ w.toNat / 2 ^ 28 % 16 ≠ 7 ∧ w.toNat / 2 ^ 28 % 16 ≠ 11 ∧ w.toNat / 2 ^ 28 % 16 ≠ 15
  act : w.toNat / 2 ^ 23 % 4 ≠ 3
  spare : w.toNat % 2 ^ 23 = 0
  vectors : v.toNat < 2 ^ 32
  clamp : w.toNat / 2 ^ 23 % 4 = 2 → (f32Num (c.toNat / 2 ^ 32)).isNan = false ∧ (f32Num (c.toNat % 2 ^ 32)).isNan = false
  align : dst.toNat % max 1 (Op.outBits (w.toNat / 2 ^ 28 % 16) / 8) = 0
  alignRow : sx 32 (w.toNat / 2 ^ 32) % (max 1 (Op.outBits (w.toNat / 2 ^ 28 % 16) / 8) : Nat) = 0
  scale : v.toNat / 2 ^ 16 ≠ 0xFFFF → v.toNat / 2 ^ 16 * 32 + 4 * (tileDims (seqOf y)).2 ≤ (seqOf y).share
  bias : v.toNat % 2 ^ 16 ≠ 0xFFFF → v.toNat % 2 ^ 16 * 32 + 4 * (tileDims (seqOf y)).2 ≤ (seqOf y).share
  foot : footOk y (epiBytes y dst w) false true

/-! ### Entering the order (R181, R238) -/

/-- An epi enters the order, or the deferral buffer of an open region, as its issue makes it (R181, R238). -/
def enterEpi (e : EpiDesc) (foot : List (Nat × Nat)) : SlotM Unit := do
  Op.deferRoom
  let inside ← Op.inRegion
  if !inside then
    Op.holdUnless (decide (storesHeld (← Op.me) e.col < 64))
    Op.modMe fun s => s.modCol e.col fun c => { c with saq := c.saq + 1 }
  Op.watch foot
  Op.order (.epi e 0)

theorem enterEpi_app {e : EpiDesc} {foot : List (Nat × Nat)} (hdefer : deferOk y)
    (hroom : (seqOf y).region.levels = [] → storesHeld (seqOf y) e.col < 64) (hwatch : Op.watch foot (epiQueued y e.col) = .ok ((), z)) :
    enterEpi e foot y = .ok ((), orderedIn z (.epi e 0)) := by
  unfold enterEpi
  rw [bind_ok (deferRoom_pass hdefer), bind_ok (inRegion_app y)]
  by_cases hl : (seqOf y).region.levels = []
  · rw [epiQueued, if_pos hl] at hwatch
    rw [if_pos (by simp [hl]), bind_ok (me_app y), bind_ok (hold_pass (decide_eq_true (hroom hl))), bind_ok (modMe_app ..)]
    exact (bind_ok hwatch).trans (order_app ..)
  · rw [epiQueued, if_neg hl] at hwatch
    rw [if_neg (by simp [hl])]
    beta_reduce
    rw [bind_ok hwatch, order_app]

/-! ### The meanings -/

section epi
variable {a : Opnd} {dst w v c : Word} {x1 x2 x3 : Slot} (hi : s.issue = some iss) (hdst : Op.rdRun a 0 (slotOf s iss) = .ok (dst, x1))
  (hw : Op.rdRun a 1 x1 = .ok (w, x2)) (hv : Op.rdRun a 2 x2 = .ok (v, x3)) (hc : Op.rdRun a 3 x3 = .ok (c, y))
include hi hdst hw hv hc

theorem exec_epi_squashed (hoff : enabled y m = false) : exec (.epi a m) s = .next (afterSlot s y) := by
  refine runSlot_ok hi ?_
  rw [bind_ok hdst, bind_ok hw, bind_ok hv, bind_ok hc, bind_ok (enabled_app m y), hoff]
  rfl

/-- An epi whose descriptor is accepted enters with it (R179, R181). -/
theorem exec_epi (hon : enabled y m = true) (hok : EpiOk y dst w v c) (hdefer : deferOk y)
    (hroom : (seqOf y).region.levels = [] → storesHeld (seqOf y) (slotNo y / 2) < 64)
    (hwatch : Op.watch (epiBytes y dst w) (epiQueued y (slotNo y / 2)) = .ok ((), z)) :
    exec (.epi a m) s = .next (afterSlot s (orderedIn z (.epi (epiOf y dst w v c) 0))) := by
  have hstride : sx 32 (bits w.toNat 32 32) = sx 32 (w.toNat / 2 ^ 32) := sx_bits ..
  have hscale : bits v.toNat 16 16 = v.toNat / 2 ^ 16 := bits_of_div_lt (by have := hok.vectors; omega)
  have hhi : bits c.toNat 32 32 = c.toNat / 2 ^ 32 := bits_of_div_lt (by have := c.isLt; omega)
  have hsat : bit w.toNat 25 = w.getLsbD 25 := bit_eq ..
  refine runSlot_ok hi ?_
  rw [bind_ok hdst, bind_ok hw, bind_ok hv, bind_ok hc, bind_ok (enabled_app m y), if_pos hon, bind_ok (slotNo_app y), bind_ok (me_app y)]
  simp only [hstride, hscale, hhi, hsat, bits_zero]
  refine pass_app ?_ (pass_app ?_ (pass_app ?_ ?_))
  · simp only [Bool.or_eq_true, decide_eq_true_eq, not_or, not_not]
    obtain ⟨h6, h7, h11, h15⟩ := hok.fmt
    exact ⟨⟨⟨⟨⟨h6, h7⟩, h11⟩, h15⟩, hok.act⟩, hok.spare⟩
  · rw [not_not]
    exact bits_of_lt hok.vectors
  · rw [Bool.and_eq_true, not_and, decide_eq_true_eq]
    intro hact
    obtain ⟨hhiNum, hloNum⟩ := hok.clamp hact
    rw [hhiNum, hloNum]
    decide
  rw [bind_ok (check_pass (by rw [Bool.and_eq_true]; exact ⟨decide_eq_true hok.align, decide_eq_true hok.alignRow⟩)),
    bind_ok (epiVector_app hok.scale), bind_ok (epiVector_app hok.bias)]
  exact (bind_ok (foot_pass hok.foot)).trans (enterEpi_app (e := epiOf y dst w v c) hdefer hroom hwatch)

end epi

theorem exec_rfree (hi : s.issue = some iss) (hdefer : deferOk (slotOf s iss)) :
    exec (.rfree m) s = .next (afterSlot s (if enabled (slotOf s iss) m then orderedIn (slotOf s iss) (.rfree (seqOf (slotOf s iss)).opCtr)
      else slotOf s iss)) := by
  refine runSlot_ok hi ?_
  rw [bind_ok (enabled_app m _)]
  cases enabled (slotOf s iss) m with
  | false => rfl
  | true => rw [if_pos rfl, if_pos rfl, bind_ok (deferRoom_pass hdefer), bind_ok (me_app _), order_app]

/-- The tiles that an rwait waits for: 0 encodes 64 (R178). -/
theorem rwaitTiles_eq (n : BitVec 6) : (if n.toNat = 0 then 64 else n.toNat) = if n = 0 then 64 else n.toNat :=
  if_congr (BitVec.toNat_inj (y := 0)) rfl rfl

theorem exec_rwait {n : BitVec 6} (hi : s.issue = some iss)
    (hring : (if n = 0 then 64 else n.toNat) ≤ viewCount (vget (seqOf (slotOf s iss)).regs.views 3 0))
    (hnp : (if n = 0 then 64 else n.toNat) ≤ (seqOf (slotOf s iss)).mx.np) : exec (.rwait n) s = .next (afterSlot s (slotOf s iss)) := by
  refine runSlot_ok hi ?_
  rw [bind_ok (me_app _)]
  simp only [rwaitTiles_eq]
  exact pass_app (Nat.not_lt.mpr hring) (hold_pass (decide_eq_true hnp))

theorem exec_rwaitIdle (hi : s.issue = some iss) (hrunning : (seqOf (slotOf s iss)).mx.running = none) (hqueue : (seqOf (slotOf s iss)).mx.queue = []) :
    exec .rwaitIdle s = .next (afterSlot s (slotOf s iss)) := by
  refine runSlot_ok hi ?_
  rw [bind_ok (me_app _)]
  exact hold_pass (by simp [Matrix.busy, hrunning, hqueue])

/-- Settles O39: an accepted epi enters with its descriptor, an rfree likewise, and the waits pass. -/
theorem epilogueResults : Obligations.EpilogueResults := by
  unfold Obligations.EpilogueResults
  intro s iss m hi x
  refine ⟨?epi, exec_rfree hi, fun n => exec_rwait hi, exec_rwaitIdle hi⟩
  case epi =>
    intro a dst w v c x1 x2 x3 y z hdst hw hv hc n ofmt rst act sc bs foot
    refine ⟨exec_epi_squashed hi hdst hw hv hc, ?_⟩
    intro hon h6 h7 h11 h15 hact hspare hvectors hclamp halign halignRow hscale hbias hfoot hdefer hroom hwatch
    exact exec_epi hi hdst hw hv hc hon
      ⟨⟨h6, h7, h11, h15⟩, hact, hspare, hvectors, hclamp, halign, halignRow, hscale, hbias, hfoot⟩ hdefer hroom hwatch

end Sys2Proof.Proofs
end

section
/-! Micro-words of a running call that move its counters and registers, publish its tile or end it (R166, R169, R175, R176). -/

namespace Sys2Proof.Proofs

open Machine Claim Laws

variable {s : State} {q : Nat} {c : Call}

/-- The micro-word that a call comes to (R166). -/
def microWord (s : State) (q : Nat) (c : Call) : Nat := ((s.dev.seq q).mx.store.find c.upc 0).toNat

/-- A micro-operation that changes only the call leaves it running (R166). -/
theorem runMicro_setCall {f : Nat → Nat → Call → Dev → Option Dev} {e : Call} (ht : callTurn s q c)
    (hf : f q (microWord s q c) c s.dev = some (setCall q e s.dev)) : runMicro s f = .next (microLeft s q id e) :=
  runMicro_callTurn ht hf

theorem ofNat_addr64 (a : Word) (o : Int) : BitVec.ofNat 64 (addr64 a.toNat o) = BitVec.ofInt 64 (a.toNat + o) :=
  ofS_eq _

theorem exec_madd (ht : callTurn s q c) :
    exec .madd s = .next (microLeft s q id { c with
      wp := c.wp.set (microWord s q c / 2 ^ 55 % 8) (BitVec.ofInt 64 ((c.wp.getD (microWord s q c / 2 ^ 55 % 8) 0).toNat + sx 32 (microWord s q c % 2 ^ 32))),
      upc := c.upc + 1 }) := by
  show execMadd s = _
  refine runMicro_setCall ht ?_
  simp only [ofNat_addr64, bits_zero]
  rfl

/-- The count that an mloop takes: its own, or the low half of a working register (R169). -/
def loopCount (w : Nat) (c : Call) : Nat :=
  if w / 2 ^ 55 % 2 = 1 then (c.wp.getD (w / 2 ^ 52 % 8) 0).toNat % 2 ^ 32 else w / 2 ^ 40 % 2 ^ 12

/-- A call after an mloop of counter i, with its end and its count (R169). -/
def loopTaken (i stop n : Nat) (c : Call) : Call :=
  if n = 0 then { c with lc := c.lc.set i 0, upc := stop + 1 } else { c with lc := c.lc.set i n, act := c.act.set i true, upc := c.upc + 1 }

theorem exec_mloop (ht : callTurn s q c) (hstop : c.upc < microWord s q c / 2 ^ 30 % 2 ^ 10) (hfree : c.act.getD (microWord s q c / 2 ^ 56 % 4) false = false)
    (hshare : microWord s q c / 2 ^ 30 % 2 ^ 10 < (s.dev.seq q).microWords) :
    exec .mloop s = .next (microLeft s q id
      (loopTaken (microWord s q c / 2 ^ 56 % 4) (microWord s q c / 2 ^ 30 % 2 ^ 10) (loopCount (microWord s q c) c) c)) := by
  show execMloop s = _
  refine runMicro_setCall ht ?_
  generalize microWord s q c = w at *
  refine (if_neg ?_).trans ((if_neg (Nat.not_le.mpr hshare)).trans ?_)
  · rw [Bool.or_eq_true, decide_eq_true_eq]
    exact not_or.mpr ⟨Nat.not_le.mpr hstop, Bool.eq_false_iff.mp hfree⟩
  have hcount : (if bit w 55 then bits (c.wp.getD (bits w 52 3) 0).toNat 0 32 else bits w 40 12) = loopCount w c := by
    rw [bits_zero]
    exact if_congr decide_eq_true_iff rfl rfl
  simp only [hcount]
  exact (apply_ite (fun e => some (setCall q e s.dev)) ..).symm

/-- A call after an mnext of counter i with its target (R169). -/
def loopAgain (i target n : Nat) (c : Call) : Call :=
  if n = 0 then { c with lc := c.lc.set i 0, act := c.act.set i false, upc := c.upc + 1 } else { c with lc := c.lc.set i n, upc := target }

theorem exec_mnext (ht : callTurn s q c) (hshare : microWord s q c / 2 ^ 46 % 2 ^ 10 < (s.dev.seq q).microWords) :
    exec .mnext s = .next (microLeft s q id
      (loopAgain (microWord s q c / 2 ^ 56 % 4) (microWord s q c / 2 ^ 46 % 2 ^ 10) (c.lc.getD (microWord s q c / 2 ^ 56 % 4) 0 - 1) c)) := by
  show execMnext s = _
  refine runMicro_setCall ht ?_
  refine (if_neg (Nat.not_le.mpr hshare)).trans ?_
  rw [ite_not]
  exact (apply_ite (fun e => some (setCall q e s.dev)) ..).symm

/-- The head tile is published with its accumulation, and the head moves (R175). -/
def tilePublished (x : Seq) (a : Acc) (y : Seq) : Seq :=
  let n := viewCount (vget x.regs.views 3 0)
  let y := writeTile y a.close true
  { y with mx := { y.mx with np := y.mx.np + 1, head := if n = 0 then 0 else (y.mx.head + 1) % n } }

theorem exec_mpub {a : Acc} (ht : callTurn s q c) (hacc : c.acc = some a) :
    exec .mpub s = .next (microLeft s q (tilePublished (s.dev.seq q) a) { c with acc := none, upc := c.upc + 1 }) := by
  refine Eq.trans ?_ (became_setCall s q _ _)
  show execMpub s = _
  refine runMicro_callTurn ht ?_
  simp only [hacc]
  rfl

/-- A call without an open accumulation or a barrier, behind which nothing waits, ends and leaves the unit idle (R165, R169). -/
theorem exec_mend (ht : callTurn s q c) (hacc : c.acc = none) (hbar : c.bar = 0) (hdef : (s.dev.seq q).region.deferred = [])
    (hord : (s.dev.seq q).ord = []) : exec .mend s = .next { s with dev := s.dev.modSeq q fun x => { x with mx := { x.mx with running := none } } } := by
  show execMend s = became s _
  refine runMicro_callTurn ht ?_
  simp only [callEnd_silent hbar hdef hord, hacc]
  rfl

/-- Settles O42: each micro-word by what it leaves of the call and the tile. -/
theorem microLoopResults : Obligations.MicroLoopResults := by
  unfold Obligations.MicroLoopResults
  intro s q c ht x w go
  exact ⟨exec_madd ht, exec_mloop ht, exec_mnext ht, fun a hacc => exec_mpub ht hacc, exec_mend ht⟩

end Sys2Proof.Proofs
end

section
/-! The steps of the matrix unit, the epilogue and the bead array (R164 to R172, R178, R181, R222). -/

namespace Sys2Proof.Proofs

open Machine Claim

variable {s : State} {d e : Dev} {q k : Nat}

theorem unitsRun_of_trap (h : (d.seq q).trap = none) : unitsRun d q = true := by rw [unitsRun, h]; rfl

theorem matrixCallStart_became {c : Call} {l : List MCmd} (hturn : s.turn = .agent q k) (htrap : (s.dev.seq q).trap = none)
    (hrunning : (s.dev.seq q).mx.running = none) (hqueue : (s.dev.seq q).mx.queue = .call c :: l) (hfault : (s.dev.seq q).mx.fault = none) :
    exec .matrixCallStart s = became s (s.dev.setSeq q { s.dev.seq q with mx := { (s.dev.seq q).mx with queue := l, running := some c } }) := by
  show execMatrixCallStart s = _
  refine runEvent_became ?_
  simp only [hturn, hrunning, hqueue, hfault, unitsRun_of_trap htrap]
  rfl

/-! ### Reads at the head of the order (R171, R172, R247) -/

/-- Both parts of a step, when the first can happen. -/
theorem bothOf_left {f g : Dev → Option Dev} (h : f d = some e) : bothOf f g d = some ((g e).getD e) := by rw [bothOf, h]

/-- The second part of a step alone, when the first cannot happen. -/
theorem bothOf_right {f g : Dev → Option Dev} (h : f d = none) : bothOf f g d = g d := by rw [bothOf, h]

/-- A step of an order whose head is not one that it moves does not happen. -/
theorem orderStep_none {f : Dev → Option Dev} (hforbidden : headForbidden (broughtOn q d) q = false) (hf : f (broughtOn q d) = none) :
    orderStep q f d = none := by
  show (if headForbidden (broughtOn q d) q = true then _ else if headHeld (broughtOn q d) q = true then _ else (f (broughtOn q d)).map _) = _
  rw [hforbidden, hf]
  simp

/-- The operation of an order that reads for the matrix unit: an mld's or an mgat's (R171, R172). -/
def readOp (isMld : Bool) (id : Nat) : MOp := if isMld then .mld id else .mgat id

theorem placeReads_none {isMld : Bool} (h : ∀ i, (d.seq q).ord.head?.map OrdOp.op ≠ some (readOp isMld i)) : placeReads q isMld d = none := by
  unfold placeReads
  split
  case h_1 id hop => cases isMld with
    | true => exact absurd hop (h id)
    | false => rfl
  case h_2 id hop => cases isMld with
    | true => rfl
    | false => exact absurd hop (h id)
  case h_3 => rfl

/-- The reads of a command whose addresses are all translated take their places in turn (R171, R172). -/
theorem placeReads_some {isMld : Bool} {m : MCmd} (hop : (d.seq q).ord.head?.map OrdOp.op = some (readOp isMld m.id))
    (hfind : (d.seq q).mx.queue.find? (fun c => decide (c.id = m.id)) = some m) (hways : ∀ a ∈ m.reads.1, accessWay d q a ≠ .miss) :
    placeReads q isMld d = some (readsPlaced q m.id m.reads.2 m.reads.1 d) := by
  have hmiss : ((m.reads.1.map fun a => (a, accessWay d q a)).any fun w => decide (w.2 = .miss)) = false := by
    simpa [List.any_map] using hways
  have hplaced : popHead q ((m.reads.1.map fun a => (a, accessWay d q a)).zipIdx.foldl (fun e w => placePart q m.id w.1.1 m.reads.2 w.2 w.1.2 e) d)
      = readsPlaced q m.id m.reads.2 m.reads.1 d := by
    rw [readsPlaced, List.zipIdx_map, List.foldl_map]
    rfl
  unfold placeReads
  cases isMld <;> simp only [hop, readOp, Bool.false_eq_true, if_false, if_true, hfind, hmiss, hplaced]

/-! ### At their turn (R171, R172) -/

/-- A word with poisoned bytes is poisoned, one without is not (R243). -/
theorem wordsStored_eq (f : Nat) (got : Tab (Bytes × List Nat)) (m : Matrix) :
    got.foldl (fun (m : Matrix) (e : Nat × Bytes × List Nat) =>
      { m with store := m.store.put (f + e.1) (BitVec.ofNat 64 (leNat e.2.1)),
               poisoned := if !e.2.2.isEmpty then insertNat (f + e.1) m.poisoned else m.poisoned.filter fun x => decide (x ≠ f + e.1) }) m
      = wordsStored f got m := by
  unfold wordsStored
  congr 1
  funext m e
  cases e.2.2 <;> rfl

theorem mldWrite_full {id a f n : Nat} {got : Tab (Bytes × List Nat)} {l : List MCmd} (hrunning : (d.seq q).mx.running = none)
    (hqueue : (d.seq q).mx.queue = .mld id a f n got :: l) (hgot : n ≤ got.length) :
    mldWrite q d = some (d.setSeq q { d.seq q with mx := wordsStored f got { (d.seq q).mx with queue := l } }) := by
  unfold mldWrite
  simp only [hrunning, hqueue, if_neg (Nat.not_lt.mpr hgot), wordsStored_eq]

theorem mgatFill_full {id j bs rb : Nat} {st : Int} {ix : List Nat} {got : Tab (Bytes × List Nat)} {l : List MCmd} (hrunning : (d.seq q).mx.running = none)
    (hqueue : (d.seq q).mx.queue = .mgat id j bs st rb ix got :: l) (hgot : rb / 32 * ix.length ≤ got.length) :
    mgatFill q d = some (d.setSeq q { d.seq q with mx := if j = 0 then { (d.seq q).mx with queue := l, latch0 := some (latchOf (rb / 32) ix.length got) }
      else { (d.seq q).mx with queue := l, latch1 := some (latchOf (rb / 32) ix.length got) } }) := by
  unfold mgatFill
  simp only [hrunning, hqueue, if_neg (Nat.not_lt.mpr hgot), latchOf, List.flatMap_def]

section performs
variable (hturn : s.turn = .agent q k) (htrap : (s.dev.seq q).trap = none)
include hturn htrap

theorem mldPerform_became (h : bothOf (orderStep q (placeReads q true)) (mldWrite q) s.dev = some e) : exec .mldPerform s = became s e := by
  show execMldPerform s = _
  refine runEvent_became ?_
  simp only [hturn, unitsRun_of_trap htrap, if_true, h]

theorem mgatPerform_became (h : bothOf (orderStep q (placeReads q false)) (mgatFill q) s.dev = some e) : exec .mgatPerform s = became s e := by
  show execMgatPerform s = _
  refine runEvent_became ?_
  simp only [hturn, unitsRun_of_trap htrap, if_true, h]

/-- The head of the order reads for its command, which then takes its turn if it can (R164, R171, R172). -/
theorem readPerform_became {m : MCmd} {n : Nat} (hop : ((broughtOn q s.dev).seq q).ord.head?.map OrdOp.op = some (if n = 8 then .mld m.id else .mgat m.id))
    (hheld : headHeld (broughtOn q s.dev) q = false) (hfind : ((broughtOn q s.dev).seq q).mx.queue.find? (fun c => decide (c.id = m.id)) = some m)
    (hbytes : m.reads.2 = n) (hways : ∀ a ∈ m.reads.1, accessWay (broughtOn q s.dev) q a ≠ .miss) :
    let e := advance q (ordFuel (s.dev.seq q).ord) (readsPlaced q m.id n m.reads.1 (broughtOn q s.dev))
    exec (if n = 8 then .mldPerform else .mgatPerform) s = became s (((if n = 8 then mldWrite q e else mgatFill q e)).getD e) := by
  subst hbytes
  intro e
  have hread (isMld : Bool) (h : ((broughtOn q s.dev).seq q).ord.head?.map OrdOp.op = some (readOp isMld m.id)) :
      orderStep q (placeReads q isMld) s.dev = some e := orderStep_eq hheld (placeReads_some h hfind hways)
  by_cases hn : m.reads.2 = 8
  · rw [if_pos hn] at hop
    rw [if_pos hn, if_pos hn]
    exact mldPerform_became hturn htrap (bothOf_left (hread true hop))
  · rw [if_neg hn] at hop
    rw [if_neg hn, if_neg hn]
    exact mgatPerform_became hturn htrap (bothOf_left (hread false hop))

end performs

/-! ### The epilogue (R178, R181) -/

/-- The next row of an epi whose tile is published and which has its place gets its bytes; the last one frees the tile (R181). -/
theorem epiStep_eq {c : EpiDesc} {r : Nat} {l : List EpiCmd} (hepq : (d.seq q).mx.epq = .epi c r :: l) (hnp : (d.seq q).mx.np ≠ 0)
    (hplaced : ∀ o ∈ (d.seq q).ord, ∀ (y : EpiDesc) (k : Nat), o.op = .epi y k → y.id = c.id → r < k) :
    epiStep q d = some (((fillRow q c.id r (epiRow (d.seq q) c r).1 (((d.seq q).mx.tags.getD (d.seq q).mx.tail 0).testBit 4) d).modSeq q
      fun z => epiStatus z (epiRow (d.seq q) c r).2).modSeq q fun v =>
        if r + 1 < (tileDims (d.seq q)).1 then { v with mx := { v.mx with epq := .epi c (r + 1) :: l } }
        else freeTile ({ v with mx := { v.mx with epq := l } }.modCol c.col fun c => { c with saq := c.saq - 1 })) := by
  unfold epiStep
  simp only [hepq, bit_eq]
  refine (if_neg ?_).trans ?_
  · rw [Bool.or_eq_true, List.any_eq_true, decide_eq_true_eq]
    rintro (hzero | ⟨o, ho, hahead⟩)
    · exact hnp hzero
    · split at hahead
      next y k hop =>
        rw [Bool.and_eq_true, decide_eq_true_eq, decide_eq_true_eq] at hahead
        exact Nat.not_le.mpr (hplaced o ho y k hop hahead.1) hahead.2
      next => cases hahead
  · by_cases hlast : r + 1 < (tileDims (d.seq q)).1
    · simp only [if_pos hlast]
    · simp only [if_neg hlast]

theorem epiPerform_became (hturn : s.turn = .agent q k) (htrap : (s.dev.seq q).trap = none)
    (h : epiStep q s.dev = some e) : exec .epiPerform s = became s e := by
  show execEpiPerform s = _
  refine runEvent_became ?_
  simp only [hturn, unitsRun_of_trap htrap, if_true, h]

theorem rfreePerform_became {l : List EpiCmd} (hturn : s.turn = .agent q k) (htrap : (s.dev.seq q).trap = none) (hepq : (s.dev.seq q).mx.epq = .rfree :: l)
    (hnp : (s.dev.seq q).mx.np ≠ 0) :
    exec .rfreePerform s = became s (s.dev.setSeq q (freeTile { s.dev.seq q with mx := { (s.dev.seq q).mx with epq := l } })) := by
  show execRfreePerform s = _
  refine runEvent_became ?_
  simp only [hturn, hepq, unitsRun_of_trap htrap, ne_eq, hnp, not_false_eq_true, decide_true, Bool.and_self, if_true]

/-! ### The bead array (R222) -/

/-- A running wave's results become valid at their cycle (R222). -/
theorem waveDone_run {b : Bead} {w : Wave} (hst : b.st = .run) :
    waveDone { b with wave := some w } = { b with wave := some w, st := if 4 + (w.twin + 3) / 4 ≤ w.elapsed then .done else .run } := by
  simp only [waveDone, hst, ceilDiv]
  show (if 4 + (w.twin + 3) / 4 ≤ w.elapsed then _ else _) = _
  split
  · rfl
  · rw [← hst]

theorem beadWaveComplete_became {w : Wave} (hturn : s.turn = .agent q k) (htrap : (s.dev.seq q).trap = none) (hwave : (s.dev.seq q).bead.wave = some w)
    (hst : (s.dev.seq q).bead.st = .run) (hrun : (s.dev.seq q).run ≠ .halting) :
    exec .beadWaveComplete s = became s (s.dev.setSeq q { s.dev.seq q with bead :=
      { (s.dev.seq q).bead with wave := some w, st := if 4 + (w.twin + 3) / 4 ≤ w.elapsed then .done else .run } }) := by
  show execBeadWaveComplete s = _
  refine runEvent_became ?_
  simp only [hturn, hwave, unitsRun_of_trap htrap]
  rw [if_neg (by simp [hst]), if_neg hrun, waveDone_run hst]

end Sys2Proof.Proofs
end

section
/-! The steps of the ports, copies and ends of near-data units (R290, R298, R302, R307, R366). -/

namespace Sys2Proof.Proofs

open Machine Claim

variable {s : State} {d e : Dev} {q k : Nat}

/-! ### What a unit's write leaves of where its addresses lead (R281, R375 to R382) -/

/-- A device on which the unit's addresses lead where they do on another: the same map of its tenant, and every frame at the same home. -/
structure SameMap (u : Nat) (d e : Dev) : Prop where
  tenants : e.tenants = d.tenants
  refused : e.mmu.refused = d.mmu.refused
  tlb : e.mmu.tlb = d.mmu.tlb
  home : ∀ f, (e.frame f).home = (d.frame f).home
  ten : (e.unit u).ten = (d.unit u).ten

theorem SameMap.refl (u : Nat) (d : Dev) : SameMap u d d := ⟨rfl, rfl, rfl, fun _ => rfl, rfl⟩

theorem SameMap.trans {u : Nat} {f : Dev} (h : SameMap u d e) (g : SameMap u e f) : SameMap u d f :=
  ⟨g.tenants.trans h.tenants, g.refused.trans h.refused, g.tlb.trans h.tlb, fun n => (g.home n).trans (h.home n), g.ten.trans h.ten⟩

theorem pageWay_congr (h : ∀ f, (e.frame f).home = (d.frame f).home) (off : Nat) (r : AtsRes) : pageWay e off r = pageWay d off r := by
  cases r <;> simp only [pageWay, h]

theorem unitLocal_congr (h : ∀ f, (e.frame f).home = (d.frame f).home) (u loc : Nat) : unitLocal e u loc = unitLocal d u loc := by
  simp only [unitLocal, h]

theorem SameMap.translate {u : Nat} (h : SameMap u d e) (die ten va : Nat) : translate e die ten va = translate d die ten va := by
  have htenant : e.tenant ten = d.tenant ten := by simp only [Dev.tenant, h.tenants]
  unfold Machine.translate
  simp only [htenant, h.refused, h.tlb, pageWay_congr h.home]

theorem SameMap.unitWay {u : Nat} (h : SameMap u d e) (va : Nat) : unitWay e u va = unitWay d u va := by
  simp only [Machine.unitWay, h.translate, h.ten, unitLocal_congr h.home]

theorem SameMap.bitmapRefused {u : Nat} (h : SameMap u d e) (p : Port) : bitmapRefused e u p = bitmapRefused d u p := by
  simp only [Machine.bitmapRefused, h.unitWay]

theorem touch_home (d : Dev) (loc f : Nat) : ((touch d loc).frame f).home = (d.frame f).home := by
  unfold touch
  split
  next n hn =>
    by_cases hf : f = n
    · rw [hf, Dev.frame_modFrame]
    · simp [Dev.frame, Dev.modFrame, Tab.find_put, hf]
  next => rfl

theorem sameMap_touch (u : Nat) (d : Dev) (loc : Nat) : SameMap u d (touch d loc) := by
  refine ⟨?_, ?_, ?_, touch_home d loc, ?_⟩ <;> unfold touch <;> split <;> rfl

theorem sameMap_modUnit {u : Nat} {f : Near → Near} (h : (f (d.unit u)).ten = (d.unit u).ten) : SameMap u d (d.modUnit u f) :=
  ⟨rfl, rfl, rfl, fun _ => rfl, by rw [Dev.unit_modUnit, h]⟩

theorem sameMap_unitWrite (u n loc : Nat) (l : Bytes) (psn : Bool) (d : Dev) : SameMap u d (unitWrite u n loc l psn d) :=
  (sameMap_touch u d loc).trans (sameMap_modUnit rfl)

theorem sameMap_unitWrites (u n loc : Nat) (l : List (Nat × Bytes × Bool)) (d : Dev) :
    SameMap u d (l.foldl (fun e v => unitWrite u n (loc + v.1) v.2.1 v.2.2 e) d) := by
  induction l generalizing d with
  | nil => exact SameMap.refl u d
  | cons v l ih => exact (sameMap_unitWrite ..).trans (ih _)

/-! ### Ports (R298) -/

/-- A port with its next entry, from its bytes (R298, R307). -/
def entryDelivered (l : List (Byte × Bool)) (p : Port) : Port :=
  { p with buf := p.buf ++ [(l.map (·.1), entryPoison l)], got := p.got + 1, refused := none }

theorem portEntryDeliver_became {p : Port} {loc : Nat} {r w : Bool} {l : List (Byte × Bool)} (hturn : s.turn = .agent q k)
    (hp : vget (s.dev.unit q).ports k {} = p) (hmode : p.mode = some 0 ∨ p.mode = some 2) (hbitmap : p.bitmap = none) (hgot : p.got < storedEntries p)
    (hover : NearOp.pendingOver (s.dev.unit q) (addr64 p.base (p.got * p.stride)) 64 = false)
    (hway : unitWay s.dev q (addr64 p.base (p.got * p.stride)) = .here loc r w) (hread : unitBytes (touch s.dev loc) q loc 64 = (some l, e)) :
    exec .portEntryDeliver s = became s (modNearPort q k (entryDelivered l) e) := by
  show execPortEntryDeliver s = _
  refine runEvent_became ?_
  simp only [hturn, hp, hbitmap, hway, hread]
  refine if_neg ?_
  rw [hover, decide_eq_false (Nat.not_le.mpr hgot)]
  rcases hmode with h | h <;> rw [h] <;> decide

theorem portWritePerform_became {n va loc : Nat} {l : List (Nat × Bytes × Bool)} {rest : List NPush} {r w : Bool} (hturn : s.turn = .agent q k)
    (hout : (vget (s.dev.unit q).ports k {}).out = ⟨n, va, l⟩ :: rest) (hway : unitWay s.dev q va = .here loc r w) :
    exec .portWritePerform s = became s (modNearPort q k (fun p => { p with out := p.out.drop 1, refused := bitmapRefused s.dev q p })
      (l.foldl (fun e v => unitWrite q n (loc + v.1) v.2.1 v.2.2 e) s.dev)) := by
  show execPortWritePerform s = _
  refine runEvent_became ?_
  simp only [hturn, hout, hway, (sameMap_unitWrites q n loc l s.dev).bitmapRefused]

/-! ### Copies and corrected errors (R302, R307) -/

/-- The half of 64 bytes that a copy writes, poisoned as it was read (R302). -/
def copyHalf (q num b : Nat) (v : List (Byte × Bool)) (g : Nat) (f : Dev) : Dev :=
  unitWrite q num (b + 32 * g) (((v.drop (32 * g)).take 32).map (·.1)) ((entryPoison v).contains g) f

theorem nbcpEntryCopy_became {c : BankCopy} {l : List BankCopy} {a b : Nat} {r w r2 w2 : Bool} {v : List (Byte × Bool)} (hturn : s.turn = .agent q k)
    (hcopies : (s.dev.unit q).copies = c :: l) (hsrc : unitWay s.dev q (c.src + 64 * c.k) = .here a r w)
    (hdst : unitWay s.dev q (c.dst + 64 * c.k) = .here b r2 w2) (ha : unitLocal s.dev q a = true) (hb : unitLocal s.dev q b = true)
    (hread : unitBytes (touch s.dev a) q a 64 = (some v, e)) :
    exec .nbcpEntryCopy s = became s ((copyHalf q c.num b v 1 (copyHalf q c.num b v 0 e)).modUnit q fun y =>
      { y with copies := if c.k + 1 < c.n then { c with k := c.k + 1 } :: l else l }) := by
  show execNbcpEntryCopy s = _
  refine runEvent_became ?_
  simp only [hturn, hcopies, hsrc, hdst, ha, hb, hread, Bool.not_true, Bool.or_self, Bool.false_eq_true, if_false]
  rfl

theorem eccCorrectedResume_became (hturn : s.turn = .agent q k) (hrun : (s.dev.unit q).run ≠ .absent) :
    exec .eccCorrectedResume s = became s (s.dev.modUnit q fun y => { y with ncor := y.ncor + 1 }) := by
  show execEccCorrectedResume s = _
  refine runEvent_became ?_
  simp only [hturn, if_neg hrun]

/-! ### The end of a unit (R290, R366) -/

/-- Whether a unit hands over the climbing part of its launch as it ends (R330). -/
def handsOver (q : Nat) (u : Near) (y : Launch) : Bool := decide (y.climb = some q) && u.hand.isSome

/-- A launch that unit q has left (R366). -/
def unitLeaves (q : Nat) (u : Near) (y : Launch) : Launch :=
  { y with units := y.units.erase q, climb := if handsOver q u y then none else y.climb, posts := if handsOver q u y then [] else y.posts }

theorem unitEnd_became (hturn : s.turn = .agent q k) (hrun : (s.dev.unit q).run = .done) :
    let u := s.dev.unit q
    let e := retag (unitAgent q) u.launch (publish q s.dev)
    exec .unitEnd s = became s (endHeld u.launch (Dev.modLaunch { e with near := e.near.erase q } u.launch (unitLeaves q u))) := by
  intro u e
  show execUnitEnd s = _
  refine runEvent_became ?_
  simp only [hturn]
  rw [if_neg (not_not.mpr hrun)]
  rfl

end Sys2Proof.Proofs
end

section
/-! The statement about the steps of the matrix unit, the epilogue, the bead array and the near-data units. -/

namespace Sys2Proof.Proofs

open Machine Claim

/-- Settles O51: each step by the lemma about it. -/
theorem matrixAndUnitStepResults : Obligations.MatrixAndUnitStepResults := by
  unfold Obligations.MatrixAndUnitStepResults
  intro s q k hturn d x u p b z
  refine ⟨fun htrap => ⟨fun c l hrunning hqueue hfault => matrixCallStart_became hturn htrap hrunning hqueue hfault, ?reads, ?store, ?latch,
      fun c r l hepq hnp hplaced => epiPerform_became hturn htrap (epiStep_eq hepq hnp hplaced),
      fun l hepq hnp => rfreePerform_became hturn htrap hepq hnp,
      fun w hwave hst hrun => beadWaveComplete_became hturn htrap hwave hst hrun⟩,
    fun loc r w l e hmode hbitmap hgot hover hway hread => portEntryDeliver_became hturn rfl hmode hbitmap hgot hover hway hread,
    fun n va loc l rest r w hout hway => portWritePerform_became hturn hout hway,
    fun c l a b' r w r2 w2 v e hcopies hsrc hdst ha hb hread => nbcpEntryCopy_became hturn hcopies hsrc hdst ha hb hread,
    eccCorrectedResume_became hturn, unitEnd_became hturn⟩
  case reads =>
    intro m l n hop hheld hfind hm hways
    have hreads : m.reads = (l, n) := by
      rcases hm with ⟨a, f, k, got, h, rfl, rfl⟩ | ⟨j, a, st, rb, ix, got, h, rfl, rfl⟩ <;> rw [h] <;> rfl
    have hperform := readPerform_became hturn htrap hop hheld hfind (congrArg Prod.snd hreads) (by rw [hreads]; exact hways)
    rw [hreads] at hperform
    exact hperform
  case store =>
    intro id a f n got l hrunning hqueue hgot hhead hforbidden
    refine mldPerform_became hturn htrap ((bothOf_right ?_).trans (mldWrite_full hrunning hqueue hgot))
    exact orderStep_none hforbidden (placeReads_none (isMld := true) hhead)
  case latch =>
    intro id j bs rb st ix got l hrunning hqueue hgot hhead hforbidden y
    refine mgatPerform_became hturn htrap ((bothOf_right ?_).trans (mgatFill_full hrunning hqueue hgot))
    exact orderStep_none hforbidden (placeReads_none (isMld := false) hhead)

end Sys2Proof.Proofs
end

section
/-! Instructions that read two scalars and go on with them where their guard enables them (R70). -/

namespace Sys2Proof.Proofs

open Machine Claim Laws

variable {u x y : Slot} {m : Bool} {a b : Opnd} {va vb : Word} {f : Word → Word → SlotM Unit}

/-- Both scalars are read, then the guard decides: what binit, barr, bwait, ecopy and exform have in common (R192, R197). -/
def guardedPair (a b : Opnd) (m : Bool) (f : Word → Word → SlotM Unit) : SlotM Unit := do
  let va ← Op.rdS a
  let vb ← Op.rdS b
  if ← Op.enabled m then f va vb

theorem guardedPair_squashed (ha : Op.rdS a u = .ok (va, x)) (hb : Op.rdS b x = .ok (vb, y)) (hoff : enabled y m = false) :
    guardedPair a b m f u = .ok ((), y) := by
  unfold guardedPair
  rw [bind_ok ha, bind_ok hb, bind_ok (enabled_app m y), hoff]
  rfl

theorem guardedPair_enabled (ha : Op.rdS a u = .ok (va, x)) (hb : Op.rdS b x = .ok (vb, y)) (hon : enabled y m = true) :
    guardedPair a b m f u = f va vb y := by
  unfold guardedPair
  rw [bind_ok ha, bind_ok hb, bind_ok (enabled_app m y), if_pos hon]

end Sys2Proof.Proofs
end

section
/-! Major 0x12: barriers as they issue (R192 to R194). -/

namespace Sys2Proof.Proofs

open Machine Claim Laws

variable {x y z w : Slot} {s : State} {iss : Issue} {m : Bool} {p : BitVec 4} {a b : Opnd} {va vb : Word}

theorem barrierAddr_pass {bar : Nat} (h : barrierOk y bar) : Op.barrierAddr bar y = .ok ((), y) := by
  obtain ⟨halign, hstash⟩ := h
  unfold Op.barrierAddr
  rw [bind_ok (mapped_app y), bind_ok (sqid_app y), bind_ok (slotNo_app y)]
  exact check_pass (by rw [halign, hstash]; rfl)

/-- The field of the upper half of a scalar is all that lies above the lower half (R193). -/
theorem bits_upper_half (v : Word) : bits v.toNat 32 32 = v.toNat / 2 ^ 32 := bits_of_div_lt (by have := v.isLt; omega)

/-- The phase that a bwait reads differs from the one that its scalar names (R194). -/
theorem phase_differs_iff (v : Nat) (vb : Word) : (bit v 63 != bit vb.toNat 0) = true ↔ (v / 2 ^ 63 % 2 = 1) ≠ (vb.getLsbD 0 = true) := by
  have hscalar : bit vb.toNat 0 = vb.getLsbD 0 := bit_eq ..
  rw [bne_iff_ne, hscalar, ne_eq, ne_eq, eq_iff_iff, Bool.eq_iff_iff]
  simp only [bit, decide_eq_true_eq]

/-! ### How a wait ends (R131, R194) -/

section waitEnd
variable {met : Bool} {on : Nat × Nat × Nat}

theorem waitEnd_met (h : met = true ∨ (seqOf x).woke.isSome = true) :
    waitEnd x p met on = .ok ((), withWrites x (predWrites p (BitVec.allOnes 64) true)) := if_pos (Bool.or_eq_true_iff.mpr h)

theorem waitEnd_unmet (hunmet : met = false) (hwoke : (seqOf x).woke = none) :
    waitEnd x p met on = if !(seqOf x).reqs.isEmpty then .ok ((), withWrites x (predWrites p 0 true)) else .error (.stall (some on)) :=
  if_neg (by simp [hunmet, hwoke])

theorem waitEnd_requested (hunmet : met = false) (hwoke : (seqOf x).woke = none) (hreqs : (seqOf x).reqs ≠ []) :
    waitEnd x p met on = .ok ((), withWrites x (predWrites p 0 true)) :=
  (waitEnd_unmet hunmet hwoke).trans (if_pos (by simpa using hreqs))

theorem waitEnd_held (hunmet : met = false) (hwoke : (seqOf x).woke = none) (hreqs : (seqOf x).reqs = []) :
    waitEnd x p met on = .error (.stall (some on)) := (waitEnd_unmet hunmet hwoke).trans (if_neg (by simp [hreqs]))

end waitEnd

/-! ### The instructions where their guard enables them -/

section barrier
variable (hi : s.issue = some iss) (ha : Op.rdS a (slotOf s iss) = .ok (va, x)) (hb : Op.rdS b x = .ok (vb, y)) (hon : enabled y m = true)
  (hbar : barrierOk y va.toNat)
include hi ha hb hon hbar

/-- A binit on an accepted object, with a number of arrivals that is not zero, enters the order with its counts (R193). -/
theorem exec_binit (hdefer : deferOk y) (hwatch : Op.watch [(va.toNat, 16)] y = .ok ((), w)) (hcount : vb.toNat % 2 ^ 16 ≠ 0)
    (hspare : vb.toNat / 2 ^ 16 % 2 ^ 16 = 0) :
    exec (.binit a b m) s
      = .next (afterSlot s (orderedIn w (.binit va.toNat (vb.toNat / 2 ^ 32) (vb.toNat % 2 ^ 16) (slotNo w / 2)))) := by
  have hfields : (decide (bits vb.toNat 0 16 ≠ 0) && decide (bits vb.toNat 16 16 = 0)) = true := by
    rw [bits_zero, Bool.and_eq_true, decide_eq_true_eq, decide_eq_true_eq]
    exact ⟨hcount, hspare⟩
  refine runSlot_ok hi ((guardedPair_enabled ha hb hon).trans ?_)
  rw [bind_ok (barrierAddr_pass hbar), bind_ok (slotNo_app y), bind_ok (check_pass hfields), bind_ok (deferRoom_pass hdefer), bind_ok hwatch,
    bind_ok (slotNo_app w), order_app, bits_upper_half, bits_zero]

/-- A barr on an accepted object enters the order with the bytes that it brings (R193). -/
theorem exec_barr (hdefer : deferOk y) (hwatch : Op.watch [(va.toNat, 16)] y = .ok ((), w)) :
    exec (.barr a b m) s = .next (afterSlot s (orderedIn w (.barr va.toNat (vb.toNat % 2 ^ 32) 0 0 (slotNo w / 2)))) := by
  refine runSlot_ok hi ((guardedPair_enabled ha hb hon).trans ?_)
  rw [bind_ok (barrierAddr_pass hbar), bind_ok (deferRoom_pass hdefer), bind_ok hwatch, bind_ok (slotNo_app w), order_app, bits_zero]

/-- A bwait on an accepted object ends at its place by the phase that it reads (R194). -/
theorem exec_bwait {loc v : Nat} {d : Dev} (hplace : Op.atPlace y = .ok ((), z)) (hreads : waitReads z (va.toNat + 8) 8 loc v d) :
    exec (.bwait p a b m) s
      = runSlot (fun _ => waitEnd { z with dev := touch d loc } p (bit v 63 != bit vb.toNat 0) (loc, vb.toNat, 2)) s := by
  refine runSlot_congr hi ((guardedPair_enabled ha hb hon).trans ?_)
  rw [bind_ok (barrierAddr_pass hbar), bind_ok hplace]
  exact waitOn_reads hreads

end barrier

/-- Settles O27: each instruction where its guard enables it and its object is accepted, and the three ways in which a bwait ends. -/
theorem barrierResults : Obligations.BarrierResults := by
  unfold Obligations.BarrierResults
  intro s iss a b m p va vb x y hi ha hb
  refine ⟨fun hoff => ?squashed, fun hon hbar hdefer w hwatch => ⟨exec_binit hi ha hb hon hbar hdefer hwatch, exec_barr hi ha hb hon hbar hdefer hwatch⟩,
    fun z loc v d hon hbar hplace hreads => ?bwait⟩
  case squashed =>
    exact ⟨runSlot_ok hi (guardedPair_squashed ha hb hoff), runSlot_ok hi (guardedPair_squashed ha hb hoff),
      runSlot_ok hi (guardedPair_squashed ha hb hoff)⟩
  case bwait =>
    have hbwait := exec_bwait (p := p) hi ha hb hon hbar hplace hreads
    have hphase := phase_differs_iff v vb
    have hunmet (h : ¬ ((v / 2 ^ 63 % 2 = 1) ≠ (vb.getLsbD 0 = true))) : (bit v 63 != bit vb.toNat 0) = false :=
      Bool.eq_false_iff.mpr (mt hphase.mp h)
    exact ⟨fun h => hbwait.trans (runSlot_ok hi (waitEnd_met (h.imp_left hphase.mpr))),
      fun h hwoke hreqs => hbwait.trans (runSlot_ok hi (waitEnd_requested (hunmet h) hwoke hreqs)),
      fun h hwoke hreqs => hbwait.trans (runSlot_error hi (waitEnd_held (hunmet h) hwoke hreqs))⟩

end Sys2Proof.Proofs
end

section
/-! Major 0x13: engine commands as they issue (R195 to R209). -/

namespace Sys2Proof.Proofs

open Machine Claim Laws

variable {v x y : Slot} {s : State} {iss : Issue} {m : Bool} {a b d : Opnd} {va vb vd : Word}

theorem areaWords_pass {n k : Nat} (h : areaOk y n k) : Op.areaWords n k y = .ok (areaWords y n k, y) := by
  obtain ⟨halign, howned⟩ := h
  unfold Op.areaWords
  rw [bind_ok (slotNo_app y), bind_ok (me_app y), bind_ok (check_pass (decide_eq_true halign)), bind_ok (check_pass (decide_eq_true howned))]
  rfl

/-- A command that may enter goes into its engine's queue, or into the deferral buffer of an open region (R209, R238). -/
theorem command_app {e bar : Nat} {xf : Bool} {w prog : List Nat} (h : commandOk y e bar) :
    Op.command e xf w prog bar y = .ok ((), commanded y e (commandOf y xf w prog bar)) := by
  obtain ⟨hbar, hdefer, hroom⟩ := h
  unfold Op.command
  refine when_app (fun hne => barrierAddr_pass (hbar hne)) ?_
  beta_reduce
  rw [bind_ok (deferRoom_pass hdefer), bind_ok (me_app y), bind_ok (sqid_app y), bind_ok (inRegion_app y), commanded]
  by_cases hl : (seqOf y).region.levels = []
  · rw [if_neg (by simp [hl]), if_pos hl, bind_ok (sqid_app y), bind_ok (dev_app y), bind_ok (hold_pass (hroom hl)), bind_ok (modMe_app ..), modDev_app]
    rfl
  · rw [if_pos (by simp [hl]), if_neg hl, order_app]
    rfl

theorem programOf_eq (w pw : List Nat) :
    (((List.range 16).map fun i => bits (pw.getD (i / 4) 0) (16 * (i % 4)) 16).take (bits (w.getD 2 0) 0 4 + 1)) = programOf w pw := by
  rw [bits_zero]
  rfl

/-- In a program whose instructions are all those of R204 none is found at fault. -/
theorem program_find_none {prog : List Nat} (h : ∀ v ∈ prog, Op.xformInsOk v = true) : (prog.zipIdx.find? fun e => !Op.xformInsOk e.1) = none :=
  List.find?_eq_none.mpr fun e he => by simp [h e.1 (List.fst_mem_of_mem_zipIdx he)]

/-- An ecopy of a descriptor that R207 accepts gives its engine the command (R197). -/
theorem exec_ecopy {e : BitVec 1} (hi : s.issue = some iss) (ha : Op.rdS a (slotOf s iss) = .ok (va, x)) (hb : Op.rdS b x = .ok (vb, y))
    (hon : enabled y m = true) (harea : areaOk y va.toNat 16) (hfault : Op.copyFault (areaWords y va.toNat 16) = none)
    (hcommand : commandOk y e.toNat vb.toNat) :
    exec (.ecopy e a b m) s
      = .next (afterSlot s (commanded y e.toNat (commandOf y false (areaWords y va.toNat 16) [] vb.toNat))) := by
  refine runSlot_ok hi ((guardedPair_enabled ha hb hon).trans ?_)
  rw [bind_ok (areaWords_pass harea)]
  simp only [hfault]
  exact command_app hcommand

theorem exec_exform_squashed (hi : s.issue = some iss) (hd : Op.rdS d (slotOf s iss) = .ok (vd, v)) (ha : Op.rdS a v = .ok (va, x))
    (hb : Op.rdS b x = .ok (vb, y)) (hoff : enabled y m = false) : exec (.exform d a b m) s = .next (afterSlot s y) :=
  runSlot_ok hi ((bind_ok hd).trans (guardedPair_squashed ha hb hoff))

/-- An exform of a descriptor and a program that R203, R204 and R207 accept gives the transform engine the command. -/
theorem exec_exform (hi : s.issue = some iss) (hd : Op.rdS d (slotOf s iss) = .ok (vd, v)) (ha : Op.rdS a v = .ok (va, x))
    (hb : Op.rdS b x = .ok (vb, y)) (hon : enabled y m = true) {w prog : List Nat} (hw : areaWords y va.toNat 16 = w)
    (hprog : programOf w (areaWords y vd.toNat 4) = prog) (hdesc : areaOk y va.toNat 16) (hparea : areaOk y vd.toNat 4)
    (hfault : Op.xformFault w = none) (hins : ∀ v ∈ prog, Op.xformInsOk v = true) (hcommand : commandOk y 2 vb.toNat) :
    exec (.exform d a b m) s = .next (afterSlot s (commanded y 2 (commandOf y true w prog vb.toNat))) := by
  refine runSlot_ok hi ((bind_ok hd).trans ((guardedPair_enabled ha hb hon).trans ?_))
  rw [bind_ok (areaWords_pass hdesc), bind_ok (areaWords_pass hparea)]
  simp only [hw, hfault, programOf_eq, hprog, program_find_none hins]
  exact command_app hcommand

/-- Settles O28: each command where its guard enables it and its descriptor, its program and its barrier are accepted. -/
theorem engineCommandResults : Obligations.EngineCommandResults := by
  unfold Obligations.EngineCommandResults
  intro s iss m hi
  exact ⟨fun e a b va vb x y ha hb => ⟨fun hoff => runSlot_ok hi (guardedPair_squashed ha hb hoff), exec_ecopy hi ha hb⟩,
    fun d a b vd va vb v x y hd ha hb => ⟨exec_exform_squashed hi hd ha hb, fun hon => exec_exform hi hd ha hb hon rfl rfl⟩⟩

end Sys2Proof.Proofs
end

section
/-! Major 0x33: the bead array (R213 to R227). -/

namespace Sys2Proof.Proofs

open Machine Claim Laws

variable {x y : Slot} {s : State} {iss : Issue} {d b : Opnd} {t : Tgt}

/-! ### The shared parts of the bead instructions -/

/-- A slot that changes only the bead array of its sequencer. -/
def withBead (x : Slot) (f : Bead → Bead) : Slot := withSeq x fun y => { y with bead := f y.bead }

theorem modBead_app (f : Bead → Bead) (x : Slot) : Op.modBead f x = .ok ((), withBead x f) := rfl

theorem elemRun_app (n : Fin 60) (m : Nat) (x : Slot) : Op.elemRun (.elem n) m x = .ok (elementBytes x n.val m, x) := rfl

/-- An idle array passes the check of STATE (R217). -/
theorem beadIdle_pass (h : (seqOf x).bead.st = .idle) : Op.beadIdle x = .ok ((), x) := by
  unfold Op.beadIdle
  rw [bind_ok (me_app x)]
  exact check_pass (decide_eq_true h)

/-- A capture of a group inside the share reads the wave that runs or is done, when it is not poisoned (R217, R223, R227). -/
theorem beadWave_pass {g : Nat} {w : Wave} (hst : (seqOf x).bead.st ≠ .idle) (hw : (seqOf x).bead.wave = some w) (hpsn : w.psn = false)
    (hg : 16 * g < beadRods (seqOf x)) : Op.beadWave g x = .ok (w, x) := by
  unfold Op.beadWave
  rw [bind_ok (me_app x), bind_ok (check_pass (decide_eq_true hst)), bind_ok (check_pass (decide_eq_true hg))]
  simp only [hw, hpsn, Bool.false_eq_true, if_false, pure_app]

/-! ### Cells, modes and waves (R219 to R221, R225) -/

section idle
variable (hi : s.issue = some iss) (hidle : (seqOf (slotOf s iss)).bead.st = .idle)
include hi hidle

theorem exec_bmode (n : BitVec 1) : exec (.bmode n) s = .next (afterSlot s (withBead (slotOf s iss) fun b => { b with mode := n.toNat })) := by
  refine runSlot_ok hi ?_
  rw [bind_ok (beadIdle_pass hidle), modBead_app]

/-- A btwin of a window from 1 to 1023 sets it (R220). -/
theorem exec_btwin {i : BitVec 14} (hlow : 1 ≤ i.toNat) (hhigh : i.toNat ≤ 1023) :
    exec (.btwin i) s = .next (afterSlot s (withBead (slotOf s iss) fun b => { b with twin := i.toNat })) := by
  have hrange : (decide (1 ≤ i.toNat) && decide (i.toNat ≤ 1023)) = true := by simp [hlow, hhigh]
  refine runSlot_ok hi ?_
  rw [bind_ok (beadIdle_pass hidle), bind_ok (check_pass hrange), modBead_app]

/-- A blnch in which no injection fires launches its inputs, and counts as an event of dinj (R221, R245). -/
theorem exec_blnch (n : Fin 60) {z : Seq} (hinj : dinjEvent (seqOf (slotOf s iss)) [1] = (false, z)) :
    let u := withSeq (slotOf s iss) fun _ => z
    let ins := beadIns (seqOf (slotOf s iss))
    exec (.blnch (.elem n)) s = .next (afterSlot s (withBead u fun b => waveLaunched b ins (elementBytes u n.val (ins / 16)))) := by
  intro u ins
  refine runSlot_ok hi ?_
  rw [bind_ok (beadIdle_pass hidle), bind_ok (me_app _)]
  simp only [hinj]
  rw [bind_ok (modMe_app ..)]
  simp only [Bool.false_eq_true, if_false]
  rw [bind_ok (elemRun_app ..), modBead_app]
  rfl

end idle

/-- A bload of a row inside the share writes the row's cells from its elements of w1 (R219). -/
theorem exec_bload {r : Word} (hi : s.issue = some iss) (hb : Op.rdS b (slotOf s iss) = .ok (r, x)) (hidle : (seqOf x).bead.st = .idle)
    (hrow : r.toNat < 128) (hshare : r.toNat < beadIns (seqOf x)) (n : Fin 60) :
    exec (.bload (.elem n) b) s = .next (afterSlot s (withBead x fun c =>
      rowLoaded c r.toNat (elementBytes x n.val (if (seqOf x).place.mode = 2 then 2 else 4)))) := by
  refine runSlot_ok hi ?_
  rw [bind_ok hb, bind_ok (beadIdle_pass hidle), bind_ok (me_app x), bind_ok (check_pass (decide_eq_true hrow)),
    bind_ok (check_pass (decide_eq_true hshare)), bind_ok (elemRun_app ..), modBead_app]
  rfl

/-- A brst ends any wave and makes the array idle, in every state (R225). -/
theorem exec_brst (hi : s.issue = some iss) :
    exec .brst s = .next (afterSlot s (withBead (slotOf s iss) fun b => { b with st := .idle, wave := none })) :=
  runSlot_ok hi (modBead_app beadReset _)

/-- Settles O40: each instruction by its meaning where its checks pass. -/
theorem beadSetupResults : Obligations.BeadSetupResults := by
  unfold Obligations.BeadSetupResults
  intro s iss hi v set
  refine ⟨fun hidle => ⟨exec_bmode hi hidle, fun i => exec_btwin hi hidle, fun n hnofire => ?blnch⟩,
    fun n b r x hb hidle hrow hshare => exec_bload hi hb hidle hrow hshare n, exec_brst hi⟩
  case blnch => exact exec_blnch hi hidle n (Prod.ext hnofire rfl)

/-! ### Captures, ranking and status (R223, R224, R226) -/

/-- The rods that have risen for a reader, each with its value, in the order of their indices (R224). -/
def risenRods (x : Seq) (w : Wave) : List (Nat × Nat) :=
  ((List.range (beadRods x)).map fun j => (rodSeen x.bead w j, j)).filter fun e => decide (e.1 < 1023)

/-- The rods that have risen, in the order of their ranks (R224). -/
def rankedRods (x : Seq) (w : Wave) : List (Nat × Nat) := (risenRods x w).foldl (fun l e => rankInsert e l) []

section wave
variable {w : Wave} (hi : s.issue = some iss) (ht : Op.target 1 d (slotOf s iss) = .ok (t, y)) (hst : (seqOf y).bead.st ≠ .idle)
  (hw : (seqOf y).bead.wave = some w) (hpsn : w.psn = false)
include hi ht hst hw hpsn

/-- A bcap leaves the values of its group's rods (R223). -/
theorem exec_bcap {g : BitVec 6} (hg : 16 * g.toNat < beadRods (seqOf y)) :
    exec (.bcap d g) s = .next (afterSlot s (withWrites y (elementWrite t 2
      (packLanes 16 ((List.range 16).map fun l => rodSeen (seqOf y).bead w (16 * g.toNat + l))) 0))) := by
  refine runSlot_ok hi ?_
  rw [bind_ok ht, bind_ok (beadWave_pass hst hw hpsn hg), bind_ok (me_app y)]
  exact put_whole_app ..

/-- A brank leaves the indices of the rods at its group's ranks, as far as its count and the ranks go (R224). -/
theorem exec_brank {g : BitVec 3} (hg : 16 * g.toNat < beadRods (seqOf y)) (k : BitVec 4) :
    exec (.brank d g k) s = .next (afterSlot s (withWrites y (elementWrite t 2 (packLanes 16 ((List.range 16).map fun l =>
      if l ≤ k.toNat then ((rankedRods (seqOf y) w).map (·.2)).getD (16 * g.toNat + l) 0xFFFF else 0xFFFF)) 0))) := by
  refine runSlot_ok hi ?_
  rw [bind_ok ht, bind_ok (beadWave_pass hst hw hpsn hg), bind_ok (me_app y)]
  simp only [Nat.lt_succ_iff (n := k.toNat), List.getD_eq_getElem?_getD, List.getElem?_map]
  exact put_whole_app ..

end wave

/-- The status word of the array (R226): ELAP, PSN and PROW are those of the wave, and zero without one. -/
def beadStatus (b : Bead) : Nat := b.twin * 2 ^ 10 + b.mode * 4 + b.st.code + (match b.wave with
  | some w => min w.elapsed 4095 * 2 ^ 32 + (if w.psn then 2 ^ 31 + w.prow * 2 ^ 24 else 0)
  | none => 0)

/-- A bstat leaves the status of the array (R226). -/
theorem exec_bstat (hi : s.issue = some iss) (ht : Op.target 0 d (slotOf s iss) = .ok (t, y)) :
    exec (.bstat d) s = .next (afterSlot s (withWrites y (scalarWrite t 1 (BitVec.ofNat 64 (beadStatus (seqOf y).bead)) true))) := by
  refine runSlot_ok hi ?_
  rw [bind_ok ht, bind_ok (me_app y)]
  have hput (n : Nat) (h : n = beadStatus (seqOf y).bead) :
      Op.putS t 1 (BitVec.ofNat 64 n) true y = .ok ((), withWrites y (scalarWrite t 1 (BitVec.ofNat 64 (beadStatus (seqOf y).bead)) true)) := by
    rw [h, putS_app]
  refine hput _ ?_
  cases hw : (seqOf y).bead.wave with
  | none => simp only [hw, beadStatus, Bool.toNat_false, Nat.zero_mul, Nat.zero_add, Nat.add_zero]
  | some w =>
    have hpoison : w.psn.toNat * 2 ^ 31 + (if w.psn then w.prow else 0) * 2 ^ 24 = if w.psn then 2 ^ 31 + w.prow * 2 ^ 24 else 0 := by
      cases w.psn <;> simp
    simp only [hw, beadStatus, ← hpoison]
    ring

/-- Settles O41: the captures of a wave that is not poisoned, and the status in every state. -/
theorem beadReadResults : Obligations.BeadReadResults := by
  unfold Obligations.BeadReadResults
  intro s iss d t y hi
  exact ⟨fun ht w hst hw hpsn => ⟨fun g => exec_bcap hi ht hst hw hpsn, fun g k hg => exec_brank hi ht hst hw hpsn hg k⟩, exec_bstat hi⟩

end Sys2Proof.Proofs
end

section
/-! The checks of redundant computation: equal operands go on, a mismatch rolls back (R239, R240, R245). -/

namespace Sys2Proof.Proofs

open Machine Claim Laws

variable {s : State} {iss : Issue} {u x y : Slot} {m : Bool} {n : Nat} {va vb : BitVec n}

/-- What a check leaves: nothing but the injection register's event, or the rollback event of a mismatch (R239, R245). -/
theorem compareCheck_app (same : Bool) (l : List Nat) (x : Slot) :
    Op.compareCheck same l x = if (dinjEvent (seqOf x) [4]).1 || !same
      then .error (.event 1 { cause := 0x46, slot := slotNo x, cont := slotNo x :: l } (dinjEvent (seqOf x) [4]).1)
      else .ok ((), withSeq x fun _ => (dinjEvent (seqOf x) [4]).2) := by
  unfold Op.compareCheck
  rw [bind_ok (slotNo_app x), bind_ok (me_app x)]
  simp only
  rw [bind_ok (modMe_app _ x)]
  split <;> rfl

/-- Both operands are read, then the guard decides whether they are compared: what chk and chkv have in common (R239). -/
def guardedCheck (ra rb : SlotM (BitVec n)) (m : Bool) (cont : BitVec n → BitVec n → List Nat) : SlotM Unit := do
  let va ← ra
  let vb ← rb
  if ← Op.enabled m then Op.compareCheck (decide (va = vb)) (cont va vb)

variable {ra rb : SlotM (BitVec n)} {cont : BitVec n → BitVec n → List Nat}

theorem guardedCheck_squashed (ha : ra u = .ok (va, x)) (hb : rb x = .ok (vb, y)) (hoff : enabled y m = false) :
    guardedCheck ra rb m cont u = .ok ((), y) := by
  unfold guardedCheck
  rw [bind_ok ha, bind_ok hb, bind_ok (enabled_app m y), hoff]
  rfl

theorem guardedCheck_enabled (ha : ra u = .ok (va, x)) (hb : rb x = .ok (vb, y)) (hon : enabled y m = true) :
    guardedCheck ra rb m cont u = Op.compareCheck (decide (va = vb)) (cont va vb) y := by
  unfold guardedCheck
  rw [bind_ok ha, bind_ok hb, bind_ok (enabled_app m y), if_pos hon]

/-- The three ends of a check in its slot: squashed, passed, and failed or injected (R239, R240, R245). -/
theorem runSlot_guardedCheck (hi : s.issue = some iss) (ha : ra (slotOf s iss) = .ok (va, x)) (hb : rb x = .ok (vb, y)) :
    (enabled y m = false → runSlot (guardedCheck ra rb m cont) s = .next (afterSlot s y))
    ∧ (enabled y m = true → va = vb → (dinjEvent (seqOf y) [4]).1 = false →
      runSlot (guardedCheck ra rb m cont) s = .next (afterSlot s (withSeq y fun _ => (dinjEvent (seqOf y) [4]).2)))
    ∧ (enabled y m = true → va ≠ vb ∨ (dinjEvent (seqOf y) [4]).1 = true →
      runSlot (guardedCheck ra rb m cont) s = .next (endBundle s iss.q
        (.event 1 { cause := 0x46, slot := slotNo y, cont := slotNo y :: cont va vb } (dinjEvent (seqOf y) [4]).1))) := by
  refine ⟨fun hoff => runSlot_ok hi (guardedCheck_squashed ha hb hoff), fun hon hsame hinj => ?_, fun hon hbad => ?_⟩
  · exact runSlot_ok hi ((guardedCheck_enabled ha hb hon).trans ((compareCheck_app ..).trans (if_neg (by simp [hsame, hinj]))))
  · exact runSlot_error hi ((guardedCheck_enabled ha hb hon).trans ((compareCheck_app ..).trans (if_pos (by simpa [or_comm] using hbad))))

/-- An injection register that is not armed takes no event (R245). -/
theorem dinjEvent_unarmed {x : Seq} (h : x.regs.dinj.getLsbD 4 = false) (l : List Nat) : dinjEvent x l = (false, x) := by
  have hbit : bit x.regs.dinj.toNat 4 = false := (bit_eq ..).trans h
  simp [dinjEvent, hbit]

/-- Settles O26: chk and chkv are one guarded check, of two scalars and of two vectors. -/
theorem checkResults : Obligations.CheckResults := by
  unfold Obligations.CheckResults
  intro s iss a b m hi
  exact ⟨fun _ _ _ _ ha hb => runSlot_guardedCheck (ra := Op.rdS a) (rb := Op.rdS b) (cont := fun va vb => [va.toNat, vb.toNat]) hi ha hb,
    fun _ _ _ _ ha hb => runSlot_guardedCheck (ra := Op.rdV a) (rb := Op.rdV b)
      (cont := fun va vb => lanesOf 64 4 va.toNat ++ lanesOf 64 4 vb.toNat) hi ha hb,
    fun _ h => dinjEvent_unarmed h [4]⟩

end Sys2Proof.Proofs
end

section
/-! Regions: how a level opens, what it keeps, and how it ends (R232 to R238). -/

namespace Sys2Proof.Proofs

open Machine Claim Laws

variable {s : State} {iss : Issue} {x y : Slot}

/-- A bundle that meets R233 finds nothing busy. -/
theorem regionBusy_none (h : regionReady x) : Op.regionBusy (seqOf x) = none := by
  obtain ⟨hpend, hbead, hcols⟩ := h
  have hloads : ((List.range 4).find? fun c => !((seqOf x).col c).ldq.isEmpty || !((seqOf x).col c).fill.isEmpty
      || decide (((seqOf x).ord.filter fun o => match o.op with | .atom a => !a.ret && !a.half && decide (a.col = c) | _ => false).length
        < ((seqOf x).col c).laq)) = none := by
    rw [List.find?_eq_none]
    intro c hc
    obtain ⟨hldq, hfill, -, hlaq⟩ := hcols c (List.mem_range.mp hc)
    simp only [hldq, hfill, List.isEmpty_nil, Bool.not_true, Bool.false_or, decide_eq_true_eq, Nat.not_lt]
    exact hlaq
  have hstores : ((List.range 4).find? fun c => decide (((seqOf x).col c).sdRes < ((seqOf x).col c).sdAsg)) = none := by
    rw [List.find?_eq_none]
    intro c hc
    obtain ⟨-, -, hassigned, -⟩ := hcols c (List.mem_range.mp hc)
    simpa using hassigned
  unfold Op.regionBusy
  simp only [hpend, hbead, List.isEmpty_nil]
  erw [hloads, hstores]
  rfl

/-- An rbegin that its checks accept changes the open levels alone (R233, R234). -/
theorem exec_rbegin {n : BitVec 4} (hi : s.issue = some iss) (hready : regionReady (slotOf s iss))
    (hdepth : iss.retry = true ∨ (seqOf (slotOf s iss)).region.levels.length ≠ 4) :
    exec (.rbegin n) s = .next (afterSlot s (withSeq (slotOf s iss) fun y => { y with region := { y.region with levels :=
      if iss.retry then
        match y.region.levels.getLast? with
        | some l => y.region.levels.dropLast ++ [{ levelAt (slotOf s iss) n.toNat with retries := l.retries, limit := l.limit }]
        | none => [levelAt (slotOf s iss) n.toNat]
      else y.region.levels ++ [levelAt (slotOf s iss) n.toNat] } })) := by
  have hmay : ((slotOf s iss).iss.retry || decide ((seqOf (slotOf s iss)).region.levels.length ≠ 4)) = true :=
    Bool.or_eq_true_iff.mpr (hdepth.imp id decide_eq_true)
  refine runSlot_ok hi ?_
  rw [bind_ok (me_app _), bind_ok (get_app _)]
  simp only
  rw [bind_ok (check_pass hmay), regionBusy_none hready]
  rfl

theorem rgs_app (x : Slot) : Op.rgs x = .ok (rgsWord (x.base.seq x.iss.q), x) := rfl

/-- A valid rkeep in a region puts the bytes of its range into the undo buffer (R235). -/
theorem exec_rkeep {a : Opnd} {w : Word} (hi : s.issue = some iss) (ha : Op.rdS a (slotOf s iss) = .ok (w, y))
    (hopen : (seqOf y).region.levels ≠ []) (hstart : w.toNat % 2 ^ 16 % 32 = 0) (hlen : w.toNat / 2 ^ 16 % 32 = 0) (hpos : 0 < w.toNat / 2 ^ 16)
    (hmost : w.toNat / 2 ^ 16 ≤ 16384) (howned : w.toNat % 2 ^ 16 + w.toNat / 2 ^ 16 ≤ (seqOf y).owned)
    (hroom : ((seqOf y).region.undo.map fun u => u.2.2.length).sum + w.toNat / 2 ^ 16 ≤ 16384) :
    exec (.rkeep a) s = .next (afterSlot s (withSeq y fun v => { v with region := { v.region with
      undo := v.region.undo ++ [(v.region.levels.length, w.toNat % 2 ^ 16, v.spaceBytes (w.toNat % 2 ^ 16) (w.toNat / 2 ^ 16))] } })) := by
  have hspare : bits w.toNat 32 32 = 0 := bits_of_lt (by omega)
  have hlength : bits w.toNat 16 16 = w.toNat / 2 ^ 16 := bits_of_div_lt (by omega)
  have hopen' : (!(seqOf y).region.levels.isEmpty) = true := by simpa using hopen
  have hrange : (decide (bits w.toNat 32 32 = 0) && decide (w.toNat / 2 ^ 16 % 32 = 0) && decide (w.toNat % 2 ^ 16 % 32 = 0) && decide (0 < w.toNat / 2 ^ 16)
      && decide (w.toNat / 2 ^ 16 ≤ 16384)) = true := by
    simp only [Bool.and_eq_true, decide_eq_true_eq]
    exact ⟨⟨⟨⟨hspare, hlen⟩, hstart⟩, hpos⟩, hmost⟩
  refine runSlot_ok hi ?_
  rw [bind_ok ha, bind_ok (me_app y)]
  simp only [hlength, bits_zero]
  rw [bind_ok (check_pass hopen'), bind_ok (check_pass hrange), bind_ok (check_pass (decide_eq_true howned)),
    bind_ok (rgs_app y), bind_ok (check_pass (decide_eq_true hroom))]
  rfl

/-- A rend in a region closes the innermost level; at depth 1 the region's operations are released (R236, R238). -/
theorem exec_rend (hi : s.issue = some iss) (hopen : (seqOf (slotOf s iss)).region.levels ≠ []) :
    exec .rend s = .next (afterSlot s (if (seqOf (slotOf s iss)).region.levels.length = 1 then
      withSeq (withIss { withSeq (slotOf s iss) (Op.lowerLevel (seqOf (slotOf s iss)).region.levels.length) with
          dev := Op.dropSpent iss.q (withSeq (slotOf s iss) (Op.lowerLevel (seqOf (slotOf s iss)).region.levels.length)).dev }
        fun i => { i with watch := joinWatch (seqOf (slotOf s iss)).region.owedWatch i.watch }) releaseOps
      else withSeq (slotOf s iss) (Op.lowerLevel (seqOf (slotOf s iss)).region.levels.length))) := by
  have hdepth : (seqOf (slotOf s iss)).region.levels.length ≠ 0 := by simpa using hopen
  refine runSlot_ok hi ?_
  rw [bind_ok (me_app _)]
  simp only
  rw [bind_ok (check_pass (decide_eq_true hdepth)), bind_ok (modMe_app _ _)]
  split
  · rfl
  · rfl

/-- An rfree leaves the deferral buffer for the epilogue alone (R181, R238). -/
def entersOrder : MOp → Bool
  | .rfree _ => false
  | _ => true

theorem countOp_ord (v : Seq) (o : OrdOp) : (countOp v o).ord = v.ord := by
  unfold countOp
  split
  · split <;> rfl
  all_goals rfl

theorem enterOrder_ord (v : Seq) (op : MOp) : (enterOrder v op).ord.map (·.op) = v.ord.map (·.op) ++ [op].filter entersOrder := by
  cases op <;> simp [enterOrder, entersOrder, List.filter_cons]

/-- Deferred operations enter the order in turn, behind what it holds (R238). -/
theorem entered_ord (l : List OrdOp) (v : Seq) :
    (l.foldl (fun v o => enterOrder (countOp v o) o.op) v).ord.map (·.op) = v.ord.map (·.op) ++ (l.map (·.op)).filter entersOrder := by
  induction l generalizing v with
  | nil => simp
  | cons o l ih =>
    rw [List.foldl_cons, ih, enterOrder_ord, countOp_ord, List.append_assoc, ← List.filter_append]
    rfl

/-- Settles O25: the checks of each instruction pass where its conditions hold, and a release puts what was deferred behind the order. -/
theorem regionResults : Obligations.RegionResults := by
  unfold Obligations.RegionResults
  intro s iss hi
  refine ⟨fun n hready hfirst hdepth => ?opens, fun n l v hready hretry hlevels => ?retries,
    fun a w y ha hopen hstart hlen hpos hmost howned hroom => exec_rkeep hi ha hopen hstart hlen hpos hmost howned hroom,
    exec_rend hi, fun v => ⟨rfl, ?releases⟩⟩
  case opens =>
    rw [exec_rbegin hi hready (.inr (Nat.ne_of_lt hdepth))]
    simp only [hfirst, Bool.false_eq_true, if_false]
  case retries =>
    have hlast : ∀ f : Seq → List Level, withSeq (slotOf s iss) (fun y => { y with region := { y.region with levels := f y } })
        = withSeq (slotOf s iss) fun y => { y with region := { y.region with levels := f (seqOf (slotOf s iss)) } } := fun _ => rfl
    rw [exec_rbegin hi hready (.inl hretry), hlast, hlevels]
    simp [hretry]
  case releases => exact entered_ord v.region.deferred v

end Sys2Proof.Proofs
end

section
/-! What each kind of answer has to keep of the invariant, one predicate for each: the devices that it holds have their memory in
canonical form (R243, R249, R250). -/

namespace Sys2Proof.Proofs

-- One proof at a time: the memory the compile needs stays near what the model alone needs.
set_option Elab.async false

open Machine

section answers
variable {α β : Type} {P : α → Prop} {Q : β → Prop}

/-- What an option answers, if it answers, has a property. -/
def Answers (P : α → Prop) (o : Option α) : Prop := ∀ a, o = some a → P a

theorem answers_none : Answers P none := nofun

theorem answers_some {a : α} (h : P a) : Answers P (some a) := by
  rintro _ ⟨⟩
  exact h

theorem answers_map {f : α → β} {o : Option α} (h : Answers P o) (hf : ∀ a, P a → Q (f a)) : Answers Q (o.map f) := by
  cases o with
  | none => exact answers_none
  | some a => exact answers_some (hf a (h a rfl))

theorem answers_bind {f : α → Option β} {o : Option α} (h : Answers P o) (hf : ∀ a, P a → Answers Q (f a)) : Answers Q (o.bind f) := by
  cases o with
  | none => exact answers_none
  | some a => exact hf a (h a rfl)

theorem answers_or {o p : Option α} (ho : Answers P o) (hp : Answers P p) : Answers P (o.or p) := by
  cases o with
  | none => exact hp
  | some a => exact ho

theorem Answers.getD {o : Option α} (h : Answers P o) {a : α} (ha : P a) : P (o.getD a) := by
  cases o with
  | none => exact ha
  | some b => exact h b rfl

/-- What an outcome holds, on the one side or on the other, has its property. -/
def Either (P : α → Prop) (Q : β → Prop) : Except α β → Prop
  | .error a => P a
  | .ok b => Q b

end answers

/-- A fold of steps that keep the invariant keeps it. -/
theorem foldl_memInv {α : Type} {f : Dev → α → Dev} (hf : ∀ d a, MemInv d → MemInv (f d a)) {d : Dev} (h : MemInv d) (l : List α) :
    MemInv (l.foldl f d) := by
  induction l generalizing d with
  | nil => exact h
  | cons a l ih => exact ih (hf d a h)

end Sys2Proof.Proofs
end

section
/-! The invariant of what comes with a device: the answers of engines, records and fetches. -/

namespace Sys2Proof.Proofs

set_option Elab.async false

open Machine

/-- What a read of a command finds keeps the invariant (R199). -/
def EngInInv : EngIn → Prop
  | .wait d => MemInv d
  | .bad _ => True
  | .ok _ d => MemInv d

/-- Where a command's writes go keeps the invariant (R199). -/
def EngOutInv : EngOut → Prop
  | .wait d => MemInv d
  | .go _ _ => True

/-- What becomes of a record keeps the invariant (R353, R356). -/
def RecEndInv : RecEnd → Prop
  | .fault _ => True
  | .done d => MemInv d
  | .hold d => MemInv d
  | .retry d => MemInv d

/-- Why a bundle takes no effect: what a pld has read so far keeps the invariant (R338). -/
def AbortInv : Abort → Prop
  | .more d => MemInv d
  | _ => True

/-- What a fetch finds keeps the invariant (R84). -/
def FetchedInv : Fetched → Prop
  | .run _ s => Inv s
  | .done s => Inv s

/-- The device before any step has its memory in canonical form. -/
theorem memInv_empty : MemInv {} := rfl

theorem foldl_fst_memInv {α β : Type} {f : Dev × β → α → Dev × β} (hf : ∀ x a, MemInv x.1 → MemInv (f x a).1) {x : Dev × β} (h : MemInv x.1)
    (l : List α) : MemInv (l.foldl f x).1 := by
  induction l generalizing x with
  | nil => exact h
  | cons a l ih => exact ih (hf x a h)

theorem foldl_snd_memInv {α β : Type} {f : β × Dev → α → β × Dev} (hf : ∀ x a, MemInv x.2 → MemInv (f x a).2) {x : β × Dev} (h : MemInv x.2)
    (l : List α) : MemInv (l.foldl f x).2 := by
  induction l generalizing x with
  | nil => exact h
  | cons a l ih => exact ih (hf x a h)

theorem foldlM_memInv {α : Type} {f : Dev → α → Option Dev} (hf : ∀ d a, MemInv d → Answers MemInv (f d a)) {d : Dev} (h : MemInv d) (l : List α) :
    Answers MemInv (l.foldlM f d) := by
  induction l generalizing d with
  | nil => exact answers_some h
  | cons a l ih => exact answers_bind (hf d a h) fun e he => ih he

/-- Laying a memory over another keeps the canonical form (R387). -/
theorem lay_wf {m : Mem} (h : m.wf = true) (base : Nat) (l : Mem) : (Mem.lay base l m).wf = true := by
  unfold Mem.lay
  induction l generalizing m with
  | nil => exact h
  | cons c l ih => exact ih (Mem.wf_set h ..)

theorem ite_memInv {c : Prop} [Decidable c] {a b : Dev} (ha : MemInv a) (hb : MemInv b) : MemInv (if c then a else b) := by
  split
  · exact ha
  · exact hb

theorem ite_snd_memInv {α : Type} {c : Prop} [Decidable c] {a b : α × Dev} (ha : MemInv a.2) (hb : MemInv b.2) : MemInv (if c then a else b).2 := by
  split
  · exact ha
  · exact hb

theorem inv_dev {s : State} (hs : Inv s) {d : Dev} (hd : MemInv d) : Inv { s with dev := d } := ⟨hd, hs.2⟩

theorem inv_base {s : State} (hs : Inv s) {d : Dev} (hd : MemInv d) : Inv { s with base := d } := ⟨hs.1, hd⟩

theorem ite_inv {c : Prop} [Decidable c] {s t : State} (hs : Inv s) (ht : Inv t) : Inv (if c then s else t) := by
  split
  · exact hs
  · exact ht

/-- A device whose memory is that of another. -/
theorem memInv_with {d e : Dev} (hd : MemInv d) (he : e.mem = d.mem := by rfl) : MemInv e := by rwa [MemInv, he]

theorem answers_ite {α : Type} {P : α → Prop} {c : Prop} [Decidable c] {a b : Option α} (ha : Answers P a) (hb : Answers P b) :
    Answers P (if c then a else b) := by
  split
  · exact ha
  · exact hb
end Sys2Proof.Proofs
end

section
/-! The parts of the device and the single order (R247 to R262, R373 to R384): only bytes that land change the memory (R249, R250). -/

namespace Sys2Proof.Proofs

set_option Elab.async false

open Machine

theorem setSeq_memInv {d : Dev} (hd : MemInv d) (q s) : MemInv (Dev.setSeq d q s) := hd

theorem modSeq_memInv {d : Dev} (hd : MemInv d) (q f) : MemInv (Dev.modSeq d q f) := hd

theorem modCluster_memInv {d : Dev} (hd : MemInv d) (c f) : MemInv (Dev.modCluster d c f) := hd

theorem modUnit_memInv {d : Dev} (hd : MemInv d) (u f) : MemInv (Dev.modUnit d u f) := hd

theorem modTenant_memInv {d : Dev} (hd : MemInv d) (t f) : MemInv (Dev.modTenant d t f) := hd

theorem modLaunch_memInv {d : Dev} (hd : MemInv d) (l f) : MemInv (Dev.modLaunch d l f) := by
  unfold Dev.modLaunch
  split <;> exact hd

theorem modFrame_memInv {d : Dev} (hd : MemInv d) (f g) : MemInv (Dev.modFrame d f g) := hd

theorem modStream_memInv {d : Dev} (hd : MemInv d) (t m f) : MemInv (Dev.modStream d t m f) := hd

theorem draw_memInv {d : Dev} (hd : MemInv d) : MemInv (Dev.draw d).2 := hd

theorem drawBytes_memInv {d : Dev} (hd : MemInv d) (n) : MemInv (Dev.drawBytes d n).2 := hd

theorem requestPage_memInv {d : Dev} (hd : MemInv d) (ten va write) : MemInv (requestPage d ten va write) := ite_memInv hd (ite_memInv hd hd)

theorem touch_memInv {d : Dev} (hd : MemInv d) (loc) : MemInv (touch d loc) := by
  unfold touch
  split
  · exact modFrame_memInv hd ..
  · exact hd

theorem modLcl_memInv {d : Dev} (hd : MemInv d) (l i f) : MemInv (modLcl d l i f) := modLaunch_memInv hd ..

theorem modUnits_memInv {d : Dev} (hd : MemInv d) (q va f) : MemInv (modUnits d q va f) := ite_memInv (modLcl_memInv hd ..) (setSeq_memInv hd ..)

theorem underRead_memInv {d : Dev} (hd : MemInv d) (q inCur) : MemInv (underRead d q inCur) :=
    modLaunch_memInv (ite_memInv (setSeq_memInv hd ..) hd) ..

theorem readIn_memInv {d : Dev} (hd : MemInv d) (me done later loc n) : MemInv (readIn me d done later loc n).2 := by
  rw [MemInv, readIn_mem]
  exact hd

theorem landBytes_memInv {d : Dev} (hd : MemInv d) (loc l) : MemInv (landBytes d loc l) := landBytes_wf hd ..

theorem fillElem_memInv {d : Dev} (hd : MemInv d) (own col ent elem n v psn) : MemInv (fillElem own col ent elem n v psn d) := hd

theorem fillPart_memInv {d : Dev} (hd : MemInv d) (own id k b psn) : MemInv (fillPart own id k b psn d) := hd

theorem resolve_memInv {d : Dev} (hd : MemInv d) (done l) : MemInv (resolve done d l).2 := by
  rw [MemInv, resolve_mem]
  exact hd

theorem wixSeen_memInv {d : Dev} (hd : MemInv d) (loc n) : MemInv (wixSeen loc n d) := by
  rw [MemInv, wixSeen_mem]
  exact hd

theorem land_memInv {d : Dev} (hd : MemInv d) (x) : Answers MemInv (land d x) := fun _ h => land_wf hd h

theorem drain_memInv {d : Dev} (hd : MemInv d) (held l) : MemInv (drain held d l).2 := drain_wf l held hd

theorem settle_memInv {d : Dev} (hd : MemInv d) : MemInv (settle d) := settle_wf hd

theorem noteWrite_memInv {d : Dev} (hd : MemInv d) (own loc n) : MemInv (noteWrite d own loc n) := by
  rw [MemInv, noteWrite_mem]
  exact hd

theorem closeSplit_memInv {d : Dev} (hd : MemInv d) (x) : MemInv (closeSplit d x) :=
    noteWrite_memInv (settle_memInv (memInv_with (ite_memInv hd (modSeq_memInv hd ..)))) ..

theorem closeSplits_memInv {d : Dev} (hd : MemInv d) (a loc n) : MemInv (closeSplits a loc n d) := closeSplits_wf hd ..

theorem place_memInv {d : Dev} (hd : MemInv d) (p) : MemInv (place d p) := place_wf hd p

theorem perform_memInv {d : Dev} (hd : MemInv d) (p) : MemInv (perform d p) := perform_wf hd p

theorem putOut_memInv {d : Dev} (hd : MemInv d) (va p) : MemInv (putOut d va p) := ite_memInv (modSeq_memInv hd ..) (perform_memInv hd _)

theorem placeBytes_memInv {d : Dev} (hd : MemInv d) (own loc l psn) : MemInv (placeBytes d own loc l psn) := placeBytes_wf hd ..

theorem loadBytes_memInv {d : Dev} (hd : MemInv d) (own loc n) : MemInv (loadBytes d own loc n).2 :=
    readIn_memInv (closeSplits_memInv (touch_memInv hd _) ..) ..

theorem markPoison_memInv {d : Dev} (hd : MemInv d) (loc n) : MemInv (markPoison d loc n) := hd

theorem gput_memInv {d : Dev} (hd : MemInv d) (loc n v) : MemInv (gput d loc n v) := gput_wf hd ..

theorem modPortOf_memInv {d : Dev} (hd : MemInv d) (p f) : MemInv (modPortOf p f d) := hd

theorem traffic_memInv {d : Dev} (hd : MemInv d) (dev) : MemInv (traffic dev d) := by
  unfold traffic
  split
  · exact hd
  · exact modPortOf_memInv (draw_memInv (draw_memInv hd)) ..

theorem sendOut_memInv {d : Dev} (hd : MemInv d) (o) : MemInv (sendOut o d) := traffic_memInv (memInv_with hd) _

theorem tgetBytes_memInv {d : Dev} (hd : MemInv d) (ten n n' n'') : MemInv (tgetBytes ten n n' n'' d).2 := by
  induction n generalizing n' n'' d with
  | zero => exact hd
  | succ n ih => grind [tgetBytes, touch_memInv, drawBytes_memInv, traffic_memInv]

theorem putWay_memInv {d : Dev} (hd : MemInv d) (w l) : MemInv (putWay w l d) := by
  cases w <;> grind [putWay, placeBytes_memInv, sendOut_memInv]

theorem tput_memInv {d : Dev} (hd : MemInv d) (ten va n v) : MemInv (tput d ten va n v) := putWay_memInv hd ..

theorem tputPages_memInv {d : Dev} (hd : MemInv d) (ten n n' x) : MemInv (tputPages ten n d n' x) := by
  induction n generalizing n' x d with
  | zero => exact hd
  | succ n ih => grind [tputPages, putWay_memInv]

theorem tputBytes_memInv {d : Dev} (hd : MemInv d) (ten va l) : MemInv (tputBytes d ten va l) := tputPages_memInv hd ..

end Sys2Proof.Proofs
end

section
/-! What a sequencer does as bundles begin, trap and roll back (R71, R73, R241, R371, R385). -/

namespace Sys2Proof.Proofs

set_option Elab.async false

open Machine

theorem now_memInv {d : Dev} (hd : MemInv d) : MemInv (now d).2 := hd

theorem watchSet_memInv {d : Dev} (hd : MemInv d) (q j) : MemInv (watchSet q j d) := hd

theorem watchScan_memInv {d : Dev} (hd : MemInv d) : MemInv (watchScan d) := by
  grind [watchScan, foldl_memInv, MemInv]

theorem landSysreg_memInv {d : Dev} (hd : MemInv d) (q n v) : MemInv (landSysreg q n v d) := by
  unfold landSysreg
  repeat' apply ite_memInv
  all_goals exact hd

theorem landData_memInv {d : Dev} (hd : MemInv d) (q c i v en) : MemInv (landData q c i v en d) := settle_memInv (memInv_with hd)

theorem landOne_memInv {d : Dev} (hd : MemInv d) (q w) : MemInv (landOne q d w) := by
  unfold landOne
  extract_lets
  split
  case h_2 => exact ite_memInv hd (setSeq_memInv hd ..)
  case h_13 => exact landData_memInv hd ..
  case h_14 => exact landSysreg_memInv hd ..
  all_goals exact setSeq_memInv hd ..

theorem landList_memInv {d : Dev} (hd : MemInv d) (q l) : MemInv (landList q l d) := by
  unfold landList
  extract_lets
  split
  · exact foldl_memInv (fun _ _ hd => landOne_memInv hd ..) hd _
  · exact setSeq_memInv (foldl_memInv (fun _ _ hd => landOne_memInv hd ..) hd _) ..

theorem landDue_memInv {d : Dev} (hd : MemInv d) (q) : MemInv (landDue q d) := landList_memInv (setSeq_memInv hd ..) ..

theorem landAll_memInv {d : Dev} (hd : MemInv d) (q n) : MemInv (landAll q n d) := by
  induction n generalizing d with
  | zero => exact hd
  | succ n ih => grind [landAll, modSeq_memInv, landDue_memInv]

theorem sendMsi_memInv {d : Dev} (hd : MemInv d) (fn v) : MemInv (sendMsi fn v d) := ite_memInv (modTenant_memInv hd ..) hd

theorem signalMsi_memInv {d : Dev} (hd : MemInv d) (fn v) : MemInv (signalMsi fn v d) := ite_memInv hd (sendMsi_memInv hd ..)

theorem writeEvent_memInv {d : Dev} (hd : MemInv d) (ten e) : MemInv (writeEvent d ten e) :=
    signalMsi_memInv (modTenant_memInv (gput_memInv (placeBytes_memInv hd ..) ..) ..) ..

theorem flushEvents_memInv {d : Dev} (hd : MemInv d) (ten n) : MemInv (flushEvents ten n d) := by
  induction n generalizing d with
  | zero => exact hd
  | succ n ih => grind [flushEvents, writeEvent_memInv, modTenant_memInv]

theorem postEvent_memInv {d : Dev} (hd : MemInv d) (ten e) : MemInv (postEvent d ten e) := by
  unfold postEvent
  extract_lets
  split
  · exact writeEvent_memInv (flushEvents_memInv hd ..) ..
  · exact ite_memInv (modTenant_memInv (flushEvents_memInv hd ..) ..) (modTenant_memInv (flushEvents_memInv hd ..) ..)

theorem launchEvent_memInv {d : Dev} (hd : MemInv d) (l kind cause rc sqid) : MemInv (launchEvent d l kind cause rc sqid) := by
  unfold launchEvent
  split
  · exact postEvent_memInv hd ..
  · exact hd

theorem writeRecord_memInv {d : Dev} (hd : MemInv d) (q t) : MemInv (writeRecord d q t) := placeBytes_memInv (now_memInv hd) ..

theorem holdItem_memInv {d : Dev} (hd : MemInv d) (a) : MemInv (holdItem a d) := ite_memInv hd hd

theorem takeTrap_memInv {d : Dev} (hd : MemInv d) (q t) : MemInv (takeTrap d q t) := by
  unfold takeTrap
  extract_lets
  split
  · exact setSeq_memInv hd ..
  split
  · exact launchEvent_memInv (writeRecord_memInv (modLaunch_memInv (setSeq_memInv hd ..) ..) ..) ..
  · exact holdItem_memInv (writeRecord_memInv (modLaunch_memInv (setSeq_memInv hd ..) ..) ..) _

theorem replaySeq_memInv {d : Dev} (hd : MemInv d) (q) : Answers MemInv (replaySeq d q) := by
  unfold replaySeq
  extract_lets
  split
  · exact answers_some (setSeq_memInv hd ..)
  · exact answers_ite answers_none (answers_ite answers_none (answers_some (setSeq_memInv hd ..)))

theorem undoDecs_memInv {d : Dev} (hd : MemInv d) (q l) : MemInv (undoDecs d q l) := modSeq_memInv (foldl_memInv (fun _ _ hd =>
    modLcl_memInv (modSeq_memInv hd ..) ..) hd _) ..

theorem rollbackLevel_memInv {d : Dev} (hd : MemInv d) (q) : MemInv (rollbackLevel d q) := by
  unfold rollbackLevel
  extract_lets
  split
  · exact hd
  · exact setSeq_memInv (modLaunch_memInv (modSeq_memInv (memInv_with (undoDecs_memInv hd ..)) ..) ..) ..

theorem rollback_memInv {d : Dev} (hd : MemInv d) (q pc kind t n x) : MemInv (rollback q pc kind t n x d) := by
  induction n generalizing x d with
  | zero => exact hd
  | succ n ih => grind [rollback, modSeq_memInv, rollbackLevel_memInv, takeTrap_memInv]

end Sys2Proof.Proofs
end

section
/-! A bundle from its issue to its end (R25, R68, R72, R84). -/

namespace Sys2Proof.Proofs

set_option Elab.async false

open Machine

theorem safeGate_memInv (d q i) : Either AbortInv (fun _ => True) (safeGate d q i) := by
  unfold safeGate
  extract_lets
  split
  · exact trivial
  split
  · exact trivial
  · exact trivial

theorem interlocks_memInv (d q is) : Either AbortInv (fun _ => True) (interlocks d q is) := by
  unfold interlocks
  extract_lets
  split
  · exact trivial
  · split
    · exact trivial
    · exact trivial

theorem held_memInv {d : Dev} (hd : MemInv d) (q) : MemInv (held q d) := by
  unfold held
  extract_lets
  split
  · exact takeTrap_memInv (modSeq_memInv (modSeq_memInv hd ..) ..) ..
  · exact ite_memInv (modSeq_memInv (modSeq_memInv hd ..) ..) (modSeq_memInv hd ..)

theorem afterRollback_memInv {d : Dev} (hd : MemInv d) (q) : MemInv (afterRollback q d) :=
    ite_memInv (takeTrap_memInv (modSeq_memInv hd ..) ..) (modSeq_memInv hd ..)

theorem endBundle_memInv {s : State} (hs : Inv s) (q) {a : Abort} (ha : AbortInv a) : Inv (endBundle s q a) := by
  cases a <;> grind [endBundle, Inv, AbortInv, takeTrap_memInv, modSeq_memInv, held_memInv, afterRollback_memInv, rollback_memInv, landDue_memInv,
      memInv_empty]

theorem takeRequests_memInv {d : Dev} (hd : MemInv d) (q entry) : MemInv (takeRequests d q entry) := by
  unfold takeRequests
  extract_lets
  split
  · exact setSeq_memInv (landAll_memInv hd ..) ..
  split
  · exact takeTrap_memInv (draw_memInv (setSeq_memInv (landAll_memInv hd ..) ..)) ..
  · exact setSeq_memInv (landAll_memInv hd ..) ..

theorem atSafe_memInv {d : Dev} (hd : MemInv d) (q entry) : MemInv (atSafe d q entry) := ite_memInv (takeRequests_memInv hd ..) (modSeq_memInv hd ..)

theorem finish_memInv {s : State} (hs : Inv s) (iss) : Inv (finish s iss) := by
  obtain ⟨hd, hb⟩ := hs
  unfold finish
  extract_lets d q x h target place s₁ d₁ entry
  clear_value target
  have hplace : Either AbortInv (fun _ => True) place := by
    unfold place
    split
    · trivial
    · split
      · trivial
      · split
        · trivial
        · split
          · split
            · trivial
            · split <;> trivial
          · trivial
  clear_value place
  split
  case h_1 t => exact endBundle_memInv (a := .trap t) (s := s₁) ⟨hd, modSeq_memInv hb ..⟩ q trivial
  case h_2 a _ => exact endBundle_memInv ⟨hd, hb⟩ q hplace
  case h_3 x₀ =>
    extract_lets _ _ _ _ y e fell done again rest r run
    have he : MemInv e := setSeq_memInv hd q _
    clear_value y e
    have hdone : ∀ t, Inv (done t) := fun t => ⟨takeTrap_memInv (modSeq_memInv he ..) .., memInv_empty⟩
    have hrest : Inv rest := by
      refine ⟨?_, ?_⟩
      · unfold rest
        split
        · exact landAll_memInv (modSeq_memInv he ..) ..
        · split
          · split
            · exact atSafe_memInv he ..
            · split
              · exact takeTrap_memInv (modSeq_memInv he ..) ..
              · exact he
          · exact he
      · unfold rest
        split_ifs <;> exact memInv_empty
    have hr : Inv r := by
      unfold r
      split
      · exact ⟨he, memInv_empty⟩
      · exact hrest
    split
    · exact ⟨modSeq_memInv (hdone _).1 .., memInv_empty⟩
    · exact hdone _
    · split
      · split
        · exact ⟨modSeq_memInv hr.1 .., hr.2⟩
        · exact hdone _
      · exact hrest

theorem nextSlot_memInv {s : State} (hs : Inv s) (iss) : Inv (nextSlot s iss) := ite_inv (finish_memInv hs _) (inv_dev hs hs.1)

theorem bring_memInv (x) : Either AbortInv (fun _ => True) (bring x) := by
  unfold bring
  split
  · split
    · exact trivial
    split
    · split
      · split
        · exact trivial
        · exact trivial
      · exact trivial
    · exact trivial
  · split
    · split
      · split
        · exact trivial
        · exact trivial
      · exact trivial
    · exact trivial

theorem nopBundle_memInv {s : State} (hs : Inv s) (q) : Inv (nopBundle q s) := by
  grind [nopBundle, landDue_memInv, finish_memInv, Inv]

theorem issueBundle_memInv {s : State} (hs : Inv s) (q) : Inv (issueBundle q s) := by
  have hd : MemInv s.dev := hs.1
  unfold issueBundle
  extract_lets d x waits e
  have he : MemInv e := landAll_memInv hd ..
  have trapped : ∀ f t, Inv { s with dev := takeTrap (d.modSeq q f) q t } := fun f t => inv_dev hs (takeTrap_memInv (modSeq_memInv hd ..) ..)
  have modified : ∀ f, Inv { s with dev := d.modSeq q f } := fun f => inv_dev hs (modSeq_memInv hd ..)
  clear_value e
  refine ite_inv (modified _) (ite_inv (modified _) (ite_inv hs (ite_inv (inv_dev hs (ite_memInv (trapped ..).1 (modified _).1)) ?_)))
  refine ite_inv (inv_dev hs (modSeq_memInv (takeRequests_memInv hd ..) ..)) (ite_inv (inv_dev hs (held_memInv hd _)) ?_)
  refine ite_inv (modified _) (ite_inv (inv_dev hs (held_memInv hd _)) (ite_inv (trapped ..) ?_))
  split
  · exact trapped ..
  split
  · exact endBundle_memInv (a := .trap _) (inv_base hs (modSeq_memInv hd ..)) q trivial
  refine ite_inv (inv_dev hs (landAll_memInv (modSeq_memInv hd ..) ..)) (ite_inv (nopBundle_memInv hs q) (ite_inv (trapped ..) ?_))
  extract_lets
  have hbr := bring_memInv x
  split
  case h_1 => exact endBundle_memInv (inv_base hs (modSeq_memInv hd ..)) q trivial
  case h_2 a _ ha =>
    rw [ha] at hbr
    exact endBundle_memInv (inv_base hs hd) q hbr
  case h_3 =>
  extract_lets d0 s₂ d1 d2
  have hd0 : MemInv d0 := setSeq_memInv hd ..
  have hs₂ : Inv s₂ := inv_base hs hd0
  split
  · exact endBundle_memInv hs₂ q trivial
  extract_lets iss
  have hd1 : MemInv d1 := landDue_memInv hd0 ..
  have hs₃ : Inv { s₂ with dev := d2 } := inv_dev hs₂ (modSeq_memInv hd1 ..)
  clear_value iss d0 d1 d2
  split
  case h_1 => exact endBundle_memInv hs₂ q trivial
  case h_2 is _ =>
  extract_lets safe
  clear_value safe
  split
  case h_1 a ha =>
    refine endBundle_memInv hs₂ q ?_
    split at ha
    case h_1 e =>
      have hg := safeGate_memInv d1 q e.1
      rwa [ha] at hg
    case h_2 => cases ha
  split
  case h_1 a ha =>
    have hi := interlocks_memInv d0 q is
    rw [ha] at hi
    exact endBundle_memInv hs₂ q hi
  split
  · exact finish_memInv hs₃ iss
  · exact hs₃

end Sys2Proof.Proofs
end

section
/-! Elements of streams and atomics at their places (R112 to R128, R243, R258). -/

namespace Sys2Proof.Proofs

set_option Elab.async false

open Machine

theorem modEnt_memInv {d : Dev} (hd : MemInv d) (q c ent f) : MemInv (modEnt q c ent f d) := hd

theorem newEnt_memInv {d : Dev} (hd : MemInv d) (q c n s last) : MemInv (newEnt q c n s last d) := hd

theorem inject_memInv {d : Dev} (hd : MemInv d) (q c ent va) : MemInv (inject q c ent va d) :=
    ite_memInv (setSeq_memInv hd ..) (modEnt_memInv (setSeq_memInv hd ..) ..)

theorem meetL1_memInv {d : Dev} (hd : MemInv d) (q c ent va loc) : MemInv (meetL1 q c ent va loc d) := by
  unfold meetL1
  split
  · exact hd
  · exact ite_memInv (markPoison_memInv (modEnt_memInv (modSeq_memInv hd ..) ..) ..) (modEnt_memInv (modSeq_memInv hd ..) ..)

theorem loadAt_memInv {d : Dev} (hd : MemInv d) (q c ent k va loc n inj) : MemInv (loadAt q c ent k va loc n inj d) :=
    putOut_memInv (ite_memInv (inject_memInv (meetL1_memInv (modEnt_memInv hd ..) ..) ..) (meetL1_memInv (modEnt_memInv hd ..) ..)) ..

theorem loadZero_memInv {d : Dev} (hd : MemInv d) (q c ent k n) : MemInv (loadZero q c ent k n d) := hd

theorem askPeer_memInv {d : Dev} (hd : MemInv d) (dev n) : MemInv (askPeer dev n d).2 := drawBytes_memInv (draw_memInv (traffic_memInv hd _)) _

theorem loadPeer_memInv {d : Dev} (hd : MemInv d) (dev q c ent k va n inj) : MemInv (loadPeer dev q c ent k va n inj d) := by
  grind [loadPeer, askPeer_memInv, modEnt_memInv, fillElem_memInv, inject_memInv]

theorem askAgain_memInv {d : Dev} (hd : MemInv d) (q va) : MemInv (askAgain q va d) := hd

theorem loadMem_memInv {d : Dev} (hd : MemInv d) (q c ent k va n inj) : Answers MemInv (loadMem q c ent k va n inj d) := by
  unfold loadMem
  split
  · exact answers_some (loadAt_memInv hd ..)
  · exact answers_some (loadPeer_memInv hd ..)
  · exact answers_none
  · exact answers_some (loadZero_memInv (askAgain_memInv (modSeq_memInv hd ..) ..) ..)

theorem loadCounted_memInv {d : Dev} (hd : MemInv d) (q c ent k va n t) : Answers (fun r => MemInv r.2) (loadCounted q c ent k va n t d) := by
  unfold loadCounted
  split
  · exact answers_some (loadAt_memInv hd ..)
  split
  · exact answers_some (loadAt_memInv (ite_memInv (modUnits_memInv hd ..) (modSeq_memInv (modUnits_memInv hd ..) ..)) ..)
  · extract_lets
    split
    · exact answers_some (modEnt_memInv (loadZero_memInv hd ..) ..)
    · exact answers_some (modEnt_memInv (loadZero_memInv hd ..) ..)
    · exact answers_none
    · exact answers_some (loadZero_memInv (askAgain_memInv (modSeq_memInv hd ..) ..) ..)

theorem popHead_memInv {d : Dev} (hd : MemInv d) (q) : MemInv (popHead q d) := hd

theorem putHead_memInv {d : Dev} (hd : MemInv d) (q t) : MemInv (putHead q t d) := hd

theorem nextElem_memInv {d : Dev} (hd : MemInv d) (q t) : MemInv (nextElem q t d) := by
  unfold nextElem
  split
  · exact putHead_memInv hd ..
  extract_lets
  split
  case h_5 => exact modSeq_memInv (popHead_memInv hd _) ..
  all_goals exact popHead_memInv hd _

theorem waitHead_memInv {d : Dev} (hd : MemInv d) (q) : MemInv (waitHead q d) := hd

theorem feSet_memInv {d : Dev} (hd : MemInv d) (q va n full) : MemInv (feSet q va n full d) := modLcl_memInv hd ..

theorem loadElem_memInv {d : Dev} (hd : MemInv d) (q t) : Answers MemInv (loadElem q t d) := by
  grind [loadElem, newEnt_memInv, nextElem_memInv, loadCounted_memInv, loadMem_memInv, feSet_memInv, answers_some, answers_none, answers_map, Answers]

theorem storeMissed_memInv {d : Dev} (hd : MemInv d) (q c va) : MemInv (storeMissed q c va d) :=
    holdItem_memInv (waitHead_memInv (modSeq_memInv hd ..) _) _

theorem toPeer_memInv {d : Dev} (hd : MemInv d) (q o) : MemInv (toPeer q o d) := sendOut_memInv (modSeq_memInv hd ..) _

theorem fillUnit_memInv {d : Dev} (hd : MemInv d) (q va rc) : MemInv (fillUnit q va rc d) := by
  grind [fillUnit, underRead_memInv, drawBytes_memInv, placeBytes_memInv, modUnits_memInv, MemInv]

theorem useEntry_memInv {d : Dev} (hd : MemInv d) (q t) : MemInv (useEntry q t d) := ite_memInv (modSeq_memInv hd ..) hd

theorem storeAt_memInv {d : Dev} (hd : MemInv d) (q t loc) : MemInv (storeAt q t loc d) := useEntry_memInv (putOut_memInv hd ..) ..

theorem storeRun_memInv {d : Dev} (hd : MemInv d) (q n x n') : MemInv (storeRun q n x n' d) := by
  induction n generalizing x n' d with
  | zero => exact hd
  | succ n ih => grind [storeRun, storeAt_memInv]

theorem storeMem_memInv {d : Dev} (hd : MemInv d) (q t va) : Answers MemInv (storeMem q t va d) := by
  unfold storeMem
  split
  · exact answers_some (nextElem_memInv (storeAt_memInv hd ..) ..)
  · exact answers_some (nextElem_memInv (useEntry_memInv (toPeer_memInv hd ..) ..) ..)
  · exact answers_none
  · exact answers_some (storeMissed_memInv hd ..)

theorem fillNext_memInv {d : Dev} (hd : MemInv d) (q t) : Answers (fun r => MemInv r.2) (fillNext q t d) := by
  unfold fillNext
  dsimp only
  split
  · exact answers_some (storeRun_memInv (fillUnit_memInv hd ..) ..)
  · exact answers_none

theorem storeElem_memInv {d : Dev} (hd : MemInv d) (q t) : Answers MemInv (storeElem q t d) := by
  grind [storeElem, popHead_memInv, modSeq_memInv, nextElem_memInv, fillNext_memInv, storeMissed_memInv, feSet_memInv, storeMem_memInv,
      answers_some, answers_none, answers_map, answers_or, Answers]

theorem sideStep_memInv {d : Dev} (hd : MemInv d) (q) : Answers MemInv (sideStep q d) := by
  unfold sideStep
  extract_lets
  split
  · exact answers_none
  · exact answers_ite answers_none (answers_some (setSeq_memInv hd ..))

theorem leaveQueue_memInv {d : Dev} (hd : MemInv d) (q a) : MemInv (leaveQueue q a d) := ite_memInv hd (modSeq_memInv hd ..)

theorem atomPerform_memInv {d : Dev} (hd : MemInv d) (q a) : Answers MemInv (atomPerform q a d) := by
  grind [atomPerform, newEnt_memInv, leaveQueue_memInv, popHead_memInv, perform_memInv, putOut_memInv, modEnt_memInv, toPeer_memInv,
      loadPeer_memInv, storeMissed_memInv, answers_some, answers_none]

theorem atomRead_memInv {d : Dev} (hd : MemInv d) (q a) : Answers MemInv (atomRead q a d) := by
  grind [atomRead, loadBytes_memInv, touch_memInv, leaveQueue_memInv, newEnt_memInv, fillElem_memInv, modEnt_memInv, modSeq_memInv, answers_some,
      answers_none, answers_or, MemInv]

theorem atomWrite_memInv {d : Dev} (hd : MemInv d) (q) : Answers MemInv (atomWrite q d) := answers_map (P := fun _ => True) (fun _ _ =>
    trivial) fun x _ => closeSplit_memInv hd x

end Sys2Proof.Proofs
end

section
/-! The other operations of an order at their places (R123, R130 to R134, R189, R190). -/

namespace Sys2Proof.Proofs

set_option Elab.async false

open Machine

theorem arrive_memInv {d : Dev} (hd : MemInv d) (own die ten va b c f) : Answers MemInv (arrive own die ten va b c f d) := by
  unfold arrive
  split
  · exact answers_some hd
  split
  · exact answers_some (perform_memInv hd _)
  · exact answers_none
  · exact answers_none
  · exact answers_some hd

theorem arriveRequest_memInv {d : Dev} (hd : MemInv d) (die ten va) : Answers MemInv (arriveRequest die ten va d) := by
  unfold arriveRequest
  split
  · exact answers_some (requestPage_memInv hd ..)
  · exact answers_none

theorem callArrive_memInv {d : Dev} (hd : MemInv d) (q c code) : Answers MemInv (callArrive q c code d) :=
    answers_ite (answers_some hd) (answers_ite answers_none (arrive_memInv hd _ _ _ _ _ _ _))

theorem dropBlocks_memInv {d : Dev} (hd : MemInv d) (q va len) : MemInv (dropBlocks q va len d) := modLcl_memInv (foldl_memInv (fun _ _ hd =>
    underRead_memInv hd ..) hd _) ..

theorem mapPerform_memInv {d : Dev} (hd : MemInv d) (q empty k va len ofs) : MemInv (mapPerform q empty k va len ofs d) := by
  unfold mapPerform
  extract_lets
  split
  · split
    · exact hd
    · exact modLcl_memInv (dropBlocks_memInv hd ..) ..
  · exact modLcl_memInv hd ..

theorem cincPerform_memInv {d : Dev} (hd : MemInv d) (q incs) : MemInv (cincPerform q incs d) := hd

theorem enqueue_memInv {d : Dev} (hd : MemInv d) (q e c) : MemInv (enqueue q e c d) := by
  grind [enqueue, modSeq_memInv, modCluster_memInv, MemInv]

theorem writeWays_memInv {d : Dev} (hd : MemInv d) (q col runs) : Answers (Either MemInv fun _ => True) (writeWays q col runs d) := by
  unfold writeWays
  extract_lets
  split
  · exact answers_none
  split
  · exact answers_ite answers_none (answers_some (storeMissed_memInv hd ..))
  · exact answers_some trivial

theorem writeRuns_memInv {d : Dev} (hd : MemInv d) (q psn l x) : MemInv (writeRuns q psn l x d) := by
  induction l generalizing x d with
  | nil => exact hd
  | cons a l ih => 
    obtain ⟨va, n, w⟩ := a
    cases w <;> grind [writeRuns, putOut_memInv, toPeer_memInv]

theorem writePerform_memInv {d : Dev} (hd : MemInv d) (q col va l) : Answers (fun r => MemInv r.1) (writePerform q col va l d) := by
  grind [writePerform, writeRuns_memInv, writeWays_memInv, answers_some, answers_none, answers_map, Answers, Either]

theorem placeRow_memInv {d : Dev} (hd : MemInv d) (q id r l n) : MemInv (placeRow q id r l n d) := by
  induction l generalizing n d with
  | nil => exact hd
  | cons a l ih => 
    obtain ⟨va, n, w⟩ := a
    cases w <;> grind [placeRow, putOut_memInv, toPeer_memInv]

theorem autoHead_memInv {d : Dev} (hd : MemInv d) (q) : Answers MemInv (autoHead q d) := by
  unfold autoHead
  split
  · exact answers_none
  · split <;> grind [popHead_memInv, mapPerform_memInv, cincPerform_memInv, modCluster_memInv, writePerform_memInv, perform_memInv,
      storeMissed_memInv, placeRow_memInv, modSeq_memInv, writeWays_memInv, arrive_memInv, enqueue_memInv, answers_some, answers_none, answers_map,
      Either]

theorem placePart_memInv {d : Dev} (hd : MemInv d) (q id va n k w) : MemInv (placePart q id va n k w d) := by
  unfold placePart
  split <;> grind [putOut_memInv, askPeer_memInv, fillPart_memInv, askAgain_memInv, modSeq_memInv]

theorem placeReads_memInv {d : Dev} (hd : MemInv d) (q isMld) : Answers MemInv (placeReads q isMld d) := by
  grind [placeReads, popHead_memInv, placePart_memInv, foldl_memInv, answers_some, answers_none, answers_map, answers_or]

theorem advance_memInv {d : Dev} (hd : MemInv d) (q n) : MemInv (advance q n d) := by
  induction n generalizing d with
  | zero => exact hd
  | succ n ih => grind [advance, autoHead_memInv, Answers]

theorem headStep_memInv {d : Dev} (hd : MemInv d) (q) : Answers MemInv (headStep q d) := by
  unfold headStep
  split
  · exact answers_none
  · split
    · exact answers_none
    split
    · exact answers_ite (loadElem_memInv hd _ _) (answers_ite answers_none (storeElem_memInv hd _ _))
    · exact answers_ite (atomWrite_memInv hd _) (atomPerform_memInv hd _ _)
    · exact placeReads_memInv hd _ _
    · exact placeReads_memInv hd _ _
    · exact autoHead_memInv hd _

theorem performAll_memInv {d : Dev} (hd : MemInv d) (q n) : MemInv (performAll q n d) := by
  induction n generalizing d with
  | zero => exact hd
  | succ n ih => grind [performAll, headStep_memInv, Answers]

theorem dropSpent_memInv {d : Dev} (hd : MemInv d) (q) : MemInv (Op.dropSpent q d) := modLcl_memInv (modSeq_memInv hd ..) ..

theorem abandon_memInv {d : Dev} (hd : MemInv d) (q) : MemInv (abandon q d) := modSeq_memInv (gput_memInv (settle_memInv (memInv_with hd)) ..) ..

theorem leaderStep_memInv {d : Dev} (hd : MemInv d) (q) : MemInv (leaderStep q d) :=
    ite_memInv (abandon_memInv (performAll_memInv (landAll_memInv hd ..) ..) _) (performAll_memInv (landAll_memInv hd ..) ..)

theorem stopCores_memInv {d : Dev} (hd : MemInv d) : MemInv (stopCores d) := settle_memInv (memInv_with hd)

theorem switchBack_memInv {d : Dev} (hd : MemInv d) : MemInv (switchBack d) := by
  unfold switchBack
  split
  · exact hd
  · exact ite_memInv (memInv_with (stopCores_memInv hd)) (modSeq_memInv (memInv_with (stopCores_memInv hd)) ..)

theorem touchCode_memInv {d : Dev} (hd : MemInv d) (q h) : MemInv (touchCode q h d) := by
  refine foldl_memInv (fun _ _ hd => ?_) hd _
  split
  · exact touch_memInv hd _
  · exact hd

theorem preempt_memInv {d : Dev} (hd : MemInv d) (l) : MemInv (preempt d l) := by
  unfold preempt
  split
  · exact hd
  · exact modLaunch_memInv (foldl_memInv (fun _ _ hd => modUnit_memInv hd ..) (foldl_memInv (fun _ _ hd => modSeq_memInv hd ..) hd _) _) ..

theorem orderStep_memInv {f} {d : Dev} (hf : ∀ d, MemInv d → Answers MemInv (f d)) (hd : MemInv d) (q) : Answers MemInv (orderStep q f d) := by
  grind [orderStep, advance_memInv, switchBack_memInv, answers_some, answers_none, answers_map, answers_or]

theorem farStep_memInv {d : Dev} (hd : MemInv d) (q k fits) : Answers MemInv (farStep q k fits d) := by
  unfold farStep
  extract_lets
  split
  · exact answers_none
  · exact answers_ite answers_none (answers_some (perform_memInv (modSeq_memInv hd ..) _))

theorem wake_memInv {d : Dev} (hd : MemInv d) (q fits) : Answers MemInv (wake q fits d) := by
  unfold wake
  extract_lets
  split
  · exact answers_none
  · split
    · exact answers_none
    split
    · exact answers_ite (answers_some (setSeq_memInv hd ..)) answers_none
    · exact answers_none

end Sys2Proof.Proofs
end

section
/-! The matrix unit, its microprogram and the engines (R158, R163 to R187, R190, R195 to R211). -/

namespace Sys2Proof.Proofs

set_option Elab.async false

open Machine

theorem mldWrite_memInv {d : Dev} (hd : MemInv d) (q) : Answers MemInv (mldWrite q d) := by
  unfold mldWrite
  extract_lets
  split
  · exact answers_ite answers_none (answers_some (setSeq_memInv hd ..))
  · exact answers_none

theorem mgatFill_memInv {d : Dev} (hd : MemInv d) (q) : Answers MemInv (mgatFill q d) := by
  unfold mgatFill
  extract_lets
  split
  · exact answers_ite answers_none (answers_some (setSeq_memInv hd ..))
  · exact answers_none

theorem bothOf_memInv {f} {g} {d : Dev} (hf : ∀ d, MemInv d → Answers MemInv (f d)) (hg : ∀ d, MemInv d → Answers MemInv (g d)) (hd : MemInv d) :
    Answers MemInv (bothOf f g d) := by
  unfold bothOf
  split
  case h_1 e he => exact answers_some ((hg e (hf d hd e he)).getD (hf d hd e he))
  case h_2 => exact hg d hd

theorem fillRow_memInv {d : Dev} (hd : MemInv d) (q id r b psn) : MemInv (fillRow q id r b psn d) := settle_memInv (memInv_with hd)

theorem epiStep_memInv {d : Dev} (hd : MemInv d) (q) : Answers MemInv (epiStep q d) := by
  grind [epiStep, modSeq_memInv, fillRow_memInv, answers_some, answers_none, answers_or, Answers.getD]

theorem callEnd_memInv {d : Dev} (hd : MemInv d) (q c code) : Answers MemInv (callEnd q c code d) :=
    answers_ite (answers_some (setSeq_memInv hd ..)) (callArrive_memInv hd _ _ _)

theorem callWaits_memInv {d : Dev} (hd : MemInv d) (q l) : Answers MemInv (callWaits q l d) := by
  intro e he
  obtain ⟨c, -, hc⟩ := List.exists_of_findSome?_eq_some he
  cases c <;> grind [arriveRequest_memInv, Answers]

theorem discardQueue_memInv {d : Dev} (hd : MemInv d) (q l) : Answers MemInv (discardQueue q l d) := by
  induction l generalizing d with
  | nil => exact answers_some hd
  | cons a l ih => cases a <;> grind [discardQueue, callEnd_memInv, modSeq_memInv, answers_bind]

theorem callFault_memInv {d : Dev} (hd : MemInv d) (q cause code) : Answers MemInv (callFault q cause code d) := by
  grind [callFault, modSeq_memInv, callEnd_memInv, discardQueue_memInv, callWaits_memInv, answers_some, answers_none, answers_map, answers_bind,
      answers_or, Answers]

theorem setCall_memInv {d : Dev} (hd : MemInv d) (q c) : MemInv (setCall q c d) := hd

theorem microBlocked_memInv {d : Dev} (hd : MemInv d) (q) : Answers (Answers MemInv) (microBlocked q d) := by
  unfold microBlocked
  extract_lets
  split
  · exact answers_some answers_none
  · split
    · exact answers_some answers_none
    · exact answers_ite (answers_some (callFault_memInv hd _ _ _)) (answers_ite (answers_some (callFault_memInv hd _ _ _)) answers_none)

theorem engBytes_memInv {d : Dev} (hd : MemInv d) (c loc n) : MemInv (engBytes c loc n d).2 := by
  unfold engBytes
  extract_lets
  split
  · exact closeSplits_memInv hd ..
  · exact ite_memInv (closeSplits_memInv hd ..) (closeSplits_memInv hd ..)

theorem engReadPiece_memInv {d : Dev} (hd : MemInv d) (c va n) : EngInInv (engReadPiece c va n d) := by
  grind [engReadPiece, engBytes_memInv, touch_memInv, draw_memInv, traffic_memInv, drawBytes_memInv, requestPage_memInv, EngInInv, Inv]

theorem engRead_memInv {d : Dev} (hd : MemInv d) (c l l') : EngInInv (engRead c l l' d) := by
  induction l generalizing l' d with
  | nil => exact hd
  | cons a l ih => grind [engRead, engReadPiece_memInv, EngInInv]

theorem engDest_memInv {d : Dev} (hd : MemInv d) (c l n) : EngOutInv (engDest c l n d) := by
  induction l generalizing n with
  | nil => trivial
  | cons a l ih => grind [engDest, requestPage_memInv, EngOutInv]

theorem engZqBlock_memInv {d : Dev} (hd : MemInv d) (c dst rm sat codes scales sh) : Either EngInInv (fun r =>
    MemInv r.2) (engZqBlock c dst rm sat codes scales sh d) := by
  grind [engZqBlock, engRead_memInv, Answers.getD, Either, EngInInv]

theorem engZqRow_memInv {d : Dev} (hd : MemInv d) (c dst rm sat codes scales l n) : Either EngInInv (fun r =>
    MemInv r.2) (engZqRow c dst rm sat codes scales l n d) := by
  induction l generalizing n d with
  | nil => exact hd
  | cons a l ih => grind [engZqRow, engZqBlock_memInv, Either]

theorem engRow_memInv {d : Dev} (hd : MemInv d) (c) : Either EngInInv (fun r => MemInv r.2) (engRow c d) := by
  grind [engRow, engRead_memInv, engZqRow_memInv, Answers.getD, Either, EngInInv]

theorem fillBlock_memInv {d : Dev} (hd : MemInv d) (own c f) : MemInv (fillBlock own c f d).2 := modLcl_memInv (foldl_memInv (fun _ _ hd =>
    placeBytes_memInv hd ..) (memInv_with (ite_memInv (underRead_memInv hd ..) hd)) _) ..

theorem putRunning_memInv {d : Dev} (hd : MemInv d) (c e r) : MemInv (putRunning c e r d) := hd

theorem passStep_memInv {a : Pass} (ha : MemInv a.dev) (s t p q w) : Either (Either MemInv fun r => MemInv r.2) (fun b =>
    MemInv b.dev) (passStep s t p q w a) := by
  grind [passStep, engRead_memInv, engDest_memInv, Answers.getD, Either, EngInInv, EngOutInv]

theorem countBlock_memInv {d : Dev} (hd : MemInv d) (dev n cls p) : MemInv (countBlock dev n cls p d) := by
  unfold countBlock
  split
  · exact hd
  · exact modPortOf_memInv (draw_memInv hd) ..

theorem sendBlocks_memInv {d : Dev} (hd : MemInv d) (no r) : MemInv (sendBlocks no r d).2 := foldl_memInv (fun _ _ hd =>
    countBlock_memInv (memInv_with hd) ..) hd _

theorem joinCmd_memInv {d : Dev} (hd : MemInv d) (no r) : MemInv (joinCmd no r d).2 := by
  unfold joinCmd
  refine foldl_snd_memInv (fun x f hx => fillBlock_memInv hx _ _ _) ?_ _
  exact foldl_memInv (fun d w hd => placeBytes_memInv hd ..) hd _

theorem peerAtomic_memInv {d : Dev} (hd : MemInv d) (op loc n y y2 sc part) : Answers MemInv (peerAtomic op loc n y y2 sc part d) := by
  unfold peerAtomic
  split_ifs
  · exact answers_some (perform_memInv hd _)
  · split <;> grind [loadBytes_memInv, MemInv, answers_some, answers_none]
  · exact answers_map (P := fun _ => True) (fun _ _ => trivial) fun x _ => closeSplit_memInv hd x

end Sys2Proof.Proofs
end

section
/-! Near-data units beside their instructions (R281 to R308). -/

namespace Sys2Proof.Proofs

set_option Elab.async false

open Machine

theorem takeNearTrap_memInv {d : Dev} (hd : MemInv d) (u t) : MemInv (takeNearTrap d u t) :=
    placeBytes_memInv (now_memInv (holdItem_memInv (modLaunch_memInv (modUnit_memInv hd ..) ..) _)) ..

theorem replayNear_memInv {d : Dev} (hd : MemInv d) (u) : MemInv (replayNear d u) := hd

theorem unitBytes_memInv {d : Dev} (hd : MemInv d) (u loc n) : MemInv (unitBytes d u loc n).2 := by
  unfold unitBytes
  grind [closeSplits_memInv, MemInv]

theorem unitWrite_memInv {d : Dev} (hd : MemInv d) (u k loc l psn) : MemInv (unitWrite u k loc l psn d) := modUnit_memInv (touch_memInv hd _) ..

theorem publish_memInv {d : Dev} (hd : MemInv d) (u) : MemInv (publish u d) := foldl_memInv (fun _ _ hd =>
    placeBytes_memInv hd ..) (modUnit_memInv hd ..) _

theorem nearCycle_memInv {d : Dev} (hd : MemInv d) (u) : MemInv (nearCycle u d) := hd

end Sys2Proof.Proofs
end

section
/-! The life of a launch (R11 to R16, R93, R363 to R372). -/

namespace Sys2Proof.Proofs

set_option Elab.async false

open Machine

theorem putBlock_memInv {d : Dev} (hd : MemInv d) (ten m fofs) : MemInv (putBlock ten m fofs d) := gput_memInv (gput_memInv (gput_memInv hd ..) ..) ..

theorem putRix_memInv {d : Dev} (hd : MemInv d) (ten m) : MemInv (putRix ten m d) := gput_memInv hd ..

theorem putState_memInv {d : Dev} (hd : MemInv d) (ten m) : MemInv (putState ten m d) := gput_memInv hd ..

theorem streamFault_memInv {d : Dev} (hd : MemInv d) (ten m code tag) : MemInv (streamFault ten m code tag d) :=
    ite_memInv (putBlock_memInv (modStream_memInv hd ..) ..) (postEvent_memInv (putBlock_memInv (modStream_memInv hd ..) ..) ..)

theorem nextItem_memInv {d : Dev} (hd : MemInv d) (ten m) : MemInv (nextItem ten m d).2 := gput_memInv (modStream_memInv hd ..) ..

theorem endItem_memInv {d : Dev} (hd : MemInv d) (ten m n) : MemInv (endItem ten m n d) :=
    ite_memInv (modStream_memInv hd ..) (gput_memInv (modStream_memInv hd ..) ..)

theorem statWay_memInv {d : Dev} (hd : MemInv d) (ten stat) : Either MemInv (fun _ => True) (statWay d ten stat) := by
  unfold statWay
  split
  · exact trivial
  split
  · exact requestPage_memInv hd ..
  · exact hd
  · exact trivial

theorem endReplay_memInv {d : Dev} (hd : MemInv d) (k) : Answers MemInv (endReplay k d) := by
  unfold endReplay
  split
  · exact answers_none
  · split
    · exact answers_none
    split
    · exact answers_none
    · exact answers_some (endItem_memInv (memInv_with (putWay_memInv (now_memInv hd) ..)) ..)

theorem tryReplay_memInv {d : Dev} (hd : MemInv d) (k) : MemInv (tryReplay k d) := by
  grind [tryReplay, endReplay_memInv, statWay_memInv, Answers, Either]

theorem unpin_memInv {d : Dev} (hd : MemInv d) (l) : MemInv (unpin l d) := hd

theorem endLaunch_memInv {d : Dev} (hd : MemInv d) (l) : Answers MemInv (endLaunch l d) := by
  grind [endLaunch, unpin_memInv, tryReplay_memInv, postEvent_memInv, statWay_memInv, now_memInv, putWay_memInv, endItem_memInv, answers_some,
      answers_none, answers_map, Either, MemInv]

theorem retag_memInv {d : Dev} (hd : MemInv d) (a l) : MemInv (retag a l d) := hd

theorem tryEnd_memInv {d : Dev} (hd : MemInv d) (l) : MemInv (tryEnd l d) := by
  grind [tryEnd, endLaunch_memInv, statWay_memInv, Answers, Either]

theorem strayWrites_memInv {d : Dev} (hd : MemInv d) (own l) : MemInv (strayWrites own l d) := foldl_memInv (fun _ _ hd =>
    ite_memInv (placeBytes_memInv (memInv_with hd) ..) (memInv_with hd)) hd _

theorem stopSeq_memInv {d : Dev} (hd : MemInv d) (q) : MemInv (stopSeq d q) := modSeq_memInv (modLaunch_memInv (foldl_memInv (fun _ _ hd =>
    perform_memInv hd _) (settle_memInv (memInv_with hd)) _) ..) ..

theorem stopEngine_memInv {d : Dev} (hd : MemInv d) (l no e) : MemInv (stopEngine l no e d).2 := by
  unfold stopEngine
  extract_lets
  split
  · exact ite_snd_memInv (retag_memInv (strayWrites_memInv hd ..) ..) hd
  · exact hd

theorem stopEngines_memInv {d : Dev} (hd : MemInv d) (l c) : MemInv (stopEngines l d c) := foldl_memInv (fun _ _ hd =>
    modCluster_memInv (stopEngine_memInv hd ..) ..) hd _

theorem stopUnit_memInv {d : Dev} (hd : MemInv d) (u) : MemInv (stopUnit d u) := modUnit_memInv (strayWrites_memInv hd ..) ..

theorem killLaunch_memInv {d : Dev} (hd : MemInv d) (l status cause) : MemInv (killLaunch l status cause d) := by
  unfold killLaunch
  split
  · exact hd
  · split
    · exact hd
    split
    · exact tryEnd_memInv (modLaunch_memInv (foldl_memInv (fun _ _ hd => strayWrites_memInv hd ..) hd _) ..) _
    · exact modLaunch_memInv (foldl_memInv (fun _ _ hd => stopUnit_memInv hd _) (foldl_memInv (fun _ _ hd =>
        stopEngines_memInv hd ..) (foldl_memInv (fun _ _ hd => stopSeq_memInv hd _) hd _) _) _) ..

theorem killReplay_memInv {d : Dev} (hd : MemInv d) (status k) : MemInv (killReplay status k d) := by
  unfold killReplay
  split
  · exact hd
  · exact tryReplay_memInv (memInv_with hd) _

theorem killItem_memInv {d : Dev} (hd : MemInv d) (ten m n status) : MemInv (killItem ten m n status d) := foldl_memInv (fun _ _ hd =>
    killReplay_memInv hd ..) (foldl_memInv (fun _ _ hd => killLaunch_memInv hd ..) hd _) _

theorem killTenant_memInv {d : Dev} (hd : MemInv d) (ten status) : MemInv (killTenant ten status d) := foldl_memInv (fun _ _ hd =>
    killReplay_memInv hd ..) (foldl_memInv (fun _ _ hd => killLaunch_memInv hd ..) hd _) _

theorem killRefused_memInv {d : Dev} (hd : MemInv d) : MemInv (killRefused d) := ite_memInv hd (foldl_memInv (fun _ _ hd =>
    ite_memInv (killLaunch_memInv hd ..) hd) hd _)

theorem takeClusters_memInv {d : Dev} (hd : MemInv d) (l o a) : MemInv (takeClusters l o a d) := by
  unfold takeClusters
  split
  · exact hd
  · exact modLaunch_memInv (foldl_memInv (fun _ _ hd => foldl_memInv (fun _ _ hd1 =>
      setSeq_memInv hd1 ..) (ite_memInv (modCluster_memInv hd ..) hd) _) hd _) ..

theorem partStarts_memInv {d : Dev} (hd : MemInv d) (nb n n') : MemInv (partStarts nb n n' d).2 := by
  induction n generalizing n' d with
  | zero => exact hd
  | succ n ih => grind [partStarts, draw_memInv]

theorem takeUnit_memInv {d : Dev} (hd : MemInv d) (o l x u uid part pa plan hand) : MemInv (takeUnit o l x u uid part pa plan hand d) :=
    modLaunch_memInv (memInv_with hd) ..

theorem planLaunch_memInv {d : Dev} (hd : MemInv d) (o l x nb) : Answers (fun r => MemInv r.2) (planLaunch o l x nb d) := by
  unfold planLaunch
  extract_lets
  split
  · exact answers_none
  · exact answers_some (modLaunch_memInv (foldl_memInv (fun _ _ hd => takeUnit_memInv hd ..) (foldl_memInv (fun _ _ hd =>
      takeUnit_memInv hd ..) (foldl_memInv (fun _ _ hd =>
      tputBytes_memInv hd ..) (tputBytes_memInv (tputBytes_memInv (tputBytes_memInv (tputBytes_memInv (tputBytes_memInv (partStarts_memInv
      (draw_memInv (draw_memInv (draw_memInv hd))) ..) ..) ..) ..) ..) ..) _) _) _) ..)

theorem bandCount_memInv {d : Dev} (hd : MemInv d) (o x) : Either MemInv (fun _ => True) (bandCount d o x) := by
  unfold bandCount
  extract_lets
  split
  · exact trivial
  · exact requestPage_memInv hd ..
  · exact hd
  · exact trivial

theorem retakeUnits_memInv {d : Dev} (hd : MemInv d) (l x) : Answers MemInv (retakeUnits l x d) := by
  unfold retakeUnits
  refine foldlM_memInv (fun d e hd => ?_) (modLaunch_memInv hd _ _) _
  grind [modLaunch_memInv, answers_some, answers_none, MemInv]

theorem loadCode_memInv {d : Dev} (hd : MemInv d) (o x) : Either MemInv MemInv (loadCode o x d) := by
  unfold loadCode
  extract_lets
  split
  · exact requestPage_memInv hd ..
  · exact hd
  · exact tputBytes_memInv hd ..

theorem placeFirst_memInv {d : Dev} (hd : MemInv d) (o l x f) : Answers MemInv (placeFirst o l x f d) := by
  have hl := loadCode_memInv hd o x
  unfold placeFirst
  extract_lets take
  have htake : ∀ top {e : Dev}, MemInv e → Answers MemInv (take top e) := fun top e he => by
    refine answers_map (P := fun _ => True) (fun _ _ => trivial) fun r _ => modLaunch_memInv ?_ l _
    split
    · exact takeClusters_memInv he ..
    · exact he
  split
  case h_1 e he =>
    rw [he] at hl
    exact answers_some hl
  case h_2 e he =>
    rw [he] at hl
    have hb := bandCount_memInv hl o x
    split
    · exact htake _ hl
    · split
      case h_1 e' he' =>
        rw [he'] at hb
        exact answers_some hb
      case h_2 nb he' =>
        split
        · exact answers_some (killLaunch_memInv hd ..)
        · split
          · exact answers_some hd
          · split
            · exact answers_some (killLaunch_memInv hd ..)
            · exact answers_bind (planLaunch_memInv hl o l x nb) fun p hp => htake _ hp

theorem tryCandidate_memInv {b : Dev × List (Nat × Room)} (hb : MemInv b.1) (c) : MemInv (tryCandidate b c).1 := by
  obtain ⟨d, blocks⟩ := b
  obtain ⟨l, x⟩ := c
  grind [tryCandidate, killLaunch_memInv, retakeUnits_memInv, modLaunch_memInv, takeClusters_memInv, placeFirst_memInv, preempt_memInv,
      foldl_memInv, Answers]

theorem pass_memInv {d : Dev} (hd : MemInv d) : MemInv (Machine.pass d) := by
  unfold Machine.pass
  split
  · exact foldl_fst_memInv (fun b c hb => tryCandidate_memInv hb c) hd _
  · exact hd

theorem completed_memInv {d : Dev} (hd : MemInv d) (a) : MemInv (completed a d) := ite_memInv hd hd

theorem releaseGang_memInv {d : Dev} (hd : MemInv d) (x) : MemInv (releaseGang x d) := foldl_memInv (fun _ _ hd =>
    modUnit_memInv hd ..) (foldl_memInv (fun _ _ hd => modSeq_memInv hd ..) hd _) _

theorem replayBegins_memInv {d : Dev} (hd : MemInv d) (time k) : MemInv (replayBegins time k d) := by
  unfold replayBegins
  split
  · exact ite_memInv hd hd
  · exact hd

theorem deficits_memInv {d : Dev} (hd : MemInv d) : MemInv (deficits d) := foldl_memInv (fun _ _ hd => modTenant_memInv hd ..) hd _

theorem acknowledge_memInv {d : Dev} (hd : MemInv d) (a n ans) : MemInv (acknowledge a n ans d) := by
  grind [acknowledge, killLaunch_memInv, modSeq_memInv, putRunning_memInv]

theorem endStarved_memInv {d : Dev} (hd : MemInv d) (q) : MemInv (endStarved q d) :=
    ite_memInv hd (modLaunch_memInv (modSeq_memInv (settle_memInv (memInv_with hd)) ..) ..)

theorem leaveColumns_memInv {d : Dev} (hd : MemInv d) (l q) : MemInv (leaveColumns l d q) := hd

theorem contextFailed_memInv {d : Dev} (hd : MemInv d) (l) : MemInv (contextFailed l d) := killLaunch_memInv (launchEvent_memInv hd ..) ..

theorem putRecord_memInv {d : Dev} (hd : MemInv d) (loc n m marks) : MemInv (putRecord d loc n m marks) := lay_wf (Mem.wf_clear hd ..) ..

theorem writeRecords_memInv {d : Dev} (hd : MemInv d) (x ctx nctx) : MemInv (writeRecords x ctx nctx d) := by
  grind [writeRecords, putRecord_memInv, foldl_memInv, MemInv]

theorem saveLaunch_memInv {d : Dev} (hd : MemInv d) (l x) : MemInv (saveLaunch l x d) := by
  grind [saveLaunch, writeRecords_memInv, modCluster_memInv, retag_memInv, leaveColumns_memInv, modLaunch_memInv, foldl_memInv, MemInv]

theorem restoreSeq_memInv {d : Dev} (hd : MemInv d) (x q) : MemInv (restoreSeq x d q) := by
  unfold restoreSeq
  extract_lets
  split
  · exact hd
  · exact foldl_memInv (fun _ _ hd => ite_memInv (watchSet_memInv hd ..) hd) (setSeq_memInv hd ..) _

theorem missRecord_memInv {d : Dev} (hd : MemInv d) (a) : MemInv (missRecord a d) := by
  unfold missRecord
  extract_lets
  split
  · exact ite_memInv hd (writeRecord_memInv hd ..)
  · exact hd

theorem withAction_memInv {f} {d : Dev} (hf : ∀ w d, MemInv d → MemInv (f w d)) (hd : MemInv d) (a act kind) :
    Answers MemInv (withAction a act kind f d) := by
  grind [withAction, missRecord_memInv, completed_memInv, launchEvent_memInv, answers_some, answers_none]

theorem replayAgent_memInv {d : Dev} (hd : MemInv d) (a l cause count) : MemInv (replayAgent a l cause count d) := by
  grind [replayAgent, killRefused_memInv, modSeq_memInv, requestPage_memInv, killLaunch_memInv, replayNear_memInv, replaySeq_memInv, Answers]

theorem parkLaunch_memInv {d : Dev} (hd : MemInv d) (a l) : MemInv (parkLaunch a l d) := by
  unfold parkLaunch
  split
  · exact hd
  · exact pass_memInv (modLaunch_memInv (foldl_memInv (fun _ _ hd => modUnit_memInv hd ..) (foldl_memInv (fun _ _ hd =>
      modSeq_memInv hd ..) hd _) _) ..)

theorem releaseLaunch_memInv {d : Dev} (hd : MemInv d) (l) : MemInv (releaseLaunch l d) := by
  grind [releaseLaunch, modSeq_memInv, modUnit_memInv, modLaunch_memInv, replayAgent_memInv, pass_memInv, foldl_memInv]

end Sys2Proof.Proofs
end

section
/-! Pages and frames: a scrub drops bytes and leaves the others as they stand (R375 to R384). -/

namespace Sys2Proof.Proofs

set_option Elab.async false

open Machine

theorem dropEntries_memInv {d : Dev} (hd : MemInv d) (ten page) : MemInv (dropEntries ten page d) := hd

theorem dropUnmapped_memInv {d : Dev} (hd : MemInv d) (ten page) : MemInv (dropUnmapped ten page d) := hd

theorem dropRequest_memInv {d : Dev} (hd : MemInv d) (ten page) : MemInv (dropRequest ten page d) := hd

theorem refusePage_memInv {d : Dev} (hd : MemInv d) (ten page) : MemInv (refusePage ten page d) := killRefused_memInv (memInv_with hd)

theorem zeroRange_memInv {d : Dev} (hd : MemInv d) (base len) : MemInv (zeroRange base len d) := Mem.wf_drop hd ..

theorem ownFrames_memInv {d : Dev} (hd : MemInv d) (ten p n) : MemInv (ownFrames ten p n d) := by
  refine foldl_memInv (fun _ _ hd => ?_) hd _
  split
  · exact modFrame_memInv hd ..
  · exact hd

theorem demote_memInv {d : Dev} (hd : MemInv d) (step) : Answers MemInv (demote d step) := by
  unfold demote
  extract_lets
  split
  · exact answers_none
  split
  · exact answers_ite answers_none (answers_some (memInv_with hd))
  · exact answers_none

theorem promote_memInv {d : Dev} (hd : MemInv d) (l f h) : Answers MemInv (promote d l f h) := by
  unfold promote
  split
  · exact answers_none
  · exact answers_ite answers_none (answers_some (modFrame_memInv hd ..))

theorem dropUnits_memInv {d : Dev} (hd : MemInv d) (base len) : MemInv (dropUnits base len d) := hd

theorem dropFrameEntries_memInv {d : Dev} (hd : MemInv d) (f) : MemInv (dropFrameEntries f d) := hd

theorem dropLoose_memInv {d : Dev} (hd : MemInv d) (base len) : MemInv (dropLoose base len d) := hd

end Sys2Proof.Proofs
end

section
/-! Records of tenants and of the admin stream (R351 to R362). -/

namespace Sys2Proof.Proofs

set_option Elab.async false

open Machine

theorem takePast_memInv {d : Dev} (hd : MemInv d) (ten m len) : MemInv (takePast ten m len d) := putRix_memInv (modStream_memInv hd ..) ..

theorem withAddrs_memInv {d : Dev} {k : RecEnd} (hd : MemInv d) (hk : RecEndInv k) (ten l) : RecEndInv (withAddrs d ten l k) := by
  grind [withAddrs, RecEndInv]

theorem newLaunch_memInv {d : Dev} (hd : MemInv d) (secc x) : MemInv (newLaunch secc x d).2 := hd

theorem waitWord_memInv {d : Dev} (hd : MemInv d) (ten va) : Answers (fun r => MemInv r.2) (waitWord d ten va) := by
  unfold waitWord
  split
  case h_1 => exact answers_map (P := fun _ => True) (fun _ _ => trivial) fun _ _ => touch_memInv hd _
  case h_2 => exact answers_some (draw_memInv (traffic_memInv hd _))
  case h_3 => exact answers_none
  case h_4 => exact answers_none
  case h_5 => exact answers_some hd

theorem pagesHere_memInv {d : Dev} (hd : MemInv d) (ten ps wr) : Either MemInv (fun _ => True) (pagesHere ten ps d wr) := by
  induction ps with
  | nil => trivial
  | cons a l ih => grind [pagesHere, requestPage_memInv, Either]

theorem copyIn_memInv {d : Dev} (hd : MemInv d) (ten va n) : Either MemInv (fun r => MemInv r.2) (copyIn ten va n d) := by
  grind [copyIn, pagesHere_memInv, tgetBytes_memInv, Either]

theorem keepParms_memInv {d : Dev} (hd : MemInv d) (ten l) : MemInv (keepParms ten l d).2 := by
  unfold keepParms
  refine foldl_snd_memInv (x := (_, d)) (fun x b hx => ?_) hd _
  exact placeBytes_memInv (d := { x.2 with nextUnit := x.2.nextUnit + 1 }) hx ..

theorem copyParms_memInv {d : Dev} (hd : MemInv d) (ten va l) : Either MemInv (fun r => MemInv r.2) (copyParms ten va l d) := by
  induction l generalizing d with
  | nil => exact hd
  | cons n l ih =>
    have hc := copyIn_memInv hd ten (va + n.pofs) (64 * n.plen)
    unfold copyParms
    split
    case h_1 e he => rwa [he] at hc
    case h_2 b e he =>
      rw [he] at hc
      have := ih hc
      cases hr : copyParms ten va l e <;> rwa [hr] at this

theorem patchGraph_memInv {d : Dev} (hd : MemInv d) (ten r) : Answers MemInv (patchGraph ten r d) := by
  unfold patchGraph
  extract_lets
  split
  · exact answers_some hd
  · exact answers_ite answers_none (answers_some (memInv_with (keepParms_memInv hd ..)))

theorem resumeStopped_memInv {d : Dev} (hd : MemInv d) (q) : MemInv (resumeStopped q d) :=
    ite_memInv hd ((replaySeq_memInv hd _).getD (killLaunch_memInv hd ..))

theorem putStatus_memInv {d : Dev} (hd : MemInv d) (a v) : MemInv (putStatus a v d) := ite_memInv hd (gput_memInv hd ..)

theorem newContext_memInv {d : Dev} (hd : MemInv d) (ten) : MemInv (newContext ten d) := hd

theorem removeTenant_memInv {d : Dev} (hd : MemInv d) (ten) : MemInv (removeTenant ten d) := by
  grind [removeTenant, killTenant_memInv, putState_memInv, modStream_memInv, modTenant_memInv, newContext_memInv, foldl_memInv, MemInv]

theorem scrubThen_memInv {d : Dev} (hd : MemInv d) (stat l) : MemInv (scrubThen stat l d) := by
  unfold scrubThen
  split
  · exact hd
  split
  · exact putStatus_memInv hd ..
  · exact hd

end Sys2Proof.Proofs
end

section
/-! The fleet and the host link (R347 to R350, R409 to R421). -/

namespace Sys2Proof.Proofs

set_option Elab.async false

open Machine

theorem fleetEvent_memInv {d : Dev} (hd : MemInv d) (k) : MemInv (fleetEvent k d) := signalMsi_memInv (memInv_with hd) ..

theorem modDie_memInv {d : Dev} (hd : MemInv d) (k f) : MemInv (modDie k f d) := hd

theorem l2Switch_memInv {d : Dev} (hd : MemInv d) (k on) : MemInv (l2Switch k on d) := ite_memInv hd (fleetEvent_memInv (modDie_memInv hd ..) _)

theorem l2Upset_memInv {d : Dev} (hd : MemInv d) (k loc n bits) : MemInv (l2Upset k loc n bits d) :=
    ite_memInv hd (ite_memInv (modDie_memInv hd ..) (markPoison_memInv hd ..))

theorem lower_memInv {d : Dev} (hd : MemInv d) (k) : MemInv (lower k d) := hd

theorem readDie_memInv {d : Dev} (hd : MemInv d) (x k) : MemInv (readDie x d k) := by
  unfold readDie
  extract_lets
  split
  · exact l2Switch_memInv (modDie_memInv (ite_memInv (fleetEvent_memInv (ite_memInv (fleetEvent_memInv hd _) hd) _) (ite_memInv
      (fleetEvent_memInv hd _) hd)) ..) ..
  · exact modDie_memInv (ite_memInv (fleetEvent_memInv (ite_memInv (fleetEvent_memInv hd _) hd) _) (ite_memInv (fleetEvent_memInv hd _) hd)) ..

theorem railStep_memInv {d : Dev} (hd : MemInv d) (k) : MemInv (railStep d k) :=
    ite_memInv (modDie_memInv (l2Switch_memInv (draw_memInv hd) ..) ..) (draw_memInv hd)

theorem failPair_memInv {d : Dev} (hd : MemInv d) (k) : MemInv (failPair k d) :=
    ite_memInv (fleetEvent_memInv (memInv_with hd) _) (stopCores_memInv (fleetEvent_memInv (memInv_with hd) _))

theorem pfReg_memInv {d : Dev} (hd : MemInv d) (off) : MemInv (pfReg off d).2 := by
  unfold pfReg
  repeat' apply ite_snd_memInv
  all_goals exact hd

theorem vfReg_memInv {d : Dev} (hd : MemInv d) (ten off) : MemInv (vfReg ten off d).2 := ite_snd_memInv hd (ite_snd_memInv (now_memInv hd) hd)

theorem barWord_memInv {d : Dev} (hd : MemInv d) (fn off) : MemInv (barWord fn off d).2 :=
    ite_snd_memInv hd (ite_snd_memInv hd (ite_snd_memInv (pfReg_memInv hd _) (vfReg_memInv hd ..)))

theorem barBytes_memInv {d : Dev} (hd : MemInv d) (fn off n) : MemInv (barBytes fn off n d).2 := by
  unfold barBytes
  dsimp only
  exact foldl_snd_memInv (β := Bytes) (fun x k hx => barWord_memInv hx ..) hd _

theorem barWrite_memInv {d : Dev} (hd : MemInv d) (fn off b) : MemInv (barWrite fn d off b) :=
    ite_memInv hd (ite_memInv (sendMsi_memInv (memInv_with (memInv_with hd)) ..) (memInv_with hd))

end Sys2Proof.Proofs
end

section
/-! Records of tenants and of the admin stream (R351 to R362). -/

namespace Sys2Proof.Proofs

set_option Elab.async false

open Machine

theorem registerImage_memInv {d : Dev} (hd : MemInv d) (ten key stat b) : RecEndInv (registerImage ten key stat b d) := by
  grind [registerImage, tput_memInv, pagesHere_memInv, tputBytes_memInv, foldl_memInv, Either, RecEndInv, Inv, MemInv]

end Sys2Proof.Proofs
end

section
/-! Near-data units beside their instructions (R281 to R308). -/

namespace Sys2Proof.Proofs

set_option Elab.async false

open Machine

theorem modNearPort_memInv {d : Dev} (hd : MemInv d) (u p f) : MemInv (modNearPort u p f d) := hd

theorem readBitmap_memInv {d : Dev} (hd : MemInv d) (u k bm) : Answers MemInv (readBitmap u k bm d) := by
  unfold readBitmap
  extract_lets
  split
  · exact answers_none
  split
  · exact answers_some (modNearPort_memInv hd ..)
  · exact answers_none
  · split
    · exact answers_none
    · extract_lets
      split
      · exact answers_some (modNearPort_memInv hd ..)
      · split
        · exact answers_none
        split
        · exact answers_some (modNearPort_memInv hd ..)
        · exact answers_none
        · exact answers_some (modNearPort_memInv hd ..)

theorem drainBegin_memInv {d : Dev} (hd : MemInv d) (u) : MemInv (drainBegin u d) := hd

end Sys2Proof.Proofs
end

section
/-! Fetching (R84, R164, R281, R352 to R356). -/

namespace Sys2Proof.Proofs

set_option Elab.async false

open Machine

theorem fetchSlot_memInv {s : State} (hs : Inv s) (iss) : FetchedInv (fetchSlot iss s) := by
  grind [fetchSlot, finish_memInv, endBundle_memInv, FetchedInv, AbortInv]

theorem fetchMicro_memInv {s : State} (hs : Inv s) (q) : FetchedInv (fetchMicro q s) := by
  grind [fetchMicro, microBlocked_memInv, Answers, Answers.getD, FetchedInv, Inv]

theorem fetchRecord_memInv {s : State} (hs : Inv s) (ten m) : FetchedInv (fetchRecord ten m s) := by
  unfold fetchRecord
  extract_lets
  split
  · exact hs
  split
  · exact inv_dev hs (putState_memInv (modStream_memInv hs.1 ..) ..)
  split
  · exact hs
  split
  · exact inv_dev hs (streamFault_memInv hs.1 ..)
  split
  · exact inv_dev hs (streamFault_memInv hs.1 ..)
  split
  · exact inv_dev hs (streamFault_memInv hs.1 ..)
  split
  · exact inv_dev hs (streamFault_memInv hs.1 ..)
  split
  · exact hs
  split
  · exact inv_dev hs (streamFault_memInv hs.1 ..)
  · exact inv_dev hs hs.1

theorem nextPick_memInv {s : State} (hs : Inv s) : Answers (fun r => Inv r.2) (nextPick s) := by
  grind [nextPick, Answers, Inv]

end Sys2Proof.Proofs
end

section
/-! What a meaning that may end early leaves. -/

namespace Sys2Proof.Proofs

set_option Elab.async false

open Machine

section rules
variable {σ ε α β γ : Type} {I : σ → Prop} {E : ε → Prop}

/-- What a run leaves: the state of a run that completes, the reason of one that does not. -/
def Leaves (I : σ → Prop) (E : ε → Prop) : Except ε (α × σ) → Prop
  | .ok (_, y) => I y
  | .error e => E e

/-- A meaning that keeps an invariant of its state, and gives a reason with a property when it ends early. -/
structure Keeps (I : σ → Prop) (E : ε → Prop) (m : StateT σ (Except ε) α) : Prop where
  leaves : ∀ x, I x → Leaves I E (m x)

namespace Keeps

variable {m n : StateT σ (Except ε) α} {f : α → StateT σ (Except ε) β}

theorem pure (a : α) : Keeps I E (Pure.pure a) := ⟨fun _ h => h⟩

theorem modify {f : σ → σ} (h : ∀ x, I x → I (f x)) : Keeps I E (modify f) := ⟨h⟩

theorem bind (hm : Keeps I E m) (hf : ∀ a, Keeps I E (f a)) : Keeps I E (m >>= f) := by
  refine ⟨fun x h => ?_⟩
  have hx := hm.leaves x h
  show Leaves I E (m x >>= fun p => f p.1 p.2)
  cases hr : m x with
  | error e => rwa [hr] at hx
  | ok p =>
    rw [hr] at hx
    exact (hf p.1).leaves p.2 hx

/-- What follows a read of the state may lean on the invariant. -/
theorem get_bind {f : σ → StateT σ (Except ε) β} (hf : ∀ x, I x → Keeps I E (f x)) : Keeps I E (get >>= f) :=
  ⟨fun x h => (hf x h).leaves x h⟩

theorem ite {c : Prop} [Decidable c] (hm : Keeps I E m) (hn : Keeps I E n) : Keeps I E (if c then m else n) := by
  split
  · exact hm
  · exact hn

/-- A choice whose second branch is also the end of its first. -/
theorem when {c : Prop} [Decidable c] (hn : Keeps I E n) (hm : Keeps I E n → Keeps I E m) : Keeps I E (if c then m else n) := ite (hm hn) hn

/-- A choice whose first branch is also the end of its second. -/
theorem whenNot {c : Prop} [Decidable c] (hm : Keeps I E m) (hn : Keeps I E m → Keeps I E n) : Keeps I E (if c then m else n) := ite hm (hn hm)

theorem mapM {f : β → StateT σ (Except ε) α} (hf : ∀ b, Keeps I E (f b)) (l : List β) : Keeps I E (l.mapM f) := by
  induction l with
  | nil => exact pure _
  | cons b l ih =>
    rw [List.mapM_cons]
    exact (hf b).bind fun _ => ih.bind fun _ => pure _

theorem forM {f : β → StateT σ (Except ε) PUnit} (hf : ∀ b, Keeps I E (f b)) (l : List β) : Keeps I E (l.forM f) := by
  induction l with
  | nil => exact pure _
  | cons b l ih => exact (hf b).bind fun _ => ih

end Keeps

/-- What a meaning answers, when it completes, has a property. -/
structure Results (R : α → Prop) (m : StateT σ (Except ε) α) : Prop where
  gives : ∀ x a y, m x = .ok (a, y) → R a

namespace Results

variable {R : α → Prop}

theorem pure {a : α} (h : R a) : Results R (Pure.pure a : StateT σ (Except ε) α) := by
  refine ⟨fun x b y hm => ?_⟩
  obtain ⟨rfl, -⟩ := Prod.mk.inj (Except.ok.inj hm)
  exact h

theorem bind {m : StateT σ (Except ε) β} {f : β → StateT σ (Except ε) α} (hf : ∀ b, Results R (f b)) : Results R (m >>= f) := by
  refine ⟨fun x a y h => ?_⟩
  replace h : (m x >>= fun p => f p.1 p.2) = .ok (a, y) := h
  cases hr : m x with
  | error e => rw [hr] at h; cases h
  | ok p => rw [hr] at h; exact (hf p.1).gives _ _ _ h

theorem ite {c : Prop} [Decidable c] {m n : StateT σ (Except ε) α} (hm : Results R m) (hn : Results R n) : Results R (if c then m else n) := by
  split
  · exact hm
  · exact hn

theorem of_error {m : StateT σ (Except ε) α} {e : σ → ε} (h : ∀ x, m x = .error (e x)) : Results R m :=
  ⟨fun x _ _ hm => nomatch (h x).symm.trans hm⟩

end Results

/-- What follows a meaning may lean on the property of what it answers. -/
theorem Keeps.bind_results {R : α → Prop} {m : StateT σ (Except ε) α} {f : α → StateT σ (Except ε) β} (hm : Keeps I E m) (hr : Results R m)
    (hf : ∀ a, R a → Keeps I E (f a)) : Keeps I E (m >>= f) := by
  refine ⟨fun x h => ?_⟩
  have hx := hm.leaves x h
  show Leaves I E (m x >>= fun p => f p.1 p.2)
  cases he : m x with
  | error e => rwa [he] at hx
  | ok p =>
    rw [he] at hx
    exact (hf p.1 (hr.gives x p.1 p.2 he)).leaves p.2 hx

end rules

/-- The invariant of a bundle in progress: the device, and the device before it. -/
structure SlotInv (x : Slot) : Prop where
  dev : MemInv x.dev
  base : MemInv x.base

/-- A meaning of a slot that keeps the invariant. -/
abbrev SlotKeeps {α : Type} (m : SlotM α) : Prop := Keeps SlotInv AbortInv m

namespace Keeps.Slot

variable {α β : Type}

theorem abort {a : Abort} (h : AbortInv a) : SlotKeeps (Op.abort a : SlotM α) := ⟨fun _ _ => h⟩
theorem trapOf (t : TrapInfo) : SlotKeeps (Op.abort (.trap t) : SlotM α) := ⟨fun _ _ => trivial⟩
theorem hold (w : Option (Nat × Nat × Nat)) : SlotKeeps (Op.abort (.stall w) : SlotM α) := ⟨fun _ _ => trivial⟩
theorem expand (n : Nat) : SlotKeeps (Op.abort (.expand n) : SlotM α) := ⟨fun _ _ => trivial⟩
theorem event (k : Nat) (t : TrapInfo) (fired : Bool) : SlotKeeps (Op.abort (.event k t fired) : SlotM α) := ⟨fun _ _ => trivial⟩
theorem stall : SlotKeeps (Op.stall : SlotM α) := ⟨fun _ _ => trivial⟩
theorem trap (c : Cause) (l : List Nat) : SlotKeeps (Op.trap c l : SlotM α) := ⟨fun _ _ => trivial⟩
theorem me : SlotKeeps Op.me := ⟨fun _ h => h⟩
theorem sqid : SlotKeeps Op.sqid := ⟨fun _ h => h⟩
theorem word : SlotKeeps Op.word := ⟨fun _ h => h⟩
theorem slotNo : SlotKeeps Op.slotNo := ⟨fun _ h => h⟩
theorem dev_bind {f : Dev → SlotM β} (hf : ∀ d, MemInv d → SlotKeeps (f d)) : SlotKeeps (Op.dev >>= f) := ⟨fun x h => (hf x.dev h.dev).leaves x h⟩
theorem modMe (f : Seq → Seq) : SlotKeeps (Op.modMe f) := ⟨fun _ h => ⟨h.dev, h.base⟩⟩
theorem modIss (f : Issue → Issue) : SlotKeeps (Op.modIss f) := ⟨fun _ h => ⟨h.dev, h.base⟩⟩
theorem modDev {f : Dev → Dev} (hf : ∀ d, MemInv d → MemInv (f d)) : SlotKeeps (Op.modDev f) := ⟨fun _ h => ⟨hf _ h.dev, h.base⟩⟩

end Keeps.Slot

end Sys2Proof.Proofs
end

section
/-! The shared meanings of the slots' instructions: each is made of meanings that keep the invariant. -/

namespace Sys2Proof.Proofs.Keeps.Slot

open Machine

variable {α : Type}

theorem guard (m) : SlotKeeps (Op.guard m) := ite (bind me fun _ => bind slotNo fun _ => pure _) (pure _)

theorem enabled (m) : SlotKeeps (Op.enabled m) := bind (guard ..) fun _ => pure _

theorem trapAfter (m c code) : SlotKeeps (Op.trapAfter m c code) := bind (enabled ..) fun _ => ite (bind slotNo fun _ => modIss ..) (pure _)

theorem safePoint (hand k) : SlotKeeps (Op.safePoint hand k) := by
  refine get_bind fun x hx => bind slotNo fun i => ?_
  have hg := safeGate_memInv (landDue x.iss.q x.base) x.iss.q i
  split
  case h_1 a ha =>
    rw [ha] at hg
    exact abort hg
  case h_2 => exact modIss ..

theorem branchTo (t) : SlotKeeps (Op.branchTo t) := modIss ..

theorem branchIf (c t) : SlotKeeps (Op.branchIf c t) := ite (branchTo ..) (pure _)

theorem locate (view o j) : SlotKeeps (Op.locate view o j) := by
  refine bind slotNo fun _ => bind me fun _ => ?_
  split
  · exact pure _
  · exact trap ..

theorem pend (t n data en flags keep) : SlotKeeps (Op.pend t n data en flags keep) := modMe ..

theorem putPred (n lat v mask flags) : SlotKeeps (Op.putPred n lat v mask flags) := pend ..

theorem pop (q) : SlotKeeps (Op.pop q) := by
  refine bind me fun _ => ?_
  split
  · exact stall
  · split
    · exact trap ..
    · refine bind slotNo fun _ => ?_
      split
      · exact event ..
      · split
        · exact event ..
        · exact bind (modMe ..) fun _ => when (pure _) fun h0 => bind (putPred ..) fun _ => h0

theorem rdS (o) : SlotKeeps (Op.rdS o) := by
  refine bind (locate ..) fun _ => ?_
  split
  · exact bind (pop ..) fun _ => pure _
  · exact bind me fun _ => pure _

theorem check (ok c cont) : SlotKeeps (Op.check ok c cont) := ite (pure _) (trap ..)

theorem tableWord (h k) : SlotKeeps (Op.tableWord h k) := by
  refine get_bind fun _ _ => ?_
  extract_lets
  split
  · exact bind (modDev fun _ hd => touch_memInv hd ..) fun _ => pure _
  · exact pure _

theorem jumpTable : SlotKeeps Op.jumpTable := by
  refine bind me fun _ => ?_
  split
  · exact pure _
  · exact ite (pure _) (bind (tableWord ..) fun _ => mapM (fun _ => tableWord ..) _)

theorem jumpTo (v) : SlotKeeps (Op.jumpTo v) := by
  refine bind (check ..) fun _ => bind me fun _ => get_bind fun _ _ => ?_
  extract_lets _ rest
  have hrest : ∀ r, SlotKeeps (rest r) := fun _ => bind slotNo fun _ => modIss ..
  clear_value rest
  refine ite (bind (check ..) hrest) (bind jumpTable fun _ => bind (check ..) fun _ => ?_)
  split
  · exact bind (expand ..) hrest
  · exact when (when (hrest _) fun h => bind (check ..) fun _ => h) fun h => bind (expand ..) fun _ => h

theorem reserve (q) : SlotKeeps (Op.reserve q) := bind me fun _ => ite stall (bind (modMe ..) fun _ => pure _)

theorem target (view o) : SlotKeeps (Op.target view o) := by
  refine bind (locate ..) fun _ => ?_
  split
  · exact bind (reserve ..) fun _ => pure _
  · exact pure _

theorem put (t lat v en flags keep) : SlotKeeps (Op.put t lat v en flags keep) := by
  unfold Op.put
  split
  · exact pend ..
  · exact ite (pure _) (pend ..)

theorem putS (t lat v on) : SlotKeeps (Op.putS t lat v on) := by
  unfold Op.putS
  split <;> exact put ..

theorem loopStart (count nstg t) : SlotKeeps (Op.loopStart count nstg t) := bind me fun _ => bind (check ..) fun _ =>
    ite (branchTo ..) (bind (check ..) fun _ => get_bind fun _ _ => bind (pend ..) fun _ => ite (bind (pend ..) fun _ => modIss ..) (pure _))

theorem loopEnd (nstg) : SlotKeeps (Op.loopEnd nstg) := by
  refine bind me fun _ => ?_
  split
  · exact trap ..
  · exact ite (bind (pend ..) fun _ => when (branchTo ..) fun h0 => bind (pend ..) fun _ => bind (modIss ..) fun _ => h0) (bind (pend ..) fun _ =>
      ite (bind (pend ..) fun _ => modIss ..) (pure _))

theorem loopField (d n f) : SlotKeeps (Op.loopField d n f) := bind me fun _ => bind (target ..) fun _ => putS ..

theorem predResult (d v on) : SlotKeeps (Op.predResult d v on) := ite (putPred ..) (pure _)

theorem predLogic (d a b m f) : SlotKeeps (Op.predLogic d a b m f) := bind me fun _ => bind (enabled ..) fun _ => predResult ..

theorem compare (d a b m f) : SlotKeeps (Op.compare d a b m f) := bind (rdS ..) fun _ => bind (rdS ..) fun _ => bind (enabled ..) fun _ =>
    predResult ..

theorem scalar2 (lat d a b m f) : SlotKeeps (Op.scalar2 lat d a b m f) := bind (rdS ..) fun _ => bind (rdS ..) fun _ => bind (target ..) fun _ =>
    bind (enabled ..) fun _ => putS ..

theorem scalar1 (lat d a m f) : SlotKeeps (Op.scalar1 lat d a m f) := bind (rdS ..) fun _ => bind (target ..) fun _ => bind (enabled ..) fun _ =>
    putS ..

theorem setBase (k v on) : SlotKeeps (Op.setBase k v on) := ite (bind me fun _ => bind (check ..) fun _ => pend ..) (pure _)

theorem illegal : SlotKeeps (Op.illegal : SlotM α) := bind word fun _ => trap ..

theorem mapped : SlotKeeps Op.mapped := dev_bind fun _ _ => bind me fun _ => pure _

theorem footprint (l rd wr named) : SlotKeeps (Op.footprint l rd wr named) := by
  refine get_bind fun _ hx => bind slotNo fun _ => ?_
  extract_lets
  split
  · exact trap ..
  · refine ite (abort (a := .more _) (modSeq_memInv hx.base ..)) (ite (trap ..) ?_)
    split
    · exact trap ..
    · exact pure _

theorem notControl (w) : SlotKeeps (Op.notControl w) := bind me fun _ => ite (bind slotNo fun _ => trap ..) (pure _)

theorem checkStream (t w) : SlotKeeps (Op.checkStream t w) := bind sqid fun _ => bind (check ..) fun _ => when (bind mapped fun _ =>
    when (when (footprint ..) fun h0 => bind (check ..) fun _ => h0) fun h0 => bind (check ..) fun _ => h0) fun h0 => bind (notControl ..) fun _ => h0

theorem holdUnless (ok) : SlotKeeps (Op.holdUnless ok) := ite (pure _) stall

theorem orderNow (op) : SlotKeeps (Op.orderNow op) := bind sqid fun _ => bind (modMe ..) fun _ => modDev fun _ hd => advance_memInv hd ..

theorem inRegion : SlotKeeps Op.inRegion := bind me fun _ => pure _

theorem notInRegion : SlotKeeps Op.notInRegion := bind inRegion fun _ => ite (bind word fun _ => trap ..) (pure _)

theorem pushLoad (k e rp a b) : SlotKeeps (Op.pushLoad k e rp a b) := bind (rdS ..) fun _ => bind (rdS ..) fun _ => bind slotNo fun _ =>
    when (bind (checkStream ..) fun _ => bind me fun _ => bind (holdUnless ..) fun _ => ite (bind (modMe ..) fun _ =>
    orderNow ..) (pure _)) fun h0 => bind notInRegion fun _ => h0

theorem rgs : SlotKeeps Op.rgs := get_bind fun _ _ => pure _

theorem deferRoom : SlotKeeps Op.deferRoom := bind me fun _ => ite (bind rgs fun _ => check ..) (pure _)

theorem watch (l) : SlotKeeps (Op.watch l) := by
  refine bind me fun s => ?_
  dsimp only
  split
  · exact pure _
  · exact bind (modMe ..) fun _ => ite (modIss ..) (modMe ..)

theorem order (op) : SlotKeeps (Op.order op) := bind sqid fun _ => bind me fun _ => ite (bind (modMe ..) fun _ => modDev fun _ hd =>
    advance_memInv hd ..) (modMe ..)

theorem pushStore (k e a b) : SlotKeeps (Op.pushStore k e a b) := bind (rdS ..) fun _ => bind (rdS ..) fun _ => bind slotNo fun _ =>
    bind (checkStream ..) fun _ => bind inRegion fun _ => when (bind deferRoom fun _ => bind me fun _ => when (bind (watch ..) fun _ =>
    ite (bind (modMe ..) fun _ => bind (order ..) fun _ => modMe ..) (pure _)) fun h0 => bind me fun _ => bind (holdUnless ..) fun _ =>
    h0) fun h0 => bind rgs fun _ => bind (check ..) fun _ => h0

theorem rdRun (o j) : SlotKeeps (Op.rdRun o j) := by
  refine bind (locate ..) fun _ => ?_
  split
  · exact bind (pop ..) fun _ => pure _
  · exact bind me fun _ => pure _

theorem atomic (op sc d a wide ret) : SlotKeeps (Op.atomic op sc d a wide ret) := by
  refine bind (rdS ..) fun _ => ?_
  extract_lets rest
  have hrest : ∀ r, SlotKeeps (rest r) := fun _ =>
    bind (rdS ..) fun _ => bind slotNo fun _ =>
      when (bind (check ..) fun _ => bind (footprint ..) fun _ => bind deferRoom fun _ => bind inRegion fun _ =>
        when (bind (watch ..) fun _ => when (order ..) fun h => bind (modMe ..) fun _ => h) fun h => bind me fun _ => bind (holdUnless ..) fun _ => h)
      fun h => bind notInRegion fun _ => h
  clear_value rest
  exact ite (bind (rdRun ..) hrest) (bind (pure _) hrest)

theorem atPlace : SlotKeeps Op.atPlace := get_bind fun _ _ => bind (holdUnless ..) fun _ => bind (modDev fun _ hd =>
    performAll_memInv hd ..) fun _ => bind me fun _ => holdUnless ..

theorem waitOn (d va n met kind value) : SlotKeeps (Op.waitOn d va n met kind value) := by
  refine bind sqid fun q => ?_
  extract_lets done halfMet
  have hdone : ∀ v, SlotKeeps (done v) := fun _ => putPred ..
  have hhalf : ∀ v l, SlotKeeps (halfMet v l) := fun _ _ => bind me fun _ => ite (hdone _) (ite (hdone _) (hold ..))
  clear_value done halfMet
  refine bind me fun _ => bind (holdUnless ..) fun _ => dev_bind fun _ _ => ?_
  split
  · refine dev_bind fun _ _ => bind me fun _ => bind (holdUnless ..) fun _ => dev_bind fun _ hd => bind (modDev fun _ _ =>
      touch_memInv (loadBytes_memInv hd ..) _) fun _ => ?_
    split
    · exact hhalf ..
    · exact stall
  · exact dev_bind fun _ hd => bind (modDev fun _ _ => drawBytes_memInv (traffic_memInv hd _) _) fun _ => hhalf ..
  · exact stall
  · exact bind (modMe ..) fun _ => hdone _

theorem mwait (d a b m met kind) : SlotKeeps (Op.mwait d a b m met kind) := bind (rdS ..) fun _ => bind (rdS ..) fun _ => bind (enabled ..) fun _ =>
    ite (bind slotNo fun _ => bind (check ..) fun _ => bind (footprint ..) fun _ => bind atPlace fun _ => waitOn ..) (pure _)

theorem stashMap (empty k a b m) : SlotKeeps (Op.stashMap empty k a b m) := bind (rdS ..) fun _ => bind (rdS ..) fun _ => bind (enabled ..) fun _ =>
    ite (bind notInRegion fun _ => bind (notControl ..) fun _ => bind me fun _ => bind mapped fun _ => bind (check ..) fun _ =>
    bind (footprint ..) fun _ => order ..) (pure _)

theorem rdV (o) : SlotKeeps (Op.rdV o) := by
  refine bind (locate ..) fun _ => ?_
  split
  · exact pop ..
  · exact bind me fun _ => pure _

theorem counterGrant : SlotKeeps Op.counterGrant := dev_bind fun _ _ => bind sqid fun _ => bind me fun _ => check ..

theorem load32 (va) : SlotKeeps (Op.load32 va) := by
  refine bind sqid fun _ => bind slotNo fun _ => bind me fun _ => bind (holdUnless ..) fun _ => ?_
  extract_lets
  refine dev_bind fun _ _ => ?_
  split
  · refine dev_bind fun _ _ => bind me fun _ => bind (holdUnless ..) fun _ => get_bind fun _ _ => ?_
    extract_lets rest
    have hrest : ∀ r, SlotKeeps (rest r) := fun _ => by
      unfold rest
      split
      · exact when (pure _) fun h => bind (event ..) fun _ => h
      · split
        · exact trap ..
        · exact stall
    clear_value rest
    split
    · exact bind (trap ..) hrest
    · exact hrest _
  · refine dev_bind fun _ _ => ?_
    split
    · exact pure _
    · exact event ..
  · exact stall
  · exact pure _

/-- What a load does beside keeps the invariant (R162). -/
theorem load32_results (va) : Results (fun r => ∀ d, MemInv d → MemInv (r.2 d)) (Op.load32 va) := by
  refine .bind fun _ => .bind fun _ => .bind fun _ => .bind fun _ => ?_
  extract_lets
  refine .bind fun _ => ?_
  split
  · refine .bind fun _ => .bind fun _ => .bind fun _ => .bind fun _ => ?_
    extract_lets rest
    have hrest : ∀ r, Results (fun r => ∀ d, MemInv d → MemInv (r.2 d)) (rest r) := fun _ => by
      unfold rest
      split
      · exact .ite (.bind fun _ => .pure fun _ hd => touch_memInv (loadBytes_memInv hd ..) _) (.pure fun _ hd =>
          touch_memInv (loadBytes_memInv hd ..) _)
      · split
        · exact .bind fun _ => .of_error fun _ => rfl
        · exact .of_error fun _ => rfl
    clear_value rest
    split
    · exact .bind fun _ => hrest _
    · exact hrest _
  · refine .bind fun _ => ?_
    split
    · exact .pure fun _ hd => askPeer_memInv hd ..
    · exact .of_error fun _ => rfl
  · exact .of_error fun _ => rfl
  · exact .pure fun _ hd => modSeq_memInv hd ..

theorem read32 (va) : SlotKeeps (Op.read32 va) := bind_results (load32 va) (load32_results va) fun _ hf => bind (modDev hf) fun _ => pure _

theorem scaleLoad (t a) : SlotKeeps (Op.scaleLoad t a) := by
  refine bind (rdS ..) fun _ => bind slotNo fun _ => bind mapped fun _ => bind sqid fun _ => bind (check ..) fun _ => get_bind fun _ _ =>
      bind sqid fun _ => ?_
  extract_lets rest
  have hrest : ∀ r, SlotKeeps (rest r) := fun _ => bind atPlace fun _ => bind (read32 ..) fun _ => pend ..
  clear_value rest
  split
  · exact bind (trap ..) hrest
  · exact hrest _

theorem compareCheck (same cont) : SlotKeeps (Op.compareCheck same cont) := bind slotNo fun _ => bind me fun _ => bind (modMe ..) fun _ =>
    ite (event ..) (pure _)

theorem barrierAddr (va) : SlotKeeps (Op.barrierAddr va) := bind mapped fun _ => bind sqid fun _ => bind slotNo fun _ => check ..

theorem areaWords (a n) : SlotKeeps (Op.areaWords a n) := bind slotNo fun _ => bind me fun _ => bind (check ..) fun _ => bind (check ..) fun _ =>
    pure _

theorem command (e xf w prog bar) : SlotKeeps (Op.command e xf w prog bar) := when (bind deferRoom fun _ => bind me fun _ => bind sqid fun _ =>
    bind inRegion fun _ => ite (order ..) (bind sqid fun _ => dev_bind fun _ _ => bind (holdUnless ..) fun _ => bind (modMe ..) fun _ =>
    modDev fun _ hd => enqueue_memInv hd ..)) fun h0 => bind (barrierAddr ..) fun _ => h0

theorem readRun (va n k) : SlotKeeps (Op.readRun va n k) := by
  induction n generalizing k with
  | zero => exact pure _
  | succ n ih =>
    refine get_bind fun x hx => bind slotNo fun i => ?_
    extract_lets both rest piece
    have hboth : ∀ f : Dev → Dev, (∀ d, MemInv d → MemInv (f d)) → SlotKeeps (both f) := fun _ hf => modify fun _ h => ⟨hf _ h.dev, hf _ h.base⟩
    have hrest : ∀ l, SlotKeeps (rest l) := fun _ => bind (ih _) fun _ => pure _
    clear_value both rest
    have hpiece : ∀ r, SlotKeeps (piece r) := fun _ =>
      bind_results (load32 _) (load32_results _) fun _ hf => bind (hboth _ hf) fun _ => bind (pure _) hrest
    clear_value piece
    refine bind me fun _ => ?_
    split
    · exact bind (pure _) hrest
    · exact ite (bind (abort (a := .more _) hx.base) hpiece) (hpiece _)

theorem putLanes (t lat w on l) : SlotKeeps (Op.putLanes t lat w on l) := bind me fun _ => put ..

theorem lanes2 (lat w d a b m f) : SlotKeeps (Op.lanes2 lat w d a b m f) := bind (rdV ..) fun _ => bind (rdV ..) fun _ => bind (target ..) fun _ =>
    bind (guard ..) fun _ => putLanes ..

theorem mode : SlotKeeps Op.mode := bind me fun _ => pure _

theorem float2 (f d a b m g) : SlotKeeps (Op.float2 f d a b m g) := bind mode fun _ => lanes2 ..

theorem float3 (f d a b m g) : SlotKeeps (Op.float3 f d a b m g) := bind mode fun _ => bind (rdV ..) fun _ => bind (rdV ..) fun _ =>
    bind (rdV ..) fun _ => bind (target ..) fun _ => bind (guard ..) fun _ => putLanes ..

theorem lanes1 (lat w d a m f) : SlotKeeps (Op.lanes1 lat w d a m f) := bind (rdV ..) fun _ => bind (target ..) fun _ => bind (guard ..) fun _ =>
    putLanes ..

theorem permute (w d a b m f) : SlotKeeps (Op.permute w d a b m f) := bind (rdV ..) fun _ => bind (rdV ..) fun _ => bind (target ..) fun _ =>
    bind (guard ..) fun _ => putLanes ..

theorem reduce (f lat d a m id comb) : SlotKeeps (Op.reduce f lat d a m id comb) := bind (rdV ..) fun _ => bind (target ..) fun _ =>
    bind (guard ..) fun _ => put ..

theorem reducePick (f d a m larger) : SlotKeeps (Op.reducePick f d a m larger) := by
  unfold Op.reducePick
  extract_lets
  split
  · exact reduce ..
  · split
    exact reduce ..

theorem putBits (p m l) : SlotKeeps (Op.putBits p m l) := bind (guard ..) fun _ => ite (putPred ..) (pure _)

theorem matrixQueue (c) : SlotKeeps (Op.matrixQueue c) := bind me fun _ => bind (holdUnless ..) fun _ => modMe ..

theorem matrixConfig (v) : SlotKeeps (Op.matrixConfig v : SlotM α) := bind slotNo fun _ => trap ..

theorem epiVector (v n) : SlotKeeps (Op.epiVector v n) := ite (pure _) (get_bind fun _ _ => bind me fun _ => bind (check ..) fun _ => pure _)

theorem beadIdle : SlotKeeps Op.beadIdle := bind me fun _ => check ..

theorem elemRun (a m) : SlotKeeps (Op.elemRun a m) := bind me fun _ => pure _

theorem modBead (f) : SlotKeeps (Op.modBead f) := modMe ..

theorem beadWave (g) : SlotKeeps (Op.beadWave g) := by
  refine bind me fun _ => bind (check ..) fun _ => bind (check ..) fun _ => ?_
  split
  · exact trap ..
  · exact ite (bind slotNo fun _ => event ..) (pure _)

end Sys2Proof.Proofs.Keeps.Slot
end

section
/-! What the meanings of the near-data instructions leave. -/

namespace Sys2Proof.Proofs

set_option Elab.async false

open Machine

/-- The invariant of an instruction of a unit in progress. -/
structure NearInv (x : NearCtx) : Prop where
  dev : MemInv x.dev
  base : MemInv x.base

/-- How an instruction of a unit ends without effect. -/
def NearEndInv : NearEnd → Prop
  | .trap _ => True
  | .hold d => MemInv d

/-- A meaning of a near-data instruction that keeps the invariant. -/
abbrev NearKeeps {α : Type} (m : NearM α) : Prop := Keeps NearInv NearEndInv m

namespace Keeps.Near

variable {α β : Type}

theorem me : NearKeeps NearOp.me := ⟨fun _ h => h⟩
theorem num : NearKeeps NearOp.num := ⟨fun _ h => h⟩
theorem modMe (f : Near → Near) : NearKeeps (NearOp.modMe f) := ⟨fun _ h => ⟨h.dev, h.base⟩⟩
theorem modDev {f : Dev → Dev} (hf : ∀ d, MemInv d → MemInv (f d)) : NearKeeps (NearOp.modDev f) := ⟨fun _ h => ⟨hf _ h.dev, h.base⟩⟩
theorem jump (w : Nat) : NearKeeps (NearOp.jump w) := ⟨fun _ h => ⟨h.dev, h.base⟩⟩
theorem trap (c : Cause) (l : List Nat) : NearKeeps (NearOp.trap c l : NearM α) := ⟨fun _ _ => trivial⟩
theorem stall : NearKeeps (NearOp.stall : NearM α) := ⟨fun _ h => h.base⟩
theorem hold {d : Dev} (h : MemInv d) : NearKeeps (throw (.hold d) : NearM α) := ⟨fun _ _ => h⟩

end Keeps.Near

end Sys2Proof.Proofs
end

section
/-! The shared meanings of the near-data instructions. -/

namespace Sys2Proof.Proofs.Keeps.Near

open Machine

variable {α : Type}

theorem allowed (wr l) : NearKeeps (NearOp.allowed wr l) := by
  refine get_bind fun _ _ => ?_
  split
  · exact trap ..
  · exact stall
  · exact pure _

theorem stallUnless (c) : NearKeeps (NearOp.stallUnless c) := ite (pure _) stall

theorem atPeer (va) : NearKeeps (NearOp.atPeer va) := get_bind fun _ _ => pure _

theorem resident (va wr) : NearKeeps (NearOp.resident va wr) := by
  refine get_bind fun _ hx => ?_
  split
  · exact pure _
  · exact hold (requestPage_memInv hx.base ..)
  · exact trap ..
  · exact stall

theorem read (va n) : NearKeeps (NearOp.read va n) := by
  refine bind me fun _ => bind me fun _ => bind (stallUnless ..) fun _ => bind (mapM (fun p => ?_) _) fun _ => pure _
  refine bind (atPeer ..) fun _ => ?_
  split
  · exact get_bind fun _ hx => bind (modDev fun _ _ => askPeer_memInv hx.dev ..) fun _ => pure _
  · refine bind (resident ..) fun loc => get_bind fun x hx => ?_
    have hb := unitBytes_memInv (touch_memInv hx.dev loc) x.u loc p.2
    split
    case h_1 l d hr =>
      rw [hr] at hb
      exact bind (modDev fun _ _ => hb) fun _ => pure _
    case h_2 => exact stall

theorem loadParison (va) : NearKeeps (NearOp.loadParison va) := by
  refine bind (allowed ..) fun _ => bind (read ..) fun _ => ?_
  split
  · exact trap ..
  · refine ite (pure _) (bind (allowed ..) fun _ => ?_)
    refine bind (read ..) fun _ => bind me fun _ => ite (pure _) ?_
    extract_lets
    split
    · exact trap ..
    · exact bind (modMe ..) fun _ => pure _

theorem startLoad (va) : NearKeeps (NearOp.startLoad va) := bind (loadParison ..) fun _ => ite (trap ..) (bind (modMe ..) fun _ => bind me fun _ =>
    jump ..)

theorem g (r) : NearKeeps (NearOp.g r) := bind me fun _ => pure _

theorem putG (r v p) : NearKeeps (NearOp.putG r v p) := ite (pure _) (modMe ..)

theorem scalar (d a b op) : NearKeeps (NearOp.scalar d a b op) := bind (g ..) fun _ => bind (g ..) fun _ => putG ..

theorem gClean (r) : NearKeeps (NearOp.gClean r) := bind (g ..) fun _ => ite (trap ..) (pure _)

theorem branch (a b o c) : NearKeeps (NearOp.branch a b o c) := bind (gClean ..) fun _ => bind (gClean ..) fun _ => bind me fun _ =>
    ite (jump ..) (pure _)

theorem lanes (r) : NearKeeps (NearOp.lanes r) := bind me fun _ => pure _

theorem mask (r) : NearKeeps (NearOp.mask r) := bind me fun _ => pure _

theorem putLanes (r l) : NearKeeps (NearOp.putLanes r l) := modMe ..

theorem flags (f) : NearKeeps (NearOp.flags f) := modMe ..

theorem guarded (d f l) : NearKeeps (NearOp.guarded d f l) := bind (mask ..) fun _ => bind (lanes ..) fun _ => bind (putLanes ..) fun _ => flags ..

theorem lanes2 (d a b f op) : NearKeeps (NearOp.lanes2 d a b f op) := bind (lanes ..) fun _ => bind (lanes ..) fun _ => guarded ..

theorem float2 (d a b f op) : NearKeeps (NearOp.float2 d a b f op) := lanes2 ..

theorem lanes1 (d a f op) : NearKeeps (NearOp.lanes1 d a f op) := bind (lanes ..) fun _ => guarded ..

theorem putMask (r v) : NearKeeps (NearOp.putMask r v) := ite (pure _) (modMe ..)

theorem compare (d a b f op) : NearKeeps (NearOp.compare d a b f op) := bind (mask ..) fun _ => bind (lanes ..) fun _ => bind (lanes ..) fun _ =>
    ite (trap ..) (ite (trap ..) (bind (mask ..) fun _ => bind (putMask ..) fun _ => flags ..))

theorem mask2 (d a b op) : NearKeeps (NearOp.mask2 d a b op) := bind (mask ..) fun _ => bind (mask ..) fun _ => putMask ..

theorem reduce (d a f res) : NearKeeps (NearOp.reduce d a f res) := bind (mask ..) fun _ => bind (lanes ..) fun _ => bind (putG ..) fun _ => flags ..

theorem port (p) : NearKeeps (NearOp.port p) := bind me fun _ => pure _

theorem portTrap (c p) : NearKeeps (NearOp.portTrap c p : NearM α) := by
  refine bind (port ..) fun _ => ?_
  split
  · exact trap ..
  · exact get_bind fun _ _ => trap ..

theorem modPort (p f) : NearKeeps (NearOp.modPort p f) := modMe ..

theorem portOk (p) : NearKeeps (NearOp.portOk p) := by
  refine bind (port ..) fun _ => ?_
  split
  · exact trap ..
  · exact trap ..
  · exact stallUnless ..

theorem pop (p n) : NearKeeps (NearOp.pop p n) := bind (portOk ..) fun _ => bind (port ..) fun _ => ite stall (bind (modPort ..) fun _ => pure _)

theorem popPair (a) : NearKeeps (NearOp.popPair a) := by
  refine bind (port ..) fun _ => ?_
  split
  · exact portTrap ..
  · exact portTrap ..
  · refine when ?_ fun h => bind (portOk ..) fun _ => h
    split
    · exact portTrap ..
    · extract_lets rest
      have hrest : ∀ l, NearKeeps (rest l) := fun _ => bind (modPort ..) fun _ => pure _
      clear_value rest
      exact ite (bind (pop ..) hrest) (bind (pure _) hrest)
  · exact ite (portTrap ..) (bind (pop ..) fun _ => bind (modPort ..) fun _ => pure _)

theorem illegal : NearKeeps (NearOp.illegal : NearM α) := bind me fun _ => trap ..

theorem popRead (p) : NearKeeps (NearOp.popRead p) := by
  refine bind (port ..) fun _ => ?_
  split
  · exact portTrap ..
  · exact ite (portTrap ..) (bind (pop ..) fun _ => bind (modPort ..) fun _ => pure _)
  · exact portTrap ..

theorem nextWrite : NearKeeps NearOp.nextWrite := bind me fun _ => bind (modMe ..) fun _ => pure _

theorem drained : NearKeeps NearOp.drained := bind me fun _ => get_bind fun _ _ => stallUnless ..

theorem safeCheck : NearKeeps NearOp.safeCheck := by
  refine bind drained fun _ => bind me fun _ => ?_
  split
  · exact trap ..
  · exact pure _

theorem takeRequests : NearKeeps NearOp.takeRequests := modMe ..

theorem rangesOf (k) : NearKeeps (NearOp.rangesOf k) := by
  refine get_bind fun _ _ => ?_
  extract_lets
  split
  · exact pure _
  · exact illegal

theorem sendPeer (p l) : NearKeeps (NearOp.sendPeer p l) := bind num fun _ => modDev fun _ hd => sendOut_memInv hd ..

theorem write (va l) : NearKeeps (NearOp.write va l) := by
  refine forM (fun e => bind (atPeer ..) fun _ => ?_) _
  split
  · exact sendPeer ..
  · exact bind (resident ..) fun _ => bind num fun _ => bind nextWrite fun _ => modDev fun _ hd => unitWrite_memInv hd ..

theorem saveParison (va k granted p) : NearKeeps (NearOp.saveParison va k granted p) := bind (rangesOf ..) fun _ => bind me fun _ =>
    when (write ..) fun h0 => bind (allowed ..) fun _ => h0

theorem complete (va seq) : NearKeeps (NearOp.complete va seq) := by
  refine bind drained fun _ => bind num fun _ => bind me fun _ => ?_
  extract_lets _ rest
  have hrest : ∀ r, NearKeeps (rest r) := fun _ => modMe ..
  clear_value rest
  refine bind (atPeer ..) fun _ => ?_
  split
  · exact bind (modDev fun _ hd => publish_memInv hd _) fun _ => bind (sendPeer ..) fun _ => bind (sendPeer ..) hrest
  · exact bind (resident ..) fun _ => bind (modDev fun _ hd => placeBytes_memInv (placeBytes_memInv (publish_memInv hd _) ..) ..) hrest

theorem handOver : NearKeeps NearOp.handOver := by
  refine bind safeCheck fun _ => bind me fun _ => bind num fun _ => bind (modMe ..) fun _ => ?_
  split
  · exact takeRequests
  · exact ite takeRequests (bind (saveParison ..) fun _ => bind (complete ..) fun _ => modMe ..)

theorem localRange (va n) : NearKeeps (NearOp.localRange va n) := get_bind fun _ _ => bind (stallUnless ..) fun _ => pure _

end Sys2Proof.Proofs.Keeps.Near
end

section
/-! What the steps of the device answer: from a state whose memory is in canonical form, such a state. -/

namespace Sys2Proof.Proofs

set_option Elab.async false

open Machine

/-- The state that a step answers, if it answers one, keeps the invariant. -/
def OutInv : Out → Prop
  | .next t => Inv t
  | _ => True

/-- An instruction that keeps the invariant. -/
def InstrKeeps (i : Instr) : Prop := ∀ s, Inv s → OutInv (exec i s)

theorem runSlot_inv {f : SlotM Unit} (hf : SlotKeeps f) {s : State} (hs : Inv s) : OutInv (runSlot f s) := by
  unfold runSlot
  split
  case h_1 => trivial
  case h_2 iss _ =>
    have h := hf.leaves { dev := s.dev, iss := iss, base := s.base } ⟨hs.1, hs.2⟩
    split
    case h_1 x hx =>
      rw [hx] at h
      exact nextSlot_memInv (inv_dev hs h.dev) _
    case h_2 a ha =>
      rw [ha] at h
      exact endBundle_memInv hs _ h

theorem nearRun_memInv {f : NearM Unit} (hf : NearKeeps f) {d : Dev} (hd : MemInv d) (u : Nat) : MemInv (nearRun f u d) := by
  have h := hf.leaves { dev := d, base := d, u := u, next := (d.unit u).pc + 1 } ⟨hd, hd⟩
  unfold nearRun
  split
  case h_1 x hx =>
    rw [hx] at h
    exact modUnit_memInv (nearCycle_memInv h.dev u) ..
  case h_2 e he =>
    rw [he] at h
    exact nearCycle_memInv h u
  case h_3 => exact takeNearTrap_memInv (nearCycle_memInv hd u) ..

theorem runNear_inv {f : NearM Unit} (hf : NearKeeps f) {s : State} (hs : Inv s) : OutInv (runNear f s) := by
  unfold runNear
  split
  · split
    · exact inv_dev hs (nearRun_memInv hf hs.1 _)
    · exact hs
  · trivial

/-- A step that is not a slot keeps the invariant when its change of the device does. -/
theorem runEvent_inv {f : Turn → Dev → Option Dev} (hf : ∀ t d, MemInv d → Answers MemInv (f t d)) {s : State} (hs : Inv s) : OutInv (runEvent s f) :=
  inv_dev hs ((hf s.turn s.dev hs.1).getD hs.1)

/-- A micro-operation (R168). -/
theorem runMicro_inv {f : Nat → Nat → Call → Dev → Option Dev} (hf : ∀ q w c d, MemInv d → Answers MemInv (f q w c d)) {s : State} (hs : Inv s) :
    OutInv (runMicro s f) := by
  unfold runMicro
  split
  · split
    · trivial
    · refine runEvent_inv (fun t d hd => ?_) hs
      split
      · exact hf _ _ _ _ hd
      · exact answers_none
  · trivial

theorem runGaffer_inv {f : Turn → Dev → Option Dev} (hf : ∀ t d, MemInv d → Answers MemInv (f t d)) {s : State} (hs : Inv s) :
    OutInv (runGaffer s f) := by
  refine runEvent_inv (fun t d hd => ?_) hs
  split
  · exact hf t d hd
  · exact answers_none

theorem runLeader_inv {f : Turn → Dev → Option Dev} (hf : ∀ t d, MemInv d → Answers MemInv (f t d)) {s : State} (hs : Inv s) :
    OutInv (runLeader s f) := by
  refine runGaffer_inv (fun t d hd => ?_) hs
  split
  · exact hf t d hd
  · exact answers_none

/-- A record (R353, R356). -/
theorem runRecord_inv {f : Nat → Nat → Rec → Dev → RecEnd} (hf : ∀ ten m r d, MemInv d → RecEndInv (f ten m r d)) {s : State} (hs : Inv s) :
    OutInv (runRecord s f) := by
  refine runLeader_inv (fun t d hd => ?_) hs
  split
  case h_1 ten m r =>
    have h := hf ten m r d hd
    split
    · exact answers_none
    · split
      case h_1 => exact answers_some (streamFault_memInv hd ..)
      case h_2 e he =>
        have he : MemInv e := by rwa [he] at h
        exact answers_some (pass_memInv (takePast_memInv he ..))
      case h_3 e he =>
        have he : MemInv e := by rwa [he] at h
        exact answers_some (putState_memInv (modStream_memInv he ..) ..)
      case h_4 e he =>
        have he : MemInv e := by rwa [he] at h
        exact answers_some (ite_memInv (modStream_memInv he ..) he)
  case h_2 => exact answers_none

theorem control_inv {f : Nat → Nat → Nat → Rec → Dev → Dev} (hf : ∀ ten m n r d, MemInv d → MemInv (f ten m n r d)) {s : State} (hs : Inv s) :
    OutInv (control s f) := by
  refine runRecord_inv (fun ten m r d hd => ?_) hs
  split
  · trivial
  · exact hf _ _ _ _ _ hd

theorem debugger_inv {f : Nat → Dev → Dev} (hf : ∀ q d, MemInv d → MemInv (f q d)) {s : State} (hs : Inv s) : OutInv (debugger s f) := by
  refine control_inv (fun ten m n r d hd => ?_) hs
  dsimp only
  split
  · exact hf _ _ hd
  · exact hd

theorem memRecord_inv {used : List (Nat × Nat)} {f : Nat → Nat → Rec → Dev → Except Nat RecEnd}
    (hf : ∀ ten stat r d, MemInv d → Either (fun _ => True) RecEndInv (f ten stat r d)) {s : State} (hs : Inv s) : OutInv (memRecord s used f) := by
  refine runRecord_inv (fun _ _ r d hd => ?_) hs
  extract_lets stat spare
  have h := hf (recNum r 9 1) stat r d hd
  clear_value spare
  split
  · trivial
  · split
    · trivial
    · split
      case h_1 e he =>
        rw [he] at h
        exact h
      case h_2 => exact putStatus_memInv hd ..

theorem fleetRecord_inv {used : List (Nat × Nat)} {f : Rec → Dev → Dev × Nat} (hf : ∀ r d, MemInv d → MemInv (f r d).1) {s : State} (hs : Inv s) :
    OutInv (fleetRecord s used f) := by
  refine runRecord_inv (fun _ _ r d hd => ?_) hs
  extract_lets stat spare
  clear_value spare
  split
  · trivial
  · split
    · trivial
    · exact putStatus_memInv (hf r d hd) ..

end Sys2Proof.Proofs
end

section
/-! An instruction keeps the invariant when its meaning does. -/

namespace Sys2Proof.Proofs

set_option Elab.async false

open Machine

/-- A slot's instruction. -/
theorem InstrKeeps.slot {i : Instr} {f : SlotM Unit} (hi : ∀ s, exec i s = runSlot f s) (hf : SlotKeeps f) : InstrKeeps i := by
  intro s hs
  rw [hi]
  exact runSlot_inv hf hs

/-- A near-data instruction. -/
theorem InstrKeeps.near {i : Instr} {f : NearM Unit} (hi : ∀ s, exec i s = runNear f s) (hf : NearKeeps f) : InstrKeeps i := by
  intro s hs
  rw [hi]
  exact runNear_inv hf hs

/-- The absent pages of a range are requested (R131). -/
theorem requestPages_memInv {d : Dev} (hd : MemInv d) (q ten : Nat) (l : List (Nat × Nat)) :
    MemInv (l.foldl (fun d p => match seqWay d q p.1 with
      | .absent .. => requestPage d ten p.1 false
      | _ => d) d) := by
  refine foldl_memInv (fun d p hd => ?_) hd l
  split
  · exact requestPage_memInv hd ..
  · exact hd

end Sys2Proof.Proofs
end

section
/-! The instructions of the slots. -/

namespace Sys2Proof.Proofs.Keeps.Slot

open Machine

/-- Control (R91 to R100). -/
theorem control_keep :
    (∀ n, InstrKeeps (.nop n))
    ∧ (∀ op ∈ [Instr.bkpt, .trap], ∀ c m, InstrKeeps (op c m))
    ∧ (∀ op ∈ [Instr.safe, .hopt], ∀ k, InstrKeeps (op k))
    ∧ (∀ op ∈ [Instr.brT, .brF], ∀ p l t, InstrKeeps (op p l t))
    ∧ (∀ op ∈ [Instr.brAny, .brNone, .brAll, .brNall], ∀ p t, InstrKeeps (op p t))
    ∧ (∀ op ∈ [Instr.jmp, .ret], ∀ a m, InstrKeeps (op a m))
    ∧ (∀ d a m, InstrKeeps (.call d a m))
    ∧ (∀ d n m, InstrKeeps (.jtab d n m))
    ∧ (∀ a n t, InstrKeeps (.loop a n t))
    ∧ (∀ c n t, InstrKeeps (.loopi c n t))
    ∧ (∀ n, InstrKeeps (.endl n))
    ∧ (∀ op ∈ [Instr.mvi, .mvtc], ∀ d n, InstrKeeps (op d n)) := by
  and_intros
  · exact fun n => .slot (f := Op.modIss fun x => { x with nop := n.toNat + 1 }) (fun _ => rfl) (modIss _)
  · simp only [List.forall_mem_cons, List.not_mem_nil, IsEmpty.forall_iff, implies_true, and_true]
    and_intros <;> exact fun _ _ => .slot (fun _ => rfl) (trapAfter ..)
  · simp only [List.forall_mem_cons, List.not_mem_nil, IsEmpty.forall_iff, implies_true, and_true]
    and_intros <;> exact fun _ => .slot (fun _ => rfl) (safePoint ..)
  · simp only [List.forall_mem_cons, List.not_mem_nil, IsEmpty.forall_iff, implies_true, and_true]
    and_intros <;> exact fun _ _ _ => .slot (fun _ => rfl) (bind me fun _ => branchIf ..)
  · simp only [List.forall_mem_cons, List.not_mem_nil, IsEmpty.forall_iff, implies_true, and_true]
    and_intros <;> exact fun _ _ => .slot (fun _ => rfl) (bind me fun _ => branchIf ..)
  · simp only [List.forall_mem_cons, List.not_mem_nil, IsEmpty.forall_iff, implies_true, and_true]
    and_intros <;> exact fun _ _ => .slot (fun _ => rfl) (bind (rdS ..) fun _ => bind (enabled ..) fun _ => ite (jumpTo ..) (pure _))
  · exact fun _ _ _ => .slot (fun _ => rfl) (bind (rdS ..) fun _ => bind me fun _ => bind (enabled ..) fun _ => bind (target ..) fun _ =>
      get_bind fun _ _ => bind (putS ..) fun _ => ite (jumpTo ..) (pure _))
  · intro _ _ _
    refine .slot (fun _ => rfl) ?_
    refine bind (enabled ..) fun _ => bind (target ..) fun _ => ite ?_ (putS ..)
    refine bind jumpTable fun _ => ?_
    split
    · exact putS ..
    · exact trap ..
  · exact fun _ _ _ => .slot (fun _ => rfl) (bind (rdS ..) fun _ => loopStart ..)
  · exact fun _ _ _ => .slot (fun _ => rfl) (loopStart ..)
  · exact fun _ => .slot (fun _ => rfl) (loopEnd ..)
  · simp only [List.forall_mem_cons, List.not_mem_nil, IsEmpty.forall_iff, implies_true, and_true]
    and_intros <;> exact fun _ _ => .slot (fun _ => rfl) (loopField ..)

/-- Predicates and stages (R101, R102). -/
theorem predicates_keep :
    (∀ op ∈ [Instr.pand, .por, .pxor, .pandn], ∀ d a b m, InstrKeeps (op d a b m))
    ∧ (∀ d a m, InstrKeeps (.pnot d a m))
    ∧ (∀ op ∈ [Instr.pfirst, .pfs], ∀ d a m, InstrKeeps (op d a m))
    ∧ (∀ d a m, InstrKeeps (.pst d a m))
    ∧ (∀ d a m, InstrKeeps (.spf d a m))
    ∧ (∀ a m, InstrKeeps (.stw a m))
    ∧ (∀ d m, InstrKeeps (.str d m)) := by
  and_intros
  · simp only [List.forall_mem_cons, List.not_mem_nil, IsEmpty.forall_iff, implies_true, and_true]
    and_intros <;> exact fun _ _ _ _ => .slot (fun _ => rfl) (predLogic ..)
  · exact fun _ _ _ => .slot (fun _ => rfl) (predLogic ..)
  · simp only [List.forall_mem_cons, List.not_mem_nil, IsEmpty.forall_iff, implies_true, and_true]
    and_intros <;> exact fun _ _ _ => .slot (fun _ => rfl) (bind (rdS ..) fun _ => bind (enabled ..) fun _ => predResult ..)
  · exact fun _ _ _ => .slot (fun _ => rfl) (bind me fun _ => get_bind fun _ _ => bind (enabled ..) fun _ => predResult ..)
  · exact fun _ _ _ => .slot (fun _ => rfl) (bind (target ..) fun _ => bind me fun _ => bind (enabled ..) fun _ => putS ..)
  · exact fun _ _ => .slot (fun _ => rfl) (bind (rdS ..) fun _ => bind (enabled ..) fun _ => ite (pend ..) (pure _))
  · exact fun _ _ => .slot (fun _ => rfl) (bind (target ..) fun _ => bind me fun _ => bind (enabled ..) fun _ => putS ..)

/-- Scalars (R103 to R107). -/
theorem scalars_keep :
    (∀ op ∈ [Instr.ceq, .cne, .clt, .cle, .cltu, .cleu, .ctst], ∀ d a b m, InstrKeeps (op d a b m))
    ∧ (∀ op ∈ [Instr.add, .sub, .mul, .mulh, .mulhu, .and, .or, .xor, .andn, .shl, .shr, .sar, .min, .max, .minu, .maxu, .div, .divu, .rem, .remu],
        ∀ d a b m, InstrKeeps (op d a b m))
    ∧ (∀ op ∈ [Instr.addi, .andi, .ori], ∀ d a i, InstrKeeps (op d a i))
    ∧ (∀ op ∈ [Instr.shli, .shri, .sari], ∀ d a n, InstrKeeps (op d a n))
    ∧ (∀ d i, InstrKeeps (.movi d i))
    ∧ (∀ d h c, InstrKeeps (.lui d h c))
    ∧ (∀ op ∈ [Instr.clz, .popc, .ctz], ∀ d a m, InstrKeeps (op d a m)) := by
  and_intros
  · simp only [List.forall_mem_cons, List.not_mem_nil, IsEmpty.forall_iff, implies_true, and_true]
    and_intros <;> exact fun _ _ _ _ => .slot (fun _ => rfl) (compare ..)
  · simp only [List.forall_mem_cons, List.not_mem_nil, IsEmpty.forall_iff, implies_true, and_true]
    and_intros <;> exact fun _ _ _ _ => .slot (fun _ => rfl) (scalar2 ..)
  · simp only [List.forall_mem_cons, List.not_mem_nil, IsEmpty.forall_iff, implies_true, and_true]
    and_intros <;> exact fun _ _ _ => .slot (fun _ => rfl) (scalar1 ..)
  · simp only [List.forall_mem_cons, List.not_mem_nil, IsEmpty.forall_iff, implies_true, and_true]
    and_intros <;> exact fun _ _ _ => .slot (fun _ => rfl) (scalar1 ..)
  · exact fun _ _ => .slot (fun _ => rfl) (bind (target ..) fun _ => putS ..)
  · exact fun _ _ _ => .slot (fun _ => rfl) (scalar1 ..)
  · simp only [List.forall_mem_cons, List.not_mem_nil, IsEmpty.forall_iff, implies_true, and_true]
    and_intros <;> exact fun _ _ _ => .slot (fun _ => rfl) (scalar1 ..)

/-- Views, bases and system registers (R108, R109). -/
theorem views_keep :
    (∀ k a m, InstrKeeps (.setb k a m))
    ∧ (∀ k i m, InstrKeeps (.setbi k i m))
    ∧ (∀ k a m, InstrKeeps (.setv k a m))
    ∧ (∀ d r m, InstrKeeps (.rdsr d r m))
    ∧ (∀ a r m, InstrKeeps (.wrsr a r m)) := by
  and_intros
  · exact fun _ _ _ => .slot (fun _ => rfl) (bind (rdS ..) fun _ => bind (enabled ..) fun _ => setBase ..)
  · exact fun _ _ _ => .slot (fun _ => rfl) (bind (enabled ..) fun _ => setBase ..)
  · intro _ _ _
    refine .slot (fun _ => rfl) ?_
    refine bind (rdS ..) fun _ => bind (enabled ..) fun _ => ite ?_ (pure _)
    refine bind me fun _ => ?_
    split
    · exact trap ..
    · exact trap ..
    · exact bind (check ..) fun _ => pend ..
  · exact fun _ _ _ => .slot (fun _ => rfl) (bind me fun _ => when (bind (enabled ..) fun _ => when (bind (target ..) fun _ => bind sqid fun _ =>
      dev_bind fun _ _ => putS ..) fun h0 => bind (check ..) fun _ => bind (check ..) fun _ => h0) fun h0 => bind illegal fun _ => h0)
  · intro _ _ _
    refine .slot (fun _ => rfl) ?_
    refine bind me fun _ => ?_
    extract_lets
    split
    · exact illegal
    · exact illegal
    · exact bind (rdS ..) fun _ => bind (enabled ..) fun _ => ite (bind (check ..) fun _ => dev_bind fun _ _ => when (pend ..) fun h1 =>
        bind illegal fun _ => h1) (pure _)

/-- Streams, atomics, waits and maps (R111 to R134). -/
theorem streams_keep :
    (∀ op ∈ [Instr.ld, .ldCnt, .ldFe, .ldFec], ∀ e p a b, InstrKeeps (op e p a b))
    ∧ (∀ op ∈ [Instr.st, .stCf, .stFf, .stFs], ∀ e a b, InstrKeeps (op e a b))
    ∧ (∀ op ∈ [Instr.aswap, .aadd, .aand, .aor, .axor, .amin, .amax, .aminu, .amaxu, .acas], ∀ d a sc w n, InstrKeeps (op d a sc w n))
    ∧ (∀ sc m, InstrKeeps (.fence sc m))
    ∧ (∀ op ∈ [Instr.mwaitNe, .mwaitGeu], ∀ d a b m, InstrKeeps (op d a b m))
    ∧ (∀ a b m, InstrKeeps (.preq a b m))
    ∧ (∀ op ∈ [Instr.smap, .smape], ∀ k a b m, InstrKeeps (op k a b m))
    ∧ (∀ a b m, InstrKeeps (.cinc a b m))
    ∧ (∀ a m, InstrKeeps (.csnap a m)) := by
  and_intros
  · simp only [List.forall_mem_cons, List.not_mem_nil, IsEmpty.forall_iff, implies_true, and_true]
    and_intros <;> exact fun _ _ _ _ => .slot (fun _ => rfl) (pushLoad ..)
  · simp only [List.forall_mem_cons, List.not_mem_nil, IsEmpty.forall_iff, implies_true, and_true]
    and_intros <;> exact fun _ _ _ => .slot (fun _ => rfl) (pushStore ..)
  · simp only [List.forall_mem_cons, List.not_mem_nil, IsEmpty.forall_iff, implies_true, and_true]
    and_intros <;> exact fun _ _ _ _ _ => .slot (fun _ => rfl) (atomic ..)
  · exact fun _ _ => .slot (fun _ => rfl) (bind (enabled ..) fun _ => ite (orderNow ..) (pure _))
  · simp only [List.forall_mem_cons, List.not_mem_nil, IsEmpty.forall_iff, implies_true, and_true]
    and_intros <;> exact fun _ _ _ _ => .slot (fun _ => rfl) (mwait ..)
  · exact fun _ _ _ => .slot (fun _ => rfl) (bind (rdS ..) fun _ => bind (rdS ..) fun _ => bind (enabled ..) fun _ =>
  ite (bind slotNo fun _ => bind (check ..) fun _ => bind (footprint ..) fun _ => bind sqid fun _ => bind me fun _ => modDev fun _ hd =>
      requestPages_memInv hd ..) (pure _))
  · simp only [List.forall_mem_cons, List.not_mem_nil, IsEmpty.forall_iff, implies_true, and_true]
    and_intros <;> exact fun _ _ _ _ => .slot (fun _ => rfl) (stashMap ..)
  · intro _ _ _
    refine .slot (fun _ => rfl) ?_
    refine bind (rdV ..) fun _ => bind (rdS ..) fun _ => bind (guard ..) fun _ => ite ?_ (pure _)
    refine bind counterGrant fun _ => ?_
    extract_lets
    split
    · exact trap ..
    · exact bind deferRoom fun _ => order ..
  · exact fun _ _ => .slot (fun _ => rfl) (bind (rdS ..) fun _ => bind (enabled ..) fun _ => ite (bind counterGrant fun _ => bind slotNo fun _ =>
      bind (check ..) fun _ => bind (footprint ..) fun _ => bind deferRoom fun _ => bind (watch ..) fun _ => bind slotNo fun _ => order ..) (pure _))

/-- Scale loads, regions, checks, barriers and commands (R161, R192 to R210, R231 to R239, R338). -/
theorem regions_keep :
    (∀ op ∈ [Instr.ldkS, .ldkH], ∀ d a, InstrKeeps (op d a))
    ∧ (∀ a, InstrKeeps (.ldkt a))
    ∧ (∀ n, InstrKeeps (.rbegin n))
    ∧ (∀ a, InstrKeeps (.rkeep a))
    ∧ (∀ a b m, InstrKeeps (.chk a b m))
    ∧ (∀ a b m, InstrKeeps (.chkv a b m))
    ∧ (∀ a b m, InstrKeeps (.binit a b m))
    ∧ (∀ a b m, InstrKeeps (.barr a b m))
    ∧ (∀ d a b m, InstrKeeps (.bwait d a b m))
    ∧ (∀ e a b m, InstrKeeps (.ecopy e a b m))
    ∧ (∀ d a b m, InstrKeeps (.exform d a b m))
    ∧ (∀ d a, InstrKeeps (.pld d a))
    ∧ (∀ d n, InstrKeeps (.pcur d n)) := by
  and_intros
  · simp only [List.forall_mem_cons, List.not_mem_nil, IsEmpty.forall_iff, implies_true, and_true]
    and_intros <;> exact fun _ _ => .slot (fun _ => rfl) (scaleLoad ..)
  · exact fun _ => .slot (fun _ => rfl) (scaleLoad ..)
  · intro _
    refine .slot (fun _ => rfl) ?_
    refine bind me fun _ => get_bind fun _ _ => bind (check ..) fun _ => ?_
    split
    · exact trap ..
    · exact modMe ..
  · exact fun _ => .slot (fun _ => rfl) (bind (rdS ..) fun _ => bind me fun _ => bind (check ..) fun _ => bind (check ..) fun _ =>
      bind (check ..) fun _ => bind rgs fun _ => bind (check ..) fun _ => modMe ..)
  · exact fun _ _ _ => .slot (fun _ => rfl) (bind (rdS ..) fun _ => bind (rdS ..) fun _ => bind (enabled ..) fun _ => ite (compareCheck ..) (pure _))
  · exact fun _ _ _ => .slot (fun _ => rfl) (bind (rdV ..) fun _ => bind (rdV ..) fun _ => bind (enabled ..) fun _ => ite (compareCheck ..) (pure _))
  · exact fun _ _ _ => .slot (fun _ => rfl) (bind (rdS ..) fun _ => bind (rdS ..) fun _ => bind (enabled ..) fun _ =>
      ite (bind (barrierAddr ..) fun _ => bind slotNo fun _ => bind (check ..) fun _ => bind deferRoom fun _ => bind (watch ..) fun _ =>
      bind slotNo fun _ => order ..) (pure _))
  · exact fun _ _ _ => .slot (fun _ => rfl) (bind (rdS ..) fun _ => bind (rdS ..) fun _ => bind (enabled ..) fun _ =>
      ite (bind (barrierAddr ..) fun _ => bind deferRoom fun _ => bind (watch ..) fun _ => bind slotNo fun _ => order ..) (pure _))
  · exact fun _ _ _ _ => .slot (fun _ => rfl) (bind (rdS ..) fun _ => bind (rdS ..) fun _ => bind (enabled ..) fun _ =>
      ite (bind (barrierAddr ..) fun _ => bind atPlace fun _ => waitOn ..) (pure _))
  · intro _ _ _ _
    refine .slot (fun _ => rfl) ?_
    refine bind (rdS ..) fun _ => bind (rdS ..) fun _ => bind (enabled ..) fun _ => ite ?_ (pure _)
    refine bind (areaWords ..) fun _ => ?_
    split
    · exact bind slotNo fun _ => trap ..
    · exact command ..
  · intro _ _ _ _
    refine .slot (fun _ => rfl) ?_
    refine bind (rdS ..) fun _ => bind (rdS ..) fun _ => bind (rdS ..) fun _ => bind (enabled ..) fun _ => ite ?_ (pure _)
    refine bind (areaWords ..) fun _ => bind (areaWords ..) fun _ => ?_
    split
    · exact bind slotNo fun _ => trap ..
    · extract_lets
      split
      · exact bind slotNo fun _ => trap ..
      · exact command ..
  · intro _ _
    refine .slot (fun _ => rfl) ?_
    refine bind (rdRun ..) fun _ => bind (rdRun ..) fun _ => bind slotNo fun _ => get_bind fun _ _ => bind (check ..) fun _ =>
        bind notInRegion fun _ => bind (check ..) fun _ => bind (footprint ..) fun _ => bind (target ..) fun _ => bind atPlace fun _ =>
        bind (readRun ..) fun _ => bind me fun _ => ?_
    split
    · exact bind (footprint ..) fun _ => bind (readRun ..) fun _ => when (putS ..) fun h1 => bind (modIss ..) fun _ => bind (modMe ..) fun _ => h1
    · exact putS ..
  · exact fun _ _ => .slot (fun _ => rfl) (bind (target ..) fun _ => bind me fun _ => putS ..)

/-- Vectors (R139 to R152). -/
theorem vectors_keep :
    (∀ op ∈ [Instr.vadd, .vsub, .vadds, .vsubs, .vmul, .vmin, .vmax, .vfmin, .vfmax], ∀ f d a b m, InstrKeeps (op f d a b m))
    ∧ (∀ op ∈ [Instr.vand, .vor, .vxor, .vandn], ∀ d a b m, InstrKeeps (op d a b m))
    ∧ (∀ op ∈ [Instr.vshl, .vshr, .vsar], ∀ l d a b m, InstrKeeps (op l d a b m))
    ∧ (∀ op ∈ [Instr.vfadd, .vfsub, .vfmul], ∀ f d a b m, InstrKeeps (op f d a b m))
    ∧ (∀ op ∈ [Instr.vfma, .vfnms], ∀ f d a b m, InstrKeeps (op f d a b m))
    ∧ (∀ op ∈ [Instr.vrcp, .vrsqrt, .vexp2, .vlog2], ∀ d a m, InstrKeeps (op d a m))
    ∧ (∀ op ∈ [Instr.vfabsF64, .vfabsF32, .vfabsF16, .vfnegF64, .vfnegF32, .vfnegF16], ∀ d a m, InstrKeeps (op d a m))
    ∧ (∀ f d a src p m, InstrKeeps (.vcvt f d a src p m))
    ∧ (∀ op ∈ [Instr.vzqe, .vzqd], ∀ d a b m, InstrKeeps (op d a b m))
    ∧ (∀ op ∈ [Instr.vperm, .vilo, .vihi], ∀ l d a b m, InstrKeeps (op l d a b m))
    ∧ (∀ l d a m, InstrKeeps (.vbcast l d a m))
    ∧ (∀ f d a m, InstrKeeps (.vrsum f d a m))
    ∧ (∀ op ∈ [Instr.vrmax, .vrmin], ∀ f d a m, InstrKeeps (op f d a m))
    ∧ (∀ f c p a b m, InstrKeeps (.vcmp f c p a b m))
    ∧ (∀ f d a b, InstrKeeps (.vsel f d a b))
    ∧ (∀ l d a m, InstrKeeps (.vpmask l d a m))
    ∧ (∀ op ∈ [Instr.vpmsb, .vpnz], ∀ l d a m, InstrKeeps (op l d a m)) := by
  and_intros
  · simp only [List.forall_mem_cons, List.not_mem_nil, IsEmpty.forall_iff, implies_true, and_true]
    and_intros <;> exact fun _ _ _ _ _ => .slot (fun _ => rfl) (lanes2 ..)
  · simp only [List.forall_mem_cons, List.not_mem_nil, IsEmpty.forall_iff, implies_true, and_true]
    and_intros <;> exact fun _ _ _ _ => .slot (fun _ => rfl) (lanes2 ..)
  · simp only [List.forall_mem_cons, List.not_mem_nil, IsEmpty.forall_iff, implies_true, and_true]
    and_intros <;> exact fun _ _ _ _ _ => .slot (fun _ => rfl) (lanes2 ..)
  · simp only [List.forall_mem_cons, List.not_mem_nil, IsEmpty.forall_iff, implies_true, and_true]
    and_intros <;> exact fun _ _ _ _ _ => .slot (fun _ => rfl) (float2 ..)
  · simp only [List.forall_mem_cons, List.not_mem_nil, IsEmpty.forall_iff, implies_true, and_true]
    and_intros <;> exact fun _ _ _ _ _ => .slot (fun _ => rfl) (float3 ..)
  · simp only [List.forall_mem_cons, List.not_mem_nil, IsEmpty.forall_iff, implies_true, and_true]
    and_intros <;> exact fun _ _ _ => .slot (fun _ => rfl) (bind mode fun _ => lanes1 ..)
  · simp only [List.forall_mem_cons, List.not_mem_nil, IsEmpty.forall_iff, implies_true, and_true]
    and_intros <;> exact fun _ _ _ => .slot (fun _ => rfl) (lanes1 ..)
  · exact fun _ _ _ _ _ _ => .slot (fun _ => rfl) (bind mode fun _ => bind (rdV ..) fun _ => bind (target ..) fun _ => bind (guard ..) fun _ =>
      ite (putLanes ..) (putLanes ..))
  · simp only [List.forall_mem_cons, List.not_mem_nil, IsEmpty.forall_iff, implies_true, and_true]
    and_intros <;> exact fun _ _ _ _ => .slot (fun _ => rfl) (bind mode fun _ => bind (rdV ..) fun _ => bind (rdS ..) fun _ =>
        bind (target ..) fun _ => bind (guard ..) fun _ => bind me fun _ => putLanes ..)
  · simp only [List.forall_mem_cons, List.not_mem_nil, IsEmpty.forall_iff, implies_true, and_true]
    and_intros <;> exact fun _ _ _ _ _ => .slot (fun _ => rfl) (permute ..)
  · exact fun _ _ _ _ => .slot (fun _ => rfl) (bind (rdS ..) fun _ => bind (target ..) fun _ => bind (guard ..) fun _ => putLanes ..)
  · intro _ _ _ _
    refine .slot (fun _ => rfl) ?_
    refine bind mode fun _ => ?_
    split
    · extract_lets
      split <;> exact reduce ..
  · simp only [List.forall_mem_cons, List.not_mem_nil, IsEmpty.forall_iff, implies_true, and_true]
    and_intros <;> exact fun _ _ _ _ => .slot (fun _ => rfl) (reducePick ..)
  · exact fun _ _ _ _ _ _ => .slot (fun _ => rfl) (bind (rdV ..) fun _ => bind (rdV ..) fun _ => putBits ..)
  · exact fun _ _ _ _ => .slot (fun _ => rfl) (bind (guard ..) fun _ => bind (rdV ..) fun _ => bind (rdV ..) fun _ => bind (target ..) fun _ =>
      putLanes ..)
  · exact fun _ _ _ _ => .slot (fun _ => rfl) (bind me fun _ => bind (target ..) fun _ => bind (guard ..) fun _ => putLanes ..)
  · simp only [List.forall_mem_cons, List.not_mem_nil, IsEmpty.forall_iff, implies_true, and_true]
    and_intros <;> exact fun _ _ _ _ => .slot (fun _ => rfl) (bind (rdV ..) fun _ => putBits ..)

/-- The matrix unit and the bead array (R165 to R182, R215 to R226). -/
theorem matrix_keep :
    (∀ n m, InstrKeeps (.mcall n m))
    ∧ (∀ d a m, InstrKeeps (.mset d a m))
    ∧ (∀ d a m, InstrKeeps (.mget d a m))
    ∧ (∀ a b, InstrKeeps (.mld a b))
    ∧ (∀ j a, InstrKeeps (.mgat j a))
    ∧ (∀ a m, InstrKeeps (.epi a m))
    ∧ (∀ m, InstrKeeps (.rfree m))
    ∧ (∀ n, InstrKeeps (.rwait n))
    ∧ (∀ a b, InstrKeeps (.bload a b))
    ∧ (∀ n, InstrKeeps (.bmode n))
    ∧ (∀ i, InstrKeeps (.btwin i))
    ∧ (∀ a, InstrKeeps (.blnch a))
    ∧ (∀ d g, InstrKeeps (.bcap d g))
    ∧ (∀ d g k, InstrKeeps (.brank d g k))
    ∧ (∀ d, InstrKeeps (.bstat d))
    ∧ InstrKeeps .halt
    ∧ InstrKeeps .lpop
    ∧ InstrKeeps .rend
    ∧ InstrKeeps .rwaitIdle
    ∧ InstrKeeps .brst := by
  and_intros
  · exact fun _ _ => .slot (fun _ => rfl) (bind (enabled ..) fun _ => ite (bind me fun _ => bind (check ..) fun _ =>
      when (when (bind inRegion fun _ => when (get_bind fun _ _ => bind slotNo fun _ => bind (matrixQueue ..) fun _ =>
      ite (order ..) (modMe ..)) fun h0 => bind deferRoom fun _ => h0) fun h0 => bind (matrixConfig ..) fun _ => h0) fun h0 =>
      bind (matrixConfig ..) fun _ => h0) (pure _))
  · exact fun _ _ _ => .slot (fun _ => rfl) (bind (rdS ..) fun _ => bind (enabled ..) fun _ => ite (pend ..) (pure _))
  · exact fun _ _ _ => .slot (fun _ => rfl) (bind (target ..) fun _ => bind me fun _ => bind (enabled ..) fun _ => putS ..)
  · exact fun _ _ => .slot (fun _ => rfl) (bind (rdS ..) fun _ => bind (rdS ..) fun _ => bind slotNo fun _ => bind me fun _ =>
      when (bind (check ..) fun _ => bind (check ..) fun _ => bind (footprint ..) fun _ => bind (matrixQueue ..) fun _ => orderNow ..) fun h0 =>
      bind (matrixConfig ..) fun _ => h0)
  · intro _ _
    refine .slot (fun _ => rfl) ?_
    refine bind (rdRun ..) fun _ => bind (rdRun ..) fun _ => bind (rdRun ..) fun _ => bind slotNo fun _ => bind me fun _ => when ?_ fun h0 => ?_
    · refine when ?_ fun h0 => ?_
      · refine bind (check ..) fun _ => bind mapped fun _ => bind sqid fun _ => ?_
        extract_lets
        split
        · exact trap ..
        · exact bind (matrixQueue ..) fun _ => orderNow ..
      · exact bind (matrixConfig ..) fun _ => h0
    · exact bind (matrixConfig ..) fun _ => h0
  · exact fun _ _ => .slot (fun _ => rfl) (bind (rdRun ..) fun _ => bind (rdRun ..) fun _ => bind (rdRun ..) fun _ => bind (rdRun ..) fun _ =>
      bind (enabled ..) fun _ => ite (bind slotNo fun _ => bind me fun _ => when (when (when (bind (check ..) fun _ => bind (epiVector ..) fun _ =>
      bind (epiVector ..) fun _ => bind (footprint ..) fun _ => bind deferRoom fun _ => bind inRegion fun _ => when (bind (watch ..) fun _ =>
      order ..) fun h0 => bind me fun _ => bind (holdUnless ..) fun _ => bind (modMe ..) fun _ => h0) fun h0 => bind (matrixConfig ..) fun _ =>
      h0) fun h0 => bind (matrixConfig ..) fun _ => h0) fun h0 => bind (matrixConfig ..) fun _ => h0) (pure _))
  · exact fun _ => .slot (fun _ => rfl) (bind (enabled ..) fun _ => ite (bind deferRoom fun _ => bind me fun _ => order ..) (pure _))
  · exact fun _ => .slot (fun _ => rfl) (bind me fun _ => when (holdUnless ..) fun h0 => bind (matrixConfig ..) fun _ => h0)
  · exact fun _ _ => .slot (fun _ => rfl) (bind (rdS ..) fun _ => bind beadIdle fun _ => bind me fun _ => bind (check ..) fun _ =>
      bind (check ..) fun _ => bind (elemRun ..) fun _ => modBead ..)
  · exact fun _ => .slot (fun _ => rfl) (bind beadIdle fun _ => modBead ..)
  · exact fun _ => .slot (fun _ => rfl) (bind beadIdle fun _ => bind (check ..) fun _ => modBead ..)
  · exact fun _ => .slot (fun _ => rfl) (bind beadIdle fun _ => bind me fun _ => bind (modMe ..) fun _ => when (bind (elemRun ..) fun _ =>
      modBead ..) fun h0 => bind (modBead ..) fun _ => h0)
  · exact fun _ _ => .slot (fun _ => rfl) (bind (target ..) fun _ => bind (beadWave ..) fun _ => bind me fun _ => put ..)
  · exact fun _ _ _ => .slot (fun _ => rfl) (bind (target ..) fun _ => bind (beadWave ..) fun _ => bind me fun _ => put ..)
  · exact fun _ => .slot (fun _ => rfl) (bind (target ..) fun _ => bind me fun _ => putS ..)
  · exact .slot (fun _ => rfl) (bind me fun _ => bind (check ..) fun _ => modIss ..)
  · exact .slot (fun _ => rfl) (bind me fun _ => bind (check ..) fun _ => pend ..)
  · exact .slot (fun _ => rfl) (bind me fun _ => bind (check ..) fun _ => bind (modMe ..) fun _ => ite (bind sqid fun _ => bind (modDev fun _ hd =>
      dropSpent_memInv hd _) fun _ => bind (modIss ..) fun _ => modMe ..) (pure _))
  · exact .slot (fun _ => rfl) (bind me fun _ => holdUnless ..)
  · exact .slot (fun _ => rfl) (modBead ..)

end Sys2Proof.Proofs.Keeps.Slot
end

section
/-! The instructions of the near-data units. -/

namespace Sys2Proof.Proofs.Keeps.Near

open Machine

/-- Scalars and control (R287 to R290). -/
theorem nearScalars_keep :
    (∀ op ∈ [Instr.gadd, .gsub, .gmul, .gand, .gor, .gxor, .gshl, .gshr, .gsar, .gmin, .gmax, .gminu, .gmaxu], ∀ d a b, InstrKeeps (op d a b))
    ∧ (∀ d a i, InstrKeeps (.gaddi d a i))
    ∧ (∀ d i, InstrKeeps (.gmovi d i))
    ∧ (∀ d h c, InstrKeeps (.glui d h c))
    ∧ (∀ op ∈ [Instr.beq, .bne, .blt, .bge, .bltu, .bgeu], ∀ a b o, InstrKeeps (op a b o))
    ∧ (∀ o, InstrKeeps (.b o))
    ∧ (∀ d n, InstrKeeps (.gmvi d n))
    ∧ (∀ a o, InstrKeeps (.nloop a o)) := by
  and_intros
  · simp only [List.forall_mem_cons, List.not_mem_nil, IsEmpty.forall_iff, implies_true, and_true]
    and_intros <;> exact fun _ _ _ => .near (fun _ => rfl) (scalar ..)
  · exact fun _ _ _ => .near (fun _ => rfl) (bind (g ..) fun _ => putG ..)
  · exact fun _ _ => .near (fun _ => rfl) (putG ..)
  · exact fun _ _ _ => .near (fun _ => rfl) (bind (g ..) fun _ => putG ..)
  · simp only [List.forall_mem_cons, List.not_mem_nil, IsEmpty.forall_iff, implies_true, and_true]
    and_intros <;> exact fun _ _ _ => .near (fun _ => rfl) (branch ..)
  · exact fun _ => .near (fun _ => rfl) (branch ..)
  · exact fun _ _ => .near (fun _ => rfl) (bind me fun _ => putG ..)
  · exact fun _ _ => .near (fun _ => rfl) (bind (gClean ..) fun _ => bind me fun _ =>
      ite (trap ..) (when (ite (jump ..) (ite (trap ..) (modMe ..))) fun h0 => bind (modMe ..) fun _ => h0))

/-- Lanes and masks (R292 to R296). -/
theorem nearLanes_keep :
    (∀ op ∈ [Instr.nadd, .nsub, .nmul, .nmin, .nmax, .nminu, .nmaxu, .nand, .nor, .nxor, .nshl, .nshr, .nsar, .nfmin, .nfmax], ∀ d a b f,
        InstrKeeps (op d a b f))
    ∧ (∀ op ∈ [Instr.nfadd, .nfsub, .nfmul], ∀ d a b f, InstrKeeps (op d a b f))
    ∧ (∀ d a b f, InstrKeeps (.nfma d a b f))
    ∧ (∀ op ∈ [Instr.ncvtI32F32, .ncvtF32I32], ∀ d a f r, InstrKeeps (op d a f r))
    ∧ (∀ op ∈ [Instr.ncmpI32, .ncmpF32], ∀ c d a b f, InstrKeeps (op c d a b f))
    ∧ (∀ op ∈ [Instr.fAnd, .fOr, .fXor, .fAndn], ∀ d a b, InstrKeeps (op d a b))
    ∧ (∀ d a, InstrKeeps (.fNot d a))
    ∧ (∀ d a, InstrKeeps (.fSet d a))
    ∧ (∀ d a, InstrKeeps (.fGet d a))
    ∧ (∀ d a f, InstrKeeps (.nbcast d a f))
    ∧ (∀ d a l, InstrKeeps (.nget d a l))
    ∧ (∀ d a l, InstrKeeps (.nins d a l))
    ∧ (∀ d a f, InstrKeeps (.nmov d a f))
    ∧ (∀ op ∈ [Instr.nrsumI32, .nrsumF32, .nrmaxI32, .nrminI32, .nrmaxF32], ∀ d a f, InstrKeeps (op d a f)) := by
  and_intros
  · simp only [List.forall_mem_cons, List.not_mem_nil, IsEmpty.forall_iff, implies_true, and_true]
    and_intros <;> exact fun _ _ _ _ => .near (fun _ => rfl) (lanes2 ..)
  · simp only [List.forall_mem_cons, List.not_mem_nil, IsEmpty.forall_iff, implies_true, and_true]
    and_intros <;> exact fun _ _ _ _ => .near (fun _ => rfl) (float2 ..)
  · exact fun _ _ _ _ => .near (fun _ => rfl) (bind (lanes ..) fun _ => bind (lanes ..) fun _ => bind (lanes ..) fun _ => guarded ..)
  · simp only [List.forall_mem_cons, List.not_mem_nil, IsEmpty.forall_iff, implies_true, and_true]
    and_intros <;> exact fun _ _ _ _ => .near (fun _ => rfl) (lanes1 ..)
  · simp only [List.forall_mem_cons, List.not_mem_nil, IsEmpty.forall_iff, implies_true, and_true]
    and_intros <;> exact fun _ _ _ _ _ => .near (fun _ => rfl) (compare ..)
  · simp only [List.forall_mem_cons, List.not_mem_nil, IsEmpty.forall_iff, implies_true, and_true]
    and_intros <;> exact fun _ _ _ => .near (fun _ => rfl) (mask2 ..)
  · exact fun _ _ => .near (fun _ => rfl) (mask2 ..)
  · exact fun _ _ => .near (fun _ => rfl) (bind (gClean ..) fun _ => putMask ..)
  · exact fun _ _ => .near (fun _ => rfl) (bind (mask ..) fun _ => putG ..)
  · exact fun _ _ _ => .near (fun _ => rfl) (bind (g ..) fun _ => guarded ..)
  · exact fun _ _ _ => .near (fun _ => rfl) (bind (lanes ..) fun _ => putG ..)
  · exact fun _ _ _ => .near (fun _ => rfl) (bind (g ..) fun _ => bind (lanes ..) fun _ => putLanes ..)
  · exact fun _ _ _ => .near (fun _ => rfl) (lanes1 ..)
  · simp only [List.forall_mem_cons, List.not_mem_nil, IsEmpty.forall_iff, implies_true, and_true]
    and_intros <;> exact fun _ _ _ => .near (fun _ => rfl) (reduce ..)

/-- Ports and registers (R297 to R308). -/
theorem nearPorts_keep :
    (∀ t d a b f j z, InstrKeeps (.nmac t d a b f j z))
    ∧ (∀ d a b, InstrKeeps (.nsopen d a b))
    ∧ (∀ d a, InstrKeeps (.nld d a))
    ∧ (∀ d a f, InstrKeeps (.nst d a f))
    ∧ (∀ d r, InstrKeeps (.grsr d r))
    ∧ InstrKeeps .nhalt
    ∧ InstrKeeps .nendl
    ∧ InstrKeeps .nlpop
    ∧ InstrKeeps .nsafe
    ∧ InstrKeeps .ntrap
    ∧ InstrKeeps .ntab
    ∧ InstrKeeps .nbcp
    ∧ InstrKeeps .cwr
    ∧ InstrKeeps .npsave
    ∧ InstrKeeps .npload
    ∧ InstrKeeps .gwsr
    ∧ InstrKeeps .illegalInstruction
    ∧ InstrKeeps .endOfCode := by
  and_intros
  · exact fun _ _ _ _ _ _ _ => .near (fun _ => rfl) (bind (popPair ..) fun _ => bind me fun _ => bind (mask ..) fun _ => bind (lanes ..) fun _ =>
      bind (lanes ..) fun _ => bind (lanes ..) fun _ => bind (putLanes ..) fun _ => flags ..)
  · intro _ _ _
    refine .near (fun _ => rfl) ?_
    refine bind (gClean ..) fun _ => bind (gClean ..) fun _ => ite illegal (bind (port ..) fun _ => ite (portTrap ..) (ite (trap ..) ?_))
    extract_lets _ rest
    have hrest : ∀ bm, NearKeeps (rest bm) := fun _ => by
      refine bind (allowed ..) fun _ => get_bind fun _ _ => ?_
      split
      · exact bind me fun _ => bind (stallUnless ..) fun _ => modPort ..
      · refine bind (read ..) fun _ => ?_
        split
        · exact trap ..
        · exact bind (allowed ..) fun _ => bind me fun _ => bind (stallUnless ..) fun _ => modPort ..
    clear_value rest
    exact ite (bind (gClean ..) hrest) (bind (pure _) hrest)
  · exact fun _ _ => .near (fun _ => rfl) (bind (popRead ..) fun _ => putLanes ..)
  · intro _ _ _
    refine .near (fun _ => rfl) ?_
    refine bind (port ..) fun _ => ?_
    split
    · exact ite (portTrap ..) (bind (portOk ..) fun _ => bind (mask ..) fun _ => bind (lanes ..) fun _ => bind nextWrite fun _ =>
        bind (modPort ..) fun _ => flags ..)
    · exact portTrap ..
  · intro _ _
    refine .near (fun _ => rfl) ?_
    refine bind me fun _ => bind num fun _ => ?_
    split
    · exact putG ..
    · exact illegal
  · exact .near (fun _ => rfl) (bind drained fun _ => modMe ..)
  · refine .near (fun _ => rfl) ?_
    refine bind me fun _ => ?_
    split
    · exact trap ..
    · exact ite (modMe ..) (bind (modMe ..) fun _ => jump ..)
  · refine .near (fun _ => rfl) ?_
    refine bind me fun _ => ?_
    split
    · exact trap ..
    · exact modMe ..
  · exact .near (fun _ => rfl) (bind safeCheck fun _ => takeRequests)
  · exact .near (fun _ => rfl) (bind me fun _ => modify fun _ h => ⟨takeNearTrap_memInv (modUnit_memInv h.dev ..) .., h.base⟩)
  · exact .near (fun _ => rfl) (bind me fun _ => bind (popRead ..) fun _ => modMe ..)
  · exact .near (fun _ => rfl) (bind me fun _ => bind num fun _ => ite illegal (bind (gClean ..) fun _ => bind (gClean ..) fun _ =>
      bind (gClean ..) fun _ => ite (trap ..) (bind (localRange ..) fun _ => bind (localRange ..) fun _ =>
      ite (trap ..) (ite (pure _) (bind (stallUnless ..) fun _ => bind nextWrite fun _ => modMe ..)))))
  · exact .near (fun _ => rfl) (bind me fun _ => bind (gClean ..) fun _ => bind (gClean ..) fun _ => ite (trap ..) (bind (allowed ..) fun _ =>
      complete ..))
  · exact .near (fun _ => rfl) (bind me fun _ => bind num fun _ => bind (gClean ..) fun _ => ite (trap ..) (saveParison ..))
  · exact .near (fun _ => rfl) (bind me fun _ => bind (gClean ..) fun _ => ite (trap ..) (bind (loadParison ..) fun _ => putG ..))
  · exact .near (fun _ => rfl) (bind me fun _ => ite illegal (bind (g ..) fun _ => modMe ..))
  · exact .near (fun _ => rfl) (illegal)
  · exact .near (fun _ => rfl) (bind me fun _ => trap ..)

end Sys2Proof.Proofs.Keeps.Near
end

section
/-! Rules for the steps that no word encodes. -/

namespace Sys2Proof.Proofs

set_option Elab.async false

open Machine

/-- A program's passes over a row, one after the other (R209). -/
theorem passes_memInv {a : Pass} (ha : MemInv a.dev) (s t p q) (l : List Nat) :
    Either (Either MemInv fun r => MemInv r.2) (fun b => MemInv b.dev) (l.foldlM (fun a w => passStep s t p q w a) a) := by
  induction l generalizing a with
  | nil => exact ha
  | cons w l ih =>
    have hw := passStep_memInv ha s t p q w
    rw [List.foldlM_cons]
    cases h : passStep s t p q w a with
    | error e => rwa [h] at hw
    | ok b =>
      rw [h] at hw
      exact ih hw

end Sys2Proof.Proofs
end

section
/-! The steps of a sequencer that no word encodes. -/

namespace Sys2Proof.Proofs

set_option Elab.async false

open Machine

theorem execBundleIssue_inv {s : State} (hs : Inv s) : OutInv (execBundleIssue s) := by
  unfold execBundleIssue
  split
  case h_2 => exact hs
  case h_1 q _ _ =>
    have ha := advance_memInv hs.1 q (ordFuel (s.dev.seq q).ord)
    split
    · exact inv_dev hs (leaderStep_memInv hs.1 q)
    · extract_lets d
      split
      · exact inv_dev hs (switchBack_memInv ha)
      · exact issueBundle_memInv (inv_dev hs ha) q

theorem execSegmentExpansionComplete_inv {s : State} (hs : Inv s) : OutInv (execSegmentExpansionComplete s) := by
  refine runEvent_inv (fun t d hd => ?_) hs
  split
  · extract_lets x goal
    split
    · exact answers_none
    · exact answers_bind (P := fun _ => True) (fun _ _ => trivial) fun seg _ =>
        answers_map (P := fun _ => True) (fun _ _ => trivial) fun h _ => touchCode_memInv (setSeq_memInv hd ..) ..
  · exact answers_none

theorem execAsyncRequest_inv {s : State} (hs : Inv s) : OutInv (execAsyncRequest s) := by
  refine runEvent_inv (fun t d hd => ?_) hs
  split
  · extract_lets
    split
    · exact answers_none
    split
    · exact answers_ite (answers_some (preempt_memInv hd _)) answers_none
    · split
      · exact answers_none
      split
      · exact answers_ite answers_none (answers_some (modUnit_memInv hd ..))
      · exact answers_ite answers_none (answers_some (modSeq_memInv hd ..))
    · exact answers_ite answers_none (answers_some (modSeq_memInv hd ..))
  · exact answers_none

theorem execLoadElementPerform_inv {s : State} (hs : Inv s) : OutInv (execLoadElementPerform s) := by
  refine runEvent_inv (fun t d hd => ?_) hs
  split
  · split
    · exact farStep_memInv hd _ _ _
    · refine orderStep_memInv (fun d hd => ?_) hd _
      split
      case h_1 =>
        split
        case h_1 x _ =>
          split
          case isTrue => exact answers_none
          case isFalse =>
            split
            case h_1 e he => exact answers_some (loadElem_memInv hd _ x e he)
            case h_2 =>
              extract_lets
              split
              · split
                · exact answers_some (waitHead_memInv hd _)
                · exact answers_none
              · exact answers_none
        case h_2 => exact answers_none
      case h_2 => exact answers_none
  · exact answers_none

theorem execLoadEntryDeliver_inv {s : State} (hs : Inv s) : OutInv (execLoadEntryDeliver s) := by
  refine runEvent_inv (fun t d hd => ?_) hs
  split
  · extract_lets
    split
    · exact answers_none
    · exact answers_ite answers_none (answers_some (modSeq_memInv hd ..))
  · exact answers_none

theorem execStoreElementPerform_inv {s : State} (hs : Inv s) : OutInv (execStoreElementPerform s) := by
  refine runEvent_inv (fun t d hd => ?_) hs
  split
  · split
    case isTrue => exact sideStep_memInv hd _
    case isFalse =>
    split
    · exact farStep_memInv hd _ _ _
    · refine orderStep_memInv (fun d hd => ?_) hd _
      split
      case h_1 =>
        split
        case h_1 x _ =>
          split
          case isTrue => exact answers_none
          case isFalse =>
            split
            case h_1 e he => exact answers_some (storeElem_memInv hd _ x e he)
            case h_2 =>
              split
              · split
                · exact answers_some (waitHead_memInv hd _)
                · exact answers_none
              · exact answers_none
        case h_2 => exact answers_none
      case h_2 => exact answers_none
  · exact answers_none

theorem execStoreStreamResume_inv {s : State} (hs : Inv s) : OutInv (execStoreStreamResume s) := by
  refine runEvent_inv (fun t d hd => ?_) hs
  split
  · extract_lets
    split
    · exact answers_none
    · split
      · exact answers_none
      · exact answers_ite (orderStep_memInv (fun _ hd => headStep_memInv hd _) (setSeq_memInv hd ..) _) answers_none
  · exact answers_none

theorem execFullEmptyWaitEnd_inv {s : State} (hs : Inv s) : OutInv (execFullEmptyWaitEnd s) := by
  refine runEvent_inv (fun t d hd => ?_) hs
  split
  · split
    · exact answers_none
    · split
      · exact answers_ite answers_none (orderStep_memInv (fun _ hd => headStep_memInv hd _) (modSeq_memInv hd ..) _)
      · exact answers_none
  · exact answers_none

theorem execAtomicPerform_inv {s : State} (hs : Inv s) : OutInv (execAtomicPerform s) := by
  refine runEvent_inv (fun t d hd => ?_) hs
  split
  · split
    · exact farStep_memInv hd _ _ _
    · refine orderStep_memInv (fun _ hd => ?_) hd _
      split
      · split
        · split
          · exact answers_none
          · exact answers_ite (atomWrite_memInv hd _) (answers_ite (atomRead_memInv hd _ _) (atomPerform_memInv hd _ _))
        · exact answers_none
      · exact answers_none
  · exact answers_none

theorem execMwaitWake_inv {s : State} (hs : Inv s) : OutInv (execMwaitWake s) := by
  refine runEvent_inv (fun t d hd => ?_) hs
  split
  · exact wake_memInv hd _ _
  · exact answers_none

theorem execHostBiasMwaitPoll_inv {s : State} (hs : Inv s) : OutInv (execHostBiasMwaitPoll s) := by
  refine runEvent_inv (fun t d hd => ?_) hs
  split
  · exact wake_memInv hd _ _
  · exact answers_none

theorem execBwaitWake_inv {s : State} (hs : Inv s) : OutInv (execBwaitWake s) := by
  refine runEvent_inv (fun t d hd => ?_) hs
  split
  · exact wake_memInv hd _ _
  · exact answers_none

end Sys2Proof.Proofs
end

section
/-! The steps of the matrix unit. -/

namespace Sys2Proof.Proofs

set_option Elab.async false

open Machine

theorem execMldPerform_inv {s : State} (hs : Inv s) : OutInv (execMldPerform s) := by
  refine runEvent_inv (fun t d hd => ?_) hs
  split
  · split
    · exact bothOf_memInv (fun _ hd => orderStep_memInv (fun _ hd1 => placeReads_memInv hd1 _ _) hd _) (fun _ hd => mldWrite_memInv hd _) hd
    · exact answers_none
  · exact answers_none

theorem execMgatPerform_inv {s : State} (hs : Inv s) : OutInv (execMgatPerform s) := by
  refine runEvent_inv (fun t d hd => ?_) hs
  split
  · split
    · exact bothOf_memInv (fun _ hd => orderStep_memInv (fun _ hd1 => placeReads_memInv hd1 _ _) hd _) (fun _ hd => mgatFill_memInv hd _) hd
    · exact answers_none
  · exact answers_none

theorem execMatrixCallStart_inv {s : State} (hs : Inv s) : OutInv (execMatrixCallStart s) := by
  refine runEvent_inv (fun t d hd => ?_) hs
  split
  · extract_lets
    split
    · exact answers_ite (answers_some (setSeq_memInv hd ..)) answers_none
    · exact answers_none
  · exact answers_none

theorem execEpiPerform_inv {s : State} (hs : Inv s) : OutInv (execEpiPerform s) := by
  refine runEvent_inv (fun t d hd => ?_) hs
  split
  · exact answers_ite (epiStep_memInv hd _) answers_none
  · exact answers_none

theorem execRfreePerform_inv {s : State} (hs : Inv s) : OutInv (execRfreePerform s) := by
  refine runEvent_inv (fun t d hd => ?_) hs
  split
  · extract_lets
    split
    · exact answers_ite (answers_some (setSeq_memInv hd ..)) answers_none
    · exact answers_none
  · exact answers_none

end Sys2Proof.Proofs
end

section
/-! The micro-operations (R166 to R169). -/

namespace Sys2Proof.Proofs

set_option Elab.async false

open Machine

theorem execMmac_inv {s : State} (hs : Inv s) : OutInv (execMmac s) := by
  unfold execMmac
  refine runMicro_inv (fun q w c d hd => ?_) hs
  grind [callFault_memInv, setSeq_memInv, setCall_memInv, answers_some, answers_none, answers_map, Answers, Answers.getD]

theorem execMpub_inv {s : State} (hs : Inv s) : OutInv (execMpub s) := by
  refine runMicro_inv (fun q w c d hd => ?_) hs
  split
  · exact callFault_memInv hd _ _ _
  · exact answers_some (setCall_memInv (setSeq_memInv hd ..) ..)

theorem execMend_inv {s : State} (hs : Inv s) : OutInv (execMend s) := runMicro_inv (fun _ _ _ _ hd =>
    answers_or (answers_map (callEnd_memInv hd _ _ _) fun _ h0 => setSeq_memInv h0 ..) (callWaits_memInv hd _ _)) hs

theorem execMloop_inv {s : State} (hs : Inv s) : OutInv (execMloop s) := by
  refine runMicro_inv (fun q w c d hd => ?_) hs
  extract_lets
  split
  · exact callFault_memInv hd _ _ _
  split
  · exact callFault_memInv hd _ _ _
  · exact answers_ite (answers_some (setCall_memInv hd ..)) (answers_some (setCall_memInv hd ..))

theorem execMnext_inv {s : State} (hs : Inv s) : OutInv (execMnext s) := by
  refine runMicro_inv (fun q w c d hd => ?_) hs
  extract_lets
  split
  · exact callFault_memInv hd _ _ _
  · exact answers_ite (answers_some (setCall_memInv hd ..)) (answers_some (setCall_memInv hd ..))

theorem execMadd_inv {s : State} (hs : Inv s) : OutInv (execMadd s) := runMicro_inv (fun _ _ _ _ hd => answers_some (setCall_memInv hd ..)) hs

theorem execReservedMicroWord_inv {s : State} (hs : Inv s) : OutInv (execReservedMicroWord s) := by
  refine runEvent_inv (fun t d hd => ?_) hs
  split
  · exact answers_ite (callFault_memInv hd _ _ _) answers_none
  · exact answers_none

end Sys2Proof.Proofs
end

section
/-! The steps of the engines (R199 to R210). -/

namespace Sys2Proof.Proofs

set_option Elab.async false

open Machine

theorem execEngineCommandStart_inv {s : State} (hs : Inv s) : OutInv (execEngineCommandStart s) := by
  refine runEvent_inv (fun t d hd => ?_) hs
  split
  · extract_lets
    split
    · exact answers_none
    split
    · exact answers_none
    · exact answers_some (modCluster_memInv hd ..)
  · exact answers_none

theorem execCopyRow_inv {s : State} (hs : Inv s) : OutInv (execCopyRow s) := by
  unfold execCopyRow
  refine runEvent_inv (fun t d hd => ?_) hs
  cases t <;> grind [putRunning_memInv, engRow_memInv, engDest_memInv, answers_some, answers_none, answers_map, Answers, Answers.getD, Either,
      EngInInv, EngOutInv]

theorem execXformPass_inv {s : State} (hs : Inv s) : OutInv (execXformPass s) := by
  refine runEvent_inv (fun t d hd => ?_) hs
  split
  · split
    case h_1 => exact answers_none
    case h_2 r _ =>
      extract_lets src dst p q
      have hp := passes_memInv (a := { cmd := r, dev := d }) hd src dst p q r.prog
      split
      case h_1 e he => exact answers_some (by rwa [he] at hp)
      case h_2 x e he => 
        rw [he] at hp
        exact answers_some (putRunning_memInv hp ..)
      case h_3 a ha => 
        rw [ha] at hp
        exact answers_some (putRunning_memInv hp ..)
  · exact answers_none

theorem execEngineCommandComplete_inv {s : State} (hs : Inv s) : OutInv (execEngineCommandComplete s) := by
  refine runEvent_inv (fun t d hd => ?_) hs
  split
  · split
    · exact answers_none
    · split
      · exact answers_none
      split
      · exact answers_some (putRunning_memInv (sendBlocks_memInv hd ..) ..)
      split
      · exact answers_none
      · exact answers_or (arrive_memInv (joinCmd_memInv (putRunning_memInv hd ..) ..) _ _ _ _ _ _ _) (arriveRequest_memInv hd _ _ _)
  · exact answers_none

theorem execPortBlockReceive_inv {s : State} (hs : Inv s) : OutInv (execPortBlockReceive s) := by
  unfold execPortBlockReceive
  refine runEvent_inv (fun t d hd => ?_) hs
  grind [draw_memInv, modPortOf_memInv, placeBytes_memInv, requestPage_memInv, answers_some, answers_none, Answers]

theorem execPeerAccessArrival_inv {s : State} (hs : Inv s) : OutInv (execPeerAccessArrival s) := by
  refine runEvent_inv (fun t d hd => ?_) hs
  split
  · split
    · exact answers_none
    extract_lets
    split
    · exact answers_some (closeSplits_memInv (touch_memInv (traffic_memInv hd _) _) ..)
    · exact answers_some (placeBytes_memInv (traffic_memInv hd _) ..)
    · exact peerAtomic_memInv (traffic_memInv hd _) _ _ _ _ _ _ _
    · exact answers_some (requestPage_memInv (traffic_memInv hd _) ..)
    · exact answers_some (requestPage_memInv (traffic_memInv hd _) ..)
    · exact answers_none
  · exact answers_none

end Sys2Proof.Proofs
end

section
/-! The steps of launches. -/

namespace Sys2Proof.Proofs

set_option Elab.async false

open Machine

theorem execGangStart_inv {s : State} (hs : Inv s) : OutInv (execGangStart s) := by
  refine runLeader_inv (fun t d hd => ?_) hs
  split
  · split
    · exact answers_none
    · split
      · exact answers_none
      refine answers_some ?_
      split
      · exact replayBegins_memInv (modLaunch_memInv (releaseGang_memInv (now_memInv hd) _) ..) ..
      · exact modLaunch_memInv (releaseGang_memInv (now_memInv hd) _) ..
  · exact answers_none

theorem execTick10us_inv {s : State} (hs : Inv s) : OutInv (execTick10us s) := runGaffer_inv (fun _ _ hd =>
    answers_some (pass_memInv (deficits_memInv (foldl_memInv (fun _ _ hd => flushEvents_memInv hd ..) (foldl_memInv (fun _ _ hd =>
    tryReplay_memInv hd _) (killRefused_memInv hd) _) _)))) hs

theorem execCandidateBlockTimeout_inv {s : State} (hs : Inv s) : OutInv (execCandidateBlockTimeout s) := by
  refine runGaffer_inv (fun t d hd => ?_) hs
  split
  · split
    · exact answers_none
    · exact answers_ite answers_none (answers_some (pass_memInv (modLaunch_memInv (now_memInv hd) ..)))
  · exact answers_none

theorem execPeerWriteAck_inv {s : State} (hs : Inv s) : OutInv (execPeerWriteAck s) := by
  refine runEvent_inv (fun t d hd => ?_) hs
  split
  · split
    · exact answers_none
    · split
      · exact answers_none
      · exact answers_ite answers_none (answers_some (acknowledge_memInv (traffic_memInv (memInv_with hd) _) ..))
  · exact answers_none

theorem execSequencerEndReport_inv {s : State} (hs : Inv s) : OutInv (execSequencerEndReport s) := by
  refine runEvent_inv (fun t d hd => ?_) hs
  split
  · split
    · exact answers_none
    extract_lets
    split
    · exact answers_some (endStarved_memInv (advance_memInv hd ..) _)
    · exact answers_some (modSeq_memInv (modLaunch_memInv (endStarved_memInv (advance_memInv hd ..) _) ..) ..)
  · exact answers_none

theorem execClusterNodeZero_inv {s : State} (hs : Inv s) : OutInv (execClusterNodeZero s) := by
  unfold execClusterNodeZero
  refine runEvent_inv (fun t d hd => ?_) hs
  grind [leaveColumns_memInv, modCluster_memInv, modLaunch_memInv, holdItem_memInv, answers_some, answers_none, Answers, foldl_memInv]

theorem execLaunchEnd_inv {s : State} (hs : Inv s) : OutInv (execLaunchEnd s) := by
  unfold execLaunchEnd
  refine runGaffer_inv (fun t d hd => ?_) hs
  grind [endLaunch_memInv, pass_memInv, completed_memInv, tryEnd_memInv, answers_some, answers_none, Answers]

theorem execUnitEnd_inv {s : State} (hs : Inv s) : OutInv (execUnitEnd s) := by
  unfold execUnitEnd
  refine runEvent_inv (fun t d hd => ?_) hs
  grind [retag_memInv, publish_memInv, modLaunch_memInv, holdItem_memInv, answers_some, answers_none, Answers, MemInv]

theorem execContextSave_inv {s : State} (hs : Inv s) : OutInv (execContextSave s) := by
  unfold execContextSave
  refine runGaffer_inv (fun t d hd => ?_) hs
  grind [draw_memInv, contextFailed_memInv, killLaunch_memInv, requestPage_memInv, pass_memInv, saveLaunch_memInv, answers_some, answers_none,
      Answers, foldl_memInv]

theorem execContextResume_inv {s : State} (hs : Inv s) : OutInv (execContextResume s) := by
  unfold execContextResume
  refine runGaffer_inv (fun t d hd => ?_) hs
  grind [draw_memInv, contextFailed_memInv, modCluster_memInv, restoreSeq_memInv, modUnit_memInv, modLaunch_memInv, answers_some, answers_none,
      Answers, foldl_memInv]

theorem execActionKill_inv {s : State} (hs : Inv s) : OutInv (execActionKill s) := by
  refine runGaffer_inv (fun t d hd => ?_) hs
  split
  · exact withAction_memInv (fun _ _ hd => killLaunch_memInv hd ..) hd _ _ _
  · exact answers_none

theorem execActionReplay_inv {s : State} (hs : Inv s) : OutInv (execActionReplay s) := by
  refine runGaffer_inv (fun t d hd => ?_) hs
  split
  · exact withAction_memInv (fun _ _ hd => replayAgent_memInv hd ..) hd _ _ _
  · exact answers_none

theorem execActionPark_inv {s : State} (hs : Inv s) : OutInv (execActionPark s) := by
  refine runGaffer_inv (fun t d hd => ?_) hs
  split
  · exact withAction_memInv (fun _ _ hd => parkLaunch_memInv (ite_memInv hd (modSeq_memInv hd ..)) ..) hd _ _ _
  · exact answers_none

theorem execHandoverRequestPost_inv {s : State} (hs : Inv s) : OutInv (execHandoverRequestPost s) := by
  refine runGaffer_inv (fun t d hd => ?_) hs
  split
  · split
    · exact answers_none
    · split
      · exact answers_ite answers_none (answers_some (modLaunch_memInv (modUnit_memInv hd ..) ..))
      · exact answers_none
  · exact answers_none

theorem execHandoverResume_inv {s : State} (hs : Inv s) : OutInv (execHandoverResume s) := by
  refine runGaffer_inv (fun t d hd => ?_) hs
  split
  case h_2 => exact answers_none
  case h_1 l _ =>
  split
  case h_1 => exact answers_none
  case h_2 x _ =>
  extract_lets
  split
  case h_2 => exact answers_none
  case h_1 rq o _ _ =>
  split
  · exact answers_none
  extract_lets
  split
  · split
    · exact answers_none
    · exact answers_some (modLaunch_memInv (modUnit_memInv (takeUnit_memInv hd ..) ..) ..)
  · split
    split
    · split
      · exact answers_some (killLaunch_memInv hd ..)
      · exact answers_none
    · refine answers_some ?_
      split
      · exact releaseGang_memInv (takeClusters_memInv (modLaunch_memInv hd ..) ..) _
      · exact takeClusters_memInv (modLaunch_memInv hd ..) ..

theorem execPromotionBatchComplete_inv {s : State} (hs : Inv s) : OutInv (execPromotionBatchComplete s) := by
  refine runGaffer_inv (fun t d hd => ?_) hs
  split
  · split
    · exact answers_none
    · exact answers_ite answers_none (answers_some (modLaunch_memInv (tput_memInv hd ..) ..))
  · exact answers_none

end Sys2Proof.Proofs
end

section
/-! The steps of translation (R375 to R384). -/

namespace Sys2Proof.Proofs

set_option Elab.async false

open Machine

theorem execPageRequest_inv {s : State} (hs : Inv s) : OutInv (execPageRequest s) := by
  refine runEvent_inv (fun t d hd => ?_) hs
  split
  case h_1 k _ =>
    split
    case h_1 => exact answers_none
    case h_2 r _ =>
      split
      case h_1 => exact answers_none
      case h_2 => exact answers_some (refusePage_memInv hd ..)
      case h_3 => exact answers_ite (answers_some (refusePage_memInv hd ..)) (answers_ite answers_none (answers_some hd))
      case h_4 p _ =>
          have hdone : ∀ d, MemInv d → MemInv (dropUnmapped r.ten r.page (dropRequest r.ten r.page d)) := fun _ hd =>
              dropUnmapped_memInv (dropRequest_memInv hd ..) ..
          cases hf : frameOf p with
          | none => exact answers_some (hdone _ hd)
          | some f => 
            refine answers_ite (answers_some (hdone _ hd)) (answers_ite (answers_some (killRefused_memInv (dropRequest_memInv hd ..)))
              (answers_ite (answers_some (modFrame_memInv hd ..)) ?_))
            cases placeTier d with
            | none => exact answers_none
            | some h => exact answers_some (hdone _ (modFrame_memInv (ite_memInv (zeroRange_memInv hd ..) hd) ..))
  case h_2 => exact answers_none

theorem execAtsCompletion_inv {s : State} (hs : Inv s) : OutInv (execAtsCompletion s) := by
  unfold execAtsCompletion
  refine runEvent_inv (fun t d hd => ?_) hs
  grind [refusePage_memInv, ownFrames_memInv, watchScan_memInv, killRefused_memInv, answers_some, answers_none, answers_map, Answers, MemInv]

theorem execAtsInvalidate_inv {s : State} (hs : Inv s) : OutInv (execAtsInvalidate s) := by
  refine runEvent_inv (fun t d hd => ?_) hs
  split
  · exact answers_some (memInv_with hd)
  · exact answers_none

theorem execPriResponse_inv {s : State} (hs : Inv s) : OutInv (execPriResponse s) := by
  refine runEvent_inv (fun t d hd => ?_) hs
  split
  · extract_lets
    split
    · exact answers_none
    · split
      · exact answers_some (dropEntries_memInv (memInv_with hd) ..)
      · exact answers_some (refusePage_memInv hd ..)
      · exact answers_some (foldl_memInv (fun _ _ hd => refusePage_memInv hd ..) (memInv_with hd) _)
  · exact answers_none

theorem execPriReset_inv {s : State} (hs : Inv s) : OutInv (execPriReset s) := by
  refine runEvent_inv (fun t d hd => ?_) hs
  split
  · exact answers_some (memInv_with hd)
  · exact answers_none

theorem execFrameAgeTick_inv {s : State} (hs : Inv s) : OutInv (execFrameAgeTick s) := runGaffer_inv (fun _ _ hd => answers_some (memInv_with hd)) hs

theorem execFrameMove_inv {s : State} (hs : Inv s) : OutInv (execFrameMove s) := by
  refine runEvent_inv (fun t d hd => ?_) hs
  split
  · exact answers_ite (demote_memInv hd _) (answers_ite answers_none (promote_memInv hd _ _ _))
  · exact answers_none

theorem execPullComplete_inv {s : State} (hs : Inv s) : OutInv (execPullComplete s) := by
  refine runEvent_inv (fun t d hd => ?_) hs
  cases t
  case pull => 
    cases h : placeTier d with
    | none => exact answers_none
    | some => exact answers_ite answers_none (answers_some (place_memInv (modFrame_memInv hd ..) _))
  all_goals exact answers_none

theorem execPullFail_inv {s : State} (hs : Inv s) : OutInv (execPullFail s) := by
  refine runEvent_inv (fun t d hd => ?_) hs
  split
  · extract_lets
    split
    · exact answers_none
    refine answers_some ?_
    split
    · exact postEvent_memInv (killRefused_memInv (modFrame_memInv hd ..)) ..
    · exact killRefused_memInv (modFrame_memInv hd ..)
  · exact answers_none

theorem execFrameScrub_inv {s : State} (hs : Inv s) : OutInv (execFrameScrub s) := by
  unfold execFrameScrub
  refine runEvent_inv (fun t d hd => ?_) hs
  grind [dropLoose_memInv, dropUnits_memInv, dropFrameEntries_memInv, zeroRange_memInv, gput_memInv, answers_some, answers_none, Answers, MemInv]

end Sys2Proof.Proofs
end

section
/-! The steps of Records. -/

namespace Sys2Proof.Proofs

set_option Elab.async false

open Machine

theorem execStreamReset_inv {s : State} (hs : Inv s) : OutInv (execStreamReset s) := by
  refine runLeader_inv (fun t d hd => ?_) hs
  split
  · split
    · exact answers_none
    · exact answers_ite answers_none (answers_some (putBlock_memInv (modStream_memInv hd ..) ..))
  · exact answers_none

theorem execWixWrite_inv {s : State} (hs : Inv s) : OutInv (execWixWrite s) := by
  refine runLeader_inv (fun t d hd => ?_) hs
  split
  · extract_lets
    split
    · exact answers_none
    · split
      · exact answers_none
      extract_lets
      split
      · exact answers_some (modStream_memInv hd ..)
      split
      · exact answers_some (streamFault_memInv (modStream_memInv hd ..) ..)
      · exact answers_some (modStream_memInv (modStream_memInv hd ..) ..)
  · exact answers_none

theorem execPadRec_inv {s : State} (hs : Inv s) : OutInv (execPadRec s) := by
  unfold execPadRec
  refine runRecord_inv (fun ten m r d hd => ?_) hs
  grind [RecEndInv]

theorem execLaunch_inv {s : State} (hs : Inv s) : OutInv (execLaunch s) := by
  unfold execLaunch
  refine runRecord_inv (fun ten m r d hd => ?_) hs
  grind [nextItem_memInv, now_memInv, newLaunch_memInv, tryEnd_memInv, RecEndInv]

theorem execWaitRec_inv {s : State} (hs : Inv s) : OutInv (execWaitRec s) := by
  unfold execWaitRec
  refine runRecord_inv (fun ten m r d hd => ?_) hs
  grind [withAddrs_memInv, modStream_memInv, RecEndInv]

theorem execWaitSatisfied_inv {s : State} (hs : Inv s) : OutInv (execWaitSatisfied s) := by
  unfold execWaitSatisfied
  refine runLeader_inv (fun t d hd => ?_) hs
  grind [requestPage_memInv, waitWord_memInv, pass_memInv, takePast_memInv, putState_memInv, modStream_memInv, answers_some, answers_none, Answers]

theorem execGdef_inv {s : State} (hs : Inv s) : OutInv (execGdef s) := by
  refine runRecord_inv (fun ten _ r d hd => ?_) hs
  extract_lets g va stat
  split
  · trivial
  · refine withAddrs_memInv hd ?_ ..
    have hp := pagesHere_memInv hd ten [stat] true
    split
    case h_1 e he => rwa [he] at hp
    case h_2 =>
      split
      · exact tput_memInv hd ..
      split
      · trivial
      have h16 := copyIn_memInv hd ten va 16
      split
      case h_1 e he => rwa [he] at h16
      case h_2 b e he =>
        rw [he] at h16
        extract_lets nn
        split
        · exact tput_memInv h16 ..
        split
        · trivial
        have hall := copyIn_memInv h16 ten va (16 + 64 * nn)
        split
        case h_1 f hf => rwa [hf] at hall
        case h_2 l f hf =>
          rw [hf] at hall
          split
          · exact tput_memInv hall ..
          split
          · trivial
          next ns _ _ =>
          have hparms := copyParms_memInv hall ten va ns
          split
          case h_1 p hp => rwa [hp] at hparms
          case h_2 ps p hp =>
            rw [hp] at hparms
            refine tput_memInv ?_ ..
            exact keepParms_memInv hparms ten ps

theorem execGraph_inv {s : State} (hs : Inv s) : OutInv (execGraph s) := by
  refine runRecord_inv (fun ten m r d hd => ?_) hs
  extract_lets
  split
  · exact trivial
  refine withAddrs_memInv hd ?_ _ _
  split
  · exact trivial
  · exact now_memInv (nextItem_memInv hd ..)

theorem execGraphNodeStart_inv {s : State} (hs : Inv s) : OutInv (execGraphNodeStart s) := by
  refine runLeader_inv (fun t d hd => ?_) hs
  split
  case h_2 => exact answers_none
  case h_1 k j =>
  split
  case h_1 => exact answers_none
  case h_2 r _ =>
  split
  case h_2 => exact answers_none
  case h_1 =>
  split
  case h_1 => exact answers_none
  case h_2 =>
  extract_lets
  split
  · exact answers_none
  split
  · exact answers_none
  · refine answers_some (tryReplay_memInv ?_ _)
    exact hd
  · refine answers_some (pass_memInv (ite_memInv (tryEnd_memInv (replayBegins_memInv (now_memInv ?_) ..) _) ?_))
    · exact hd
    · exact hd

theorem execGpatch_inv {s : State} (hs : Inv s) : OutInv (execGpatch s) := by
  unfold execGpatch
  refine runRecord_inv (fun ten m r d hd => ?_) hs
  grind [patchGraph_memInv, modStream_memInv, Answers, RecEndInv]

theorem execGpatchUnblock_inv {s : State} (hs : Inv s) : OutInv (execGpatchUnblock s) := by
  refine runLeader_inv (fun t d hd => ?_) hs
  split
  · split
    · exact answers_none
    · exact answers_map (patchGraph_memInv hd _ _) fun _ h0 => pass_memInv (takePast_memInv (putState_memInv (modStream_memInv h0 ..) ..) ..)
  · exact answers_none

theorem execReleaseReplay_inv {s : State} (hs : Inv s) : OutInv (execReleaseReplay s) := control_inv (fun _ _ _ _ _ hd =>
    foldl_memInv (fun _ _ hd => releaseLaunch_memInv hd _) hd _) hs

theorem execReleaseKill_inv {s : State} (hs : Inv s) : OutInv (execReleaseKill s) := by
  refine control_inv (fun ten m n r d hd => ?_) hs
  refine foldl_memInv (fun _ _ hd => ?_) hd _
  split
  · exact ite_memInv (killLaunch_memInv hd ..) hd
  · exact hd

theorem execKillRec_inv {s : State} (hs : Inv s) : OutInv (execKillRec s) := control_inv (fun _ _ _ _ _ hd => killItem_memInv hd ..) hs

theorem execActionSet_inv {s : State} (hs : Inv s) : OutInv (execActionSet s) := by
  refine runRecord_inv (fun ten m r d hd => ?_) hs
  extract_lets
  split
  · exact trivial
  · exact modTenant_memInv hd ..

theorem execAttach_inv {s : State} (hs : Inv s) : OutInv (execAttach s) := debugger_inv (fun _ _ hd => modSeq_memInv hd ..) hs

theorem execDetach_inv {s : State} (hs : Inv s) : OutInv (execDetach s) := debugger_inv (fun _ _ hd =>
    resumeStopped_memInv (modSeq_memInv hd ..) _) hs

theorem execStepRec_inv {s : State} (hs : Inv s) : OutInv (execStepRec s) := debugger_inv (fun _ _ hd =>
    ite_memInv hd (modSeq_memInv (resumeStopped_memInv hd _) ..)) hs

theorem execContinueRec_inv {s : State} (hs : Inv s) : OutInv (execContinueRec s) := debugger_inv (fun _ _ hd => resumeStopped_memInv hd _) hs

end Sys2Proof.Proofs
end

section
/-! The steps of Admin. -/

namespace Sys2Proof.Proofs

set_option Elab.async false

open Machine

theorem execTset_inv {s : State} (hs : Inv s) : OutInv (execTset s) := by
  refine runRecord_inv (fun ten m r d hd => ?_) hs
  extract_lets
  split
  · exact trivial
  split
  · exact removeTenant_memInv hd _
  split
  · exact trivial
  split
  · exact trivial
  split
  · exact trivial
  split
  · exact trivial
  · exact modTenant_memInv (ite_memInv hd (newContext_memInv hd _)) ..

theorem execTkill_inv {s : State} (hs : Inv s) : OutInv (execTkill s) := by
  refine runRecord_inv (fun ten m r d hd => ?_) hs
  split
  · exact trivial
  · exact killTenant_memInv hd ..

theorem execCtxw_inv {s : State} (hs : Inv s) : OutInv (execCtxw s) := by
  refine memRecord_inv (fun ten stat r d hd => ?_) hs
  extract_lets
  split
  · exact trivial
  split
  · exact trivial
  split
  · exact hd
  split
  · exact trivial
  · exact scrubThen_memInv (modTenant_memInv hd ..) ..

theorem execPwin_inv {s : State} (hs : Inv s) : OutInv (execPwin s) := by
  refine memRecord_inv (fun ten stat r d hd => ?_) hs
  extract_lets
  split
  · trivial
  split
  · split
    · trivial
    · exact putStatus_memInv (modTenant_memInv hd ..) ..
  split
  · trivial
  split
  · trivial
  split
  · trivial
  split
  · exact hd
  · exact putStatus_memInv (ite_memInv (foldl_memInv (fun _ _ hd => modFrame_memInv hd ..) (modTenant_memInv hd ..) _) (modTenant_memInv hd ..)) ..

theorem execBias_inv {s : State} (hs : Inv s) : OutInv (execBias s) := by
  refine memRecord_inv (fun ten stat r d hd => ?_) hs
  cases frameRange ten r d with
  | error v => trivial
  | ok a =>
    show Either _ _ (if 1 < recNum r 36 1 then _ else _)
    split
    · trivial
    · exact hd

theorem execBiasFlip_inv {s : State} (hs : Inv s) : OutInv (execBiasFlip s) := by
  unfold execBiasFlip
  refine runEvent_inv (fun t d hd => ?_) hs
  grind [modFrame_memInv, putStatus_memInv, answers_some, answers_none, Answers, MemInv]

theorem execFree_inv {s : State} (hs : Inv s) : OutInv (execFree s) := by
  refine memRecord_inv (fun ten stat r d hd => ?_) hs
  cases frameRange ten r d with
  | error v => trivial
  | ok a => exact scrubThen_memInv hd ..

theorem execWmark_inv {s : State} (hs : Inv s) : OutInv (execWmark s) := by
  unfold execWmark
  refine memRecord_inv (fun ten stat r d hd => ?_) hs
  grind [draw_memInv, putStatus_memInv, Either, RecEndInv, MemInv]

end Sys2Proof.Proofs
end

section
/-! The steps of BeadArray. -/

namespace Sys2Proof.Proofs

set_option Elab.async false

open Machine

theorem execBeadWaveComplete_inv {s : State} (hs : Inv s) : OutInv (execBeadWaveComplete s) := by
  refine runEvent_inv (fun t d hd => ?_) hs
  split
  · extract_lets
    split
    · exact answers_ite answers_none (answers_some (setSeq_memInv hd ..))
    · exact answers_none
  · exact answers_none

end Sys2Proof.Proofs
end

section
/-! The steps of Firmware. -/

namespace Sys2Proof.Proofs

set_option Elab.async false

open Machine

theorem execFwup_inv {s : State} (hs : Inv s) : OutInv (execFwup s) := by
  unfold execFwup
  refine runRecord_inv (fun ten m r d hd => ?_) hs
  grind [placeBytes_memInv, setSeq_memInv, RecEndInv, MemInv]

theorem execFchkWrite_inv {s : State} (hs : Inv s) : OutInv (execFchkWrite s) := by
  refine runEvent_inv (fun t d hd => ?_) hs
  split
  · exact answers_none
  · exact answers_ite answers_none (answers_some (memInv_with hd))

theorem execFirmwareCheckComplete_inv {s : State} (hs : Inv s) : OutInv (execFirmwareCheckComplete s) := by
  refine runEvent_inv (fun t d hd => ?_) hs
  split
  · exact answers_none
  · exact answers_some (gput_memInv (ite_memInv (memInv_with hd) (memInv_with hd)) ..)

theorem execFswWrite_inv {s : State} (hs : Inv s) : OutInv (execFswWrite s) := by
  refine runEvent_inv (fun t d hd => ?_) hs
  split
  · exact answers_none
  · exact answers_some (landAll_memInv hd ..)

theorem execSlotSwitch_inv {s : State} (hs : Inv s) : OutInv (execSlotSwitch s) := by
  refine runEvent_inv (fun t d hd => ?_) hs
  split
  · exact answers_none
  · exact answers_ite answers_none (answers_some (memInv_with hd))

theorem execFhbWrite_inv {s : State} (hs : Inv s) : OutInv (execFhbWrite s) := by
  refine runEvent_inv (fun t d hd => ?_) hs
  split
  · exact answers_none
  · exact answers_some (pass_memInv (gput_memInv (stopCores_memInv (memInv_with hd)) ..))

theorem execHeartbeatTimeout_inv {s : State} (hs : Inv s) : OutInv (execHeartbeatTimeout s) := runEvent_inv (fun _ _ hd =>
    answers_ite (answers_some (switchBack_memInv hd)) answers_none) hs

theorem execReset_inv {s : State} (hs : Inv s) : OutInv (execReset s) :=
  ⟨Mem.wfFrom_filter _ hs.1, memInv_empty⟩

end Sys2Proof.Proofs
end

section
/-! The steps of FleetOps. -/

namespace Sys2Proof.Proofs

set_option Elab.async false

open Machine

theorem execPower_inv {s : State} (hs : Inv s) : OutInv (execPower s) := by
  refine fleetRecord_inv (fun r d hd => ?_) hs
  extract_lets
  split
  · exact hd
  · exact hd

theorem execRas_inv {s : State} (hs : Inv s) : OutInv (execRas s) := by
  refine fleetRecord_inv (fun r d hd => ?_) hs
  extract_lets
  split
  · exact hd
  · exact hd

theorem execAdvance_inv {s : State} (hs : Inv s) : OutInv (execAdvance s) := by
  refine fleetRecord_inv (fun r d hd => ?_) hs
  extract_lets
  split
  · exact hd
  split
  · exact hd
  split
  · exact hd
  · exact hd

theorem execKeyadd_inv {s : State} (hs : Inv s) : OutInv (execKeyadd s) := by
  refine fleetRecord_inv (fun r d hd => ?_) hs
  extract_lets
  split
  · exact hd
  · exact hd

theorem execKeyrev_inv {s : State} (hs : Inv s) : OutInv (execKeyrev s) := by
  refine fleetRecord_inv (fun r d hd => ?_) hs
  extract_lets
  split
  · exact hd
  · exact hd

theorem execPowerArbiterStep_inv {s : State} (hs : Inv s) : OutInv (execPowerArbiterStep s) := by
  unfold execPowerArbiterStep
  refine runEvent_inv (fun t d hd => ?_) hs
  grind [readDie_memInv, lower_memInv, modDie_memInv, fleetEvent_memInv, railStep_memInv, answers_some, answers_none, Answers, Answers.getD,
      foldl_memInv, MemInv]

theorem execDroopStretch_inv {s : State} (hs : Inv s) : OutInv (execDroopStretch s) := by
  refine runEvent_inv (fun t d hd => ?_) hs
  split
  · exact answers_ite answers_none (answers_some (modDie_memInv hd ..))
  · exact answers_none

theorem execDroopEnd_inv {s : State} (hs : Inv s) : OutInv (execDroopEnd s) := by
  refine runEvent_inv (fun t d hd => ?_) hs
  split
  · exact answers_ite answers_none (answers_some (modDie_memInv hd ..))
  · exact answers_none

theorem execTcritReached_inv {s : State} (hs : Inv s) : OutInv (execTcritReached s) := by
  refine runEvent_inv (fun t d hd => ?_) hs
  split
  · exact answers_ite answers_none (answers_some (fleetEvent_memInv (modDie_memInv hd ..) _))
  · exact answers_none

theorem execThermalShutdown_inv {s : State} (hs : Inv s) : OutInv (execThermalShutdown s) := by
  refine runEvent_inv (fun t d hd => ?_) hs
  split
  · exact answers_ite answers_none (answers_some (memInv_with hd))
  · exact answers_none

theorem execSramRailBelowVth_inv {s : State} (hs : Inv s) : OutInv (execSramRailBelowVth s) := by
  refine runEvent_inv (fun t d hd => ?_) hs
  split
  · exact answers_ite answers_none (answers_some (l2Switch_memInv (modDie_memInv (draw_memInv hd) ..) ..))
  · exact answers_none

theorem execRailRecoveryTimeout_inv {s : State} (hs : Inv s) : OutInv (execRailRecoveryTimeout s) := by
  refine runEvent_inv (fun t d hd => ?_) hs
  split
  · exact answers_ite answers_none (answers_some (l2Switch_memInv hd ..))
  · exact answers_none

theorem execLockstepMismatch_inv {s : State} (hs : Inv s) : OutInv (execLockstepMismatch s) := by
  unfold execLockstepMismatch
  refine runEvent_inv (fun t d hd => ?_) hs
  grind [fleetEvent_memInv, draw_memInv, failPair_memInv, answers_some, answers_none, Answers, MemInv]

theorem execPortLaneLoss_inv {s : State} (hs : Inv s) : OutInv (execPortLaneLoss s) := by
  refine runEvent_inv (fun t d hd => ?_) hs
  split
  · exact answers_ite answers_none (answers_some (fleetEvent_memInv (modPortOf_memInv (draw_memInv hd) ..) _))
  · exact answers_none

theorem execPortDown_inv {s : State} (hs : Inv s) : OutInv (execPortDown s) := by
  refine runEvent_inv (fun t d hd => ?_) hs
  split
  · extract_lets
    split
    · exact answers_none
    · exact answers_some (foldl_memInv (fun _ _ hd =>
        ite_memInv (memInv_with hd) (acknowledge_memInv (memInv_with (memInv_with hd)) ..)) (fleetEvent_memInv (modPortOf_memInv hd ..) _) _)
  · exact answers_none

theorem execPortUp_inv {s : State} (hs : Inv s) : OutInv (execPortUp s) := by
  refine runEvent_inv (fun t d hd => ?_) hs
  split
  · exact answers_ite answers_none (answers_some (modPortOf_memInv hd ..))
  · exact answers_none

end Sys2Proof.Proofs
end

section
/-! The steps of HostLink. -/

namespace Sys2Proof.Proofs

set_option Elab.async false

open Machine

theorem execHostWindowWrite_inv {s : State} (hs : Inv s) : OutInv (execHostWindowWrite s) := by
  refine runEvent_inv (fun t d hd => ?_) hs
  split
  · split
    · exact answers_none
    · exact answers_some (foldl_memInv (fun _ _ hd => ite_memInv (flushEvents_memInv hd ..) hd) (placeBytes_memInv hd ..) _)
  · exact answers_none

theorem execHostWindowRead_inv {s : State} (hs : Inv s) : OutInv (execHostWindowRead s) := by
  unfold execHostWindowRead
  refine runEvent_inv (fun t d hd => ?_) hs
  grind [barBytes_memInv, loadBytes_memInv, answers_some, answers_none, Answers, MemInv]

theorem execBar0Write_inv {s : State} (hs : Inv s) : OutInv (execBar0Write s) := by
  refine runEvent_inv (fun t d hd => ?_) hs
  split
  · exact answers_ite (answers_some (foldl_memInv (fun _ _ hd => barWrite_memInv hd ..) hd _)) (answers_some hd)
  · exact answers_some hd

theorem execHostCxlMemAccess_inv {s : State} (hs : Inv s) : OutInv (execHostCxlMemAccess s) := by
  unfold execHostCxlMemAccess
  refine runEvent_inv (fun t d hd => ?_) hs
  cases t <;> grind [loadBytes_memInv, place_memInv, placeBytes_memInv, answers_some, answers_none, Answers, MemInv]

theorem execSpdmGetMeasurements_inv {s : State} (hs : Inv s) : OutInv (execSpdmGetMeasurements s) := by
  refine runEvent_inv (fun t d hd => ?_) hs
  split
  · exact answers_ite answers_none (answers_some (memInv_with hd))
  · exact answers_none

end Sys2Proof.Proofs
end

section
/-! The steps of Loader. -/

namespace Sys2Proof.Proofs

set_option Elab.async false

open Machine

theorem execRegister_inv {s : State} (hs : Inv s) : OutInv (execRegister s) := by
  unfold execRegister
  refine runRecord_inv (fun ten m r d hd => ?_) hs
  grind [withAddrs_memInv, pagesHere_memInv, tput_memInv, copyIn_memInv, registerImage_memInv, Either, RecEndInv, MemInv]

end Sys2Proof.Proofs
end

section
/-! The steps of NearPort. -/

namespace Sys2Proof.Proofs

set_option Elab.async false

open Machine

theorem execPortEntryDeliver_inv {s : State} (hs : Inv s) : OutInv (execPortEntryDeliver s) := by
  unfold execPortEntryDeliver
  refine runEvent_inv (fun t d hd => ?_) hs
  grind [readBitmap_memInv, modNearPort_memInv, unitBytes_memInv, touch_memInv, askPeer_memInv, requestPage_memInv, answers_some, answers_none,
      answers_map, Answers, Answers.getD]

theorem execPortWritePerform_inv {s : State} (hs : Inv s) : OutInv (execPortWritePerform s) := by
  refine runEvent_inv (fun t d hd => ?_) hs
  split
  · extract_lets
    split
    · exact answers_none
    · split
      · exact answers_some (modNearPort_memInv (foldl_memInv (fun _ _ hd => unitWrite_memInv hd ..) hd _) ..)
      · exact answers_some (modNearPort_memInv (sendOut_memInv hd _) ..)
      · exact answers_some (requestPage_memInv hd ..)
      · exact answers_some (modNearPort_memInv hd ..)
      · exact answers_none
  · exact answers_none

theorem execNbcpEntryCopy_inv {s : State} (hs : Inv s) : OutInv (execNbcpEntryCopy s) := by
  unfold execNbcpEntryCopy
  refine runEvent_inv (fun t d hd => ?_) hs
  cases t <;> grind [unitBytes_memInv, touch_memInv, unitWrite_memInv, modUnit_memInv, answers_some, answers_none, answers_map, Answers, foldl_memInv]

theorem execEccCorrectedResume_inv {s : State} (hs : Inv s) : OutInv (execEccCorrectedResume s) := by
  refine runEvent_inv (fun t d hd => ?_) hs
  split
  · exact answers_ite answers_none (answers_some (modUnit_memInv hd ..))
  · exact answers_none

end Sys2Proof.Proofs
end

section
/-! A step is a fetch and the instruction that it finds. -/

namespace Sys2Proof.Proofs

set_option Elab.async false

open Machine

theorem execNhopt_inv {s : State} (hs : Inv s) : OutInv (execNhopt s) := by
  unfold execNhopt
  split
  · exact runNear_inv Keeps.Near.handOver (inv_dev hs (ite_memInv (drainBegin_memInv hs.1 _) hs.1))
  · trivial

/-- Every instruction keeps the invariant. -/
theorem instrKeeps (i : Instr) : InstrKeeps i := by
  have hcontrol := Keeps.Slot.control_keep
  have hpredicates := Keeps.Slot.predicates_keep
  have hscalars := Keeps.Slot.scalars_keep
  have hviews := Keeps.Slot.views_keep
  have hstreams := Keeps.Slot.streams_keep
  have hregions := Keeps.Slot.regions_keep
  have hvectors := Keeps.Slot.vectors_keep
  have hmatrix := Keeps.Slot.matrix_keep
  have hnearScalars := Keeps.Near.nearScalars_keep
  have hnearLanes := Keeps.Near.nearLanes_keep
  have hnearPorts := Keeps.Near.nearPorts_keep
  simp only [List.forall_mem_cons, List.not_mem_nil, IsEmpty.forall_iff, implies_true, and_true] at *
  cases i
  any_goals simp only [hcontrol, hpredicates, hscalars, hviews, hstreams, hregions, hvectors, hmatrix, hnearScalars, hnearLanes, hnearPorts]
  all_goals intro s hs
  case mend => exact execMend_inv hs
  case mmac => exact execMmac_inv hs
  case mpub => exact execMpub_inv hs
  case mloop => exact execMloop_inv hs
  case mnext => exact execMnext_inv hs
  case madd => exact execMadd_inv hs
  case bundleIssue => exact execBundleIssue_inv hs
  case segmentExpansionComplete => exact execSegmentExpansionComplete_inv hs
  case asyncRequest => exact execAsyncRequest_inv hs
  case contextSave => exact execContextSave_inv hs
  case contextResume => exact execContextResume_inv hs
  case gangStart => exact execGangStart_inv hs
  case tick10us => exact execTick10us_inv hs
  case candidateBlockTimeout => exact execCandidateBlockTimeout_inv hs
  case loadElementPerform => exact execLoadElementPerform_inv hs
  case loadEntryDeliver => exact execLoadEntryDeliver_inv hs
  case storeElementPerform => exact execStoreElementPerform_inv hs
  case storeStreamResume => exact execStoreStreamResume_inv hs
  case fullEmptyWaitEnd => exact execFullEmptyWaitEnd_inv hs
  case atomicPerform => exact execAtomicPerform_inv hs
  case mwaitWake => exact execMwaitWake_inv hs
  case hostBiasMwaitPoll => exact execHostBiasMwaitPoll_inv hs
  case bwaitWake => exact execBwaitWake_inv hs
  case matrixCallStart => exact execMatrixCallStart_inv hs
  case mldPerform => exact execMldPerform_inv hs
  case mgatPerform => exact execMgatPerform_inv hs
  case epiPerform => exact execEpiPerform_inv hs
  case rfreePerform => exact execRfreePerform_inv hs
  case engineCommandStart => exact execEngineCommandStart_inv hs
  case copyRow => exact execCopyRow_inv hs
  case xformPass => exact execXformPass_inv hs
  case engineCommandComplete => exact execEngineCommandComplete_inv hs
  case portBlockReceive => exact execPortBlockReceive_inv hs
  case peerAccessArrival => exact execPeerAccessArrival_inv hs
  case peerWriteAck => exact execPeerWriteAck_inv hs
  case beadWaveComplete => exact execBeadWaveComplete_inv hs
  case sequencerEndReport => exact execSequencerEndReport_inv hs
  case clusterNodeZero => exact execClusterNodeZero_inv hs
  case launchEnd => exact execLaunchEnd_inv hs
  case actionKill => exact execActionKill_inv hs
  case actionReplay => exact execActionReplay_inv hs
  case actionPark => exact execActionPark_inv hs
  case streamReset => exact execStreamReset_inv hs
  case wixWrite => exact execWixWrite_inv hs
  case padRec => exact execPadRec_inv hs
  case launch => exact execLaunch_inv hs
  case waitRec => exact execWaitRec_inv hs
  case waitSatisfied => exact execWaitSatisfied_inv hs
  case register => exact execRegister_inv hs
  case gdef => exact execGdef_inv hs
  case graph => exact execGraph_inv hs
  case graphNodeStart => exact execGraphNodeStart_inv hs
  case gpatch => exact execGpatch_inv hs
  case gpatchUnblock => exact execGpatchUnblock_inv hs
  case releaseReplay => exact execReleaseReplay_inv hs
  case releaseKill => exact execReleaseKill_inv hs
  case killRec => exact execKillRec_inv hs
  case actionSet => exact execActionSet_inv hs
  case attach => exact execAttach_inv hs
  case detach => exact execDetach_inv hs
  case stepRec => exact execStepRec_inv hs
  case continueRec => exact execContinueRec_inv hs
  case tset => exact execTset_inv hs
  case tkill => exact execTkill_inv hs
  case ctxw => exact execCtxw_inv hs
  case pwin => exact execPwin_inv hs
  case bias => exact execBias_inv hs
  case biasFlip => exact execBiasFlip_inv hs
  case free => exact execFree_inv hs
  case wmark => exact execWmark_inv hs
  case atsCompletion => exact execAtsCompletion_inv hs
  case atsInvalidate => exact execAtsInvalidate_inv hs
  case pageRequest => exact execPageRequest_inv hs
  case priResponse => exact execPriResponse_inv hs
  case frameAgeTick => exact execFrameAgeTick_inv hs
  case frameMove => exact execFrameMove_inv hs
  case promotionBatchComplete => exact execPromotionBatchComplete_inv hs
  case pullComplete => exact execPullComplete_inv hs
  case pullFail => exact execPullFail_inv hs
  case frameScrub => exact execFrameScrub_inv hs
  case handoverRequestPost => exact execHandoverRequestPost_inv hs
  case handoverResume => exact execHandoverResume_inv hs
  case portEntryDeliver => exact execPortEntryDeliver_inv hs
  case nbcpEntryCopy => exact execNbcpEntryCopy_inv hs
  case eccCorrectedResume => exact execEccCorrectedResume_inv hs
  case unitEnd => exact execUnitEnd_inv hs
  case hostWindowWrite => exact execHostWindowWrite_inv hs
  case hostWindowRead => exact execHostWindowRead_inv hs
  case hostCxlMemAccess => exact execHostCxlMemAccess_inv hs
  case bar0Write => exact execBar0Write_inv hs
  case spdmGetMeasurements => exact execSpdmGetMeasurements_inv hs
  case fwup => exact execFwup_inv hs
  case fchkWrite => exact execFchkWrite_inv hs
  case firmwareCheckComplete => exact execFirmwareCheckComplete_inv hs
  case fswWrite => exact execFswWrite_inv hs
  case slotSwitch => exact execSlotSwitch_inv hs
  case fhbWrite => exact execFhbWrite_inv hs
  case heartbeatTimeout => exact execHeartbeatTimeout_inv hs
  case power => exact execPower_inv hs
  case ras => exact execRas_inv hs
  case advance => exact execAdvance_inv hs
  case keyadd => exact execKeyadd_inv hs
  case keyrev => exact execKeyrev_inv hs
  case powerArbiterStep => exact execPowerArbiterStep_inv hs
  case droopStretch => exact execDroopStretch_inv hs
  case thermalShutdown => exact execThermalShutdown_inv hs
  case sramRailBelowVth => exact execSramRailBelowVth_inv hs
  case railRecoveryTimeout => exact execRailRecoveryTimeout_inv hs
  case lockstepMismatch => exact execLockstepMismatch_inv hs
  case portLaneLoss => exact execPortLaneLoss_inv hs
  case portDown => exact execPortDown_inv hs
  case reset => exact execReset_inv hs
  case priReset => exact execPriReset_inv hs
  case tcritReached => exact execTcritReached_inv hs
  case droopEnd => exact execDroopEnd_inv hs
  case portUp => exact execPortUp_inv hs
  case portWritePerform => exact execPortWritePerform_inv hs
  case reservedMicroWord => exact execReservedMicroWord_inv hs
  case nhopt => exact execNhopt_inv hs

/-- A fetch keeps the invariant: what it hands to the instruction, and what it leaves where there is none. -/
theorem fetchNear_inv {s : State} (hs : Inv s) (u) : FetchedInv (fetchNear u s) := by
  unfold fetchNear
  extract_lets x t
  split
  · exact hs
  · split
    · exact inv_dev hs (nearRun_memInv (Keeps.Near.startLoad _) hs.1 u)
    · split
      · exact hs
      · exact inv_dev hs (modUnit_memInv hs.1 ..)

theorem fetchPick_inv {s : State} (hs : Inv s) (p) : FetchedInv (fetchPick p s) := by
  cases p with
  | ev i t => cases t <;> exact hs
  | matrix q => exact fetchMicro_memInv hs q
  | unit u => exact fetchNear_inv hs u
  | take ten m => exact fetchRecord_memInv hs ten m
  | upset loc n => exact inv_dev hs (markPoison_memInv hs.1 ..)
  | upsetL2 die loc n bits => exact inv_dev hs (l2Upset_memInv hs.1 ..)
  | upsetL1 q line dirty => exact inv_dev hs (ite_memInv (modSeq_memInv hs.1 ..) hs.1)
  | upsetRow q row => exact inv_dev hs (ite_memInv (modSeq_memInv hs.1 ..) hs.1)

theorem fetch_inv {s : State} (hs : Inv s) : FetchedInv (fetch s) := by
  have hp := nextPick_memInv hs
  unfold fetch
  split
  · split
    case h_1 t r hr => exact hp _ hr
    case h_2 x r _ hr => exact hp _ hr
    case h_3 => exact hs
  · split
    · exact fetchSlot_memInv hs _
    · split
      case h_1 p r hr => exact fetchPick_inv (hp _ hr) p
      case h_2 => exact hs

/-- Settles O6: what a step fetches keeps the invariant, and so does every instruction. -/
theorem stepKeepsInvariant : Obligations.StepKeepsInvariant := by
  unfold Obligations.StepKeepsInvariant
  intro s t hs h
  have hf := fetch_inv hs
  unfold step at h
  split at h
  case h_1 i r hr =>
    rw [hr] at hf
    have hi := instrKeeps i r hf
    rwa [h] at hi
  case h_2 r hr =>
    rw [hr] at hf
    obtain rfl := Host.Outcome.next.inj h
    exact hf

end Sys2Proof.Proofs
end

section
/-! The host over the link: its windows, the registers of a BAR0, CXL.mem and measurements (R265, R347 to R350, R412, R421). -/

namespace Sys2Proof.Proofs

open Machine Claim

variable {s : State} {fn off n loc : Nat}

/-! ### The windows (R349, R350) -/

theorem hostWindowWrite_became {data : Bytes} (hturn : s.turn = .hostWrite fn off data) (hloc : windowLoc s.dev fn off data.length = some loc) :
    exec .hostWindowWrite s = became s ((List.range 16).foldl (fun g t =>
      if (g.tenant t).active && overlap loc data.length ((g.tenant t).sarea + 0x200) 8 then flushEvents t 256 g else g)
      (placeBytes s.dev hostAgent loc data)) := by
  show execHostWindowWrite s = _
  refine runEvent_became ?_
  simp only [hturn, hloc]

/-- A read below the BAR0s is one of a BAR2: the bytes at its place (R349). -/
theorem hostWindowRead_window {b : List (Byte × Bool)} {e : Dev} (hturn : s.turn = .hostRead fn off n) (hfn : fn ≤ 16)
    (hloc : windowLoc s.dev fn off n = some loc) (hread : loadBytes s.dev hostAgent loc n = (some b, e)) :
    exec .hostWindowRead s = became s { e with hostRead := b.map (·.1) } := by
  have hwindow : ¬(decide (32 ≤ fn) && decide (fn ≤ 48)) = true := by simp; omega
  show execHostWindowRead s = _
  refine runEvent_became ?_
  simp only [hturn, if_neg hwindow, hloc, hread]
  rfl

/-! ### The registers of a BAR0 (R348, R412) -/

/-- An aligned read of eight bytes of a BAR0 is one of its words. -/
theorem barBytes_word {d e : Dev} {v : Nat} (hoff : off % 8 = 0) (hword : barWord fn off d = (v, e)) : barBytes fn off 8 d = (toLe 8 v, e) := by
  have halign : alignDown off 8 = off := by rw [alignDown, hoff, Nat.sub_zero]
  have hone : ceilDiv (off % 8 + 8) 8 = 1 := by rw [hoff]; rfl
  have htake : (toLe 8 v).take 8 = toLe 8 v := List.take_of_length_le (length_toLe 8 v).le
  unfold barBytes
  rw [hone]
  simp [halign, hoff, hword, htake]

theorem hostWindowRead_bar0 {v : Nat} (hturn : s.turn = .hostRead fn off 8) (hlow : 32 ≤ fn) (hhigh : fn ≤ 48) (hoff : off % 8 = 0)
    (hword : barWord (fn - 32) off s.dev = (v, s.dev)) :
    exec .hostWindowRead s = became s { s.dev with hostRead := toLe 8 v } := by
  show execHostWindowRead s = _
  refine runEvent_became ?_
  simp only [hturn, hlow, hhigh, decide_true, Bool.and_self, if_true, barBytes_word hoff hword]

/-- Below PF0's MSI-X table its BAR0 holds registers (R347). -/
theorem barWord_pf {d : Dev} (hoff : off < 0x8000) : barWord 16 off d = pfReg off d := by
  have htable : ¬inTable 16 off = true := by simp [inTable, msixBase]; omega
  have hpending : off ≠ pendingBase 16 := by simp [pendingBase]; omega
  rw [barWord, if_neg htable, if_neg hpending, if_pos rfl]

/-- A register of PF0 that reads as v leaves the device as it stands (R348). -/
theorem hostWindowRead_pf {v : Nat} (hturn : s.turn = .hostRead 48 off 8) (hlow : off < 0x8000) (hoff : off % 8 = 0)
    (hreg : pfReg off s.dev = (v, s.dev)) :
    exec .hostWindowRead s = became s { s.dev with hostRead := toLe 8 v } :=
  hostWindowRead_bar0 hturn (by decide) (by decide) hoff ((barWord_pf hlow).trans hreg)

/-- The event words of PF0 stand one after the other from 0x200 on (R412). -/
theorem pfReg_event {k : Nat} (hk : k < 8) (d : Dev) : pfReg (0x200 + 8 * k) d = (vget d.fleet.events k 0, d) := by
  interval_cases k <;> rfl

/-- The partitions of the tenants stand one after the other from 0x280 on (R412). -/
theorem pfReg_partition {k : Nat} (hk : k < 16) (d : Dev) : pfReg (0x280 + 8 * k) d = (partWord (d.tenant k), d) := by
  interval_cases k <;> rfl

theorem partWord_eq (t : Tenant) : partWord t = t.part + 2 ^ 32 * (if t.active then 1 else 0) := by
  unfold partWord
  cases t.active <;> rfl

/-- The first register of a VF's BAR0: its tenant, and whether it is active (R348). -/
theorem barWord_vf {d : Dev} {ten : Nat} (hten : ten < 16) :
    barWord ten 0 d = (ten + 2 ^ 8 * (if (d.tenant ten).active then 1 else 0), d) := by
  have hne : ten ≠ 16 := hten.ne
  have htable : ¬inTable ten 0 = true := by simp [inTable, msixBase, hne]
  have hpending : 0 ≠ pendingBase ten := by simp [pendingBase, hne]
  rw [barWord, if_neg htable, if_neg hpending, if_neg hne, vfReg, if_pos rfl]
  cases (d.tenant ten).active <;> rfl

/-! ### Writes of a BAR0 (R347, R348) -/

/-- Bytes outside the function's MSI-X table change nothing (R348). -/
theorem barWrites_outside {l : List (Byte × Nat)} (h : ∀ e ∈ l, inTable fn (off + e.2) = false) (d : Dev) :
    l.foldl (fun d e => barWrite fn d (off + e.2) e.1) d = d := by
  induction l generalizing d with
  | nil => rfl
  | cons e l ih =>
    obtain ⟨he, hl⟩ := List.forall_mem_cons.mp h
    have hkept : barWrite fn d (off + e.2) e.1 = d := if_pos (by rw [he]; rfl)
    rw [List.foldl_cons, hkept, ih hl]

theorem bar0Write_outside {data : Bytes} (hturn : s.turn = .hostWrite fn off data)
    (h : fn < 32 ∨ 48 < fn ∨ ∀ i < data.length, inTable (fn - 32) (off + i) = false) : exec .bar0Write s = .next s := by
  show execBar0Write s = became s s.dev
  refine runEvent_became ?_
  simp only [hturn]
  split
  next hfn =>
    have hfn : 32 ≤ fn ∧ fn ≤ 48 := by simpa using hfn
    have hout : ∀ i < data.length, inTable (fn - 32) (off + i) = false := by
      rcases h with h | h | h
      · omega
      · omega
      · exact h
    exact congrArg some (barWrites_outside (fun e he => hout e.2 (List.snd_lt_of_mem_zipIdx he)) _)
  next => rfl

/-- An MSI-X table keeps a byte written to a vector that has no message pending (R347). -/
theorem bar0Write_table {b : Byte} (hturn : s.turn = .hostWrite fn off [b]) (hlow : 32 ≤ fn) (hhigh : fn ≤ 48) (htable : inTable (fn - 32) off = true)
    (hpending : (fn - 32) * 256 + (off - msixBase (fn - 32)) / 16 ∉ s.dev.msixPend) :
    exec .bar0Write s = became s { s.dev with msix := s.dev.msix.put ((fn - 32) * 65536 + off) b } := by
  have hkept : barWrite (fn - 32) s.dev off b = { s.dev with msix := s.dev.msix.put ((fn - 32) * 65536 + off) b } := by
    unfold barWrite
    simp [htable, hpending]
  show execBar0Write s = _
  refine runEvent_became ?_
  simp only [hturn, hlow, hhigh, decide_true, Bool.and_self, if_true]
  exact congrArg some hkept

/-! ### CXL.mem (R265) -/

/-- Whether n bytes at a location are in the device's or the host's memory, all of them: in one frame that has a home there (R265, R377). -/
def bytesHere (d : Dev) (loc n : Nat) : Bool :=
  match frameOf loc with
  | some f => decide ((d.frame f).home ≤ 3) && decide (loc % 16384 + n ≤ 16384)
  | none => true

theorem not_not_bytesHere {d : Dev} (h : ∀ f, frameOf loc = some f → (d.frame f).home ≤ 3 ∧ loc % 16384 + n ≤ 16384) :
    ¬(!bytesHere d loc n) = true := by
  unfold bytesHere
  split
  next f hf => simp [h f hf]
  next => decide

section cxl
variable {a : Nat} {acc : HostAcc} (hturn : s.turn = .cxl a acc) (hloc : resultLoc s.dev a n = some loc)
  (hhere : ∀ f, frameOf loc = some f → (s.dev.frame f).home ≤ 3 ∧ loc % 16384 + n ≤ 16384)
include hturn hloc hhere

theorem hostCxlMemAccess_read {b : List (Byte × Bool)} {e : Dev} (hacc : acc = .read n) (hread : loadBytes s.dev hostAgent loc n = (some b, e)) :
    exec .hostCxlMemAccess s = became s { e with hostRead := b.map (·.1) } := by
  show execHostCxlMemAccess s = _
  refine runEvent_became ?_
  simp only [hturn, hacc, hloc, hread]
  exact if_neg (not_not_bytesHere hhere)

theorem hostCxlMemAccess_write {l : Bytes} (hacc : acc = .write l) (hlen : l.length = n) :
    exec .hostCxlMemAccess s = became s (if hostBias s.dev loc then place s.dev (.row hostAgent loc l false) else placeBytes s.dev hostAgent loc l) := by
  show execHostCxlMemAccess s = _
  refine runEvent_became ?_
  simp only [hturn, hacc, hlen, hloc]
  exact if_neg (not_not_bytesHere hhere)

end cxl

/-! ### Measurements (R421) -/

theorem spdmGetMeasurements_became {k j : Nat} (hturn : s.turn = .agent k j) (hk : k ≤ 4) :
    exec .spdmGetMeasurements s = became s { s.dev with hostRead := measurement s.dev k } := by
  show execSpdmGetMeasurements s = _
  refine runEvent_became ?_
  simp only [hturn, if_neg (Nat.not_lt.mpr hk)]

/-- Settles O60: each access by the lemma about it. -/
theorem hostStepResults : Obligations.HostStepResults := by
  unfold Obligations.HostStepResults
  intro s d
  refine ⟨fun fn off loc data hturn hloc => hostWindowWrite_became hturn hloc, ?read, ?write, ?cxl, ?measure⟩
  case read =>
    intro fn off n hturn
    refine ⟨fun loc b e hfn hloc hread => hostWindowRead_window hturn hfn hloc hread, ?pf, ?vf⟩
    case pf =>
      rintro rfl rfl answers
      refine ⟨?_, ?_, ?_, ?_, ?_, ?_, ?event, ?partition⟩
      case event =>
        rintro k hk rfl
        exact hostWindowRead_pf hturn (by omega) (by omega) (pfReg_event hk d)
      case partition =>
        rintro k hk rfl
        exact hostWindowRead_pf hturn (by omega) (by omega) ((pfReg_partition hk d).trans (by rw [partWord_eq]))
      all_goals
        rintro rfl
        exact hostWindowRead_pf hturn (by decide) (by decide) rfl
    case vf =>
      rintro hlow hhigh rfl rfl
      exact hostWindowRead_bar0 hturn hlow hhigh.le rfl (barWord_vf (by omega))
  case write =>
    exact fun fn off data hturn => ⟨bar0Write_outside hturn, fun b hlow hhigh hdata => bar0Write_table (hdata ▸ hturn) hlow hhigh⟩
  case cxl =>
    exact fun a loc n acc hturn hloc hhere =>
      ⟨fun b e => hostCxlMemAccess_read hturn hloc hhere, fun l => hostCxlMemAccess_write hturn hloc hhere⟩
  case measure =>
    exact fun k j hturn hk => ⟨spdmGetMeasurements_became hturn hk, fun h => by rw [h]; rfl, fun h => by rw [h]; rfl⟩

end Sys2Proof.Proofs
end

section
/-! Translations as they arrive and go, page requests and the host's answers to them: each step's own effect (R375, R376, R378, R379). -/

namespace Sys2Proof.Proofs

open Machine Claim

variable {s : State}

/-! ### Completions and invalidations (R375, R376) -/

section completion
variable {die ten size : Nat} {va : Word} {res : AtsRes} (hturn : s.turn = .ats die ten va res size) (hdie : die < dieCount s.dev) (hten : ten < 16)
  (hpage : va.toNat / 16384 < 2 ^ 42) (hasked : (ten, va.toNat / 16384) ∉ s.dev.mmu.refused)
  (hheld : ∀ e ∈ s.dev.mmu.tlb, e.die = die → e.covers ten (va.toNat / 16384) = true → e.res = .unmapped)

include hdie hten hpage hasked hheld in
/-- A completion counts where its die asks for its page (R375). -/
theorem completion_counts {page : Nat} {dirty : Bool} (hle : page ≤ va.toNat / 16384) (hclean : dirty = false) :
    ¬(decide (dieCount s.dev ≤ die) || decide (16 ≤ ten) || decide (2 ^ 42 ≤ page) || dirty || s.dev.mmu.refused.contains (ten, va.toNat / 16384)
      || s.dev.mmu.tlb.any fun e => decide (e.die = die) && e.covers ten (va.toNat / 16384) && decide (e.res ≠ .unmapped)) = true := by
  have hunheld : (s.dev.mmu.tlb.any fun e => decide (e.die = die) && e.covers ten (va.toNat / 16384) && decide (e.res ≠ .unmapped)) = false := by
    simpa using hheld
  have hlow : decide (2 ^ 42 ≤ page) = false := decide_eq_false (Nat.not_le.mpr (hle.trans_lt hpage))
  rw [hunheld, hlow]
  simp [hclean, hasked, Nat.not_le.mpr hdie, Nat.not_le.mpr hten]

/-- What a translation takes the place of in the cache: the answers "not mapped" of its die for its region, and those of any die for its pages. -/
theorem replaced_by_translation (die ten held unmapped page : Bool) :
    (die && ten && held && unmapped || true && ten && unmapped && page) = (unmapped && ten && (die && held || page)) := by
  revert die ten held unmapped page; decide

/-- What an answer "not mapped" takes the place of: the earlier ones of its die for its page. -/
theorem replaced_by_unmapped (die ten held unmapped page : Bool) :
    (die && ten && held && unmapped || false && ten && unmapped && page) = (unmapped && ten && die && held) := by
  revert die ten held unmapped page; decide

include hturn hdie hten hpage hasked hheld

theorem atsCompletion_mapped {rd wr : Bool} {p : Nat} (hres : atsValue s.dev size res = .mapped rd wr p)
    (hclean : ∀ k < 2 ^ size, ∀ f, frameOf (p + 16384 * k) = some f → scrubbing s.dev f = false) :
    let base := alignDown (va.toNat / 16384) (2 ^ size)
    let kept := s.dev.mmu.tlb.filter fun e => !(decide (e.res = .unmapped) && decide (e.ten = ten)
      && (decide (e.die = die) && overlap e.page (2 ^ e.size) base (2 ^ size) || overlap e.page 1 base (2 ^ size)))
    exec .atsCompletion s = became s (watchScan (killRefused (ownFrames ten p (2 ^ size)
      { s.dev with mmu := { s.dev.mmu with tlb := roomInCache die kept ++ [{ die := die, ten := ten, page := base, res := .mapped rd wr p, size := size }] } }))) := by
  intro base kept
  have hdirty : ((List.range (2 ^ size)).any fun k => (frameOf (p + 16384 * k)).any (scrubbing s.dev)) = false := by
    simpa [Option.any_eq_false] using hclean
  have hne : decide (AtsRes.mapped rd wr p ≠ .unmapped) = true := rfl
  show execAtsCompletion s = _
  refine runEvent_became ?_
  simp only [hturn, hres, hne, replaced_by_translation]
  exact if_neg (completion_counts hdie hten hpage hasked hheld (Nat.sub_le ..) hdirty)

theorem atsCompletion_unmapped (hres : atsValue s.dev size res = .unmapped) :
    let page := va.toNat / 16384
    let kept := s.dev.mmu.tlb.filter fun e => !(decide (e.res = .unmapped) && decide (e.ten = ten) && decide (e.die = die) && overlap e.page (2 ^ e.size) page 1)
    exec .atsCompletion s = became s (watchScan (killRefused
      { s.dev with mmu := { s.dev.mmu with tlb := roomInCache die kept ++ [{ die := die, ten := ten, page := page, res := .unmapped, size := 0 }] } })) := by
  intro page kept
  have halign : alignDown (va.toNat / 16384) (2 ^ 0) = va.toNat / 16384 := by rw [alignDown, pow_zero, Nat.mod_one, Nat.sub_zero]
  have hne : decide (AtsRes.unmapped ≠ .unmapped) = false := rfl
  show execAtsCompletion s = _
  refine runEvent_became ?_
  simp only [hturn, hres, hne, halign, replaced_by_unmapped]
  exact if_neg (completion_counts hdie hten hpage hasked hheld le_rfl rfl)

theorem atsCompletion_refused (hres : atsValue s.dev size res = .refused) :
    exec .atsCompletion s = became s (refusePage ten (va.toNat / 16384) s.dev) := by
  show execAtsCompletion s = _
  refine runEvent_became ?_
  simp only [hturn, hres]
  exact if_neg (completion_counts hdie hten hpage hasked hheld (Nat.sub_le ..) rfl)

end completion

theorem atsInvalidate_became {ten : Nat} {lo hi : Word} (hturn : s.turn = .inval ten lo hi) :
    let m := s.dev.mmu
    let kept := m.tlb.filter fun e => !(decide (e.ten = ten) && decide (lo.toNat < (e.page + 2 ^ e.size) * 16384) && decide (e.page * 16384 < hi.toNat))
    let still := m.refused.filter fun x => !(decide (x.1 = ten) && decide (lo.toNat < (x.2 + 1) * 16384) && decide (x.2 * 16384 < hi.toNat))
    exec .atsInvalidate s = became s { s.dev with mmu := { m with tlb := kept, refused := still } } := by
  intro m kept still
  show execAtsInvalidate s = _
  refine runEvent_became ?_
  simp only [hturn]
  rfl

/-! ### Page requests (R378, R379) -/

section request
variable {k j : Nat} {r : PageReq} (hturn : s.turn = .agent k j) (hreq : s.dev.mmu.reqs[k]? = some r)
include hturn hreq

theorem pageRequest_refused (h : pageEntry s.dev r.ten r.page = some .refused ∨ (pageEntry s.dev r.ten r.page = some .unmapped ∧ r.ten ∈ s.dev.mmu.dead)) :
    exec .pageRequest s = became s (refusePage r.ten r.page s.dev) := by
  show execPageRequest s = _
  refine runEvent_became ?_
  rcases h with hentry | ⟨hentry, hdead⟩
  · simp only [hturn, hreq, hentry]
  · simp only [hturn, hreq, hentry, List.contains_iff_mem.mpr hdead, if_true]

/-- The host is asked: the oldest request of its tenant, while the host has fewer than 256 of them (R378). -/
theorem pageRequest_sent (hentry : pageEntry s.dev r.ten r.page = some .unmapped) (hdead : r.ten ∉ s.dev.mmu.dead) (hsent : r.sent = false)
    (hroom : (unmappedReqs s.dev r.ten true).length < 256) (hfirst : (unmappedReqs s.dev r.ten false).head? = some r) :
    exec .pageRequest s = became s { s.dev with mmu := { s.dev.mmu with reqs := s.dev.mmu.reqs.set k { r with sent := true } } } := by
  have hlive : ¬s.dev.mmu.dead.contains r.ten = true := by rwa [List.contains_iff_mem]
  show execPageRequest s = _
  refine runEvent_became ?_
  simp only [hturn, hreq, hentry, if_neg hlive]
  exact if_neg (by simp [hsent, hfirst, hroom])

section mapped
variable {rd wr : Bool} {p n : Nat} (hentry : pageEntry s.dev r.ten r.page = some (.mapped rd wr p)) (hframe : frameOf p = some n)
include hentry hframe

-- The lets stay in place: without them the kernel unfolds `frameOf` to compare the two goals.
theorem pageRequest_here (hhome : (s.dev.frame n).home ≤ 3) : exec .pageRequest s = became s (dropUnmapped r.ten r.page (dropRequest r.ten r.page s.dev)) := by
  show execPageRequest s = _
  refine runEvent_became ?_
  simp -zeta only [hturn, hreq, hentry, hframe]
  exact if_pos hhome

/-- A frame of a remote peer is pulled (R383). -/
theorem pageRequest_pull (hhome : (s.dev.frame n).home = 6) : exec .pageRequest s = became s (s.dev.modFrame n fun x => { x with pull := true }) := by
  show execPageRequest s = _
  refine runEvent_became ?_
  simp only [hturn, hreq, hentry, hframe, hhome, Nat.reduceLeDiff, Nat.reduceEqDiff, if_false, if_true]

/-- A frame whose pull failed ends the request (R383). -/
theorem pageRequest_failed (hhome : (s.dev.frame n).home = 7) : exec .pageRequest s = became s (killRefused (dropRequest r.ten r.page s.dev)) := by
  show execPageRequest s = _
  refine runEvent_became ?_
  simp only [hturn, hreq, hentry, hframe, hhome, Nat.reduceLeDiff, Nat.reduceEqDiff, if_false, if_true]

/-- A frame in module flash or at its first use is placed in the first tier with room, at its first use as zeros (R378). -/
theorem pageRequest_placed {h : Nat} (hhome : (s.dev.frame n).home = 4 ∨ (s.dev.frame n).home = 5) (htier : placeTier s.dev = some h) :
    let e := if (s.dev.frame n).home = 5 then zeroRange (frameLoc n) 16384 s.dev else s.dev
    exec .pageRequest s = became s (dropUnmapped r.ten r.page (dropRequest r.ten r.page (e.modFrame n fun x => { x with home := h, accessed := true }))) := by
  show execPageRequest s = _
  refine runEvent_became ?_
  rcases hhome with hhome | hhome
  all_goals
    simp only [hturn, hreq, hentry, hframe, hhome, htier, Nat.reduceLeDiff, Nat.reduceEqDiff, if_false, if_true]

end mapped
end request

/-! ### The host's answers (R378) -/

section response
variable {ten : Nat} {va : Word} {ans : PriAns} {r : PageReq} (hturn : s.turn = .pri ten va ans)
  (hsent : s.dev.mmu.reqs.find? (fun r => decide (r.ten = ten) && decide (r.page = va.toNat / 16384) && r.sent) = some r)
include hturn hsent

/-- The request goes on: ATS is asked again (R378). -/
theorem priResponse_success (hans : ans = .success) :
    let reqs := s.dev.mmu.reqs.map fun x => if x = r then { x with sent := false } else x
    exec .priResponse s = became s (dropEntries ten (va.toNat / 16384) { s.dev with mmu := { s.dev.mmu with reqs := reqs } }) := by
  show execPriResponse s = _
  refine runEvent_became ?_
  simp only [hturn, hsent, hans]

theorem priResponse_invalid (hans : ans = .invalid) : exec .priResponse s = became s (refusePage ten (va.toNat / 16384) s.dev) := by
  show execPriResponse s = _
  refine runEvent_became ?_
  simp only [hturn, hsent, hans]

/-- The tenant's requests end, and no other is sent until a reset (R378). -/
theorem priResponse_failure (hans : ans = .failure) :
    let e : Dev := { s.dev with mmu := { s.dev.mmu with dead := insertNat ten s.dev.mmu.dead } }
    let ps := (unmappedReqs e ten true ++ unmappedReqs e ten false).map (·.page)
    exec .priResponse s = became s (ps.foldl (fun e p => refusePage ten p e) e) := by
  show execPriResponse s = _
  refine runEvent_became ?_
  simp only [hturn, hsent, hans]

end response

theorem priReset_became {ten j : Nat} (hturn : s.turn = .agent ten j) :
    exec .priReset s = became s { s.dev with mmu := { s.dev.mmu with dead := s.dev.mmu.dead.filter fun x => decide (x ≠ ten) } } := by
  show execPriReset s = _
  refine runEvent_became ?_
  simp only [hturn]

end Sys2Proof.Proofs
end

section
/-! Frames as they age, move, are pulled, flip their bias and are scrubbed: each step's own effect (R266, R342, R380, R381, R383, R384). -/

namespace Sys2Proof.Proofs

open Machine Claim

variable {s : State}

/-! ### Ages, moves and pulls (R342, R380, R381, R383) -/

theorem frameAgeTick_became (hg : s.dev.fw.gstat = 1) :
    let aged (x : Frame) : Frame := { x with age := if x.accessed then 0 else min 255 (x.age + 1), accessed := false }
    exec .frameAgeTick s = became s { s.dev with mmu := { s.dev.mmu with frames := s.dev.mmu.frames.map fun e => (e.1, aged e.2) } } := by
  show execFrameAgeTick s = _
  exact runGaffer_became hg rfl

/-- A demotion step that is below LOW, or has begun and is below HIGH, moves its victim down (R380). -/
theorem demote_eq {d : Dev} {a n h : Nat} (hlow : freeFrames d a < lowMark d a ∨ (vget d.mmu.demoting a false = true ∧ freeFrames d a < highMark d a))
    (hvictim : victimFrame d a = some n) (htier : demoteTier d a = some h) (hroom : h ≤ 3 → 0 < freeFrames d h) :
    let e := d.modFrame n fun x => { x with home := h }
    demote d a = some { e with mmu := { e.mmu with demoting := vset e.mmu.demoting a (decide (freeFrames e a < highMark e a)) } } := by
  intro e
  have hmoves : ¬(!(decide (freeFrames d a < lowMark d a) || (vget d.mmu.demoting a false && !decide (highMark d a ≤ freeFrames d a)))) = true := by
    rcases hlow with hlow | ⟨hbegun, hhigh⟩
    · simp [hlow]
    · simp [hbegun, hhigh]
  have hfits : ¬(decide (h ≤ 3) && decide (freeFrames d h = 0)) = true := by
    rw [Bool.and_eq_true, decide_eq_true_eq, decide_eq_true_eq]
    exact fun ⟨hle, hzero⟩ => (hroom hle).ne' hzero
  unfold demote
  simp -zeta only [hvictim, htier]
  exact (if_neg hmoves).trans (if_neg hfits)

/-- A read-only frame of a running tiered launch moves up, unless another launch has it pinned elsewhere, and is pinned where it is then (R342). -/
theorem promote_eq {d : Dev} {l f h : Nat} {x : Launch} (hx : d.launch? l = some x) (hplan : x.plan ≠ 0) (hst : x.st = .running) (hone : h ≤ 1)
    (hup : h ≤ (d.frame f).home) (hhome : (d.frame f).home ≤ 4) (howner : (d.frame f).owner = some x.ten) (hread : readOnlyFrame d x.ten f = true)
    (hscrub : scrubbing d f = false) (hmove : (d.frame f).home ≠ h → 0 < freeFrames d h ∧ ∀ p ∈ (d.frame f).pins, p = l) :
    promote d l f h = some (d.modFrame f fun y => { y with home := h, pins := if l ∈ y.pins then y.pins else y.pins ++ [l] }) := by
  have hstays : (!decide ((d.frame f).home = h) && (decide (freeFrames d h = 0) || !((d.frame f).pins.filter (· ≠ l)).isEmpty)) = false := by
    by_cases hthere : (d.frame f).home = h
    · simp [hthere]
    · obtain ⟨hroom, hpins⟩ := hmove hthere
      have hother : (d.frame f).pins.filter (· ≠ l) = [] := List.filter_eq_nil_iff.mpr fun p hp => by simp [hpins p hp]
      rw [hother, decide_eq_false hroom.ne', Bool.false_or, List.isEmpty_nil, Bool.not_true, Bool.and_false]
  unfold promote
  simp -zeta only [hx]
  refine (if_neg ?_).trans ?_
  · rw [hstays]
    simp [hplan, hst, howner, hread, hscrub, Nat.not_lt.mpr hone, Nat.not_lt.mpr hup, Nat.not_lt.mpr hhome]
  · simp only [List.contains_iff_mem]

section move
variable {a f : Nat} (hturn : s.turn = .agent a f)
include hturn

theorem frameMove_demotes {e : Dev} (ha : a < 4) (h : demote s.dev a = some e) : exec .frameMove s = became s e := by
  show execFrameMove s = _
  refine runEvent_became ?_
  simp only [hturn, if_pos ha, h]

theorem frameMove_promotes {e : Dev} (ha : 16 ≤ a) (h : promote s.dev ((a - 16) / 2) f (a % 2) = some e) : exec .frameMove s = became s e := by
  have hstep : ¬a < 4 := by omega
  show execFrameMove s = _
  refine runEvent_became ?_
  simp only [hturn, if_neg hstep, if_neg (Nat.not_lt.mpr ha), h]

/-- A pull that fails refuses its frame, and its owner hears of it (R383). -/
theorem pullFail_became (hhome : (s.dev.frame a).home = 6) (hpull : (s.dev.frame a).pull = true) :
    let e := killRefused (s.dev.modFrame a fun x => { x with home := 7, pull := false })
    exec .pullFail s = became s (match (s.dev.frame a).owner with
      | some ten => postEvent e ten { kind := 6, strm := 0, cause := 0x27, tag := 0, seq := a, rc := 0, sqid := 0x3FF }
      | none => e) := by
  intro e
  show execPullFail s = _
  refine runEvent_became ?_
  simp -zeta only [hturn]
  exact if_neg (by simp [hhome, hpull])

end move

theorem pullComplete_became {f h : Nat} {data : Bytes} (hturn : s.turn = .pull f data) (htier : placeTier s.dev = some h)
    (hhome : (s.dev.frame f).home = 6) (hpull : (s.dev.frame f).pull = true) (hlen : data.length = 16384) :
    exec .pullComplete s = became s (place (s.dev.modFrame f fun x => { x with home := h, pull := false }) (.row peerAgent (frameLoc f) data false)) := by
  show execPullComplete s = _
  refine runEvent_became ?_
  have harrived : ¬(decide ((s.dev.frame f).home ≠ 6) || !(s.dev.frame f).pull || decide (data.length ≠ 16384)) = true := by
    simp [hhome, hpull, hlen]
  rw [hturn, htier]
  exact if_neg harrived

/-! ### Flips and scrubs (R266, R381, R384) -/

theorem biasFlip_became {f n stat : Nat} {dev : Bool} (hflips : s.dev.mmu.flips = some (f, n, stat, dev)) (hplaced : placedIn s.dev (frameLoc f) 16384 = false)
    (hfar : farIn s.dev (frameLoc f) 16384 = false) :
    let e := s.dev.modFrame f fun x => { x with devBias := dev }
    exec .biasFlip s = became s (if n ≤ 1 then putStatus stat 0 { e with mmu := { e.mmu with flips := none } }
      else { e with mmu := { e.mmu with flips := some (f + 1, n - 1, stat, dev) } }) := by
  intro e
  show execBiasFlip s = _
  refine runEvent_became ?_
  simp -zeta only [hflips]
  exact if_neg (by simp [hplaced, hfar])

theorem frameScrub_became {c : Scrub} {l : List Scrub} (hscrubs : s.dev.mmu.scrubs = c :: l) (hplaced : placedIn s.dev c.base c.len = false)
    (hfar : farIn s.dev c.base c.len = false) :
    let e := dropLoose c.base c.len (dropUnits c.base c.len s.dev)
    let g := match c.frame with
      | some f => { dropFrameEntries f e with mmu := { (dropFrameEntries f e).mmu with frames := (dropFrameEntries f e).mmu.frames.erase f } }
      | none => e
    let z := zeroRange c.base c.len { g with mmu := { g.mmu with scrubs := l } }
    exec .frameScrub s = became s (match c.stat with | some (a, v) => gput z a 8 v | none => z) := by
  intro e g z
  show execFrameScrub s = _
  refine runEvent_became ?_
  simp -zeta only [hscrubs]
  exact if_neg (by simp [hplaced, hfar])

/-- Settles O57: each step by the lemma about it. -/
theorem translationStepResults : Obligations.TranslationStepResults := by
  unfold Obligations.TranslationStepResults
  intro s d
  refine ⟨?completion, fun ten lo hi hturn => atsInvalidate_became hturn, ?request, ?response, frameAgeTick_became, ?frame,
    fun f h data hturn => pullComplete_became hturn, fun f n stat dev => biasFlip_became, fun c l => frameScrub_became⟩
  case completion =>
    intro die ten size va res hturn hdie hten page hpage hasked hheld base cached
    exact ⟨fun rd wr p => atsCompletion_mapped hturn hdie hten hpage hasked hheld, atsCompletion_unmapped hturn hdie hten hpage hasked hheld,
      atsCompletion_refused hturn hdie hten hpage hasked hheld⟩
  case request =>
    intro k j r hturn hreq done
    refine ⟨pageRequest_refused hturn hreq, pageRequest_sent hturn hreq, fun rd wr p n hentry hframe => ?_⟩
    exact ⟨pageRequest_here hturn hreq hentry hframe, pageRequest_pull hturn hreq hentry hframe, pageRequest_failed hturn hreq hentry hframe,
      fun h => pageRequest_placed hturn hreq hentry hframe⟩
  case response =>
    exact fun ten va ans r hturn hsent => ⟨priResponse_success hturn hsent, priResponse_invalid hturn hsent, priResponse_failure hturn hsent⟩
  case frame =>
    intro a f hturn
    refine ⟨priReset_became hturn, ?demotion, ?promotion, pullFail_became hturn⟩
    case demotion =>
      exact fun n h ha hlow hvictim htier hroom => frameMove_demotes hturn ha (demote_eq hlow hvictim htier hroom)
    case promotion =>
      intro x ha hx hplan hst hup hhome howner hread hscrub hmove
      have hone : a % 2 ≤ 1 := by omega
      exact frameMove_promotes hturn ha (promote_eq hx hplan hst hone hup hhome howner hread hscrub hmove)

end Sys2Proof.Proofs
end

section
/-! Near-data scalars, branches, loops and the ends of a unit's part (R287 to R291, R308). -/

namespace Sys2Proof.Proofs
open Machine Claim

variable {s : State} {u n : Nat} {x : NearCtx} {d : Dev} {f g : Near → Near}

/-! ### What an instruction leaves of its unit -/

theorem modUnit_modUnit_same (h : f (d.unit u) = d.unit u) : (d.modUnit u f).modUnit u g = d.modUnit u g := by
  rw [Dev.modUnit_modUnit]
  simp only [Dev.modUnit, h]

theorem nearAfter_modUnit_same (h : f (d.unit u) = d.unit u) : nearAfter u n (d.modUnit u f) = nearAfter u n d := by
  simp only [nearAfter, nearCycle, modUnit_modUnit_same h]

/-- An instruction that changes nothing of its unit but where control goes. -/
theorem runNear_goes {m : NearM Unit} (ht : nearTurn s u) (hm : m (nearCtx s u) = .ok ((), { nearCtx s u with next := n })) :
    runNear m s = .next (unitTo s u n id) := by
  rw [runNear_ok ht hm rfl, unitTo, nearAfter_modUnit_same rfl]
  rfl

/-- A change of the unit that is made under a condition. -/
def changedIf (c : Prop) [Decidable c] (f : Near → Near) (x : NearCtx) : NearCtx := if c then withUnit x f else x

section changedIf
variable {c : Prop} [Decidable c] (h : ¬ c → f (x.dev.unit x.u) = x.dev.unit x.u)

@[simp] theorem changedIf_u : (changedIf c f x).u = x.u := by
  unfold changedIf
  split <;> rfl

@[simp] theorem changedIf_next : (changedIf c f x).next = x.next := by
  unfold changedIf
  split <;> rfl

include h

theorem withUnit_changedIf : withUnit (changedIf c f x) g = withUnit x fun z => g (f z) := by
  unfold changedIf
  split
  case isTrue => exact withUnit_withUnit ..
  case isFalse hc => exact withUnit_congr (congrArg g (h hc).symm)

theorem nearAfter_changedIf : nearAfter x.u n (changedIf c f x).dev = nearAfter x.u n (withUnit x f).dev := by
  unfold changedIf
  split
  case isTrue => rfl
  case isFalse hc => exact (nearAfter_modUnit_same (h hc)).symm

theorem ctxLeft_changedIf : ctxLeft s (changedIf c f x) = ctxLeft s (withUnit x f) := by
  simp only [ctxLeft, changedIf_u, changedIf_next, nearAfter_changedIf h]
  rfl

end changedIf

/-! ### g registers and masks (R282) -/

/-- The context with a g register written. -/
abbrev gWritten (r : BitVec 4) (v : Word) (p : Bool) (x : NearCtx) : NearCtx := changedIf (r ≠ 0) (withG r v p) x

/-- The context with a mask written. -/
abbrev maskWritten (r : BitVec 3) (v : BitVec 16) (x : NearCtx) : NearCtx := changedIf (r ≠ 0) (withMask r v) x

theorem withG_zero {r : BitVec 4} (hr : r = 0) (v : Word) (p : Bool) (z : Near) : withG r v p z = z := if_pos hr
theorem withMask_zero {r : BitVec 3} (hr : r = 0) (v : BitVec 16) (z : Near) : withMask r v z = z := if_pos hr

@[simp] theorem near_g_app (r : BitVec 4) (x : NearCtx) :
    NearOp.g r x = .ok ((gOf (x.dev.unit x.u) r, gPoison (x.dev.unit x.u) r), x) := by
  by_cases hr : r = 0#4 <;> simp [NearOp.g, gOf, gPoison, hr]

@[simp] theorem near_putG_app (r : BitVec 4) (v : Word) (p : Bool) (x : NearCtx) : NearOp.putG r v p x = .ok ((), gWritten r v p x) := by
  by_cases hr : r = 0
  · rw [NearOp.putG, gWritten, changedIf, if_pos hr, if_neg (not_not.mpr hr)]
    rfl
  · rw [NearOp.putG, gWritten, changedIf, if_neg hr, if_pos hr]
    exact congrArg (fun y => Except.ok ((), y)) (withUnit_congr (if_neg hr).symm)

@[simp] theorem near_putMask_app (r : BitVec 3) (v : BitVec 16) (x : NearCtx) : NearOp.putMask r v x = .ok ((), maskWritten r v x) := by
  by_cases hr : r = 0
  · rw [NearOp.putMask, maskWritten, changedIf, if_pos hr, if_neg (not_not.mpr hr)]
    rfl
  · rw [NearOp.putMask, maskWritten, changedIf, if_neg hr, if_pos hr]
    exact congrArg (fun y => Except.ok ((), y)) (withUnit_congr (if_neg hr).symm)

theorem near_flags_gWritten (r : BitVec 4) (v : Word) (p : Bool) (fl : BitVec 24) (x : NearCtx) :
    NearOp.flags fl (gWritten r v p x) = .ok ((), withUnit x fun z => Claim.withFlags fl (withG r v p z)) := by
  rw [near_flags_app, withUnit_changedIf fun hr => withG_zero (not_not.mp hr) ..]

theorem near_flags_maskWritten (r : BitVec 3) (v : BitVec 16) (fl : BitVec 24) (x : NearCtx) :
    NearOp.flags fl (maskWritten r v x) = .ok ((), withUnit x fun z => Claim.withFlags fl (withMask r v z)) := by
  rw [near_flags_app, withUnit_changedIf fun hr => withMask_zero (not_not.mp hr) ..]

/-- An instruction that only writes a g register. -/
theorem runNear_g {m : NearM Unit} {r : BitVec 4} {v : Word} {p : Bool} (ht : nearTurn s u)
    (hm : m (nearCtx s u) = .ok ((), gWritten r v p (nearCtx s u))) : runNear m s = .next (unitLeft s u (withG r v p)) := by
  rw [runNear_ok ht hm (changedIf_u ..), ctxLeft_changedIf fun hr => withG_zero (not_not.mp hr) ..]
  rfl

/-- An instruction that only writes a mask. -/
theorem runNear_mask {m : NearM Unit} {r : BitVec 3} {v : BitVec 16} (ht : nearTurn s u)
    (hm : m (nearCtx s u) = .ok ((), maskWritten r v (nearCtx s u))) : runNear m s = .next (unitLeft s u (withMask r v)) := by
  rw [runNear_ok ht hm (changedIf_u ..), ctxLeft_changedIf fun hr => withMask_zero (not_not.mp hr) ..]
  rfl

/-! ### Scalars (R287, R288) -/

/-- A scalar operation leaves its value, poisoned when an operand is (R287). -/
theorem runNear_scalar (ht : nearTurn s u) (d a b : BitVec 4) (op : Word → Word → Word) :
    let x := s.dev.unit u
    runNear (NearOp.scalar d a b op) s = .next (unitLeft s u (withG d (op (gOf x a) (gOf x b)) (gPoison x a || gPoison x b))) := by
  refine runNear_g ht ?_
  simp [NearOp.scalar]

theorem nearScalars_meaning : ∀ e ∈ nearScalars, ∀ (d a b : BitVec 4) (s : State), exec (e.1 d a b) s = runNear (NearOp.scalar d a b e.2) s := by
  simp only [nearScalars, List.forall_mem_cons, List.not_mem_nil, false_imp_iff, implies_true, and_true]
  and_intros <;> exact fun _ _ _ _ => rfl

/-- Settles O44: the thirteen instructions are one shared meaning, and the immediates write one register. -/
theorem nearScalarResults : Obligations.NearScalarResults := by
  unfold Obligations.NearScalarResults
  intro s u ht x
  refine ⟨?scalars, fun d a i => ⟨?gaddi, ?gmovi⟩, fun d h c => ?glui⟩
  case scalars =>
    intro e he d a b
    rw [nearScalars_meaning e he]
    exact runNear_scalar ht d a b e.2
  case gaddi =>
    show execGaddi d a i s = _
    exact runNear_g ht (by simp [x])
  case gmovi =>
    show execGmovi d i s = _
    exact runNear_g ht (near_putG_app ..)
  case glui =>
    show execGlui d h c s = _
    rw [← setBits_word]
    exact runNear_g ht (by simp [x])

end Sys2Proof.Proofs
end

section
/-! Near-data branches, loops and the ends of a unit's part of a launch (R289 to R291, R308, R331). -/

namespace Sys2Proof.Proofs
open Machine Claim

variable {s : State} {u n : Nat} {x : NearCtx} {a b : BitVec 4}

@[simp] theorem near_num_app (x : NearCtx) : NearOp.num x = .ok (x.u, x) := rfl
@[simp] theorem near_jump_app (w : Nat) (x : NearCtx) : NearOp.jump w x = .ok ((), { x with next := w }) := rfl

/-- An instruction that changes its unit and goes to a word. -/
theorem runNear_to {m : NearM Unit} {f : Near → Near} (ht : nearTurn s u)
    (hm : m (nearCtx s u) = .ok ((), { withUnit (nearCtx s u) f with next := n })) : runNear m s = .next (unitTo s u n f) :=
  runNear_ok ht hm rfl

/-- One that changes its unit under a condition, and goes to a word. -/
theorem runNear_changedIf {m : NearM Unit} {f : Near → Near} {c : Prop} [Decidable c] (h : ¬ c → f (s.dev.unit u) = s.dev.unit u) (ht : nearTurn s u)
    (hm : m (nearCtx s u) = .ok ((), { changedIf c f (nearCtx s u) with next := n })) : runNear m s = .next (unitTo s u n f) := by
  rw [runNear_ok ht hm (changedIf_u ..), ctxLeft, changedIf_u, nearAfter_changedIf (x := nearCtx s u) h]
  rfl

/-- Only what a meaning does from where the unit stands counts. -/
theorem runNear_congr {f g : NearM Unit} (ht : nearTurn s u) (h : f (nearCtx s u) = g (nearCtx s u)) : runNear f s = runNear g s := by
  obtain ⟨⟨i, hturn⟩, -⟩ := ht
  simp only [nearCtx] at h
  simp only [runNear, hturn, nearRun, h]

/-! ### Branches (R289) -/

/-- A branch on registers that are not poisoned goes to its own word plus its offset when its condition holds, else to the next word. -/
theorem runNear_branch {c : Nat → Nat → Bool} {o : BitVec 15} (ht : nearTurn s u) (ha : gPoison (s.dev.unit u) a = false)
    (hb : gPoison (s.dev.unit u) b = false) :
    let x := s.dev.unit u
    runNear (NearOp.branch a b o c) s
      = .next (unitTo s u (if c (gOf x a).toNat (gOf x b).toNat then ((x.pc : Int) + o.toInt).toNat else x.pc + 1) id) := by
  intro x
  refine runNear_goes ht ?_
  simp only [NearOp.branch, near_bind_app, near_gClean_app (x := nearCtx s u) ha, near_gClean_app (x := nearCtx s u) hb, near_me_app, near_ok_bind,
    nearCtx_unit]
  by_cases hc : c (gOf x a).toNat (gOf x b).toNat = true
  · rw [if_pos hc, if_pos hc]
    rfl
  · rw [if_neg hc, if_neg hc]
    rfl

theorem sx_toNat (v : Word) : sx 64 v.toNat = v.toInt := Laws.sInt_eq v

/-- The condition of each branch, on the numbers of its registers. -/
theorem nearBranches_meaning : ∀ e ∈ nearBranches, ∃ c : Nat → Nat → Bool, (∀ v w : Word, c v.toNat w.toNat = e.2 v w)
    ∧ ∀ (a b : BitVec 4) (o : BitVec 15) (s : State), exec (e.1 a b o) s = runNear (NearOp.branch a b o c) s := by
  simp only [nearBranches, List.forall_mem_cons, List.not_mem_nil, false_imp_iff, implies_true, and_true]
  refine ⟨⟨_, ?_, fun _ _ _ _ => rfl⟩, ⟨_, ?_, fun _ _ _ _ => rfl⟩, ⟨_, ?_, fun _ _ _ _ => rfl⟩, ⟨_, ?_, fun _ _ _ _ => rfl⟩,
    ⟨_, ?_, fun _ _ _ _ => rfl⟩, ⟨_, ?_, fun _ _ _ _ => rfl⟩⟩
  all_goals simp [sx_toNat, BitVec.toNat_inj]

/-! ### Loops (R290, R331) -/

/-- The unit with the passes of the band loop counted as an nloop of count n begins them, if it begins the band loop. -/
def bandBegun (n : Nat) (x y : Near) : Near := if x.ndloop = some x.pc then { y with passes := min n 1 } else y

/-- A change of the unit under a condition, and what follows it either way. -/
theorem near_ite_modMe_app {α : Type} {c : Prop} [Decidable c] {f g : Near → Near} {k : NearM α} (h : c → f (x.dev.unit x.u) = g (x.dev.unit x.u)) :
    (if c then NearOp.modMe f >>= fun _ => k else k) x = k (changedIf c g x) := by
  unfold changedIf
  split
  case isTrue hc => exact congrArg k (withUnit_congr (h hc))
  case isFalse => rfl

@[simp] theorem bandBegun_loops (n : Nat) (x y : Near) : (bandBegun n x y).loops = y.loops := by
  unfold bandBegun
  split <;> rfl

/-- An nloop of count n after its checks: it skips its body, or begins it. -/
def loopBegins (n : Nat) (o : BitVec 15) (x : Near) : NearM Unit :=
  if n = 0 then NearOp.jump (x.pc + o.toNat + 1)
  else NearOp.modMe fun y => { y with loops := { index := 0, remaining := BitVec.ofNat 32 n, first := x.pc + 1 } :: y.loops }

/-- An nloop with room on the stack goes on once it has counted the passes of the band loop. -/
theorem execNloop_begins {o : BitVec 15} (ht : nearTurn s u) (ha : gPoison (s.dev.unit u) a = false) (hcount : (gOf (s.dev.unit u) a).toNat < 2 ^ 32)
    (hroom : (gOf (s.dev.unit u) a).toNat ≠ 0 → (s.dev.unit u).loops.length ≠ 6) :
    let x := s.dev.unit u
    let n := (gOf x a).toNat
    exec (.nloop a o) s = runNear (fun y => loopBegins n o x (changedIf (x.ndloop = some x.pc) (bandBegun n x) y)) s := by
  intro x n
  have hfew : ¬ 2 ^ 32 - 1 < (gOf (s.dev.unit u) a).toNat := Nat.not_lt.mpr (Nat.le_sub_one_of_lt hcount)
  show execNloop a o s = _
  refine runNear_congr ht ?_
  simp only [near_bind_app, near_gClean_app (x := nearCtx s u) ha, near_me_app, near_ok_bind, nearCtx_unit, if_neg hfew]
  refine (near_ite_modMe_app (g := bandBegun n x) fun hb => (if_pos hb).symm).trans ?_
  by_cases hn : n = 0
  · exact (congrFun (if_pos hn) _).trans (congrFun (if_pos hn) _).symm
  · exact (congrFun ((if_neg hn).trans (if_neg (hroom hn))) _).trans (congrFun (if_neg hn) _).symm

/-- An nloop with room on the stack begins its body, or skips it for a count of zero (R290). -/
theorem execNloop_eq {o : BitVec 15} (ht : nearTurn s u) (ha : gPoison (s.dev.unit u) a = false) (hcount : (gOf (s.dev.unit u) a).toNat < 2 ^ 32)
    (hroom : (gOf (s.dev.unit u) a).toNat ≠ 0 → (s.dev.unit u).loops.length ≠ 6) :
    let x := s.dev.unit u
    let n := (gOf x a).toNat
    exec (.nloop a o) s = .next (if n = 0 then unitTo s u (x.pc + o.toNat + 1) (bandBegun n x)
      else unitLeft s u fun y => { bandBegun n x y with loops := { index := 0, remaining := BitVec.ofNat 32 n, first := x.pc + 1 } :: y.loops }) := by
  intro x n
  have hband : ¬ x.ndloop = some x.pc → bandBegun n x x = x := fun h => if_neg h
  rw [execNloop_begins ht ha hcount hroom]
  by_cases hn : n = 0
  · rw [if_pos hn]
    exact runNear_changedIf hband ht (congrFun (if_pos hn) _)
  · rw [if_neg hn]
    refine runNear_unit ht ((congrFun (if_neg hn) _).trans ?_)
    rw [near_modMe_app, withUnit_changedIf (x := nearCtx s u) hband]
    simp only [bandBegun_loops]
    rfl

/-- An nendl goes back while passes remain, counting those of the band loop, and else pops its entry (R290, R331). -/
theorem execNendl_eq {e : NLoop} {l : List NLoop} (ht : nearTurn s u) (hl : (s.dev.unit u).loops = e :: l) :
    let x := s.dev.unit u
    exec .nendl s = .next (if e.remaining = 1 then unitLeft s u fun y => { y with loops := l }
      else unitTo s u e.first fun y => { y with loops := { e with index := e.index + 1, remaining := e.remaining - 1 } :: l,
                                                passes := if x.ndloop.map (· + 1) = some e.first then x.passes + 1 else x.passes }) := by
  intro x
  show execNendl s = _
  have hr : e.remaining - 1 = 0 ↔ e.remaining = 1 := by bv_omega
  by_cases hlast : e.remaining = 1
  · rw [if_pos hlast]
    refine runNear_unit ht ?_
    simp only [near_bind_app, near_me_app, near_ok_bind, nearCtx_unit, hl, if_pos (hr.mpr hlast)]
    rfl
  · rw [if_neg hlast]
    refine runNear_to ht ?_
    simp only [near_bind_app, near_me_app, near_ok_bind, nearCtx_unit, hl, if_neg (mt hr.mp hlast)]
    refine congrArg (fun y : NearCtx => Except.ok ((), { y with next := e.first })) (withUnit_congr (x := nearCtx s u) ?_)
    simp [NLoop.isBand, x]

theorem execNlpop_eq {e : NLoop} {l : List NLoop} (ht : nearTurn s u) (hl : (s.dev.unit u).loops = e :: l) :
    exec .nlpop s = .next (unitLeft s u fun y => { y with loops := l }) := by
  show execNlpop s = _
  refine runNear_unit ht ?_
  simp only [near_bind_app, near_me_app, near_ok_bind, nearCtx_unit, hl]
  rfl

theorem execGmvi_eq (ht : nearTurn s u) (d : BitVec 4) (n : BitVec 3) : exec (.gmvi d n) s =
    .next (unitLeft s u (withG d (((((s.dev.unit u).loops[n.toNat]?).map NLoop.index).getD 0).setWidth 64) false)) := by
  show execGmvi d n s = _
  refine runNear_g ht ?_
  simp only [near_bind_app, near_me_app, near_ok_bind, nearCtx_unit, near_putG_app]
  cases (s.dev.unit u).loops[n.toNat]? <;> rfl

/-! ### Ends and safe points (R290, R291, R308) -/

theorem near_drained_app (h : nearDrained x.dev x.u) : NearOp.drained x = .ok ((), x) := by
  obtain ⟨hcopies, hports, hpeers⟩ := h
  have hdrained : ((x.dev.unit x.u).copies.isEmpty && ((x.dev.unit x.u).ports.toList.all fun p => p.out.isEmpty)
      && x.dev.peerOut.all fun o => decide (o.agent ≠ unitAgent x.u)) = true := by
    simp only [hcopies, List.isEmpty_nil, Bool.true_and, Bool.and_eq_true, List.all_eq_true, decide_eq_true_eq]
    exact ⟨fun p hp => by simp [hports p hp], hpeers⟩
  simp only [NearOp.drained, near_bind_app, near_me_app, near_get_app, near_ok_bind, near_stallUnless_app hdrained]

theorem near_safeCheck_app (h : nearDrained x.dev x.u) (hports : ∀ p ∈ (x.dev.unit x.u).ports.toList, NearOp.portOpen p = false) :
    NearOp.safeCheck x = .ok ((), x) := by
  have hnone : ((x.dev.unit x.u).ports.toList.zipIdx.find? fun e => NearOp.portOpen e.1) = none :=
    List.find?_eq_none.mpr fun e he => by simp [hports e.1 (List.fst_mem_of_mem_zipIdx he)]
  simp only [NearOp.safeCheck, near_bind_app, near_drained_app h, near_me_app, near_ok_bind, hnone]
  rfl

theorem takeRequests_eq (y : Near) : (if y.reqs.isEmpty then y
    else if y.reqs.contains .preempt then { y with reqs := y.reqs.filter (· ≠ .preempt), run := .saved, sp := some (bits y.iw 6 16) }
    else { y with reqs := [], run := .parked, sp := some (bits y.iw 6 16) }) = requestsTaken y := by
  unfold requestsTaken
  by_cases hreqs : y.reqs = [] <;> by_cases hpre : ReqKind.preempt ∈ y.reqs <;> simp [hreqs, hpre, bits]

theorem near_takeRequests_app (x : NearCtx) : NearOp.takeRequests x = .ok ((), withUnit x requestsTaken) :=
  congrArg (fun y => Except.ok ((), y)) (withUnit_congr (takeRequests_eq _))

/-- Settles O45: each instruction by what its meaning leaves where its registers are not poisoned and the unit has drained. -/
theorem nearControlResults : Obligations.NearControlResults := by
  unfold Obligations.NearControlResults
  intro s u ht x
  refine ⟨?branches, fun o => ?jump, fun a o ha hcount hroom => execNloop_eq ht ha hcount hroom, fun e l hl => ⟨execNlpop_eq ht hl, execNendl_eq ht hl⟩,
    execGmvi_eq ht, fun hdrained => ?halt, fun hdrained hports => ?safe, ?trap⟩
  case branches =>
    intro a b o ha hb e he
    obtain ⟨c, hc, hexec⟩ := nearBranches_meaning e he
    rw [hexec, runNear_branch ht ha hb, hc]
  case jump =>
    show execB o s = _
    exact (runNear_branch (a := 0) (b := 0) ht rfl rfl).trans (by rw [if_pos rfl])
  case halt =>
    show execNhalt s = _
    refine runNear_unit ht ?_
    simp only [near_bind_app, near_drained_app (x := nearCtx s u) hdrained, near_ok_bind, near_modMe_app]
  case safe =>
    show execNsafe s = _
    refine runNear_unit ht ?_
    simp only [near_bind_app, near_safeCheck_app (x := nearCtx s u) hdrained hports, near_ok_bind, near_takeRequests_app]
  case trap =>
    show execNtrap s = _
    exact runNear_ok (y := { nearCtx s u with dev := takeNearTrap _ u _ }) ht rfl rfl

end Sys2Proof.Proofs
end

section
/-! Near-data lane instructions, moves, compares, masks and reductions (R282, R292 to R296, R307). -/

namespace Sys2Proof.Proofs
open Machine Claim

variable {s : State} {u : Nat} {x : NearCtx}

/-! ### Lanes (R292, R293, R295) -/

/-- Lanes under a mask leave the enabled lanes of a register, and their flags in nst. -/
theorem near_guarded_app (d : BitVec 4) (f : BitVec 3) (l : List (Nat × Bool × BitVec 6)) (x : NearCtx) :
    NearOp.guarded d f l x = .ok ((), withUnit x (withLanes d f l)) := by
  simp only [NearOp.guarded, near_bind_app, near_mask_app, near_lanes_app, near_putLanes_app, near_flags_app, near_ok_bind, withUnit_withUnit]
  exact congrArg (fun y => Except.ok ((), y)) (withUnit_congr rfl)

theorem runNear_lanes2 (ht : nearTurn s u) (d a b : BitVec 4) (f : BitVec 3) (op : Nat → Nat → LaneRes) :
    let x := s.dev.unit u
    runNear (NearOp.lanes2 d a b f op) s = .next (unitLeft s u (withLanes d f (((nLanes x a).zip (nLanes x b)).map fun l =>
      ((op l.1.1 l.2.1).1, l.1.2 || l.2.2, (op l.1.1 l.2.1).2)))) := by
  refine runNear_unit ht ?_
  simp only [NearOp.lanes2, near_bind_app, near_lanes_app, near_ok_bind, near_guarded_app]
  rfl

theorem runNear_lanes1 (ht : nearTurn s u) (d a : BitVec 4) (f : BitVec 3) (op : Nat → LaneRes) :
    runNear (NearOp.lanes1 d a f op) s
      = .next (unitLeft s u (withLanes d f ((nLanes (s.dev.unit u) a).map fun l => ((op l.1).1, l.2, (op l.1).2)))) := by
  refine runNear_unit ht ?_
  simp only [NearOp.lanes1, near_bind_app, near_lanes_app, near_ok_bind, near_guarded_app]
  rfl

theorem nearLanes_meaning : ∀ e ∈ nearLanes, ∀ (d a b : BitVec 4) (f : BitVec 3) (s : State),
    exec (e.1 d a b f) s = runNear (NearOp.lanes2 d a b f e.2) s := by
  simp only [nearLanes, List.forall_mem_cons, List.not_mem_nil, false_imp_iff, implies_true, and_true]
  and_intros <;> exact fun _ _ _ _ _ => rfl

/-- Settles O46: the lane instructions are two shared meanings, and the moves write one register. -/
theorem nearLaneResults : Obligations.NearLaneResults := by
  unfold Obligations.NearLaneResults
  intro s u ht x
  refine ⟨fun d a b f => ⟨?lanes, ?fma⟩, fun d a f r => ⟨runNear_lanes1 ht .., runNear_lanes1 ht .., runNear_lanes1 ht .., ?bcast⟩,
    fun d a l => ⟨?get, ?ins⟩⟩
  case lanes =>
    intro e he
    rw [nearLanes_meaning e he]
    exact runNear_lanes2 ht d a b f e.2
  case fma =>
    show execNfma d a b f s = _
    refine runNear_unit ht ?_
    simp only [near_bind_app, near_lanes_app, near_ok_bind, near_guarded_app]
    rfl
  case bcast =>
    show execNbcast d a f s = _
    refine runNear_unit ht ?_
    simp only [near_bind_app, near_g_app, near_ok_bind, near_guarded_app]
    rfl
  case get =>
    show execNget d a l s = _
    refine runNear_g ht ?_
    simp only [near_bind_app, near_lanes_app, near_ok_bind, near_putG_app]
    rfl
  case ins =>
    show execNins d a l s = _
    refine runNear_unit ht ?_
    simp only [near_bind_app, near_g_app, near_lanes_app, near_ok_bind, near_putLanes_app]
    rfl

/-! ### Compares and masks (R294) -/

/-- No enabled lane of a register is poisoned. -/
theorem nLanes_clean {y : Near} {a : BitVec 4} {m : BitVec 16} (h : ∀ i < 16, m.getLsbD i = true → ((nLanes y a).getD i (0, false)).2 = false) :
    ((nLanes y a).zipIdx.any fun e => m.getLsbD e.2 && e.1.2) = false := by
  rw [List.any_eq_false]
  rintro ⟨e, i⟩ he
  obtain ⟨hlen, he⟩ := List.getElem?_eq_some_iff.mp (List.mem_zipIdx_iff_getElem?.mp he)
  have hclean := h i (by simpa [nLanes] using hlen)
  rw [List.getD_eq_getElem _ _ hlen, he] at hclean
  simpa using hclean

/-- A compare whose enabled lanes are not poisoned leaves its condition in the enabled bits of its mask (R294). -/
theorem runNear_compare {a b : BitVec 4} {f : BitVec 3} (ht : nearTurn s u)
    (hclean : ∀ i < 16, (maskOf (s.dev.unit u) f).getLsbD i = true →
      ((nLanes (s.dev.unit u) a).getD i (0, false)).2 = false ∧ ((nLanes (s.dev.unit u) b).getD i (0, false)).2 = false)
    (d : BitVec 3) (op : Nat → Nat → Bool × BitVec 6) :
    let x := s.dev.unit u
    let r := ((nLanes x a).zip (nLanes x b)).map fun e => op e.1.1 e.2.1
    runNear (NearOp.compare d a b f op) s
      = .next (unitLeft s u fun y => Claim.withFlags ((flagsOr (r.zipIdx.map fun e => if (maskOf x f).getLsbD e.2 then e.1.2 else 0)).setWidth 24)
        (withMask d (BitVec.ofNat 16 (packLanes 1 (r.zipIdx.map fun e => (if (maskOf x f).getLsbD e.2 then e.1.1 else (maskOf x d).getLsbD e.2).toNat))) y)) := by
  intro x r
  have ha := nLanes_clean (y := x) fun i hi hm => (hclean i hi hm).1
  have hb := nLanes_clean (y := x) fun i hi hm => (hclean i hi hm).2
  refine runNear_unit ht ?_
  simp only [NearOp.compare, near_bind_app, near_mask_app, near_lanes_app, near_ok_bind, nearCtx_unit]
  refine (congrFun ((if_neg (ne_true_of_eq_false ha)).trans (if_neg (ne_true_of_eq_false hb))) _).trans ?_
  simp only [near_bind_app, near_mask_app, near_ok_bind, nearCtx_unit, near_putMask_app]
  exact near_flags_maskWritten ..

theorem nearMasks_meaning : ∀ e ∈ nearMasks, ∀ (d a b : BitVec 3) (s : State), nearTurn s u →
    exec (e.1 d a b) s = .next (unitLeft s u (withMask d (e.2 (maskOf (s.dev.unit u) a) (maskOf (s.dev.unit u) b)))) := by
  have hmask2 (op : BitVec 16 → BitVec 16 → BitVec 16) (d a b : BitVec 3) (s : State) (ht : nearTurn s u) :
      runNear (NearOp.mask2 d a b op) s = .next (unitLeft s u (withMask d (op (maskOf (s.dev.unit u) a) (maskOf (s.dev.unit u) b)))) :=
    runNear_mask ht (by simp [NearOp.mask2])
  simp only [nearMasks, List.forall_mem_cons, List.not_mem_nil, false_imp_iff, implies_true, and_true]
  exact ⟨hmask2 _, hmask2 _, hmask2 _, hmask2 _, fun d a _ => hmask2 _ d a a⟩

/-- The condition of an integer compare by its number. -/
theorem nearCond_eq (c : BitVec 3) (v w : Nat) : nearCond c.toNat v w = (([decide (v = w), decide (v ≠ w), decide (sx 32 v < sx 32 w),
    decide (sx 32 v ≤ sx 32 w), decide (v < w)][c.toNat]?).getD (decide (v ≤ w)), 0) := by
  have hc : c.toNat < 8 := c.isLt
  interval_cases c.toNat <;> rfl

/-! ### Reductions (R296) -/

/-- A reduction leaves its result, poisoned when an enabled lane is, and its flags (R296). -/
theorem runNear_reduce (ht : nearTurn s u) (d a : BitVec 4) (f : BitVec 3) (res : List (Option Nat) → Word × BitVec 6) :
    let x := s.dev.unit u
    let r := res ((nLanes x a).zipIdx.map fun l => if (maskOf x f).getLsbD l.2 then some l.1.1 else none)
    let psn := (nLanes x a).zipIdx.any fun l => (maskOf x f).getLsbD l.2 && l.1.2
    runNear (NearOp.reduce d a f res) s = .next (unitLeft s u fun y => Claim.withFlags (r.2.setWidth 24) (withG d r.1 psn y)) := by
  intro x r psn
  refine runNear_unit ht ?_
  simp only [NearOp.reduce, near_bind_app, near_mask_app, near_lanes_app, near_ok_bind, nearCtx_unit, near_putG_app]
  exact near_flags_gWritten ..

theorem nearReductions_meaning : ∀ e ∈ nearReductions, ∀ (d a : BitVec 4) (f : BitVec 3) (s : State),
    exec (e.1 d a f) s = runNear (NearOp.reduce d a f e.2) s := by
  simp only [nearReductions, List.forall_mem_cons, List.not_mem_nil, false_imp_iff, implies_true, and_true]
  and_intros <;> exact fun _ _ _ _ => rfl

/-- Settles O47: compares, masks and reductions are one shared meaning each. -/
theorem nearMaskAndReductionResults : Obligations.NearMaskAndReductionResults := by
  unfold Obligations.NearMaskAndReductionResults
  intro s u ht x
  refine ⟨fun c d a b f hclean => ⟨?int, runNear_compare ht hclean d _⟩, fun e he d a b => nearMasks_meaning e he d a b s ht, fun d a ha => ?set,
    fun d a => ?get, fun e he d a f => ?reduction⟩
  case int =>
    rw [← funext₂ (nearCond_eq c)]
    exact runNear_compare ht hclean d _
  case set =>
    show execFSet d a s = _
    refine runNear_mask ht ?_
    simp only [near_bind_app, near_gClean_app (x := nearCtx s u) ha, near_ok_bind, near_putMask_app]
    rfl
  case get =>
    show execFGet d a s = _
    refine runNear_g ht ?_
    simp only [near_bind_app, near_mask_app, near_ok_bind, near_putG_app]
    rfl
  case reduction =>
    rw [nearReductions_meaning e he]
    exact runNear_reduce ht d a f e.2

end Sys2Proof.Proofs
end

section
/-! Major 0x14: parison loads and their cursors (R336 to R338). -/

namespace Sys2Proof.Proofs
open Machine Claim Laws

variable {s : State} {iss : Issue} {d a : Opnd} {t : Tgt} {pa dest : Word} {v x y z u w : Slot} {h live : Bytes}

/-- A pld with the code c as its status, to land one bundle later (R338). -/
def statusLeft (t : Tgt) (w : Slot) (c : Nat) : Slot := withWrites w (scalarWrite t 1 (BitVec.ofNat 64 c) true)

/-- What keeps a pld from its place: none of the checks that it makes before it (R338). -/
structure PldReady (x : Slot) (pa dest : Word) : Prop where
  align : pa.toNat % 64 = 0
  alignDest : dest.toNat % 32 = 0
  outside : (seqOf x).region.levels = []
  idle : ((x.base.seq x.iss.q).col (slotNo x / 2)).laq = 0 ∧ ((x.base.seq x.iss.q).col (slotNo x / 2)).fill = []
    ∧ ((x.base.seq x.iss.q).col (slotNo x / 2)).ldq = []
  foot : footOk x ((List.range 8).map fun k => (pa.toNat + 32 * k, 32)) true false

/-- What a pld does with the header that it has read: its status, or the live block's (R336, R338). -/
def headerRead (t : Tgt) (pa dest : Nat) (h : Bytes) : SlotM Unit := do
  let x ← Op.me
  match headStatus false (some (dest, x.owned)) h with
  | 0 =>
    let n := headField h 44 4
    Op.footprint ((List.range (n / 32)).map fun k => (pa + 256 + 32 * k, 32)) true false
    let live ← Op.readRun pa (n / 32) 8
    let st := liveStatus x.place.kid.toNat h live
    if st = 0 then
      Op.modIss fun z => { z with block := z.block ++ [(dest, live, headCursor h)] }
      Op.modMe (Op.hideWrites dest live.length)
    Op.putS t 1 (BitVec.ofNat 64 st) true
  | st => Op.putS t 1 (BitVec.ofNat 64 st) true

/-- A pld whose checks pass comes to its header at its place (R338). -/
theorem execPld_header (hi : s.issue = some iss) (hpa : Op.rdRun a 0 (slotOf s iss) = .ok (pa, v)) (hdest : Op.rdRun a 1 v = .ok (dest, x))
    (hready : PldReady x pa dest) (ht : Op.target 0 d x = .ok (t, y)) (hplace : Op.atPlace y = .ok ((), z))
    (hread : Op.readRun pa.toNat 8 0 z = .ok (h, u)) (hend : headerRead t pa.toNat dest.toNat h u = .ok ((), w)) :
    exec (.pld d a) s = .next (afterSlot s w) := by
  obtain ⟨hlaq, hfill, hldq⟩ := hready.idle
  have hidle : (decide (((x.base.seq x.iss.q).col (slotNo x / 2)).laq = 0) && ((x.base.seq x.iss.q).col (slotNo x / 2)).fill.isEmpty
      && ((x.base.seq x.iss.q).col (slotNo x / 2)).ldq.isEmpty) = true := by simp [hlaq, hfill, hldq]
  show execPld d a s = _
  refine runSlot_ok hi ?_
  rw [bind_ok hpa, bind_ok hdest, bind_ok (slotNo_app x), bind_ok (get_app x)]
  simp only
  rw [bind_ok (check_pass (by rw [hready.align, hready.alignDest]; rfl)), bind_ok (notInRegion_pass hready.outside), bind_ok (check_pass hidle),
    bind_ok (foot_pass hready.foot), bind_ok ht, bind_ok hplace, bind_ok hread]
  exact hend

/-- A header that fails leaves its status, and nothing else. -/
theorem headerRead_fails (hst : headStatus false (some (dest.toNat, (seqOf u).owned)) h ≠ 0) :
    headerRead t pa.toNat dest.toNat h u = .ok ((), statusLeft t u (headStatus false (some (dest.toNat, (seqOf u).owned)) h)) := by
  unfold headerRead
  rw [bind_ok (me_app u)]
  obtain ⟨k, hk⟩ := Nat.exists_eq_succ_of_ne_zero hst
  rw [hk]
  exact putS_app ..

/-- One that passes has its live block read, with its own status. -/
theorem headerRead_passes (hst : headStatus false (some (dest.toNat, (seqOf u).owned)) h = 0)
    (hfoot : footOk u ((List.range (headField h 44 4 / 32)).map fun k => (pa.toNat + 256 + 32 * k, 32)) true false)
    (hread : Op.readRun pa.toNat (headField h 44 4 / 32) 8 u = .ok (live, w)) :
    let c := liveStatus (seqOf u).place.kid.toNat h live
    headerRead t pa.toNat dest.toNat h u = .ok ((), if c = 0 then
      statusLeft t (withSeq (withIss w fun i => { i with block := i.block ++ [(dest.toNat, live, headCursor h)] }) (Op.hideWrites dest.toNat live.length)) 0
      else statusLeft t w c) := by
  intro c
  unfold headerRead
  rw [bind_ok (me_app u)]
  simp only [hst]
  rw [bind_ok (foot_pass hfoot), bind_ok hread]
  by_cases hc : liveStatus (seqOf u).place.kid.toNat h live = 0
  · rw [if_pos hc, if_pos (show c = 0 from hc), bind_ok (modIss_app ..), bind_ok (modMe_app ..), hc]
    exact putS_app ..
  · rw [if_neg hc, if_neg (show ¬ c = 0 from hc)]
    exact putS_app ..

/-- Settles O29: the checks lead to the header, whose status, or the live block's, is what is left. -/
theorem parisonLoadResults : Obligations.ParisonLoadResults := by
  unfold Obligations.ParisonLoadResults
  intro s iss d t hi
  refine ⟨?load, fun n y ht => ?cursor⟩
  case load =>
    intro a pa dest v x y z u h hpa hdest halign halignDest houtside hidle hfoot ht hplace hread st n left
    have hrun {w : Slot} := execPld_header (w := w) hi hpa hdest ⟨halign, halignDest, houtside, hidle, hfoot⟩ ht hplace hread
    refine ⟨fun hst => hrun (headerRead_fails hst), fun live w hst hlive hreads => ?_⟩
    refine (hrun (headerRead_passes hst hlive hreads)).trans ?_
    split <;> rfl
  case cursor =>
    show execPcur d n s = _
    refine runSlot_ok hi ?_
    rw [bind_ok ht, bind_ok (me_app y), putS_app]

end Sys2Proof.Proofs
end

section
/-! Bank copies, completion writes, parisons and unit registers of near-data units (R302 to R306). -/

namespace Sys2Proof.Proofs
open Machine Claim

variable {s : State} {u : Nat} {x y : NearCtx}

/-! ### What stays with the unit (R303, R304) -/

theorem KeepsUnit.forM {α : Type} {f : α → NearM Unit} (hf : ∀ a, KeepsUnit (f a)) (l : List α) : KeepsUnit (l.forM f) := by
  induction l with
  | nil => exact keepsUnit_pure ()
  | cons a l ih => exact (hf a).bind fun _ => ih

theorem KeepsUnit.ite {α : Type} {c : Prop} [Decidable c] {f g : NearM α} (hf : KeepsUnit f) (hg : KeepsUnit g) : KeepsUnit (if c then f else g) := by
  split
  · exact hf
  · exact hg

theorem keepsUnit_modMe (f : Near → Near) : KeepsUnit (NearOp.modMe f) := keepsUnit_of_rule (near_modMe_app f) fun _ => rfl
theorem keepsUnit_num : KeepsUnit NearOp.num := keepsUnit_of_rule near_num_app fun _ => rfl
theorem keepsUnit_nextWrite : KeepsUnit NearOp.nextWrite := keepsUnit_of_rule near_nextWrite_app fun _ => rfl

theorem keepsUnit_illegal {α : Type} : KeepsUnit (NearOp.illegal : NearM α) := keepsUnit_me.bind fun _ => keepsUnit_trap _ _

theorem keepsUnit_sendPeer (p : Nat × Nat × Nat) (l : List (Option Byte)) : KeepsUnit (NearOp.sendPeer p l) :=
  keepsUnit_num.bind fun _ => keepsUnit_modDev _

theorem keepsUnit_drained : KeepsUnit NearOp.drained := keepsUnit_me.bind fun _ => keepsUnit_get.bind fun _ => keepsUnit_stallUnless _

theorem keepsUnit_allowed (wr : Bool) (l : List Nat) : KeepsUnit (NearOp.allowed wr l) := by
  refine keepsUnit_get.bind fun x => ?_
  split
  · exact keepsUnit_trap _ _
  · exact keepsUnit_stall
  · exact keepsUnit_pure _

theorem keepsUnit_write (va : Nat) (l : List (Byte × Bool)) : KeepsUnit (NearOp.write va l) := by
  refine KeepsUnit.forM (fun e => (keepsUnit_atPeer _).bind fun p => ?_) _
  cases p with
  | some p => exact keepsUnit_sendPeer p _
  | none => exact (keepsUnit_resident _ _).bind fun _ => keepsUnit_num.bind fun _ => keepsUnit_nextWrite.bind fun _ => keepsUnit_modDev _

theorem keepsUnit_rangesOf (k : Nat) : KeepsUnit (NearOp.rangesOf k) := by
  refine keepsUnit_get.bind fun x => ?_
  dsimp only
  split
  · exact keepsUnit_pure _
  · exact keepsUnit_illegal

theorem keepsUnit_saveParison (va k : Nat) (granted : Bool) (p : Head) : KeepsUnit (NearOp.saveParison va k granted p) := by
  refine (keepsUnit_rangesOf k).bind fun rs => keepsUnit_me.bind fun x => ?_
  dsimp only
  cases granted with
  | true => exact keepsUnit_write _ _
  | false => exact (keepsUnit_allowed _ _).bind fun _ => keepsUnit_write _ _

theorem keepsUnit_complete (va seq : Nat) : KeepsUnit (NearOp.complete va seq) := by
  refine keepsUnit_drained.bind fun _ => keepsUnit_num.bind fun v => keepsUnit_me.bind fun x => (keepsUnit_atPeer va).bind fun p => ?_
  cases p with
  | some p =>
    exact (keepsUnit_modDev _).bind fun _ => (keepsUnit_sendPeer _ _).bind fun _ => (keepsUnit_sendPeer _ _).bind fun _ => keepsUnit_modMe _
  | none => exact (keepsUnit_resident _ _).bind fun _ => (keepsUnit_modDev _).bind fun _ => keepsUnit_modMe _

theorem keepsUnit_loadParison (va : Nat) : KeepsUnit (NearOp.loadParison va) := by
  refine (keepsUnit_allowed _ _).bind fun _ => (keepsUnit_read _ _).bind fun h => ?_
  split
  · exact keepsUnit_trap _ _
  · refine .ite (keepsUnit_pure _) ((keepsUnit_allowed _ _).bind fun _ => (keepsUnit_read _ _).bind fun live => keepsUnit_me.bind fun z =>
      .ite (keepsUnit_pure _) ?_)
    dsimp only
    split
    · exact keepsUnit_trap _ _
    · exact (keepsUnit_modMe _).bind fun _ => keepsUnit_pure _

/-! ### Operand fields of the instruction register (log 10) -/

/-- A register that a field of the instruction register names. -/
@[simp] theorem iwField_eq (z : Near) (lo n : Nat) : BitVec.ofNat n (bits z.iw lo n) = iwField z lo n :=
  BitVec.eq_of_toNat_eq (by simp [bits, iwField])

/-! ### Copies (R302) -/

theorem near_localRange_app {va n : Nat} (h : nearLocal x va n) : NearOp.localRange va n x = .ok (true, x) := by
  have hways : ∀ w ∈ (List.range n).map fun k => unitWay x.dev x.u (va + 64 * k), ∃ loc r e, w = .here loc r e ∧ unitLocal x.dev x.u loc = true := by
    simp only [List.mem_map, List.mem_range]
    rintro w ⟨k, hk, rfl⟩
    exact h k hk
  have hknown : (((List.range n).map fun k => unitWay x.dev x.u (va + 64 * k)).all fun w => decide (w ≠ .miss)) = true :=
    List.all_eq_true.mpr fun w hw => by
      obtain ⟨loc, r, e, rfl, -⟩ := hways w hw
      simp
  simp only [NearOp.localRange, near_bind_app, near_get_app, near_ok_bind, near_stallUnless_app hknown]
  refine congrArg (fun b => Except.ok (b, x)) (List.all_eq_true.mpr fun w hw => ?_)
  obtain ⟨loc, r, e, rfl, hlocal⟩ := hways w hw
  exact hlocal

/-- What an nbcp does once its ranges are accepted: it queues its copy when no pushed entry waits on them. -/
def copyBegins (dst src n : Nat) (x : Near) : NearM Unit :=
  if n = 0 then pure ()
  else do
    NearOp.stallUnless (!NearOp.pendingOver x src (64 * n) && !NearOp.pendingOver x dst (64 * n))
    let k ← NearOp.nextWrite
    NearOp.modMe fun y => { y with copies := y.copies ++ [{ num := k, dst := dst, src := src, n := n }] }

/-- An nbcp of aligned local ranges of a bank unit begins its copy (R302). -/
theorem execNbcp_begins {dst src n : Nat} (ht : nearTurn s u) (hbank : u < 512)
    (hd : NearOp.gClean (iwField (s.dev.unit u) 18 4) (nearCtx s u) = .ok (dst, nearCtx s u))
    (ha : NearOp.gClean (iwField (s.dev.unit u) 14 4) (nearCtx s u) = .ok (src, nearCtx s u))
    (hb : NearOp.gClean (iwField (s.dev.unit u) 10 4) (nearCtx s u) = .ok (n, nearCtx s u)) (hdst : dst % 64 = 0) (hsrc : src % 64 = 0)
    (hto : nearLocal (nearCtx s u) dst n) (hfrom : nearLocal (nearCtx s u) src n) :
    exec .nbcp s = runNear (copyBegins dst src n (s.dev.unit u)) s := by
  have haligned : ¬ (decide (dst % 64 ≠ 0) || decide (src % 64 ≠ 0)) = true := by simp [hdst, hsrc]
  show execNbcp s = _
  refine runNear_congr ht ?_
  simp only [near_bind_app, near_me_app, near_num_app, near_ok_bind, nearCtx_unit, iwField_eq]
  refine (congrFun (if_neg (Nat.not_le.mpr hbank)) _).trans ?_
  simp only [near_bind_app, hd, ha, hb, near_ok_bind, if_neg haligned, near_localRange_app hto, near_localRange_app hfrom, Bool.and_self, Bool.not_true,
    if_neg Bool.false_ne_true]
  rfl

theorem runNear_copyBegins {dst src n : Nat} (ht : nearTurn s u)
    (hfree : n ≠ 0 → NearOp.pendingOver (s.dev.unit u) src (64 * n) = false ∧ NearOp.pendingOver (s.dev.unit u) dst (64 * n) = false) :
    runNear (copyBegins dst src n (s.dev.unit u)) s = .next (unitLeft s u fun y => if n = 0 then y
      else numbered { y with copies := y.copies ++ [{ num := (s.dev.unit u).writes, dst := dst, src := src, n := n }] }) := by
  unfold copyBegins
  by_cases hn : n = 0
  · simp only [if_pos hn]
    exact runNear_goes ht rfl
  · have hpend : (!NearOp.pendingOver (s.dev.unit u) src (64 * n) && !NearOp.pendingOver (s.dev.unit u) dst (64 * n)) = true := by
      simp [hfree hn]
    simp only [if_neg hn]
    refine runNear_unit ht ?_
    simp only [near_bind_app, near_ok_bind, near_stallUnless_app hpend, near_nextWrite_app, near_modMe_app, withUnit_withUnit]
    rfl

/-! ### Completion writes (R269, R303) -/

/-- The number and the status word at a location of the unit's own memory, after its writes (R269, R303). -/
def completed (u loc st seq : Nat) (d : Dev) : Dev :=
  placeBytes (placeBytes (publish u d) (unitAgent u) (loc + 8) (toLe 8 st)) (unitAgent u) loc (toLe 8 seq)

/-- The unit with PM clear (R303). -/
def pmCleared (y : Near) : Near := { y with nst := y.nst &&& 0xFF }

theorem near_complete_app {va seq loc : Nat} {r w : Bool} (hdrained : nearDrained x.dev x.u) (hway : unitWay x.dev x.u va = .here loc r w) :
    NearOp.complete va seq x = .ok ((), withUnit { x with dev := completed x.u loc (x.dev.unit x.u).nst.toNat seq x.dev } pmCleared) := by
  have hpeer : NearOp.atPeer va x = .ok (none, x) := by simp [NearOp.atPeer, hway]
  have hhere : NearOp.resident va true x = .ok (loc, x) := by simp [NearOp.resident, hway]
  simp only [NearOp.complete, near_bind_app, near_drained_app hdrained, near_num_app, near_me_app, near_ok_bind, hpeer, hhere]
  rfl

theorem execCwr_eq {va seq loc : Nat} {r w : Bool} (ht : nearTurn s u)
    (ha : NearOp.gClean (iwField (s.dev.unit u) 14 4) (nearCtx s u) = .ok (va, nearCtx s u))
    (hb : NearOp.gClean (iwField (s.dev.unit u) 10 4) (nearCtx s u) = .ok (seq, nearCtx s u)) (halign : va % 16 = 0)
    (hmay : nearMay (nearCtx s u) true [va]) (hdrained : nearDrained s.dev u) (hway : unitWay s.dev u va = .here loc r w) :
    let d := (completed u loc (s.dev.unit u).nst.toNat seq s.dev).modUnit u pmCleared
    exec .cwr s = .next { s with dev := nearAfter u ((s.dev.unit u).pc + 1) d } := by
  intro d
  show execCwr s = _
  refine (runNear_ok (y := withUnit { nearCtx s u with dev := completed u loc (s.dev.unit u).nst.toNat seq s.dev } pmCleared) ht ?_ rfl)
  simp only [near_bind_app, near_me_app, near_ok_bind, nearCtx_unit, iwField_eq, ha, hb]
  refine (congrFun (if_neg (not_not.mpr halign)) _).trans ?_
  simp only [near_bind_app, near_allowed_app hmay, near_ok_bind]
  exact near_complete_app (x := nearCtx s u) hdrained hway

/-! ### Parisons (R304) -/

/-- The head of a parison that an npsave writes (R304, R326). -/
def savedHead (u : Nat) (x : Near) : Head :=
  { flags := unitTier u, kid := x.kid.toNat, cur := x.loops.reverse.map fun e => e.index.toNat, cdep := x.loops.length, lfmt := 1, ranges := [],
    llen := 0, parm := x.parm.toNat, rgen := 0, seq := 0, plan := x.plan.toNat }

theorem execNpsave_eq {va : Nat} (ht : nearTurn s u)
    (ha : NearOp.gClean (iwField (s.dev.unit u) 14 4) (nearCtx s u) = .ok (va, nearCtx s u)) (halign : va % 64 = 0)
    (hsave : NearOp.saveParison va ((s.dev.unit u).iw % 2 ^ 14) false (savedHead u (s.dev.unit u)) (nearCtx s u) = .ok ((), y)) :
    exec .npsave s = .next (ctxLeft s y) := by
  show execNpsave s = _
  refine runNear_ok ht ?_ (keepsUnit_saveParison _ _ _ _ _ _ _ hsave)
  simp only [near_bind_app, near_me_app, near_num_app, near_ok_bind, nearCtx_unit, iwField_eq, ha]
  refine (congrFun (if_neg (not_not.mpr halign)) _).trans ?_
  rw [bits_zero]
  exact hsave

theorem execNpload_eq {va st : Nat} (ht : nearTurn s u)
    (ha : NearOp.gClean (iwField (s.dev.unit u) 14 4) (nearCtx s u) = .ok (va, nearCtx s u)) (halign : va % 64 = 0)
    (hload : NearOp.loadParison va (nearCtx s u) = .ok (st, y)) :
    exec .npload s = .next (ctxLeft s (withUnit y (withG (iwField (s.dev.unit u) 18 4) (BitVec.ofNat 64 st) false))) := by
  have hu : y.u = u := keepsUnit_loadParison _ _ _ _ hload
  show execNpload s = _
  rw [← ctxLeft_changedIf fun hr => withG_zero (not_not.mp hr) ..]
  refine runNear_ok ht ?_ ((changedIf_u ..).trans hu)
  simp only [near_bind_app, near_me_app, near_ok_bind, nearCtx_unit, iwField_eq, ha]
  refine (congrFun (if_neg (not_not.mpr halign)) _).trans ?_
  simp only [near_bind_app, hload, near_ok_bind, near_putG_app]

/-! ### Unit registers (R306) -/

theorem execGrsr_eq {d : BitVec 4} {r : BitVec 8} {v : Nat} (ht : nearTurn s u) (hreg : unitReg (s.dev.unit u) u r.toNat = some v) :
    exec (.grsr d r) s = .next (unitLeft s u (withG d (BitVec.ofNat 64 v) false)) := by
  have hreg' : unitReg ((nearCtx s u).dev.unit (nearCtx s u).u) (nearCtx s u).u r.toNat = some v := hreg
  show execGrsr d r s = _
  refine runNear_g ht ?_
  simp only [near_bind_app, near_me_app, near_num_app, near_ok_bind, hreg', near_putG_app]

theorem execGwsr_eq (ht : nearTurn s u) (hreg : (s.dev.unit u).iw / 2 ^ 6 % 2 ^ 8 = 0) :
    exec .gwsr s = .next (unitLeft s u fun y => { y with nst := (gOf (s.dev.unit u) (iwField (s.dev.unit u) 14 4)).setWidth 24 }) := by
  show execGwsr s = _
  refine runNear_unit ht ?_
  simp only [near_bind_app, near_me_app, near_ok_bind, nearCtx_unit]
  refine (congrFun (if_neg (not_not.mpr hreg)) _).trans ?_
  simp only [near_bind_app, near_g_app, near_ok_bind, near_modMe_app, nearCtx_unit, iwField_eq]

/-! ### Fetch traps (R284, R308) -/

theorem runNear_trap {m : NearM Unit} {t : TrapInfo} (ht : nearTurn s u) (hm : m (nearCtx s u) = .error (.trap t)) :
    runNear m s = .next { s with dev := takeNearTrap (nearCycle u s.dev) u t } := by
  obtain ⟨⟨i, hturn⟩, hrun⟩ := ht
  simp only [nearCtx] at hm
  simp only [runNear, hturn, hrun, if_true, nearRun, hm]

end Sys2Proof.Proofs
end

section
/-! Hand-over points of near-data units (R305, R331, R333). -/

namespace Sys2Proof.Proofs
open Machine Claim

variable {s : State} {u : Nat} {y z : NearCtx}

/-- The unit whose drain has begun: the request that is pending now is the one that the nhopt may take (R305). -/
def drainBegun (x : Near) : Near := { x with handDrain := some (x.handDrain.getD x.hand) }

/-- The unit whose drain is over. -/
def drainOver (x : Near) : Near := { x with handDrain := none }

theorem drainBegun_eq (x : Near) : (if x.handDrain.isSome then x else { x with handDrain := some x.hand }) = drainBegun x := by
  unfold drainBegun
  cases hdrain : x.handDrain with
  | none => rfl
  | some r =>
    have hsame : some ((some r).getD x.hand) = x.handDrain := hdrain.symm
    rw [hsame]
    rfl

theorem drainBegin_eq (u : Nat) (d : Dev) : drainBegin u d = d.modUnit u drainBegun := congrArg (d.modUnit u) (funext drainBegun_eq)

/-- The state with the drain of unit u begun. -/
def inDrain (s : State) (u : Nat) : State := { s with dev := drainBegin u s.dev }

theorem inDrain_unit (s : State) (u : Nat) : (inDrain s u).dev.unit u = drainBegun (s.dev.unit u) := by
  rw [inDrain, drainBegin_eq, Dev.unit_modUnit]

theorem nearCtx_inDrain (s : State) (u : Nat) :
    nearCtx (inDrain s u) u = { dev := drainBegin u s.dev, base := drainBegin u s.dev, u := u, next := (s.dev.unit u).pc + 1 } := by
  rw [nearCtx, inDrain_unit]
  rfl

theorem nearTurn_inDrain (ht : nearTurn s u) : nearTurn (inDrain s u) u := by
  obtain ⟨hturn, hrun⟩ := ht
  exact ⟨hturn, by rw [inDrain_unit]; exact hrun⟩

theorem execNhopt_run (ht : nearTurn s u) : exec .nhopt s = runNear NearOp.handOver (inDrain s u) := by
  obtain ⟨⟨i, hturn⟩, hrun⟩ := ht
  show execNhopt s = _
  simp only [execNhopt, hturn, hrun, if_true, inDrain]

/-- An instruction that changes its unit once the drain has begun. -/
theorem unitLeft_inDrain (f : Near → Near) : unitLeft (inDrain s u) u f = unitLeft s u fun x => f (drainBegun x) := by
  have hpc : ((inDrain s u).dev.unit u).pc = (s.dev.unit u).pc := by rw [inDrain_unit]; rfl
  simp only [unitLeft, unitTo, hpc]
  simp only [inDrain, drainBegin_eq, Dev.modUnit_modUnit]

/-- Whether a unit is at the word after its band loop (R329). -/
def atBandEnd (x : Near) : Bool := decide (bandEnd x = some x.pc)

/-- The row of the band that a unit has come to (R331). -/
def bandRow (x : Near) : Nat := x.band + (if atBandEnd x then x.passes else ((x.loops.head?).map fun e => e.index.toNat).getD 0)

/-- The head of the parison that a hand-over writes (R331, R333). -/
def handHead (u : Nat) (x : Near) (r : HandReq) : Head :=
  { flags := unitTier u + 4 * (if atBandEnd x then 0 else r.dest.toNat) + 16 * (atBandEnd x).toNat, kid := x.kid.toNat, cur := [bandRow x % 2 ^ 32],
    cdep := if atBandEnd x then 0 else 1, lfmt := 1, ranges := [], llen := 0, parm := x.parm.toNat, rgen := r.rgen.toNat, seq := r.seq.toNat,
    plan := x.plan.toNat }

theorem handHead_eq (u : Nat) (x : Near) (r : HandReq) :
    handHead u x r = { handHead u x r with flags := unitTier u + (if atBandEnd x then 16 else 4 * r.dest.toNat) } := by
  unfold handHead
  cases atBandEnd x <;> rfl

/-- What an nhopt does once its unit has drained, with the request that was pending as its drain began (R305, R333). -/
def handTaken (u : Nat) (x : Near) : Option HandReq → NearM Unit
  | none => NearOp.takeRequests
  | some r =>
    if !atBandEnd x && decide (bandRow x < r.rmin.toNat) then NearOp.takeRequests
    else do
      NearOp.saveParison r.pa.toNat (bits x.iw 6 16) true (handHead u x r)
      NearOp.complete r.cw.toNat r.seq.toNat
      NearOp.modMe fun y => { y with run := .done, hand := none, reqs := [] }

section handOver
variable (hdrained : nearDrained s.dev u) (hports : ∀ p ∈ (s.dev.unit u).ports.toList, NearOp.portOpen p = false)
include hdrained hports

theorem handOver_app : NearOp.handOver (nearCtx (inDrain s u) u)
    = handTaken u (s.dev.unit u) ((s.dev.unit u).handDrain.getD (s.dev.unit u).hand) (withUnit (nearCtx (inDrain s u) u) drainOver) := by
  obtain ⟨hcopies, hout, hpeers⟩ := hdrained
  have hunit := inDrain_unit s u
  have hsafe : NearOp.safeCheck (nearCtx (inDrain s u) u) = .ok ((), nearCtx (inDrain s u) u) := by
    refine near_safeCheck_app (x := nearCtx (inDrain s u) u) ⟨?_, ?_, ?_⟩ ?_
    · rw [nearCtx_unit, hunit]; exact hcopies
    · rw [nearCtx_unit, hunit]; exact hout
    · rw [nearCtx, inDrain, drainBegin_eq]; exact hpeers
    · rw [nearCtx_unit, hunit]; exact hports
  simp only [NearOp.handOver, near_bind_app, hsafe, near_me_app, near_num_app, near_ok_bind, near_modMe_app, nearCtx_unit, hunit]
  cases hreq : (s.dev.unit u).handDrain.getD (s.dev.unit u).hand with
  | none =>
    have hnone : (drainBegun (s.dev.unit u)).handDrain.getD none = none := hreq
    rw [hnone]
    rfl
  | some r =>
    have hsome : (drainBegun (s.dev.unit u)).handDrain.getD none = some r := hreq
    rw [hsome]
    rfl

/-- An nhopt that no hand-over is due at takes the requests that wait (R291, R305). -/
theorem execNhopt_passes (ht : nearTurn s u)
    (hnone : handTaken u (s.dev.unit u) ((s.dev.unit u).handDrain.getD (s.dev.unit u).hand) = NearOp.takeRequests) :
    exec .nhopt s = .next (unitLeft s u fun y => requestsTaken { y with handDrain := none }) := by
  rw [execNhopt_run ht, runNear_unit (nearTurn_inDrain ht) (g := fun x => requestsTaken (drainOver x)) ?_, unitLeft_inDrain]
  · rfl
  · rw [handOver_app hdrained hports, hnone, near_takeRequests_app, withUnit_withUnit]

/-- One at which a hand-over is due writes its parison, completes the request and ends the unit (R305, R331, R333). -/
theorem execNhopt_hands {r : HandReq} (ht : nearTurn s u) (hreq : (s.dev.unit u).handDrain.getD (s.dev.unit u).hand = some r)
    (hdue : ¬ (!atBandEnd (s.dev.unit u) && decide (bandRow (s.dev.unit u) < r.rmin.toNat)) = true)
    (hsave : NearOp.saveParison r.pa.toNat ((s.dev.unit u).iw / 2 ^ 6 % 2 ^ 16) true (handHead u (s.dev.unit u) r)
      (withUnit (nearCtx (inDrain s u) u) drainOver) = .ok ((), y)) (hend : NearOp.complete r.cw.toNat r.seq.toNat y = .ok ((), z)) :
    exec .nhopt s = .next (ctxLeft s (withUnit z fun v => { v with run := .done, hand := none, reqs := [] })) := by
  have hu : z.u = u := (keepsUnit_complete _ _ _ _ _ hend).trans (keepsUnit_saveParison _ _ _ _ _ _ _ hsave)
  rw [execNhopt_run ht]
  refine runNear_ok (nearTurn_inDrain ht) ?_ hu
  rw [handOver_app hdrained hports, hreq]
  refine (congrFun (if_neg hdue) _).trans ?_
  have hsave' : NearOp.saveParison r.pa.toNat (bits (s.dev.unit u).iw 6 16) true (handHead u (s.dev.unit u) r)
      (withUnit (nearCtx (inDrain s u) u) drainOver) = .ok ((), y) := hsave
  simp only [near_bind_app, hsave', hend, near_ok_bind, near_modMe_app]

end handOver

/-- Settles O49: each instruction by what its meaning leaves where its registers are clean and its checks pass. -/
theorem nearTransferResults : Obligations.NearTransferResults := by
  unfold Obligations.NearTransferResults
  intro s u ht x c ra rd rb
  have hclean {r : BitVec 4} (h : gPoison x r = false) : NearOp.gClean r c = .ok ((gOf x r).toNat, c) := near_gClean_app (x := c) h
  refine ⟨?copy, ?completion, ?parison, fun d r v hreg => execGrsr_eq ht hreg, execGwsr_eq ht, ?idle, ?early, ?hand, runNear_trap ht rfl, runNear_trap ht rfl⟩
  case copy =>
    intro hbank hd ha hb hdst hsrc n hto hfrom hfree
    rw [execNbcp_begins ht hbank (hclean hd) (hclean ha) (hclean hb) hdst hsrc hto hfrom]
    exact runNear_copyBegins ht hfree
  case completion =>
    exact fun loc r w ha hb halign hmay hdrained hway => execCwr_eq ht (hclean ha) (hclean hb) halign hmay hdrained hway
  case parison =>
    intro ha halign
    refine ⟨?save, fun st y hload => execNpload_eq ht (hclean ha) halign hload⟩
    intro y h hsave
    exact execNpsave_eq ht (hclean ha) halign hsave
  case idle =>
    exact fun hdrained hports hreq => execNhopt_passes hdrained hports ht (by rw [hreq]; rfl)
  case early =>
    intro r hdrained hports hreq hband hrow
    have hend : atBandEnd x = false := decide_eq_false hband
    have hbefore : (!atBandEnd x && decide (bandRow x < r.rmin.toNat)) = true := by simpa [hend, bandRow] using hrow
    exact execNhopt_passes hdrained hports ht (by rw [hreq]; exact if_pos hbefore)
  case hand =>
    intro r y z hdrained hports hreq last cur h hdue hsave hend
    have hdue' : ¬ (!atBandEnd x && decide (bandRow x < r.rmin.toNat)) = true := by
      simp only [Bool.and_eq_true, Bool.not_eq_true', decide_eq_true_eq, not_and, Nat.not_lt]
      exact fun hbefore => hdue.resolve_left (ne_true_of_eq_false hbefore)
    refine execNhopt_hands hdrained hports ht hreq hdue' ?_ hend
    rw [handHead_eq, nearCtx_inDrain]
    exact hsave

end Sys2Proof.Proofs
end

section
/-! What no operation that takes its place changes: the parts of the device beside memory, the order, the sequencers, the streams and the
marks on frames (R247 to R250). -/

namespace Sys2Proof.Proofs
open Machine Claim

/-- A part of the device that placing, resolving and landing operations does not touch. -/
structure Unplaced {α : Type} (π : Dev → α) : Prop where
  seqs : ∀ d q x, π (d.setSeq q x) = π d
  streams : ∀ d t m f, π (d.modStream t m f) = π d
  frames : ∀ d k f, π (d.modFrame k f) = π d
  order : ∀ d m p l x n, π { d with mem := m, poison := p, placed := l, splits := x, drawn := n } = π d

section part
variable {α β : Type} {π : Dev → α}

theorem part_foldl {f : Dev → β → Dev} (hf : ∀ d b, π (f d b) = π d) (l : List β) (d : Dev) : π (l.foldl f d) = π d := by
  induction l generalizing d with
  | nil => rfl
  | cons b l ih => rw [List.foldl_cons, ih, hf]

variable (hπ : Unplaced π)
include hπ

theorem Unplaced.unmarked : Unmarked π := ⟨hπ.frames, fun d q _ _ => hπ.seqs d q _⟩

theorem readIn_unplaced {me : Nat} {done later : List Placed} {loc n : Nat} {b : Option (List (Byte × Bool))} {d e : Dev}
    (h : readIn me d done later loc n = (b, e)) : π e = π d := by
  unfold readIn at h
  split at h
  · exact (Prod.mk.inj h).2 ▸ rfl
  · split at h
    · exact (Prod.mk.inj h).2 ▸ hπ.order d d.mem d.poison d.placed d.splits _
    · exact (Prod.mk.inj h).2 ▸ rfl

theorem resolve_unplaced (l done : List Placed) (d : Dev) : π (resolve done d l).2 = π d := by
  induction l generalizing done d with
  | nil => rfl
  | cons p l ih =>
    cases p <;> simp only [Machine.resolve]
    case load | part =>
      split <;> rename_i h
      · exact (ih _ _).trans ((hπ.seqs ..).trans (readIn_unplaced hπ h))
      · exact (ih _ _).trans (readIn_unplaced hπ h)
    case rmw =>
      split <;> rename_i h
      · split
        · exact (ih _ _).trans ((hπ.seqs ..).trans (readIn_unplaced hπ h))
        · exact (ih _ _).trans (readIn_unplaced hπ h)
      · exact (ih _ _).trans (readIn_unplaced hπ h)
    case arrive =>
      split <;> rename_i h <;> exact (ih _ _).trans (readIn_unplaced hπ h)
    all_goals exact ih _ _

theorem landBytes_unplaced (d : Dev) (loc : Nat) (l : List (Option Byte)) : π (landBytes d loc l) = π d := by
  refine part_foldl (fun d e => ?_) _ d
  split
  · exact hπ.order d _ _ d.placed d.splits d.drawn
  · rfl

theorem land_unplaced {p : Placed} {d e : Dev} (h : land d p = some e) : π e = π d := by
  have hseen := wixSeen_part π hπ.streams
  unfold land at h
  split at h <;> simp only [Option.some.injEq, reduceCtorEq] at h <;> subst h
  · exact (hseen ..).trans (landBytes_unplaced hπ ..)
  · rename_i loc b psn
    refine (hseen ..).trans (Eq.trans ?_ (landBytes_unplaced hπ d loc (b.map some)))
    split
    · exact hπ.order _ _ _ _ _ _
    · rfl
  · exact (hseen ..).trans (hπ.order d _ d.poison d.placed d.splits d.drawn)
  · rfl

theorem drain_unplaced (l held : List Placed) (d : Dev) : π (drain held d l).2 = π d := by
  induction l generalizing d held with
  | nil => rfl
  | cons p l ih =>
    unfold Machine.drain
    split
    · next e he =>
      split at he
      · cases he
      · exact (ih _ _).trans (land_unplaced hπ he)
    · exact ih _ _

theorem settle_unplaced (d : Dev) : π (settle d) = π d :=
  (hπ.order _ _ _ _ _ _).trans ((drain_unplaced hπ ..).trans (resolve_unplaced hπ ..))

theorem closeSplit_unplaced (d : Dev) (x : Split) : π (closeSplit d x) = π d := by
  unfold closeSplit
  rw [noteWrite_part hπ.unmarked, settle_unplaced hπ]
  refine (hπ.order _ _ _ _ _ _).trans ?_
  split
  · rfl
  · exact hπ.seqs ..

/-- An operation takes its place and what sees accesses sees it (R249, R391). -/
theorem perform_unplaced (d : Dev) (p : Placed) : π (perform d p) = π d := by
  have hplace (d : Dev) : π (place d p) = π d := by
    unfold place
    rw [settle_unplaced hπ]
    exact (hπ.order _ _ _ _ _ _).trans (part_foldl (closeSplit_unplaced hπ) _ d)
  unfold perform
  simp only
  split
  · rw [hplace]
    unfold touch
    split
    · exact hπ.frames ..
    · rfl
  · rw [noteWrite_part hπ.unmarked, hplace]

theorem placeBytes_unplaced (d : Dev) (own loc : Nat) (l : Bytes) (psn : Bool) : π (placeBytes d own loc l psn) = π d := perform_unplaced hπ ..

theorem gput_unplaced (d : Dev) (loc n v : Nat) : π (gput d loc n v) = π d := by
  unfold gput
  exact placeBytes_unplaced hπ ..

end part

theorem unplaced_nextReplay : Unplaced Dev.nextReplay := ⟨fun _ _ _ => rfl, fun _ _ _ _ => rfl, fun _ _ _ => rfl, fun _ _ _ _ _ _ => rfl⟩
theorem unplaced_replays : Unplaced Dev.replays := ⟨fun _ _ _ => rfl, fun _ _ _ _ => rfl, fun _ _ _ => rfl, fun _ _ _ _ _ _ => rfl⟩

end Sys2Proof.Proofs
end

section
/-! Records of tenants (R354 to R361): what a record that its rules accept leaves. -/

namespace Sys2Proof.Proofs
open Machine Claim Laws

variable {s : State} {ten m : Nat} {r : Rec}

/-- A record whose stream holds at it (R358, R361). -/
theorem record_held (h : recordTurn s ten m r) {f : Nat → Nat → Rec → Dev → RecEnd} {d : Dev} (hf : f ten m r s.dev = .hold d) :
    runRecord s f = recordHeld s ten m d := by
  obtain ⟨hturn, hlead, hstate⟩ := h
  unfold runRecord
  refine runLeader_became hlead ?_
  simp [hturn, hstate, hf]

/-- A record whose addresses are all good goes on (R356). -/
theorem withAddrs_pass {d : Dev} {l : List (Nat × Nat × Bool)} (h : ∀ a ∈ l, addrOk d ten a.1 a.2.1 a.2.2 = true) (k : RecEnd) :
    withAddrs d ten l k = k := if_pos (List.all_eq_true.mpr h)

/-! ### LAUNCH and WAIT (R357, R358) -/

/-- A new launch that cannot run ends at once (R357). -/
theorem newLaunch_ends (secc : Nat) (x : Launch) (d : Dev) :
    let made := newLaunch secc x d
    (if (made.2.launch? made.1).any fun y => decide (y.st = .draining) then tryEnd made.1 made.2 else made.2)
      = if launchStatus d secc x.ten x.obj x.prio x.diag = 0 then made.2 else tryEnd made.1 made.2 := by
  intro made
  rw [newLaunch_draining]
  by_cases hst : launchStatus d secc x.ten x.obj x.prio x.diag = 0 <;> simp [hst]

theorem launch_taken (h : recordTurn s ten m r) :
    let d := s.dev
    let f := field r
    let d1 := (nextItem ten m d).2
    let d2 := (now d1).2
    let obj := ten * 4096 + min (f 8 4) 4096 % 4096
    let made := newLaunch (codeCounter d2) { ten := ten, strm := m, seq := (d.stream ten m).nseq + 1, tag := f 4 4, obj := obj, prio := f 12 1,
                                             diag := (f 13 1).testBit 0, notify := (f 13 1).testBit 1, parm := f 16 8, stat := f 24 8, age := (now d1).1 } d2
    exec .launch s = recordTaken s ten m r (if launchStatus d2 (codeCounter d2) ten obj (f 12 1) ((f 13 1).testBit 0) = 0 then made.2 else tryEnd made.1 made.2) := by
  intro d f d1 d2 obj made
  show execLaunch s = _
  refine record_done h ?_
  simp only [bit_eq]
  exact congrArg RecEnd.done (newLaunch_ends (codeCounter d2) _ d2)

theorem waitRec_held (h : recordTurn s ten m r) (hkind : field r 24 1 ≤ 1) (hzero : field r 25 39 = 0)
    (haddr : addrOk s.dev ten (field r 8 8) 8 false = true) :
    exec .waitRec s = recordHeld s ten m (s.dev.modStream ten m fun y => { y with wait := some (field r 8 8, field r 16 8, field r 24 1) }) := by
  show execWaitRec s = _
  refine record_held h ?_
  have hfields : ¬ (decide (1 < recNum r 24 1) || !recZero r 25 39) = true := by
    simpa [recZero] using ⟨hkind, hzero⟩
  simp only [if_neg hfields]
  exact withAddrs_pass (List.forall_mem_singleton.mpr haddr) _

end Sys2Proof.Proofs
end

section
/-! REGISTER and the records of graphs (R359 to R361): what a record that its rules accept leaves. -/

namespace Sys2Proof.Proofs
open Machine Claim Laws

variable {s : State} {ten m : Nat} {r : Rec}

theorem recNum_eq (r : Rec) (lo n : Nat) : recNum r lo n = field r lo n := rfl
theorem recZero_eq (r : Rec) (lo n : Nat) : recZero r lo n = decide (field r lo n = 0) := rfl

/-! ### REGISTER (R359) -/

/-- A REGISTER whose fields and status address its rules accept, with the page of the status here (R356, R359). -/
structure RegisterOk (d : Dev) (ten : Nat) (r : Rec) : Prop where
  low : 1 ≤ field r 24 4
  high : field r 24 4 ≤ 4095
  spare : field r 29 3 = 0
  rest : field r 40 24 = 0
  stat : addrOk d ten (field r 32 8) 8 true = true
  here : pagesHere ten [field r 32 8] d true = .ok ()

/-- The key of the object that a REGISTER names. -/
def registerKey (ten : Nat) (r : Rec) : Nat := ten * 4096 + field r 24 4

/-- What a REGISTER does with its object once its fields are accepted (R359). -/
def registerDone (ten : Nat) (r : Rec) (d : Dev) : RecEnd :=
  if field r 28 1 = 1 then
    if (d.objs.find? (registerKey ten r)).isNone then .done (tput d ten (field r 32 8) 8 0x22)
    else if d.launches.any fun e => decide (e.2.obj = registerKey ten r) then .done (tput d ten (field r 32 8) 8 0x21)
    else .done (tput { d with objs := d.objs.erase (registerKey ten r) } ten (field r 32 8) 8 0)
  else if (d.objs.find? (registerKey ten r)).isSome then .done (tput d ten (field r 32 8) 8 0x20)
  else if field r 16 8 < 512 || 2 ^ 30 < field r 16 8 then .done (tput d ten (field r 32 8) 8 0x01)
  else if 2 ^ 56 < field r 8 8 + field r 16 8 || !readable d ten (field r 8 8) (field r 16 8) then .fault 5
  else match copyIn ten (field r 8 8) (field r 16 8) d with
    | .error d => .retry d
    | .ok (b, d) => registerImage ten (registerKey ten r) (field r 32 8) b d

theorem register_taken {e : Dev} (h : recordTurn s ten m r) (hok : RegisterOk s.dev ten r) (hop : field r 28 1 ≤ 1)
    (hdone : registerDone ten r s.dev = .done e) : exec .register s = recordTaken s ten m r e := by
  obtain ⟨hlow, hhigh, hspare, hrest, hstat, hhere⟩ := hok
  have hfields : ¬ (decide (field r 24 4 = 0) || decide (4095 < field r 24 4) || decide (1 < field r 28 1) || !decide (field r 29 3 = 0)
      || !decide (field r 40 24 = 0)) = true := by simp [hspare, hrest, Nat.one_le_iff_ne_zero.mp hlow, hhigh, hop]
  show execRegister s = _
  refine record_done h ?_
  simp only [recNum_eq, recZero_eq]
  refine (if_neg hfields).trans ((withAddrs_pass (List.forall_mem_singleton.mpr hstat) _).trans ?_)
  rw [hhere]
  exact hdone

/-- A REGISTER that unloads an object: one that is there and that no launch uses (R359). -/
theorem registerDone_unload {d : Dev} (hop : field r 28 1 = 1) :
    registerDone ten r d = .done (if d.objs.find? (registerKey ten r) = none then tput d ten (field r 32 8) 8 0x22
      else if ∃ e ∈ d.launches, e.2.obj = registerKey ten r then tput d ten (field r 32 8) 8 0x21
      else tput { d with objs := d.objs.erase (registerKey ten r) } ten (field r 32 8) 8 0) := by
  unfold registerDone
  rw [if_pos hop]
  simp only [Option.isNone_iff_eq_none, List.any_eq_true, decide_eq_true_eq]
  split_ifs <;> rfl

/-- One that loads an image: it is copied, checked, placed and kept (R315, R323, R359). -/
theorem registerDone_load {d d1 : Dev} {b : Bytes} (hop : field r 28 1 = 0) (hfree : d.objs.find? (registerKey ten r) = none)
    (hlow : 512 ≤ field r 16 8) (hhigh : field r 16 8 ≤ 2 ^ 30) (hend : field r 8 8 + field r 16 8 ≤ 2 ^ 56)
    (hread : readable d ten (field r 8 8) (field r 16 8) = true) (hcopy : copyIn ten (field r 8 8) (field r 16 8) d = .ok (b, d1)) :
    registerDone ten r d = registerImage ten (registerKey ten r) (field r 32 8) b d1 := by
  unfold registerDone
  have hsize : ¬ (decide (field r 16 8 < 512) || decide (2 ^ 30 < field r 16 8)) = true := by
    simpa using ⟨hlow, hhigh⟩
  have hrange : ¬ (decide (2 ^ 56 < field r 8 8 + field r 16 8) || !readable d ten (field r 8 8) (field r 16 8)) = true := by
    simpa using ⟨hend, hread⟩
  rw [if_neg (by simp [hop]), if_neg (by simp [hfree]), if_neg hsize, if_neg hrange, hcopy]

theorem registerImage_refused {d : Dev} {b : Bytes} {key stat : Nat} (hst : loadStatus d b ≠ 0) :
    registerImage ten key stat b d = .done (tput d ten stat 8 (loadStatus d b)) := if_pos hst

theorem registerImage_kept {d : Dev} {b : Bytes} {key stat : Nat} (hst : loadStatus d b = 0)
    (hhere : pagesHere ten ((placements b).flatMap fun p => pagesOf p.1 p.2.length) d true = .ok ()) :
    let e := (placements b).foldl (fun e p => tputBytes e ten p.1 p.2) d
    registerImage ten key stat b d = .done (tput { e with objs := e.objs.put key (objOf b) } ten stat 8 0) := by
  intro e
  unfold registerImage
  simp only [hhere]
  exact if_neg (not_not.mpr hst)

/-! ### GDEF (R360) -/

/-- A GDEF whose fields and addresses its rules accept, of a graph that is not there (R356, R360). -/
structure GdefOk (d : Dev) (ten : Nat) (r : Rec) : Prop where
  gid : field r 8 1 ≠ 0
  spare : field r 9 7 = 0
  rest : field r 32 32 = 0
  stat : addrOk d ten (field r 24 8) 8 true = true
  body : addrOk d ten (field r 16 8) 1 false = true
  here : pagesHere ten [field r 24 8] d true = .ok ()
  free : d.graphs.find? (graphKey ten (field r 8 1)) = none
  head : readable d ten (field r 16 8) 16 = true

/-- The body of a graph as a GDEF copies it: nn nodes in order, whose parameter bytes may be read (R360). -/
structure GraphBody (d : Dev) (ten va : Nat) (h b : Bytes) (ns : List GNode) (l : List Bytes) (d1 d2 d3 : Dev) : Prop where
  head : copyIn ten va 16 d = .ok (h, d1)
  some : 1 ≤ leNat (h.take 2)
  few : leNat (h.take 2) ≤ 64
  zero : leNat (h.drop 2) = 0
  may : readable d1 ten va (16 + 64 * leNat (h.take 2)) = true
  body : copyIn ten va (16 + 64 * leNat (h.take 2)) d1 = .ok (b, d2)
  nodes : (List.range (leNat (h.take 2))).mapM (nodeOf b) = .some ns
  mayParms : ∀ n ∈ ns, readable d2 ten (va + n.pofs) (64 * n.plen) = true
  parms : copyParms ten va ns d2 = .ok (l, d3)

theorem gdef_taken {h b : Bytes} {ns : List GNode} {l : List Bytes} {d1 d2 d3 : Dev} (ht : recordTurn s ten m r) (hok : GdefOk s.dev ten r)
    (hbody : GraphBody s.dev ten (field r 16 8) h b ns l d1 d2 d3) :
    let g := keepParms ten l d3
    exec .gdef s = recordTaken s ten m r
      (tput { g.2 with graphs := g.2.graphs.put (graphKey ten (field r 8 1)) { nodes := ns, gens := [(1, g.1)], cur := 1 } } ten (field r 24 8) 8 0) := by
  intro g
  obtain ⟨hgid, hspare, hrest, hstat, haddr, hhere, hfree, hhead⟩ := hok
  obtain ⟨hcopy, hsome, hfew, hzero, hmay, hcopies, hnodes, hparms, hkept⟩ := hbody
  have hfields : ¬ (decide (field r 8 1 = 0) || !decide (field r 9 7 = 0) || !decide (field r 32 32 = 0)) = true := by simp [hgid, hspare, hrest]
  have hcount : ¬ (decide (leNat (h.take 2) = 0) || decide (64 < leNat (h.take 2)) || decide (leNat (h.drop 2) ≠ 0)) = true := by
    simp [hzero, hfew, Nat.one_le_iff_ne_zero.mp hsome]
  have hall : ¬ (!(ns.all fun n => readable d2 ten (field r 16 8 + n.pofs) (64 * n.plen))) = true := by
    simpa using hparms
  have haddrs : ∀ a ∈ [(field r 24 8, 8, true), (field r 16 8, 1, false)], addrOk s.dev ten a.1 a.2.1 a.2.2 = true := by
    simpa using ⟨hstat, haddr⟩
  show execGdef s = _
  refine record_done ht ?_
  refine (if_neg hfields).trans ((withAddrs_pass haddrs _).trans ?_)
  change pagesHere ten [recNum r 24 8] s.dev true = .ok () at hhere
  rw [hhere]
  refine (if_neg (by rw [show s.dev.graphs.find? (graphKey ten (recNum r 8 1)) = none from hfree]; simp)).trans ?_
  refine (if_neg (by rw [show readable s.dev ten (recNum r 16 8) 16 = true from hhead]; simp)).trans ?_
  rw [show copyIn ten (recNum r 16 8) 16 s.dev = .ok (h, d1) from hcopy]
  refine (if_neg hcount).trans ?_
  refine (if_neg (by rw [show readable d1 ten (recNum r 16 8) (16 + 64 * leNat (h.take 2)) = true from hmay]; simp)).trans ?_
  rw [show copyIn ten (recNum r 16 8) (16 + 64 * leNat (h.take 2)) d1 = .ok (b, d2) from hcopies]
  simp only [hnodes]
  refine (if_neg hall).trans ?_
  rw [show copyParms ten (recNum r 16 8) ns d2 = .ok (l, d3) from hkept]
  rfl

/-! ### GRAPH and GPATCH (R361) -/

theorem nextItem_nextReplay (ten m : Nat) (d : Dev) : (nextItem ten m d).2.nextReplay = d.nextReplay := gput_unplaced unplaced_nextReplay ..

theorem nextItem_replays (ten m : Nat) (d : Dev) : (nextItem ten m d).2.replays = d.replays := gput_unplaced unplaced_replays ..

theorem graph_taken {x : Graph} (h : recordTurn s ten m r) (hgid : field r 8 1 ≠ 0) (hspare : field r 9 15 = 0) (hrest : field r 32 32 = 0)
    (hstat : field r 24 8 ≠ 0 → addrOk s.dev ten (field r 24 8) 64 true = true) (hx : s.dev.graphs.find? (graphKey ten (field r 8 1)) = some x) :
    let d := s.dev
    let f := field r
    let d1 := (nextItem ten m d).2
    let d2 := (now d1).2
    let y : Replay := { ten := ten, strm := m, seq := (d.stream ten m).nseq + 1, tag := f 4 4, stat := f 24 8, gid := f 8 1, gen := x.cur,
                        nodes := List.replicate x.nodes.length .idle, age := (now d1).1, secc := codeCounter d2 }
    exec .graph s = recordTaken s ten m r { d2 with nextReplay := d.nextReplay + 1, replays := d.replays.put d.nextReplay y } := by
  intro d f d1 d2 y
  have hfields : ¬ (decide (field r 8 1 = 0) || !decide (field r 9 15 = 0) || !decide (field r 32 32 = 0)) = true := by simp [hgid, hspare, hrest]
  have haddrs : ∀ a ∈ (if field r 24 8 = 0 then [] else [(field r 24 8, 64, true)]), addrOk s.dev ten a.1 a.2.1 a.2.2 = true := by
    split
    · simp
    · exact List.forall_mem_singleton.mpr (hstat ‹_›)
  have hnum : d2.nextReplay = d.nextReplay := nextItem_nextReplay ten m d
  have hreps : d2.replays = d.replays := nextItem_replays ten m d
  show execGraph s = _
  refine record_done h ?_
  simp only [recNum_eq, recZero_eq]
  refine (if_neg hfields).trans ((withAddrs_pass haddrs _).trans ?_)
  rw [hx, ← hnum, ← hreps]
  rfl

theorem gpatch_eq {x : Graph} {n : GNode} (h : recordTurn s ten m r) (hlow : 1 ≤ field r 10 2) (hhigh : field r 10 2 ≤ 256) (hrest : field r 16 48 = 0)
    (hlen : recLen r = 1 + (field r 10 2 + 63) / 64) (hx : s.dev.graphs.find? (graphKey ten (field r 8 1)) = some x)
    (hn : x.nodes[field r 9 1]? = some n) (hfits : field r 12 4 + field r 10 2 ≤ 64 * n.plen) :
    exec .gpatch s = match patchGraph ten r s.dev with
      | some e => recordTaken s ten m r e
      | none => recordHeld s ten m (s.dev.modStream ten m fun y => { y with patch := some r }) := by
  have hfields : ¬ (decide (field r 10 2 = 0) || decide (256 < field r 10 2) || !decide (field r 16 48 = 0)) = true := by
    simp [hrest, hhigh, Nat.one_le_iff_ne_zero.mp hlow]
  show execGpatch s = _
  cases hpatch : patchGraph ten r s.dev with
  | some e =>
    refine record_done h ?_
    simp only [recNum_eq, recZero_eq, hx, hn, hpatch]
    exact (if_neg hfields).trans ((if_neg (not_not.mpr hlen)).trans (if_neg (Nat.not_lt.mpr hfits)))
  | none =>
    refine record_held h ?_
    simp only [recNum_eq, recZero_eq, hx, hn, hpatch]
    exact (if_neg hfields).trans ((if_neg (not_not.mpr hlen)).trans (if_neg (Nat.not_lt.mpr hfits)))

/-- Settles O55: each record by what it leaves where its fields and its addresses are accepted. -/
theorem tenantRecordResults : Obligations.TenantRecordResults := by
  unfold Obligations.TenantRecordResults
  intro s ten m r h d f
  have hpad : exec .padRec s = recordTaken s ten m r d := by
    show execPadRec s = _
    exact record_done h rfl
  refine ⟨hpad, launch_taken h, waitRec_held h, ?register, ?gdef,
    fun x hgid hspare hrest hstat hx => graph_taken h hgid hspare hrest hstat hx,
    fun x n hlow hhigh hrest hlen hx hn hfits => gpatch_eq h hlow hhigh hrest hlen hx hn hfits⟩
  case register =>
    intro hlow hhigh hspare hrest hstat hhere key answered
    have hok : RegisterOk d ten r := ⟨hlow, hhigh, hspare, hrest, hstat, hhere⟩
    refine ⟨fun hop => ?unload, fun hop hfree hsize hmost hend hread b d1 hcopy => ?load⟩
    case unload =>
      rw [register_taken h hok hop.le (registerDone_unload hop)]
      simp only [apply_ite (recordTaken s ten m r)]
      rfl
    case load =>
      have hdone := registerDone_load hop hfree hsize hmost hend hread hcopy
      have hload : field r 28 1 ≤ 1 := hop.trans_le (Nat.zero_le 1)
      exact ⟨fun hst => register_taken h hok hload (hdone.trans (registerImage_refused hst)),
        fun hst hplace => register_taken h hok hload (hdone.trans (registerImage_kept hst hplace))⟩
  case gdef =>
    intro hgid hspare hrest hstat hbody hhere hfree hhead b0 b ns l d1 d2 d3 hcopy nn hsome hfew hzero hmay hcopies hnodes hparms hkept
    exact gdef_taken h ⟨hgid, hspare, hrest, hstat, hbody, hhere, hfree, hhead⟩ ⟨hcopy, hsome, hfew, hzero, hmay, hcopies, hnodes, hparms, hkept⟩

end Sys2Proof.Proofs
end

section
/-! TSET, TKILL and the MEM records (R351, R374, R406): what an admin record that its rules accept leaves. -/

namespace Sys2Proof.Proofs
open Machine Claim Laws

variable {s : State} {ten m : Nat} {r : Rec}

/-! ### TSET and TKILL (R351, R406) -/

/-- A TSET whose tenant, state, reserved bytes and rights its rules accept (R351). -/
structure TsetOk (r : Rec) : Prop where
  tenant : field r 8 1 ≤ 15
  prio : field r 10 1 ≤ 3
  rights : field r 12 1 ≤ 3
  spare : field r 13 3 = 0
  rest : field r 44 4 = 0

theorem TsetOk.passes (h : TsetOk r) (hstate : field r 9 1 ≤ 1) :
    ¬ (decide (15 < field r 8 1) || decide (1 < field r 9 1) || decide (3 < field r 10 1) || decide (3 < field r 12 1)
      || !decide (field r 13 3 = 0) || !decide (field r 44 4 = 0)) = true := by
  obtain ⟨htenant, hprio, hrights, hspare, hrest⟩ := h
  simp [htenant, hstate, hprio, hrights, hspare, hrest]

/-- TSET with STATE 0 removes its tenant (R351). -/
theorem tset_removes (h : recordTurn s ten m r) (hok : TsetOk r) (hstate : field r 9 1 = 0) :
    exec .tset s = recordTaken s ten m r (removeTenant (field r 8 1) s.dev) := by
  show execTset s = _
  refine record_done h ?_
  exact (if_neg (hok.passes (hstate.trans_le (Nat.zero_le 1)))).trans (if_pos hstate)

/-- The values of a TSET that activates a tenant: its weight, PASID, event queue, partition and areas (R351, R406). -/
structure TsetValues (d : Dev) (r : Rec) : Prop where
  weight : field r 11 1 ≠ 0
  pasid : field r 16 4 < 2 ^ 20
  least : 6 ≤ field r 40 4
  most : field r 40 4 ≤ 16
  part : partOk d (field r 8 1) (field r 20 4) = true
  sarea : field r 24 8 % 2 ^ 28 = 0
  fits : field r 24 8 + 2 ^ 28 ≤ hbmSize d
  events : field r 32 8 % 4096 = 0
  index : field r 48 8 % 8 = 0
  sava : field r 56 8 % 2 ^ 28 = 0
  below : field r 56 8 < 2 ^ 56

/-- TSET with STATE 1 activates its tenant, which has nothing resident, with the record's fields (R351, R406). -/
theorem tset_activates (h : recordTurn s ten m r) (hok : TsetOk r) (hstate : field r 9 1 = 1) (hval : TsetValues s.dev r)
    (hidle : resident s.dev (field r 8 1) = false)
    (hcols : ∀ c ∈ usedColumns s.dev (field r 8 1),
      field r 20 4 % 2 ^ 10 ≤ c ∧ c < field r 20 4 % 2 ^ 10 + field r 20 4 / 2 ^ 10 % 2 ^ 11) :
    let d := s.dev
    let f := field r
    let e := if f 16 4 = (d.tenant (f 8 1)).pasid then d else newContext (f 8 1) d
    exec .tset s = recordTaken s ten m r (e.modTenant (f 8 1) fun t =>
      { t with active := true, pcap := f 10 1, wgt := f 11 1, diagOk := (f 12 1).testBit 0, ctrOk := (f 12 1).testBit 1, pasid := f 16 4, part := f 20 4,
               sarea := f 24 8, eqa := f 32 8, eqn := f 40 4, eqpi := f 48 8, sava := f 56 8, actions := if t.active then t.actions else startActions }) := by
  intro d f e
  obtain ⟨hweight, hpasid, hleast, hmost, hpart, hsarea, hfits, hevents, hindex, hsava, hbelow⟩ := hval
  have hvalues : ¬ (decide (f 11 1 = 0) || decide (2 ^ 20 ≤ f 16 4) || decide (f 40 4 < 6) || decide (16 < f 40 4) || !partOk d (f 8 1) (f 20 4)) = true := by
    simp [f, d, hweight, hpart, hleast, hmost]; exact hpasid
  have haddrs : ¬ (decide (f 24 8 % 2 ^ 28 ≠ 0) || decide (hbmSize d < f 24 8 + 2 ^ 28) || decide (f 32 8 % 4096 ≠ 0) || decide (f 48 8 % 8 ≠ 0)
      || decide (f 56 8 % 2 ^ 28 ≠ 0) || decide (2 ^ 56 ≤ f 56 8)) = true := by
    simp only [Bool.or_eq_true, decide_eq_true_eq, not_or, not_not, not_lt, not_le]
    exact ⟨⟨⟨⟨⟨hsarea, hfits⟩, hevents⟩, hindex⟩, hsava⟩, hbelow⟩
  have hsame : ¬ (resident d (f 8 1) && (decide (f 16 4 ≠ (d.tenant (f 8 1)).pasid) || decide (f 24 8 ≠ (d.tenant (f 8 1)).sarea)
      || decide (f 56 8 ≠ (d.tenant (f 8 1)).sava))) = true := by simp [f, d, hidle]
  have hinside : ¬ ((usedColumns d (f 8 1)).any fun c =>
      !(decide (bits (f 20 4) 0 10 ≤ c) && decide (c < bits (f 20 4) 0 10 + bits (f 20 4) 10 11))) = true := by
    simpa [bits] using hcols
  show execTset s = _
  refine record_done h ?_
  refine (if_neg (hok.passes hstate.le)).trans ((if_neg (by rw [show recNum r 9 1 = 1 from hstate]; exact one_ne_zero)).trans ?_)
  refine (if_neg hvalues).trans ((if_neg haddrs).trans ((if_neg hsame).trans ((if_neg hinside).trans ?_)))
  simp only [bit_eq]
  rfl

theorem tkill_taken (h : recordTurn s ten m r) (hten : field r 8 1 ≤ 15) (hspare : field r 9 55 = 0) :
    exec .tkill s = recordTaken s ten m r (killTenant (field r 8 1) 0x17 s.dev) := by
  have hfields : ¬ (decide (15 < field r 8 1) || !decide (field r 9 55 = 0)) = true := by simp [hten, hspare]
  show execTkill s = _
  exact record_done h (if_neg hfields)

/-! ### MEM records (R374) -/

/-- A MEM record whose tenant, reserved bytes and status address are accepted (R374). -/
structure MemOk (d : Dev) (r : Rec) (used : List (Nat × Nat)) : Prop where
  tenant : field r 9 1 ≤ 15
  spare : field r 10 6 = 0
  stat : statOk d (field r 16 8) = true
  rest : spareZero r used

/-- What a MEM record's answer comes to: a status is written where the record names an address (R374). -/
def memEnd (stat : Nat) (d : Dev) : Except Nat RecEnd → RecEnd
  | .ok e => e
  | .error v => .done (putStatus stat v d)

/-- A MEM record that is accepted answers as its operation does (R374). -/
theorem memRecord_taken {used : List (Nat × Nat)} {f : Nat → Nat → Rec → Dev → Except Nat RecEnd} {e : Dev} (h : recordTurn s ten m r)
    (hok : MemOk s.dev r used) (hf : memEnd (field r 16 8) s.dev (f (field r 9 1) (field r 16 8) r s.dev) = .done e) :
    memRecord s used f = recordTaken s ten m r e := by
  obtain ⟨hten, hspare, hstat, hrest⟩ := hok
  refine record_done h ?_
  have hall := spare_all r used hrest
  have hfields : ¬ (decide (15 < recNum r 9 1) || !recZero r 10 6 || !((List.range 104).all fun i =>
      (used.any fun u => decide (u.1 ≤ 24 + i) && decide (24 + i < u.1 + u.2)) || recZero r (24 + i) 1)) = true := by
    rw [hall]
    simpa [recZero, field] using ⟨hten, hspare⟩
  refine (if_neg hfields).trans ((if_neg (by rw [show statOk s.dev (recNum r 16 8) = true from hstat]; simp)).trans ?_)
  refine Eq.trans ?_ hf
  show (match f (recNum r 9 1) (recNum r 16 8) r s.dev with | .ok e => e | .error v => _) = memEnd _ _ (f (recNum r 9 1) (recNum r 16 8) r s.dev)
  cases f (recNum r 9 1) (recNum r 16 8) r s.dev <;> rfl

/-- One whose operation answers a status changes nothing else. -/
theorem memRecord_answers {used : List (Nat × Nat)} {f : Nat → Nat → Rec → Dev → Except Nat RecEnd} {v : Nat} (h : recordTurn s ten m r)
    (hok : MemOk s.dev r used) (hf : f (field r 9 1) (field r 16 8) r s.dev = .error v) :
    memRecord s used f = recordTaken s ten m r (putStatus (field r 16 8) v s.dev) :=
  memRecord_taken h hok (by rw [hf]; rfl)

/-- One whose operation is done leaves what it did. -/
theorem memRecord_done {used : List (Nat × Nat)} {f : Nat → Nat → Rec → Dev → Except Nat RecEnd} {e : Dev} (h : recordTurn s ten m r)
    (hok : MemOk s.dev r used) (hf : f (field r 9 1) (field r 16 8) r s.dev = .ok (.done e)) :
    memRecord s used f = recordTaken s ten m r e :=
  memRecord_taken h hok (by rw [hf]; rfl)

end Sys2Proof.Proofs
end

section
/-! CTXW and PWIN (R374, R382, R383): their answers. -/

namespace Sys2Proof.Proofs
open Machine Claim Laws

variable {s : State} {ten m : Nat} {r : Rec} {d : Dev} {k : Nat}

/-! ### CTXW (R374) -/

/-- Whether a CTXW's fields are wrong: status 1. -/
def ctxwWrong (d : Dev) (r : Rec) : Bool :=
  decide (field r 24 8 % 2 ^ 21 ≠ 0) || decide (field r 32 8 % 2 ^ 21 ≠ 0) || decide (2 ^ 56 < field r 32 8) || decide (field r 32 8 < field r 24 8)
    || decide (field r 40 8 % 2 ^ 21 ≠ 0) || decide (hbmSize d < field r 40 8 + (field r 32 8 - field r 24 8)) || decide (3 < field r 48 1)
    || decide (field r 56 8 % 2 ^ 21 ≠ 0) || decide (field r 64 8 % 2 ^ 21 ≠ 0) || decide (field r 64 8 < 64 * 2 ^ 20)
    || decide (hbmSize d < field r 56 8 + field r 64 8) || decide (field r 72 8 % 2 ^ 21 ≠ 0) || decide (2 ^ 56 ≤ field r 72 8)

/-- Whether a range meets a CTXW's heap or its save area. -/
def ctxwMeets (r : Rec) (x : Nat × Nat) : Bool :=
  overlap x.1 x.2 (field r 40 8) (field r 32 8 - field r 24 8) || overlap x.1 x.2 (field r 56 8) (field r 64 8)

/-- Whether a launch of the tenant is resident, or a live save area is touched: status 2. -/
def ctxwBusy (k : Nat) (r : Rec) (d : Dev) : Bool :=
  resident d k || (saveLive d k && (decide (field r 56 8 ≠ (d.tenant k).svpa) || decide (field r 64 8 ≠ (d.tenant k).svlen)
      || overlap (field r 40 8) (field r 32 8 - field r 24 8) (d.tenant k).svpa (d.tenant k).svlen))
    || ((((List.range 16).filter fun j => decide (j ≠ k) && saveLive d j).map fun j => ((d.tenant j).svpa, (d.tenant j).svlen)).any (ctxwMeets r))

/-- Whether bytes of its ranges are still to be scrubbed (R384). -/
def ctxwDirty (r : Rec) (d : Dev) : Bool := d.mmu.scrubs.any fun c => c.frame.isNone && ctxwMeets r (c.base, c.len)

/-- Whether a range of another tenant meets its ranges: status 3. -/
def ctxwShared (k : Nat) (r : Rec) (d : Dev) : Bool :=
  (((List.range 16).filter fun j => decide (j ≠ k)).flatMap fun j => tenantRanges (d.tenant j)).any (ctxwMeets r)

/-- What an accepted CTXW leaves: the new ranges, and the scrubs of what they no longer hold. -/
def ctxwDone (k stat : Nat) (r : Rec) (d : Dev) : Dev :=
  let t := d.tenant k
  let gone := without t.hofs (t.hlim - t.hbase) (field r 40 8) (field r 32 8 - field r 24 8) ++ without t.svpa t.svlen (field r 56 8) (field r 64 8)
  scrubThen stat (gone.map fun x => { base := x.1, len := x.2, frame := none }) (d.modTenant k fun t =>
    { t with hbase := field r 24 8, hlim := field r 32 8, hofs := field r 40 8, hperm := BitVec.ofNat 2 (field r 48 1), svpa := field r 56 8,
             svlen := field r 64 8, csva := field r 72 8 })

/-- The answers of a CTXW, in the order of its statuses. -/
def ctxwEnd (k stat : Nat) (r : Rec) (d : Dev) : Except Nat RecEnd :=
  if ctxwWrong d r then .error 1
  else if ctxwBusy k r d then .error 2
  else if ctxwDirty r d then .ok (.retry d)
  else if ctxwShared k r d then .error 3
  else .ok (.done (ctxwDone k stat r d))

theorem execCtxw_eq (s : State) : exec .ctxw s = memRecord s [(24, 25), (56, 24)] ctxwEnd := rfl

theorem ctxwWrong_eq_false : ctxwWrong d r = false ↔
    field r 24 8 % 2 ^ 21 = 0 ∧ field r 32 8 % 2 ^ 21 = 0 ∧ field r 32 8 ≤ 2 ^ 56 ∧ field r 24 8 ≤ field r 32 8 ∧ field r 40 8 % 2 ^ 21 = 0
      ∧ field r 40 8 + (field r 32 8 - field r 24 8) ≤ hbmSize d ∧ field r 48 1 ≤ 3 ∧ field r 56 8 % 2 ^ 21 = 0 ∧ field r 64 8 % 2 ^ 21 = 0
      ∧ 64 * 2 ^ 20 ≤ field r 64 8 ∧ field r 56 8 + field r 64 8 ≤ hbmSize d ∧ field r 72 8 % 2 ^ 21 = 0 ∧ field r 72 8 < 2 ^ 56 := by
  unfold ctxwWrong
  simp only [Bool.or_eq_false_iff, decide_eq_false_iff_not, not_not, not_lt, not_le, and_assoc]

theorem ctxwMeets_eq_false {x : Nat × Nat} : ctxwMeets r x = false ↔
    overlap x.1 x.2 (field r 40 8) (field r 32 8 - field r 24 8) = false ∧ overlap x.1 x.2 (field r 56 8) (field r 64 8) = false := Bool.or_eq_false_iff

theorem ctxwBusy_eq_false : ctxwBusy k r d = false ↔ resident d k = false
    ∧ (saveLive d k = true → field r 56 8 = (d.tenant k).svpa ∧ field r 64 8 = (d.tenant k).svlen
        ∧ overlap (field r 40 8) (field r 32 8 - field r 24 8) (d.tenant k).svpa (d.tenant k).svlen = false)
    ∧ ∀ j < 16, j ≠ k → saveLive d j = true → ctxwMeets r ((d.tenant j).svpa, (d.tenant j).svlen) = false := by
  unfold ctxwBusy
  simp [and_assoc]

theorem ctxwDirty_eq_false : ctxwDirty r d = false ↔ ∀ c ∈ d.mmu.scrubs, c.frame = none → ctxwMeets r (c.base, c.len) = false := by
  unfold ctxwDirty
  simp

theorem ctxwShared_eq_false : ctxwShared k r d = false ↔ ∀ j < 16, j ≠ k → ∀ x ∈ tenantRanges (d.tenant j), ctxwMeets r x = false := by
  unfold ctxwShared
  simp

/-! ### PWIN (R374, R382, R383) -/

/-- The peers of a PWIN. -/
def pwinPeers (r : Rec) : List Nat := (List.range 16).map fun j => field r (56 + 2 * j) 2

/-- Whether the fields that every PWIN has are wrong: status 1. -/
def pwinWrong (r : Rec) : Bool :=
  decide (15 < field r 24 1) || decide (16 < field r 25 1) || !(decide (field r 26 1 ≤ 1) && decide (field r 27 1 ≤ 3) && decide (field r 28 4 ≤ 15)
    && (pwinPeers r).zipIdx.all fun e => if e.2 < field r 25 1 then decide (e.1 ≤ 511) else decide (e.1 = 0))

/-- Whether the range of a PWIN that sets a window is wrong: status 1. -/
def pwinMisplaced (r : Rec) : Bool :=
  decide (field r 32 8 % 16384 ≠ 0) || decide (field r 40 8 = 0) || decide (field r 40 8 % 16384 ≠ 0) || decide (2 ^ 56 < field r 32 8 + field r 40 8)
    || decide (field r 48 8 % 4096 ≠ 0)

/-- Whether its range meets the tenant's heap or another window: status 3. -/
def pwinMeets (k : Nat) (r : Rec) (d : Dev) : Bool :=
  overlap (field r 32 8) (field r 40 8) (d.tenant k).hbase ((d.tenant k).hlim - (d.tenant k).hbase)
    || ((d.tenant k).wins.toList.zipIdx.any fun e => decide (e.2 ≠ field r 24 1)
      && (match e.1 with | some w => overlap (field r 32 8) (field r 40 8) w.vbase w.vlen | none => false))

/-- The window that a PWIN sets. -/
def pwinWindow (r : Rec) : Win :=
  { np := field r 25 1, pull := decide (field r 26 1 = 1), rd := bit (field r 27 1) 0, wr := bit (field r 27 1) 1, rctx := field r 28 4,
    vbase := field r 32 8, vlen := field r 40 8, rbase := field r 48 8, peers := (pwinPeers r).take (field r 25 1) }

/-- What a PWIN that sets a window leaves before its status. -/
def pwinSet (k : Nat) (r : Rec) (d : Dev) : Dev :=
  let e := d.modTenant k fun t => { t with wins := vset t.wins (field r 24 1) (some (pwinWindow r)) }
  if (pwinWindow r).pull then (windowFrames e k (field r 32 8) (field r 40 8)).foldl (fun g n => g.modFrame n fun x => { x with home := 6, pull := false }) e
  else e

/-- The answers of a PWIN, in the order of its statuses. -/
def pwinEnd (k stat : Nat) (r : Rec) (d : Dev) : Except Nat RecEnd :=
  if pwinWrong r then .error 1
  else if field r 25 1 = 0 then
    if resident d k then .error 2
    else .ok (.done (putStatus stat 0 (d.modTenant k fun t => { t with wins := vset t.wins (field r 24 1) none })))
  else if pwinMisplaced r then .error 1
  else if resident d k then .error 2
  else if pwinMeets k r d then .error 3
  else if decide (field r 26 1 = 1) && !windowKnown d k (field r 32 8) (field r 40 8) then .ok (.retry d)
  else .ok (.done (putStatus stat 0 (pwinSet k r d)))

theorem execPwin_eq (s : State) : exec .pwin s = memRecord s [(24, 64)] pwinEnd := rfl

/-- What holds of every element of a list with its index. -/
theorem mem_zipIdx_forall {α : Type} {l : List α} {p : α × Nat → Prop} :
    (∀ e ∈ l.zipIdx, p e) ↔ ∀ (j : Nat) (hj : j < l.length), p (l[j], j) := by
  constructor
  · intro h j hj
    exact h _ (List.mk_mem_zipIdx_iff_getElem?.mpr (List.getElem?_eq_getElem hj))
  · rintro h ⟨a, j⟩ he
    obtain ⟨hj, rfl⟩ := List.getElem?_eq_some_iff.mp (List.mk_mem_zipIdx_iff_getElem?.mp he)
    exact h j hj

theorem pwinWrong_eq_false : pwinWrong r = false ↔ field r 24 1 ≤ 15 ∧ field r 25 1 ≤ 16 ∧ field r 26 1 ≤ 1 ∧ field r 27 1 ≤ 3 ∧ field r 28 4 ≤ 15
    ∧ ∀ j < 16, if j < field r 25 1 then field r (56 + 2 * j) 2 ≤ 511 else field r (56 + 2 * j) 2 = 0 := by
  have hpeers : ((pwinPeers r).zipIdx.all fun e => if e.2 < field r 25 1 then decide (e.1 ≤ 511) else decide (e.1 = 0)) = true ↔
      ∀ j < 16, if j < field r 25 1 then field r (56 + 2 * j) 2 ≤ 511 else field r (56 + 2 * j) 2 = 0 := by
    simp only [List.all_eq_true, mem_zipIdx_forall, pwinPeers, List.length_map, List.length_range, List.getElem_map, List.getElem_range]
    refine forall₂_congr fun j _ => ?_
    split <;> simp only [decide_eq_true_eq]
  unfold pwinWrong
  simp only [Bool.or_eq_false_iff, Bool.not_eq_false', Bool.and_eq_true, hpeers, decide_eq_false_iff_not, decide_eq_true_eq, not_lt, and_assoc]

theorem pwinMisplaced_eq_false : pwinMisplaced r = false ↔ field r 32 8 % 16384 = 0 ∧ field r 40 8 ≠ 0 ∧ field r 40 8 % 16384 = 0
    ∧ field r 32 8 + field r 40 8 ≤ 2 ^ 56 ∧ field r 48 8 % 4096 = 0 := by
  unfold pwinMisplaced
  simp only [Bool.or_eq_false_iff, decide_eq_false_iff_not, not_not, not_lt, and_assoc, ne_eq]

theorem pwinMeets_eq_false : pwinMeets k r d = false ↔
    overlap (field r 32 8) (field r 40 8) (d.tenant k).hbase ((d.tenant k).hlim - (d.tenant k).hbase) = false
      ∧ ∀ j < 16, j ≠ field r 24 1 → ∀ v, vget (d.tenant k).wins j none = some v → overlap (field r 32 8) (field r 40 8) v.vbase v.vlen = false := by
  unfold pwinMeets
  simp only [Bool.or_eq_false_iff, List.any_eq_false, mem_zipIdx_forall, Vector.length_toList, Vector.getElem_toList]
  refine and_congr_right fun _ => forall₂_congr fun j hj => ?_
  have hget : vget (d.tenant k).wins j none = (d.tenant k).wins[j] := by simp [vget, hj]
  rw [hget]
  cases (d.tenant k).wins[j] <;> simp

end Sys2Proof.Proofs
end

section
/-! BIAS, FREE and WMARK (R374, R377, R380, R381, R384), and what every admin record of memory leaves. -/

namespace Sys2Proof.Proofs
open Machine Claim Laws

variable {s : State} {ten m : Nat} {r : Rec} {d : Dev} {k : Nat}

/-! ### BIAS and FREE (R374, R381, R384) -/

/-- The frames of a BIAS or FREE record are there and no other tenant owns one (R374). -/
structure FramesOk (k : Nat) (r : Rec) (d : Dev) : Prop where
  any : field r 32 4 ≠ 0
  few : field r 32 4 ≤ 2 ^ 20
  below : field r 24 8 + field r 32 4 ≤ 2 ^ 28
  owned : ∀ e ∈ d.mmu.frames, field r 24 8 ≤ e.1 → e.1 < field r 24 8 + field r 32 4 → ∀ o, e.2.owner = some o → o = k

theorem frameRange_ok (h : FramesOk k r d) : frameRange k r d = .ok (field r 24 8, field r 32 4) := by
  obtain ⟨hany, hfew, hbelow, howned⟩ := h
  have hcount : ¬ (decide (field r 32 4 = 0) || decide (2 ^ 20 < field r 32 4) || decide (2 ^ 28 < field r 24 8 + field r 32 4)) = true := by
    simpa using ⟨⟨hany, hfew⟩, hbelow⟩
  have hothers : ¬ (d.mmu.frames.any fun e => decide (field r 24 8 ≤ e.1) && decide (e.1 < field r 24 8 + field r 32 4)
      && e.2.owner.any fun o => decide (o ≠ k)) = true := by
    simpa [Option.any_eq_false] using fun a x hx hlo hhi o ho => howned (a, x) hx hlo hhi o ho
  exact (if_neg hcount).trans (if_neg hothers)

theorem frameRange_error (h : ¬ FramesOk k r d) : frameRange k r d = .error 1 := by
  unfold frameRange
  by_cases hcount : (decide (field r 32 4 = 0) || decide (2 ^ 20 < field r 32 4) || decide (2 ^ 28 < field r 24 8 + field r 32 4)) = true
  · exact if_pos hcount
  · refine (if_neg hcount).trans (if_pos ?_)
    by_contra hothers
    simp only [Bool.or_eq_true, decide_eq_true_eq, not_or, not_lt] at hcount
    obtain ⟨⟨hany, hfew⟩, hbelow⟩ := hcount
    refine h ⟨hany, hfew, hbelow, fun e he hlo hhi o ho => ?_⟩
    by_contra hne
    refine hothers (List.any_eq_true.mpr ⟨e, he, ?_⟩)
    simpa [ho, hne] using ⟨hlo, hhi⟩

theorem bias_begins (h : recordTurn s ten m r) (hok : MemOk s.dev r [(24, 13)]) (hframes : FramesOk (field r 9 1) r s.dev) (hmode : field r 36 1 ≤ 1) :
    exec .bias s = recordTaken s ten m r
      { s.dev with mmu := { s.dev.mmu with flips := some (field r 24 8, field r 32 4, field r 16 8, decide (field r 36 1 = 1)) } } := by
  show execBias s = _
  refine memRecord_done h hok ?_
  rw [frameRange_ok hframes]
  exact if_neg (Nat.not_lt.mpr hmode)

theorem bias_refused (h : recordTurn s ten m r) (hok : MemOk s.dev r [(24, 13)]) (hbad : ¬ (FramesOk (field r 9 1) r s.dev ∧ field r 36 1 ≤ 1)) :
    exec .bias s = recordTaken s ten m r (putStatus (field r 16 8) 1 s.dev) := by
  show execBias s = _
  refine memRecord_answers h hok ?_
  by_cases hframes : FramesOk (field r 9 1) r s.dev
  · rw [frameRange_ok hframes]
    exact if_pos (Nat.not_le.mp fun hmode => hbad ⟨hframes, hmode⟩)
  · rw [frameRange_error hframes]
    rfl

theorem free_scrubs (h : recordTurn s ten m r) (hok : MemOk s.dev r [(24, 12)]) (hframes : FramesOk (field r 9 1) r s.dev) :
    exec .free s = recordTaken s ten m r (scrubThen (field r 16 8)
      (((s.dev.mmu.frames.filter fun e => decide (field r 24 8 ≤ e.1) && decide (e.1 < field r 24 8 + field r 32 4)).map (·.1)).map fun n =>
        { base := frameLoc n, len := 16384, frame := some n }) s.dev) := by
  show execFree s = _
  refine memRecord_done h hok ?_
  rw [frameRange_ok hframes]
  rfl

theorem free_refused (h : recordTurn s ten m r) (hok : MemOk s.dev r [(24, 12)]) (hbad : ¬ FramesOk (field r 9 1) r s.dev) :
    exec .free s = recordTaken s ten m r (putStatus (field r 16 8) 1 s.dev) := by
  show execFree s = _
  refine memRecord_answers h hok ?_
  rw [frameRange_error hbad]
  rfl

/-! ### WMARK (R374, R380) -/

/-- Whether a WMARK's fields are wrong: status 1. -/
def wmarkWrong (r : Rec) : Bool :=
  decide (3 < field r 24 1) || decide (field r 32 4 ≤ field r 28 4) || decide (field r 40 8 % 16384 ≠ 0) || decide (field r 48 8 % 16384 ≠ 0)
    || ((decide (field r 24 1 = 0) || decide (field r 24 1 = 3)) && (decide (field r 40 8 ≠ 0) || decide (field r 48 8 ≠ 0)))

theorem wmarkWrong_eq_false : wmarkWrong r = false ↔ field r 24 1 ≤ 3 ∧ field r 28 4 < field r 32 4 ∧ field r 40 8 % 16384 = 0 ∧ field r 48 8 % 16384 = 0
    ∧ (field r 24 1 = 0 ∨ field r 24 1 = 3 → field r 40 8 = 0 ∧ field r 48 8 = 0) := by
  unfold wmarkWrong
  simp [and_assoc]

theorem wmark_refused (h : recordTurn s ten m r) (hok : MemOk s.dev r [(24, 1), (28, 8), (40, 16)]) (hten : field r 9 1 = 0) (hbad : wmarkWrong r = true) :
    exec .wmark s = recordTaken s ten m r (putStatus (field r 16 8) 1 s.dev) := by
  show execWmark s = _
  refine memRecord_answers h hok ?_
  exact (if_neg (not_not.mpr hten)).trans (if_pos hbad)

/-- A WMARK whose fields are right: the pool's answer is free (log 4), and a pool that the link does not reach is status 4. -/
theorem wmark_taken (h : recordTurn s ten m r) (hok : MemOk s.dev r [(24, 1), (28, 8), (40, 16)]) (hten : field r 9 1 = 0) (hfits : wmarkWrong r = false) :
    let d := s.dev
    let f := field r
    let e : Dev := { d with drawn := d.drawn + 1 }
    let pools := if f 24 1 = 1 ∨ f 24 1 = 2 then vset d.mmu.pools (f 24 1) (f 40 8, f 48 8) else d.mmu.pools
    exec .wmark s = if f 48 8 ≠ 0 ∧ Config.freeNat d.drawn % 2 = 1 then recordTaken s ten m r (putStatus (f 16 8) 4 e)
      else recordTaken s ten m r (putStatus (f 16 8) 0
        { e with mmu := { e.mmu with low := vset d.mmu.low (f 24 1) (f 28 4), high := vset d.mmu.high (f 24 1) (f 32 4), pools := pools } }) := by
  intro d f e pools
  show execWmark s = _
  have hright : ¬ wmarkWrong r = true := Bool.eq_false_iff.mp hfits
  have hanswer : (decide (f 48 8 ≠ 0) && decide (Config.freeNat d.drawn % 2 = 1)) = true ↔ f 48 8 ≠ 0 ∧ Config.freeNat d.drawn % 2 = 1 := by simp
  by_cases hlost : f 48 8 ≠ 0 ∧ Config.freeNat d.drawn % 2 = 1
  · rw [if_pos hlost]
    refine memRecord_done h hok ?_
    exact (if_neg (not_not.mpr hten)).trans ((if_neg hright).trans (if_pos (hanswer.mpr hlost)))
  · rw [if_neg hlost]
    refine memRecord_done h hok ?_
    refine (if_neg (not_not.mpr hten)).trans ((if_neg hright).trans ((if_neg (mt hanswer.mp hlost)).trans ?_))
    have hpools : pools = if decide (f 24 1 = 1) || decide (f 24 1 = 2) then vset d.mmu.pools (f 24 1) (f 40 8, f 48 8) else d.mmu.pools := by simp [pools]
    rw [hpools]
    rfl

/-! ### CTXW and PWIN: an answer per status -/

theorem ctxw_wrong (h : recordTurn s ten m r) (hok : MemOk s.dev r [(24, 25), (56, 24)]) (hbad : ctxwWrong s.dev r = true) :
    exec .ctxw s = recordTaken s ten m r (putStatus (field r 16 8) 1 s.dev) :=
  (execCtxw_eq s).trans (memRecord_answers h hok (if_pos hbad))

theorem ctxw_busy (h : recordTurn s ten m r) (hok : MemOk s.dev r [(24, 25), (56, 24)]) (hfits : ctxwWrong s.dev r = false)
    (hbusy : ctxwBusy (field r 9 1) r s.dev = true) : exec .ctxw s = recordTaken s ten m r (putStatus (field r 16 8) 2 s.dev) := by
  refine (execCtxw_eq s).trans (memRecord_answers h hok ?_)
  unfold ctxwEnd
  rw [hfits, hbusy]
  rfl

theorem ctxw_shared (h : recordTurn s ten m r) (hok : MemOk s.dev r [(24, 25), (56, 24)]) (hfits : ctxwWrong s.dev r = false)
    (hmay : ctxwBusy (field r 9 1) r s.dev = false) (hclean : ctxwDirty r s.dev = false) (hshared : ctxwShared (field r 9 1) r s.dev = true) :
    exec .ctxw s = recordTaken s ten m r (putStatus (field r 16 8) 3 s.dev) := by
  refine (execCtxw_eq s).trans (memRecord_answers h hok ?_)
  unfold ctxwEnd
  rw [hfits, hmay, hclean, hshared]
  rfl

theorem ctxw_done (h : recordTurn s ten m r) (hok : MemOk s.dev r [(24, 25), (56, 24)]) (hfits : ctxwWrong s.dev r = false)
    (hmay : ctxwBusy (field r 9 1) r s.dev = false) (hclean : ctxwDirty r s.dev = false) (hapart : ctxwShared (field r 9 1) r s.dev = false) :
    exec .ctxw s = recordTaken s ten m r (ctxwDone (field r 9 1) (field r 16 8) r s.dev) := by
  refine (execCtxw_eq s).trans (memRecord_done h hok ?_)
  unfold ctxwEnd
  rw [hfits, hmay, hclean, hapart]
  rfl

/-- Whether any field of a PWIN is wrong. -/
def pwinRefused (r : Rec) : Bool := pwinWrong r || (decide (1 ≤ field r 25 1) && pwinMisplaced r)

theorem pwin_wrong (h : recordTurn s ten m r) (hok : MemOk s.dev r [(24, 64)]) (hbad : pwinRefused r = true) :
    exec .pwin s = recordTaken s ten m r (putStatus (field r 16 8) 1 s.dev) := by
  refine (execPwin_eq s).trans (memRecord_answers h hok ?_)
  unfold pwinEnd
  cases hwrong : pwinWrong r with
  | true => rfl
  | false =>
    obtain ⟨hsome, hmis⟩ : 1 ≤ field r 25 1 ∧ pwinMisplaced r = true := by simpa [pwinRefused, hwrong] using hbad
    rw [if_neg (Nat.one_le_iff_ne_zero.mp hsome), hmis]
    rfl

section accepted
variable (h : recordTurn s ten m r) (hok : MemOk s.dev r [(24, 64)]) (hfits : pwinRefused r = false)
include h hok hfits

theorem pwin_resident (hres : resident s.dev (field r 9 1) = true) : exec .pwin s = recordTaken s ten m r (putStatus (field r 16 8) 2 s.dev) := by
  obtain ⟨hwrong, hmis⟩ := Bool.or_eq_false_iff.mp hfits
  refine (execPwin_eq s).trans (memRecord_answers h hok ?_)
  unfold pwinEnd
  rw [hwrong, hres]
  by_cases hnone : field r 25 1 = 0
  · rw [if_pos hnone]
    rfl
  · rw [decide_eq_true (Nat.one_le_iff_ne_zero.mpr hnone), Bool.true_and] at hmis
    rw [if_neg hnone, hmis]
    rfl

theorem pwin_removes (hidle : resident s.dev (field r 9 1) = false) (hnone : field r 25 1 = 0) :
    exec .pwin s = recordTaken s ten m r (putStatus (field r 16 8) 0
      (s.dev.modTenant (field r 9 1) fun t => { t with wins := vset t.wins (field r 24 1) none })) := by
  obtain ⟨hwrong, -⟩ := Bool.or_eq_false_iff.mp hfits
  refine (execPwin_eq s).trans (memRecord_done h hok ?_)
  unfold pwinEnd
  rw [hwrong, if_pos hnone, hidle]
  rfl

variable (hidle : resident s.dev (field r 9 1) = false) (hsome : 1 ≤ field r 25 1)
include hidle hsome

theorem pwin_meets (hmeets : pwinMeets (field r 9 1) r s.dev = true) : exec .pwin s = recordTaken s ten m r (putStatus (field r 16 8) 3 s.dev) := by
  obtain ⟨hwrong, hmis⟩ := Bool.or_eq_false_iff.mp hfits
  rw [decide_eq_true hsome, Bool.true_and] at hmis
  refine (execPwin_eq s).trans (memRecord_answers h hok ?_)
  unfold pwinEnd
  rw [hwrong, if_neg (Nat.one_le_iff_ne_zero.mp hsome), hmis, hidle, hmeets]
  rfl

theorem pwin_sets (hapart : pwinMeets (field r 9 1) r s.dev = false)
    (hknown : field r 26 1 = 1 → windowKnown s.dev (field r 9 1) (field r 32 8) (field r 40 8) = true) :
    exec .pwin s = recordTaken s ten m r (putStatus (field r 16 8) 0 (pwinSet (field r 9 1) r s.dev)) := by
  obtain ⟨hwrong, hmis⟩ := Bool.or_eq_false_iff.mp hfits
  rw [decide_eq_true hsome, Bool.true_and] at hmis
  have hwaits : ¬ (decide (field r 26 1 = 1) && !windowKnown s.dev (field r 9 1) (field r 32 8) (field r 40 8)) = true := by simpa using hknown
  refine (execPwin_eq s).trans (memRecord_done h hok ?_)
  unfold pwinEnd
  rw [hwrong, if_neg (Nat.one_le_iff_ne_zero.mp hsome), hmis, hidle, hapart]
  exact if_neg hwaits

end accepted

theorem eq_true_of_not_iff {b : Bool} {p : Prop} (h : b = false ↔ p) (hn : ¬ p) : b = true := Bool.eq_true_of_not_eq_false (mt h.mp hn)

/-- Settles O56: each record by the first of its answers whose condition it meets. -/
theorem tenantAndMemoryRecordResults : Obligations.TenantAndMemoryRecordResults := by
  unfold Obligations.TenantAndMemoryRecordResults
  intro s ten m r h d f t k w stat
  refine ⟨fun hten hprio hrights hspare hrest => ?tset, tkill_taken h,
    fun hk hspare hstat => ⟨fun hrest => ?ctxw, fun hrest => ?pwin, ?frames, fun hrest hzero => ?wmark⟩⟩
  case tset =>
    have hok : TsetOk r := ⟨hten, hprio, hrights, hspare, hrest⟩
    exact ⟨tset_removes h hok,
      fun hstate hw hp hl hm hpart hs hf he hi hsv hb => tset_activates h hok hstate ⟨hw, hp, hl, hm, hpart, hs, hf, he, hi, hsv, hb⟩⟩
  case ctxw =>
    intro fits apart may scrubbed
    have hok : MemOk d r _ := ⟨hk, hspare, hstat, hrest⟩
    have hfits : ctxwWrong d r = false ↔ fits := ctxwWrong_eq_false
    have hmay : ctxwBusy k r d = false ↔ may := by
      rw [ctxwBusy_eq_false]; simp only [ctxwMeets_eq_false]; rfl
    have hclean : ctxwDirty r d = false ↔ scrubbed := by
      rw [ctxwDirty_eq_false]; simp only [ctxwMeets_eq_false]; rfl
    have hapart : ctxwShared k r d = false ↔ ∀ j < 16, j ≠ k → ∀ x ∈ tenantRanges (d.tenant j), apart x := by
      rw [ctxwShared_eq_false]; simp only [ctxwMeets_eq_false]; rfl
    refine ⟨fun hn => ctxw_wrong h hok (eq_true_of_not_iff hfits hn),
      fun hf hn => ctxw_busy h hok (hfits.mpr hf) (eq_true_of_not_iff hmay hn),
      fun hf hm hc hx => ctxw_shared h hok (hfits.mpr hf) (hmay.mpr hm) (hclean.mpr hc) (eq_true_of_not_iff hapart ?meets),
      fun hf hm hc ha => ctxw_done h hok (hfits.mpr hf) (hmay.mpr hm) (hclean.mpr hc) (hapart.mpr ha)⟩
    obtain ⟨j, hj, hne, x, hmem, hmeets⟩ := hx
    exact fun hall => hmeets (hall j hj hne x hmem)
  case pwin =>
    intro fits apart
    have hok : MemOk d r _ := ⟨hk, hspare, hstat, hrest⟩
    have hfits : pwinRefused r = false ↔ fits := by
      simp only [pwinRefused, Bool.or_eq_false_iff, pwinWrong_eq_false, and_assoc, Bool.and_eq_false_imp, decide_eq_true_eq, pwinMisplaced_eq_false]
      rfl
    have hapart : pwinMeets k r d = false ↔ apart := pwinMeets_eq_false
    refine ⟨fun hn => pwin_wrong h hok (eq_true_of_not_iff hfits hn),
      fun hf hres => pwin_resident h hok (hfits.mpr hf) hres,
      fun hf hidle hsome hn => pwin_meets h hok (hfits.mpr hf) hidle hsome (eq_true_of_not_iff hapart hn),
      fun hf hidle hnone => pwin_removes h hok (hfits.mpr hf) hidle hnone,
      fun hf hidle hsome ha hknown => ?sets⟩
    have hsets := pwin_sets h hok (hfits.mpr hf) hidle hsome (hapart.mpr ha) hknown
    simp only [pwinSet, pwinWindow, bit_eq, decide_eq_true_eq] at hsets
    exact hsets
  case frames =>
    intro fits
    have hframes : FramesOk k r d ↔ fits := ⟨fun ⟨hany, hfew, hbelow, howned⟩ => ⟨hany, hfew, hbelow, howned⟩,
      fun ⟨hany, hfew, hbelow, howned⟩ => ⟨hany, hfew, hbelow, howned⟩⟩
    have hok {used : List (Nat × Nat)} (hrest : spareZero r used) : MemOk d r used := ⟨hk, hspare, hstat, hrest⟩
    exact ⟨fun hrest => ⟨fun hn => bias_refused h (hok hrest) (by rwa [hframes]), fun hf => bias_begins h (hok hrest) (hframes.mpr hf)⟩,
      fun hrest => ⟨fun hn => free_refused h (hok hrest) (mt hframes.mp hn), fun hf => free_scrubs h (hok hrest) (hframes.mpr hf)⟩⟩
  case wmark =>
    intro fits e pools
    have hok : MemOk d r _ := ⟨hk, hspare, hstat, hrest⟩
    have hfits : wmarkWrong r = false ↔ fits := wmarkWrong_eq_false
    exact ⟨fun hn => wmark_refused h hok hzero (eq_true_of_not_iff hfits hn), fun hf => wmark_taken h hok hzero (hfits.mpr hf)⟩

end Sys2Proof.Proofs
end

section
/-! The live update of the Gaffer: its record, the check unit, the switch, its heartbeat and its rollback, and reset (R394 to R404). -/

namespace Sys2Proof.Proofs
open Machine Claim Laws

variable {s : State} {ten m : Nat} {r : Rec}

/-! ### FWUP (R396) -/

/-- A FWUP whose fields and ranges its rules accept (R396). -/
structure FwupOk (d : Dev) (r : Rec) : Prop where
  whole : field r 16 8 % 4096 = 0
  least : 65536 ≤ field r 16 8
  most : field r 16 8 ≤ 2 ^ 24
  timed : 1 ≤ field r 32 4
  timeout : field r 32 4 ≤ 10000
  spare : field r 36 4 = 0
  middle : field r 48 16 = 0
  rest : field r 112 16 = 0
  image : field r 8 8 % 4096 = 0
  imageFits : field r 8 8 + field r 16 8 ≤ hbmSize d
  area : field r 24 8 % 4096 = 0
  areaFits : field r 24 8 + 4096 ≤ hbmSize d
  stat : field r 40 8 % 8 = 0
  statIs : physOk d (field r 40 8) 8 = true

theorem fwup_starts (h : recordTurn s ten m r) (hok : FwupOk s.dev r) (hnone : statusPending s.dev = false) {loc : Nat} {rd wr : Bool}
    (hway : physWay s.dev (Config.fwStore 0) = .here loc rd wr) :
    let d := s.dev
    let e := placeBytes d gafferAgent loc (streamList d)
    let g := e.setSeq leaderSeq (controlSeq (Config.updateEntry (vget e.fw.slots e.fw.act [])) (streamByte d ten m (d.stream ten m).rix) (Config.fwStore 0))
    exec .fwup s = recordTaken s ten m r { g with fw := { g.fw with updating := true, stat := field r 40 8 } } := by
  intro d e g
  obtain ⟨hwhole, hleast, hmost, htimed, htimeout, hspare, hmiddle, hrest, himage, himageFits, harea, hareaFits, hstat, hstatIs⟩ := hok
  have hfields : ¬ (decide (field r 16 8 % 4096 ≠ 0) || decide (field r 16 8 < 65536) || decide (2 ^ 24 < field r 16 8) || decide (field r 32 4 = 0)
      || decide (10000 < field r 32 4) || !decide (field r 36 4 = 0) || !decide (field r 48 16 = 0) || !decide (field r 112 16 = 0)) = true := by
    simp [hwhole, hspare, hmiddle, hrest, hleast, htimeout, Nat.one_le_iff_ne_zero.mp htimed]; exact hmost
  have hranges : ¬ (!(decide (field r 8 8 % 4096 = 0) && decide (field r 8 8 + field r 16 8 ≤ hbmSize d))
      || !(decide (field r 24 8 % 4096 = 0) && decide (field r 24 8 + 4096 ≤ hbmSize d)) || decide (field r 40 8 % 8 ≠ 0)
      || !physOk d (field r 40 8) 8) = true := by
    simp [d, himage, himageFits, harea, hareaFits, hstat, hstatIs]
  show execFwup s = _
  refine record_done h ?_
  refine (if_neg (by simp [hnone])).trans ((if_neg hfields).trans ((if_neg hranges).trans ?_))
  simp only [hway]
  rfl

/-! ### The check unit (R398) -/

theorem fchkWrite_starts {q a limit : Nat} {asg : List Nat} (hpend : s.dev.fw.pendChk = some (q, a, limit, asg))
    (hsettled : settledBefore s.dev q limit asg = true) :
    exec .fchkWrite s = became s { s.dev with fw := { s.dev.fw with pendChk := none, checking := some (s.dev.fw.checking.getD a) } } := by
  show execFchkWrite s = _
  refine runEvent_became ?_
  rw [hpend]
  exact if_neg (by simp [hsettled])

theorem firmwareCheck_completes {a : Nat} (hchk : s.dev.fw.checking = some a) :
    let d := s.dev
    let n := gget d (a + 16) 8
    let dig := ggetBytes d (a + 64) 48
    let b := ggetBytes d (gget d (a + 8) 8) (min n (2 ^ 24))
    let v := checkStatus d n dig b
    let e : Dev := { d with fw := { d.fw with checking := none } }
    exec .firmwareCheckComplete s = became s (gput (if v = 1 then { e with fw := { e.fw with
        slots := vset d.fw.slots (1 - d.fw.act) b, meas := vset d.fw.meas (1 - d.fw.act) dig, chk := true } } else e) (gget d (a + 40) 8) 8 v) := by
  intro d n dig b v e
  show execFirmwareCheckComplete s = _
  refine runEvent_became ?_
  rw [hchk]

/-! ### The switch (R400 to R403) -/

theorem fswWrite_lands {q : Nat} {x : Seq}
    (hfind : List.find? (fun e : Nat × Seq => decide (1024 ≤ e.1) && e.2.pend.any fun w => decide (w.tgt = .sysreg 0x63)) s.dev.seqs = some (q, x)) :
    exec .fswWrite s = became s (landAll q 32 s.dev) := by
  show execFswWrite s = _
  refine runEvent_became ?_
  rw [hfind]

/-- Nothing of a control core waits: what the leader pushed has performed, no check is due, and no control core has placed anything (R400). -/
structure CoresIdle (d : Dev) (q : Nat) : Prop where
  settled : settledBefore d q (d.seq q).opCtr ((d.seq q).cols.toList.map (·.sdAsg)) = true
  acked : (d.seq q).unacked = 0
  checked : d.fw.pendChk = none
  placed : ∀ p ∈ d.placed, p.range.1 < 1024 ∨ 2048 ≤ p.range.1
  splits : ∀ x ∈ d.splits, x.own < 1024 ∨ 2048 ≤ x.own

theorem not_core_iff (a : Nat) : (decide (1024 ≤ a) && decide (a < 2048)) = false ↔ a < 1024 ∨ 2048 ≤ a := by
  simp only [Bool.and_eq_false_iff, decide_eq_false_iff_not, not_le, not_lt]

theorem slotSwitch_switches {q : Nat} {v : Word} (hpend : s.dev.fw.pendFsw = some (q, v)) (hidle : CoresIdle s.dev q) :
    let d := s.dev
    let slot := v.toNat / 2 ^ 16 % 2
    let pairs := (List.range (pairCount d)).filter fun k => !d.fleet.failed.getLsbD k
    let qs := (List.range (if d.fleet.unprotNext then 2 * pairCount d else pairs.length)).map (1024 + ·)
    let rest : Tab Seq := d.seqs.filter fun e => decide (e.1 < 1024)
    let cores : Tab Seq := d.seqs.filter fun e => decide (1024 ≤ e.1)
    exec .slotSwitch s = became s
      { d with seqs := qs.foldl (fun (t : Tab Seq) k => t.put k (controlSeq (Config.bootEntry (vget d.fw.slots slot [])) 0 0)) rest,
               fw := { d.fw with act := slot, ucnt := d.fw.ucnt + 1, rbkFlag := false, chk := false, gstat := 2, pendFsw := none, pendFhb := none,
                                 switching := some (d.fw.act, cores), oldUnprot := d.fleet.unprot },
               fleet := { d.fleet with unprot := d.fleet.unprotNext } } := by
  intro d slot pairs qs rest cores
  obtain ⟨hsettled, hacked, hchecked, hplaced, hsplits⟩ := hidle
  have hwaits : ¬ (!settledBefore d q (d.seq q).opCtr ((d.seq q).cols.toList.map (·.sdAsg)) || decide ((d.seq q).unacked ≠ 0) || d.fw.pendChk.isSome
      || (d.placed.any fun p => decide (1024 ≤ p.range.1) && decide (p.range.1 < 2048))
      || (d.splits.any fun x => decide (1024 ≤ x.own) && decide (x.own < 2048))) = true := by
    have hnoPlaced : (d.placed.any fun p => decide (1024 ≤ p.range.1) && decide (p.range.1 < 2048)) = false :=
      List.any_eq_false.mpr fun p hp => Bool.eq_false_iff.mp ((not_core_iff _).mpr (hplaced p hp))
    have hnoSplits : (d.splits.any fun x => decide (1024 ≤ x.own) && decide (x.own < 2048)) = false :=
      List.any_eq_false.mpr fun x hx => Bool.eq_false_iff.mp ((not_core_iff _).mpr (hsplits x hx))
    rw [hnoPlaced, hnoSplits, show settledBefore d q _ _ = true from hsettled, show d.fw.pendChk = none from hchecked, show (d.seq q).unacked = 0 from hacked]
    decide
  show execSlotSwitch s = _
  refine runEvent_became ?_
  rw [hpend]
  exact if_neg hwaits

theorem unplaced_fw : Unplaced Dev.fw := ⟨fun _ _ _ => rfl, fun _ _ _ _ => rfl, fun _ _ _ => rfl, fun _ _ _ _ _ _ => rfl⟩

theorem stopCores_fw (d : Dev) : (stopCores d).fw = d.fw := settle_unplaced unplaced_fw _

/-- Without anything placed the control cores stop at once. -/
theorem stopCores_seqs {d : Dev} (h : d.placed = []) : (stopCores d).seqs = d.seqs.filter fun x => decide (x.1 < 1024) := by
  unfold stopCores
  simp only [h]
  rfl

theorem fhbWrite_lands {v : Word} (hpend : s.dev.fw.pendFhb = some v) :
    let d := s.dev
    let g := stopCores { d with fw := { d.fw with pendFhb := none, switching := none, gstat := 1, updating := false } }
    exec .fhbWrite s = became s (pass (gput g d.fw.stat 8 0)) := by
  intro d g
  have hstat : g.fw.stat = d.fw.stat := by rw [show g.fw = _ from stopCores_fw _]
  show execFhbWrite s = _
  refine runEvent_became ?_
  rw [hpend, ← hstat]

/-- Only the right value of fhb, while a switch is pending, is kept (R401). -/
theorem landSysreg_fhb (q : Nat) (v : Word) (d : Dev) : landSysreg q 0x64 v d =
    { d with fw := { d.fw with pendFhb := if d.fw.switching.isSome ∧ v.toNat % 2 ^ 32 = d.fw.ucnt % 2 ^ 32 then some v else d.fw.pendFhb } } := by
  have hright : (d.fw.switching.isSome && decide (bits v.toNat 0 32 = d.fw.ucnt % 2 ^ 32)) = true ↔
      d.fw.switching.isSome = true ∧ v.toNat % 2 ^ 32 = d.fw.ucnt % 2 ^ 32 := by simp [bits]
  have hland : landSysreg q 0x64 v d = if (d.fw.switching.isSome && decide (bits v.toNat 0 32 = d.fw.ucnt % 2 ^ 32)) = true then
      { d with fw := { d.fw with pendFhb := some v } } else d := rfl
  rw [hland]
  by_cases hkept : d.fw.switching.isSome = true ∧ v.toNat % 2 ^ 32 = d.fw.ucnt % 2 ^ 32
  · rw [if_pos (hright.mpr hkept), if_pos hkept]
  · rw [if_neg (mt hright.mp hkept), if_neg hkept]

theorem heartbeatTimeout_rolls_back (hswitch : s.dev.fw.switching ≠ none) (hpend : s.dev.fw.pendFhb = none) :
    exec .heartbeatTimeout s = became s (switchBack s.dev) := by
  show execHeartbeatTimeout s = _
  exact runEvent_became (if_pos (by simp [hpend, Option.isSome_iff_ne_none, hswitch]))

/-! ### Reset (R348, R416) -/

/-- The bytes of a memory whose entries a property of the address keeps. -/
theorem get_filter {m : Mem} {lo : Option Nat} (h : Mem.wfFrom lo m = true) (p : Nat → Bool) (a : Nat) :
    Mem.get (m.filter fun c => p c.1) a = if p a then Mem.get m a else 0 := by
  induction m generalizing lo with
  | nil => simp [Mem.get]
  | cons c m ih =>
    obtain ⟨b, v⟩ := c
    obtain ⟨hb, hv, hm⟩ := (Mem.wfFrom_cons ..).mp h
    have hrest := ih hm
    by_cases hp : p b = true
    · rw [List.filter_cons, if_pos hp]
      rcases eq_or_ne a b with rfl | hne
      · simp [Mem.get, hp]
      · simp only [Mem.get, if_neg hne, hrest]
        split_ifs <;> rfl
    · rw [List.filter_cons, if_neg hp, hrest]
      rcases lt_trichotomy a b with hlt | rfl | hgt
      · simp [Mem.get, hlt, hlt.ne, Mem.get_below hm hlt.le]
      · rw [if_neg hp, if_neg hp]
      · simp [Mem.get, hgt.ne', not_lt.mpr hgt.le]

/-- Reset leaves host memory and no other byte (R348). -/
theorem reset_mem (m : Mem) (a : Nat) :
    let n : Mem := m.filter fun c => decide (hostLoc ≤ c.1) && decide (c.1 < gafferLoc)
    n.get a = if hostLoc ≤ a ∧ a < gafferLoc ∧ m.wf = true then m.get a else if m.wf = true then 0 else n.get a := by
  intro n
  by_cases hwf : m.wf = true
  · have hget : n.get a = if (decide (hostLoc ≤ a) && decide (a < gafferLoc)) = true then m.get a else 0 :=
      get_filter hwf (fun a => decide (hostLoc ≤ a) && decide (a < gafferLoc)) a
    simp only [hget, hwf, and_true, if_true, Bool.and_eq_true, decide_eq_true_eq]
  · simp only [hwf, and_false, if_false, Bool.false_eq_true]

/-- Settles O58: each step by the device that it leaves. -/
theorem firmwareStepResults : Obligations.FirmwareStepResults := by
  unfold Obligations.FirmwareStepResults
  refine ⟨?fwup, fun s => ⟨fun q a limit asg => fchkWrite_starts, fun a => firmwareCheck_completes, fun q x => fswWrite_lands,
    fun q v hpend hsettled hacked hchecked hplaced hsplits => slotSwitch_switches hpend ⟨hsettled, hacked, hchecked, hplaced, hsplits⟩,
    fun v hpend => ⟨fun hnone => stopCores_seqs (d := { s.dev with fw := _ }) hnone, fhbWrite_lands hpend⟩,
    fun q v => landSysreg_fhb q v s.dev, heartbeatTimeout_rolls_back, ?reset⟩⟩
  case fwup =>
    intro s ten m r h d f hwhole hleast hmost htimed htimeout hspare hmiddle hrest himage himageFits harea hareaFits hstat
      hstatIs loc rd wr hway e g hnone
    exact fwup_starts h ⟨hwhole, hleast, hmost, htimed, htimeout, hspare, hmiddle, hrest, himage, himageFits, harea, hareaFits, hstat, hstatIs⟩ hnone hway
  case reset =>
    exact ⟨_, rfl, rfl, rfl, rfl, rfl, rfl, rfl, rfl, rfl, rfl, rfl, rfl, rfl, rfl, rfl, rfl, reset_mem s.dev.mem, rfl, rfl, rfl, rfl, rfl, rfl, rfl, rfl, rfl,
      rfl, rfl, rfl⟩

end Sys2Proof.Proofs
end

section
/-! FLEET records (R405, R411, R416, R419, R420): their answers. -/

namespace Sys2Proof.Proofs
open Machine Claim Laws

variable {s : State} {ten m : Nat} {r : Rec}

/-- A FLEET record whose reserved bytes are zero and whose status address exists (R405). -/
structure FleetOk (d : Dev) (r : Rec) (used : List (Nat × Nat)) : Prop where
  spare : field r 9 7 = 0
  stat : statOk d (field r 16 8) = true
  rest : spareZero r used

/-- A FLEET record that has been taken and answered: the fleet that its operation leaves, and its status. -/
def fleetAnswered (s : State) (ten m : Nat) (r : Rec) (x : Fleet) (v : Nat) : Out :=
  recordTaken s ten m r (putStatus (field r 16 8) v { s.dev with fleet := x })

/-- A FLEET record that is accepted answers as its operation does (R405). -/
theorem fleetRecord_taken {used : List (Nat × Nat)} {f : Rec → Dev → Dev × Nat} {x : Fleet} {v : Nat} (h : recordTurn s ten m r)
    (hok : FleetOk s.dev r used) (hf : f r s.dev = ({ s.dev with fleet := x }, v)) : fleetRecord s used f = fleetAnswered s ten m r x v := by
  obtain ⟨hspare, hstat, hrest⟩ := hok
  refine record_done h ?_
  have hfields : ¬ (!recZero r 9 7 || !((List.range 104).all fun i =>
      (used.any fun u => decide (u.1 ≤ 24 + i) && decide (24 + i < u.1 + u.2)) || recZero r (24 + i) 1)) = true := by
    rw [spare_all r used hrest]
    simpa [recZero, field] using hspare
  refine (if_neg hfields).trans ((if_neg (by rw [show statOk s.dev (recNum r 16 8) = true from hstat]; simp)).trans ?_)
  rw [hf]
  rfl

/-- One that checks its fields and then sets them answers 1, and changes nothing else, where a field is wrong. -/
theorem fleetRecord_checked {used : List (Nat × Nat)} {f : Rec → Dev → Dev × Nat} {wrong : Bool} {x : Fleet} {p : Prop} [Decidable p]
    (h : recordTurn s ten m r) (hok : FleetOk s.dev r used) (hwrong : wrong = false ↔ p)
    (hf : f r s.dev = if wrong then (s.dev, 1) else ({ s.dev with fleet := x }, 0)) :
    fleetRecord s used f = if p then fleetAnswered s ten m r x 0 else fleetAnswered s ten m r s.dev.fleet 1 := by
  by_cases hp : p
  · rw [if_pos hp]
    exact fleetRecord_taken h hok (hf.trans (if_neg (Bool.eq_false_iff.mp (hwrong.mpr hp))))
  · rw [if_neg hp]
    exact fleetRecord_taken h hok (hf.trans (if_pos (eq_true_of_not_iff hwrong hp)))

section records
variable (h : recordTurn s ten m r)
include h

theorem power_answers (hok : FleetOk s.dev r [(24, 5)]) :
    let d := s.dev
    let f := field r
    exec .power s =
      if 300 ≤ f 24 2 ∧ f 24 2 ≤ 1500 ∧ (if d.form = .m640 then 400 ≤ f 26 2 ∧ f 26 2 ≤ 2000 else f 26 2 = 0) ∧ 60 ≤ f 28 1 ∧ f 28 1 ≤ 95
      then fleetAnswered s ten m r { d.fleet with plim := f 24 2, mlim := f 26 2, twarn := f 28 1 } 0 else fleetAnswered s ten m r d.fleet 1 := by
  intro d f
  have hmodule : (if d.form = .m640 then decide (400 ≤ f 26 2) && decide (f 26 2 ≤ 2000) else decide (f 26 2 = 0)) = true ↔
      if d.form = .m640 then 400 ≤ f 26 2 ∧ f 26 2 ≤ 2000 else f 26 2 = 0 := by
    split <;> simp
  have hwrong : (decide (f 24 2 < 300) || decide (1500 < f 24 2)
      || !(if d.form = .m640 then decide (400 ≤ f 26 2) && decide (f 26 2 ≤ 2000) else decide (f 26 2 = 0)) || decide (f 28 1 < 60) || decide (95 < f 28 1)) = false ↔
      300 ≤ f 24 2 ∧ f 24 2 ≤ 1500 ∧ (if d.form = .m640 then 400 ≤ f 26 2 ∧ f 26 2 ≤ 2000 else f 26 2 = 0) ∧ 60 ≤ f 28 1 ∧ f 28 1 ≤ 95 := by
    simp only [Bool.or_eq_false_iff, decide_eq_false_iff_not, not_lt, Bool.not_eq_false', hmodule, and_assoc]
  show execPower s = _
  exact fleetRecord_checked h hok hwrong rfl

theorem ras_answers (hok : FleetOk s.dev r [(24, 1)]) :
    let d := s.dev
    let f := field r
    exec .ras s = if f 24 1 ≤ 3 then fleetAnswered s ten m r { d.fleet with unprotNext := (f 24 1).testBit 0, lowv := (f 24 1).testBit 1 } 0
      else fleetAnswered s ten m r d.fleet 1 := by
  intro d f
  show execRas s = _
  split
  · refine fleetRecord_taken h hok ((if_neg (not_lt.mpr ‹_›)).trans ?_)
    simp only [bit_eq]
    rfl
  · exact fleetRecord_taken h hok (if_pos (not_le.mp ‹_›))

theorem advance_answers (hok : FleetOk s.dev r [(24, 1), (32, 8)]) (hwhich : field r 24 1 ≤ 1) :
    let d := s.dev
    let f := field r
    let l := if f 24 1 = 0 then d.fleet.secc else d.fleet.fwsc
    exec .advance s =
      if f 32 8 ≤ l.foldl max 0 then fleetAnswered s ten m r d.fleet 1 else if 256 ≤ l.length then fleetAnswered s ten m r d.fleet 2
      else fleetAnswered s ten m r (if f 24 1 = 0 then { d.fleet with secc := l ++ [f 32 8] } else { d.fleet with fwsc := l ++ [f 32 8] }) 0 := by
  intro d f l
  have hrefused : (decide (1 < f 24 1) || decide (f 32 8 ≤ l.foldl max 0)) = true ↔ f 32 8 ≤ l.foldl max 0 := by
    simp [f, hwhich]
  show execAdvance s = _
  split
  · exact fleetRecord_taken h hok (if_pos (hrefused.mpr ‹_›))
  · rename_i hnew
    split
    · exact fleetRecord_taken h hok ((if_neg (mt hrefused.mp hnew)).trans (if_pos ‹_›))
    · rename_i hroom
      refine fleetRecord_taken h hok ((if_neg (mt hrefused.mp hnew)).trans ((if_neg hroom).trans ?_))
      by_cases hcode : f 24 1 = 0
      · exact (if_pos hcode).trans (by rw [if_pos hcode]; rfl)
      · exact (if_neg hcode).trans (by rw [if_neg hcode]; rfl)

theorem advance_refused (hok : FleetOk s.dev r [(24, 1), (32, 8)]) (hwhich : 1 < field r 24 1) :
    exec .advance s = fleetAnswered s ten m r s.dev.fleet 1 := by
  show execAdvance s = _
  exact fleetRecord_taken h hok (if_pos (by rw [decide_eq_true (show 1 < recNum r 24 1 from hwhich)]; rfl))

theorem keyadd_answers (hok : FleetOk s.dev r [(24, 2), (32, 48)]) :
    let d := s.dev
    let f := field r
    let x := vget d.fleet.keys (f 25 1) {}
    exec .keyadd s =
      if f 24 1 = 0 ∧ f 25 1 ≤ 7 ∧ x.digest = none
      then fleetAnswered s ten m r { d.fleet with keys := vset d.fleet.keys (f 25 1) { x with digest := some (toLe 48 (f 32 48)) } } 0
      else fleetAnswered s ten m r d.fleet 1 := by
  intro d f x
  have hwrong : (decide (f 24 1 ≠ 0) || decide (7 < f 25 1) || x.digest.isSome) = false ↔ f 24 1 = 0 ∧ f 25 1 ≤ 7 ∧ x.digest = none := by
    simp [and_assoc]
  show execKeyadd s = _
  exact fleetRecord_checked h hok hwrong rfl

theorem keyrev_answers (hok : FleetOk s.dev r [(24, 2)]) :
    let d := s.dev
    let f := field r
    let x := vget d.fleet.keys (f 25 1) {}
    exec .keyrev s =
      if f 24 1 = 0 ∧ f 25 1 ≤ 7 ∧ x.digest ≠ none
      then fleetAnswered s ten m r { d.fleet with keys := vset d.fleet.keys (f 25 1) { x with revoked := true } } 0
      else fleetAnswered s ten m r d.fleet 1 := by
  intro d f x
  have hwrong : (decide (f 24 1 ≠ 0) || decide (7 < f 25 1) || x.digest.isNone) = false ↔ f 24 1 = 0 ∧ f 25 1 ≤ 7 ∧ x.digest ≠ none := by
    simp [and_assoc, Option.isSome_iff_ne_none]
  show execKeyrev s = _
  exact fleetRecord_checked h hok hwrong rfl

end records

end Sys2Proof.Proofs
end

section
/-! The power arbiter, the monitors, the L2's modes and lockstep (R409 to R417): what each step leaves. -/

namespace Sys2Proof.Proofs
open Machine Claim Laws

variable {s : State} {k j : Nat}

/-! ### The power arbiter (R409, R412, R413, R415) -/

/-- The arbiter's grants after its readings (R409). -/
def arbiterGrants (x : Sensors) (dies : List Nat) (a : Dev) : Dev :=
  let lim := powerLimit a x
  let warm := dies.filter fun k => decide (8 * (a.fleet.twarn : Int) < (dieOfFleet a k).temp)
  if lim < (x.pkg : Int) || !warm.isEmpty then
    warm.foldl (fun e k => lower k e)
      (match firstDie dies (fun i j => decide (x.diePower.getD j 0 < x.diePower.getD i 0)) with | some k => lower k a | none => a)
  else if 20 * (x.pkg : Int) < 19 * lim then
    (match firstDie dies (fun i j => decide ((dieOfFleet a i).grant < (dieOfFleet a j).grant)) with
      | some k => modDie k (fun y => { y with grant := min 1000 (y.grant + 25) }) a | none => a)
  else a

/-- The throttle reasons, once a die at TCRIT runs at 400 MHz (R409, R412). -/
def arbiterReasons (x : Sensors) (dies : List Nat) (b : Dev) : Dev :=
  dies.foldl (fun e k => modDie k (fun y => { y with reasons := reasonsOf e x k y }) e)
    (dies.foldl (fun e k => modDie k (fun y => if y.tcrit then { y with grant := 400 } else y) e) b)

/-- Whether a limit holds a grant down, which is an event (R413). -/
def arbiterHeld (x : Sensors) (dies : List Nat) (lim : Int) (g : Dev) : Bool :=
  decide (19 * lim ≤ 20 * (x.pkg : Int)) && dies.any fun k => decide ((dieOfFleet g k).grant < 1000)

theorem powerArbiterStep_eq {x : Sensors} (hturn : s.turn = .sensors x) :
    let dies := List.range (dieCount s.dev)
    let a := dies.foldl (readDie x) { s.dev with fleet := { s.dev.fleet with pkg := x.pkg, mod := x.mod } }
    let g := arbiterReasons x dies (arbiterGrants x dies a)
    exec .powerArbiterStep s = became s (dies.foldl railStep (if arbiterHeld x dies (powerLimit a x) g then fleetEvent 2 g else g)) := by
  intro dies a g
  show execPowerArbiterStep s = _
  refine runEvent_became ?_
  rw [hturn]
  rfl

theorem powerArbiter_steps {x : Sensors} (hturn : s.turn = .sensors x) :
    let d := s.dev
    let dies := List.range (dieCount d)
    let a := dies.foldl (readDie x) { d with fleet := { d.fleet with pkg := x.pkg, mod := x.mod } }
    let lim := powerLimit a x
    let warm := dies.filter fun k => decide (8 * (a.fleet.twarn : Int) < (dieOfFleet a k).temp)
    let down (k : Nat) (e : Dev) : Dev := modDie k (fun y => { y with grant := max 400 (y.grant - 25) }) e
    let b := if lim < (x.pkg : Int) ∨ warm ≠ [] then
        warm.foldl (fun e k => down k e)
          (match firstDie dies (fun i j => decide (x.diePower.getD j 0 < x.diePower.getD i 0)) with | some k => down k a | none => a)
      else if 20 * (x.pkg : Int) < 19 * lim then
        (match firstDie dies (fun i j => decide ((dieOfFleet a i).grant < (dieOfFleet a j).grant)) with
          | some k => modDie k (fun y => { y with grant := min 1000 (y.grant + 25) }) a | none => a)
      else a
    let c := dies.foldl (fun e k => modDie k (fun y => if y.tcrit then { y with grant := 400 } else y) e) b
    let g := dies.foldl (fun e k => modDie k (fun y => { y with reasons := reasonsOf e x k y }) e) c
    exec .powerArbiterStep s = became s (dies.foldl railStep
      (if 19 * lim ≤ 20 * (x.pkg : Int) ∧ (∃ k ∈ dies, (dieOfFleet g k).grant < 1000) then fleetEvent 2 g else g)) := by
  intro d dies a lim warm down b c g
  have hover : (decide (lim < (x.pkg : Int)) || !warm.isEmpty) = true ↔ lim < (x.pkg : Int) ∨ warm ≠ [] := by simp
  have hb : arbiterGrants x dies a = b := if_congr hover rfl rfl
  have hg : arbiterReasons x dies (arbiterGrants x dies a) = g := congrArg (arbiterReasons x dies) hb
  have hheld : arbiterHeld x dies lim g = true ↔ 19 * lim ≤ 20 * (x.pkg : Int) ∧ ∃ k ∈ dies, (dieOfFleet g k).grant < 1000 := by
    simp [arbiterHeld]
  refine (powerArbiterStep_eq hturn).trans ?_
  rw [show arbiterReasons x _ (arbiterGrants x _ _) = g from hg, if_congr hheld rfl rfl]

/-! ### The monitors (R410 to R413, R415) -/

section die
variable (hturn : s.turn = .agent k j) (hdie : k < dieCount s.dev)
include hturn hdie

theorem droopStretch_sets : exec .droopStretch s = became s (modDie k (fun y => { y with reasons := y.reasons ||| 16#5 }) s.dev) := by
  show execDroopStretch s = _
  refine runEvent_became ?_
  rw [hturn]
  exact if_neg (not_le.mpr hdie)

theorem droopEnd_clears : exec .droopEnd s = became s (modDie k (fun y => { y with reasons := y.reasons &&& 15#5 }) s.dev) := by
  show execDroopEnd s = _
  refine runEvent_became ?_
  rw [hturn]
  exact if_neg (not_le.mpr hdie)

theorem tcritReached_lowers (hcool : (dieOfFleet s.dev k).tcrit = false) : exec .tcritReached s =
    became s (fleetEvent 1 (modDie k (fun y => { y with tcrit := true, grant := 400, reasons := y.reasons ||| 8#5 }) s.dev)) := by
  show execTcritReached s = _
  refine runEvent_became ?_
  rw [hturn]
  exact if_neg (by simp [hdie, hcool])

theorem thermalShutdown_takes_power : exec .thermalShutdown s = became s { s.dev with fleet := { s.dev.fleet with off := true } } := by
  show execThermalShutdown s = _
  refine runEvent_became ?_
  rw [hturn]
  exact if_neg (not_le.mpr hdie)

theorem sramRailBelowVth_strengthens :
    let e := modDie k (fun y => { y with sram := Config.freeNat s.dev.drawn % Config.vth k }) { s.dev with drawn := s.dev.drawn + 1 }
    exec .sramRailBelowVth s = became s (if (dieOfFleet e k).decTed then e else fleetEvent 3 (modDie k (fun y => { y with decTed := true }) e)) := by
  intro e
  show execSramRailBelowVth s = _
  refine runEvent_became ?_
  rw [hturn]
  exact if_neg (not_le.mpr hdie)

theorem railRecoveryTimeout_relaxes (hstrong : (dieOfFleet s.dev k).decTed = true) (hrail : Config.vth k + 20 < (dieOfFleet s.dev k).sram) :
    exec .railRecoveryTimeout s = became s (fleetEvent 3 (modDie k (fun y => { y with decTed := false }) s.dev)) := by
  show execRailRecoveryTimeout s = _
  refine runEvent_became ?_
  rw [hturn]
  refine (if_neg (by simp [hdie, hstrong, hrail])).trans ?_
  rw [l2Switch, if_neg (by simp [hstrong])]

end die

/-! ### Lockstep (R417) -/

theorem signalMsi_drawn (n v : Nat) (d : Dev) : (signalMsi n v d).drawn = d.drawn := by
  unfold signalMsi sendMsi
  split_ifs <;> rfl

theorem signalMsi_retried (n v : Nat) (d : Dev) : (signalMsi n v d).fleet.retried = d.fleet.retried := by
  unfold signalMsi sendMsi
  split_ifs <;> rfl

/-- A fleet event draws no free value, and leaves the record of retried pairs. -/
theorem fleetEvent_drawn (n : Nat) (d : Dev) : (fleetEvent n d).drawn = d.drawn := signalMsi_drawn ..

theorem fleetEvent_retried (n : Nat) (d : Dev) : (fleetEvent n d).fleet.retried = d.fleet.retried := signalMsi_retried ..

theorem lockstepMismatch_counts (hturn : s.turn = .agent k j) (hpair : k < pairCount s.dev) (hsound : s.dev.fleet.failed.getLsbD k = false)
    (hwatched : s.dev.fleet.unprot = false) :
    let d := s.dev
    let e := fleetEvent 4 d
    let f : Dev := { e with drawn := d.drawn + 1 }
    exec .lockstepMismatch s = became s (if d.fleet.retried.getLsbD k = true ∧ Config.freeNat d.drawn % 2 = 1 then failPair k f
      else { f with fleet := { f.fleet with retried := f.fleet.retried ||| BitVec.ofNat 16 (2 ^ k) } }) := by
  intro d e f
  have hdrawn : d.drawn = e.drawn := (fleetEvent_drawn 4 d).symm
  have hretried : d.fleet.retried = e.fleet.retried := (fleetEvent_retried 4 d).symm
  have hagain : (e.fleet.retried.getLsbD k && decide (Config.freeNat e.drawn % 2 = 1)) = true ↔
      d.fleet.retried.getLsbD k = true ∧ Config.freeNat d.drawn % 2 = 1 := by rw [hdrawn, hretried]; simp
  have hf : f = { e with drawn := e.drawn + 1 } := by simp only [f, hdrawn]
  show execLockstepMismatch s = _
  refine runEvent_became ?_
  rw [hturn, if_congr hagain.symm rfl rfl, hf]
  refine (if_neg (by simp [hpair, hsound, hwatched])).trans ?_
  exact (apply_ite some _ _ _).symm

/-- Settles O59: a FLEET record by what it sets or the status that it answers, and each step by the device that it leaves. -/
theorem fleetResults : Obligations.FleetResults := by
  unfold Obligations.FleetResults
  refine ⟨?records, ?steps⟩
  case records =>
    intro s ten m r h hspare hstat d f answered
    exact ⟨fun hrest => power_answers h ⟨hspare, hstat, hrest⟩, fun hrest => ras_answers h ⟨hspare, hstat, hrest⟩,
      fun hrest => advance_answers h ⟨hspare, hstat, hrest⟩, fun hrest => advance_refused h ⟨hspare, hstat, hrest⟩,
      fun hrest => keyadd_answers h ⟨hspare, hstat, hrest⟩, fun hrest => keyrev_answers h ⟨hspare, hstat, hrest⟩⟩
  case steps =>
    intro s d
    exact ⟨fun x => powerArbiter_steps, fun k j hturn =>
      ⟨fun hdie => ⟨droopStretch_sets hturn hdie, droopEnd_clears hturn hdie, tcritReached_lowers hturn hdie, thermalShutdown_takes_power hturn hdie,
        sramRailBelowVth_strengthens hturn hdie, railRecoveryTimeout_relaxes hturn hdie⟩,
      lockstepMismatch_counts hturn⟩⟩

end Sys2Proof.Proofs
end
